-- ==== Sys2Proof/Word.lean ====
section
/-! DEFINITION. The word types and their plainest arithmetic: bytes and their little-endian order (R4, R34),
two's-complement reading of a bit field, and the finite numberings of the part's units (R19). -/

namespace Sys2Proof

abbrev Byte := BitVec 8
abbrev Word32 := BitVec 32
abbrev Word64 := BitVec 64
/-- The 32 bytes of a sheaf; byte 0 is bits [7:0] (R34). -/
abbrev SheafBits := BitVec 256

/-- A value written as `n` bytes, least significant byte first. -/
def leBytes : Nat → Nat → List Byte
  | 0, _ => []
  | n + 1, v => BitVec.ofNat 8 v :: leBytes n (v / 256)

/-- The value of bytes read least significant byte first. -/
def ofLeBytes : List Byte → Nat
  | [] => 0
  | b :: r => b.toNat + 256 * ofLeBytes r

/-- Bits [hi:lo] of a natural number. -/
def bitsOf (v hi lo : Nat) : Nat := (v >>> lo) % 2 ^ (hi + 1 - lo)

/-- A `w`-bit field read in two's complement. -/
def sext (w n : Nat) : Int :=
  if n % 2 ^ w < 2 ^ (w - 1) then (n % 2 ^ w : Nat) else (n % 2 ^ w : Nat) - (2 ^ w : Nat)

/-- An integer written as a `w`-bit two's-complement field. -/
def toField (w : Nat) (z : Int) : Nat := (z % (2 ^ w : Nat)).toNat

/-- `n` rounded up to a multiple of `a`. -/
def alignUp (n a : Nat) : Nat := (n + a - 1) / a * a

/-- The quotient rounded up; 0 where the divisor is 0. -/
def ceilDiv (a b : Nat) : Nat := (a + b - 1) / b

/-- A 0 or 1 for a flag. -/
def bit (b : Bool) : Nat := if b then 1 else 0

/-- The units of the part, numbered as R19 numbers them. -/
abbrev Tile := Fin 1536
abbrev CDie := Fin 24
abbrev MDie := Fin 4
abbrev LDie := Fin 3
abbrev Die := Fin 32
abbrev Part := Fin 16
abbrev Link := Fin 36
abbrev Chan := Fin 96
/-- A PCI Express function: 0 is the physical function, p + 1 is virtual function p + 1 (R402). -/
abbrev Fun := Fin 17
/-- A clock island by its island id (R24). -/
abbrev Island := Fin 1701

/-- The compute die of a tile and the tile's number within it (R19). -/
def Tile.dieNo (g : Nat) : Nat := g / 64
def Tile.inDie (g : Nat) : Nat := g % 64
def Tile.clusterNo (g : Nat) : Nat := (g % 64) / 8

end Sys2Proof
end

