-- ==== Sys2Proof/Syntax.lean ====
section
/-! DEFINITION. The commands and events of the part: the ONE inductive `Instr`, with one constructor per row of the
opcode table, and the small types its operands use. -/

namespace Sys2Proof

/-- The six engines of a tile, in the order of R76 (e = 0 to 5). -/
inductive Eng where
  | le | me | ve | aw | se | ne
deriving DecidableEq, Repr

/-- The signal field of an instruction: the alias signalled, 63 for none, and the increment 1 to 32 (R129). -/
structure Sig where
  alias_ : Nat
  inc : Nat
deriving DecidableEq, Repr

/-- The class of a unit on the bulk network (R213). -/
inductive UClass where
  | req | load | recv | place
deriving DecidableEq, Repr

/-- A port of the Loft asking for a bank in the present tile cycle; ports are numbered in the priority order of R91:
0 arrivals, 1 ME, 2 VE, 3 AW, 4 LE, 5 SE, 6 NE, 7 the control/debug port. -/
structure BankReq where
  port : Nat
  bank : Nat
deriving DecidableEq, Repr

/-- A tile set of a mailbox command (R440): every tile of the partition, a cluster mask per die, or one tile. -/
inductive TileSet where
  | all
  | clusters (masks : List (BitVec 8))
  | one (g : Nat)
deriving DecidableEq, Repr

/-- A node of the barrier tree (R195). -/
inductive BNode where
  | cluster (d : CDie) (c : Fin 8)
  | die (d : CDie)
  | pkg
  | fab
deriving DecidableEq, Repr

/-- The states a bank can be asked for (R95). -/
inductive Pwr where
  | on | ret | off
deriving DecidableEq, Repr

/-- The table of regions a write goes to: a memory die's, the steward gateway's, or a compute die's (R344). -/
inductive RgnTab where
  | mem (m : MDie)
  | hst
  | die (d : CDie)
deriving DecidableEq, Repr

/-- What a channel's slot holds, as presence detect reads it (R324, R326): whether it is an MRDIMM, its capacity as CH_STAT
codes it, and its highest rated speed: 0 below 8,800 MT/s, 1 to 3 for 8,800, 12,800 and 14,400 MT/s. -/
structure Dimm where
  mrdimm : Bool
  cap : Fin 4
  rated : Fin 4
deriving DecidableEq, Repr

/-- Why a link goes DOWN (R352, R363, R525). -/
inductive DownWhy where
  | lock | silent | replays | beacon | refclk
deriving DecidableEq, Repr

/-- A barrier message, a beacon or any other flit as its 288 bytes (R357). -/
abbrev FlitBytes := List Byte

/-- One ring's setting in PART_RINGS (R432): ring number, base, LOG2N, on or off. -/
structure RingSet where
  ring : Fin 6
  base : Nat
  log2n : Nat
  on : Bool
deriving DecidableEq, Repr

/-- A control core: 0 to 3 of the steward, 4 + d the die sequencer core of compute die d (R434). -/
abbrev CoreNo := Fin 28

/-- The ordinary instructions of a control core, by class (R435): the manual names the classes and gives no opcodes. -/
inductive AluOp where
  | add | sub | and | or | xor | shl | shr | sar | slt | sltu | mul | mulhu | div | rem
deriving DecidableEq, Repr

inductive BrOp where
  | eq | ne | lt | ge | ltu | geu
deriving DecidableEq, Repr

inductive BcOp where
  | alu (op : AluOp) (a b c : Fin 32)
  | alui (op : AluOp) (a b : Fin 32) (imm : BitVec 16)
  | load (bytes : Nat) (signed : Bool) (a b : Fin 32) (imm : BitVec 16)
  | store (bytes : Nat) (a b : Fin 32) (imm : BitVec 16)
  | branch (op : BrOp) (a b : Fin 32) (imm : BitVec 16)
  | jump (off : BitVec 26)
  | jumpLink (off : BitVec 26)
  | jumpReg (b : Fin 32)
  | illegal (word : Word32)
deriving DecidableEq, Repr

/-- What one allotment period measured of a tile island (R446, R451): its level in quarters and the ME's activity in
units of 1/256 of its peak rate. -/
structure TileMeas where
  tile : Tile
  level : Nat
  act : Nat
deriving DecidableEq, Repr

/-- The frame of a session command (R477): session id, counter, and the first 16 bytes of its HMAC. -/
structure SesAuth where
  sid : Nat
  ctr : Nat
  mac : List Byte
deriving DecidableEq, Repr

/-- The security events of R491. -/
inductive SecEvt where
  | stale | authFail | heldKey
deriving DecidableEq, Repr

/-- A PCI Express configuration request (R503, R500, R399): Bus Master Enable of a function, VF Enable of a port, or a
request that changes neither. -/
inductive CfgReq where
  | busMaster (fn : Fun) (on : Bool)
  | vfEnable (on : Bool)
  | other
deriving DecidableEq, Repr

/-- A TAP instruction (R539). -/
inductive TapOp where
  | bypass | idcode | sample | extest
  | other (code : Nat)
deriving DecidableEq, Repr

/-- What bring-up finds outside the part's own state (R484, R485, R502): the images the boot flash presents, copies A and
B of each stage, the row of R483 that fails (0 for none), the modules in the channels with the outcome of their two
trainings, the tiles' failing lines, the islands whose critical path is short, and the lanes of each link. -/
structure BootIn where
  loader : List (List Byte)
  steward : List (List Byte)
  die : List (List Byte)
  failTest : Nat
  dimms : List (Option Dimm)
  trainFails : List (Nat × Nat)
  marchFails : List (Nat × Nat × Nat)
  short : List Nat
  lanes : List Bool
deriving DecidableEq, Repr

/-- The commands and events of the part: one constructor per row of the opcode table, in the table's order. Every unit
number is of its finite type (R19); the ranges of the other operands are WellFormed's. -/
inductive Instr where
  /-- REGISTER_WRITE (R5) -/
  | registerWrite (fn : Fun) (addr : Nat) (bytes : Nat) (value : Word64)
  /-- MB_DB_GO (R441) -/
  | mbDbGo (fn : Fun)
  /-- MAILBOX_TAKE_UP (R441) -/
  | mailboxTakeUp
  /-- FW_INFO (R444) -/
  | fwInfo (fn : Fun)
  /-- PKG_LOCATE (R444) -/
  | pkgLocate (fn : Fun) (rack : Nat)
  /-- STW_LOC_WRITE (R22) -/
  | stwLocWrite (value : Word32)
  /-- BRIDGE_RETRAIN_TIMEOUT (R17) -/
  | bridgeRetrainTimeout (m : Fin 230)
  /-- ADAPTER_RETRY (R17) -/
  | adapterRetry (m : Fin 230)
  /-- ISLAND_HANDSHAKE (R26) -/
  | islandHandshake (src : Island) (dst : Island)
  /-- ARITH_SEED (R71) -/
  | arithSeed (fn : Fun) (p : Part) (seed : Word64)
  /-- WINNOW_SET (R71) -/
  | winnowSet (fn : Fun) (rate : Nat) (sample : Bool) (fault : Bool)
  /-- ARITH_STATS (R71) -/
  | arithStats (fn : Fun) (p : Part) (clr : Bool)
  /-- WINNOW_COMPARE (R69) -/
  | winnowCompare (d : CDie)
  /-- WNW_LOGPTR_CNTCLR (R73) -/
  | wnwLogptrCntclr (d : CDie)
  /-- WNW_LOGPTR_LOSTCLR (R70) -/
  | wnwLogptrLostclr (d : CDie)
  /-- TIL_ARSTAT_CNTCLR (R74) -/
  | tilArstatCntclr (g : Tile)
  /-- TIL_RNG_WRITE (R56) -/
  | tilRngWrite (g : Tile) (v : Word64)
  /-- INSTRUCTION_COMPLETE (R78) -/
  | instructionComplete (g : Tile) (e : Eng) (i : Nat)
  /-- FETCH_PACKET_RETURN (R126) -/
  | fetchPacketReturn (g : Tile) (e : Eng) (failed : Bool)
  /-- FETCH_PACKET_TIMEOUT (R127) -/
  | fetchPacketTimeout (g : Tile) (e : Eng)
  /-- ARRIVAL_UNIT (R160) -/
  | arrivalUnit (g : Tile) (reqs : List BankReq)
  /-- INSTRUCTION_ISSUE (R77) -/
  | instructionIssue (g : Tile) (e : Eng) (reqs : List BankReq)
  /-- BNK_PWR_WRITE (R97) -/
  | bnkPwrWrite (g : Tile) (b : Fin 32) (code : Fin 4)
  /-- BANK_TRANSITION_END (R96) -/
  | bankTransitionEnd (g : Tile) (b : Fin 32)
  /-- TIL_CTL_RUN (R104) -/
  | tilCtlRun (g : Tile) (run : BitVec 6)
  /-- TIL_CTL_ILV (R104) -/
  | tilCtlIlv (g : Tile) (v : Fin 8)
  /-- SRST (R101) -/
  | srst (g : Tile)
  /-- TIL_FAULT_CLR (R106) -/
  | tilFaultClr (g : Tile)
  /-- BNK_DCTL_GO (R115) -/
  | bnkDctlGo (g : Tile) (wr : Bool) (psn : BitVec 2)
  /-- DEBUG_LINE_DONE (R115) -/
  | debugLineDone (g : Tile)
  /-- TIL_CNTCTL_CLR (R123) -/
  | tilCntctlClr (g : Tile)
  /-- TILE_RUN (R102) -/
  | tileRun (fn : Fun) (p : Part) (ts : TileSet) (engs : BitVec 6) (run : Bool)
  /-- TILE_STATUS (R102) -/
  | tileStatus (fn : Fun) (p : Part)
  /-- LOFT_POWER (R102) -/
  | loftPower (fn : Fun) (p : Part) (ts : TileSet) (banks : Word32) (pw : Pwr)
  /-- LOFT_READ (R102) -/
  | loftRead (fn : Fun) (g : Tile) (addr : Nat) (n : Nat)
  /-- LOFT_WRITE (R102) -/
  | loftWrite (fn : Fun) (g : Tile) (addr : Nat) (data : List Byte) (psn : List Bool)
  /-- TILE_STATS (R102) -/
  | tileStats (fn : Fun) (p : Part) (clr : Bool)
  /-- TILE_RESET (R102) -/
  | tileReset (fn : Fun) (p : Part) (ts : TileSet)
  /-- TILE_CONFIG (R102) -/
  | tileConfig (fn : Fun) (p : Part) (ts : TileSet) (ilv : Nat)
  /-- NOP (R133) -/
  | nop (g : Tile) (e : Eng) (h : Sig)
  /-- FENCE (R133) -/
  | fence (g : Tile) (e : Eng) (h : Sig)
  /-- END (R133) -/
  | endStream (g : Tile) (e : Eng) (h : Sig)
  /-- LOOP (R134) -/
  | loop (g : Tile) (e : Eng) (h : Sig) (k : Fin 4) (n : BitVec 16) (len : Nat)
  /-- JMP (R135) -/
  | jmp (g : Tile) (e : Eng) (h : Sig) (off : BitVec 30)
  /-- BRV (R136) -/
  | brv (g : Tile) (e : Eng) (h : Sig) (point : BitVec 8) (v : Nat)
  /-- YIELD (R165) -/
  | yield (g : Tile) (e : Eng) (h : Sig) (yid : BitVec 16)
  /-- HINT (R138) -/
  | hint (g : Tile) (e : Eng) (h : Sig) (cls : Nat) (lead : BitVec 12) (dur : BitVec 12) (level : Fin 4)
  /-- LD (R150) -/
  | ld (g : Tile) (h : Sig) (da : Fin 64) (db : Fin 64)
  /-- LDQ (R150) -/
  | ldq (g : Tile) (h : Sig) (n : Nat)
  /-- CPY (R150) -/
  | cpy (g : Tile) (h : Sig) (da : Fin 64) (db : Fin 64)
  /-- ACOPY (R150) -/
  | acopy (g : Tile) (h : Sig) (da : Fin 64) (db : Fin 64)
  /-- LDD (R150) -/
  | ldd (g : Tile) (h : Sig) (eng : Nat) (off : BitVec 27)
  /-- MM (R153) -/
  | mm (g : Tile) (h : Sig) (da : Fin 64) (db : Fin 64) (dc : Fin 64) (strip : Fin 4) (acc : Bool) (mq : Bool)
  /-- RQ (R154) -/
  | rq (g : Tile) (h : Sig) (da : Fin 64) (db : Fin 64) (dc : Fin 64)
  /-- NORM (R154) -/
  | norm (g : Tile) (h : Sig) (da : Fin 64) (db : Fin 64) (dc : Fin 64)
  /-- EMUL (R154) -/
  | emul (g : Tile) (h : Sig) (da : Fin 64) (db : Fin 64) (dc : Fin 64) (relu : Bool)
  /-- LANE (R154) -/
  | lane (g : Tile) (h : Sig) (da : Fin 64) (db : Fin 64) (dc : Fin 64) (op : Nat)
  /-- FN (R154) -/
  | fn (g : Tile) (h : Sig) (da : Fin 64) (dc : Fin 64) (f : Nat)
  /-- RED (R154) -/
  | red (g : Tile) (h : Sig) (da : Fin 64) (dc : Fin 64) (mx : Bool)
  /-- SMX (R154) -/
  | smx (g : Tile) (h : Sig) (da : Fin 64) (db : Fin 64) (dc : Fin 64)
  /-- WALK (R156) -/
  | walk (g : Tile) (h : Sig) (da : Fin 64)
  /-- ST (R157) -/
  | st (g : Tile) (h : Sig) (da : Fin 64) (db : Fin 64)
  /-- STA (R157) -/
  | sta (g : Tile) (h : Sig) (da : Fin 64) (db : Fin 64)
  /-- ATOM (R157) -/
  | atom (g : Tile) (h : Sig) (da : Fin 64) (db : Fin 64) (op : Nat)
  /-- SEND (R158) -/
  | send (g : Tile) (h : Sig) (da : Fin 64) (seg : Bool) (empty : Bool)
  /-- RECV (R158) -/
  | recv (g : Tile) (h : Sig) (db : Fin 64) (seg : Bool)
  /-- TILE_PARK (R165) -/
  | tilePark (g : Tile)
  /-- TIL_YREQ_WRITE (R165) -/
  | tilYreqWrite (g : Tile) (req : Bool)
  /-- TIL_SPC_WRITE (R128) -/
  | tilSpcWrite (g : Tile) (e : Eng) (off : Nat)
  /-- TIL_PBASE_WRITE (R167) -/
  | tilPbaseWrite (g : Tile) (addr : Word64)
  /-- TIL_DBASE_WRITE (R173) -/
  | tilDbaseWrite (g : Tile) (e : Eng) (base : Nat)
  /-- TIL_VAR_WRITE (R136) -/
  | tilVarWrite (g : Tile) (j : Fin 4) (point : BitVec 8) (variant : BitVec 6) (valid : Bool)
  /-- PROG_LOAD (R166) -/
  | progLoad (fn : Fun) (p : Part) (addr : Word64) (ts : TileSet)
  /-- PROG_START (R166) -/
  | progStart (fn : Fun) (p : Part) (ts : TileSet) (k : Nat) (init : Bool)
  /-- PROG_WHERE (R166) -/
  | progWhere (fn : Fun) (g : Tile)
  /-- SEMAPHORE_SIGNAL (R181) -/
  | semaphoreSignal (g : Tile) (e : Eng) (a : Fin 63) (inc : Nat) (iaddr : Word32)
  /-- POOL_BATCH (R184) -/
  | poolBatch (g : Tile)
  /-- WAIT_TIMER_EXPIRY (R188) -/
  | waitTimerExpiry (g : Tile) (e : Eng)
  /-- SEGMENT_CLOSE (R192) -/
  | segmentClose (g : Tile) (n : Fin 64)
  /-- BARRIER_ARRIVAL (R196) -/
  | barrierArrival (node : BNode) (ch : Fin 64) (child : Nat) (e : Eng) (iaddr : Word32)
  /-- BARRIER_RELEASE (R196) -/
  | barrierRelease (node : BNode) (ch : Fin 64)
  /-- PKN_SARR (R200) -/
  | pknSarr (ch : Fin 64)
  /-- SYN_SEM_WRITE (R180) -/
  | synSemWrite (d : CDie) (i : Fin 2048) (value : Word32)
  /-- TIL_ALIAS_WRITE (R206) -/
  | tilAliasWrite (g : Tile) (a : Fin 63) (value : Word32)
  /-- TIL_ARC_WRITE (R207) -/
  | tilArcWrite (g : Tile) (n : Fin 64) (value : Word64)
  /-- NODE_CHANNEL_WRITE (R209) -/
  | nodeChannelWrite (node : BNode) (ch : Fin 64) (value : Word64)
  /-- SYNC_QUOTA (R205) -/
  | syncQuota (fn : Fun) (p : Part) (dies : BitVec 24) (groups : Nat)
  /-- SYNC_MAP (R205) -/
  | syncMap (fn : Fun) (p : Part) (g : Tile) (a : Nat) (type : Nat) (idx : Nat) (count : Nat) (quant : Nat) (mode : Nat)
  /-- SYNC_CHANNEL (R205) -/
  | syncChannel (fn : Fun) (p : Part) (ch : Nat) (ts : TileSet) (scope : Nat) (schild : Bool)
  /-- SYNC_TIMEOUT (R205) -/
  | syncTimeout (fn : Fun) (p : Part) (ts : TileSet) (j : Nat) (cycles : Word32)
  /-- SYNC_REARM (R205) -/
  | syncRearm (fn : Fun) (p : Part) (g : Tile) (n : Nat) (count : Nat)
  /-- SYNC_STATUS (R205) -/
  | syncStatus (fn : Fun) (p : Part) (clr : Bool)
  /-- ROUTE_MOVE (R220) -/
  | routeMove (d : Die) (r : Fin 8) (o : Fin 17)
  /-- ROUTE_LOOP (R218) -/
  | routeLoop (d : Die) (r : Fin 8) (o : Fin 17)
  /-- ROUTE_BRV (R218) -/
  | routeBrv (d : Die) (r : Fin 8) (o : Fin 17)
  /-- ROUTE_JUMP (R217) -/
  | routeJump (d : Die) (r : Fin 8) (o : Fin 17)
  /-- ROUTE_HALT (R218) -/
  | routeHalt (d : Die) (r : Fin 8) (o : Fin 17)
  /-- ROUTESTALL (R226) -/
  | routestall (d : Die) (r : Fin 8) (o : Fin 17)
  /-- BNET_START (R222) -/
  | bnetStart (d : Die) (p : Part)
  /-- BNET_VAR_WRITE (R235) -/
  | bnetVarWrite (d : Die) (j : Fin 4) (point : BitVec 8) (variant : BitVec 6) (valid : Bool)
  /-- BNET_RPDATA_WRITE (R235) -/
  | bnetRpdataWrite (d : Die) (value : Word64)
  /-- BNET_FAULT_CLR (R223) -/
  | bnetFaultClr (d : Die)
  /-- GATEWAY_REQUEST (R227) -/
  | gatewayRequest (d : Fin 8) (port : Fin 4)
  /-- GATEWAY_DATA_RETURN (R227) -/
  | gatewayDataReturn (d : Fin 8) (id : Nat) (units : List (SheafBits × Bool))
  /-- GATEWAY_BOUND_EXPIRY (R229) -/
  | gatewayBoundExpiry (d : Fin 8) (id : Nat)
  /-- GW_QCFG_WRITE (R227) -/
  | gwQcfgWrite (fn : Fun) (d : Fin 8) (q : Fin 32) (value : Word64)
  /-- CONTROL_PACKET (R231) -/
  | controlPacket (typ : Fin 16) (dst : Die) (src : Die) (srcId : BitVec 11) (tag : Byte) (err : Bool) (addr : Word64) (payload : List Byte)
  /-- SYNC_MESSAGE (R234) -/
  | syncMessage (src : Die) (dst : Die)
  /-- ROUTE_PORTS (R236) -/
  | routePorts (fn : Fun) (p : Part) (d : Die) (outs : List (Nat × Nat)) (queues : List (Nat × Nat))
  /-- ROUTE_LOAD (R236) -/
  | routeLoad (fn : Fun) (p : Part) (d : Die) (addr : Word64)
  /-- ROUTE_START (R236) -/
  | routeStart (fn : Fun) (p : Part) (dies : Word32)
  /-- NET_STATUS (R236) -/
  | netStatus (fn : Fun) (p : Part)
  /-- NET_STATS (R236) -/
  | netStats (fn : Fun) (p : Part) (clr : Bool)
  /-- DIE_CNTCTL_CLR (R238) -/
  | dieCntctlClr (d : Die)
  /-- LE_FETCH_ENTRY (R254) -/
  | leFetchEntry (g : Tile)
  /-- ME_T_STRIP (R255) -/
  | meTStrip (g : Tile)
  /-- ME_S_STRIP (R255) -/
  | meSStrip (g : Tile)
  /-- ME_O_STRIP (R255) -/
  | meOStrip (g : Tile)
  /-- VE_Q_STEP (R265) -/
  | veQStep (g : Tile)
  /-- VE_X_STEP (R262) -/
  | veXStep (g : Tile)
  /-- VE_F_STEP (R264) -/
  | veFStep (g : Tile)
  /-- KV_LAYOUT (R270) -/
  | kvLayout (fn : Fun) (kf : Nat) (hw : Nat) (blk : Nat) (nslot : Nat) (nrb : Nat)
  /-- WALK_CHECK (R270) -/
  | walkCheck (fn : Fun) (p : Part) (daddr : Word64) (taddr : Word64)
  /-- ATTN_STATS (R270) -/
  | attnStats (fn : Fun) (p : Part) (clr : Bool)
  /-- SCORE_SEGMENT (R276) -/
  | scoreSegment (d : CDie)
  /-- CONFIDENCE_UNIT (R298) -/
  | confidenceUnit (d : CDie)
  /-- COUNT_REPORT (R288) -/
  | countReport (p : Part)
  /-- COUNT_ROW_TIMEOUT (R289) -/
  | countRowTimeout (p : Part)
  /-- POINT_DECIDE (R291) -/
  | pointDecide (p : Part)
  /-- EXIT_POINT_DECIDE (R299) -/
  | exitPointDecide (p : Part)
  /-- EXCHANGE_COPY (R284) -/
  | exchangeCopy (l : LDie) (port : Fin 2)
  /-- RUN_HEADER_PRESENT (R284) -/
  | runHeaderPresent (l : LDie) (q : Fin 32)
  /-- COPY_TIMEOUT (R301) -/
  | copyTimeout (p : Part)
  /-- PLAN_LOAD (R294) -/
  | planLoad (fn : Fun) (p : Part) (addr : Word64)
  /-- ROUTE_CONFIG (R302) -/
  | routeConfig (fn : Fun) (p : Part) (dies : BitVec 24) (k : Nat) (nexp : Nat) (nsh : Nat) (gate : Fin 4) (npos : Nat)
  /-- ROUTE_STATS (R302) -/
  | routeStats (fn : Fun) (p : Part) (clr : Bool)
  /-- STEP_STATUS (R302) -/
  | stepStatus (fn : Fun) (p : Part)
  /-- STEP_SPILLBUF (R302) -/
  | stepSpillbuf (fn : Fun) (p : Part) (addr : Word64) (size : Nat)
  /-- RTE_CFG_WRITE (R303) -/
  | rteCfgWrite (d : CDie) (second : Bool) (value : Word32)
  /-- RTE_CNTCTL_CLR (R304) -/
  | rteCntctlClr (d : CDie)
  /-- STEP_CNTCLR (R305) -/
  | stepCntclr (p : Part)
  /-- MEMORY_REQUEST (R312) -/
  | memoryRequest (d : Fin 8) (id : Nat)
  /-- MAP_ENTRY_READ (R311) -/
  | mapEntryRead (d : Fin 8) (page : Nat)
  /-- MOVE_START (R317) -/
  | moveStart (m : MDie)
  /-- MOVE_COMPLETE (R318) -/
  | moveComplete (page : Nat)
  /-- MOVE_FAIL (R319) -/
  | moveFail (page : Nat)
  /-- ACC_AGE (R320) -/
  | accAge
  /-- CHANNEL_TRAIN (R326) -/
  | channelTrain (n : Chan) (dimm : Option Dimm) (fail1 : Bool) (fail2 : Bool)
  /-- MODULE_TEMP_POLL (R325) -/
  | moduleTempPoll (n : Chan) (temp : Byte)
  /-- BURST_READ (R334) -/
  | burstRead (d : Fin 8) (id : Nat) (u : Nat) (bad : Nat)
  /-- PARTIAL_WRITE (R333) -/
  | partialWrite (d : Fin 8) (id : Nat) (bad : Nat)
  /-- MV_CMD_GO (R345) -/
  | mvCmdGo (m : MDie) (tgt : Fin 4)
  /-- MEM_RGN_WRITE (R344) -/
  | memRgnWrite (fn : Fun) (tab : RgnTab) (p : Part) (r : Fin 32) (upper : Word64)
  /-- MEM_REGION (R341) -/
  | memRegion (fn : Fun) (p : Part) (base : Word64) (size : Word64) (kind : Fin 16) (home : Fin 8) (enc : Bool) (reserve : Bool)
  /-- MEM_FREE (R341) -/
  | memFree (fn : Fun) (p : Part) (base : Word64)
  /-- MEM_QUOTA (R341) -/
  | memQuota (fn : Fun) (p : Part) (tier : Nat) (frames : List Nat)
  /-- MEM_REGULATE (R341) -/
  | memRegulate (fn : Fun) (p : Part) (tier : Nat) (rate : Nat) (depth : Nat) (on : Bool)
  /-- MEM_BOUND (R341) -/
  | memBound (fn : Fun) (p : Part) (bay : Nat) (cellar : Nat)
  /-- MEM_MOVE (R341) -/
  | memMove (fn : Fun) (p : Part) (addr : Word64) (pages : Nat) (tgt : Nat) (pkg : Nat) (hosts : List Word64)
  /-- MEM_QUERY (R341) -/
  | memQuery (fn : Fun) (addr : Word64)
  /-- STREAM_SET (R341) -/
  | streamSet (fn : Fun) (p : Part) (w : Nat) (on : Bool)
  /-- MEM_STATS (R341) -/
  | memStats (fn : Fun) (p : Part) (clr : Bool)
  /-- MEM_RETIRED (R337) -/
  | memRetired (fn : Fun) (m : MDie) (restore : Option (List Nat))
  /-- MEM_CHANNELS (R341) -/
  | memChannels (fn : Fun)
  /-- LINK_TRAIN (R351) -/
  | linkTrain (k : Link) (lanes : Bool) (ctrOk : Bool) (beacons : List (Nat × List Byte))
  /-- LINK_DOWN (R352) -/
  | linkDown (k : Link) (why : DownWhy)
  /-- LINK_RETRAIN (R352) -/
  | linkRetrain (k : Link) (lanes : Bool) (ctrOk : Bool) (beacons : List (Nat × List Byte))
  /-- IDLE_FLIT (R352) -/
  | idleFlit (k : Link)
  /-- FLIT_RECEIVE (R361) -/
  | flitReceive (k : Link) (flit : FlitBytes) (fecCorr : Nat) (fecUnc : Nat)
  /-- FLIT_REPLAY (R361) -/
  | flitReplay (k : Link)
  /-- BEACON (R363) -/
  | beacon (k : Link) (round : Nat) (payload : List Byte)
  /-- LOAD (R378) -/
  | loadMsg (k : Link) (second : Bool)
  /-- LDATA (R378) -/
  | ldata (k : Link) (second : Bool)
  /-- STORE (R378) -/
  | storeMsg (k : Link) (second : Bool)
  /-- ACCSTORE (R378) -/
  | accstore (k : Link) (second : Bool)
  /-- PLACE (R380) -/
  | placeMsg (k : Link) (second : Bool)
  /-- ATOMIC (R389) -/
  | atomicMsg (k : Link) (second : Bool)
  /-- ARESULT (R387) -/
  | aresult (k : Link) (second : Bool)
  /-- DONE (R378) -/
  | doneMsg (k : Link) (second : Bool)
  /-- COPY (R381) -/
  | copyMsg (k : Link) (second : Bool)
  /-- COUNTROW (R385) -/
  | countrow (k : Link) (second : Bool)
  /-- PAGE (R385) -/
  | pageMsg (k : Link) (rsp : Bool) (second : Bool)
  /-- SYNC (R385) -/
  | syncMsg (k : Link)
  /-- RELAY_FORWARD (R367) -/
  | relayForward (k : Link) (cls : Fin 3)
  /-- REMOTE_BOUND_EXPIRY (R382) -/
  | remoteBoundExpiry (l : LDie) (tag : Nat)
  /-- STORE_LOST (R383) -/
  | storeLost (l : LDie) (tag : Nat)
  /-- ATOMIC_RETRY (R387) -/
  | atomicRetry (l : LDie) (tag : Nat)
  /-- NOTICE_PROBE (R370) -/
  | noticeProbe (k : Link)
  /-- NOTICE_PROBE_ANSWER (R370) -/
  | noticeProbeAnswer (k : Link)
  /-- PROBE_TIMEOUT (R370) -/
  | probeTimeout (pkg : BitVec 12)
  /-- NOTICE_LOSS (R370) -/
  | noticeLoss (k : Link)
  /-- NOTICE_STEP_ABORT (R513) -/
  | noticeStepAbort (k : Link)
  /-- NOTICE_PARKING (R425) -/
  | noticeParking (k : Link)
  /-- NOTICE_REJOIN (R373) -/
  | noticeRejoin (k : Link)
  /-- FAB_MAP (R394) -/
  | fabMap (fn : Fun) (addr : Word64)
  /-- FAB_STATUS (R394) -/
  | fabStatus (fn : Fun)
  /-- FAB_MODE (R394) -/
  | fabMode (fn : Fun) (mode : Bool) (twin : Bool)
  /-- FAB_JOB (R394) -/
  | fabJob (fn : Fun) (p : Part) (job : Byte)
  /-- FAB_WINDOW (R394) -/
  | fabWindow (fn : Fun) (p : Part) (w : Fin 16) (lo : BitVec 12) (hi : BitVec 12) (base : Word64) (size : Word64) (perm : BitVec 4) (on : Bool)
  /-- FAB_BOUND (R394) -/
  | fabBound (fn : Fun) (p : Part) (us : Nat) (retry : Nat)
  /-- FAB_REGULATE (R394) -/
  | fabRegulate (fn : Fun) (p : Part) (rate : Nat) (depth : Nat) (on : Bool)
  /-- FAB_LINK (R394) -/
  | fabLink (fn : Fun) (k : Link) (act : Nat)
  /-- FAB_REJOIN (R394) -/
  | fabRejoin (fn : Fun) (pkg : BitVec 12)
  /-- FAB_INJECT (R394) -/
  | fabInject (fn : Fun) (k : Link) (mode : Fin 4) (rate : Nat) (win : Nat)
  /-- FAB_STATS (R394) -/
  | fabStats (fn : Fun) (p : Part) (clr : Bool)
  /-- FB_CTL_WRITE (R396) -/
  | fbCtlWrite (l : LDie) (value : Word32)
  /-- FB_RT_WRITE (R397) -/
  | fbRtWrite (l : LDie) (n : BitVec 12) (value : Word64)
  /-- LNK_INJ_WRITE (R392) -/
  | lnkInjWrite (k : Link) (value : Word64)
  /-- RING_PROD_WRITE (R404) -/
  | ringProdWrite (fn : Fun) (p : Part) (r : Fin 4) (value : Word32)
  /-- RING_CONS_WRITE (R404) -/
  | ringConsWrite (fn : Fun) (p : Part) (r : Fin 2) (value : Word32)
  /-- STEP_BOUNDARY (R430) -/
  | stepBoundary (p : Part)
  /-- STEP_RELEASE (R414) -/
  | stepRelease (p : Part)
  /-- START (R408) -/
  | startItem (p : Part) (r : Fin 4)
  /-- APPEND (R409) -/
  | appendItem (p : Part) (r : Fin 4)
  /-- PAUSE (R415) -/
  | pauseItem (p : Part) (r : Fin 4)
  /-- PAUSE_COMPLETE (R415) -/
  | pauseComplete (p : Part) (seqid : Word32)
  /-- RESUME (R416) -/
  | resumeItem (p : Part) (r : Fin 4)
  /-- CANCEL (R430) -/
  | cancelItem (p : Part) (r : Fin 4)
  /-- ITEM_END (R407) -/
  | itemEnd (p : Part) (r : Fin 4)
  /-- STEP (R427) -/
  | stepItem (p : Part) (r : Fin 4)
  /-- ITEM_COPY (R406) -/
  | itemCopy (p : Part) (r : Fin 4)
  /-- WLOAD (R420) -/
  | wload (p : Part) (r : Fin 4)
  /-- ITEM_ATOMIC (R406) -/
  | itemAtomic (p : Part) (r : Fin 4)
  /-- STRIPE_ARRIVAL (R419) -/
  | stripeArrival (p : Part) (n : Nat) (data : List Byte)
  /-- SEQUENCE_EXPIRE (R416) -/
  | sequenceExpire (p : Part) (seqid : Word32)
  /-- QUANTUM_EXPIRY (R426) -/
  | quantumExpiry (grp : Fin 16)
  /-- PARK_TIMEOUT (R426) -/
  | parkTimeout (p : Part)
  /-- VF_FLR (R402) -/
  | vfFlr (p : Part)
  /-- PART_CREATE (R432) -/
  | partCreate (fn : Fun) (p : Part) (clusters : List (BitVec 8))
  /-- PART_DESTROY (R432) -/
  | partDestroy (fn : Fun) (p : Part)
  /-- PART_RINGS (R432) -/
  | partRings (fn : Fun) (p : Part) (rings : List RingSet)
  /-- PART_SERVE (R432) -/
  | partServe (fn : Fun) (p : Part) (auto : Bool) (admits : Nat) (pchunk : Nat) (layerch : Nat) (layeren : Bool) (inarea : Word64) (verdict : Word64) (save : Word64)
  /-- ADAPTER_PUT (R417) -/
  | adapterPut (fn : Fun) (p : Part) (aid : Nat) (addr : Word64) (bytes : Nat)
  /-- ADAPTER_DROP (R432) -/
  | adapterDrop (fn : Fun) (p : Part) (aid : Nat)
  /-- WEIGHT_DIR (R432) -/
  | weightDir (fn : Fun) (p : Part) (addr : Word64)
  /-- SLICE_SET (R432) -/
  | sliceSet (fn : Fun) (p : Part) (grp : Nat) (quantum : Nat) (prio : Nat)
  /-- SERVE_STATS (R432) -/
  | serveStats (fn : Fun) (p : Part) (clr : Bool)
  /-- CLW (R436) -/
  | clw (c : CoreNo) (a : Fin 32) (b : Fin 32) (imm : BitVec 16)
  /-- CLD (R436) -/
  | cld (c : CoreNo) (a : Fin 32) (b : Fin 32) (imm : BitVec 16)
  /-- CSW (R436) -/
  | csw (c : CoreNo) (a : Fin 32) (b : Fin 32) (imm : BitVec 16)
  /-- CSD (R436) -/
  | csd (c : CoreNo) (a : Fin 32) (b : Fin 32) (imm : BitVec 16)
  /-- CFN (R436) -/
  | cfn (c : CoreNo)
  /-- CPK (R436) -/
  | cpk (c : CoreNo) (b : Fin 32) (imm : BitVec 16)
  /-- EVW (R436) -/
  | evw (c : CoreNo) (a : Fin 32) (b : Fin 32)
  /-- TIM (R436) -/
  | tim (c : CoreNo) (a : Fin 32)
  /-- BCE (R436) -/
  | bce (c : CoreNo) (imm : BitVec 16)
  /-- BILHA_C_INSTRUCTION (R435) -/
  | bilhaCInstruction (c : CoreNo) (op : BcOp)
  /-- EVENT_QUEUE_ENTRY (R437) -/
  | eventQueueEntry
  /-- ALLOTMENT_PERIOD (R446) -/
  | allotmentPeriod (others : Nat) (draw : Nat) (meas : List TileMeas)
  /-- HINT_REPORT (R450) -/
  | hintReport
  /-- DROOP_FIRE (R453) -/
  | droopFire (i : Island)
  /-- DROOP_RECOVER (R453) -/
  | droopRecover (i : Island)
  /-- AGEING_CHECK (R454) -/
  | ageingCheck (short : List Nat)
  /-- SENSOR_SAMPLE (R455) -/
  | sensorSample (n : Fin 239) (temp : Byte)
  /-- THERMAL_TRIP (R456) -/
  | thermalTrip (n : Fin 239) (temp : Byte)
  /-- CAP_WRITE (R458) -/
  | capWrite (tray : Bool) (watts : Nat) (rate : Nat)
  /-- CLK_ISL_ON_WRITE (R449) -/
  | clkIslOnWrite (i : Island) (on : Bool)
  /-- PWR_CNTCLR_CNT (R464) -/
  | pwrCntclrCnt
  /-- PWR_CNTCLR_BALE (R464) -/
  | pwrCntclrBale
  /-- PWR_CNTCLR_DROOP (R464) -/
  | pwrCntclrDroop
  /-- PWR_OVRPTR_CLR (R464) -/
  | pwrOvrptrClr
  /-- PWR_TS_CLR (R464) -/
  | pwrTsClr (n : Fin 239)
  /-- POWER_STATUS (R462) -/
  | powerStatus (fn : Fun) (clr : Bool)
  /-- POWER_CAP (R462) -/
  | powerCap (fn : Fun) (watts : Nat) (rate : Nat)
  /-- POWER_TARGET (R462) -/
  | powerTarget (fn : Fun) (p : Part) (code : Nat)
  /-- BALLAST_SET (R462) -/
  | ballastSet (fn : Fun) (on : Bool) (us : Nat)
  /-- THERMAL_STATUS (R462) -/
  | thermalStatus (fn : Fun) (clr : Bool)
  /-- AGE_LOG (R462) -/
  | ageLog (fn : Fun)
  /-- OVERRUN_LOG (R462) -/
  | overrunLog (fn : Fun) (clr : Bool)
  /-- ISLAND_POWER (R462) -/
  | islandPower (fn : Fun) (i : Island) (on : Bool)
  /-- DROOP_SET (R462) -/
  | droopSet (fn : Fun) (mv : Nat) (factor : Nat)
  /-- HINT_CONFIG (R462) -/
  | hintConfig (fn : Fun) (us : Nat)
  /-- SEC_STATUS (R494) -/
  | secStatus (fn : Fun)
  /-- SEC_SELFTEST (R483) -/
  | secSelftest (fn : Fun) (failTest : Nat)
  /-- SEC_IDENTITY (R468) -/
  | secIdentity (fn : Fun)
  /-- SEC_ATTEST (R489) -/
  | secAttest (fn : Fun) (nonce : List Byte) (first : Nat)
  /-- SEC_OPEN (R476) -/
  | secOpen (fn : Fun) (role : Nat) (key : List Byte) (ea : List Byte)
  /-- SEC_CONFIRM (R476) -/
  | secConfirm (fn : Fun) (sid : Nat) (sa : List Byte)
  /-- SEC_CLOSE (R476) -/
  | secClose (fn : Fun) (auth : SesAuth)
  /-- SESSION_IDLE_TIMEOUT (R476) -/
  | sessionIdleTimeout (sid : Nat)
  /-- AUTH_LOCKOUT_END (R477) -/
  | authLockoutEnd
  /-- KEY_IMPORT (R479) -/
  | keyImport (fn : Fun) (auth : SesAuth) (p : Part) (keyid : Word32) (wrapped : List Byte)
  /-- KEY_DROP (R480) -/
  | keyDrop (fn : Fun) (auth : SesAuth) (p : Part) (keyid : Word32)
  /-- DOMAIN_KEY (R470) -/
  | domainKey (fn : Fun) (auth : SesAuth) (wrapped : List Byte)
  /-- DOMAIN_ID (R474) -/
  | domainId (fn : Fun) (auth : SesAuth) (id : BitVec 16)
  /-- SVN_SET (R486) -/
  | svnSet (fn : Fun) (auth : SesAuth) (svn : Byte)
  /-- OWNER_ROTATE (R494) -/
  | ownerRotate (fn : Fun) (auth : Option SesAuth) (key : List Byte)
  /-- LIFECYCLE (R473) -/
  | lifecycle (fn : Fun) (auth : SesAuth) (next : Fin 4)
  /-- REPAIR_COMMIT (R494) -/
  | repairCommit (fn : Fun) (auth : SesAuth) (d : Die) (map : List Byte)
  /-- DEBUG_GRANT (R490) -/
  | debugGrant (fn : Fun) (auth : Option SesAuth) (scope : BitVec 2)
  /-- ZEROISE (R492) -/
  | zeroise (fn : Fun) (auth : Option SesAuth)
  /-- SEC_EVENTS (R494) -/
  | secEvents (fn : Fun) (clr : Bool)
  /-- SECURITY_EVENT (R491) -/
  | securityEvent (ev : SecEvt)
  /-- ENTROPY_TEST_FAIL (R482) -/
  | entropyTestFail
  /-- POWER_ON_RESET (R527) -/
  | powerOnReset (twoPorts : Bool) (sris : Bool)
  /-- PKG_RESET_N (R498) -/
  | pkgResetN (ns : Nat) (honoured : Bool)
  /-- WATCHDOG_EXPIRY (R518) -/
  | watchdogExpiry
  /-- THERMAL_TRIP_RESET (R499) -/
  | thermalTripReset (ms : Nat) (temps : List Byte)
  /-- PERST (R500) -/
  | perst (port : Fin 2)
  /-- PF_FLR (R500) -/
  | pfFlr (port : Fin 2)
  /-- RAIL_DIP (R528) -/
  | railDip (rail : Fin 8) (ns : Nat)
  /-- REFCLK_LOST (R525) -/
  | refclkLost (ns : Nat)
  /-- BRING_UP (R502) -/
  | bringUp (boot : BootIn)
  /-- BRINGUP_LINK_STAGE (R502) -/
  | bringupLinkStage (lanes : List Bool)
  /-- FAULT_REPORT (R508) -/
  | faultReport (q : Fin 4)
  /-- RECOVERY_EPOCH (R510) -/
  | recoveryEpoch (e : Fin 8) (ok : Bool)
  /-- STEP_ABORT (R513) -/
  | stepAbort (p : Part)
  /-- BNK_MARCH_GO (R521) -/
  | bnkMarchGo (fn : Fun) (g : Tile) (preserving : Bool)
  /-- MARCH_COMPLETE (R505) -/
  | marchComplete (g : Tile) (fails : List (Nat × Nat))
  /-- RESET_STATUS (R516) -/
  | resetStatus (fn : Fun)
  /-- FAULT_LOG (R516) -/
  | faultLog (fn : Fun) (count : Nat) (clr : Bool)
  /-- DIE_RECOVER (R516) -/
  | dieRecover (fn : Fun) (d : Die)
  /-- LOFT_MARCH (R516) -/
  | loftMarch (fn : Fun) (p : Part) (ts : TileSet) (preserving : Bool)
  /-- WATCHDOG_SET (R516) -/
  | watchdogSet (fn : Fun) (ms : Nat) (on : Bool)
  /-- LEDGER_KEEP (R516) -/
  | ledgerKeep (fn : Fun) (p : Part) (clr : Bool)
  /-- RST_WDOG_KICK (R518) -/
  | rstWdogKick
  /-- RST_DIE_WRITE (R519) -/
  | rstDieWrite (fn : Fun) (dies : BitVec 31)
  /-- DIE_CTL_PABORT (R513) -/
  | dieCtlPabort (d : Die) (p : Part)
  /-- DIE_CTL_CRST (R520) -/
  | dieCtlCrst (d : CDie) (mask : BitVec 8)
  /-- DIE_CTL_FENCE (R520) -/
  | dieCtlFence (d : Die) (on : Bool)
  /-- STW_FLOGPTR_CLR (R508) -/
  | stwFlogptrClr
  /-- MP_ID (R536) -/
  | mpId
  /-- MP_SLOT_WRITE (R537) -/
  | mpSlotWrite (slot : BitVec 5) (pecOk : Bool)
  /-- MP_SLOT_READ (R537) -/
  | mpSlotRead
  /-- MP_CAP (R536) -/
  | mpCap (write : Option (BitVec 16 × BitVec 16)) (pecOk : Bool)
  /-- MP_POWER (R536) -/
  | mpPower
  /-- MP_TEMP (R536) -/
  | mpTemp
  /-- MP_OVR (R536) -/
  | mpOvr
  /-- MP_BOOT (R536) -/
  | mpBoot
  /-- MP_EVENT (R536) -/
  | mpEvent
  /-- VAUX_GOOD (R527) -/
  | vauxGood
  /-- PKG_RESET_N_RELEASE (R498) -/
  | pkgResetNRelease
  /-- LINK_REFCLK_RETURN (R525) -/
  | linkRefclkReturn (l : LDie)
  /-- CONFIGURATION_REQUEST (R503) -/
  | configurationRequest (port : Fin 2) (req : CfgReq)
  /-- TAP_INSTRUCTION (R539) -/
  | tapInstruction (op : TapOp)
  /-- SEQID_RETENTION_EXPIRY (R416) -/
  | seqidRetentionExpiry (p : Part) (seqid : Word32)
  /-- TOKEN_BUCKET_FILL (R340) -/
  | tokenBucketFill (d : Fin 8) (fab : Bool) (p : Part) (ns : Nat)
deriving DecidableEq, Repr

end Sys2Proof
end

