-- ==== Sys2Proof/Decode.lean ====
section
/-! DEFINITION. The command a word spells. The block takes commands and fetches no instruction of its own kind; the opcode
table gives no row any bits, so no word spells a command (log entry 4). -/

namespace Sys2Proof

def decodeTableWord (_nbits _w : Nat) : Option Instr := none

end Sys2Proof
end

