-- ==== Sys2Proof/Config.lean ====
section
/-! DEFINITION. What the manual leaves open, as constants WITHOUT a body: nothing in Lean can evaluate one or prove a
value of it, so a claim proved about the model holds for every value of each. Each is named in a log entry
(notes/assumptions). -/

namespace Sys2Proof.Config

/-- A fresh free value: the machine applies it to the counter `State.freeCtr`, which it then advances. -/
opaque freeNat : Nat → Nat

/-- The cause code in the report of a fault of a class whose chapter numbers no causes (R508): one byte by class. -/
opaque plainCause : Nat → Nat

/-- Which of the four usual arrangements of a linear feedback shift register the Winnow unit uses for the polynomial
of R66: the manual gives the polynomial and not the direction or the form. -/
opaque winnowLfsrForm : Nat

/-- Whether a normalisation takes the square of the mean from the mean of the squares before R59: R60 computes both sums and does not
say how the mean statistics are combined. -/
opaque normCentres : Bool

/-- Whether TIL_FADDR names the later or the earlier of two descriptors whose shapes disagree: R107 asks for the address
of the descriptor that raised the fault and does not say which of the two that is. -/
opaque shapeBlamesLater : Bool

/-- Whether the tag of R331 takes the bits of a block in the reflected order of GCM or in the little-endian order of XTS. -/
opaque tagBitsReflected : Bool

/-- The host bus page of a page of a HOST region, by its local-space page number: the manual keeps it in the map entry's LOC
(R313) and gives no command or rule that sets it. -/
opaque hostPageOf : Nat → Nat

/-- The link die (mod 3) at whose exchange port a dispatch copy of a partition for an expert enters: the route program decides it, and
the step controller knows it (R381). -/
opaque copyEntryDie : Nat → Nat → Nat

/-- The link die (mod 3) at whose exchange port a return copy from an expert of a partition enters. -/
opaque returnEntryDie : Nat → Nat → Nat

/-- Whether the routing engine of a compute die has positions of a partition at a dynamic point: the route programs decide it, and the
step controller waits for the engines that have (R288). -/
opaque routesAt : Nat → Nat → Nat → Bool

/-- Whether the link between two other packages is UP: the steward that chooses a relay under R371 knows it. -/
opaque farLinkUp : Nat → Nat → Bool

/-- The link die (mod 3) of the source package that gave an atomic its TSEQ: R388 keys receipts by it and the flit does not carry it. -/
opaque sourceDieOf : Nat → Nat → Nat

/-- The key/value frames that a prompt of a partition takes: R408 compares them with the quota, and the model's shape decides them. -/
opaque promptFrames : Nat → Nat → BitVec 32

/-- The SEQSLOT of an entry of a length table, by partition, tile, table address and entry number: R293 gives the tables and R299 names
the entries with a SEQSLOT, and no rule says which of a table's entries a sequence slot has. -/
opaque entrySlot : Nat → Nat → Nat → Nat → Nat

/-- The 64 plain bytes of a weight page's burst as the source of the weight directory holds them, by global address: a re-fetch (R319) brings
them from outside the part. -/
opaque weightBurst : Nat → BitVec 512

/-- The positions of one block of a sequence's page table: the walks of the program decide them (R239). -/
opaque kvBlock : Nat → Nat

/-- The pages of one run of a page table: layers times key/value heads of the model that a partition serves. -/
opaque kvRun : Nat → Nat

/-- The power table of a tile island: bushels at a clock code and a level of 1 to 4 quarters (R446); the part's calibration record holds it. -/
opaque powerTable : Nat → Nat → Nat → Nat

/-- The voltage in mV that an island is granted at a clock code, before its trim (R448). -/
opaque islandMv : Nat → Nat → Nat

/-- The steward firmware's version (R444). -/
opaque fwVersion : Nat

/-- The unique device secret: 256 bits fused at manufacture (R468). -/
opaque uds : Nat

/-- The owner's public key of a digest: the fuses hold the digest only (R474), and checking a certificate (R478) takes the key. -/
opaque ownerKeyOf : List (BitVec 8) → List (BitVec 8)

/-- The Llynnos firmware public key, whose digest the boot ROM holds (R484). -/
opaque fwKey : List (BitVec 8)

/-- The lines (bank, line) of a tile that fail a march test that a command runs to its end, by the draw and the tile: what the tile's
memory does, which no rule gives. -/
opaque marchFails : Nat → Nat → List (Nat × Nat)

/-- What a taken branch of a control core counts its word offset from, in bytes past the branch: R435 gives the offset and not its base. -/
opaque branchBase : Nat

end Sys2Proof.Config
end

