-- ==== Sys2Proof/Machine/Crypto.lean ====
section
/-! DEFINITION. The standard algorithms the part uses (R466, R329, R360, R535): SM3 and its HMAC and key derivation, SM4
with its XTS, CTR and key-wrap modes, and the cyclic redundancy checks. The manual names the standards and does not
restate them: their constants are PRESUMED from those standards (log entry 3). SM2, the DRBG and the entropy source are
free values (log entry 4). -/

namespace Sys2Proof.Machine

/-! ## SM3 -/

def be32 (l : List Byte) : Word32 :=
  l.foldl (fun v b => (v <<< 8) ||| b.setWidth 32) 0

def beBytes (n : Nat) (v : Nat) : List Byte := (leBytes n v).reverse

def ofBeBytes (l : List Byte) : Nat := ofLeBytes l.reverse

def sm3P0 (x : Word32) : Word32 := x ^^^ x.rotateLeft 9 ^^^ x.rotateLeft 17
def sm3P1 (x : Word32) : Word32 := x ^^^ x.rotateLeft 15 ^^^ x.rotateLeft 23

/-- The message words W0 to W67 of one block, in order: `acc` holds the last 16, newest first. -/
def sm3Expand : Nat → List Word32 → List Word32
  | 0, _ => []
  | n + 1, acc =>
    let g (i : Nat) : Word32 := acc.getD (i - 1) 0
    let w := sm3P1 (g 16 ^^^ g 9 ^^^ (g 3).rotateLeft 15) ^^^ (g 13).rotateLeft 7 ^^^ g 6
    w :: sm3Expand n (w :: acc.take 15)

/-- The eight chaining words. -/
structure Sm3St where
  a : Word32
  b : Word32
  c : Word32
  d : Word32
  e : Word32
  f : Word32
  g : Word32
  h : Word32

def sm3Round (j : Nat) (w w4 : Word32) (s : Sm3St) : Sm3St :=
  let t : Word32 := if j < 16 then 0x79cc4519 else 0x7a879d8a
  let r := s.a.rotateLeft 12
  let ss1 := (r + s.e + t.rotateLeft (j % 32)).rotateLeft 7
  let ss2 := ss1 ^^^ r
  let ff := if j < 16 then s.a ^^^ s.b ^^^ s.c else (s.a &&& s.b) ||| (s.a &&& s.c) ||| (s.b &&& s.c)
  let gg := if j < 16 then s.e ^^^ s.f ^^^ s.g else (s.e &&& s.f) ||| (~~~s.e &&& s.g)
  let tt1 := ff + s.d + ss2 + (w ^^^ w4)
  let tt2 := gg + s.h + ss1 + w
  ⟨tt1, s.a, s.b.rotateLeft 9, s.c, sm3P0 tt2, s.e, s.f.rotateLeft 19, s.g⟩

def sm3Rounds : Nat → Nat → List Word32 → Sm3St → Sm3St
  | 0, _, _, s => s
  | n + 1, j, ws, s => sm3Rounds n (j + 1) ws.tail (sm3Round j (ws.headD 0) (ws.getD 4 0) s)

def sm3Block (s : Sm3St) (blk : List Byte) : Sm3St :=
  let w0 := (List.range 16).map fun i => be32 ((blk.drop (4 * i)).take 4)
  let ws := w0 ++ sm3Expand 52 w0.reverse
  let r := sm3Rounds 64 0 ws s
  ⟨r.a ^^^ s.a, r.b ^^^ s.b, r.c ^^^ s.c, r.d ^^^ s.d, r.e ^^^ s.e, r.f ^^^ s.f, r.g ^^^ s.g, r.h ^^^ s.h⟩

def sm3Init : Sm3St :=
  ⟨0x7380166f, 0x4914b2b9, 0x172442d7, 0xda8a0600, 0xa96f30bc, 0x163138aa, 0xe38dee4d, 0xb0fb0e4e⟩

def sm3Blocks : Nat → List Byte → Sm3St → Sm3St
  | 0, _, s => s
  | n + 1, m, s => sm3Blocks n (m.drop 64) (sm3Block s (m.take 64))

/-- The SM3 digest of a message, 32 bytes. -/
def sm3 (m : List Byte) : List Byte :=
  let k := (55 + 64 - m.length % 64) % 64
  let p := m ++ (0x80 : Byte) :: List.replicate k 0 ++ beBytes 8 (8 * m.length)
  let s := sm3Blocks (p.length / 64) p sm3Init
  [s.a, s.b, s.c, s.d, s.e, s.f, s.g, s.h].flatMap fun w => beBytes 4 w.toNat

/-- HMAC-SM3. -/
def hmacSm3 (key m : List Byte) : List Byte :=
  let k := if key.length > 64 then sm3 key else key
  let k := k ++ List.replicate (64 - k.length) 0
  sm3 (k.map (· ^^^ 0x5c) ++ sm3 (k.map (· ^^^ 0x36) ++ m))

/-- The SM3 key derivation function: SM3(Z ‖ counter) for counters 1, 2, ..., cut to `n` bytes. -/
def kdfSm3 (z : List Byte) (n : Nat) : List Byte :=
  ((List.range (ceilDiv n 32)).flatMap fun i => sm3 (z ++ beBytes 4 (i + 1))).take n

/-! ## SM4 -/

/-- The rows of the SM4 substitution box, each row's 16 bytes as one number, first byte highest. -/
def sm4SboxRows : List Nat := [
  0xd690e9fecce13db716b614c228fb2c05, 0x2b679a762abe04c3aa44132649860699,
  0x9c4250f491ef987a33540b43edcfac62, 0xe4b31ca9c908e89580df94fa758f3fa6,
  0x4707a7fcf37317ba83593c19e6854fa8, 0x686b81b27164da8bf8eb0f4b70569d35,
  0x1e240e5e6358d1a225227c3b01217887, 0xd40046579fd327524c3602e7a0c4c89e] ++ [
  0xeabf8ad240c738b5a3f7f2cef96115a1, 0xe0ae5da49b341a55ad933230f58cb1e3,
  0x1df6e22e8266ca60c02923ab0d534e6f, 0xd5db3745defd8e2f03ff6a726d6c5b51,
  0x8d1baf92bbddbc7f11d95c411f105ad8, 0x0ac13188a5cd7bbd2d74d012b8e5b4b0,
  0x8969974a0c96777e65b9f109c56ec684, 0x18f07dec3adc4d2079ee5f3ed7cb3948]

def sm4Sbox (b : Nat) : Nat := (sm4SboxRows.getD (b / 16) 0 >>> (8 * (15 - b % 16))) % 256

def sm4Tau (x : Word32) : Word32 :=
  let v := x.toNat
  BitVec.ofNat 32 (sm4Sbox (v / 2 ^ 24) * 2 ^ 24 + sm4Sbox (v / 2 ^ 16 % 256) * 2 ^ 16 +
    sm4Sbox (v / 256 % 256) * 256 + sm4Sbox (v % 256))

def sm4T (x : Word32) : Word32 :=
  let b := sm4Tau x
  b ^^^ b.rotateLeft 2 ^^^ b.rotateLeft 10 ^^^ b.rotateLeft 18 ^^^ b.rotateLeft 24

def sm4Tk (x : Word32) : Word32 :=
  let b := sm4Tau x
  b ^^^ b.rotateLeft 13 ^^^ b.rotateLeft 23

/-- The round constant CK_i: byte j is (4i + j) × 7 mod 256. -/
def sm4Ck (i : Nat) : Word32 :=
  BitVec.ofNat 32 ((4 * i) * 7 % 256 * 2 ^ 24 + (4 * i + 1) * 7 % 256 * 2 ^ 16 + (4 * i + 2) * 7 % 256 * 256 +
    (4 * i + 3) * 7 % 256)

def sm4Keys : Nat → Nat → Word32 → Word32 → Word32 → Word32 → List Word32
  | 0, _, _, _, _, _ => []
  | n + 1, i, k0, k1, k2, k3 =>
    let k4 := k0 ^^^ sm4Tk (k1 ^^^ k2 ^^^ k3 ^^^ sm4Ck i)
    k4 :: sm4Keys n (i + 1) k1 k2 k3 k4

def sm4RoundKeys (key : List Byte) : List Word32 :=
  let w (i : Nat) : Word32 := be32 ((key.drop (4 * i)).take 4)
  sm4Keys 32 0 (w 0 ^^^ 0xa3b1bac6) (w 1 ^^^ 0x56aa3350) (w 2 ^^^ 0x677d9197) (w 3 ^^^ 0xb27022dc)

def sm4Rounds : List Word32 → Word32 → Word32 → Word32 → Word32 → List Byte
  | [], x0, x1, x2, x3 => [x3, x2, x1, x0].flatMap fun w => beBytes 4 w.toNat
  | k :: r, x0, x1, x2, x3 => sm4Rounds r x1 x2 x3 (x0 ^^^ sm4T (x1 ^^^ x2 ^^^ x3 ^^^ k))

def sm4Core (rk : List Word32) (blk : List Byte) : List Byte :=
  let w (i : Nat) : Word32 := be32 ((blk.drop (4 * i)).take 4)
  sm4Rounds rk (w 0) (w 1) (w 2) (w 3)

def sm4Enc (key blk : List Byte) : List Byte := sm4Core (sm4RoundKeys key) blk
def sm4Dec (key blk : List Byte) : List Byte := sm4Core (sm4RoundKeys key).reverse blk

def xorBytes (a b : List Byte) : List Byte := List.zipWith (· ^^^ ·) a b

/-- Multiplication of an XTS tweak by α: the 16 bytes are one little-endian number. -/
def xtsAlpha (t : List Byte) : List Byte :=
  let v := ofLeBytes t
  leBytes 16 (if v ≥ 2 ^ 127 then (2 * v) % 2 ^ 128 ^^^ 0x87 else 2 * v)

def xtsBlocks (f : List Byte → List Byte) : Nat → List Byte → List Byte → List Byte
  | 0, _, _ => []
  | n + 1, t, m => xorBytes (f (xorBytes (m.take 16) t)) t ++ xtsBlocks f n (xtsAlpha t) (m.drop 16)

/-- One XTS data unit of whole blocks under data key k1 and tweak key k2 (R330). -/
def xtsEnc (k1 k2 : List Byte) (tweak : Nat) (m : List Byte) : List Byte :=
  xtsBlocks (sm4Enc k1) (m.length / 16) (sm4Enc k2 (leBytes 16 tweak)) m
def xtsDec (k1 k2 : List Byte) (tweak : Nat) (m : List Byte) : List Byte :=
  xtsBlocks (sm4Dec k1) (m.length / 16) (sm4Enc k2 (leBytes 16 tweak)) m

/-- SM4 key wrap (KW of SP 800-38F): one pass of the semiblocks, `t` counting on. -/
def kwPass (key : List Byte) : Nat → List Byte → List (List Byte) → List Byte × List (List Byte) × Nat
  | t, a, [] => (a, [], t)
  | t, a, r :: rs =>
    let b := sm4Enc key (a ++ r)
    let rest := kwPass key (t + 1) (beBytes 8 (ofBeBytes (b.take 8) ^^^ t)) rs
    (rest.1, b.drop 8 :: rest.2.1, rest.2.2)

def semiblocks (m : List Byte) : List (List Byte) :=
  (List.range (m.length / 8)).map fun i => (m.drop (8 * i)).take 8

def kwEncLoop (key : List Byte) : Nat → Nat → List Byte → List (List Byte) → List Byte
  | 0, _, a, rs => a ++ rs.flatten
  | n + 1, t, a, rs =>
    let x := kwPass key t a rs
    kwEncLoop key n x.2.2 x.1 x.2.1

def kwWrap (key m : List Byte) : List Byte := kwEncLoop key 6 1 (List.replicate 8 0xA6) (semiblocks m)

/-- The unwrapping pass takes the semiblocks from the last to the first, the counter falling. -/
def kwUnPass (key : List Byte) : Nat → List Byte → List (List Byte) → List Byte × List (List Byte) × Nat
  | t, a, [] => (a, [], t)
  | t, a, r :: rs =>
    let b := sm4Dec key (beBytes 8 (ofBeBytes a ^^^ t) ++ r)
    let rest := kwUnPass key (t - 1) (b.take 8) rs
    (rest.1, b.drop 8 :: rest.2.1, rest.2.2)

def kwDecLoop (key : List Byte) : Nat → Nat → List Byte → List (List Byte) → List Byte × List (List Byte)
  | 0, _, a, rs => (a, rs)
  | n + 1, t, a, rs =>
    let x := kwUnPass key t a rs
    kwDecLoop key n x.2.2 x.1 x.2.1

/-- Unwrap; none when the integrity value does not verify. -/
def kwUnwrap (key m : List Byte) : Option (List Byte) :=
  match semiblocks m with
  | [] => none
  | a :: rs =>
    let x := kwDecLoop key 6 (6 * rs.length) a rs.reverse
    if x.1 = List.replicate 8 (0xA6 : Byte) then some x.2.reverse.flatten else none

/-- SM4-CTR: the stream of the counter blocks xored onto the data. -/
def ctrXor (key : List Byte) (ctr : Nat → List Byte) (m : List Byte) : List Byte :=
  xorBytes m ((List.range (ceilDiv m.length 16)).flatMap fun j => sm4Enc key (ctr j))

/-! ## The tag of R331 -/

/-- A block as a polynomial: coefficient of x^i in bit i. The manual gives the polynomial and not the order of bits, which
Config leaves open (log entry 5). -/
def gfOfBlock (b : List Byte) : Nat :=
  if Config.tagBitsReflected then
    (BitVec.ofNat 128 (ofBeBytes b)).reverse.toNat
  else ofLeBytes b

def gfToBlock (v : Nat) : List Byte :=
  if Config.tagBitsReflected then beBytes 16 (BitVec.ofNat 128 v).reverse.toNat else leBytes 16 v

/-- Multiplication modulo x^128 + x^7 + x^2 + x + 1, by the bits of `b` from the top. -/
def gfMulLoop (a b : Nat) : Nat → Nat → Nat
  | 0, acc => acc
  | n + 1, acc =>
    let d := if acc ≥ 2 ^ 127 then (2 * acc) % 2 ^ 128 ^^^ 0x87 else 2 * acc
    gfMulLoop a b n (if b.testBit n then d ^^^ a else d)

def gfMul (a b : Nat) : Nat := gfMulLoop a b 128 0

/-- The integrity tag of an encrypted burst: 8 bytes (R331). -/
def burstTag (km : List Byte) (cipher : List Byte) (ga gen pf : Nat) : List Byte :=
  let h := gfOfBlock (sm4Enc km (List.replicate 16 0))
  let x5 := leBytes 8 ga ++ leBytes 2 gen ++ leBytes 1 pf ++ List.replicate 5 0
  let xs := (List.range 4).map (fun i => (cipher.drop (16 * i)).take 16) ++ [x5]
  let s := gfToBlock (xs.foldl (fun v x => gfMul (v ^^^ gfOfBlock x) h) 0)
  let n := leBytes 8 ga ++ leBytes 2 gen ++ leBytes 1 1 ++ List.replicate 5 0
  (xorBytes s (sm4Enc km n)).take 8

/-! ## Cyclic redundancy checks -/

/-- A reflected CRC of width `w`: the polynomial and the register are bit-reversed. -/
def crcReflBit (poly : Nat) : Nat → Nat → Nat
  | 0, c => c
  | n + 1, c => crcReflBit poly n (if c % 2 = 1 then (c / 2) ^^^ poly else c / 2)

def crcRefl (poly init : Nat) (m : List Byte) : Nat :=
  m.foldl (fun c b => crcReflBit poly 8 (c ^^^ b.toNat)) init

/-- CRC-32C of R329 (0x1EDC_6F41 reflected is 0x82F6_3B78). -/
def crc32c (m : List Byte) : Nat := crcRefl 0x82F63B78 0xFFFFFFFF m ^^^ 0xFFFFFFFF

/-- A CRC taken most significant bit first, of width `w`. -/
def crcMsbBit (w poly : Nat) : Nat → Nat → Nat
  | 0, c => c
  | n + 1, c => crcMsbBit w poly n (if c ≥ 2 ^ (w - 1) then (2 * c) % 2 ^ w ^^^ poly else 2 * c)

def crcMsb (w poly init : Nat) (m : List Byte) : Nat :=
  m.foldl (fun c b => crcMsbBit w poly 8 (c ^^^ (b.toNat * 2 ^ (w - 8)))) init

end Sys2Proof.Machine
end

