-- ==== Sys2Proof/Machine/Arith.lean ====
section
/-! DEFINITION. Integer arithmetic, sheaves and scales (chapter 2): formats and elements (R34 to R37), scale words (R38
to R41), granules, runs, folds and narrowing (R44 to R47), accumulator blocks (R48, R49), requantisation (R50 to R56),
the integer functions (R57 to R59) and the Winnow reference (R66 to R69). Everything is computed exactly over
integers and narrowed at the named points only. -/

namespace Sys2Proof.Machine

/-! ## Formats and sheaves -/

/-- The four element formats (R35). -/
inductive Fmt where
  | s2 | s4 | s8 | s16
deriving DecidableEq, Repr

def fmtOf (n : Nat) : Fmt :=
  match n with
  | 0 => .s2
  | 1 => .s4
  | 2 => .s8
  | _ => .s16

def fmtBits : Fmt → Nat
  | .s2 => 2
  | .s4 => 4
  | .s8 => 8
  | .s16 => 16

/-- Elements per sheaf (R35). -/
def fmtCount : Fmt → Nat
  | .s2 => 120
  | .s4 => 60
  | .s8 => 30
  | .s16 => 15

/-- The largest magnitude the part writes (R36). -/
def fmtMax : Fmt → Nat
  | .s2 => 1
  | .s4 => 7
  | .s8 => 127
  | .s16 => 32767

/-- A sheaf with the poison bit that lies beside it in the Loft (R42). -/
structure Sheaf where
  bits : SheafBits
  psn : Bool
deriving DecidableEq, Repr

/-- The zero block the part writes: scale word 0x8000 and 30 zero bytes (R40). -/
def zeroBits : SheafBits := 0x8000

def zeroSheaf : Sheaf := ⟨zeroBits, false⟩

/-- The poisoned zero block with which a missing unit is filled (R229). -/
def poisonSheaf : Sheaf := ⟨zeroBits, true⟩

/-- Element `i` of a sheaf, every stored code taken at its two's-complement value (R35, R36). -/
def sheafElem (f : Fmt) (s : SheafBits) (i : Nat) : Int :=
  let w := fmtBits f
  sext w (s.toNat >>> (16 + w * i))

/-- The elements of a payload packed from element 0 up, as a number to stand above the scale word. -/
def packElems (w : Nat) : List Int → Nat
  | [] => 0
  | q :: r => toField w q + 2 ^ w * packElems w r

def packSheaf (f : Fmt) (scale : Nat) (qs : List Int) : SheafBits :=
  BitVec.ofNat 256 (scale % 65536 + 65536 * packElems (fmtBits f) qs)

def sheafBytes (s : SheafBits) : List Byte := leBytes 32 s.toNat

def sheafOfBytes (b : List Byte) : SheafBits := BitVec.ofNat 256 (ofLeBytes b)

def scaleWord (s : SheafBits) : Nat := s.toNat % 65536

/-- What a scale word says (R38 to R41). -/
inductive Scale where
  | zero
  | reserved
  | val (m : Nat) (e : Int)
deriving DecidableEq, Repr

def scaleOf (w : Nat) : Scale :=
  if bitsOf w 15 15 = 1 then .zero
  else if bitsOf w 7 0 = 0 then .reserved
  else .val (bitsOf w 7 0) (sext 7 (bitsOf w 14 8))

def scaleWordOf (m : Nat) (e : Int) : Nat := m % 256 + 256 * toField 7 e

/-- A sheaf reads as zero: a zero block, or the reserved scale word treated as one (R40, R41). -/
def sheafIsZero (s : SheafBits) : Bool :=
  match scaleOf (scaleWord s) with
  | .val _ _ => false
  | _ => true

def sheafReserved (s : SheafBits) : Bool := decide (scaleOf (scaleWord s) = .reserved)

/-! ## Rounding -/

/-- Right shift with round-to-nearest-even, and whether a non-zero bit was dropped (R46). -/
def rneShift (v : Int) (k : Nat) : Int × Bool :=
  let p : Int := (2 ^ k : Nat)
  let q := v / p
  let r := v % p
  (if 2 * r > p ∨ (2 * r = p ∧ q % 2 = 1) then q + 1 else q, decide (r ≠ 0))

/-- `v` moved to an exponent `d` higher: exact left shift for negative `d`, rounded right shift else. -/
def alignBy (v : Int) (d : Int) : Int × Bool :=
  if d ≤ 0 then (v * (2 ^ d.natAbs : Nat), false) else rneShift v d.natAbs

def clampTo (lo hi z : Int) : Int := if z < lo then lo else if hi < z then hi else z

def fitsSigned (w : Nat) (z : Int) : Bool :=
  decide (-(2 ^ (w - 1) : Nat) ≤ z) && decide (z < (2 ^ (w - 1) : Nat))

def clampSigned (w : Nat) (z : Int) : Int := clampTo (-(2 ^ (w - 1) : Nat)) ((2 ^ (w - 1) : Nat) - 1) z

/-! ## Folds and runs (R44 to R46) -/

/-- A signed 96-bit wide sum with its exponent and its INEXACT flag (R46). -/
structure Wide where
  got : Bool
  w : Int
  xw : Int
  inx : Bool
deriving DecidableEq, Repr

def wideEmpty : Wide := ⟨false, 0, 0, false⟩

/-- The loop of R46: halve the sum until the aligned addend keeps it below 2^95. A trial value that the loop discards
sets no INEXACT. -/
def foldLoop : Nat → Int → Int → Int → Int → Bool → Wide
  | 0, f, w, xw, s, inx =>
    let t := alignBy f (-s)
    ⟨true, w + t.1, xw, inx || t.2⟩
  | n + 1, f, w, xw, s, inx =>
    let t := alignBy f (-s)
    if (w + t.1).natAbs < 2 ^ 95 then ⟨true, w + t.1, xw, inx || t.2⟩
    else
      let h := rneShift w 1
      foldLoop n f h.1 (xw + 1) (s - 1) (inx || h.2)

/-- Halvings after which both addends of R46 lie below 2^94, so that its loop has ended. -/
def foldFuel (f w s : Int) : Nat := s.toNat + f.natAbs.log2 + w.natAbs.log2 + 4

/-- Fold `f` with exponent `e` into a wide sum (R46). -/
def foldWide (x : Wide) (f e : Int) : Wide :=
  if x.got then foldLoop (foldFuel f x.w (e - x.xw)) f x.w x.xw (e - x.xw) x.inx
  else ⟨true, f * (2 ^ 32 : Nat), e - 32, false⟩

/-- The accumulator of one output element: its open run under two scale words, and the wide sum (R45). -/
structure AccRun where
  open_ : Bool
  a : Int
  wa : Nat
  wb : Nat
  wide : Wide
deriving DecidableEq, Repr

def accEmpty : AccRun := ⟨false, 0, 0, 0, wideEmpty⟩

/-- The product of two scale words' values: its multiplier and exponent, as a fold takes it (R46). -/
def scaleProd (wa wb : Nat) : Int × Int :=
  match scaleOf wa, scaleOf wb with
  | .val ma ea, .val mb eb => ((ma * mb : Nat), ea + eb - 14)
  | _, _ => (0, 0)

/-- Close the run: fold A into the wide sum. -/
def accFold (x : AccRun) : AccRun :=
  if x.open_ then
    let p := scaleProd x.wa x.wb
    { x with open_ := false, a := 0, wide := foldWide x.wide (x.a * p.1) p.2 }
  else x

/-- One contributing granule of product `p` under scale words `wa`, `wb`; `bound` is the format pair's largest |P| and
`width` the accumulator's width (R45). -/
def accGranule (width bound : Nat) (x : AccRun) (p : Int) (wa wb : Nat) : AccRun :=
  if x.open_ && decide (x.wa = wa) && decide (x.wb = wb) && decide (x.a.natAbs + bound < 2 ^ (width - 1)) then
    { x with a := x.a + p }
  else { accFold x with open_ := true, a := p, wa := wa, wb := wb }

/-- The granule length and the accumulator width of a format pair (R44). -/
def granuleLen (a b : Fmt) : Nat := min (fmtCount a) (fmtCount b)
def accWidth (a b : Fmt) : Nat := if a = .s16 ∨ b = .s16 then 48 else 32
/-- The largest |P| of the table of R44. -/
def granuleBound (a b : Fmt) : Nat := granuleLen a b * 2 ^ (fmtBits a - 1) * 2 ^ (fmtBits b - 1)

/-- Σ q_a × q_b over `n` elements from element `ia` and `ib` of two sheaves (R44). -/
def granuleDot (fa fb : Fmt) (sa sb : SheafBits) (ia ib : Nat) : Nat → Int
  | 0 => 0
  | n + 1 => sheafElem fa sa ia * sheafElem fb sb ib + granuleDot fa fb sa sb (ia + 1) (ib + 1) n

/-- One granule `k` of two operand vectors, with its poison and format outcome. -/
structure GranuleOut where
  acc : AccRun
  psn : Bool
  fmt : Bool
deriving DecidableEq, Repr

def sheafNth (l : List Sheaf) (i : Nat) : Sheaf := l.getD i zeroSheaf

/-- Granule `k` under the operands' stored formats; `bound` and `width` are those of the effective pair (R83). -/
def granuleStep (width bound : Nat) (fa fb : Fmt) (va vb : List Sheaf) (g : GranuleOut) (k : Nat) : GranuleOut :=
  let n := granuleLen fa fb
  let a := sheafNth va (k * n / fmtCount fa)
  let b := sheafNth vb (k * n / fmtCount fb)
  let psn := g.psn || a.psn || b.psn
  let fmt := g.fmt || sheafReserved a.bits || sheafReserved b.bits
  if sheafIsZero a.bits || sheafIsZero b.bits then ⟨g.acc, psn, fmt⟩
  else
    let p := granuleDot fa fb a.bits b.bits (k * n % fmtCount fa) (k * n % fmtCount fb) n
    ⟨accGranule width bound g.acc p (scaleWord a.bits) (scaleWord b.bits), psn, fmt⟩

/-- The reduction of one output element over `granules` granules from a starting wide sum, folded at its end (R45, R152). -/
def dotElem (width bound : Nat) (fa fb : Fmt) (va vb : List Sheaf) (granules : Nat) (start : Wide) : GranuleOut :=
  let g := (List.range granules).foldl (granuleStep width bound fa fb va vb) ⟨{ accEmpty with wide := start }, false, false⟩
  { g with acc := accFold g.acc }

/-- The effective pair of weights and activations (R83), or none for a pair that R84 refuses. -/
def effPair (w a : Fmt) : Option (Fmt × Fmt) :=
  match w, a with
  | .s2, .s8 => some (.s2, .s8)
  | .s4, .s8 => some (.s4, .s8)
  | .s4, .s4 => some (.s4, .s4)
  | .s2, .s4 => some (.s4, .s4)
  | .s8, .s8 => some (.s8, .s8)
  | .s8, .s16 => some (.s8, .s16)
  | .s4, .s16 => some (.s8, .s16)
  | .s2, .s16 => some (.s8, .s16)
  | .s16, .s16 => some (.s16, .s16)
  | _, _ => none

/-! ## Accumulator blocks (R47 to R49) -/

/-- An accumulator block: 128 values in row-major order and the fields of its exponent word (R48). -/
structure AccBlock where
  vals : List Int
  x : Int
  inx : Bool
  sat : Bool
  psn : Bool
  a48 : Bool
deriving DecidableEq, Repr

def accWord (b : AccBlock) : Nat :=
  toField 16 b.x + 2 ^ 16 * bit b.inx + 2 ^ 17 * bit b.sat + 2 ^ 18 * bit b.psn + 2 ^ 19 * bit b.a48

def accValBytes (a48 : Bool) : Nat := if a48 then 6 else 4
/-- Bytes an accumulator block occupies: 512 or 768 (R48). -/
def accBytes (a48 : Bool) : Nat := 128 * accValBytes a48

/-- The exponent to which every element of a block fits `width` bits, from `x` upward (R47). -/
def narrowExp (width : Nat) (ws : List Wide) : Nat → Int → Int
  | 0, x => x
  | n + 1, x =>
    if ws.all (fun w => !w.got || fitsSigned width (alignBy w.w (x - w.xw)).1) then x
    else narrowExp width ws n (x + 1)

/-- Narrowing of the wide sums of a block: X is the larger of the largest xw and the smallest exponent at which every
element fits (R47). -/
def narrow (a48 : Bool) (ws : List Wide) (psn : Bool) : AccBlock :=
  let width := if a48 then 48 else 32
  match (ws.filter (·.got)).map (·.xw) with
  | [] => ⟨ws.map fun _ => 0, 0, false, false, psn, a48⟩
  | x0 :: xs =>
    let x := narrowExp width ws 200 (xs.foldl max x0)
    let sh := ws.map fun w => if w.got then alignBy w.w (x - w.xw) else (0, false)
    ⟨sh.map (·.1), x, ws.any (·.inx) || sh.any (·.2), false, psn, a48⟩

/-- One element accumulated into a block's value: aligned to X on its own, added, clamped (R49). Answers the value,
INX and SAT. -/
def accAddElem (width : Nat) (x : Int) (old v xv : Int) : Int × Bool × Bool :=
  let t := alignBy v (x - xv)
  let z := old + t.1
  (clampSigned width z, t.2, !fitsSigned width z)

/-- A list of contributions (value, exponent) added from value index `i` of a block (R49). -/
def accAddAt (b : AccBlock) (i : Nat) : List (Int × Int) → AccBlock
  | [] => b
  | (v, xv) :: r =>
    let width := if b.a48 then 48 else 32
    let o := accAddElem width b.x (b.vals.getD i 0) v xv
    accAddAt { b with vals := b.vals.set i o.1, inx := b.inx || o.2.1, sat := b.sat || o.2.2 } (i + 1) r

/-- A sheaf's elements as (value, exponent): q × M at exponent E − 7 (R38). -/
def sheafContrib (f : Fmt) (s : SheafBits) : List (Int × Int) :=
  match scaleOf (scaleWord s) with
  | .val m e => (List.range (fmtCount f)).map fun i => (sheafElem f s i * (m : Nat), e - 7)
  | _ => (List.range (fmtCount f)).map fun _ => (0, 0)

/-! ## The generator and requantisation (R50 to R56) -/

/-- One generator step (R56). -/
def rngStep (x : Word64) : Word64 :=
  let x := if x = 0 then 0x5D3A0C71B2E49F86#64 else x
  let x := x ^^^ (x <<< 13)
  let x := x ^^^ (x >>> 7)
  x ^^^ (x <<< 17)

/-- The generator within one instruction: its state and the draws left of the current step. -/
structure Rng where
  x : Word64
  left : List Nat
deriving DecidableEq, Repr

/-- One 16-bit draw: bits [15:0] first, then upward, a step when none is left (R56). -/
def rngDraw (r : Rng) : Nat × Rng :=
  match r.left with
  | u :: rest => (u, { r with left := rest })
  | [] =>
    let x := rngStep r.x
    (bitsOf x.toNat 15 0, ⟨x, [bitsOf x.toNat 31 16, bitsOf x.toNat 47 32, bitsOf x.toNat 63 48]⟩)

def rngDrawN : Nat → Rng → List Nat × Rng
  | 0, r => ([], r)
  | n + 1, r =>
    let d := rngDraw r
    let e := rngDrawN n d.2
    (d.1 :: e.1, e.2)

/-- t = n × 2^k rounded to nearest even (R54). -/
def roundRne (n k : Int) : Int := (alignBy n (-k)).1

/-- t = n × 2^k rounded stochastically by a 16-bit draw (R55). -/
def roundSto (n k : Int) (u : Nat) : Int :=
  if 0 ≤ k then n * (2 ^ k.natAbs : Nat)
  else
    let p : Int := (2 ^ k.natAbs : Nat)
    let fl := n / p
    let c := ceilDiv ((n % p).toNat * 65536) (2 ^ k.natAbs)
    if u < c then fl + 1 else fl

/-- |n| × 2^k ≤ q, exactly. -/
def dyadicLe (n k : Int) (q : Nat) : Bool :=
  if 0 ≤ k then decide (n.natAbs * 2 ^ k.natAbs ≤ q) else decide (n.natAbs ≤ q * 2 ^ k.natAbs)

/-- The parameters of a requantisation (R50): format, factor, the static scale word or dynamic, stochastic or not. -/
structure RqParam where
  fmt : Fmt
  k : Nat
  static : Option Nat
  sto : Bool
deriving DecidableEq, Repr

/-- What a requantisation of one output sheaf produced. -/
structure RqOut where
  bits : SheafBits
  satElems : Nat
  satBlk : Bool
  zeroBlk : Bool
  fmt : Bool
deriving DecidableEq, Repr

/-- The smallest E in −64 to +63 for which every |t_i| ≤ q_max, else +63 (R52). -/
def dynExp (q k : Nat) (xs : List (Int × Int)) : Nat → Int → Int
  | 0, e => e
  | n + 1, e =>
    if xs.all (fun a => dyadicLe (a.1 * k) (a.2 - 15 - e) q) then e else dynExp q k xs n (e + 1)

/-- The rounded integers q_i for output exponent `e`. -/
def rqRound (k : Nat) (sto : Bool) (e : Int) : List (Int × Int) → List Nat → List Int
  | [], _ => []
  | a :: r, us =>
    let n := a.1 * k
    let s := a.2 - 15 - e
    (if sto then roundSto n s (us.headD 0) else roundRne n s) :: rqRound k sto e r us.tail

/-- Requantise the elements of one output sheaf, given as (value, exponent); `us` are its draws (R50 to R55). -/
def rqSheaf (p : RqParam) (xs : List (Int × Int)) (us : List Nat) : RqOut :=
  let qm := fmtMax p.fmt
  let finish (word : Nat) (e : Int) : RqOut :=
    let qs := rqRound p.k p.sto e xs us
    if qs.all (fun q => decide (q = 0)) then ⟨zeroBits, 0, false, true, false⟩
    else
      let sat := (qs.filter fun q => decide (qm < q.natAbs)).length
      ⟨packSheaf p.fmt word (qs.map (clampTo (-(qm : Int)) qm)), sat, decide (sat = qs.length), false, false⟩
  match p.static with
  | some w =>
    match scaleOf w with
    | .reserved => ⟨zeroBits, 0, false, false, true⟩
    | .zero => ⟨zeroBits, 0, false, true, false⟩
    | .val _ e => finish w e
  | none =>
    let e := dynExp qm p.k xs 127 (-64)
    finish (scaleWordOf 128 e) e

/-- Requantise one sheaf with the draws it takes from the generator: one for every element when stochastic (R51, R56). -/
def rqSheafRng (p : RqParam) (xs : List (Int × Int)) (r : Rng) : RqOut × Rng :=
  if p.sto then
    let d := rngDrawN xs.length r
    (rqSheaf p xs d.1, d.2)
  else (rqSheaf p xs [], r)

/-! ## Integer functions (R57 to R59) -/

/-- The greatest number below 2^bits that a test accepts, the test being true up to it: bits tried from the top. -/
def greatestBits (ok : Nat → Bool) : Nat → Nat → Nat
  | 0, acc => acc
  | n + 1, acc => greatestBits ok n (if ok (acc + 2 ^ n) then acc + 2 ^ n else acc)

/-- T[i] = round(65,536 × (2^(i/4096) − 1)) (R57): the rounded value n of 65,536 × 2^(i/4096) is the greatest n with
(2n − 1)^4096 ≤ 2^(17 × 4096 + i). -/
def exp2Tab (i : Nat) : Nat :=
  if i = 4096 then 65536
  else greatestBits (fun n => decide ((2 * n - 1) ^ 4096 ≤ 2 ^ (17 * 4096 + i))) 18 0 - 65536

/-- L[i] = round(65,536 × log2(1 + i/4096)) (R58): the greatest n with 2^(2n − 1) × 4096^131072 ≤ (4096 + i)^131072. -/
def log2Tab (i : Nat) : Nat :=
  if i = 4096 then 65536
  else greatestBits (fun n => decide (2 ^ (2 * n - 1) * 4096 ^ 131072 ≤ (4096 + i) ^ 131072)) 17 0

def isqrt (n : Nat) : Nat := greatestBits (fun r => decide (r * r ≤ n)) 64 0

/-- S[i] = round(32,768 / sqrt((i + 0.5) / 64)) for i from 64 to 255 (R59). -/
def rsqrtTab (i : Nat) : Nat := (isqrt (2 ^ 39 / (2 * i + 1)) + 1) / 2

/-- exp2 of a signed Q16.16 input: (m, e) with 2^x ≈ m × 2^(e − 15) (R57). -/
def exp2Fn (x : Int) : Nat × Int :=
  let e := x / 65536
  let f := (x % 65536).toNat
  let i := f / 16
  let j := f % 16
  let u := exp2Tab i + ((exp2Tab (i + 1) - exp2Tab i) * j + 8) / 16
  let m := 32768 + (u + 1) / 2
  if m = 65536 then (32768, e + 1) else (m, e)

/-- The position of the leading one of a positive number. -/
def leadPos (a : Nat) : Nat := a.log2

/-- log2 of an unsigned 32-bit input: signed Q16.16; 0 gives 0x8000_0000 (R58). -/
def log2Fn (a : Nat) : Int :=
  if a = 0 then -(2 ^ 31 : Nat)
  else
    let n := leadPos a
    let g := if 16 ≤ n then (a >>> (n - 16)) % 65536 else (a <<< (16 - n)) % 65536
    let i := g / 16
    let j := g % 16
    let v := log2Tab i + ((log2Tab (i + 1) - log2Tab i) * j + 8) / 16
    (n * 65536 + v : Nat)

/-- One refinement of the reciprocal square root (R59). -/
def rsqrtIter (m y : Nat) : Nat :=
  let h := (y * y) >>> 30
  let p := (m * h) >>> 30
  (y * (3 * 2 ^ 30 - p)) >>> 31

/-- Reciprocal square root of v × 2^x: (y Q2.30, exponent) (R59). -/
def rsqrtFn (v : Nat) (x : Int) : Nat × Int :=
  if v = 0 then (0, 0)
  else
    let n : Int := leadPos v
    let odd := (n + x) % 2
    let sh := 30 - n + odd
    let m := if 0 ≤ sh then v <<< sh.natAbs else v >>> sh.natAbs
    let y := rsqrtTab (m >>> 24) <<< 15
    (rsqrtIter m (rsqrtIter m y), -((n + x - odd) / 2))

/-! ## Normalisation statistics (R60) -/

/-- The sum of two values a × 2^xa and b × 2^xb, exactly. -/
def dyAdd (a xa b xb : Int) : Int × Int :=
  let x := min xa xb
  (a * (2 ^ (xa - x).natAbs : Nat) + b * (2 ^ (xb - x).natAbs : Nat), x)

/-- The elements of a sheaf as stored. -/
def sheafElems (f : Fmt) (s : SheafBits) : List Int := (List.range (fmtCount f)).map (sheafElem f s)

/-- Σq of a sheaf folded with M and E, or Σq² with M² and 2E, in the places of M_a × M_b and E_a + E_b (R46, R60). A zero block
adds nothing. -/
def normFold (f : Fmt) (sq : Bool) (x : Wide) (s : SheafBits) : Wide :=
  match scaleOf (scaleWord s) with
  | .val m e =>
    let qs := sheafElems f s
    if sq then foldWide x ((qs.map fun q => q * q).foldl (· + ·) 0 * (m * m : Nat)) (2 * e - 14)
    else foldWide x (qs.foldl (· + ·) 0 * (m : Nat)) (e - 14)
  | _ => x

/-- The statistic of one row: the reciprocal square root y (Q2.30) with its exponent, and the INEXACT of the two wide sums. -/
structure NormStat where
  y : Nat
  e : Int
  inx : Bool
deriving DecidableEq, Repr

/-- ε of an NRM descriptor: a scale word M × 2^(E−7), its Z ignored (R148). -/
def epsOf (w : Nat) : Int × Int := ((bitsOf w 7 0 : Nat), sext 7 (bitsOf w 14 8) - 7)

/-- The statistic of a row's sheaves: the means of the squares and of the elements by the Q0.32 reciprocal of the row length, ε added,
and R59. Whether the square of the mean is taken from the mean of the squares is left open (log entry 55); a mean as R46 scales
it stands 2^7 below the elements' values. -/
def normStat (f : Fmt) (rlen eps : Nat) (us : List SheafBits) : NormStat :=
  let sq := us.foldl (normFold f true) wideEmpty
  let sm := us.foldl (normFold f false) wideEmpty
  let mean := sm.w * (rlen : Nat)
  let ms : Int × Int :=
    if Config.normCentres then dyAdd (sq.w * (rlen : Nat)) (sq.xw - 32) (-(mean * mean)) (2 * (sm.xw - 32 + 7))
    else (sq.w * (rlen : Nat), sq.xw - 32)
  let v := dyAdd (max 0 ms.1) ms.2 (epsOf eps).1 (epsOf eps).2
  let r := rsqrtFn v.1.toNat v.2
  ⟨r.1, r.2, sq.inx || sm.inx⟩

/-- One element multiplied by its row's statistic and its weight, exactly; nothing where either sheaf is a zero block. -/
def normElem (f : Fmt) (z : NormStat) (x w : SheafBits) (k : Nat) : Wide :=
  match scaleOf (scaleWord x), scaleOf (scaleWord w) with
  | .val ma ea, .val mb eb =>
    ⟨true, sheafElem f x k * sheafElem f w k * (ma * mb * z.y : Nat), ea + eb - 14 - 30 + z.e, z.inx⟩
  | _, _ => wideEmpty

/-! ## Winnow reference (R66 to R69) -/

/-- One step of the sampling LFSR under the polynomial of R66, in the arrangement Config leaves open. -/
def lfsrStep (x : Word32) : Word32 :=
  match Config.winnowLfsrForm % 4 with
  | 0 =>
    let b := (x >>> 31) ^^^ (x >>> 21) ^^^ (x >>> 1) ^^^ x
    (x <<< 1) ||| (b &&& 1)
  | 1 =>
    let b := x ^^^ (x >>> 10) ^^^ (x >>> 30) ^^^ (x >>> 31)
    (x >>> 1) ||| (b <<< 31)
  | 2 => if x.msb then (x <<< 1) ^^^ 0x00400007 else x <<< 1
  | _ => if x &&& 1 = 1 then (x >>> 1) ^^^ 0xE0000200 else x >>> 1

/-- The exact reference of an output element as an integer multiple of 2^(−142), the smallest exponent that the scale
words can make (R68). -/
def refStep (fa fb : Fmt) (va vb : List Sheaf) (r : Int) (k : Nat) : Int :=
  let n := granuleLen fa fb
  let a := sheafNth va (k * n / fmtCount fa)
  let b := sheafNth vb (k * n / fmtCount fb)
  match scaleOf (scaleWord a.bits), scaleOf (scaleWord b.bits) with
  | .val ma ea, .val mb eb =>
    r + granuleDot fa fb a.bits b.bits (k * n % fmtCount fa) (k * n % fmtCount fb) n * (ma * mb : Nat) *
      (2 ^ (ea + eb - 14 + 142).toNat : Nat)
  | _, _ => r

/-- The reference of a whole element. It sums the captured operands only: whether the earlier value of an accumulating block enters it
is left open by R68 (DESIGN CHOICE, log entry 142). -/
def refElem (fa fb : Fmt) (va vb : List Sheaf) (granules : Nat) : Int :=
  (List.range granules).foldl (refStep fa fb va vb) 0

/-- |o × 2^X − r × 2^(−142)| as a rational numerator over 2^(d): answers (numerator, scale) with the difference equal to
numerator × 2^(−scale). -/
def refDiff (o x r : Int) : Nat × Nat :=
  if x + 142 ≥ 0 then ((o * (2 ^ (x + 142).toNat : Nat) - r).natAbs, 142)
  else ((o - r * (2 ^ (-(x + 142)).toNat : Nat)).natAbs, (-x).toNat)

/-- The element mismatches: |o − r| > ½ × 2^X × (1 + g × INX), exactly (R69). -/
def winnowMismatch (o x r : Int) (g : Nat) (inx : Bool) : Bool :=
  let d := refDiff o x r
  let e := x + (d.2 : Int) - 1
  let b := 1 + g * bit inx
  if 0 ≤ e then decide (b * 2 ^ e.natAbs < d.1) else decide (b < d.1 * 2 ^ e.natAbs)

/-- |o − r| in units of 2^(X − 1), rounded up, stopping at all ones (the ERR field of WNW_LOGB_i). -/
def winnowErr (o x r : Int) : Nat :=
  let d := refDiff o x r
  let e := x + (d.2 : Int) - 1
  min 0xFFFFFFFF (if 0 ≤ e then ceilDiv d.1 (2 ^ e.natAbs) else d.1 * 2 ^ e.natAbs)

end Sys2Proof.Machine
end

