-- ==== Sys2Proof/Machine/Sparse.lean ====
section
/-! DEFINITION. Sparse maps: a list of (key, value) pairs in ONE canonical form (keys strictly rising, and no entry
equal to what an unlisted key reads as), the form in which registers, Loft bytes, DRAM bursts and host bytes are held. -/

namespace Sys2Proof.Machine

/-- A map from numbers to values that lists only the keys whose value differs from the default. -/
abbrev Sparse (β : Type) := List (Nat × β)

variable {β : Type}

/-- The value at a key; an unlisted key reads as `dflt`. -/
def spGet (dflt : Nat → β) : Sparse β → Nat → β
  | [], k => dflt k
  | e :: r, k => if e.1 = k then e.2 else spGet dflt r k

/-- A pair put before the first entry with a larger key. -/
def spIns (k : Nat) (v : β) : Sparse β → Sparse β
  | [] => [(k, v)]
  | e :: r => if k < e.1 then (k, v) :: e :: r else e :: spIns k v r

/-- The map without any entry for a key. -/
def spDel (k : Nat) : Sparse β → Sparse β
  | [] => []
  | e :: r => if e.1 = k then spDel k r else e :: spDel k r

/-- A write: the value an unlisted key reads as removes the entry. -/
def spPut [DecidableEq β] (dflt : Nat → β) (m : Sparse β) (k : Nat) (v : β) : Sparse β :=
  if v = dflt k then spDel k m else spIns k v (spDel k m)

/-- The canonical form: keys strictly rising from `lo`, no entry equal to the default. -/
def spWfFrom [DecidableEq β] (dflt : Nat → β) : Nat → Sparse β → Bool
  | _, [] => true
  | lo, e :: r => decide (lo ≤ e.1) && decide (e.2 ≠ dflt e.1) && spWfFrom dflt (e.1 + 1) r

def spWf [DecidableEq β] (dflt : Nat → β) (m : Sparse β) : Bool := spWfFrom dflt 0 m

/-- Every key of a range `[a, a + n)` set back to the default. -/
def spClearRange (a n : Nat) : Sparse β → Sparse β
  | [] => []
  | e :: r => if a ≤ e.1 ∧ e.1 < a + n then spClearRange a n r else e :: spClearRange a n r

/-- `n` consecutive values from key `a`. -/
def spGetN (dflt : Nat → β) (m : Sparse β) (a : Nat) : Nat → List β
  | 0 => []
  | n + 1 => spGet dflt m a :: spGetN dflt m (a + 1) n

/-- Consecutive values written from key `a`. -/
def spPutL [DecidableEq β] (dflt : Nat → β) (m : Sparse β) (a : Nat) : List β → Sparse β
  | [] => m
  | v :: r => spPutL dflt (spPut dflt m a v) (a + 1) r

end Sys2Proof.Machine
end

