-- ==== Sys2Proof/Machine/FabTypes.lean ====
section
/-! DEFINITION. The state the Morcia fabric keeps beside its registers (chapter 10): flits (R357), the link layer's buffers
and sequence numbers (R359, R361), requests under way (R382, R383, R387), receipts and floors (R388), the expected map
(R365), probes and lost packages (R370). -/

namespace Sys2Proof.Machine

/-- A flit (R357). `units` holds NU units of the payload; the CRC is formed over the bytes when the flit is sent. -/
structure Flit where
  lseq : Nat
  lack : Nat
  ackv : Bool
  nak : Bool
  vc : Nat
  crvc : Nat
  typ : Nat
  src : Nat
  dst : Nat
  hop : Bool
  retry : Bool
  psn : Nat
  job : Nat
  crn : Nat
  tseq : Nat
  offset : Nat
  aux : Nat
  units : List SheafBits
deriving DecidableEq, Repr

def Flit.blank : Flit :=
  { lseq := 0, lack := 0, ackv := false, nak := false, vc := 0, crvc := 0, typ := 0, src := 0, dst := 0, hop := false,
    retry := false, psn := 0, job := 0, crn := 0, tseq := 0, offset := 0, aux := 0, units := [] }

/-- A flit waiting at a transmitter; `part` is the partition its regulator charges (R386), none for relayed flits and for
traffic that belongs to no partition. -/
structure TxFlit where
  flit : Flit
  part : Option Nat
deriving DecidableEq, Repr

/-- A flit sent and not yet acknowledged: the count F it was sent under (R471), itself, its bytes on the fibre, and how often it was
replayed (R352). -/
structure Sent where
  f : Nat
  tx : TxFlit
  bytes : List Byte
  reps : Nat
deriving DecidableEq, Repr

/-- A link's layer: what waits to be sent, what was sent and is not acknowledged, the counts of flits sent and received in
order, whether a NAK was sent for the discards standing and whether one came, credits held and owed per virtual channel, what was
received and is not yet served, the flits an injector delays with what is left of their delay, the flits taken of messages that
are not yet whole, the nonces and keys, the peer's last valid beacon (R363), and the flits put on the fibre. -/
structure LinkSt where
  txq : List TxFlit
  sent : List Sent
  txF : Nat
  rxF : Nat
  nakSent : Bool
  replayDue : Bool
  credits : List Nat
  owed : List Nat
  rx : List Flit
  held : List (Nat × Flit)
  parts : List Flit
  attempts : Nat
  nonce : List Byte
  peerNonce : List Byte
  beacon : Option (List Byte)
  txKey : List Byte
  rxKey : List Byte
  lowerEnd : Bool
  refLost : Bool
  out : List (List Byte)
deriving DecidableEq, Repr

def LinkSt.idle : LinkSt :=
  { txq := [], sent := [], txF := 0, rxF := 0, nakSent := false, replayDue := false, credits := [64, 64, 64, 64, 64],
    owed := [0, 0, 0, 0, 0], rx := [], held := [], parts := [], attempts := 0, nonce := [], peerNonce := [], beacon := none,
    txKey := [], rxKey := [], lowerEnd := false, refLost := false, out := [] }

/-- What a message under way does at its source. -/
inductive RemKind where
  | load | store | accstore | place | atomic
deriving DecidableEq, Repr

/-- A request sent over the fabric and not settled (R382, R383, R387): the link die that sent it, its tag, the gateway request whose
units it fills, its target and partition, its message; `got` the units returned; `item` marks a message of a COPY or ATOMIC item, whose
chunk goes to the address `dst`; `via` the tile and instruction that a store came from; `dead` a load that expired and whose units now
come late (R229). -/
structure Remote where
  ld : Nat
  tag : Nat
  kind : RemKind
  gid : Nat
  pkg : Nat
  part : Nat
  item : Option Nat
  dst : Nat
  msg : List Flit
  got : Nat
  via : Nat
  dead : Bool
deriving DecidableEq, Repr

/-- A receipt (R388): the source package, its link die and TSEQ; PENDING or DONE with the result and the time. -/
structure Receipt where
  src : Nat
  sld : Nat
  tseq : Nat
  done_ : Bool
  result : Word64
  status : Nat
  time : Nat
deriving DecidableEq, Repr

/-- A package entry and an uplink entry of the expected map (R365), with the digests of their identity keys. -/
structure MapPkg where
  pkg : Nat
  digest : List Byte
deriving DecidableEq, Repr

structure MapUp where
  loc : Nat
  peer : Nat
  digest : List Byte
deriving DecidableEq, Repr

structure FabMap where
  topo : Nat
  rack0 : Nat
  pkgs : List MapPkg
  ups : List MapUp
deriving DecidableEq, Repr

/-- The fabric. `receipts`, `floors` and `tseq` are kept per link die (the counter of atomics at l, of other tags at 4 + l); a floor's
key is ld × 2^14 + source package × 4 + source link die, and it is kept plus one (0: nothing was evicted). `probes` are the packages probed and not yet answered, `lost` the packages cut out. -/
structure FabSt where
  links : Sparse LinkSt
  remotes : List Remote
  tseq : Sparse Nat
  receipts : Sparse (List Receipt)
  floors : Sparse Nat
  map : Option FabMap
  probes : List Nat
  lost : List Nat
  tokens : Sparse Nat
deriving DecidableEq, Repr

def FabSt.idle : FabSt :=
  { links := [], remotes := [], tseq := [], receipts := [], floors := [], map := none, probes := [], lost := [], tokens := [] }

end Sys2Proof.Machine
end

