-- ==== Sys2Proof/Machine/MemTypes.lean ====
section
/-! DEFINITION. The state of the memory tiers beside their registers (chapter 9): DRAM bursts with their check bytes
(R323, R328), map entries (R311), moves (R316 to R319), frames, retired lists, regulators and stream windows. -/

namespace Sys2Proof.Machine

/-- One DRAM burst: 64 data bytes and the fields of its 16 check bytes (R323, R328). -/
structure Burst where
  data : BitVec 512
  crc : BitVec 32
  tag : Word64
  gen : BitVec 16
  pf : Byte
deriving DecidableEq, Repr

/-- The states of a page (R311). -/
inductive PgSt where
  | absent | bay | yard | cellar | movein | moveout | lost
deriving DecidableEq, Repr

/-- A map entry (R311). `idle` counts the AGE intervals for which ACC has stood at 0 (R320). -/
structure MapEnt where
  st : PgSt
  frame : Nat
  gen : Nat
  acc : Nat
  err : Nat
  loc : Nat
  idle : Nat
deriving DecidableEq, Repr

def MapEnt.none_ : MapEnt := ⟨.absent, 0, 0, 0, 0, 0, 0⟩

/-- Why a page moves; the order is that of R317. -/
inductive MvWhy where
  | demand | stream | retire | command
deriving DecidableEq, Repr

/-- What a move does: brings a page in, carries it out, carries it between frames of its die (R336), or fetches a weight
page again from its source (R319). -/
inductive MvKind where
  | moveIn | moveOut | retire | refetch
deriving DecidableEq, Repr

/-- A move of a page (R316 to R319): its page and home die, its owner, why and what it is, where it goes or comes from (the
away state and LOC), the frame it fills, whether it runs, whether its source was already tried twice. `cmd` marks the move
that MV_CMD started. -/
structure Move where
  page : Nat
  die : Nat
  part : Nat
  why : MvWhy
  kind : MvKind
  st : PgSt
  loc : Nat
  frame : Nat
  running : Bool
  retried : Bool
  cmd : Bool
deriving DecidableEq, Repr

/-- A partition's stream window (R321): W and the first layer L0. -/
structure Stream where
  w : Nat
  l0 : Nat
deriving DecidableEq, Repr

/-- The memory tiers. `bursts` holds Bay by die and burst number, an unlisted burst standing cleared to zero blocks;
`away` holds the ciphertext of pages moved to Yard or Cellar, by page and burst; `host` is host memory by bus address;
`cached` the pages whose map entries the memory dies hold, `taken` the frames in use, by die; `tokens` the regulators'
buckets in half bytes; `guestData` the units of guest frames held for other packages; `dimms` the modules seen in training, `trained` the
channels that passed it. -/
structure MemSt where
  bursts : Sparse (Option Burst)
  away : Sparse (Option Burst)
  host : List (Nat × BitVec 8)
  map : Sparse MapEnt
  cached : List (Nat × Nat)
  taken : Sparse Bool
  retired : List (Nat × Nat)
  moves : List Move
  tokens : Sparse Nat
  streams : Sparse (Option Stream)
  guestData : Sparse (Option SheafBits)
  dimms : Sparse (Option Dimm)
  trained : Sparse Bool
deriving DecidableEq, Repr

def MemSt.idle : MemSt := ⟨[], [], [], [], [], [], [], [], [], [], [], [], []⟩

end Sys2Proof.Machine
end

