-- ==== Sys2Proof/Machine/RegMap.lean ====
section
/-! DEFINITION. The register map: every register of the manual's tables with its block, offset, strides, width and
fields, each field with its type (R5) and its reset value; the places of the blocks in the control space (R30 to R32,
R346, R438, R520 and the "lies at" sentences of the chapters); and the decoding of an absolute address. -/

namespace Sys2Proof.Machine

/-- The field types of R5; `rwn n` takes n value-changing writes over the life of the part. -/
inductive FTy where
  | ro | rw | wo | w1c | w1s | rwl
  | rwn (n : Nat)
deriving DecidableEq, Repr

/-- A field: which 64-bit half of the register it lies in, its high and low bit there, its type, its reset value. -/
structure Fld where
  half : Nat
  hi : Nat
  lo : Nat
  ty : FTy
  reset : Nat
deriving DecidableEq, Repr

/-- A register row: name, offset from its block, index dimensions (count, stride), width in bits, fields. -/
structure RegRow where
  name : String
  base : Nat
  dims : List (Nat × Nat)
  width : Nat
  fields : List Fld

/-- The field's mask within its half. -/
def fldMask (f : Fld) : Word64 := BitVec.ofNat 64 (2 ^ (f.hi + 1 - f.lo) - 1) <<< f.lo

/-- The value of a field of a 64-bit half. -/
def fldGet (f : Fld) (v : Word64) : Nat := bitsOf v.toNat f.hi f.lo

/-- A 64-bit half with one field replaced, every other bit kept. -/
def fldPut (f : Fld) (v : Word64) (n : Nat) : Word64 :=
  (v &&& ~~~ fldMask f) ||| ((BitVec.ofNat 64 n <<< f.lo) &&& fldMask f)

/-! ## Where the blocks lie (R30, R31) -/

/-- The base of a die's 16 MiB range, by die index; the steward's registers lie from 0. -/
def dieBase (d : Nat) : Nat :=
  if d < 24 then 0x10000000 + d * 0x1000000
  else if d < 28 then 0x30000000 + (d - 24) * 0x1000000
  else if d < 31 then 0x38000000 + (d - 28) * 0x1000000
  else 0

namespace Blk
def stw : Nat := 0
def pwr : Nat := 0x100000
def sec : Nat := 0x200000
def rst : Nat := 0x300000
def clk : Nat := 0x380000
def hst : Nat := 0x400000
def step : Nat := 0x600000
def rte (d : Nat) : Nat := dieBase d + 0x10000
def syn (d : Nat) : Nat := dieBase d + 0x30000
def wnw (d : Nat) : Nat := dieBase d + 0x40000
/-- Tile `g`, by global tile id. -/
def til (g : Nat) : Nat := dieBase (g / 64) + 0x800000 + (g % 64) * 0x10000
/-- The DIE registers of any die (R520). -/
def die (d : Nat) : Nat :=
  if d < 24 then dieBase d else if d < 31 then dieBase d + 0xF0000 else 0x20000
/-- The BNET block of any die (chapter 6, Expert level). -/
def bnet (d : Nat) : Nat := if d < 31 then dieBase d + 0x20000 else 0x480000
/-- The GW block of a memory die, a link die or the steward, by die index. -/
def gw (d : Nat) : Nat := if d < 31 then dieBase d + 0x30000 else 0x490000
/-- The tier registers of a memory die (Bay), a link die (Yard) or the steward (Cellar) (R346). -/
def tq (d : Nat) : Nat := if d < 31 then dieBase d + 0x40000 else 0x4A0000
def mem (m : Nat) : Nat := dieBase (24 + m)
/-- Channel `n`, by package-wide channel number. -/
def ch (n : Nat) : Nat := dieBase (24 + n / 24) + 0x100000 + (n % 24) * 0x10000
def fab (l : Nat) : Nat := dieBase (28 + l)
/-- Link `k`, by package-wide link number. -/
def lnk (k : Nat) : Nat := dieBase (28 + k / 12) + 0x100000 + (k % 12) * 0x10000
/-- The partition registers of partition `p` (chapter 11, Expert level). -/
def pt (p : Nat) : Nat := 0x400000 + p * 0x1000
end Blk

/-! ## Register addresses -/

namespace R
def STW_IDENT : Nat := Blk.stw + 0x0
def STW_LOC : Nat := Blk.stw + 0x10
def WNW_CTL (d : Nat) : Nat := Blk.wnw d + 0x0
def WNW_SEED (d : Nat) : Nat := Blk.wnw d + 0x8
def WNW_CNT0 (d : Nat) : Nat := Blk.wnw d + 0x10
def WNW_CNT1 (d : Nat) : Nat := Blk.wnw d + 0x18
def WNW_LOGPTR (d : Nat) : Nat := Blk.wnw d + 0x20
def WNW_LOGA (d i : Nat) : Nat := Blk.wnw d + 0x100 + i * 0x10
def WNW_LOGB (d i : Nat) : Nat := Blk.wnw d + 0x108 + i * 0x10
def TIL_RNG (g : Nat) : Nat := Blk.til g + 0x40
def TIL_ARSTAT (g : Nat) : Nat := Blk.til g + 0x48
def TIL_ARCNT0 (g : Nat) : Nat := Blk.til g + 0x8100
def TIL_ARCNT1 (g : Nat) : Nat := Blk.til g + 0x8108
def TIL_ARCNT2 (g : Nat) : Nat := Blk.til g + 0x8110
def TIL_CTL (g : Nat) : Nat := Blk.til g + 0x0
def TIL_STAT (g : Nat) : Nat := Blk.til g + 0x8
def TIL_FAULT (g : Nat) : Nat := Blk.til g + 0x10
def TIL_FADDR (g : Nat) : Nat := Blk.til g + 0x18
def TIL_OWNER (g : Nat) : Nat := Blk.til g + 0x20
def TIL_CLK (g : Nat) : Nat := Blk.til g + 0x28
def TIL_EQ (g i : Nat) : Nat := Blk.til g + 0x1000 + i * 0x40
def BNK_PWR (g : Nat) : Nat := Blk.til g + 0x3000
def BNK_STAT (g : Nat) : Nat := Blk.til g + 0x3008
def BNK_BUSY (g : Nat) : Nat := Blk.til g + 0x3010
def BNK_DADDR (g : Nat) : Nat := Blk.til g + 0x3020
def BNK_DCTL (g : Nat) : Nat := Blk.til g + 0x3028
def BNK_DDATA (g i : Nat) : Nat := Blk.til g + 0x3040 + i * 0x8
def TIL_ECNTA (g i : Nat) : Nat := Blk.til g + 0x8000 + i * 0x20
def TIL_ECNTB (g i : Nat) : Nat := Blk.til g + 0x8008 + i * 0x20
def TIL_ECNTC (g i : Nat) : Nat := Blk.til g + 0x8010 + i * 0x20
def TIL_MECNT (g : Nat) : Nat := Blk.til g + 0x80c0
def TIL_MECNT2 (g : Nat) : Nat := Blk.til g + 0x80c8
def TIL_BNKCNT (g : Nat) : Nat := Blk.til g + 0x80d0
def TIL_CNTCTL (g : Nat) : Nat := Blk.til g + 0x80f8
def TIL_PBASE (g : Nat) : Nat := Blk.til g + 0x80
def TIL_VAR (g i : Nat) : Nat := Blk.til g + 0x88 + i * 0x8
def TIL_YREQ (g : Nat) : Nat := Blk.til g + 0xa8
def TIL_SPC (g i : Nat) : Nat := Blk.til g + 0x1008 + i * 0x40
def TIL_LOOP (g i : Nat) : Nat := Blk.til g + 0x1010 + i * 0x40
def TIL_ISTAT (g i : Nat) : Nat := Blk.til g + 0x1018 + i * 0x40
def TIL_DBASE (g i : Nat) : Nat := Blk.til g + 0x1020 + i * 0x40
def TIL_ALIAS (g i : Nat) : Nat := Blk.til g + 0x2000 + i * 0x8
def TIL_ARC (g i : Nat) : Nat := Blk.til g + 0x2200 + i * 0x8
def TIL_TMO (g i : Nat) : Nat := Blk.til g + 0x2400 + i * 0x8
def TIL_SYNSTAT (g : Nat) : Nat := Blk.til g + 0x2500
def TIL_SYNCNT0 (g : Nat) : Nat := Blk.til g + 0x8140
def TIL_SYNCNT1 (g : Nat) : Nat := Blk.til g + 0x8148
def SYN_GRP (d i : Nat) : Nat := Blk.syn d + 0x0 + i * 0x4
def SYN_SEM (d i : Nat) : Nat := Blk.syn d + 0x1000 + i * 0x4
def SYN_CLN (d i j : Nat) : Nat := Blk.syn d + 0x4000 + i * 0x200 + j * 0x8
def SYN_DIE (d i : Nat) : Nat := Blk.syn d + 0x5000 + i * 0x8
def PKN_CFG (i : Nat) : Nat := Blk.step + 0x80000 + i * 0x10
def PKN_ARR (i : Nat) : Nat := Blk.step + 0x80008 + i * 0x10
def FBN_CFG (l i : Nat) : Nat := Blk.fab l + 0x80000 + i * 0x20
def FBN_KIDS (l i : Nat) : Nat := Blk.fab l + 0x80008 + i * 0x20
def FBN_ARR (l i : Nat) : Nat := Blk.fab l + 0x80010 + i * 0x20
def BNET_CTL (d : Nat) : Nat := Blk.bnet d + 0x0
def BNET_WDOG (d : Nat) : Nat := Blk.bnet d + 0x8
def BNET_VAR (d i : Nat) : Nat := Blk.bnet d + 0x10 + i * 0x8
def BNET_RPADDR (d : Nat) : Nat := Blk.bnet d + 0x40
def BNET_RPDATA (d : Nat) : Nat := Blk.bnet d + 0x48
def BNET_FAULT (d : Nat) : Nat := Blk.bnet d + 0x80
def BNET_OCFG (d i j : Nat) : Nat := Blk.bnet d + 0x1000 + i * 0x400 + j * 0x20
def BNET_OST (d i j : Nat) : Nat := Blk.bnet d + 0x1008 + i * 0x400 + j * 0x20
def BNET_OCNT (d i j : Nat) : Nat := Blk.bnet d + 0x1010 + i * 0x400 + j * 0x20
def BNET_ITURN (d i j : Nat) : Nat := Blk.bnet d + 0x3000 + i * 0x100 + j * 0x4
def GW_QCFG (d i : Nat) : Nat := Blk.gw d + 0x0 + i * 0x8
def GW_QCNT (d i : Nat) : Nat := Blk.gw d + 0x200 + i * 0x8
def GW_ICNT (d : Nat) : Nat := Blk.gw d + 0x400
def AW_STAT (g : Nat) : Nat := Blk.til g + 0x4000
def AW_RING (g : Nat) : Nat := Blk.til g + 0x4008
def AW_CNT0 (g : Nat) : Nat := Blk.til g + 0x8180
def AW_CNT1 (g : Nat) : Nat := Blk.til g + 0x8188
def AW_CNT2 (g : Nat) : Nat := Blk.til g + 0x8190
def AW_CNT3 (g : Nat) : Nat := Blk.til g + 0x8198
def RTE_CFG (d : Nat) : Nat := Blk.rte d + 0x0
def RTE_CFG2 (d : Nat) : Nat := Blk.rte d + 0x8
def RTE_STAT (d : Nat) : Nat := Blk.rte d + 0x10
def RTE_CNT0 (d : Nat) : Nat := Blk.rte d + 0x18
def RTE_CNT1 (d : Nat) : Nat := Blk.rte d + 0x20
def RTE_CNTCTL (d : Nat) : Nat := Blk.rte d + 0xf8
def RTE_XSET (d i : Nat) : Nat := Blk.rte d + 0x100 + i * 0x8
def RTE_ECNT (d i : Nat) : Nat := Blk.rte d + 0x4000 + i * 0x4
def RTE_EMAP (d i : Nat) : Nat := Blk.rte d + 0x8000 + i * 0x4
def STEP_PLAN (i : Nat) : Nat := Blk.step + 0x0 + i * 0x40
def STEP_STAT (i : Nat) : Nat := Blk.step + 0x8 + i * 0x40
def STEP_TIME (i : Nat) : Nat := Blk.step + 0x10 + i * 0x40
def STEP_SCNT (i : Nat) : Nat := Blk.step + 0x18 + i * 0x40
def STEP_XCNT (i : Nat) : Nat := Blk.step + 0x20 + i * 0x40
def STEP_SPILL (i : Nat) : Nat := Blk.step + 0x28 + i * 0x40
def STEP_CTO (i : Nat) : Nat := Blk.step + 0x30 + i * 0x40
def STEP_CNTCLR (i : Nat) : Nat := Blk.step + 0x38 + i * 0x40
def STEP_MISSID (i j : Nat) : Nat := Blk.step + 0x400 + i * 0x40 + j * 0x4
def MEM_CTL (m : Nat) : Nat := Blk.mem m + 0x0
def MEM_GUEST (m : Nat) : Nat := Blk.mem m + 0x10
def MEM_RET (m : Nat) : Nat := Blk.mem m + 0x18
def MEM_RGN (m i j : Nat) : Nat := Blk.mem m + 0x50000 + i * 0x200 + j * 0x10
def MV_ADDR (m : Nat) : Nat := Blk.mem m + 0x60000
def MV_DEST (m : Nat) : Nat := Blk.mem m + 0x60008
def MV_CMD (m : Nat) : Nat := Blk.mem m + 0x60010
def CH_STAT (n : Nat) : Nat := Blk.ch n + 0x0
def CH_ERR (n : Nat) : Nat := Blk.ch n + 0x8
def TQ_QUOTA (d i : Nat) : Nat := Blk.tq d + 0x0 + i * 0x40
def TQ_REG (d i : Nat) : Nat := Blk.tq d + 0x8 + i * 0x40
def TQ_BOUND (d i : Nat) : Nat := Blk.tq d + 0x10 + i * 0x40
def TQ_STALL0 (d i : Nat) : Nat := Blk.tq d + 0x18 + i * 0x40
def TQ_STALL1 (d i : Nat) : Nat := Blk.tq d + 0x20 + i * 0x40
def TQ_STALL2 (d i : Nat) : Nat := Blk.tq d + 0x28 + i * 0x40
def TQ_STALL3 (d i : Nat) : Nat := Blk.tq d + 0x30 + i * 0x40
def FB_CTL (l : Nat) : Nat := Blk.fab l + 0x0
def FBP_JOB (l i : Nat) : Nat := Blk.fab l + 0x10000 + i * 0x40
def FBP_BOUND (l i : Nat) : Nat := Blk.fab l + 0x10008 + i * 0x40
def FBP_LREG (l i : Nat) : Nat := Blk.fab l + 0x10010 + i * 0x40
def FBP_XFWD (l i : Nat) : Nat := Blk.fab l + 0x10018 + i * 0x40
def FBP_CNT0 (l i : Nat) : Nat := Blk.fab l + 0x10020 + i * 0x40
def FBP_CNT1 (l i : Nat) : Nat := Blk.fab l + 0x10028 + i * 0x40
def FBP_CNT2 (l i : Nat) : Nat := Blk.fab l + 0x10030 + i * 0x40
def FB_JOB (l i : Nat) : Nat := Blk.fab l + 0x10800 + i * 0x4
def FB_RT (l i : Nat) : Nat := Blk.fab l + 0x50000 + i * 0x10
def FB_WIN (l i j : Nat) : Nat := Blk.fab l + 0x60000 + i * 0x100 + j * 0x10
def FB_RCPT0 (l : Nat) : Nat := Blk.fab l + 0x70000
def FB_RCPT1 (l : Nat) : Nat := Blk.fab l + 0x70008
def FB_RCPT2 (l : Nat) : Nat := Blk.fab l + 0x70010
def LNK_STAT (k : Nat) : Nat := Blk.lnk k + 0x0
def LNK_CNT0 (k : Nat) : Nat := Blk.lnk k + 0x8
def LNK_CNT1 (k : Nat) : Nat := Blk.lnk k + 0x10
def LNK_INJ (k : Nat) : Nat := Blk.lnk k + 0x100
def PT_CTL (p : Nat) : Nat := Blk.pt p + 0x0
def PT_STEP (p : Nat) : Nat := Blk.pt p + 0x8
def PT_WGEN (p : Nat) : Nat := Blk.pt p + 0x10
def PT_SERVE (p : Nat) : Nat := Blk.pt p + 0x18
def PT_INAREA (p : Nat) : Nat := Blk.pt p + 0x20
def PT_VERDICT (p : Nat) : Nat := Blk.pt p + 0x28
def PT_SAVE (p : Nat) : Nat := Blk.pt p + 0x30
def PT_WDIR (p : Nat) : Nat := Blk.pt p + 0x38
def PT_SLICE (p : Nat) : Nat := Blk.pt p + 0x40
def PT_RB (p i : Nat) : Nat := Blk.pt p + 0x80 + i * 0x20
def PT_RC (p i : Nat) : Nat := Blk.pt p + 0x88 + i * 0x20
def PT_RP (p i : Nat) : Nat := Blk.pt p + 0x90 + i * 0x20
def PT_RK (p i : Nat) : Nat := Blk.pt p + 0x98 + i * 0x20
def PT_CNT0 (p : Nat) : Nat := Blk.pt p + 0x180
def PT_CNT1 (p : Nat) : Nat := Blk.pt p + 0x188
def MB_DB : Nat := Blk.stw + 0x18000
def STW_TIME : Nat := Blk.stw + 0x20
def PWR_CAP : Nat := Blk.pwr + 0x0
def PWR_STAT : Nat := Blk.pwr + 0x8
def PWR_CTL : Nat := Blk.pwr + 0x10
def PWR_MASK : Nat := Blk.pwr + 0x18
def PWR_CNT : Nat := Blk.pwr + 0x20
def PWR_BALE : Nat := Blk.pwr + 0x28
def PWR_CNTCLR : Nat := Blk.pwr + 0x30
def PWR_OVRPTR : Nat := Blk.pwr + 0x40
def AGE_PTR : Nat := Blk.pwr + 0x41000
def PWR_ISL (i : Nat) : Nat := Blk.pwr + 0x10000 + i * 0x10
def PWR_TS (i : Nat) : Nat := Blk.pwr + 0x20000 + i * 0x4
def PWR_THCFG : Nat := Blk.pwr + 0x21000
def CLK_ISL (i : Nat) : Nat := Blk.clk + 0x0 + i * 0x10
def CLK_DCFG : Nat := Blk.clk + 0x40000
def SEC_STAT : Nat := Blk.sec + 0x0
def SEC_LIFE : Nat := Blk.sec + 0x8
def SEC_SVN : Nat := Blk.sec + 0x10
def SEC_OWNER : Nat := Blk.sec + 0x18
def SEC_DOMAIN : Nat := Blk.sec + 0x20
def SEC_DEBUG : Nat := Blk.sec + 0x28
def SEC_EVT : Nat := Blk.sec + 0x30
def SEC_REPAIR (i : Nat) : Nat := Blk.sec + 0x40 + i * 0x8
def SEC_OWNDIG (i j : Nat) : Nat := Blk.sec + 0x200 + i * 0x20 + j * 0x8
def SEC_MEAS (i j : Nat) : Nat := Blk.sec + 0x1000 + i * 0x20 + j * 0x8
def SEC_PMEAS (i j : Nat) : Nat := Blk.sec + 0x2000 + i * 0x20 + j * 0x8
def SEC_WKEY (i j : Nat) : Nat := Blk.sec + 0x3000 + i * 0x80 + j * 0x8
def RST_CAUSE : Nat := Blk.rst + 0x0
def RST_STAT : Nat := Blk.rst + 0x8
def RST_WDOG : Nat := Blk.rst + 0x10
def RST_DIE : Nat := Blk.rst + 0x18
def RST_EPOCH (i : Nat) : Nat := Blk.rst + 0x100 + i * 0x10
def STW_FLOGPTR : Nat := Blk.stw + 0x30000
def DIE_CTL (d : Nat) : Nat := Blk.die d + 0x0
def DIE_STAT (d : Nat) : Nat := Blk.die d + 0x8
def DIE_CNTCTL (d : Nat) : Nat := Blk.die d + 0xf8
def BNK_MARCH (g : Nat) : Nat := Blk.til g + 0x3100
def BNK_MRES (g : Nat) : Nat := Blk.til g + 0x3108
def HST_PORTMAP : Nat := Blk.hst + 0xc0000
def HST_RGN (i j : Nat) : Nat := Blk.hst + 0xb0000 + i * 0x200 + j * 0x10
def DIE_RGN (d i j : Nat) : Nat := Blk.die d + 0x8000 + i * 0x200 + j * 0x10
end R

/-! ## Fields -/

namespace F
def STW_IDENT_PART : Fld := ⟨0, 31, 16, .ro, 0x320⟩
def STW_IDENT_STEPPING : Fld := ⟨0, 15, 8, .ro, 0x10⟩
def STW_IDENT_FWIF : Fld := ⟨0, 7, 0, .ro, 0⟩
def STW_LOC_PKGID : Fld := ⟨0, 11, 0, .rwl, 0⟩
def STW_LOC_TRAYSLOT : Fld := ⟨0, 20, 16, .ro, 0⟩
def STW_LOC_TSVALID : Fld := ⟨0, 21, 21, .ro, 0⟩
def STW_LOC_NOSLOT : Fld := ⟨0, 29, 29, .w1c, 0⟩
def STW_LOC_MISMATCH : Fld := ⟨0, 30, 30, .w1c, 0⟩
def STW_LOC_LOCK : Fld := ⟨0, 31, 31, .w1s, 0⟩
def WNW_CTL_EN : Fld := ⟨0, 0, 0, .rw, 0⟩
def WNW_CTL_RATE : Fld := ⟨0, 12, 8, .rw, 0xc⟩
def WNW_CTL_CLMASK : Fld := ⟨0, 23, 16, .rw, 0⟩
def WNW_CTL_FLTMASK : Fld := ⟨0, 31, 24, .rw, 0⟩
def WNW_SEED_LFSR : Fld := ⟨0, 31, 0, .rw, 1⟩
def WNW_CNT0_SAMPLED : Fld := ⟨0, 31, 0, .ro, 0⟩
def WNW_CNT0_MISMATCH : Fld := ⟨0, 63, 32, .ro, 0⟩
def WNW_CNT1_SKIPPED : Fld := ⟨0, 31, 0, .ro, 0⟩
def WNW_CNT1_ABANDONED : Fld := ⟨0, 63, 32, .ro, 0⟩
def WNW_LOGPTR_NEXT : Fld := ⟨0, 3, 0, .ro, 0⟩
def WNW_LOGPTR_FREEZE : Fld := ⟨0, 4, 4, .rw, 0⟩
def WNW_LOGPTR_LOST : Fld := ⟨0, 15, 8, .ro, 0⟩
def WNW_LOGPTR_LOSTCLR : Fld := ⟨0, 30, 30, .wo, 0⟩
def WNW_LOGPTR_CNTCLR : Fld := ⟨0, 31, 31, .wo, 0⟩
def WNW_LOGA_TILE : Fld := ⟨0, 10, 0, .ro, 0⟩
def WNW_LOGA_PART : Fld := ⟨0, 15, 12, .ro, 0⟩
def WNW_LOGA_BLKIDX : Fld := ⟨0, 31, 16, .ro, 0⟩
def WNW_LOGA_IADDR : Fld := ⟨0, 63, 32, .ro, 0⟩
def WNW_LOGB_X : Fld := ⟨0, 15, 0, .ro, 0⟩
def WNW_LOGB_ELEM : Fld := ⟨0, 22, 16, .ro, 0⟩
def WNW_LOGB_INX : Fld := ⟨0, 24, 24, .ro, 0⟩
def WNW_LOGB_A48 : Fld := ⟨0, 25, 25, .ro, 0⟩
def WNW_LOGB_ERR : Fld := ⟨0, 63, 32, .ro, 0⟩
def TIL_RNG_STATE : Fld := ⟨0, 63, 0, .rw, 0x5d3a0c71b2e49f86⟩
def TIL_ARSTAT_SAT : Fld := ⟨0, 0, 0, .w1c, 0⟩
def TIL_ARSTAT_SATBLK : Fld := ⟨0, 1, 1, .w1c, 0⟩
def TIL_ARSTAT_FORMAT : Fld := ⟨0, 2, 2, .w1c, 0⟩
def TIL_ARSTAT_INEXACT : Fld := ⟨0, 3, 3, .w1c, 0⟩
def TIL_ARSTAT_ACCSAT : Fld := ⟨0, 4, 4, .w1c, 0⟩
def TIL_ARSTAT_POISON : Fld := ⟨0, 5, 5, .w1c, 0⟩
def TIL_ARSTAT_LSAT : Fld := ⟨0, 6, 6, .w1c, 0⟩
def TIL_ARSTAT_CNTCLR : Fld := ⟨0, 31, 31, .wo, 0⟩
def TIL_ARCNT0_SATELEM : Fld := ⟨0, 31, 0, .ro, 0⟩
def TIL_ARCNT0_SATBLK : Fld := ⟨0, 63, 32, .ro, 0⟩
def TIL_ARCNT1_ZEROBLK : Fld := ⟨0, 31, 0, .ro, 0⟩
def TIL_ARCNT1_INEXACT : Fld := ⟨0, 63, 32, .ro, 0⟩
def TIL_ARCNT2_FORMAT : Fld := ⟨0, 15, 0, .ro, 0⟩
def TIL_ARCNT2_POISON : Fld := ⟨0, 31, 16, .ro, 0⟩
def TIL_ARCNT2_WNWSTALL : Fld := ⟨0, 63, 32, .ro, 0⟩
def TIL_CTL_RUN : Fld := ⟨0, 5, 0, .rw, 0⟩
def TIL_CTL_ILV : Fld := ⟨0, 10, 8, .rw, 2⟩
def TIL_CTL_SRST : Fld := ⟨0, 16, 16, .wo, 0⟩
def TIL_STAT_STATE (e : Nat) : Fld := ⟨0, 4 * e + 3, 4 * e + 0, .ro, 6⟩
def TIL_STAT_QUIET : Fld := ⟨0, 24, 24, .ro, 1⟩
def TIL_FAULT_SRC : Fld := ⟨0, 2, 0, .ro, 0⟩
def TIL_FAULT_VALID : Fld := ⟨0, 7, 7, .ro, 0⟩
def TIL_FAULT_CAUSE : Fld := ⟨0, 13, 8, .ro, 0⟩
def TIL_FAULT_MORE : Fld := ⟨0, 23, 16, .ro, 0⟩
def TIL_FAULT_CLR : Fld := ⟨0, 31, 31, .wo, 0⟩
def TIL_FADDR_IADDR : Fld := ⟨0, 31, 0, .ro, 0⟩
def TIL_FADDR_LADDR : Fld := ⟨0, 53, 32, .ro, 0⟩
def TIL_FADDR_LVALID : Fld := ⟨0, 63, 63, .ro, 0⟩
def TIL_OWNER_PART : Fld := ⟨0, 3, 0, .ro, 0⟩
def TIL_OWNER_ASSIGNED : Fld := ⟨0, 8, 8, .ro, 0⟩
def TIL_CLK_FREQ : Fld := ⟨0, 6, 0, .ro, 0⟩
def TIL_EQ_FILL : Fld := ⟨0, 11, 0, .ro, 0⟩
def TIL_EQ_FREE0 : Fld := ⟨0, 23, 16, .ro, 0⟩
def TIL_EQ_FREE1 : Fld := ⟨0, 31, 24, .ro, 0⟩
def TIL_EQ_FREE2 : Fld := ⟨0, 39, 32, .ro, 0⟩
def BNK_PWR_TGT (b : Nat) : Fld := ⟨0, 2 * b + 1, 2 * b + 0, .rw, 0⟩
def BNK_STAT_CUR (b : Nat) : Fld := ⟨0, 2 * b + 1, 2 * b + 0, .ro, 0⟩
def BNK_BUSY_BUSY : Fld := ⟨0, 31, 0, .ro, 0⟩
def BNK_BUSY_REFUSED : Fld := ⟨0, 63, 32, .w1c, 0⟩
def BNK_DADDR_LINE : Fld := ⟨0, 21, 6, .rw, 0⟩
def BNK_DCTL_GO : Fld := ⟨0, 0, 0, .wo, 0⟩
def BNK_DCTL_WR : Fld := ⟨0, 1, 1, .rw, 0⟩
def BNK_DCTL_PSN : Fld := ⟨0, 3, 2, .rw, 0⟩
def BNK_DCTL_DONE : Fld := ⟨0, 8, 8, .ro, 1⟩
def BNK_DCTL_ERR : Fld := ⟨0, 9, 9, .ro, 0⟩
def BNK_DDATA_DATA : Fld := ⟨0, 63, 0, .rw, 0⟩
def TIL_ECNTA_RETIRED : Fld := ⟨0, 31, 0, .ro, 0⟩
def TIL_ECNTA_BUSY : Fld := ⟨0, 63, 32, .ro, 0⟩
def TIL_ECNTB_WAIT : Fld := ⟨0, 31, 0, .ro, 0⟩
def TIL_ECNTB_CREDIT : Fld := ⟨0, 63, 32, .ro, 0⟩
def TIL_ECNTC_BANK : Fld := ⟨0, 31, 0, .ro, 0⟩
def TIL_ECNTC_STARVE : Fld := ⟨0, 63, 32, .ro, 0⟩
def TIL_MECNT_MAC64 : Fld := ⟨0, 63, 0, .ro, 0⟩
def TIL_MECNT2_ZSKIP : Fld := ⟨0, 31, 0, .ro, 0⟩
def TIL_MECNT2_STRIPS : Fld := ⟨0, 63, 32, .ro, 0⟩
def TIL_BNKCNT_CONFLICT : Fld := ⟨0, 31, 0, .ro, 0⟩
def TIL_BNKCNT_ARRLOST : Fld := ⟨0, 47, 32, .ro, 0⟩
def TIL_BNKCNT_DBGAGED : Fld := ⟨0, 63, 48, .ro, 0⟩
def TIL_CNTCTL_FREEZE : Fld := ⟨0, 0, 0, .rw, 0⟩
def TIL_CNTCTL_CLR : Fld := ⟨0, 31, 31, .wo, 0⟩
def TIL_PBASE_ADDR : Fld := ⟨0, 63, 6, .rw, 0⟩
def TIL_VAR_POINT : Fld := ⟨0, 7, 0, .rw, 0⟩
def TIL_VAR_VARIANT : Fld := ⟨0, 13, 8, .rw, 0⟩
def TIL_VAR_VALID : Fld := ⟨0, 31, 31, .rw, 0⟩
def TIL_YREQ_REQ : Fld := ⟨0, 0, 0, .rw, 0⟩
def TIL_YREQ_AT : Fld := ⟨0, 1, 1, .ro, 0⟩
def TIL_YREQ_ENDED : Fld := ⟨0, 2, 2, .ro, 0⟩
def TIL_YREQ_ID : Fld := ⟨0, 31, 16, .ro, 0⟩
def TIL_SPC_OFF : Fld := ⟨0, 39, 0, .rw, 0⟩
def TIL_LOOP_IDX (k : Nat) : Fld := ⟨0, 16 * k + 15, 16 * k + 0, .ro, 0⟩
def TIL_ISTAT_LAST : Fld := ⟨0, 7, 0, .ro, 0⟩
def TIL_ISTAT_STICKY : Fld := ⟨0, 15, 8, .w1c, 0⟩
def TIL_DBASE_BASE : Fld := ⟨0, 21, 11, .rw, 0⟩
def TIL_ALIAS_INDEX : Fld := ⟨0, 10, 0, .rw, 0⟩
def TIL_ALIAS_TYPE : Fld := ⟨0, 13, 12, .rw, 0⟩
def TIL_ALIAS_RELCNT : Fld := ⟨0, 31, 16, .rw, 0⟩
def TIL_ARC_COUNT : Fld := ⟨0, 15, 0, .rw, 0⟩
def TIL_ARC_PART : Fld := ⟨0, 31, 16, .rw, 0⟩
def TIL_ARC_QUANT : Fld := ⟨0, 47, 32, .rw, 1⟩
def TIL_ARC_MODE : Fld := ⟨0, 48, 48, .rw, 0⟩
def TIL_ARC_EXPIRED : Fld := ⟨0, 49, 49, .w1c, 0⟩
def TIL_TMO_CYCLES : Fld := ⟨0, 31, 0, .rw, 0xffffffff⟩
def TIL_SYNSTAT_AREF : Fld := ⟨0, 0, 0, .w1c, 0⟩
def TIL_SYNSTAT_POSTED : Fld := ⟨0, 13, 8, .ro, 0⟩
def TIL_SYNCNT0_CLOSECALL : Fld := ⟨0, 31, 0, .ro, 0⟩
def TIL_SYNCNT0_STALE : Fld := ⟨0, 63, 32, .ro, 0⟩
def TIL_SYNCNT1_TMOFIRED : Fld := ⟨0, 31, 0, .ro, 0⟩
def TIL_SYNCNT1_SPURIOUS : Fld := ⟨0, 63, 32, .ro, 0⟩
def SYN_GRP_PART : Fld := ⟨0, 3, 0, .rw, 0⟩
def SYN_GRP_ASSIGNED : Fld := ⟨0, 8, 8, .rw, 0⟩
def SYN_SEM_COUNT : Fld := ⟨0, 15, 0, .rw, 0⟩
def SYN_SEM_OWNER : Fld := ⟨0, 21, 16, .rw, 0⟩
def SYN_SEM_OWNED : Fld := ⟨0, 24, 24, .rw, 0⟩
def SYN_SEM_POSTED : Fld := ⟨0, 25, 25, .ro, 0⟩
def SYN_CLN_EXPECT : Fld := ⟨0, 7, 0, .rw, 0⟩
def SYN_CLN_ARRIVED : Fld := ⟨0, 15, 8, .ro, 0⟩
def SYN_CLN_PENDING : Fld := ⟨0, 23, 16, .ro, 0⟩
def SYN_CLN_TOP : Fld := ⟨0, 24, 24, .rw, 0⟩
def SYN_CLN_EN : Fld := ⟨0, 25, 25, .rw, 0⟩
def SYN_CLN_UP : Fld := ⟨0, 26, 26, .ro, 0⟩
def SYN_CLN_PART : Fld := ⟨0, 35, 32, .rw, 0⟩
def SYN_DIE_EXPECT : Fld := ⟨0, 7, 0, .rw, 0⟩
def SYN_DIE_ARRIVED : Fld := ⟨0, 15, 8, .ro, 0⟩
def SYN_DIE_TOP : Fld := ⟨0, 24, 24, .rw, 0⟩
def SYN_DIE_EN : Fld := ⟨0, 25, 25, .rw, 0⟩
def SYN_DIE_UP : Fld := ⟨0, 26, 26, .ro, 0⟩
def SYN_DIE_PART : Fld := ⟨0, 35, 32, .rw, 0⟩
def PKN_CFG_EXPECT : Fld := ⟨0, 23, 0, .rw, 0⟩
def PKN_CFG_TOP : Fld := ⟨0, 24, 24, .rw, 0⟩
def PKN_CFG_EN : Fld := ⟨0, 25, 25, .rw, 0⟩
def PKN_CFG_UP : Fld := ⟨0, 26, 26, .ro, 0⟩
def PKN_CFG_SCHILD : Fld := ⟨0, 27, 27, .rw, 0⟩
def PKN_CFG_SARR : Fld := ⟨0, 28, 28, .w1s, 0⟩
def PKN_CFG_PART : Fld := ⟨0, 35, 32, .rw, 0⟩
def PKN_ARR_ARRIVED : Fld := ⟨0, 23, 0, .ro, 0⟩
def FBN_CFG_PARENT : Fld := ⟨0, 11, 0, .rw, 0⟩
def FBN_CFG_ROOT : Fld := ⟨0, 12, 12, .rw, 0⟩
def FBN_CFG_EN : Fld := ⟨0, 13, 13, .rw, 0⟩
def FBN_CFG_UP : Fld := ⟨0, 14, 14, .ro, 0⟩
def FBN_CFG_PART : Fld := ⟨0, 19, 16, .rw, 0⟩
def FBN_CFG_PLINK : Fld := ⟨0, 37, 32, .rw, 0⟩
def FBN_KIDS_LINKS : Fld := ⟨0, 35, 0, .rw, 0⟩
def FBN_KIDS_SELF : Fld := ⟨0, 36, 36, .rw, 0⟩
def FBN_ARR_LINKS : Fld := ⟨0, 35, 0, .ro, 0⟩
def FBN_ARR_SELF : Fld := ⟨0, 36, 36, .ro, 0⟩
def BNET_CTL_PART : Fld := ⟨0, 3, 0, .rw, 0⟩
def BNET_CTL_START : Fld := ⟨0, 8, 8, .wo, 0⟩
def BNET_CTL_ERR : Fld := ⟨0, 16, 16, .w1c, 0⟩
def BNET_WDOG_CYCLES : Fld := ⟨0, 31, 0, .rw, 0x100000⟩
def BNET_VAR_POINT : Fld := ⟨0, 7, 0, .rw, 0⟩
def BNET_VAR_VARIANT : Fld := ⟨0, 13, 8, .rw, 0⟩
def BNET_VAR_VALID : Fld := ⟨0, 31, 31, .rw, 0⟩
def BNET_RPADDR_ENTRY : Fld := ⟨0, 9, 0, .rw, 0⟩
def BNET_RPADDR_OUTPUT : Fld := ⟨0, 14, 10, .rw, 0⟩
def BNET_RPADDR_ROUTER : Fld := ⟨0, 18, 16, .rw, 0⟩
def BNET_RPADDR_AUTOINC : Fld := ⟨0, 31, 31, .rw, 0⟩
def BNET_RPDATA_ENTRY : Fld := ⟨0, 63, 0, .rw, 0⟩
def BNET_FAULT_ENTRY : Fld := ⟨0, 9, 0, .ro, 0⟩
def BNET_FAULT_OUTPUT : Fld := ⟨0, 14, 10, .ro, 0⟩
def BNET_FAULT_ROUTER : Fld := ⟨0, 18, 16, .ro, 0⟩
def BNET_FAULT_CAUSE : Fld := ⟨0, 23, 20, .ro, 0⟩
def BNET_FAULT_VALID : Fld := ⟨0, 24, 24, .ro, 0⟩
def BNET_FAULT_MORE : Fld := ⟨0, 30, 25, .ro, 0⟩
def BNET_FAULT_CLR : Fld := ⟨0, 31, 31, .wo, 0⟩
def BNET_OCFG_PART : Fld := ⟨0, 3, 0, .rw, 0⟩
def BNET_OCFG_ASSIGNED : Fld := ⟨0, 8, 8, .rw, 0⟩
def BNET_OST_ENTRY : Fld := ⟨0, 9, 0, .ro, 0⟩
def BNET_OST_STATE : Fld := ⟨0, 14, 12, .ro, 0⟩
def BNET_OST_REMAIN : Fld := ⟨0, 47, 32, .ro, 0⟩
def BNET_OCNT_STARVE : Fld := ⟨0, 31, 0, .ro, 0⟩
def BNET_OCNT_BLOCK : Fld := ⟨0, 63, 32, .ro, 0⟩
def BNET_ITURN_TURN : Fld := ⟨0, 9, 0, .ro, 0⟩
def GW_QCFG_QUOTA : Fld := ⟨0, 15, 0, .rw, 0⟩
def GW_QCFG_PART : Fld := ⟨0, 19, 16, .rw, 0⟩
def GW_QCFG_ASSIGNED : Fld := ⟨0, 20, 20, .rw, 0⟩
def GW_QCFG_USED : Fld := ⟨0, 47, 32, .ro, 0⟩
def GW_QCFG_ERR : Fld := ⟨0, 63, 63, .w1c, 0⟩
def GW_QCNT_FILLED : Fld := ⟨0, 31, 0, .ro, 0⟩
def GW_QCNT_LATE : Fld := ⟨0, 63, 32, .ro, 0⟩
def GW_ICNT_QFULL : Fld := ⟨0, 31, 0, .ro, 0⟩
def GW_ICNT_BADOP : Fld := ⟨0, 63, 32, .ro, 0⟩
def AW_STAT_ENT : Fld := ⟨0, 9, 0, .ro, 0⟩
def AW_STAT_PHASE : Fld := ⟨0, 13, 12, .ro, 0⟩
def AW_STAT_HELD : Fld := ⟨0, 19, 16, .ro, 0⟩
def AW_RING_LANDED : Fld := ⟨0, 14, 0, .ro, 0⟩
def AW_RING_HELD : Fld := ⟨0, 30, 16, .ro, 0⟩
def AW_CNT0_BLOCKS : Fld := ⟨0, 31, 0, .ro, 0⟩
def AW_CNT0_SEQS : Fld := ⟨0, 63, 32, .ro, 0⟩
def AW_CNT1_RINGWAIT : Fld := ⟨0, 31, 0, .ro, 0⟩
def AW_CNT1_PGFAIL : Fld := ⟨0, 47, 32, .ro, 0⟩
def AW_CNT1_GSKIP : Fld := ⟨0, 63, 48, .ro, 0⟩
def AW_CNT2_EMPTYROW : Fld := ⟨0, 31, 0, .ro, 0⟩
def AW_CNT2_RESCALE : Fld := ⟨0, 63, 32, .ro, 0⟩
def AW_CNT3_RSMAX : Fld := ⟨0, 15, 0, .ro, 0⟩
def AW_CNT3_SKIPSEQ : Fld := ⟨0, 47, 32, .ro, 0⟩
def RTE_CFG_K : Fld := ⟨0, 4, 0, .rw, 1⟩
def RTE_CFG_NEXP : Fld := ⟨0, 20, 8, .rw, 1⟩
def RTE_CFG_GATE : Fld := ⟨0, 25, 24, .rw, 0⟩
def RTE_CFG_EN : Fld := ⟨0, 26, 26, .rw, 0⟩
def RTE_CFG_PART : Fld := ⟨0, 31, 28, .rw, 0⟩
def RTE_CFG2_NSH : Fld := ⟨0, 8, 0, .rw, 1⟩
def RTE_CFG2_NPOS : Fld := ⟨0, 31, 16, .rw, 0⟩
def RTE_STAT_POS : Fld := ⟨0, 15, 0, .ro, 0⟩
def RTE_STAT_BUSY : Fld := ⟨0, 16, 16, .ro, 0⟩
def RTE_STAT_POINT : Fld := ⟨0, 31, 24, .ro, 0⟩
def RTE_CNT0_POSITIONS : Fld := ⟨0, 31, 0, .ro, 0⟩
def RTE_CNT0_PSNPOS : Fld := ⟨0, 47, 32, .ro, 0⟩
def RTE_CNT0_XSKIP : Fld := ⟨0, 63, 48, .ro, 0⟩
def RTE_CNT1_TIES : Fld := ⟨0, 31, 0, .ro, 0⟩
def RTE_CNT1_FORMAT : Fld := ⟨0, 47, 32, .ro, 0⟩
def RTE_CNT1_FOREIGN : Fld := ⟨0, 63, 48, .ro, 0⟩
def RTE_CNTCTL_FREEZE : Fld := ⟨0, 0, 0, .rw, 0⟩
def RTE_CNTCTL_CLR : Fld := ⟨0, 31, 31, .wo, 0⟩
def RTE_XSET_SLOT : Fld := ⟨0, 63, 0, .rw, 0⟩
def RTE_ECNT_COPIES : Fld := ⟨0, 31, 0, .ro, 0⟩
def RTE_EMAP_PKG : Fld := ⟨0, 11, 0, .rw, 0⟩
def STEP_PLAN_ADDR : Fld := ⟨0, 63, 6, .rw, 0⟩
def STEP_STAT_POINT : Fld := ⟨0, 7, 0, .ro, 0⟩
def STEP_STAT_PHASE : Fld := ⟨0, 10, 8, .ro, 0⟩
def STEP_STAT_MISSING : Fld := ⟨0, 27, 16, .ro, 0⟩
def STEP_TIME_LAST : Fld := ⟨0, 31, 0, .ro, 0⟩
def STEP_TIME_MAX : Fld := ⟨0, 63, 32, .ro, 0⟩
def STEP_SCNT_SPILLCOPY : Fld := ⟨0, 31, 0, .ro, 0⟩
def STEP_SCNT_SPILLPT : Fld := ⟨0, 47, 32, .ro, 0⟩
def STEP_SCNT_LATECOPY : Fld := ⟨0, 63, 48, .ro, 0⟩
def STEP_XCNT_EXITED : Fld := ⟨0, 31, 0, .ro, 0⟩
def STEP_XCNT_ZEROEXP : Fld := ⟨0, 63, 32, .ro, 0⟩
def STEP_SPILL_ADDR : Fld := ⟨0, 63, 6, .rw, 0⟩
def STEP_CTO_ROWS : Fld := ⟨0, 15, 0, .rw, 0x64⟩
def STEP_CTO_COPIES : Fld := ⟨0, 31, 16, .rw, 0xc8⟩
def STEP_CNTCLR_CLR : Fld := ⟨0, 31, 31, .wo, 0⟩
def STEP_MISSID_PKG : Fld := ⟨0, 11, 0, .ro, 0⟩
def STEP_MISSID_VALID : Fld := ⟨0, 31, 31, .ro, 0⟩
def MEM_CTL_NCH : Fld := ⟨0, 4, 0, .ro, 0⟩
def MEM_CTL_SPEED : Fld := ⟨0, 9, 8, .ro, 0⟩
def MEM_CTL_SPMAX : Fld := ⟨0, 13, 12, .rw, 2⟩
def MEM_CTL_RETTHR : Fld := ⟨0, 23, 16, .rw, 0x40⟩
def MEM_CTL_TLIM : Fld := ⟨0, 30, 24, .rw, 0x5f⟩
def MEM_GUEST_QUOTA : Fld := ⟨0, 31, 0, .rw, 0⟩
def MEM_GUEST_USED : Fld := ⟨0, 63, 32, .ro, 0⟩
def MEM_RET_COUNT : Fld := ⟨0, 12, 0, .ro, 0⟩
def MEM_RET_FULL : Fld := ⟨0, 31, 31, .ro, 0⟩
def MEM_RGN_KIND : Fld := ⟨0, 3, 0, .rw, 0⟩
def MEM_RGN_ENC : Fld := ⟨0, 4, 4, .rw, 0⟩
def MEM_RGN_STREAM : Fld := ⟨0, 5, 5, .rw, 0⟩
def MEM_RGN_HOME : Fld := ⟨0, 10, 8, .rw, 0⟩
def MEM_RGN_VALID : Fld := ⟨0, 15, 15, .rw, 0⟩
def MEM_RGN_BASE : Fld := ⟨0, 47, 16, .rw, 0⟩
def MEM_RGN_SIZE : Fld := ⟨1, 47, 16, .rw, 0⟩
def MV_ADDR_PAGE : Fld := ⟨0, 47, 16, .rw, 0⟩
def MV_DEST_DEST : Fld := ⟨0, 63, 0, .rw, 0⟩
def MV_CMD_TGT : Fld := ⟨0, 1, 0, .rw, 0⟩
def MV_CMD_GO : Fld := ⟨0, 8, 8, .wo, 0⟩
def MV_CMD_BUSY : Fld := ⟨0, 16, 16, .ro, 0⟩
def MV_CMD_RESULT : Fld := ⟨0, 19, 17, .ro, 0⟩
def CH_STAT_STATE : Fld := ⟨0, 1, 0, .ro, 0⟩
def CH_STAT_CAP : Fld := ⟨0, 5, 4, .ro, 0⟩
def CH_STAT_TEMP : Fld := ⟨0, 15, 8, .ro, 0⟩
def CH_STAT_HOT : Fld := ⟨0, 16, 16, .ro, 0⟩
def CH_STAT_THR : Fld := ⟨0, 17, 17, .ro, 0⟩
def CH_ERR_RECOVERED : Fld := ⟨0, 15, 0, .ro, 0⟩
def CH_ERR_POISONED : Fld := ⟨0, 31, 16, .ro, 0⟩
def CH_ERR_STALEGEN : Fld := ⟨0, 47, 32, .ro, 0⟩
def CH_ERR_RETIRED : Fld := ⟨0, 63, 48, .ro, 0⟩
def TQ_QUOTA_QUOTA : Fld := ⟨0, 31, 0, .rw, 0⟩
def TQ_QUOTA_USED : Fld := ⟨0, 63, 32, .ro, 0⟩
def TQ_REG_RATE : Fld := ⟨0, 15, 0, .rw, 0⟩
def TQ_REG_DEPTH : Fld := ⟨0, 31, 16, .rw, 2⟩
def TQ_REG_EN : Fld := ⟨0, 63, 63, .rw, 0⟩
def TQ_BOUND_US : Fld := ⟨0, 15, 0, .rw, 0xc8⟩
def TQ_STALL0_REFRESH : Fld := ⟨0, 31, 0, .ro, 0⟩
def TQ_STALL0_REREAD : Fld := ⟨0, 63, 32, .ro, 0⟩
def TQ_STALL1_YARD : Fld := ⟨0, 31, 0, .ro, 0⟩
def TQ_STALL1_YARDFAIL : Fld := ⟨0, 63, 32, .ro, 0⟩
def TQ_STALL2_CELLAR : Fld := ⟨0, 31, 0, .ro, 0⟩
def TQ_STALL2_QUOTA : Fld := ⟨0, 63, 32, .ro, 0⟩
def TQ_STALL3_REGULATOR : Fld := ⟨0, 31, 0, .ro, 0⟩
def TQ_STALL3_MISROUTE : Fld := ⟨0, 63, 32, .ro, 0⟩
def FB_CTL_DOMAIN : Fld := ⟨0, 15, 0, .ro, 0⟩
def FB_CTL_MODE : Fld := ⟨0, 16, 16, .rwl, 1⟩
def FB_CTL_TWIN : Fld := ⟨0, 17, 17, .rwl, 0⟩
def FB_CTL_LOCK : Fld := ⟨0, 31, 31, .w1s, 0⟩
def FBP_JOB_JOB : Fld := ⟨0, 7, 0, .rw, 0⟩
def FBP_JOB_VALID : Fld := ⟨0, 8, 8, .rw, 0⟩
def FBP_BOUND_US : Fld := ⟨0, 8, 0, .rw, 0x14⟩
def FBP_BOUND_ARETRY : Fld := ⟨0, 22, 16, .rw, 5⟩
def FBP_LREG_RATE : Fld := ⟨0, 15, 0, .rw, 0⟩
def FBP_LREG_DEPTH : Fld := ⟨0, 31, 16, .rw, 2⟩
def FBP_LREG_EN : Fld := ⟨0, 63, 63, .rw, 0⟩
def FBP_XFWD_QA : Fld := ⟨0, 4, 0, .rw, 0⟩
def FBP_XFWD_QB : Fld := ⟨0, 12, 8, .rw, 0⟩
def FBP_XFWD_VALID : Fld := ⟨0, 31, 31, .rw, 0⟩
def FBP_CNT0_REMOTETMO : Fld := ⟨0, 31, 0, .ro, 0⟩
def FBP_CNT0_REFUSED : Fld := ⟨0, 63, 32, .ro, 0⟩
def FBP_CNT1_REGWAIT : Fld := ⟨0, 31, 0, .ro, 0⟩
def FBP_CNT1_STORELOST : Fld := ⟨0, 63, 32, .ro, 0⟩
def FBP_CNT2_TRANSIT : Fld := ⟨0, 31, 0, .ro, 0⟩
def FB_JOB_PART : Fld := ⟨0, 3, 0, .rw, 0⟩
def FB_JOB_VALID : Fld := ⟨0, 8, 8, .rw, 0⟩
def FB_RT_LINK : Fld := ⟨0, 5, 0, .rw, 0⟩
def FB_RT_VIA : Fld := ⟨0, 17, 6, .rw, 0⟩
def FB_RT_LINK2 : Fld := ⟨0, 23, 18, .rw, 0⟩
def FB_RT_VIA2 : Fld := ⟨0, 35, 24, .rw, 0⟩
def FB_RT_VALID : Fld := ⟨0, 36, 36, .rw, 0⟩
def FB_RT_ALTV : Fld := ⟨0, 37, 37, .rw, 0⟩
def FB_RT_USEALT : Fld := ⟨0, 38, 38, .rw, 0⟩
def FB_RT_SELF : Fld := ⟨0, 39, 39, .ro, 0⟩
def FB_WIN_PKGLO : Fld := ⟨0, 11, 0, .rw, 0⟩
def FB_WIN_PKGHI : Fld := ⟨0, 23, 12, .rw, 0⟩
def FB_WIN_PERM : Fld := ⟨0, 27, 24, .rw, 0⟩
def FB_WIN_VALID : Fld := ⟨0, 31, 31, .rw, 0⟩
def FB_WIN_BASE : Fld := ⟨0, 63, 32, .rw, 0⟩
def FB_WIN_SIZE : Fld := ⟨1, 31, 0, .rw, 0⟩
def FB_RCPT0_APPLIED : Fld := ⟨0, 31, 0, .ro, 0⟩
def FB_RCPT0_REPLAYED : Fld := ⟨0, 63, 32, .ro, 0⟩
def FB_RCPT1_DUP : Fld := ⟨0, 15, 0, .ro, 0⟩
def FB_RCPT1_UNKNOWN : Fld := ⟨0, 31, 16, .ro, 0⟩
def FB_RCPT1_BUSY : Fld := ⟨0, 47, 32, .ro, 0⟩
def FB_RCPT1_STALE : Fld := ⟨0, 63, 48, .ro, 0⟩
def FB_RCPT2_OCC : Fld := ⟨0, 16, 0, .ro, 0⟩
def LNK_STAT_STATE : Fld := ⟨0, 2, 0, .ro, 0⟩
def LNK_STAT_HCAUSE : Fld := ⟨0, 7, 4, .ro, 0⟩
def LNK_STAT_PEERLINK : Fld := ⟨0, 13, 8, .ro, 0⟩
def LNK_STAT_PEER : Fld := ⟨0, 27, 16, .ro, 0⟩
def LNK_CNT0_REPLAY : Fld := ⟨0, 31, 0, .ro, 0⟩
def LNK_CNT0_CRCFAIL : Fld := ⟨0, 63, 32, .ro, 0⟩
def LNK_CNT1_FECCORR : Fld := ⟨0, 31, 0, .ro, 0⟩
def LNK_CNT1_FECUNC : Fld := ⟨0, 47, 32, .ro, 0⟩
def LNK_CNT1_DOWN : Fld := ⟨0, 63, 48, .ro, 0⟩
def LNK_INJ_MODE : Fld := ⟨0, 1, 0, .rw, 0⟩
def LNK_INJ_WIN : Fld := ⟨0, 14, 8, .rw, 1⟩
def LNK_INJ_RATE : Fld := ⟨0, 19, 16, .rw, 0xa⟩
def LNK_INJ_AUTH : Fld := ⟨0, 31, 31, .ro, 0⟩
def LNK_INJ_COUNT : Fld := ⟨0, 63, 32, .ro, 0⟩
def PT_CTL_EN : Fld := ⟨0, 0, 0, .rw, 0⟩
def PT_CTL_AUTO : Fld := ⟨0, 1, 1, .rw, 0⟩
def PT_CTL_STATE : Fld := ⟨0, 6, 4, .ro, 0⟩
def PT_CTL_LFULL : Fld := ⟨0, 16, 16, .w1c, 0⟩
def PT_STEP_STEP : Fld := ⟨0, 63, 0, .ro, 0⟩
def PT_WGEN_CUR : Fld := ⟨0, 15, 0, .ro, 0⟩
def PT_WGEN_NEXT : Fld := ⟨0, 31, 16, .ro, 0⟩
def PT_SERVE_LAYERCH : Fld := ⟨0, 5, 0, .rw, 0⟩
def PT_SERVE_LAYEREN : Fld := ⟨0, 6, 6, .rw, 0⟩
def PT_SERVE_ADMIT : Fld := ⟨0, 15, 8, .rw, 0x40⟩
def PT_SERVE_PCHUNK : Fld := ⟨0, 28, 16, .rw, 0x400⟩
def PT_INAREA_ADDR : Fld := ⟨0, 63, 16, .rw, 0⟩
def PT_VERDICT_ADDR : Fld := ⟨0, 63, 16, .rw, 0⟩
def PT_SAVE_ADDR : Fld := ⟨0, 63, 16, .rw, 0⟩
def PT_WDIR_ADDR : Fld := ⟨0, 63, 16, .rw, 0⟩
def PT_SLICE_QUANTUM : Fld := ⟨0, 15, 0, .rw, 0⟩
def PT_SLICE_GROUP : Fld := ⟨0, 19, 16, .rw, 0⟩
def PT_SLICE_PRIO : Fld := ⟨0, 23, 20, .rw, 0⟩
def PT_RB_BASE : Fld := ⟨0, 63, 12, .rw, 0⟩
def PT_RC_LOG2N : Fld := ⟨0, 4, 0, .rw, 6⟩
def PT_RC_EN : Fld := ⟨0, 8, 8, .rw, 0⟩
def PT_RC_ERR : Fld := ⟨0, 9, 9, .w1c, 0⟩
def PT_RP_PROD : Fld := ⟨0, 31, 0, .rw, 0⟩
def PT_RK_CONS : Fld := ⟨0, 31, 0, .rw, 0⟩
def PT_CNT0_ADMITTED : Fld := ⟨0, 31, 0, .ro, 0⟩
def PT_CNT0_HELDREC : Fld := ⟨0, 63, 32, .ro, 0⟩
def PT_CNT1_OQWAIT : Fld := ⟨0, 31, 0, .ro, 0⟩
def PT_CNT1_LATEPARK : Fld := ⟨0, 63, 32, .ro, 0⟩
def MB_DB_GO : Fld := ⟨0, 0, 0, .wo, 0⟩
def MB_DB_BUSY : Fld := ⟨0, 1, 1, .ro, 0⟩
def MB_DB_DONE : Fld := ⟨0, 2, 2, .w1c, 0⟩
def MB_DB_OVERRUN : Fld := ⟨0, 3, 3, .w1c, 0⟩
def MB_DB_SEQ : Fld := ⟨0, 15, 8, .ro, 0⟩
def STW_TIME_US : Fld := ⟨0, 63, 0, .ro, 0⟩
def PWR_CAP_TRAY : Fld := ⟨0, 12, 0, .ro, 0xfa0⟩
def PWR_CAP_TRATE : Fld := ⟨0, 27, 16, .ro, 0⟩
def PWR_CAP_HOST : Fld := ⟨0, 44, 32, .rw, 0xfa0⟩
def PWR_CAP_HRATE : Fld := ⟨0, 59, 48, .rw, 0⟩
def PWR_STAT_DRAW : Fld := ⟨0, 12, 0, .ro, 0⟩
def PWR_STAT_CEIL : Fld := ⟨0, 28, 16, .ro, 0xfa0⟩
def PWR_STAT_FCODE : Fld := ⟨0, 38, 32, .ro, 0⟩
def PWR_STAT_CAPLIM : Fld := ⟨0, 48, 48, .ro, 0⟩
def PWR_STAT_THERMLIM : Fld := ⟨0, 49, 49, .ro, 0⟩
def PWR_STAT_FASTSTR : Fld := ⟨0, 50, 50, .ro, 0⟩
def PWR_STAT_OVR : Fld := ⟨0, 51, 51, .w1c, 0⟩
def PWR_STAT_MODTHR : Fld := ⟨0, 52, 52, .ro, 0⟩
def PWR_STAT_AGELIM : Fld := ⟨0, 53, 53, .w1c, 0⟩
def PWR_STAT_CAPCLAMP : Fld := ⟨0, 54, 54, .w1c, 0⟩
def PWR_STAT_TRIPPED : Fld := ⟨0, 55, 55, .ro, 0⟩
def PWR_STAT_ALERT : Fld := ⟨0, 63, 63, .ro, 1⟩
def PWR_CTL_FTGT : Fld := ⟨0, 6, 0, .rw, 0x48⟩
def PWR_CTL_BALEN : Fld := ⟨0, 8, 8, .rw, 1⟩
def PWR_CTL_BRAMP : Fld := ⟨0, 23, 16, .rw, 0x32⟩
def PWR_CTL_PRELEAD : Fld := ⟨0, 31, 24, .rw, 0x14⟩
def PWR_MASK_MASK : Fld := ⟨0, 7, 0, .rw, 0⟩
def PWR_CNT_HINTS : Fld := ⟨0, 31, 0, .ro, 0⟩
def PWR_CNT_LATEHINT : Fld := ⟨0, 47, 32, .ro, 0⟩
def PWR_CNT_FASTCAP : Fld := ⟨0, 63, 48, .ro, 0⟩
def PWR_BALE_MJ : Fld := ⟨0, 63, 0, .ro, 0⟩
def PWR_CNTCLR_CNT : Fld := ⟨0, 0, 0, .wo, 0⟩
def PWR_CNTCLR_BALE : Fld := ⟨0, 1, 1, .wo, 0⟩
def PWR_CNTCLR_DROOP : Fld := ⟨0, 2, 2, .wo, 0⟩
def PWR_OVRPTR_NEXT : Fld := ⟨0, 3, 0, .ro, 0⟩
def PWR_OVRPTR_COUNT : Fld := ⟨0, 12, 8, .ro, 0⟩
def PWR_OVRPTR_LOST : Fld := ⟨0, 23, 16, .ro, 0⟩
def PWR_OVRPTR_CLR : Fld := ⟨0, 31, 31, .wo, 0⟩
def AGE_PTR_NEXT : Fld := ⟨0, 7, 0, .ro, 0⟩
def AGE_PTR_COUNT : Fld := ⟨0, 16, 8, .ro, 0⟩
def AGE_PTR_LOST : Fld := ⟨0, 31, 24, .ro, 0⟩
def PWR_ISL_GRANT : Fld := ⟨0, 15, 0, .ro, 0⟩
def PWR_ISL_FREQ : Fld := ⟨0, 22, 16, .ro, 0⟩
def PWR_ISL_FMAX : Fld := ⟨0, 30, 24, .rw, 0x48⟩
def PWR_ISL_FLOOR : Fld := ⟨0, 39, 32, .ro, 0⟩
def PWR_ISL_LEVEL : Fld := ⟨0, 42, 40, .ro, 0⟩
def PWR_ISL_HINTED : Fld := ⟨0, 48, 48, .ro, 0⟩
def PWR_TS_TEMP : Fld := ⟨0, 7, 0, .ro, 0⟩
def PWR_TS_MAX : Fld := ⟨0, 15, 8, .ro, 0⟩
def PWR_TS_LIM : Fld := ⟨0, 16, 16, .ro, 0⟩
def PWR_TS_CLR : Fld := ⟨0, 31, 31, .wo, 0⟩
def PWR_THCFG_TJMAX : Fld := ⟨0, 7, 0, .rw, 0x69⟩
def CLK_ISL_ON : Fld := ⟨0, 0, 0, .rw, 1⟩
def CLK_ISL_USED : Fld := ⟨0, 1, 1, .rw, 0⟩
def CLK_ISL_REF : Fld := ⟨0, 2, 2, .w1c, 0⟩
def CLK_ISL_VOFF : Fld := ⟨0, 7, 4, .ro, 0⟩
def CLK_ISL_MV : Fld := ⟨0, 23, 12, .ro, 0⟩
def CLK_ISL_DROOP : Fld := ⟨0, 47, 32, .ro, 0⟩
def CLK_DCFG_DTH : Fld := ⟨0, 7, 0, .rw, 0x28⟩
def CLK_DCFG_STR : Fld := ⟨0, 9, 8, .rw, 2⟩
def SEC_STAT_APPROVED : Fld := ⟨0, 0, 0, .ro, 0⟩
def SEC_STAT_ERROR : Fld := ⟨0, 1, 1, .ro, 0⟩
def SEC_STAT_SELFTEST : Fld := ⟨0, 2, 2, .ro, 0⟩
def SEC_STAT_ZEROISED : Fld := ⟨0, 3, 3, .w1c, 0⟩
def SEC_STAT_KDVALID : Fld := ⟨0, 4, 4, .ro, 0⟩
def SEC_STAT_LOGFULL : Fld := ⟨0, 5, 5, .ro, 0⟩
def SEC_STAT_BOOTERR : Fld := ⟨0, 11, 8, .ro, 0⟩
def SEC_STAT_SESSIONS : Fld := ⟨0, 18, 16, .ro, 0⟩
def SEC_STAT_FAILTEST : Fld := ⟨0, 31, 24, .ro, 0⟩
def SEC_LIFE_STATE : Fld := ⟨0, 1, 0, (.rwn 3), 0⟩
def SEC_LIFE_REMAIN : Fld := ⟨0, 9, 8, .ro, 3⟩
def SEC_LIFE_WREF : Fld := ⟨0, 31, 31, .w1c, 0⟩
def SEC_SVN_SVN : Fld := ⟨0, 7, 0, (.rwn 128), 0⟩
def SEC_SVN_REMAIN : Fld := ⟨0, 23, 16, .ro, 0x80⟩
def SEC_SVN_WREF : Fld := ⟨0, 31, 31, .w1c, 0⟩
def SEC_OWNER_SLOT : Fld := ⟨0, 2, 0, (.rwn 8), 0⟩
def SEC_OWNER_SET : Fld := ⟨0, 3, 3, .ro, 0⟩
def SEC_OWNER_REMAIN : Fld := ⟨0, 11, 8, .ro, 8⟩
def SEC_OWNER_WREF : Fld := ⟨0, 31, 31, .w1c, 0⟩
def SEC_DOMAIN_ID : Fld := ⟨0, 15, 0, (.rwn 4), 0⟩
def SEC_DOMAIN_REMAIN : Fld := ⟨0, 19, 16, .ro, 4⟩
def SEC_DOMAIN_WREF : Fld := ⟨0, 31, 31, .w1c, 0⟩
def SEC_DEBUG_INJECT : Fld := ⟨0, 0, 0, .ro, 0⟩
def SEC_DEBUG_TEST : Fld := ⟨0, 1, 1, .ro, 0⟩
def SEC_DEBUG_EVER : Fld := ⟨0, 2, 2, .ro, 0⟩
def SEC_EVT_STALE : Fld := ⟨0, 15, 0, .ro, 0⟩
def SEC_EVT_AUTHFAIL : Fld := ⟨0, 31, 16, .ro, 0⟩
def SEC_EVT_HELDKEY : Fld := ⟨0, 47, 32, .ro, 0⟩
def SEC_EVT_ZTHR : Fld := ⟨0, 63, 48, .rw, 0⟩
def SEC_REPAIR_VERSION : Fld := ⟨0, 4, 0, (.rwn 16), 0⟩
def SEC_REPAIR_REMAIN : Fld := ⟨0, 12, 8, .ro, 0x10⟩
def SEC_REPAIR_WREF : Fld := ⟨0, 31, 31, .w1c, 0⟩
def SEC_OWNDIG_DIG : Fld := ⟨0, 63, 0, .ro, 0⟩
def SEC_MEAS_VAL : Fld := ⟨0, 63, 0, .ro, 0⟩
def SEC_PMEAS_VAL : Fld := ⟨0, 63, 0, .ro, 0⟩
def SEC_WKEY_KEYID : Fld := ⟨0, 31, 0, .ro, 0⟩
def SEC_WKEY_VALID : Fld := ⟨0, 32, 32, .ro, 0⟩
def RST_CAUSE_LAST : Fld := ⟨0, 2, 0, .ro, 0⟩
def RST_CAUSE_FULLCNT : Fld := ⟨0, 15, 8, .ro, 0⟩
def RST_CAUSE_KEEPLOST : Fld := ⟨0, 16, 16, .ro, 0⟩
def RST_STAT_STAGE : Fld := ⟨0, 3, 0, .ro, 0⟩
def RST_STAT_UP : Fld := ⟨0, 4, 4, .ro, 0⟩
def RST_STAT_LINKWAIT : Fld := ⟨0, 5, 5, .ro, 0⟩
def RST_STAT_DEAD : Fld := ⟨0, 6, 6, .ro, 0⟩
def RST_STAT_EPOCHS : Fld := ⟨0, 11, 8, .ro, 0⟩
def RST_WDOG_MS : Fld := ⟨0, 15, 0, .rw, 0x7d0⟩
def RST_WDOG_EN : Fld := ⟨0, 16, 16, .rw, 0⟩
def RST_WDOG_KICK : Fld := ⟨0, 31, 31, .wo, 0⟩
def RST_DIE_DIE : Fld := ⟨0, 30, 0, .wo, 0⟩
def RST_EPOCH_DIE : Fld := ⟨0, 7, 0, .ro, 0⟩
def RST_EPOCH_UNIT : Fld := ⟨0, 18, 8, .ro, 0⟩
def RST_EPOCH_LEVEL : Fld := ⟨0, 22, 20, .ro, 0⟩
def RST_EPOCH_OPEN : Fld := ⟨0, 23, 23, .ro, 0⟩
def RST_EPOCH_STEP : Fld := ⟨0, 26, 24, .ro, 0⟩
def RST_EPOCH_RESTARTS : Fld := ⟨0, 29, 28, .ro, 0⟩
def RST_EPOCH_START : Fld := ⟨0, 63, 32, .ro, 0⟩
def STW_FLOGPTR_NEXT : Fld := ⟨0, 9, 0, .ro, 0⟩
def STW_FLOGPTR_COUNT : Fld := ⟨0, 20, 10, .ro, 0⟩
def STW_FLOGPTR_LOST : Fld := ⟨0, 30, 21, .ro, 0⟩
def STW_FLOGPTR_CLR : Fld := ⟨0, 31, 31, .wo, 0⟩
def DIE_CTL_PART : Fld := ⟨0, 3, 0, .rw, 0⟩
def DIE_CTL_PABORT : Fld := ⟨0, 8, 8, .wo, 0⟩
def DIE_CTL_CRST : Fld := ⟨0, 23, 16, .wo, 0⟩
def DIE_CTL_FENCE : Fld := ⟨0, 31, 31, .rw, 0⟩
def DIE_STAT_INSERVICE : Fld := ⟨0, 0, 0, .ro, 0⟩
def DIE_STAT_FAULTY : Fld := ⟨0, 15, 8, .ro, 0⟩
def DIE_CNTCTL_FREEZE : Fld := ⟨0, 0, 0, .rw, 0⟩
def DIE_CNTCTL_CLR : Fld := ⟨0, 31, 31, .wo, 0⟩
def BNK_MARCH_GO : Fld := ⟨0, 0, 0, .wo, 0⟩
def BNK_MARCH_MODE : Fld := ⟨0, 1, 1, .rw, 0⟩
def BNK_MARCH_BUSY : Fld := ⟨0, 2, 2, .ro, 0⟩
def BNK_MARCH_DONE : Fld := ⟨0, 3, 3, .w1c, 0⟩
def BNK_MARCH_FAULTY : Fld := ⟨0, 4, 4, .ro, 0⟩
def BNK_MRES_FAILS : Fld := ⟨0, 15, 0, .ro, 0⟩
def BNK_MRES_BANK : Fld := ⟨0, 20, 16, .ro, 0⟩
def BNK_MRES_LINE : Fld := ⟨0, 31, 21, .ro, 0⟩
def BNK_MRES_REPAIRED : Fld := ⟨0, 47, 32, .ro, 0⟩
def HST_PORTMAP_PORT : Fld := ⟨0, 15, 0, .rw, 0⟩
end F

/-! ## The rows of each block -/

def rows_stw : List RegRow := [
  ⟨"STW_IDENT", 0x0, [], 32, [F.STW_IDENT_PART, F.STW_IDENT_STEPPING, F.STW_IDENT_FWIF]⟩,
  ⟨"STW_LOC", 0x10, [], 32, [F.STW_LOC_PKGID, F.STW_LOC_TRAYSLOT, F.STW_LOC_TSVALID, F.STW_LOC_NOSLOT, F.STW_LOC_MISMATCH, F.STW_LOC_LOCK]⟩,
  ⟨"MB_DB", 0x18000, [], 32, [F.MB_DB_GO, F.MB_DB_BUSY, F.MB_DB_DONE, F.MB_DB_OVERRUN, F.MB_DB_SEQ]⟩,
  ⟨"STW_TIME", 0x20, [], 64, [F.STW_TIME_US]⟩,
  ⟨"STW_FLOGPTR", 0x30000, [], 32, [F.STW_FLOGPTR_NEXT, F.STW_FLOGPTR_COUNT, F.STW_FLOGPTR_LOST, F.STW_FLOGPTR_CLR]⟩]

def rows_wnw : List RegRow := [
  ⟨"WNW_CTL", 0x0, [], 32, [F.WNW_CTL_EN, F.WNW_CTL_RATE, F.WNW_CTL_CLMASK, F.WNW_CTL_FLTMASK]⟩,
  ⟨"WNW_SEED", 0x8, [], 64, [F.WNW_SEED_LFSR]⟩,
  ⟨"WNW_CNT0", 0x10, [], 64, [F.WNW_CNT0_SAMPLED, F.WNW_CNT0_MISMATCH]⟩,
  ⟨"WNW_CNT1", 0x18, [], 64, [F.WNW_CNT1_SKIPPED, F.WNW_CNT1_ABANDONED]⟩,
  ⟨"WNW_LOGPTR", 0x20, [], 32, [F.WNW_LOGPTR_NEXT, F.WNW_LOGPTR_FREEZE, F.WNW_LOGPTR_LOST, F.WNW_LOGPTR_LOSTCLR, F.WNW_LOGPTR_CNTCLR]⟩,
  ⟨"WNW_LOGA", 0x100, [(16, 0x10)], 64, [F.WNW_LOGA_TILE, F.WNW_LOGA_PART, F.WNW_LOGA_BLKIDX, F.WNW_LOGA_IADDR]⟩,
  ⟨"WNW_LOGB", 0x108, [(16, 0x10)], 64, [F.WNW_LOGB_X, F.WNW_LOGB_ELEM, F.WNW_LOGB_INX, F.WNW_LOGB_A48, F.WNW_LOGB_ERR]⟩]

def rows_til : List RegRow := [
  ⟨"TIL_RNG", 0x40, [], 64, [F.TIL_RNG_STATE]⟩,
  ⟨"TIL_ARSTAT", 0x48, [], 32, [F.TIL_ARSTAT_SAT, F.TIL_ARSTAT_SATBLK, F.TIL_ARSTAT_FORMAT, F.TIL_ARSTAT_INEXACT, F.TIL_ARSTAT_ACCSAT, F.TIL_ARSTAT_POISON, F.TIL_ARSTAT_LSAT, F.TIL_ARSTAT_CNTCLR]⟩,
  ⟨"TIL_ARCNT0", 0x8100, [], 64, [F.TIL_ARCNT0_SATELEM, F.TIL_ARCNT0_SATBLK]⟩,
  ⟨"TIL_ARCNT1", 0x8108, [], 64, [F.TIL_ARCNT1_ZEROBLK, F.TIL_ARCNT1_INEXACT]⟩,
  ⟨"TIL_ARCNT2", 0x8110, [], 64, [F.TIL_ARCNT2_FORMAT, F.TIL_ARCNT2_POISON, F.TIL_ARCNT2_WNWSTALL]⟩,
  ⟨"TIL_CTL", 0x0, [], 32, [F.TIL_CTL_RUN, F.TIL_CTL_ILV, F.TIL_CTL_SRST]⟩,
  ⟨"TIL_STAT", 0x8, [], 32, (List.range 6).map F.TIL_STAT_STATE ++ [F.TIL_STAT_QUIET]⟩,
  ⟨"TIL_FAULT", 0x10, [], 32, [F.TIL_FAULT_SRC, F.TIL_FAULT_VALID, F.TIL_FAULT_CAUSE, F.TIL_FAULT_MORE, F.TIL_FAULT_CLR]⟩,
  ⟨"TIL_FADDR", 0x18, [], 64, [F.TIL_FADDR_IADDR, F.TIL_FADDR_LADDR, F.TIL_FADDR_LVALID]⟩,
  ⟨"TIL_OWNER", 0x20, [], 32, [F.TIL_OWNER_PART, F.TIL_OWNER_ASSIGNED]⟩,
  ⟨"TIL_CLK", 0x28, [], 32, [F.TIL_CLK_FREQ]⟩,
  ⟨"TIL_EQ", 0x1000, [(6, 0x40)], 64, [F.TIL_EQ_FILL, F.TIL_EQ_FREE0, F.TIL_EQ_FREE1, F.TIL_EQ_FREE2]⟩,
  ⟨"BNK_PWR", 0x3000, [], 64, (List.range 32).map F.BNK_PWR_TGT ++ []⟩,
  ⟨"BNK_STAT", 0x3008, [], 64, (List.range 32).map F.BNK_STAT_CUR ++ []⟩,
  ⟨"BNK_BUSY", 0x3010, [], 64, [F.BNK_BUSY_BUSY, F.BNK_BUSY_REFUSED]⟩,
  ⟨"BNK_DADDR", 0x3020, [], 32, [F.BNK_DADDR_LINE]⟩,
  ⟨"BNK_DCTL", 0x3028, [], 32, [F.BNK_DCTL_GO, F.BNK_DCTL_WR, F.BNK_DCTL_PSN, F.BNK_DCTL_DONE, F.BNK_DCTL_ERR]⟩,
  ⟨"BNK_DDATA", 0x3040, [(8, 0x8)], 64, [F.BNK_DDATA_DATA]⟩,
  ⟨"TIL_ECNTA", 0x8000, [(6, 0x20)], 64, [F.TIL_ECNTA_RETIRED, F.TIL_ECNTA_BUSY]⟩,
  ⟨"TIL_ECNTB", 0x8008, [(6, 0x20)], 64, [F.TIL_ECNTB_WAIT, F.TIL_ECNTB_CREDIT]⟩,
  ⟨"TIL_ECNTC", 0x8010, [(6, 0x20)], 64, [F.TIL_ECNTC_BANK, F.TIL_ECNTC_STARVE]⟩,
  ⟨"TIL_MECNT", 0x80c0, [], 64, [F.TIL_MECNT_MAC64]⟩,
  ⟨"TIL_MECNT2", 0x80c8, [], 64, [F.TIL_MECNT2_ZSKIP, F.TIL_MECNT2_STRIPS]⟩,
  ⟨"TIL_BNKCNT", 0x80d0, [], 64, [F.TIL_BNKCNT_CONFLICT, F.TIL_BNKCNT_ARRLOST, F.TIL_BNKCNT_DBGAGED]⟩,
  ⟨"TIL_CNTCTL", 0x80f8, [], 32, [F.TIL_CNTCTL_FREEZE, F.TIL_CNTCTL_CLR]⟩,
  ⟨"TIL_PBASE", 0x80, [], 64, [F.TIL_PBASE_ADDR]⟩,
  ⟨"TIL_VAR", 0x88, [(4, 0x8)], 32, [F.TIL_VAR_POINT, F.TIL_VAR_VARIANT, F.TIL_VAR_VALID]⟩,
  ⟨"TIL_YREQ", 0xa8, [], 32, [F.TIL_YREQ_REQ, F.TIL_YREQ_AT, F.TIL_YREQ_ENDED, F.TIL_YREQ_ID]⟩,
  ⟨"TIL_SPC", 0x1008, [(6, 0x40)], 64, [F.TIL_SPC_OFF]⟩,
  ⟨"TIL_LOOP", 0x1010, [(6, 0x40)], 64, (List.range 4).map F.TIL_LOOP_IDX ++ []⟩,
  ⟨"TIL_ISTAT", 0x1018, [(6, 0x40)], 32, [F.TIL_ISTAT_LAST, F.TIL_ISTAT_STICKY]⟩,
  ⟨"TIL_DBASE", 0x1020, [(6, 0x40)], 32, [F.TIL_DBASE_BASE]⟩,
  ⟨"TIL_ALIAS", 0x2000, [(63, 0x8)], 32, [F.TIL_ALIAS_INDEX, F.TIL_ALIAS_TYPE, F.TIL_ALIAS_RELCNT]⟩,
  ⟨"TIL_ARC", 0x2200, [(64, 0x8)], 64, [F.TIL_ARC_COUNT, F.TIL_ARC_PART, F.TIL_ARC_QUANT, F.TIL_ARC_MODE, F.TIL_ARC_EXPIRED]⟩,
  ⟨"TIL_TMO", 0x2400, [(3, 0x8)], 32, [F.TIL_TMO_CYCLES]⟩,
  ⟨"TIL_SYNSTAT", 0x2500, [], 32, [F.TIL_SYNSTAT_AREF, F.TIL_SYNSTAT_POSTED]⟩,
  ⟨"TIL_SYNCNT0", 0x8140, [], 64, [F.TIL_SYNCNT0_CLOSECALL, F.TIL_SYNCNT0_STALE]⟩,
  ⟨"TIL_SYNCNT1", 0x8148, [], 64, [F.TIL_SYNCNT1_TMOFIRED, F.TIL_SYNCNT1_SPURIOUS]⟩,
  ⟨"AW_STAT", 0x4000, [], 32, [F.AW_STAT_ENT, F.AW_STAT_PHASE, F.AW_STAT_HELD]⟩,
  ⟨"AW_RING", 0x4008, [], 32, [F.AW_RING_LANDED, F.AW_RING_HELD]⟩,
  ⟨"AW_CNT0", 0x8180, [], 64, [F.AW_CNT0_BLOCKS, F.AW_CNT0_SEQS]⟩,
  ⟨"AW_CNT1", 0x8188, [], 64, [F.AW_CNT1_RINGWAIT, F.AW_CNT1_PGFAIL, F.AW_CNT1_GSKIP]⟩,
  ⟨"AW_CNT2", 0x8190, [], 64, [F.AW_CNT2_EMPTYROW, F.AW_CNT2_RESCALE]⟩,
  ⟨"AW_CNT3", 0x8198, [], 64, [F.AW_CNT3_RSMAX, F.AW_CNT3_SKIPSEQ]⟩,
  ⟨"BNK_MARCH", 0x3100, [], 32, [F.BNK_MARCH_GO, F.BNK_MARCH_MODE, F.BNK_MARCH_BUSY, F.BNK_MARCH_DONE, F.BNK_MARCH_FAULTY]⟩,
  ⟨"BNK_MRES", 0x3108, [], 64, [F.BNK_MRES_FAILS, F.BNK_MRES_BANK, F.BNK_MRES_LINE, F.BNK_MRES_REPAIRED]⟩]

def rows_syn : List RegRow := [
  ⟨"SYN_GRP", 0x0, [(64, 0x4)], 32, [F.SYN_GRP_PART, F.SYN_GRP_ASSIGNED]⟩,
  ⟨"SYN_SEM", 0x1000, [(2048, 0x4)], 32, [F.SYN_SEM_COUNT, F.SYN_SEM_OWNER, F.SYN_SEM_OWNED, F.SYN_SEM_POSTED]⟩,
  ⟨"SYN_CLN", 0x4000, [(8, 0x200), (64, 0x8)], 64, [F.SYN_CLN_EXPECT, F.SYN_CLN_ARRIVED, F.SYN_CLN_PENDING, F.SYN_CLN_TOP, F.SYN_CLN_EN, F.SYN_CLN_UP, F.SYN_CLN_PART]⟩,
  ⟨"SYN_DIE", 0x5000, [(64, 0x8)], 64, [F.SYN_DIE_EXPECT, F.SYN_DIE_ARRIVED, F.SYN_DIE_TOP, F.SYN_DIE_EN, F.SYN_DIE_UP, F.SYN_DIE_PART]⟩]

def rows_step : List RegRow := [
  ⟨"PKN_CFG", 0x80000, [(64, 0x10)], 64, [F.PKN_CFG_EXPECT, F.PKN_CFG_TOP, F.PKN_CFG_EN, F.PKN_CFG_UP, F.PKN_CFG_SCHILD, F.PKN_CFG_SARR, F.PKN_CFG_PART]⟩,
  ⟨"PKN_ARR", 0x80008, [(64, 0x10)], 64, [F.PKN_ARR_ARRIVED]⟩,
  ⟨"STEP_PLAN", 0x0, [(16, 0x40)], 64, [F.STEP_PLAN_ADDR]⟩,
  ⟨"STEP_STAT", 0x8, [(16, 0x40)], 32, [F.STEP_STAT_POINT, F.STEP_STAT_PHASE, F.STEP_STAT_MISSING]⟩,
  ⟨"STEP_TIME", 0x10, [(16, 0x40)], 64, [F.STEP_TIME_LAST, F.STEP_TIME_MAX]⟩,
  ⟨"STEP_SCNT", 0x18, [(16, 0x40)], 64, [F.STEP_SCNT_SPILLCOPY, F.STEP_SCNT_SPILLPT, F.STEP_SCNT_LATECOPY]⟩,
  ⟨"STEP_XCNT", 0x20, [(16, 0x40)], 64, [F.STEP_XCNT_EXITED, F.STEP_XCNT_ZEROEXP]⟩,
  ⟨"STEP_SPILL", 0x28, [(16, 0x40)], 64, [F.STEP_SPILL_ADDR]⟩,
  ⟨"STEP_CTO", 0x30, [(16, 0x40)], 32, [F.STEP_CTO_ROWS, F.STEP_CTO_COPIES]⟩,
  ⟨"STEP_CNTCLR", 0x38, [(16, 0x40)], 32, [F.STEP_CNTCLR_CLR]⟩,
  ⟨"STEP_MISSID", 0x400, [(16, 0x40), (8, 0x4)], 32, [F.STEP_MISSID_PKG, F.STEP_MISSID_VALID]⟩]

def rows_fab : List RegRow := [
  ⟨"FBN_CFG", 0x80000, [(64, 0x20)], 64, [F.FBN_CFG_PARENT, F.FBN_CFG_ROOT, F.FBN_CFG_EN, F.FBN_CFG_UP, F.FBN_CFG_PART, F.FBN_CFG_PLINK]⟩,
  ⟨"FBN_KIDS", 0x80008, [(64, 0x20)], 64, [F.FBN_KIDS_LINKS, F.FBN_KIDS_SELF]⟩,
  ⟨"FBN_ARR", 0x80010, [(64, 0x20)], 64, [F.FBN_ARR_LINKS, F.FBN_ARR_SELF]⟩,
  ⟨"FB_CTL", 0x0, [], 32, [F.FB_CTL_DOMAIN, F.FB_CTL_MODE, F.FB_CTL_TWIN, F.FB_CTL_LOCK]⟩,
  ⟨"FBP_JOB", 0x10000, [(16, 0x40)], 32, [F.FBP_JOB_JOB, F.FBP_JOB_VALID]⟩,
  ⟨"FBP_BOUND", 0x10008, [(16, 0x40)], 32, [F.FBP_BOUND_US, F.FBP_BOUND_ARETRY]⟩,
  ⟨"FBP_LREG", 0x10010, [(16, 0x40)], 64, [F.FBP_LREG_RATE, F.FBP_LREG_DEPTH, F.FBP_LREG_EN]⟩,
  ⟨"FBP_XFWD", 0x10018, [(16, 0x40)], 32, [F.FBP_XFWD_QA, F.FBP_XFWD_QB, F.FBP_XFWD_VALID]⟩,
  ⟨"FBP_CNT0", 0x10020, [(16, 0x40)], 64, [F.FBP_CNT0_REMOTETMO, F.FBP_CNT0_REFUSED]⟩,
  ⟨"FBP_CNT1", 0x10028, [(16, 0x40)], 64, [F.FBP_CNT1_REGWAIT, F.FBP_CNT1_STORELOST]⟩,
  ⟨"FBP_CNT2", 0x10030, [(16, 0x40)], 64, [F.FBP_CNT2_TRANSIT]⟩,
  ⟨"FB_JOB", 0x10800, [(256, 0x4)], 32, [F.FB_JOB_PART, F.FB_JOB_VALID]⟩,
  ⟨"FB_RT", 0x50000, [(4096, 0x10)], 64, [F.FB_RT_LINK, F.FB_RT_VIA, F.FB_RT_LINK2, F.FB_RT_VIA2, F.FB_RT_VALID, F.FB_RT_ALTV, F.FB_RT_USEALT, F.FB_RT_SELF]⟩,
  ⟨"FB_WIN", 0x60000, [(16, 0x100), (16, 0x10)], 128, [F.FB_WIN_PKGLO, F.FB_WIN_PKGHI, F.FB_WIN_PERM, F.FB_WIN_VALID, F.FB_WIN_BASE, F.FB_WIN_SIZE]⟩,
  ⟨"FB_RCPT0", 0x70000, [], 64, [F.FB_RCPT0_APPLIED, F.FB_RCPT0_REPLAYED]⟩,
  ⟨"FB_RCPT1", 0x70008, [], 64, [F.FB_RCPT1_DUP, F.FB_RCPT1_UNKNOWN, F.FB_RCPT1_BUSY, F.FB_RCPT1_STALE]⟩,
  ⟨"FB_RCPT2", 0x70010, [], 32, [F.FB_RCPT2_OCC]⟩]

def rows_bnet : List RegRow := [
  ⟨"BNET_CTL", 0x0, [], 32, [F.BNET_CTL_PART, F.BNET_CTL_START, F.BNET_CTL_ERR]⟩,
  ⟨"BNET_WDOG", 0x8, [], 32, [F.BNET_WDOG_CYCLES]⟩,
  ⟨"BNET_VAR", 0x10, [(4, 0x8)], 32, [F.BNET_VAR_POINT, F.BNET_VAR_VARIANT, F.BNET_VAR_VALID]⟩,
  ⟨"BNET_RPADDR", 0x40, [], 32, [F.BNET_RPADDR_ENTRY, F.BNET_RPADDR_OUTPUT, F.BNET_RPADDR_ROUTER, F.BNET_RPADDR_AUTOINC]⟩,
  ⟨"BNET_RPDATA", 0x48, [], 64, [F.BNET_RPDATA_ENTRY]⟩,
  ⟨"BNET_FAULT", 0x80, [], 32, [F.BNET_FAULT_ENTRY, F.BNET_FAULT_OUTPUT, F.BNET_FAULT_ROUTER, F.BNET_FAULT_CAUSE, F.BNET_FAULT_VALID, F.BNET_FAULT_MORE, F.BNET_FAULT_CLR]⟩,
  ⟨"BNET_OCFG", 0x1000, [(8, 0x400), (32, 0x20)], 32, [F.BNET_OCFG_PART, F.BNET_OCFG_ASSIGNED]⟩,
  ⟨"BNET_OST", 0x1008, [(8, 0x400), (32, 0x20)], 64, [F.BNET_OST_ENTRY, F.BNET_OST_STATE, F.BNET_OST_REMAIN]⟩,
  ⟨"BNET_OCNT", 0x1010, [(8, 0x400), (32, 0x20)], 64, [F.BNET_OCNT_STARVE, F.BNET_OCNT_BLOCK]⟩,
  ⟨"BNET_ITURN", 0x3000, [(8, 0x100), (64, 0x4)], 32, [F.BNET_ITURN_TURN]⟩]

def rows_gw : List RegRow := [
  ⟨"GW_QCFG", 0x0, [(32, 0x8)], 64, [F.GW_QCFG_QUOTA, F.GW_QCFG_PART, F.GW_QCFG_ASSIGNED, F.GW_QCFG_USED, F.GW_QCFG_ERR]⟩,
  ⟨"GW_QCNT", 0x200, [(32, 0x8)], 64, [F.GW_QCNT_FILLED, F.GW_QCNT_LATE]⟩,
  ⟨"GW_ICNT", 0x400, [], 64, [F.GW_ICNT_QFULL, F.GW_ICNT_BADOP]⟩]

def rows_rte : List RegRow := [
  ⟨"RTE_CFG", 0x0, [], 32, [F.RTE_CFG_K, F.RTE_CFG_NEXP, F.RTE_CFG_GATE, F.RTE_CFG_EN, F.RTE_CFG_PART]⟩,
  ⟨"RTE_CFG2", 0x8, [], 32, [F.RTE_CFG2_NSH, F.RTE_CFG2_NPOS]⟩,
  ⟨"RTE_STAT", 0x10, [], 32, [F.RTE_STAT_POS, F.RTE_STAT_BUSY, F.RTE_STAT_POINT]⟩,
  ⟨"RTE_CNT0", 0x18, [], 64, [F.RTE_CNT0_POSITIONS, F.RTE_CNT0_PSNPOS, F.RTE_CNT0_XSKIP]⟩,
  ⟨"RTE_CNT1", 0x20, [], 64, [F.RTE_CNT1_TIES, F.RTE_CNT1_FORMAT, F.RTE_CNT1_FOREIGN]⟩,
  ⟨"RTE_CNTCTL", 0xf8, [], 32, [F.RTE_CNTCTL_FREEZE, F.RTE_CNTCTL_CLR]⟩,
  ⟨"RTE_XSET", 0x100, [(64, 0x8)], 64, [F.RTE_XSET_SLOT]⟩,
  ⟨"RTE_ECNT", 0x4000, [(4096, 0x4)], 32, [F.RTE_ECNT_COPIES]⟩,
  ⟨"RTE_EMAP", 0x8000, [(4096, 0x4)], 32, [F.RTE_EMAP_PKG]⟩]

def rows_mem : List RegRow := [
  ⟨"MEM_CTL", 0x0, [], 32, [F.MEM_CTL_NCH, F.MEM_CTL_SPEED, F.MEM_CTL_SPMAX, F.MEM_CTL_RETTHR, F.MEM_CTL_TLIM]⟩,
  ⟨"MEM_GUEST", 0x10, [], 64, [F.MEM_GUEST_QUOTA, F.MEM_GUEST_USED]⟩,
  ⟨"MEM_RET", 0x18, [], 32, [F.MEM_RET_COUNT, F.MEM_RET_FULL]⟩,
  ⟨"MEM_RGN", 0x50000, [(16, 0x200), (32, 0x10)], 128, [F.MEM_RGN_KIND, F.MEM_RGN_ENC, F.MEM_RGN_STREAM, F.MEM_RGN_HOME, F.MEM_RGN_VALID, F.MEM_RGN_BASE, F.MEM_RGN_SIZE]⟩,
  ⟨"MV_ADDR", 0x60000, [], 64, [F.MV_ADDR_PAGE]⟩,
  ⟨"MV_DEST", 0x60008, [], 64, [F.MV_DEST_DEST]⟩,
  ⟨"MV_CMD", 0x60010, [], 32, [F.MV_CMD_TGT, F.MV_CMD_GO, F.MV_CMD_BUSY, F.MV_CMD_RESULT]⟩]

def rows_ch : List RegRow := [
  ⟨"CH_STAT", 0x0, [], 32, [F.CH_STAT_STATE, F.CH_STAT_CAP, F.CH_STAT_TEMP, F.CH_STAT_HOT, F.CH_STAT_THR]⟩,
  ⟨"CH_ERR", 0x8, [], 64, [F.CH_ERR_RECOVERED, F.CH_ERR_POISONED, F.CH_ERR_STALEGEN, F.CH_ERR_RETIRED]⟩]

def rows_tq : List RegRow := [
  ⟨"TQ_QUOTA", 0x0, [(16, 0x40)], 64, [F.TQ_QUOTA_QUOTA, F.TQ_QUOTA_USED]⟩,
  ⟨"TQ_REG", 0x8, [(16, 0x40)], 64, [F.TQ_REG_RATE, F.TQ_REG_DEPTH, F.TQ_REG_EN]⟩,
  ⟨"TQ_BOUND", 0x10, [(16, 0x40)], 32, [F.TQ_BOUND_US]⟩,
  ⟨"TQ_STALL0", 0x18, [(16, 0x40)], 64, [F.TQ_STALL0_REFRESH, F.TQ_STALL0_REREAD]⟩,
  ⟨"TQ_STALL1", 0x20, [(16, 0x40)], 64, [F.TQ_STALL1_YARD, F.TQ_STALL1_YARDFAIL]⟩,
  ⟨"TQ_STALL2", 0x28, [(16, 0x40)], 64, [F.TQ_STALL2_CELLAR, F.TQ_STALL2_QUOTA]⟩,
  ⟨"TQ_STALL3", 0x30, [(16, 0x40)], 64, [F.TQ_STALL3_REGULATOR, F.TQ_STALL3_MISROUTE]⟩]

def rows_lnk : List RegRow := [
  ⟨"LNK_STAT", 0x0, [], 32, [F.LNK_STAT_STATE, F.LNK_STAT_HCAUSE, F.LNK_STAT_PEERLINK, F.LNK_STAT_PEER]⟩,
  ⟨"LNK_CNT0", 0x8, [], 64, [F.LNK_CNT0_REPLAY, F.LNK_CNT0_CRCFAIL]⟩,
  ⟨"LNK_CNT1", 0x10, [], 64, [F.LNK_CNT1_FECCORR, F.LNK_CNT1_FECUNC, F.LNK_CNT1_DOWN]⟩,
  ⟨"LNK_INJ", 0x100, [], 64, [F.LNK_INJ_MODE, F.LNK_INJ_WIN, F.LNK_INJ_RATE, F.LNK_INJ_AUTH, F.LNK_INJ_COUNT]⟩]

def rows_pt : List RegRow := [
  ⟨"PT_CTL", 0x0, [], 32, [F.PT_CTL_EN, F.PT_CTL_AUTO, F.PT_CTL_STATE, F.PT_CTL_LFULL]⟩,
  ⟨"PT_STEP", 0x8, [], 64, [F.PT_STEP_STEP]⟩,
  ⟨"PT_WGEN", 0x10, [], 32, [F.PT_WGEN_CUR, F.PT_WGEN_NEXT]⟩,
  ⟨"PT_SERVE", 0x18, [], 32, [F.PT_SERVE_LAYERCH, F.PT_SERVE_LAYEREN, F.PT_SERVE_ADMIT, F.PT_SERVE_PCHUNK]⟩,
  ⟨"PT_INAREA", 0x20, [], 64, [F.PT_INAREA_ADDR]⟩,
  ⟨"PT_VERDICT", 0x28, [], 64, [F.PT_VERDICT_ADDR]⟩,
  ⟨"PT_SAVE", 0x30, [], 64, [F.PT_SAVE_ADDR]⟩,
  ⟨"PT_WDIR", 0x38, [], 64, [F.PT_WDIR_ADDR]⟩,
  ⟨"PT_SLICE", 0x40, [], 32, [F.PT_SLICE_QUANTUM, F.PT_SLICE_GROUP, F.PT_SLICE_PRIO]⟩,
  ⟨"PT_RB", 0x80, [(6, 0x20)], 64, [F.PT_RB_BASE]⟩,
  ⟨"PT_RC", 0x88, [(6, 0x20)], 32, [F.PT_RC_LOG2N, F.PT_RC_EN, F.PT_RC_ERR]⟩,
  ⟨"PT_RP", 0x90, [(6, 0x20)], 32, [F.PT_RP_PROD]⟩,
  ⟨"PT_RK", 0x98, [(6, 0x20)], 32, [F.PT_RK_CONS]⟩,
  ⟨"PT_CNT0", 0x180, [], 64, [F.PT_CNT0_ADMITTED, F.PT_CNT0_HELDREC]⟩,
  ⟨"PT_CNT1", 0x188, [], 64, [F.PT_CNT1_OQWAIT, F.PT_CNT1_LATEPARK]⟩]

def rows_pwr : List RegRow := [
  ⟨"PWR_CAP", 0x0, [], 64, [F.PWR_CAP_TRAY, F.PWR_CAP_TRATE, F.PWR_CAP_HOST, F.PWR_CAP_HRATE]⟩,
  ⟨"PWR_STAT", 0x8, [], 64, [F.PWR_STAT_DRAW, F.PWR_STAT_CEIL, F.PWR_STAT_FCODE, F.PWR_STAT_CAPLIM, F.PWR_STAT_THERMLIM, F.PWR_STAT_FASTSTR, F.PWR_STAT_OVR, F.PWR_STAT_MODTHR, F.PWR_STAT_AGELIM, F.PWR_STAT_CAPCLAMP, F.PWR_STAT_TRIPPED, F.PWR_STAT_ALERT]⟩,
  ⟨"PWR_CTL", 0x10, [], 32, [F.PWR_CTL_FTGT, F.PWR_CTL_BALEN, F.PWR_CTL_BRAMP, F.PWR_CTL_PRELEAD]⟩,
  ⟨"PWR_MASK", 0x18, [], 32, [F.PWR_MASK_MASK]⟩,
  ⟨"PWR_CNT", 0x20, [], 64, [F.PWR_CNT_HINTS, F.PWR_CNT_LATEHINT, F.PWR_CNT_FASTCAP]⟩,
  ⟨"PWR_BALE", 0x28, [], 64, [F.PWR_BALE_MJ]⟩,
  ⟨"PWR_CNTCLR", 0x30, [], 32, [F.PWR_CNTCLR_CNT, F.PWR_CNTCLR_BALE, F.PWR_CNTCLR_DROOP]⟩,
  ⟨"PWR_OVRPTR", 0x40, [], 32, [F.PWR_OVRPTR_NEXT, F.PWR_OVRPTR_COUNT, F.PWR_OVRPTR_LOST, F.PWR_OVRPTR_CLR]⟩,
  ⟨"AGE_PTR", 0x41000, [], 32, [F.AGE_PTR_NEXT, F.AGE_PTR_COUNT, F.AGE_PTR_LOST]⟩,
  ⟨"PWR_ISL", 0x10000, [(1701, 0x10)], 64, [F.PWR_ISL_GRANT, F.PWR_ISL_FREQ, F.PWR_ISL_FMAX, F.PWR_ISL_FLOOR, F.PWR_ISL_LEVEL, F.PWR_ISL_HINTED]⟩,
  ⟨"PWR_TS", 0x20000, [(239, 0x4)], 32, [F.PWR_TS_TEMP, F.PWR_TS_MAX, F.PWR_TS_LIM, F.PWR_TS_CLR]⟩,
  ⟨"PWR_THCFG", 0x21000, [], 32, [F.PWR_THCFG_TJMAX]⟩]

def rows_clk : List RegRow := [
  ⟨"CLK_ISL", 0x0, [(1701, 0x10)], 64, [F.CLK_ISL_ON, F.CLK_ISL_USED, F.CLK_ISL_REF, F.CLK_ISL_VOFF, F.CLK_ISL_MV, F.CLK_ISL_DROOP]⟩,
  ⟨"CLK_DCFG", 0x40000, [], 32, [F.CLK_DCFG_DTH, F.CLK_DCFG_STR]⟩]

def rows_sec : List RegRow := [
  ⟨"SEC_STAT", 0x0, [], 32, [F.SEC_STAT_APPROVED, F.SEC_STAT_ERROR, F.SEC_STAT_SELFTEST, F.SEC_STAT_ZEROISED, F.SEC_STAT_KDVALID, F.SEC_STAT_LOGFULL, F.SEC_STAT_BOOTERR, F.SEC_STAT_SESSIONS, F.SEC_STAT_FAILTEST]⟩,
  ⟨"SEC_LIFE", 0x8, [], 32, [F.SEC_LIFE_STATE, F.SEC_LIFE_REMAIN, F.SEC_LIFE_WREF]⟩,
  ⟨"SEC_SVN", 0x10, [], 32, [F.SEC_SVN_SVN, F.SEC_SVN_REMAIN, F.SEC_SVN_WREF]⟩,
  ⟨"SEC_OWNER", 0x18, [], 32, [F.SEC_OWNER_SLOT, F.SEC_OWNER_SET, F.SEC_OWNER_REMAIN, F.SEC_OWNER_WREF]⟩,
  ⟨"SEC_DOMAIN", 0x20, [], 32, [F.SEC_DOMAIN_ID, F.SEC_DOMAIN_REMAIN, F.SEC_DOMAIN_WREF]⟩,
  ⟨"SEC_DEBUG", 0x28, [], 32, [F.SEC_DEBUG_INJECT, F.SEC_DEBUG_TEST, F.SEC_DEBUG_EVER]⟩,
  ⟨"SEC_EVT", 0x30, [], 64, [F.SEC_EVT_STALE, F.SEC_EVT_AUTHFAIL, F.SEC_EVT_HELDKEY, F.SEC_EVT_ZTHR]⟩,
  ⟨"SEC_REPAIR", 0x40, [(32, 0x8)], 32, [F.SEC_REPAIR_VERSION, F.SEC_REPAIR_REMAIN, F.SEC_REPAIR_WREF]⟩,
  ⟨"SEC_OWNDIG", 0x200, [(8, 0x20), (4, 0x8)], 64, [F.SEC_OWNDIG_DIG]⟩,
  ⟨"SEC_MEAS", 0x1000, [(8, 0x20), (4, 0x8)], 64, [F.SEC_MEAS_VAL]⟩,
  ⟨"SEC_PMEAS", 0x2000, [(16, 0x20), (4, 0x8)], 64, [F.SEC_PMEAS_VAL]⟩,
  ⟨"SEC_WKEY", 0x3000, [(16, 0x80), (16, 0x8)], 64, [F.SEC_WKEY_KEYID, F.SEC_WKEY_VALID]⟩]

def rows_rst : List RegRow := [
  ⟨"RST_CAUSE", 0x0, [], 32, [F.RST_CAUSE_LAST, F.RST_CAUSE_FULLCNT, F.RST_CAUSE_KEEPLOST]⟩,
  ⟨"RST_STAT", 0x8, [], 32, [F.RST_STAT_STAGE, F.RST_STAT_UP, F.RST_STAT_LINKWAIT, F.RST_STAT_DEAD, F.RST_STAT_EPOCHS]⟩,
  ⟨"RST_WDOG", 0x10, [], 32, [F.RST_WDOG_MS, F.RST_WDOG_EN, F.RST_WDOG_KICK]⟩,
  ⟨"RST_DIE", 0x18, [], 32, [F.RST_DIE_DIE]⟩,
  ⟨"RST_EPOCH", 0x100, [(8, 0x10)], 64, [F.RST_EPOCH_DIE, F.RST_EPOCH_UNIT, F.RST_EPOCH_LEVEL, F.RST_EPOCH_OPEN, F.RST_EPOCH_STEP, F.RST_EPOCH_RESTARTS, F.RST_EPOCH_START]⟩]

def rows_die : List RegRow := [
  ⟨"DIE_CTL", 0x0, [], 32, [F.DIE_CTL_PART, F.DIE_CTL_PABORT, F.DIE_CTL_CRST, F.DIE_CTL_FENCE]⟩,
  ⟨"DIE_STAT", 0x8, [], 32, [F.DIE_STAT_INSERVICE, F.DIE_STAT_FAULTY]⟩,
  ⟨"DIE_CNTCTL", 0xf8, [], 32, [F.DIE_CNTCTL_FREEZE, F.DIE_CNTCTL_CLR]⟩,
  ⟨"DIE_RGN", 0x8000, [(16, 0x200), (32, 0x10)], 128, [F.MEM_RGN_KIND, F.MEM_RGN_ENC, F.MEM_RGN_STREAM, F.MEM_RGN_HOME, F.MEM_RGN_VALID, F.MEM_RGN_BASE, F.MEM_RGN_SIZE]⟩]

def rows_hst : List RegRow := [
  ⟨"HST_PORTMAP", 0xc0000, [], 32, [F.HST_PORTMAP_PORT]⟩,
  ⟨"HST_RGN", 0xb0000, [(16, 0x200), (32, 0x10)], 128, [F.MEM_RGN_KIND, F.MEM_RGN_ENC, F.MEM_RGN_STREAM, F.MEM_RGN_HOME, F.MEM_RGN_VALID, F.MEM_RGN_BASE, F.MEM_RGN_SIZE]⟩]

/-- The kinds of block. -/
inductive BlkKind where
  | stw | wnw | til | syn | step | fab | bnet | gw | rte | mem | ch | tq | lnk | pt | pwr | clk | sec | rst | die | hst
deriving DecidableEq, Repr

/-- The register rows of a block. -/
def blkRows : BlkKind → List RegRow
  | .stw => rows_stw
  | .wnw => rows_wnw
  | .til => rows_til
  | .syn => rows_syn
  | .step => rows_step
  | .fab => rows_fab
  | .bnet => rows_bnet
  | .gw => rows_gw
  | .rte => rows_rte
  | .mem => rows_mem
  | .ch => rows_ch
  | .tq => rows_tq
  | .lnk => rows_lnk
  | .pt => rows_pt
  | .pwr => rows_pwr
  | .clk => rows_clk
  | .sec => rows_sec
  | .rst => rows_rst
  | .die => rows_die
  | .hst => rows_hst

/-- The block of an absolute address, with the block's index and the offset within it (R30, R31). -/
def blkOf (a : Nat) : Option (BlkKind × Nat × Nat) :=
  if a < 0x20000 then some (.stw, 0, a)
  else if a < 0x30000 then some (.die, 31, a - 0x20000)
  else if a < 0x100000 then some (.stw, 0, a)
  else if a < 0x200000 then some (.pwr, 0, a - 0x100000)
  else if a < 0x300000 then some (.sec, 0, a - 0x200000)
  else if a < 0x380000 then some (.rst, 0, a - 0x300000)
  else if a < 0x400000 then some (.clk, 0, a - 0x380000)
  else if a < 0x410000 then some (.pt, (a - 0x400000) / 0x1000, a % 0x1000)
  else if a < 0x480000 then none
  else if a < 0x490000 then some (.bnet, 31, a - 0x480000)
  else if a < 0x4A0000 then some (.gw, 31, a - 0x490000)
  else if a < 0x4B0000 then some (.tq, 31, a - 0x4A0000)
  else if a < 0x500000 then some (.hst, 0, a - 0x400000)
  else if a < 0x600000 then none
  else if a < 0x700000 then some (.step, 0, a - 0x600000)
  else if a < 0x10000000 then none
  else if a < 0x28000000 then
    let d := (a - 0x10000000) / 0x1000000
    let o := a % 0x1000000
    if o < 0x10000 then some (.die, d, o)
    else if o < 0x20000 then some (.rte, d, o - 0x10000)
    else if o < 0x30000 then some (.bnet, d, o - 0x20000)
    else if o < 0x40000 then some (.syn, d, o - 0x30000)
    else if o < 0x50000 then some (.wnw, d, o - 0x40000)
    else if o < 0x800000 then none
    else if o < 0xC00000 then some (.til, d * 64 + (o - 0x800000) / 0x10000, o % 0x10000)
    else none
  else if a < 0x30000000 then none
  else if a < 0x34000000 then
    let m := (a - 0x30000000) / 0x1000000
    let o := a % 0x1000000
    if o < 0x20000 then some (.mem, m, o)
    else if o < 0x30000 then some (.bnet, 24 + m, o - 0x20000)
    else if o < 0x40000 then some (.gw, 24 + m, o - 0x30000)
    else if o < 0x50000 then some (.tq, 24 + m, o - 0x40000)
    else if o < 0xF0000 then some (.mem, m, o)
    else if o < 0x100000 then some (.die, 24 + m, o - 0xF0000)
    else if o < 0x280000 then some (.ch, m * 24 + (o - 0x100000) / 0x10000, o % 0x10000)
    else none
  else if a < 0x38000000 then none
  else if a < 0x3B000000 then
    let l := (a - 0x38000000) / 0x1000000
    let o := a % 0x1000000
    if o < 0x20000 then some (.fab, l, o)
    else if o < 0x30000 then some (.bnet, 28 + l, o - 0x20000)
    else if o < 0x40000 then some (.gw, 28 + l, o - 0x30000)
    else if o < 0x50000 then some (.tq, 28 + l, o - 0x40000)
    else if o < 0xF0000 then some (.fab, l, o)
    else if o < 0x100000 then some (.die, 28 + l, o - 0xF0000)
    else if o < 0x1C0000 then some (.lnk, l * 12 + (o - 0x100000) / 0x10000, o % 0x10000)
    else none
  else none

/-- The indices of an offset under a row's dimensions, and what is left of the offset. -/
def dimIdx : List (Nat × Nat) → Nat → Option (List Nat × Nat)
  | [], o => some ([], o)
  | (c, st) :: r, o =>
    if o / st < c then (dimIdx r (o % st)).map fun x => ((o / st) :: x.1, x.2) else none

/-- A decoded register access: the block and its index, the row, the row's indices, and the 64-bit half. -/
structure RegSel where
  kind : BlkKind
  idx : Nat
  row : RegRow
  ix : List Nat
  half : Nat

/-- The row that an offset names; a 128-bit register has a second half at its offset + 8 (R33). -/
def rowAt (k : BlkKind) (idx o : Nat) : List RegRow → Option RegSel
  | [] => none
  | r :: rest =>
    match (if r.base ≤ o then dimIdx r.dims (o - r.base) else none) with
    | some (ix, 0) => some ⟨k, idx, r, ix, 0⟩
    | some (ix, 8) => if r.width = 128 then some ⟨k, idx, r, ix, 1⟩ else rowAt k idx o rest
    | _ => rowAt k idx o rest

/-- BNET routers exist as R210 says: eight on a compute die, one elsewhere; the region table of R344 stands in the DIE
block of compute dies only. -/
def routerExists (k : BlkKind) (idx : Nat) (ix : List Nat) : Bool :=
  (k != .bnet || idx < 24 || ix.headD 0 = 0 || ix.length < 2) && (k != .die || idx < 24 || ix.isEmpty)

/-- The register at an absolute address, if a block decodes it. -/
def regAt (a : Nat) : Option RegSel :=
  match blkOf a with
  | none => none
  | some (k, idx, o) =>
    match rowAt k idx o (blkRows k) with
    | some x => if routerExists k idx x.ix then some x else none
    | none => none

/-- The reset value that the fields of one half of a row make up. -/
def rowReset (r : RegRow) (half : Nat) : Word64 :=
  r.fields.foldl (fun v f => if f.half = half then fldPut f v f.reset else v) 0

/-- What a register reads as at reset: its row's reset value; TQ_BOUND resets to 500 at the steward (R346). -/
def resetOf (a : Nat) : Word64 :=
  match regAt a with
  | none => 0
  | some x =>
    if x.kind = .tq ∧ x.idx = 31 ∧ x.row.base = 0x10 then 500 else rowReset x.row x.half

end Sys2Proof.Machine
end

