-- ==== Sys2Proof/Machine/SecTypes.lean ====
section
/-! DEFINITION. The state of the security module beside its registers (chapter 13). -/

namespace Sys2Proof.Machine

/-- A session slot (R476, R477): the function it belongs to, the role it asks for (1 OWNER, 2 OPERATOR) and its partition
mask, whether it is granted, its keys, the confirmation it expects and the counter of its last command. -/
structure Session where
  fn : Nat
  role : Nat
  mask : Nat
  granted : Bool
  kenc : List Byte
  kmac : List Byte
  sa : List Byte
  ctr : Nat
deriving DecidableEq, Repr

/-- An entry of the measurement log (R488). -/
structure MeasEnt where
  reg : Nat
  kind : Nat
  time : Nat
  dig : List Byte
deriving DecidableEq, Repr

/-- The security module. `mrk`, `kd`, `wkeys` (by partition × 16 + slot) and the sessions are keys; `epochs` the E_p of R469;
`alive` says the private parts of DIK and DWK are held; `authRow` counts failures in a row, `lockout` refuses SEC_OPEN (R477);
`blob`, `repair` and `identity` lie in the boot flash (R470, R507, R468); `fwSvn` and `fwDigest` are the running steward
firmware's. -/
structure SecSt where
  mrk : BitVec 256
  epochs : Sparse Nat
  kd : Option (List Byte)
  wkeys : Sparse (Option (List Byte))
  sessions : Sparse (Option Session)
  alive : Bool
  authRow : Nat
  lockout : Bool
  log : List MeasEnt
  events : List (SecEvt × Nat)
  blob : Option (List Byte)
  repair : Sparse (List Byte)
  identity : List Byte
  fwSvn : Nat
  fwDigest : List Byte
deriving DecidableEq, Repr

def SecSt.idle : SecSt :=
  { mrk := 0, epochs := [], kd := none, wkeys := [], sessions := [], alive := false, authRow := 0,
    lockout := false, log := [], events := [], blob := none, repair := [], identity := [], fwSvn := 0, fwDigest := [] }

end Sys2Proof.Machine
end

