-- ==== Sys2Proof/Machine/TileTypes.lean ====
section
/-! DEFINITION. The state a tile, its engines and the networks keep beside their registers: instruction buffers and
instructions in flight (R78 to R81, R126), posted waits (R185), armed receives (R160), bank transitions (R96, R97), the
attention walker (R246 to R259), units and router outputs (R213 to R226), gateway requests (R227 to R230) and messages
of the sync network (R234). -/

namespace Sys2Proof.Machine

/-- One place of an instruction buffer: nothing fetched, a fetch gap (R127), or an instruction word. -/
inductive BufCell where
  | absent
  | gap
  | word (w : Word64)
deriving DecidableEq, Repr

/-- An active loop: its counter K, the counter's value, the count N, the first body instruction's byte offset and the
body length (R134). -/
structure LoopFrame where
  k : Nat
  cnt : Nat
  n : Nat
  first : Nat
  len : Nat
deriving DecidableEq, Repr

/-- An instruction in flight: issued, not yet complete. `need` counts what it still waits for (units to land, queue
entries to take, an old value), `pool` the credit it returns (R81), `units` counts the units it presented on its engine's lane.
An instruction that works through the walker's queues keeps the descriptors it read at issue, which are the templates of its steps
(R253), and the loops active then, which move them (R141). -/
structure InFlight where
  uid : Nat
  op : Nat
  iaddr : Nat
  sig : Sig
  status : Nat
  pool : Option Nat
  need : Nat
  units : Nat
  args : List Nat
  loops : List LoopFrame
deriving DecidableEq, Repr

/-- A wait field's progress (R182 to R189). `inBatch`: the first test travels to SYN; `posted`: it failed and waits at
the counter; `granted`: it passed; `finaling`: the withdrawal of the final test travels to SYN. -/
inductive WaitSt where
  | fresh | inBatch | posted | granted | finaling
deriving DecidableEq, Repr

/-- The wait field: alias, threshold, consuming or plain, timeout register (R129). -/
structure WaitF where
  alias_ : Nat
  thr : Nat
  consume : Bool
  tmo : Nat
deriving DecidableEq, Repr

/-- What holds an engine, as TIL_STAT shows it (R105). -/
inductive Stall where
  | active | wait | credit | starve | bank
deriving DecidableEq, Repr

/-- One engine of a tile. `wf` and `wia` are the wait field under test and its instruction's address while `wait` is not
`fresh`; `rsv` is the pool of the credit reserved for the instruction at the head (R77); `holdY` is the ID of the YIELD the engine
holds at, `holdSig` its signal (R165). -/
structure EngSt where
  buf : Sparse BufCell
  bbuf : Sparse BufCell
  loops : List LoopFrame
  infl : List InFlight
  nextUid : Nat
  wait : WaitSt
  wf : Option WaitF
  wia : Nat
  timer : Option Nat
  stall : Stall
  ended : Bool
  holdY : Option Nat
  holdSig : Sig
  rsv : Option Nat
  faulted : Bool
deriving DecidableEq, Repr

def EngSt.idle : EngSt :=
  { buf := [], bbuf := [], loops := [], infl := [], nextUid := 0, wait := .fresh, wf := none, wia := 0,
    timer := none, stall := .active, ended := false, holdY := none, holdSig := ⟨63, 1⟩, rsv := none, faulted := false }

/-- A unit on the bulk network with its sideband marks (R213). `via` is the model's own mark of who presented the
unit: a die index 0 to 31 for a gateway or a routing engine, and from 32 on a tile with the number of its instruction (viaOf); it
decides who closes a segment under R192 and which instruction a request belongs to (R151, R157). -/
structure BUnit where
  cls : UClass
  psn : Bool
  hdr : Bool
  last : Bool
  data : SheafBits
  via : Nat
deriving DecidableEq, Repr

/-- The mark of instruction number `uid` of tile `g`. -/
def viaOf (g uid : Nat) : Nat := 32 + g + 2048 * uid
def viaTile (v : Nat) : Nat := (v - 32) % 2048
def viaUid (v : Nat) : Nat := (v - 32) / 2048

/-- An armed receive (R160): the instruction it belongs to, the Loft addresses its units still fill, and for a
segmented receive whether the header is still expected and how many units it announced; `width` is 32, or the lane width
of an ATOM's returned value (R157). -/
structure RecvRec where
  eng : Eng
  uid : Nat
  addrs : List Nat
  seg : Bool
  left : Option Nat
  width : Nat
deriving DecidableEq, Repr

/-- A placement segment in progress at an arrival port (R214, R215, R285). -/
structure PlaceRec where
  addr : Nat
  idx : Nat
  left : Nat
  acnt : Nat
  kind : Nat
  expw : Nat
  via : Nat
  info : SheafBits
deriving DecidableEq, Repr

/-- One signal or test of a tile's batch toward SYN (R184). -/
inductive BatchOp where
  | signal (eng : Eng) (sem inc iaddr : Nat)
  | test (eng : Eng) (sem thr : Nat) (consume final : Bool)
deriving DecidableEq, Repr

/-- What the walker still has to push, in the order of R258: the walk of an entry begins; a load of walk block `p0` of an entry, `npos`
positions, into the ring slot of load number `v`, its page-table entry at `pt` read when the push is made (R269); an ME entry; a VE
entry; or a null entry for the LE. -/
inductive WalkPush where
  | enter (ent : Nat)
  | load (ent pt p0 npos v : Nat)
  | me (e : Word64)
  | ve (e : BitVec 256)
  | nullLe
deriving DecidableEq, Repr

/-- A length-table entry's fields (R243); `zero` gathers the bits marked zero. -/
structure LEntry where
  clen : Nat
  tlen : Nat
  win : Nat
  nglob : Nat
  gptr : Nat
  pptr : Nat
  xptr : Nat
  xl : Nat
  zero : Nat
deriving DecidableEq, Repr

/-- What the walker reads of an entry at issue: where it lies, its fields, and its exit list's count. -/
structure LRead where
  addr : Nat
  ent : LEntry
  nx : Nat
deriving DecidableEq, Repr

/-- A visited block as the walker read it: entry index, first position, global positions in it, positions masked by exit. -/
structure WalkBlk where
  ent : Nat
  p0 : Nat
  globals : List Nat
  hidden : List Nat
deriving DecidableEq, Repr

/-- A pair of R248: its load number and its row block. -/
structure WalkPair where
  v : Nat
  rb : Nat
deriving DecidableEq, Repr

/-- The attention walker's run (R246 to R259): the descriptor and the entries as read at issue, the row blocks of the walk, the entry
being walked, what is left to push of the entries reached, the ring slots held and landed as bit masks, how many steps of each kind
are complete, the pairs in their order and the blocks visited; then the entries not yet reached, the index and the first row block of
the next of them, the loads numbered so far, and the queues that have had an entry (bit 0 LE, 1 ME, 2 VE). -/
structure WalkSt where
  desc : BitVec 256
  nrb : Nat
  entry : Nat
  todo : List WalkPush
  held : Nat
  landed : Nat
  tDone : Nat
  qDone : Nat
  sDone : Nat
  xDone : Nat
  oDone : Nat
  fLeft : Nat
  pairs : List WalkPair
  blocks : List WalkBlk
  ents : List LRead
  nextEnt : Nat
  rb0 : Nat
  loads : Nat
  got : Nat
deriving DecidableEq, Repr

/-- A march test in progress (R505): its mode and the lines saved by a preserving test are kept by the part. -/
structure MarchSt where
  running : Bool
  preserving : Bool
deriving DecidableEq, Repr

/-- A control/debug line operation in progress, with what GO latched (R115). -/
structure DbgOp where
  wr : Bool
  psn : Nat
  line : Nat
deriving DecidableEq, Repr

/-- One tile beside its registers, its Loft and its engines. Bit j of `varUnread`: TIL_VAR_j was written and no BRV has issued on it
since (R292). -/
structure TileSt where
  loadQ : List RecvRec
  recvQ : List RecvRec
  place : Option PlaceRec
  presented : Option BUnit
  trans : List (Nat × Nat)
  held : List (Nat × Nat)
  dbg : Option DbgOp
  dbgLost : Nat
  batch : List BatchOp
  macs : Nat
  march : MarchSt
  leQ : List (BitVec 128)
  meQ : List Word64
  veQ : List (BitVec 256)
  walk : Option WalkSt
  hintDue : Bool
  varUnread : Nat
deriving DecidableEq, Repr

def TileSt.idle : TileSt :=
  { loadQ := [], recvQ := [], place := none, presented := none, trans := [], held := [], dbg := none, dbgLost := 0,
    batch := [], macs := 0, march := ⟨false, false⟩, leQ := [], meQ := [], veQ := [], walk := none, hintDue := false, varUnread := 0 }

/-- A sampled block held by a Winnow unit (R67, R68): where it came from, its operands, and the tile's result. -/
structure Capture where
  tile : Nat
  blk : Nat
  iaddr : Nat
  fa : Fmt
  fb : Fmt
  wts : List (List Sheaf)
  acts : List (List Sheaf)
  granules : Nat
  result : AccBlock
deriving DecidableEq, Repr

/-! ## Routers -/

/-- The run state of a router output (R218, R223); `cleared` is an output stopped by a fault whose record has been cleared
and which the next START resumes. -/
inductive OutRun where
  | halt | run | fault | cleared
deriving DecidableEq, Repr

/-- A route loop: counter K, its value, N, first body entry, body length (R218). -/
structure RLoop where
  k : Nat
  cnt : Nat
  n : Nat
  first : Nat
  len : Nat
deriving DecidableEq, Repr

/-- A router output (R217 to R222): `left` is the units left of the MOVE begun, `none` before it begins; `stalled` says
ROUTESTALL was raised since a unit last moved; `held` counts the network cycles held since the output last made progress. -/
structure OutSt where
  run : OutRun
  entry : Nat
  left : Option Nat
  loops : List RLoop
  stalled : Bool
  held : Nat
deriving DecidableEq, Repr

def OutSt.idle : OutSt := ⟨.halt, 0, none, [], false, 0⟩

/-! ## Gateways -/

/-- A request accepted by a gateway (R227): its queue, the request unit's fields, the data that follows it, the units it
returns (present once placed; for a store, present once applied), whether its bound has expired, and who presented it. -/
structure GwReq where
  id : Nat
  queue : Nat
  addr : Nat
  count : Nat
  op : Nat
  lastReq : Bool
  part : Nat
  tpkg : Nat
  ttile : Nat
  tplace : Nat
  data : List BUnit
  units : List (Option Sheaf)
  shown : Nat
  expired : Bool
  via : Nat
deriving DecidableEq, Repr

/-- A gateway beside its registers: the units waiting on each of its four ingress entries with their QSEL, the accepted
requests in acceptance order, and the next request number. -/
structure GwSt where
  ingress : Sparse (List (Nat × BUnit))
  reqs : List GwReq
  nextId : Nat
deriving DecidableEq, Repr

def GwSt.idle : GwSt := ⟨[], [], 0⟩

/-! ## The sync and control networks -/

/-- What a message of the sync network says (R234). -/
inductive SyncBody where
  | arrive (node : BNode) (ch child : Nat) (srcEng : Option Eng) (iaddr : Nat)
  | release (node : BNode) (ch : Nat)
  | tileRelease (tile ch : Nat)
  | segClose (tile acnt : Nat)
deriving DecidableEq, Repr

structure SyncMsg where
  src : Nat
  dst : Nat
  body : SyncBody
deriving DecidableEq, Repr

/-- A packet of the control network (R232). -/
structure CtlPkt where
  type : Nat
  dst : Nat
  src : Nat
  srcId : Nat
  tag : Nat
  err : Bool
  addr : Nat
  payload : List Byte
deriving DecidableEq, Repr

/-- A control packet under way: the die whose router holds it, or none while the block that sends it still waits for a credit (R231). -/
structure CtlHop where
  hop : Option Nat
  pkt : CtlPkt
deriving DecidableEq, Repr

/-- The three networks: units in router inputs, route tables, outputs, sync messages and control packets under way, what a crossing
between two islands has delivered or refused (R26 to R28), adapter retries and modules out of service (R17), and the BULK slots of a module
transmitter since its last CTRL or SYNC slot (R16). -/
structure NetSt where
  inq : Sparse (List BUnit)
  tables : Sparse Word64
  outs : Sparse OutSt
  sync : List SyncMsg
  ctl : List CtlHop
  delivered : Sparse Nat
  refusedOff : Sparse Nat
  retries : Sparse Nat
  moduleOut : Sparse Bool
  slots : Sparse Nat
deriving DecidableEq, Repr

def NetSt.idle : NetSt := ⟨[], [], [], [], [], [], [], [], [], []⟩

end Sys2Proof.Machine
end

