-- ==== Sys2Proof/Machine/ServeTypes.lean ====
section
/-! DEFINITION. The state of serving (chapter 11) and of expert routing (chapter 8) beside their registers: sequences,
adapters, items under way, the ledger; the routing engines' open vectors, the step controller's count rows, runs at the
exchange ports. -/

namespace Sys2Proof.Machine

/-! ## Serving -/

/-- The states of a sequence (R407); `pausing` is an IDLE sequence whose pages a PAUSE is moving (R431). -/
inductive SeqMode where
  | active | idle | pausing | paused | expired
deriving DecidableEq, Repr

/-- A sequence (R407 to R416). `clen` and `tlen` stand in its length-table entries; `wgen`, `agen` and `aslot` (0xFFFF: none) are
pinned; `plen`, `paddr` and `fed` describe the prompt and how much of it has run, behind the last emitted token in an APPEND; `turn`
counts the tokens emitted in the turn, of at most `maxtok`; `tag` and `kind` are those of the item that started the turn, or of a
PAUSE under way; `qcnt` is its query positions in the step in flight; `pages` its pages while it holds no slot; `expiry`, `ttl` and
`tier` are those of its PAUSE. -/
structure Seq where
  seqid : Nat
  mode : SeqMode
  slot : Nat
  clen : Nat
  tlen : Nat
  wgen : Nat
  agen : Nat
  aslot : Nat
  strict : Bool
  vmode : Bool
  append : Bool
  plen : Nat
  paddr : Nat
  fed : Nat
  maxtok : Nat
  ndraft : Nat
  stop : List Nat
  lastTok : Nat
  turn : Nat
  tag : Nat
  kind : Nat
  qcnt : Nat
  pages : List Nat
  expiry : Nat
  ttl : Nat
  tier : Nat
deriving DecidableEq, Repr

/-- A ledger record (R427) and an entry of the ledger keep (R501), with the partition. -/
structure LedRec where
  part : Nat
  tag : Nat
  kind : Nat
  failed : Bool
  cause : Nat
  detail : Nat
  lsn : Nat
deriving DecidableEq, Repr

/-- A consumed COPY or ATOMIC item (OP 0x10, 0x12) or a PAUSE whose moves run, which has no record yet: its number, how many of its
messages are still out, and the cause and detail its record will carry. -/
structure OpenItem where
  tag : Nat
  kind : Nat
  seqid : Nat
  uid : Nat
  left : Nat
  cause : Nat
  detail : Nat
deriving DecidableEq, Repr

/-- A weight load in progress (R419 to R423): its item, manifest, whether it is a swap, its generation and key, the stripes this
package still awaits with their layers, those whose first fetch failed its digest, and whether it runs as a pipeline (R420). -/
structure WLoad where
  tag : Nat
  addr : Nat
  swap : Bool
  wgen : Nat
  keyid : Nat
  waiting : List (Nat × Nat)
  retried : List Nat
  pipe : Bool
deriving DecidableEq, Repr

/-- An entry of a step record (R413). -/
structure RecEnt where
  seqid : Nat
  slot : Nat
  flags : Nat
  toks : List Nat
  clen : Nat
  acc : Nat
deriving DecidableEq, Repr

/-- A partition (R399). `clusters` is one mask per die; `alloc` the adapter slots in use with address and bytes, `ids` the
adapter table (slot, generation), `gens` the generations, `puts` the copies applied at the next boundary (id, slot); `open_` the items
without a record and `nextUid` the next item number; `lsn` the last ledger number given; `held` the records waiting for room;
`running` marks a step in flight since `stepAt`, which runs generation `stepGen` and whose record carries SWAP under `stepSwap`;
`stepItem` is the STEP item it runs for; `admitted` the START, APPEND and RESUME admitted for the coming step; `episode` the layer episode whose
barrier comes next in a swap step (R422); `parking` a parking
request under way; `saved` says its save area holds its tiles; `passing` the stripes (manifest, number) that this package passes on to the next
of the chain when they arrive (R420). -/
structure PartSt where
  clusters : List (BitVec 8)
  seqs : List Seq
  alloc : Sparse (Option (Nat × Nat))
  ids : Sparse (Option (Nat × Nat))
  gens : Sparse Nat
  puts : List (Nat × Nat)
  wloads : List WLoad
  open_ : List OpenItem
  nextUid : Nat
  lsn : Nat
  held : List LedRec
  running : Bool
  stepAt : Nat
  stepGen : Nat
  stepSwap : Bool
  stepItem : Option Nat
  admitted : Nat
  episode : Nat
  parking : Bool
  saved : Bool
  passing : List (Nat × Nat)
deriving DecidableEq, Repr

def PartSt.fresh : PartSt :=
  { clusters := [], seqs := [], alloc := [], ids := [], gens := [], puts := [], wloads := [], open_ := [], nextUid := 0, lsn := 0,
    held := [], running := false, stepAt := 0, stepGen := 0, stepSwap := false, stepItem := none, admitted := 0, episode := 0, parking := false, saved := false,
    passing := [] }

/-- Serving: the partitions that exist. -/
abbrev ServeSt := Sparse (Option PartSt)

/-! ## Routing engines and the step controller -/

/-- A routing engine (R275 to R281): the units at its input, and its open count vector with the positions it has taken. -/
structure RteSt where
  inq : List BUnit
  open_ : Bool
  seen : Nat
  vec : Sparse Nat
deriving DecidableEq, Repr

def RteSt.idle : RteSt := ⟨[], false, 0, []⟩

/-- A run at an exchange port (R284, R296, R381): of an expert, the spill run, or a forward run toward a link die. -/
inductive RunKind where
  | expert (e : Nat)
  | spill
  | fwd (ld : Nat)
deriving DecidableEq, Repr

/-- A run: its link die, queue, partition, point and kind; once its count is written, the experts it serves with their real
copies, and the copies of its segment, PAD copies included; the copies placed, each with its expert and its units; whether
the header was presented and how many units after it; `padAll` says missing copies are replaced (R301), and `out` names the packages
taken as missing when the count was written, whose copies are late (R289). -/
structure Run where
  ld : Nat
  q : Nat
  part : Nat
  point : Nat
  kind : RunKind
  parts : List (Nat × Nat)
  total : Option Nat
  got : List (Nat × List BUnit)
  header : Bool
  shown : Nat
  padAll : Bool
  out : List Nat
deriving DecidableEq, Repr

/-- The step controller of one partition: the open point, its own counts by expert and the count reports taken by die, whether its
count row was sent, the count rows come in (point, package, counts), the packages taken as missing in the step, the slots reported
poisoned, those whose sequence has a LOST page, the confidence records of an exit point, the slots exited in the step with XLAYER and POLICY, the number of points
decided, the slots last chosen, and the rows under way (source package, units). -/
structure StepSt where
  open_ : Option Nat
  own : Sparse Nat
  from_ : Sparse Nat
  sentRow : Bool
  rows : List (Nat × Nat × List Nat)
  missing : List Nat
  gone : List Nat
  lost : List Nat
  conf : List (Nat × Int)
  exited : List (Nat × Nat × Nat)
  decided : Nat
  lastSlots : List Nat
  rowIn : List (Nat × List SheafBits)
deriving DecidableEq, Repr

def StepSt.idle : StepSt :=
  { open_ := none, own := [], from_ := [], sentRow := false, rows := [], missing := [], gone := [], lost := [], conf := [], exited := [], decided := 0,
    lastSlots := [], rowIn := [] }

/-- Routing engines, step controllers, runs, and the queue assignments of experts that PLAN_LOAD wrote, by partition and expert in the form of
the plan's expert-queue table (R302). -/
structure MoeSt where
  rtes : Sparse RteSt
  steps : Sparse StepSt
  runs : List Run
  queues : Sparse Nat
deriving DecidableEq, Repr

def MoeSt.idle : MoeSt := ⟨[], [], [], []⟩

end Sys2Proof.Machine
end

