-- ==== Sys2Proof/Machine/StwTypes.lean ====
section
/-! DEFINITION. The state of the steward, of power and of reset beside their registers (chapters 12, 14 and 15). -/

namespace Sys2Proof.Machine

/-- A control core (R434 to R437): g1 to g31 (g0 reads zero), its program counter, the CE flag, and whether an illegal
instruction has stopped it. -/
structure CoreSt where
  regs : Sparse Word32
  pc : Word32
  ce : Bool
  stopped : Bool
deriving DecidableEq, Repr

def CoreSt.idle : CoreSt := ⟨[], 0, false, false⟩

/-- A report as the steward holds it: a fault record's fields (R508), a count report (R281), a poisoned or a confident
sequence (R278, R298), or a hint (R138). -/
inductive Rpt where
  | fault (cls cause level : Nat) (part : Option Nat) (island die d1 d2 : Nat)
  | count (part die point idx : Nat) (payload : List Byte)
  | psn (part slot : Nat)
  | conf (part point : Nat) (recs : List (Nat × Int))
  | hint (island cls lead dur level issued : Nat)
deriving DecidableEq, Repr

/-- The steward: its cores and die sequencer cores, the RAM by core (0 the steward's), the mailbox areas (by function × 2^15 +
byte), the eight event queues, the bytes of the fault log, overrun log and ageing log, and the function whose mailbox was served last. -/
structure StwSt where
  cores : Sparse CoreSt
  ram : List (Nat × BitVec 8)
  mbox : List (Nat × BitVec 8)
  queues : Sparse (List Rpt)
  flog : List (Nat × BitVec 8)
  ovr : List (Nat × BitVec 8)
  age : List (Nat × BitVec 8)
  turn : Nat
deriving DecidableEq, Repr

def StwSt.idle : StwSt := ⟨[], [], [], [], [], [], [], 16⟩

/-- A hint in force for a tile (R450): when it came, its phase, level in quarters, and class. -/
structure HintSt where
  at_ : Nat
  lead : Nat
  dur : Nat
  level : Nat
  cls : Nat
deriving DecidableEq, Repr

/-- An overrun under way (R460): its start, the ceiling and the draw then, the largest excess, its flags, its duration in µs, and the
energy above the ceiling in µJ. -/
structure OverSt where
  start : Nat
  ceil : Nat
  draw : Nat
  excess : Nat
  flags : Nat
  dur : Nat
  energy : Nat
deriving DecidableEq, Repr

/-- The arbiter (R445 to R460): hints, held ballast levels (by tile), thermal maxima of the zones (216 is the package's), the island that
was raised last beyond the common code, islands stretched by droop, islands whose clock rose in this period (× 128, plus the code
before), the rate that the ceiling follows in W per ms with hundredths of a watt not yet taken, an open
overrun, and the µs of the present millisecond. -/
structure PwrSt where
  hints : Sparse (Option HintSt)
  held : Sparse Nat
  zones : Sparse Nat
  lastIsl : Nat
  drooped : List Nat
  raised : List Nat
  slew : Nat
  ceilFrac : Nat
  overrun : Option OverSt
  coolUs : Nat
deriving DecidableEq, Repr

def PwrSt.idle : PwrSt :=
  { hints := [], held := [], zones := [], lastIsl := 1535, drooped := [], raised := [], slew := 0, ceilFrac := 0,
    overrun := none, coolUs := 0 }

/-- What holds the part from running (R497 to R499, R525 to R528). -/
inductive Hold where
  | none_ | unpowered | pin | trip | refLost
deriving DecidableEq, Repr

/-- Reset, test and the package's boundary: what holds the part, the ledger keep's entries (TAG, KIND, partition, LSN) and those given a
record at stage 8, the time of each stage, VF Enable by port and Bus Master Enable by function, the straps, whether VAUX is good, the
management port's slot, pending cap and last block, THERM_TRIP_N, the TAP's instruction, the epochs' numbers by RST_EPOCH_k and
the last number, the watchdog's last kick, and the lines (bank, line) of a tile that a repair in force covers. -/
structure RstSt where
  hold : Hold
  keep : List (Nat × Nat × Nat × Nat)
  keepRecs : List (Nat × Nat × Nat × Nat)
  times : List Nat
  vfEn : Sparse Bool
  busMaster : Sparse Bool
  twoPorts : Bool
  sris : Bool
  vaux : Bool
  slot : Nat
  slotValid : Bool
  slotErr : Bool
  tripLow : Bool
  capTray : Nat
  rateTray : Nat
  mpOut : List Byte
  tap : Nat
  tapBypass : Bool
  epochNos : Sparse Nat
  epochNo : Nat
  kickAt : Nat
  repairs : Sparse (List (Nat × Nat))
deriving DecidableEq, Repr

def RstSt.idle : RstSt :=
  { hold := .none_, keep := [], keepRecs := [], times := [], vfEn := [], busMaster := [], twoPorts := false, sris := false,
    vaux := true, slot := 0, slotValid := false, slotErr := false, tripLow := false, capTray := 4000, rateTray := 0, mpOut := [],
    tap := 0, tapBypass := true, epochNos := [], epochNo := 0, kickAt := 0, repairs := [] }

end Sys2Proof.Machine
end

