-- ==== Sys2Proof/Machine/State.lean ====
section
/-! DEFINITION. The state of the part as plain data, and the state after reset. -/

namespace Sys2Proof.Machine

/-- No command of the part ends the machine with a fault: what the manual calls a fault is a report, a flag or a stopped
engine, and is state (log entry 1). -/
inductive Fault where
deriving DecidableEq, Repr

/-- Why a command has no meaning. -/
inductive Refusal where
  /-- Raised by an arm of `exec` for a command that has no meaning yet. Safe: the run ends. -/
  | notModelled (mnemonic : String)
deriving DecidableEq, Repr

/-- The part. Registers are kept by absolute control-space address in 64-bit halves, plus fn × 2^30 for what each function
has of its own (R438); `staging` holds the lower half a 128-bit write keeps per accessor (R33); `freeCtr` and `pending` are the
model's own: the counter behind free values (log entry 2), and the commands waiting. -/
structure State where
  regs : Sparse Word64
  staging : Sparse (Option Word64)
  loft : List Host.Cell
  loftPsn : Sparse Bool
  tiles : Sparse TileSt
  engs : Sparse EngSt
  captures : Sparse (Option Capture)
  net : NetSt
  gws : Sparse GwSt
  rpt : List Rpt
  mem : MemSt
  fab : FabSt
  moe : MoeSt
  serve : ServeSt
  sec : SecSt
  stw : StwSt
  pwr : PwrSt
  rst : RstSt
  freeCtr : Nat
  pending : List Instr
deriving DecidableEq, Repr

/-- The part right after its power-on reset is released. -/
def State.reset : State :=
  { regs := [], staging := [], loft := [], loftPsn := [], tiles := [], engs := [], captures := [], net := .idle, gws := [],
    rpt := [], mem := .idle, fab := .idle, moe := .idle, serve := [], sec := .idle,
    stw := .idle, pwr := .idle, rst := .idle, freeCtr := 0, pending := [] }

end Sys2Proof.Machine
end

