-- ==== Sys2Proof/Machine/Ops.lean ====
section
/-! DEFINITION. The named operations over registers, the Loft, tiles, engines and reports that every meaning uses. -/

namespace Sys2Proof.Machine

def engIdx : Eng → Nat
  | .le => 0
  | .me => 1
  | .ve => 2
  | .aw => 3
  | .se => 4
  | .ne => 5

def engOf (n : Nat) : Eng :=
  match n with
  | 0 => .le
  | 1 => .me
  | 2 => .ve
  | 3 => .aw
  | 4 => .se
  | _ => .ne

def engsAll : List Eng := [.le, .me, .ve, .aw, .se, .ne]
/-- The fixed order in which tests of one cycle are applied (R183). -/
def engsTestOrder : List Eng := [.me, .ve, .aw, .le, .se, .ne]

/-! ## Registers -/

/-- A stored register half. -/
def State.rd (s : State) (a : Nat) : Word64 := spGet resetOf s.regs a
def State.wr (s : State) (a : Nat) (v : Word64) : State := { s with regs := spPut resetOf s.regs a v }
/-- A field of a stored register. -/
def State.fget (s : State) (a : Nat) (f : Fld) : Nat := fldGet f (s.rd (a + 8 * f.half))
def State.fset (s : State) (a : Nat) (f : Fld) (n : Nat) : State :=
  s.wr (a + 8 * f.half) (fldPut f (s.rd (a + 8 * f.half)) n)
def State.flag (s : State) (a : Nat) (f : Fld) : Bool := decide (s.fget a f ≠ 0)

/-- The all-ones value of a field. -/
def fldTop (f : Fld) : Nat := 2 ^ (f.hi + 1 - f.lo) - 1

/-- A counter field advanced by `n`, stopping at all ones. -/
def State.fadd (s : State) (a : Nat) (f : Fld) (n : Nat) : State := s.fset a f (min (fldTop f) (s.fget a f + n))

/-- A counter of a tile's counter sections that follow TIL_CNTCTL.FREEZE (R123, R208, R274). -/
def State.tilCnt (s : State) (g a : Nat) (f : Fld) (n : Nat) : State :=
  if s.flag (R.TIL_CNTCTL g) F.TIL_CNTCTL_FREEZE then s else s.fadd a f n

/-- A counter that follows the FREEZE bit of a die's DIE_CNTCTL (R238, R347, R398). -/
def State.dieCnt (s : State) (d a : Nat) (f : Fld) (n : Nat) : State :=
  if s.flag (R.DIE_CNTCTL d) F.DIE_CNTCTL_FREEZE then s else s.fadd a f n

/-- The register halves `[a, a + n)` set back to their reset values. -/
def State.clearRegs (s : State) (a n : Nat) : State := { s with regs := spClearRange a n s.regs }

/-- A fresh free value: nothing is known of it (log entry 2). -/
def State.fresh (s : State) : Nat × State := (Config.freeNat s.freeCtr, { s with freeCtr := s.freeCtr + 1 })

/-- The package id of the part (R22). -/
def State.pkgOwn (s : State) : Nat := s.fget R.STW_LOC F.STW_LOC_PKGID

/-- Fold a state change over a list. -/
def State.each {α : Type} (s : State) (l : List α) (f : State → α → State) : State := l.foldl f s

/-! ## Tiles and engines -/

def engKey (g : Nat) (e : Eng) : Nat := g * 8 + engIdx e
def State.tile (s : State) (g : Nat) : TileSt := spGet (fun _ => TileSt.idle) s.tiles g
def State.setTile (s : State) (g : Nat) (t : TileSt) : State :=
  { s with tiles := spPut (fun _ => TileSt.idle) s.tiles g t }
def State.modTile (s : State) (g : Nat) (f : TileSt → TileSt) : State := s.setTile g (f (s.tile g))
def State.eng (s : State) (g : Nat) (e : Eng) : EngSt := spGet (fun _ => EngSt.idle) s.engs (engKey g e)
def State.setEng (s : State) (g : Nat) (e : Eng) (x : EngSt) : State :=
  { s with engs := spPut (fun _ => EngSt.idle) s.engs (engKey g e) x }
def State.modEng (s : State) (g : Nat) (e : Eng) (f : EngSt → EngSt) : State := s.setEng g e (f (s.eng g e))

def State.runBit (s : State) (g : Nat) (e : Eng) : Bool :=
  (s.fget (R.TIL_CTL g) F.TIL_CTL_RUN).testBit (engIdx e)

/-- The partition that owns a tile, if its cluster is assigned (R108). -/
def State.tilePart (s : State) (g : Nat) : Option Nat :=
  if s.flag (R.TIL_OWNER g) F.TIL_OWNER_ASSIGNED then some (s.fget (R.TIL_OWNER g) F.TIL_OWNER_PART) else none

/-- The tiles of a partition in ascending global tile id. -/
def State.tilesOf (s : State) (p : Nat) : List Nat :=
  (List.range 1536).filter fun g => decide (s.tilePart g = some p)

/-- The tile has nothing in flight, no armed receive, no bank in transition and no control/debug operation (R105). -/
def State.quiet (s : State) (g : Nat) : Bool :=
  let t := s.tile g
  engsAll.all (fun e => (s.eng g e).infl.isEmpty) && t.loadQ.isEmpty && t.recvQ.isEmpty && t.trans.isEmpty &&
    t.dbg.isNone

/-- Quiet with every RUN bit 0. -/
def State.stopped (s : State) (g : Nat) : Bool :=
  s.quiet g && decide (s.fget (R.TIL_CTL g) F.TIL_CTL_RUN = 0)

/-! ## Reports -/

/-- The die index of an island (R24). -/
def islandDie (i : Nat) : Nat :=
  if i < 1536 then i / 64
  else if i < 1568 then i - 1536
  else if i < 1664 then 24 + (i - 1568) / 24
  else if i < 1700 then 28 + (i - 1664) / 12
  else 31

/-- The island id of a die's network island. -/
def dieIsland (d : Nat) : Nat := 1536 + d

def State.report (s : State) (r : Rpt) : State := { s with rpt := s.rpt ++ [r] }

/-- The level at which a fault class is contained (R509). -/
def classLevel (cls island : Nat) : Nat :=
  match cls with
  | 1 => 1
  | 2 => 3
  | 3 => 3
  | 7 => 5
  | 9 => if island < 1536 then 1 else 3
  | 10 => 4
  | 11 => 4
  | _ => 0

/-- A fault report sent to the steward (R508, R509). -/
def State.faultRep (s : State) (cls cause : Nat) (part : Option Nat) (island d1 d2 : Nat) : State :=
  s.report (.fault cls cause (classLevel cls island) part island (islandDie island) d1 d2)

/-- A fault of a class whose chapter numbers no causes: the cause code is free (log entry 22). -/
def State.plainRep (s : State) (cls : Nat) (part : Option Nat) (island d1 d2 : Nat) : State :=
  s.faultRep cls (Config.plainCause cls % 256) part island d1 d2

/-- The partition of a virtual function's accessor number. -/
def vfPart (acc : Nat) : Option Nat := if 0 < acc ∧ acc < 17 then some (acc - 1) else none

/-- A decode miss logged under R33: CLASS 12, DETAIL1 the address, PART the accessor's partition. -/
def State.decodeMiss (s : State) (acc addr : Nat) : State := s.plainRep 12 (vfPart acc) 1700 addr 0

/-- The engine's wait is over, and its fields and the credit reserved for it are free again (R77). -/
def State.clearWait (s : State) (g : Nat) (e : Eng) : State :=
  s.modEng g e fun x => { x with wait := .fresh, wf := none, timer := none, stall := .active, rsv := none }

/-- A posted wait of an engine whose RUN bit is cleared is withdrawn, and the credit of an instruction without a wait returns; a wait
still under way is settled where it is applied (R104). -/
def State.withdraw (s : State) (g : Nat) (e : Eng) : State :=
  if (s.eng g e).wait = .posted ∨ (s.eng g e).wait = .fresh then s.clearWait g e else s

/-- A tile fault (R100): the first is recorded, later ones are counted, every one is reported; an engine's fault clears
its RUN bit and stops it before its next instruction. `src` 0 to 5 is an engine, 6 arrivals, 7 the control/debug port. -/
def State.tileFault (s : State) (g src cause iaddr : Nat) (laddr : Option Nat) : State :=
  let s :=
    if s.flag (R.TIL_FAULT g) F.TIL_FAULT_VALID then s.fadd (R.TIL_FAULT g) F.TIL_FAULT_MORE 1
    else
      let s := s.fset (R.TIL_FAULT g) F.TIL_FAULT_SRC src
      let s := s.fset (R.TIL_FAULT g) F.TIL_FAULT_VALID 1
      let s := s.fset (R.TIL_FAULT g) F.TIL_FAULT_CAUSE cause
      let s := s.fset (R.TIL_FADDR g) F.TIL_FADDR_IADDR iaddr
      let s := s.fset (R.TIL_FADDR g) F.TIL_FADDR_LADDR (laddr.getD 0)
      s.fset (R.TIL_FADDR g) F.TIL_FADDR_LVALID (bit laddr.isSome)
  let s :=
    if src < 6 then
      let e := engOf src
      let run := s.fget (R.TIL_CTL g) F.TIL_CTL_RUN
      let s := s.fset (R.TIL_CTL g) F.TIL_CTL_RUN (if run.testBit src then run - 2 ^ src else run)
      (s.modEng g e fun x => { x with faulted := true }).withdraw g e
    else s
  s.faultRep 1 cause (s.tilePart g) g iaddr (laddr.getD 0)

/-! ## The Loft (R90 to R98) -/

/-- The bank of a Loft line under interleave `k` and the line within the bank (R90). -/
def bankOfLine (k l : Nat) : Nat := ((l >>> (11 + k)) <<< k) + l % 2 ^ k
def lineInBank (k l : Nat) : Nat := (l >>> k) % 2048

def State.ilv (s : State) (g : Nat) : Nat := s.fget (R.TIL_CTL g) F.TIL_CTL_ILV

def State.bankOf (s : State) (g a : Nat) : Nat := bankOfLine (s.ilv g) (a % 2 ^ 22 / 64)

/-- Where a Loft byte is held: by tile, bank, line of the bank and byte of the line; changing ILV moves no data (R104). -/
def loftKey (ilv g a : Nat) : Nat :=
  let l := a % 2 ^ 22 / 64
  g * 2 ^ 22 + bankOfLine ilv l * 2 ^ 17 + lineInBank ilv l * 64 + a % 64

/-- An unlisted Loft byte reads as part of a zero block: 0x8000 and 30 zero bytes (R40, R96). -/
def loftDflt (k : Nat) : Byte := if k % 32 = 1 then 0x80 else 0

def State.loftByte (s : State) (g a : Nat) : Byte := spGet loftDflt s.loft (loftKey (s.ilv g) g a)
def State.setLoftByte (s : State) (g a : Nat) (b : Byte) : State :=
  { s with loft := spPut loftDflt s.loft (loftKey (s.ilv g) g a) b }
def State.loftPoison (s : State) (g a : Nat) : Bool :=
  spGet (fun _ => false) s.loftPsn (loftKey (s.ilv g) g a / 32)
def State.setLoftPoison (s : State) (g a : Nat) (p : Bool) : State :=
  { s with loftPsn := spPut (fun _ => false) s.loftPsn (loftKey (s.ilv g) g a / 32) p }

def State.loftBytes (s : State) (g a : Nat) : Nat → List Byte
  | 0 => []
  | n + 1 => s.loftByte g a :: s.loftBytes g (a + 1) n

def State.putLoftBytes (s : State) (g a : Nat) : List Byte → State
  | [] => s
  | b :: r => (s.setLoftByte g a b).putLoftBytes g (a + 1) r

/-- A little-endian number of `n` bytes in the Loft. -/
def State.loftNum (s : State) (g a n : Nat) : Nat := ofLeBytes (s.loftBytes g a n)

/-- The poison bits of the sheaves that `[a, a + n)` meets cleared. -/
def State.clearPsn (s : State) (g a n : Nat) : State :=
  s.each (List.range (n / 32 + 2)) fun s i =>
    if (a / 32 + i) * 32 < a + n then s.setLoftPoison g ((a / 32 + i) * 32) false else s

/-- A write of bytes that need not fill whole sheaves: the poison bit of a sheaf only partly written is cleared (R94). -/
def State.putLoftPart (s : State) (g a : Nat) (l : List Byte) : State := (s.putLoftBytes g a l).clearPsn g a l.length
def State.putLoftNum (s : State) (g a n v : Nat) : State := s.putLoftPart g a (leBytes n v)

/-- A whole sheaf with its poison bit, at a 32-byte-aligned address (R42, R79). -/
def State.loftSheaf (s : State) (g a : Nat) : Sheaf :=
  ⟨sheafOfBytes (s.loftBytes g a 32), s.loftPoison g a⟩
def State.putLoftSheaf (s : State) (g a : Nat) (x : Sheaf) : State :=
  (s.putLoftBytes g a (sheafBytes x.bits)).setLoftPoison g a x.psn

/-- A poisoned sheaf lies in the `n` bytes at `a` (R42, R151). -/
def State.psnAt (s : State) (g a n : Nat) : Bool :=
  (List.range (n / 32 + 2)).any fun i => decide ((a / 32 + i) * 32 < a + n) && s.loftPoison g ((a / 32 + i) * 32)

/-- The exponent word of a block, its PSN set where the word or a sheaf of the block lies in a poisoned sheaf (R42, R48). -/
def State.expWord (s : State) (g blk n e : Nat) : Nat :=
  let w := s.loftNum g e 4
  if s.psnAt g blk n || s.psnAt g e 4 then w ||| 2 ^ 18 else w

/-- How a bank answers an access (R98). -/
inductive BankAcc where
  | ok | wait | bad
deriving DecidableEq, Repr

/-- The target of a bank's transition in progress. -/
def TileSt.transOf (t : TileSt) (b : Nat) : Option Nat := (t.trans.find? fun x => decide (x.1 = b)).map (·.2)

def State.bankAcc (s : State) (g b : Nat) : BankAcc :=
  match (s.tile g).transOf b with
  | some tgt => if tgt = 3 then .wait else .bad
  | none => if s.fget (R.BNK_STAT g) (F.BNK_STAT_CUR b) = 3 then .ok else .bad

/-- Access to the lines of `[a, a + n)`: the first line that is not ON decides; answers its address. -/
def State.loftAcc (s : State) (g a n : Nat) : BankAcc × Nat :=
  let l0 := a / 64
  let l1 := (a + n - 1) / 64
  match ((List.range (l1 + 1 - l0)).map fun i => (l0 + i) * 64).find? fun x => decide (s.bankAcc g (s.bankOf g x) ≠ .ok) with
  | some x => (s.bankAcc g (s.bankOf g x), x)
  | none => (.ok, a)

/-! ## Outcomes -/

/-- Every command answers a next state. -/
def done (s : State) : Host.Outcome State Fault Refusal := .next s

end Sys2Proof.Machine
end

