-- ==== Sys2Proof/Machine/Operands.lean ====
section
/-! DEFINITION. Operand forms: the instruction word and its fields (R129 to R132), the operations it names (R133, R150 to
R158), and the descriptors through which nearly every instruction names its operands (R139 to R149, R251). -/

namespace Sys2Proof.Machine

/-! ## The instruction word -/

/-- What an instruction does once its wait is satisfied. -/
inductive TOp where
  | nop
  | fence
  | endStream
  | loop (k n len : Nat)
  | jmp (off : Int)
  | brv (point v : Nat)
  | yield (id : Nat)
  | hint (cls lead dur level : Nat)
  | ld (da db : Nat)
  | ldq (n : Nat)
  | cpy (da db : Nat)
  | acopy (da db : Nat)
  | ldd (eng off : Nat)
  | mm (da db dc strip : Nat) (acc mq : Bool)
  | rq (da db dc : Nat)
  | norm (da db dc : Nat)
  | emul (da db dc : Nat) (relu : Bool)
  | lane (da db dc op : Nat)
  | fn (da dc f : Nat)
  | red (da dc : Nat) (mx : Bool)
  | smx (da db dc : Nat)
  | walk (da : Nat)
  | st (da db : Nat)
  | sta (da db : Nat)
  | atom (da db op : Nat)
  | send (da : Nat) (seg empty : Bool)
  | recv (db : Nat) (seg : Bool)
deriving DecidableEq, Repr

structure TInstr where
  wait : WaitF
  sig : Sig
  op : TOp
deriving DecidableEq, Repr

/-- The operand field of each opcode of each engine; none is ILLEGAL (R129, R132, R133, R136, R138, R150 to R158). A LOOP
of LEN above 1,024 is legal here and raises LOOP (R134). -/
def decodeOp (e : Eng) (op o : Nat) : Option TOp :=
  let da := bitsOf o 29 24
  let db := bitsOf o 23 18
  let dc := bitsOf o 17 12
  let md := bitsOf o 11 0
  let when_ (c : Bool) (x : TOp) : Option TOp := if c then some x else none
  match op with
  | 0x01 => when_ (o == 0) .nop
  | 0x02 => when_ (o == 0) .fence
  | 0x03 => when_ (o == 0) .endStream
  | 0x04 => when_ (md != 0) (.loop (bitsOf o 29 28) (bitsOf o 27 12) md)
  | 0x05 => some (.jmp (sext 30 o))
  | 0x06 => when_ (bitsOf o 21 6 == 0 && bitsOf o 5 0 != 0) (.brv (bitsOf o 29 22) (bitsOf o 5 0))
  | 0x07 => when_ (bitsOf o 29 16 == 0) (.yield (bitsOf o 15 0))
  | 0x08 => when_ (decide (bitsOf o 3 0 ≤ 4)) (.hint (bitsOf o 3 0) (bitsOf o 15 4) (bitsOf o 27 16) (bitsOf o 29 28))
  | _ =>
    match e, op with
    | .le, 0x10 => when_ (dc == 0 && md == 0) (.ld da db)
    | .le, 0x11 => when_ (bitsOf o 29 12 == 0 && md != 0) (.ldq md)
    | .le, 0x12 => when_ (dc == 0 && md == 0) (.cpy da db)
    | .le, 0x13 => when_ (dc == 0 && md == 0) (.acopy da db)
    | .le, 0x14 => when_ (bitsOf o 29 27 != 6) (.ldd (bitsOf o 29 27) (bitsOf o 26 0))
    | .me, 0x10 => when_ (decide (md < 16)) (.mm da db dc (md % 4) (md.testBit 2) (md.testBit 3))
    | .ve, 0x10 => when_ (md == 0) (.rq da db dc)
    | .ve, 0x11 => when_ (md == 0) (.norm da db dc)
    | .ve, 0x12 => when_ (decide (md < 2)) (.emul da db dc (md.testBit 0))
    | .ve, 0x13 => when_ (decide (md < 11)) (.lane da db dc md)
    | .ve, 0x14 => when_ (db == 0 && decide (md < 3)) (.fn da dc md)
    | .ve, 0x15 => when_ (db == 0 && decide (md < 2)) (.red da dc (md.testBit 0))
    | .ve, 0x16 => when_ (md == 0) (.smx da db dc)
    | .aw, 0x10 => when_ (db == 0 && dc == 0 && md == 0) (.walk da)
    | .se, 0x10 => when_ (dc == 0 && md == 0) (.st da db)
    | .se, 0x11 => when_ (dc == 0 && md == 0) (.sta da db)
    | .se, 0x12 => when_ (dc == 0 && decide (md < 5)) (.atom da db md)
    | .ne, 0x10 =>
      when_ (db == 0 && dc == 0 && decide (md < 4) && (!md.testBit 1 || (md.testBit 0 && da == 0)))
        (.send da (md.testBit 0) (md.testBit 1))
    | .ne, 0x11 => when_ (da == 0 && dc == 0 && decide (md < 2)) (.recv db (md.testBit 0))
    | _, _ => none

/-- An instruction word of an engine's stream; none is ILLEGAL (R129, R130). -/
def decodeInstr (e : Eng) (w : Word64) : Option TInstr :=
  let v := w.toNat
  let wsem := bitsOf v 63 58
  let ssem := bitsOf v 46 41
  if wsem = 63 ∧ bitsOf v 57 47 ≠ 0 then none
  else if ssem = 63 ∧ bitsOf v 40 36 ≠ 0 then none
  else
    (decodeOp e (bitsOf v 35 30) (bitsOf v 29 0)).map fun op =>
      ⟨⟨wsem, bitsOf v 57 50 + 1, v.testBit 49, bitsOf v 48 47⟩, ⟨ssem, bitsOf v 40 36 + 1⟩, op⟩

/-- The opcode of an operation, as TIL streams code it. -/
def opCode : TOp → Nat
  | .nop => 0x01
  | .fence => 0x02
  | .endStream => 0x03
  | .loop _ _ _ => 0x04
  | .jmp _ => 0x05
  | .brv _ _ => 0x06
  | .yield _ => 0x07
  | .hint _ _ _ _ => 0x08
  | .ld _ _ => 0x10
  | .ldq _ => 0x11
  | .cpy _ _ => 0x12
  | .acopy _ _ => 0x13
  | .ldd _ _ => 0x14
  | .mm _ _ _ _ _ _ => 0x10
  | .rq _ _ _ => 0x10
  | .norm _ _ _ => 0x11
  | .emul _ _ _ _ => 0x12
  | .lane _ _ _ _ => 0x13
  | .fn _ _ _ => 0x14
  | .red _ _ _ => 0x15
  | .smx _ _ _ => 0x16
  | .walk _ => 0x10
  | .st _ _ => 0x10
  | .sta _ _ => 0x11
  | .atom _ _ _ => 0x12
  | .send _ _ _ => 0x10
  | .recv _ _ => 0x11

/-! ## The encoder: the instruction word of an operation (R129, R133, R134, R136, R138, R150 to R158) -/

/-- DA, DB, DC and MOD in the operand field. -/
def opndOf (da db dc md : Nat) : Nat := da * 2 ^ 24 + db * 2 ^ 18 + dc * 2 ^ 12 + md

def encOpnd : TOp → Nat
  | .nop => 0
  | .fence => 0
  | .endStream => 0
  | .loop k n len => k * 2 ^ 28 + n * 2 ^ 12 + len
  | .jmp off => (off % (2 ^ 30 : Nat)).toNat
  | .brv p v => p * 2 ^ 22 + v
  | .yield id => id
  | .hint c lead dur lvl => c + lead * 2 ^ 4 + dur * 2 ^ 16 + lvl * 2 ^ 28
  | .ld da db => opndOf da db 0 0
  | .ldq n => n
  | .cpy da db => opndOf da db 0 0
  | .acopy da db => opndOf da db 0 0
  | .ldd e off => e * 2 ^ 27 + off
  | .mm da db dc strip acc mq => opndOf da db dc (strip + bit acc * 4 + bit mq * 8)
  | .rq da db dc => opndOf da db dc 0
  | .norm da db dc => opndOf da db dc 0
  | .emul da db dc relu => opndOf da db dc (bit relu)
  | .lane da db dc op => opndOf da db dc op
  | .fn da dc f => opndOf da 0 dc f
  | .red da dc mx => opndOf da 0 dc (bit mx)
  | .smx da db dc => opndOf da db dc 0
  | .walk da => opndOf da 0 0 0
  | .st da db => opndOf da db 0 0
  | .sta da db => opndOf da db 0 0
  | .atom da db op => opndOf da db 0 op
  | .send da seg empty => opndOf da 0 0 (bit seg + bit empty * 2)
  | .recv db seg => opndOf 0 db 0 (bit seg)

/-- An instruction's word: wait field, signal field, opcode, operand field. -/
def encInstr (i : TInstr) : Word64 :=
  BitVec.ofNat 64 (i.wait.alias_ * 2 ^ 58 + (i.wait.thr - 1) * 2 ^ 50 + bit i.wait.consume * 2 ^ 49 + i.wait.tmo * 2 ^ 47 +
    i.sig.alias_ * 2 ^ 41 + (i.sig.inc - 1) * 2 ^ 36 + opCode i.op * 2 ^ 30 + encOpnd i.op)

/-- An engine has the operation and every operand lies in its field's range. -/
def opFits (e : Eng) : TOp → Bool
  | .nop => true
  | .fence => true
  | .endStream => true
  | .loop k n len => decide (k < 4) && decide (n < 2 ^ 16) && decide (0 < len) && decide (len < 2 ^ 12)
  | .jmp off => decide (-(2 ^ 29 : Int) ≤ off) && decide (off < 2 ^ 29)
  | .brv p v => decide (p < 256) && decide (0 < v) && decide (v < 64)
  | .yield id => decide (id < 2 ^ 16)
  | .hint c lead dur lvl => decide (c ≤ 4) && decide (lead < 2 ^ 12) && decide (dur < 2 ^ 12) && decide (lvl < 4)
  | .ld da db => decide (e = .le) && decide (da < 64) && decide (db < 64)
  | .ldq n => decide (e = .le) && decide (0 < n) && decide (n < 2 ^ 12)
  | .cpy da db => decide (e = .le) && decide (da < 64) && decide (db < 64)
  | .acopy da db => decide (e = .le) && decide (da < 64) && decide (db < 64)
  | .ldd t off => decide (e = .le) && decide (t < 8) && decide (t ≠ 6) && decide (off < 2 ^ 27)
  | .mm da db dc strip _ _ => decide (e = .me) && decide (da < 64) && decide (db < 64) && decide (dc < 64) && decide (strip < 4)
  | .rq da db dc => decide (e = .ve) && decide (da < 64) && decide (db < 64) && decide (dc < 64)
  | .norm da db dc => decide (e = .ve) && decide (da < 64) && decide (db < 64) && decide (dc < 64)
  | .emul da db dc _ => decide (e = .ve) && decide (da < 64) && decide (db < 64) && decide (dc < 64)
  | .lane da db dc op => decide (e = .ve) && decide (da < 64) && decide (db < 64) && decide (dc < 64) && decide (op < 11)
  | .fn da dc f => decide (e = .ve) && decide (da < 64) && decide (dc < 64) && decide (f < 3)
  | .red da dc _ => decide (e = .ve) && decide (da < 64) && decide (dc < 64)
  | .smx da db dc => decide (e = .ve) && decide (da < 64) && decide (db < 64) && decide (dc < 64)
  | .walk da => decide (e = .aw) && decide (da < 64)
  | .st da db => decide (e = .se) && decide (da < 64) && decide (db < 64)
  | .sta da db => decide (e = .se) && decide (da < 64) && decide (db < 64)
  | .atom da db op => decide (e = .se) && decide (da < 64) && decide (db < 64) && decide (op < 5)
  | .send da seg empty => decide (e = .ne) && decide (da < 64) && (!empty || (seg && decide (da = 0)))
  | .recv db _ => decide (e = .ne) && decide (db < 64)

/-- A well-formed instruction of an engine's stream: a wait or a signal through alias 63 is no wait or signal and leaves its other
fields zero. -/
def instrFits (e : Eng) (i : TInstr) : Bool :=
  decide (i.wait.alias_ < 64) && decide (1 ≤ i.wait.thr) && decide (i.wait.thr ≤ 256) && decide (i.wait.tmo < 4) &&
    decide (i.sig.alias_ < 64) && decide (1 ≤ i.sig.inc) && decide (i.sig.inc ≤ 32) &&
    (decide (i.wait.alias_ ≠ 63) || decide (i.wait = ⟨63, 1, false, 0⟩)) &&
    (decide (i.sig.alias_ ≠ 63) || decide (i.sig = ⟨63, 1⟩)) && opFits e i.op

/-! ## Descriptors -/

/-- A descriptor as read at issue: its Loft address and its four words as one number (R140). -/
structure Desc where
  addr : Nat
  w : Nat
deriving DecidableEq, Repr

/-- Bits [hi:lo] of word `i` of a descriptor. -/
def Desc.f (d : Desc) (i hi lo : Nat) : Nat := bitsOf d.w (64 * i + hi) (64 * i + lo)

def Desc.kind (d : Desc) : Nat := d.f 0 3 0

/-- The Loft address of entry `k` of an engine's descriptor table (R139). -/
def State.descAddr (s : State) (g : Nat) (e : Eng) (k : Nat) : Nat :=
  s.fget (R.TIL_DBASE g (engIdx e)) F.TIL_DBASE_BASE * 2048 + 32 * k

def State.descRead (s : State) (g : Nat) (e : Eng) (k : Nat) : Desc :=
  let a := s.descAddr g e k
  ⟨a, s.loftNum g a 32⟩

/-- The value of a loop counter of an engine: 0 while no loop of that counter is active (R134, R171). -/
def EngSt.loopVal (x : EngSt) (k : Nat) : Nat :=
  match x.loops.find? fun l => decide (l.k = k) with
  | some l => l.cnt
  | none => 0

/-- The induction step of a descriptor whose LSEL, LEN and LSTRIDE stand as in LOFT (R141): LSTRIDE × counter. -/
def Desc.induct (d : Desc) (x : EngSt) : Int :=
  if d.f 1 26 26 = 1 then sext 32 (d.f 1 63 32) * x.loopVal (d.f 1 25 24) else 0

/-- A Loft base moved by induction, modulo 2^22 (R141). -/
def moveBase (a : Nat) (z : Int) : Nat := ((a + z) % (2 ^ 22 : Nat)).toNat

/-- A resolved LOFT tensor (R142, R143). -/
structure TLoft where
  fmt : Fmt
  layout : Nat
  base : Nat
  n1 : Nat
  ns : Nat
  rstride : Nat
  extra : Nat
  xcount : Nat
deriving DecidableEq, Repr

def Desc.toLoft (d : Desc) (x : EngSt) : TLoft :=
  let rs := d.f 1 21 0
  { fmt := fmtOf (d.f 0 5 4), layout := d.f 0 7 6, base := moveBase (d.f 0 29 8) (d.induct x), n1 := d.f 0 47 32,
    ns := d.f 0 63 48, rstride := if rs = 0 then d.f 0 63 48 * 32 else rs,
    extra := moveBase (d.f 2 21 0) (d.induct x), xcount := d.f 2 47 32 }

def TLoft.height (t : TLoft) : Nat := if t.layout = 1 then 8 else if t.layout = 2 then 16 else 1

/-- The Loft address of sheaf `j` of row or column `i` (R143). -/
def TLoft.at_ (t : TLoft) (i j : Nat) : Nat :=
  if t.layout = 0 then t.base + i * t.rstride + 32 * j
  else t.base + 32 * ((j * t.n1 / t.height + i / t.height) * t.height + i % t.height)

/-- Units of the tensor, extra units included. -/
def TLoft.units (t : TLoft) : Nat := t.n1 * t.ns + t.xcount

/-- The Loft address of unit `u` in storage order (R143). -/
def TLoft.unit (t : TLoft) (u : Nat) : Nat :=
  if u < t.n1 * t.ns then
    if t.layout = 0 then t.at_ (u / t.ns) (u % t.ns) else t.base + 32 * u
  else t.extra + 32 * (u - t.n1 * t.ns)

/-- The end of the tensor's last unit. -/
def TLoft.top (t : TLoft) : Nat :=
  max (if t.n1 = 0 ∨ t.ns = 0 then 0
       else if t.layout = 0 then t.base + (t.n1 - 1) * t.rstride + 32 * t.ns
       else t.base + 32 * t.n1 * t.ns)
    (if t.xcount = 0 then 0 else t.extra + 32 * t.xcount)

/-- A resolved MEM region (R144). -/
structure TMem where
  addr : Nat
  count : Nat
  run : Nat
  stride : Nat
  expoff : Int
deriving DecidableEq, Repr

def Desc.toMem (d : Desc) (x : EngSt) : TMem :=
  let a := d.f 1 63 0
  let off : Int := a % 2 ^ 48
  let mv : Int := if d.f 0 50 50 = 1 then sext 48 (d.f 3 47 0) * x.loopVal (d.f 0 49 48) else 0
  let c := d.f 0 31 8
  { addr := a / 2 ^ 48 * 2 ^ 48 + ((off + mv) % (2 ^ 48 : Nat)).toNat, count := c,
    run := if d.f 0 47 32 = 0 then c else d.f 0 47 32, stride := d.f 2 47 0, expoff := sext 16 (d.f 3 63 48) }

/-- The address of unit `u` in run order (R144); the offset does not wrap. -/
def TMem.unit (m : TMem) (u : Nat) : Nat := m.addr + u / m.run * m.stride + 32 * (u % m.run)

/-- A resolved set of accumulator blocks (R146). -/
structure TAcc where
  a48 : Bool
  base : Nat
  nb1 : Nat
  nb2 : Nat
  expw : Nat
deriving DecidableEq, Repr

def Desc.toAcc (d : Desc) (x : EngSt) : TAcc :=
  { a48 := d.f 0 4 4 = 1, base := moveBase (d.f 0 29 8) (d.induct x), nb1 := d.f 0 47 32, nb2 := d.f 0 63 48,
    expw := moveBase (d.f 1 21 0) (d.induct x) }

def TAcc.count (t : TAcc) : Nat := t.nb1 * t.nb2
def TAcc.block (t : TAcc) (b : Nat) : Nat := t.base + b * accBytes t.a48
def TAcc.exp (t : TAcc) (b : Nat) : Nat := t.expw + 4 * b
def TAcc.top (t : TAcc) : Nat :=
  if t.count = 0 then 0 else max (t.base + t.count * accBytes t.a48) (t.expw + 4 * t.count)

/-- A resolved vector of lanes (R149). -/
structure TVec where
  w64 : Bool
  base : Nat
  count : Nat
deriving DecidableEq, Repr

def Desc.toVec (d : Desc) (x : EngSt) : TVec :=
  { w64 := d.f 0 4 4 = 1, base := moveBase (d.f 0 29 8) (d.induct x), count := d.f 0 55 32 }

def TVec.width (t : TVec) : Nat := if t.w64 then 8 else 4

/-- The target of an asynchronous copy or a remote accumulation (R149). -/
structure TTgt where
  pkg : Nat
  tile : Nat
  acnt : Nat
  loft : Nat
  texpw : Nat
deriving DecidableEq, Repr

def Desc.toTgt (d : Desc) : TTgt :=
  { pkg := d.f 0 15 4, tile := d.f 0 26 16, acnt := d.f 0 37 32, loft := d.f 1 21 0, texpw := d.f 1 53 32 }

/-- Requantisation parameters (R147). -/
structure TRqp where
  fmt : Fmt
  dyn : Bool
  sto : Bool
  k : Nat
  scale : Nat
  kvec : Bool
  kaddr : Nat
deriving DecidableEq, Repr

def Desc.toRqp (d : Desc) : TRqp :=
  { fmt := fmtOf (d.f 0 5 4), dyn := d.f 0 6 6 = 1, sto := d.f 0 7 7 = 1, k := d.f 0 23 8, scale := d.f 0 39 24,
    kvec := d.f 0 40 40 = 1, kaddr := d.f 1 21 0 }

/-- Every named bit of a kind is set in its mask: bits outside it must be zero (R142 to R149, R251, R162). -/
def descMask (kind : Nat) : Nat :=
  let m (i hi lo : Nat) : Nat := (2 ^ (hi + 1 - lo) - 1) * 2 ^ (64 * i + lo)
  match kind with
  | 1 => m 0 3 0 + m 0 5 4 + m 0 7 6 + m 0 29 8 + m 0 47 32 + m 0 63 48 + m 1 21 0 + m 1 25 24 + m 1 26 26 + m 1 63 32 +
      m 2 21 0 + m 2 47 32
  | 2 => m 0 3 0 + m 0 31 8 + m 0 47 32 + m 0 49 48 + m 0 50 50 + m 1 63 0 + m 2 47 0 + m 3 47 0 + m 3 63 48
  | 3 => m 0 3 0 + m 0 4 4 + m 0 29 8 + m 0 47 32 + m 0 63 48 + m 1 21 0 + m 1 25 24 + m 1 26 26 + m 1 63 32
  | 4 => m 0 3 0 + m 0 5 4 + m 0 6 6 + m 0 7 7 + m 0 23 8 + m 0 39 24 + m 0 40 40 + m 1 21 0
  | 5 => m 0 3 0 + m 0 9 4 + m 0 63 32 + m 1 15 0
  | 6 => m 0 3 0 + m 0 15 4 + m 0 26 16 + m 0 37 32 + m 1 21 0 + m 1 53 32
  | 7 => m 0 3 0 + m 0 29 8 + m 0 47 32 + m 0 55 48 + m 0 63 56 + m 1 15 0 + m 1 17 16 + m 1 18 18 + m 1 19 19 +
      m 1 22 20 + m 1 38 32 + m 2 21 0 + m 2 27 24 + m 2 29 28 + m 2 31 30 + m 2 53 32 + m 2 56 56 + m 3 21 0 + m 3 53 32 +
      m 3 63 56
  | _ => m 0 3 0 + m 0 4 4 + m 0 29 8 + m 0 55 32 + m 1 25 24 + m 1 26 26 + m 1 63 32

/-- The bits a kind marks zero are zero. -/
def Desc.zerosOk (d : Desc) : Bool := d.w &&& descMask d.kind == d.w

/-- ALIGN of one descriptor (R143, R144, R146, R147, R149, R251). -/
def Desc.alignOk (d : Desc) : Bool :=
  let al (n a : Nat) : Bool := n % a == 0
  match d.kind with
  | 1 => al (d.f 0 29 8) 32 && al (d.f 2 21 0) 32 && al (d.f 1 21 0) 32 && al (d.f 1 63 32) 32
  | 2 => al (d.f 1 63 0) 32 && al (d.f 2 47 0) 32 && al (d.f 3 47 0) 32
  | 3 => al (d.f 0 29 8) 64 && al (d.f 1 21 0) 4 && al (d.f 1 63 32) 64
  | 4 => al (d.f 1 21 0) 2
  | 6 => al (d.f 1 21 0) 32
  | 7 => al (d.f 0 29 8) 32 && al (d.f 2 21 0) 512 && al (d.f 2 53 32) 32 && al (d.f 3 21 0) 512 && al (d.f 3 53 32) 32
  | 8 => al (d.f 0 29 8) (if d.f 0 4 4 = 1 then 8 else 4) && al (d.f 1 63 32) 32
  | _ => true

/-- LOFTADDR of one descriptor: its last unit lies within the Loft (R143); a walk's areas are checked by R252. -/
def Desc.loftOk (d : Desc) (x : EngSt) : Bool :=
  match d.kind with
  | 1 => decide ((d.toLoft x).top ≤ 2 ^ 22)
  | 3 => decide ((d.toAcc x).top ≤ 2 ^ 22)
  | 8 => decide ((d.toVec x).base + (d.toVec x).count * (d.toVec x).width ≤ 2 ^ 22)
  | _ => true

/-- SHAPE of one descriptor on its own (R142, R143, R149, R162). -/
def Desc.shapeOk (d : Desc) (x : EngSt) : Bool :=
  d.zerosOk &&
  match d.kind with
  | 1 =>
    let t := d.toLoft x
    decide (t.layout < 3) && decide (0 < t.n1) && decide (0 < t.ns) && t.n1 % t.height == 0
  | 2 => decide (0 < d.f 0 31 8)
  | 7 => decide (0 < d.f 0 47 32) && decide (d.f 1 17 16 < 3) && d.f 1 22 20 == 7
  | 8 => decide (0 < d.f 0 55 32) && decide (d.f 0 55 32 ≤ 1048576)
  | _ => true

/-! ## The partition's ranges (R145, R307) -/

/-- The valid region of a partition that holds offset `o`, in a region table of base address `tab` (R344). -/
def State.regionIn (s : State) (tab : Nat → Nat → Nat) (p o : Nat) : Option Nat :=
  (List.range 32).find? fun r =>
    let a := tab p r
    s.flag a F.MEM_RGN_VALID &&
      decide (s.fget a F.MEM_RGN_BASE * 65536 ≤ o) &&
      decide (o < (s.fget a F.MEM_RGN_BASE + s.fget a F.MEM_RGN_SIZE) * 65536)

/-- The bytes `[o, o + n)` lie in regions of the partition; regions are multiples of 64 KiB, so one test per 64 KiB page
decides (R307). -/
def State.rangeOk (s : State) (tab : Nat → Nat → Nat) (p o n : Nat) : Bool :=
  (List.range ((o + n - 1) / 65536 + 1 - o / 65536)).all fun i =>
    (s.regionIn tab p ((o / 65536 + i) * 65536)).isSome

/-- R145 and R374 for one unit's address: local space within the partition's regions as the tile's die holds them, or a
fabric-global address; a global address of another package is judged by the windows of R376. -/
def State.addrOk (s : State) (d p a n : Nat) : Bool :=
  let sp := a / 2 ^ 62
  let rsv := bitsOf a 49 48
  let pkg := bitsOf a 61 50
  let o := a % 2 ^ 48
  if rsv ≠ 0 then false
  else if sp = 0 then pkg == 0 && decide (o + n ≤ 2 ^ 48) && s.rangeOk (R.DIE_RGN d) p o n
  else if sp = 1 then decide (pkg ≠ s.pkgOwn) || (decide (o + n ≤ 2 ^ 48) && s.rangeOk (R.DIE_RGN d) p o n)
  else false

/-- MEMPERM of a MEM descriptor: every run lies within the ranges of the tile's partition (R145). -/
def State.memOk (s : State) (g : Nat) (m : TMem) : Bool :=
  match s.tilePart g with
  | none => false
  | some p =>
    (List.range (ceilDiv m.count m.run)).all fun r =>
      s.addrOk (g / 64) p (m.addr + r * m.stride) (32 * min m.run (m.count - r * m.run))

/-- The offset of the exponent word of the block that begins at unit `u` of an accumulate-store's target (R144). -/
def TMem.expOff (m : TMem) (u : Nat) : Int := (m.unit u % 2 ^ 48 : Nat) + 32 * m.expoff

/-- MEMPERM of the exponent words of a MEM target of blocks of `per` units (R144, R145). -/
def State.expOk (s : State) (g per : Nat) (m : TMem) : Bool :=
  match s.tilePart g with
  | none => false
  | some p =>
    per == 0 || (List.range (m.count / per)).all fun b =>
      let o := m.expOff (b * per)
      decide (0 ≤ o) && s.addrOk (g / 64) p (m.unit (b * per) / 2 ^ 48 * 2 ^ 48 + o.toNat) 4

end Sys2Proof.Machine
end

