-- ==== Sys2Proof/Machine/Base.lean ====
section
/-! DEFINITION. What every chapter's commands share: whether the part runs at all, the mailbox's replies (R438 to R443),
security events and zeroisation (R491, R492), and a FULL reset (R499). -/

namespace Sys2Proof.Machine

/-- A command or event has no effect while a reset source, a missing rail or a lost reference clock holds the part (R497,
R499, R526). -/
def onLive (s : State) (f : State → State) : Host.Outcome State Fault Refusal :=
  if s.rst.hold = .none_ then .next (f s) else .next s

def State.now (s : State) : Nat := s.fget R.STW_TIME F.STW_TIME_US
def State.fwif (s : State) : Nat := s.fget R.STW_IDENT F.STW_IDENT_FWIF
/-- The security module is in the error state (R482). -/
def State.secErr (s : State) : Bool := s.flag R.SEC_STAT F.SEC_STAT_ERROR

/-! ## The ledger keep (R501) -/

/-- The items of the partition that are consumed and have no record yet: the ledger keep holds one entry for each (R501). -/
def PartSt.unrecorded (x : PartSt) : List (Nat × Nat) :=
  (x.open_.map fun i => (i.tag, i.kind)) ++ (x.wloads.map fun w => (w.tag, 0x11)) ++
    ((x.seqs.filter fun q => decide (q.mode = .active)).map fun q => (q.tag, q.kind)) ++
    ((x.seqs.filter fun q => decide (q.mode = .pausing)).map fun q => (q.tag, 3)) ++
    (match x.stepItem with
     | some t => [(t, 7)]
     | none => [])

/-- The partition's entries of the keep: TAG, KIND, partition and the LSN that the record will carry. Held records have their LSN; an
item without a record takes the next ones (log entry 21). -/
def PartSt.keepEntries (p : Nat) (x : PartSt) : List (Nat × Nat × Nat × Nat) :=
  (x.held.map fun r => (r.tag, r.kind, p, r.lsn)) ++
    (List.range x.unrecorded.length).map fun i =>
      let u := x.unrecorded.getD i (0, 0)
      (u.1, u.2, p, x.lsn + 1 + i)

def State.keepEntries (s : State) : List (Nat × Nat × Nat × Nat) :=
  s.serve.flatMap fun e =>
    match e.2 with
    | some x => x.keepEntries e.1
    | none => []

def State.keepCount (s : State) : Nat := s.rst.keep.length + s.rst.keepRecs.length + s.keepEntries.length

/-! ## A FULL reset (R499) -/

/-- A register half kept across a reset. -/
def State.keepReg (old s : State) (a : Nat) : State := s.wr a (old.rd a)

/-- The fuse-backed registers with their WREF flags cleared (R474). -/
def State.keepFuses (old s : State) : State :=
  let s := [R.SEC_LIFE, R.SEC_SVN, R.SEC_OWNER, R.SEC_DOMAIN].foldl (fun s a => old.keepReg s a) s
  let s := (List.range 32).foldl (fun s d => (old.keepReg s (R.SEC_REPAIR d)).fset (R.SEC_REPAIR d) F.SEC_REPAIR_WREF 0) s
  let s := (List.range 8).foldl (fun s i => (List.range 4).foldl (fun s w => old.keepReg s (R.SEC_OWNDIG i w)) s) s
  let s := s.fset R.SEC_LIFE F.SEC_LIFE_WREF 0
  let s := s.fset R.SEC_SVN F.SEC_SVN_WREF 0
  let s := s.fset R.SEC_OWNER F.SEC_OWNER_WREF 0
  s.fset R.SEC_DOMAIN F.SEC_DOMAIN_WREF 0

/-- The rack slot copied to STW_LOC at the release of a reset (R537). -/
def State.latchSlot (s : State) : State :=
  let s := s.fset R.STW_LOC F.STW_LOC_TRAYSLOT (if s.rst.slotValid then s.rst.slot else 0)
  s.fset R.STW_LOC F.STW_LOC_TSVALID (bit s.rst.slotValid)

/-- A reset of FULL reach (R499): everything at its reset value but RST_CAUSE, the ledger keep, fuses, boot flash, host
memory, DRAM cells, the straps, and what the tray wrote to the management port. `cause` is RST_CAUSE.LAST; 0, a power-on,
clears RST_CAUSE and the keep. -/
def State.fullReset (s : State) (cause : Nat) : State :=
  let r := s.rst
  let t : State :=
    { State.reset with
      mem := { MemSt.idle with host := s.mem.host, bursts := s.mem.bursts }
      sec := { SecSt.idle with blob := s.sec.blob, repair := s.sec.repair, identity := s.sec.identity }
      rst := { RstSt.idle with
        keep := (if cause = 0 then [] else r.keep ++ s.keepEntries), keepRecs := (if cause = 0 then [] else r.keepRecs),
        twoPorts := r.twoPorts, sris := r.sris, vaux := r.vaux, slot := r.slot, slotValid := r.slotValid, slotErr := r.slotErr,
        capTray := r.capTray, rateTray := r.rateTray, mpOut := r.mpOut }
      freeCtr := s.freeCtr
      pending := s.pending }
  let t := (s.keepFuses t).latchSlot
  if cause = 0 then t
  else
    let t := t.wr R.RST_CAUSE (s.rd R.RST_CAUSE)
    let t := t.fset R.RST_CAUSE F.RST_CAUSE_LAST cause
    t.fadd R.RST_CAUSE F.RST_CAUSE_FULLCNT 1

/-- The clock of an idle part runs on by one microsecond (log entry 3). -/
def State.tick (s : State) : State :=
  if s.rst.hold = .none_ then s.fset R.STW_TIME F.STW_TIME_US ((s.now + 1) % 2 ^ 64) else s

/-! ## Zeroisation and security events (R491, R492) -/

/-- Zeroisation (R492): every key gone, the sealed blob erased, then the zeroisation reset with ZEROISED set. -/
def State.zeroise (s : State) : State :=
  let s := { s with sec := { s.sec with blob := none } }
  (s.fullReset 4).fset R.SEC_STAT F.SEC_STAT_ZEROISED 1

/-- The event log holds the 64 newest entries. -/
def State.secLog (s : State) (ev : SecEvt) : State :=
  let l := s.sec.events ++ [(ev, s.now)]
  { s with sec := { s.sec with events := l.drop (l.length - 64) } }

/-- A security event counted and logged (R491); a STALE count that reaches a non-zero ZTHR zeroises the part. -/
def State.secEvent (s : State) (ev : SecEvt) : State :=
  let s := s.secLog ev
  match ev with
  | .stale =>
    let s := s.fadd R.SEC_EVT F.SEC_EVT_STALE 1
    let z := s.fget R.SEC_EVT F.SEC_EVT_ZTHR
    if z ≠ 0 ∧ z ≤ s.fget R.SEC_EVT F.SEC_EVT_STALE then s.zeroise else s
  | .authFail => s.fadd R.SEC_EVT F.SEC_EVT_AUTHFAIL 1
  | .heldKey => s.fadd R.SEC_EVT F.SEC_EVT_HELDKEY 1

/-! ## Sessions (R476) -/

def State.modSec (s : State) (f : SecSt → SecSt) : State := { s with sec := f s.sec }

def State.session (s : State) (i : Nat) : Option Session := spGet (fun _ => none) s.sec.sessions i
def State.setSession (s : State) (i : Nat) (x : Option Session) : State :=
  let s := s.modSec fun y => { y with sessions := spPut (fun _ => none) y.sessions i x }
  s.fset R.SEC_STAT F.SEC_STAT_SESSIONS ((List.range 4).filter fun j => (s.session j).isSome).length

/-- Sessions of a function closed. -/
def State.closeSessions (s : State) (fn : Nat) : State :=
  s.each (List.range 4) fun s i =>
    match s.session i with
    | some x => if x.fn = fn then s.setSession i none else s
    | none => s

/-! ## Measurements (R487, R488) -/

/-- Consecutive 64-bit registers as bytes, the lowest address first. -/
def State.regBytes (s : State) (a : Nat) : Nat → List Byte
  | 0 => []
  | n + 1 => leBytes 8 (s.rd a).toNat ++ s.regBytes (a + 8) n
def State.putRegBytes (s : State) (a n : Nat) (l : List Byte) : State :=
  s.each (List.range n) fun s i => s.wr (a + 8 * i) (BitVec.ofNat 64 (ofLeBytes ((l.drop (8 * i)).take 8)))

/-- MEAS_0 to MEAS_7 are 0 to 7, PMEAS_0 to PMEAS_15 are 16 to 31. -/
def measReg (r : Nat) : Nat := if r < 16 then R.SEC_MEAS r 0 else R.SEC_PMEAS (r - 16) 0
def State.meas (s : State) (r : Nat) : List Byte := s.regBytes (measReg r) 4

/-- A measurement register extended with a digest, and the log's entry. -/
def State.measure (s : State) (r kind : Nat) (x : List Byte) : State :=
  let s := s.putRegBytes (measReg r) 4 (sm3 (s.meas r ++ x))
  if s.sec.log.length < 4096 then { s with sec := { s.sec with log := s.sec.log ++ [⟨r, kind, s.now, x⟩] } }
  else s.fset R.SEC_STAT F.SEC_STAT_LOGFULL 1

/-! ## The mailbox (R438 to R443) -/

/-- A function's copy of an STW register lies fn × 2^30 above it (R438). -/
def fnAddr (fn a : Nat) : Nat := fn * 2 ^ 30 + a

def State.mbDb (fn : Nat) : Nat := fnAddr fn R.MB_DB

/-- Bytes 0 to 0x3FFF of a function's mailbox are MB_CMD, 0x4000 to 0x7FFF are MB_RSP. -/
def mbKey (fn o : Nat) : Nat := fn * 2 ^ 15 + o
def State.mbBytes (s : State) (fn o n : Nat) : List Byte := spGetN (fun _ => 0) s.stw.mbox (mbKey fn o) n
def State.mbNum (s : State) (fn o n : Nat) : Nat := ofLeBytes (s.mbBytes fn o n)
def State.putMb (s : State) (fn o : Nat) (l : List Byte) : State :=
  { s with stw := { s.stw with mbox := spPutL (fun _ => 0) s.stw.mbox (mbKey fn o) l } }

/-- A response: STATUS, DETAIL and the result bytes (R439, R442). -/
structure Reply where
  st : Nat
  detail : Nat
  out : List Byte
deriving DecidableEq, Repr

def Reply.ok (out : List Byte) : Reply := ⟨0, 0, out⟩
/-- REFUSED, with the position of the condition in the command's row. -/
def Reply.refused (k : Nat) : Reply := ⟨1, k, []⟩
def Reply.unknown : Reply := ⟨2, 0, []⟩
/-- MALFORMED, with the byte offset of the first fault. -/
def Reply.malformed (o : Nat) : Reply := ⟨3, o, []⟩
def Reply.notPermitted : Reply := ⟨4, 0, []⟩
def Reply.aborted : Reply := ⟨5, 0, []⟩

/-- Results in R440's layout: (size, value) pairs, each naturally aligned with zero padding before it. -/
def layFrom : Nat → List (Nat × Nat) → List Byte
  | _, [] => []
  | o, (n, v) :: r =>
    let pad := alignUp o n - o
    List.replicate pad 0 ++ leBytes n v ++ layFrom (o + pad + n) r

def lay (l : List (Nat × Nat)) : List Byte := layFrom 0 l

/-- A list of (size, value) entries with its 4-byte count. -/
def layList (l : List (Nat × Nat)) : List (Nat × Nat) := (4, l.length) :: l

/-- The response written and the doorbell's state moved on (R441 step 4). -/
def State.mbPost (s : State) (fn code token : Nat) (r : Reply) : State :=
  let hdr := leBytes 2 code ++ leBytes 2 r.st ++ leBytes 4 token ++ leBytes 4 r.out.length ++ leBytes 2 r.detail ++ [0, 0]
  let s := s.putMb fn 0x4000 (hdr ++ r.out)
  let a := State.mbDb fn
  let s := s.fset a F.MB_DB_BUSY 0
  let s := s.fset a F.MB_DB_DONE 1
  s.fset a F.MB_DB_SEQ ((s.fget a F.MB_DB_SEQ + 1) % 256)

/-- A command run to its completion, its response posted with the TOKEN standing in MB_CMD. With FWIF 0 nothing runs and
nothing is answered (R8); a command that ends in a zeroisation gets no response (R492). -/
def State.mbRun (s : State) (fn code : Nat) (f : State → State × Reply) : State :=
  if s.fwif = 0 then s
  else
    let tok := s.mbNum fn 4 4
    let r := f s
    if r.1.fwif = 0 then r.1 else r.1.mbPost fn code tok r.2

/-- The row of a mailbox command: its whole run on a live part. -/
def mbRow (s : State) (fn code : Nat) (f : State → State × Reply) : Host.Outcome State Fault Refusal :=
  onLive s fun s => s.mbRun fn code f

/-- The first check that fails. -/
def firstBad : List (Bool × Reply) → Option Reply
  | [] => none
  | (b, r) :: rest => if b then some r else firstBad rest

/-- A command behind its checks: MALFORMED, then NOTPERMITTED, then the refusals in the order of its row. -/
def State.cmd (s : State) (gs : List (Bool × Reply)) (f : State → State × Reply) : State × Reply :=
  match firstBad gs with
  | some r => (s, r)
  | none => f s

/-- Registers as a completion reports them: 8 bytes a 64-bit half, as many as fit the response (R11; DESIGN CHOICE, log entry 26). -/
def State.toldBytes (s : State) (l : List Nat) : List Byte := lay ((l.take 2045).map fun a => (8, (s.rd a).toNat))

/-- The completion of a command that set registers: their values as they now stand, in the order of its row (R11). -/
def State.told (s : State) (l : List Nat) : State × Reply := (s, .ok (s.toldBytes l))

/-- A check of a parameter that stands at a byte offset of the parameters: MALFORMED counts from the command's byte 0. -/
def badAt (o : Nat) (b : Bool) : Bool × Reply := (b, .malformed (16 + o))
/-- Physical-function only. -/
def pfOnly (fn : Nat) : Bool × Reply := (decide (fn ≠ 0), .notPermitted)
/-- A virtual function that names another partition's resources (R12). -/
def ownPart (fn p : Nat) : Bool × Reply := (decide (fn ≠ 0 ∧ fn ≠ p + 1), .notPermitted)
def refuse (k : Nat) (b : Bool) : Bool × Reply := (b, .refused k)

/-! ## Partitions and tile sets -/

def State.part (s : State) (p : Nat) : Option PartSt := spGet (fun _ => none) s.serve p
def State.setPart (s : State) (p : Nat) (x : Option PartSt) : State :=
  { s with serve := spPut (fun _ => none) s.serve p x }
def State.modPart (s : State) (p : Nat) (f : PartSt → PartSt) : State :=
  match s.part p with
  | some x => s.setPart p (some (f x))
  | none => s

/-- The tiles of a tile set (R440), in ascending id. -/
def State.tilesIn (s : State) (p : Nat) (ts : TileSet) : List Nat :=
  match ts with
  | .all => s.tilesOf p
  | .clusters m => (List.range 1536).filter fun g => ((m.getD (g / 64) 0).toNat).testBit (g % 64 / 8)
  | .one g => [g]

/-- A tile set that names a tile outside partition `p`. -/
def State.foreignTiles (s : State) (p : Nat) (ts : TileSet) : Bool :=
  (s.tilesIn p ts).any fun g => decide (s.tilePart g ≠ some p)

def tileSetBad (ts : TileSet) : Bool :=
  match ts with
  | .all => false
  | .clusters m => decide (m.length ≠ 24)
  | .one g => decide (1536 ≤ g)

/-- The bytes a tile set takes in a parameter list from offset `o`. -/
def tileSetLen (o : Nat) (ts : TileSet) : Nat :=
  match ts with
  | .all => 1
  | .clusters _ => 25
  | .one _ => alignUp (o + 1) 2 + 2 - o

end Sys2Proof.Machine
end

