-- ==== Sys2Proof/Machine/Link.lean ====
section
/-! DEFINITION. The link layer (R357 to R361, R366, R367, R386, R471): the bytes of a flit, sending against credits,
acknowledgement and replay, encryption, and choosing the link of a message by the routing table. -/

namespace Sys2Proof.Machine

/-! ## The bytes of a flit -/

def Flit.header (f : Flit) : Nat :=
  f.lseq % 2 ^ 16 + f.lack % 2 ^ 16 * 2 ^ 16 + bit f.ackv * 2 ^ 32 + bit f.nak * 2 ^ 33 + f.vc % 8 * 2 ^ 34 +
    f.crvc % 8 * 2 ^ 37 + f.typ % 16 * 2 ^ 40 + f.units.length % 16 * 2 ^ 44 + f.src % 2 ^ 12 * 2 ^ 48 +
    f.dst % 2 ^ 12 * 2 ^ 60 + bit f.hop * 2 ^ 72 + bit f.retry * 2 ^ 73 + f.psn % 256 * 2 ^ 80 + f.job % 256 * 2 ^ 88 +
    f.crn % 256 * 2 ^ 96 + f.tseq % 2 ^ 32 * 2 ^ 104 + f.offset % 2 ^ 48 * 2 ^ 136 + f.aux % 256 * 2 ^ 184

/-- The payload bytes: eight units, absent ones zero. -/
def Flit.payload (f : Flit) : List Byte :=
  (List.range 8).flatMap fun i => sheafBytes (f.units.getD i 0)

/-- CRC-64 of R360. -/
def crc64 (m : List Byte) : Nat := crcMsb 64 0x42F0E1EBA9EA3693 (2 ^ 64 - 1) m ^^^ (2 ^ 64 - 1)

/-- Header and payload bytes with the CRC appended. -/
def flitSeal (hp : List Byte) : List Byte := hp ++ leBytes 8 (crc64 hp)

/-- The counter block of payload block `j` under flit count `F`, from the lower (0) or higher (1) end (R471). -/
def ctrBlock (f fromHigher j : Nat) : List Byte := leBytes 8 f ++ [BitVec.ofNat 8 fromHigher] ++ List.replicate 6 0 ++ leBytes 1 j

/-- A flit as it lies on the fibre: encrypted under `key` unless it is IDLE or BEACON. -/
def Flit.wire (f : Flit) (key : List Byte) (cnt fromHigher : Nat) : List Byte :=
  let p := f.payload
  let p := if f.typ = 0 ∨ f.typ = 13 ∨ key.isEmpty then p else ctrXor key (ctrBlock cnt fromHigher) p
  flitSeal (leBytes 24 f.header ++ p)

/-- A flit read from 280 clear header and payload bytes. -/
def flitOf (hp : List Byte) : Flit :=
  let h := ofLeBytes (hp.take 24)
  let nu := bitsOf h 47 44
  { lseq := bitsOf h 15 0, lack := bitsOf h 31 16, ackv := h.testBit 32, nak := h.testBit 33, vc := bitsOf h 36 34,
    crvc := bitsOf h 39 37, typ := bitsOf h 43 40, src := bitsOf h 59 48, dst := bitsOf h 71 60, hop := h.testBit 72,
    retry := h.testBit 73, psn := bitsOf h 87 80, job := bitsOf h 95 88, crn := bitsOf h 103 96, tseq := bitsOf h 135 104,
    offset := bitsOf h 183 136, aux := bitsOf h 191 184,
    units := (List.range (min nu 8)).map fun i => sheafOfBytes ((hp.drop (24 + 32 * i)).take 32) }

/-! ## Links -/

def State.link (s : State) (k : Nat) : LinkSt := spGet (fun _ => LinkSt.idle) s.fab.links k
def State.setLink (s : State) (k : Nat) (x : LinkSt) : State :=
  { s with fab := { s.fab with links := spPut (fun _ => LinkSt.idle) s.fab.links k x } }
def State.linkState (s : State) (k : Nat) : Nat := s.fget (R.LNK_STAT k) F.LNK_STAT_STATE
/-- A link's state written; while DEAD is set every link that is not OFF is HELD (R512). -/
def State.setLinkState (s : State) (k v : Nat) : State :=
  let dead := s.flag R.RST_STAT F.RST_STAT_DEAD
  if dead ∧ s.fget (R.LNK_STAT k) F.LNK_STAT_STATE = 0 then s
  else s.fset (R.LNK_STAT k) F.LNK_STAT_STATE (if dead then 3 else v)

/-- The class of a message TYPE: SYNC 0, REQ 1, RSP 3, as the first-hop virtual channel of R359. PAGE travels in the class
its sender gives it. -/
def typVc (typ : Nat) : Nat :=
  if typ = 12 ∨ typ = 13 ∨ typ = 14 then 0 else if typ = 2 ∨ typ = 7 ∨ typ = 8 then 3 else 1

/-- The order in which a transmitter serves the channels (R359). -/
def vcOrder : List Nat := [0, 4, 3, 2, 1]

/-- The tokens of a partition's link regulator at a link die, in half bytes (R386). -/
def State.linkTokens (s : State) (l p : Nat) : Nat := spGet (fun _ => 0) s.fab.tokens (l * 16 + p)
def State.setLinkTokens (s : State) (l p n : Nat) : State :=
  { s with fab := { s.fab with tokens := spPut (fun _ => 0) s.fab.tokens (l * 16 + p) n } }

/-- A flit ends its message: its type has one flit, or its LAST is set (R358). -/
def Flit.ends (f : Flit) : Bool := !([2, 3, 4, 5, 9, 10, 11].contains f.typ) || f.aux.testBit 7

/-- The half bytes of a message's flits, the first of them at the front. -/
def msgCost : List TxFlit → Nat
  | [] => 0
  | t :: r => 64 * t.flit.units.length + (if t.flit.ends then 0 else msgCost r)

/-- Whether the regulator lets the first flit of a channel go (R386): the bucket holds the bytes that its message still has to send. It
holds DEPTH at most, so a longer message goes on from a full bucket (DEDUCED, log entry 97). -/
def State.linkPays (s : State) (k : Nat) (t : TxFlit) : Bool :=
  match t.part with
  | none => true
  | some p =>
    let a := R.FBP_LREG (k / 12) p
    let cost := msgCost ((s.link k).txq.filter fun u => decide (u.flit.vc = t.flit.vc))
    !s.flag a F.FBP_LREG_EN || decide (min cost (2048 * s.fget a F.FBP_LREG_DEPTH) ≤ s.linkTokens (k / 12) p)

/-- The flit a transmitter sends next: the first of the first channel in order whose credit and regulator let it go. In BEACON
only beacons pass, in UP everything, in HELD nothing but IDLE (R350). -/
def State.linkPick (s : State) (k : Nat) : Option TxFlit :=
  let x := s.link k
  let st := s.linkState k
  vcOrder.findSome? fun v =>
    match x.txq.find? fun t => decide (t.flit.vc = v) with
    | none => none
    | some t =>
      if 0 < x.credits.getD v 0 ∧ x.sent.length < 1024 ∧ s.linkPays k t ∧
          (st = 4 ∨ (st = 2 ∧ t.flit.typ = 13)) then some t else none

/-- A list with its entry `i` changed. -/
def setNth (l : List Nat) (i v : Nat) : List Nat := l.set i v

/-- The credit return a flit carries: the lowest channel with credits owed. -/
def LinkSt.creditReturn (x : LinkSt) : Nat × Nat :=
  match (List.range 5).find? fun v => decide (0 < x.owed.getD v 0) with
  | some v => (v, min 255 (x.owed.getD v 0))
  | none => (0, 0)

/-- The acknowledgement and credit fields filled in as a flit leaves (R357, R361). -/
def LinkSt.fill (x : LinkSt) (f : Flit) (nak : Bool) : Flit × LinkSt :=
  let c := x.creditReturn
  ({ f with lack := (x.rxF + 2 ^ 16 - 1) % 2 ^ 16, ackv := decide (0 < x.rxF), nak := nak, crvc := c.1, crn := c.2 },
   { x with owed := setNth x.owed c.1 (x.owed.getD c.1 0 - c.2) })

/-- A non-IDLE flit put on the fibre: it takes the next LSEQ, a credit and a place in the retry buffer (R361). -/
def State.linkEmit (s : State) (k : Nat) (t : TxFlit) : State :=
  let x := s.link k
  let fx := x.fill { t.flit with lseq := x.txF % 2 ^ 16 } false
  let x := fx.2
  let b := fx.1.wire x.txKey x.txF (bit (!x.lowerEnd))
  let v := t.flit.vc
  let x := { x with txq := x.txq.erase t, sent := x.sent ++ [⟨x.txF, t, b, 0⟩], txF := x.txF + 1,
                    credits := setNth x.credits v (x.credits.getD v 0 - 1), out := x.out ++ [b] }
  let s := s.setLink k x
  match t.part with
  | some p =>
    if s.flag (R.FBP_LREG (k / 12) p) F.FBP_LREG_EN then
      s.setLinkTokens (k / 12) p (s.linkTokens (k / 12) p - 64 * t.flit.units.length)
    else s
  | none => s

/-- Everything that can leave now, leaves. -/
def State.linkPump (s : State) (k : Nat) : Nat → State
  | 0 => s
  | n + 1 =>
    match s.linkPick k with
    | some t => (s.linkEmit k t).linkPump k n
    | none => s

def State.linkFlush (s : State) (k : Nat) : State := s.linkPump k ((s.link k).txq.length)

/-- An IDLE flit: not numbered, not buffered, not replayed (R358, R361). -/
def State.linkIdle (s : State) (k : Nat) (nak : Bool) : State :=
  let fx := (s.link k).fill Flit.blank nak
  s.setLink k { fx.2 with out := fx.2.out ++ [fx.1.wire [] 0 0] }

/-- A message's flits queued at a transmitter and sent as far as credits allow. -/
def State.linkQueue (s : State) (k : Nat) (ts : List TxFlit) : State :=
  let x := s.link k
  (s.setLink k { x with txq := x.txq ++ ts }).linkFlush k

/-! ## Topology (R353, R354) -/

/-- The link of package `i` that reaches package `j` directly: the same rack, or the aligned slots of the twin rack. -/
def directLink (i j : Nat) : Option Nat :=
  let d := (j % 32 + 32 - i % 32) % 32
  if i / 32 = j / 32 then (if d = 0 then none else if d ≤ 7 then some (23 + d) else some (d - 8))
  else if i / 64 = j / 64 ∧ d % 8 = 0 then some (31 + d / 8)
  else none

/-- The first hop of the default route from `i` to `j`: `j` itself, or the relay of R354. -/
def firstHop (i j : Nat) : Option Nat :=
  if (directLink i j).isSome then some j
  else if i / 64 = j / 64 ∧ i ≠ j then
    let d := (j % 32 + 32 - i % 32) % 32
    some (j / 32 * 32 + (i % 32 + 8 * (d / 8)) % 32)
  else none

/-- The package that link `k` of package `i` reaches (R353): links 31 to 34 lead to the twin rack; link 35 has no fixed peer. -/
def linkPeer (i k : Nat) : Option Nat :=
  if k < 24 then some (i / 32 * 32 + (i % 32 + k + 8) % 32)
  else if k < 31 then some (i / 32 * 32 + (i % 32 + k - 23) % 32)
  else if k < 35 then some ((i / 32 ^^^ 1) * 32 + (i % 32 + 8 * (k - 31)) % 32)
  else none

/-- A peer that the map lists for an uplink only: reached for hall scale, and no package of the slice (R356, R366). -/
def FabMap.hall (m : FabMap) (n : Nat) : Bool := !(m.pkgs.any fun e => decide (e.pkg = n)) && m.ups.any fun u => decide (u.peer = n)

/-- The packages with a VALID entry in the routing table, in ascending id. -/
def State.routed (s : State) : List Nat := (List.range 4096).filter fun n => s.flag (R.FB_RT 0 n) F.FB_RT_VALID

/-- The packages of the slice: those with a VALID entry, but listed hall peers, in ascending id (R366, R372; log entry 160). -/
def State.slice (s : State) : List Nat := s.routed.filter fun n => !((s.fab.map.map fun m => m.hall n).getD false)

/-! ## Routing (R366, R367) -/

/-- The first-hop link and relay of package `n` by the table of link die 0: the three dies hold the same values. The route in use, else the
other one: none where both are not UP (R367; DEDUCED, log entry 160). -/
def State.routeTo (s : State) (n : Nat) : Option (Nat × Nat) :=
  let a := R.FB_RT 0 n
  let first : Option (Nat × Nat) := if s.linkState (s.fget a F.FB_RT_LINK) = 4 then some (s.fget a F.FB_RT_LINK, s.fget a F.FB_RT_VIA) else none
  let second : Option (Nat × Nat) := if s.flag a F.FB_RT_ALTV ∧ s.linkState (s.fget a F.FB_RT_LINK2) = 4 then
      some (s.fget a F.FB_RT_LINK2, s.fget a F.FB_RT_VIA2) else none
  if ¬ s.flag a F.FB_RT_VALID then none
  else if s.flag a F.FB_RT_USEALT then second.or first
  else first.or second

/-- Sends a message's flits toward its destination from a link die; answers whether a route exists. A flit that leaves on
another link die's link crosses in transit, which the source die counts (R368). -/
def State.fabSend (s : State) (l : Nat) (part : Option Nat) (fs : List Flit) : State × Bool :=
  match fs with
  | [] => (s, true)
  | f :: _ =>
    match s.routeTo f.dst with
    | none => (s, false)
    | some (k, _) =>
      let s := if k / 12 ≠ l then
          match part with
          | some p => s.dieCnt (28 + l) (R.FBP_CNT2 l p) F.FBP_CNT2_TRANSIT fs.length
          | none => s
        else s
      (s.linkQueue k (fs.map fun f => ⟨f, part⟩), true)

/-! ## Messages as flits -/

/-- The messages whose OFFSET is an address that moves with their flits: LDATA, STORE, ACCSTORE and PAGE data (R358). -/
def movesOffset (typ : Nat) : Bool := [2, 3, 4, 11].contains typ

/-- The flits of a message: up to eight units each, LAST on the last (R357, R358). -/
def cutFlits (base : Flit) : Nat → Nat → List Sheaf → List Flit
  | 0, _, _ => []
  | n + 1, i, us =>
    let now := us.take 8
    let rest := us.drop 8
    let psn := (List.range now.length).foldl (fun v j => v + bit ((now.getD j zeroSheaf).psn) * 2 ^ j) 0
    let f := { base with units := now.map (·.bits), psn := psn, offset := base.offset + (if movesOffset base.typ then 256 * i else 0),
                         aux := base.aux + (if rest.isEmpty then 128 else 0) }
    if rest.isEmpty then [f] else f :: cutFlits base n (i + 1) rest

def msgFlits (base : Flit) (us : List Sheaf) : List Flit := cutFlits base (us.length + 1) 0 us

/-- The job id of a partition (R375), as it stands at a link die. -/
def State.jobOf (s : State) (l p : Nat) : Nat := s.fget (R.FBP_JOB l p) F.FBP_JOB_JOB
/-- The header fields that every message of the package begins with. -/
def State.newMsg (s : State) (l typ dst p : Nat) : Flit :=
  { Flit.blank with typ := typ, vc := typVc typ, src := s.pkgOwn, dst := dst, job := s.jobOf l p }

end Sys2Proof.Machine
end

