-- ==== Sys2Proof/Machine/MemCore.lean ====
section
/-! DEFINITION. Local-space memory: regions, home gateways and pages (R307 to R312), bursts with their encryption and
check bytes (R328 to R335), and reading and writing one unit or a run of bytes by local-space address. -/

namespace Sys2Proof.Machine

/-- Memory dies that have channels in service, in ascending order (R308). -/
def State.nch (s : State) (m : Nat) : Nat := s.fget (R.MEM_CTL m) F.MEM_CTL_NCH
def State.memDies (s : State) : List Nat := (List.range 4).filter fun m => decide (0 < s.nch m)

/-- The page size of a region kind (R307). -/
def pageSize (kind : Nat) : Nat := if kind = 1 then 0x200000 else 0x10000

/-- A region as a memory gateway's table holds it. -/
structure Rgn where
  idx : Nat
  kind : Nat
  enc : Bool
  stream : Bool
  home : Nat
  base : Nat
  size : Nat
deriving DecidableEq, Repr

def State.rgnAt (s : State) (a r : Nat) : Rgn :=
  { idx := r, kind := s.fget a F.MEM_RGN_KIND, enc := s.flag a F.MEM_RGN_ENC, stream := s.flag a F.MEM_RGN_STREAM,
    home := s.fget a F.MEM_RGN_HOME, base := s.fget a F.MEM_RGN_BASE * 65536, size := s.fget a F.MEM_RGN_SIZE * 65536 }

/-- The region table of the gateway on a die: a memory die has its own, every other die uses the steward gateway's (R344). -/
def rgnTable (D : Nat) : Nat → Nat → Nat := if 24 ≤ D ∧ D < 28 then R.MEM_RGN (D - 24) else R.HST_RGN

/-- The region of partition `p` that holds offset `o`, by the table at a die. -/
def State.rgnOfAt (s : State) (D p o : Nat) : Option Rgn :=
  (s.regionIn (rgnTable D) p o).map fun r => s.rgnAt (rgnTable D p r) r

/-- The same by the table at the steward gateway. -/
def State.rgnOf (s : State) (p o : Nat) : Option Rgn := s.rgnOfAt 31 p o

/-- The partition whose region holds an offset: the regions of different partitions do not overlap (R307). -/
def State.partOf (s : State) (o : Nat) : Option Nat :=
  (List.range 16).find? fun p => (s.regionIn R.HST_RGN p o).isSome

/-- The first byte of the page that holds `o`. -/
def Rgn.pageBase (r : Rgn) (o : Nat) : Nat := r.base + (o - r.base) / pageSize r.kind * pageSize r.kind

/-- The home gateway of the page that holds `o`, by die index; none where HOME 4 has no die to rotate over (R308). -/
def State.homeDie (s : State) (r : Rgn) (o : Nat) : Option Nat :=
  if r.home < 4 then some (24 + r.home)
  else if r.home = 4 then
    let ds := s.memDies
    if ds.isEmpty then none else (ds[((o - r.base) / pageSize r.kind) % ds.length]?).map (24 + ·)
  else some 31

/-- Map entries are kept by the local-space page number of the page's first byte. -/
def State.mapEnt (s : State) (pg : Nat) : MapEnt := spGet (fun _ => MapEnt.none_) s.mem.map pg
def State.setMapEnt (s : State) (pg : Nat) (e : MapEnt) : State :=
  { s with mem := { s.mem with map := spPut (fun _ => MapEnt.none_) s.mem.map pg e } }

/-! ## Bursts -/

def burstKey (die f : Nat) : Nat := die * 2 ^ 44 + f / 64

def State.burst (s : State) (k : Nat) : Option Burst := spGet (fun _ => none) s.mem.bursts k
def State.setBurst (s : State) (k : Nat) (b : Option Burst) : State :=
  { s with mem := { s.mem with bursts := spPut (fun _ => none) s.mem.bursts k b } }

/-- The owning package's global address of a local-space offset (R330). -/
def State.globalAddr (s : State) (o : Nat) : Nat := 2 ^ 62 + s.pkgOwn * 2 ^ 50 + o % 2 ^ 48

/-- Memory keys K1, K2, Km of a partition (0xFF for the steward) (R467, R469). -/
def State.memKeys (s : State) (p : Nat) : List Byte × List Byte × List Byte :=
  let z := beBytes 32 s.sec.mrk.toNat ++ [0x4D, 0x45, 0x4D, 0x4B] ++ leBytes 1 p ++
    leBytes 4 (spGet (fun _ => 0) s.sec.epochs p) ++ leBytes 2 s.pkgOwn
  let k := kdfSm3 z 48
  (k.take 16, (k.drop 16).take 16, k.drop 32)

/-- The frame address that the CRC covers (R329). -/
def frameAddr (die f : Nat) : Nat := die * 2 ^ 56 + f / 64 * 64

def burstCrc (b : Burst) (die f : Nat) : Nat :=
  crc32c (leBytes 64 b.data.toNat ++ leBytes 8 b.tag.toNat ++ leBytes 2 b.gen.toNat ++ leBytes 1 b.pf.toNat ++
    [0] ++ leBytes 8 (frameAddr die f))

/-- The tag check of a burst under a map entry's GEN (R331, R334): an encrypted region's burst with ENC = 0 fails it, unless both of its
PSN bits are set. -/
def State.tagOk (s : State) (p : Nat) (enc : Bool) (ga gen : Nat) (b : Burst) : Bool :=
  if b.pf.toNat.testBit 2 then
    decide (burstTag (s.memKeys p).2.2 (leBytes 64 b.data.toNat) ga gen b.pf.toNat = leBytes 8 b.tag.toNat)
  else !enc || (b.pf.toNat.testBit 0 && b.pf.toNat.testBit 1)

/-- A burst as written: two sheaves, encrypted under R330 and tagged under R331 in an encrypted region. -/
def State.makeBurst (s : State) (p : Nat) (enc : Bool) (ga gen die f : Nat) (s0 s1 : Sheaf) : Burst :=
  let psn := bit s0.psn + 2 * bit s1.psn
  let z (x : Sheaf) : SheafBits := if x.psn then 0 else x.bits
  let plain := (if enc then sheafBytes (z s0) ++ sheafBytes (z s1) else sheafBytes s0.bits ++ sheafBytes s1.bits)
  let b : Burst :=
    if s0.psn && s1.psn then ⟨0, 0, 0, BitVec.ofNat 16 gen, 3⟩
    else if enc then
      let k := s.memKeys p
      let c := xtsEnc k.1 k.2.1 ga plain
      ⟨BitVec.ofNat 512 (ofLeBytes c), 0, BitVec.ofNat 64 (ofLeBytes (burstTag k.2.2 c ga gen (psn + 4))),
        BitVec.ofNat 16 gen, BitVec.ofNat 8 (psn + 4)⟩
    else ⟨BitVec.ofNat 512 (ofLeBytes plain), 0, 0, BitVec.ofNat 16 gen, BitVec.ofNat 8 psn⟩
  { b with crc := BitVec.ofNat 32 (burstCrc b die f) }

/-- What a read of a burst finds (R334, R335). -/
inductive BurstChk where
  | ok | crc | tag | stale
deriving DecidableEq, Repr

/-- The two sheaves of a stored burst and the outcome of its checks (R334 steps 1 and 2, R335). -/
def State.readBurst (s : State) (p : Nat) (enc : Bool) (ga gen die f : Nat) : BurstChk × Sheaf × Sheaf :=
  match s.burst (burstKey die f) with
  | none => (.ok, zeroSheaf, zeroSheaf)
  | some b =>
    let p0 := b.pf.toNat.testBit 0
    let p1 := b.pf.toNat.testBit 1
    let raw := leBytes 64 b.data.toNat
    let out (plain : List Byte) : Sheaf × Sheaf :=
      (if p0 then poisonSheaf else ⟨sheafOfBytes (plain.take 32), false⟩,
       if p1 then poisonSheaf else ⟨sheafOfBytes (plain.drop 32), false⟩)
    if burstCrc b die f ≠ b.crc.toNat then (.crc, poisonSheaf, poisonSheaf)
    else if ¬ s.tagOk p enc ga gen b then (if b.gen.toNat ≠ gen then .stale else .tag, poisonSheaf, poisonSheaf)
    else if b.pf.toNat.testBit 2 then (.ok, out (xtsDec (s.memKeys p).1 (s.memKeys p).2.1 ga raw))
    else (.ok, out raw)

/-! ## Host memory -/

def State.hostByte (s : State) (a : Nat) : Byte := spGet (fun _ => 0) s.mem.host a
def State.hostBytes (s : State) (a n : Nat) : List Byte := spGetN (fun _ => 0) s.mem.host a n
def State.putHost (s : State) (a : Nat) (l : List Byte) : State :=
  { s with mem := { s.mem with host := spPutL (fun _ => 0) s.mem.host a l } }

/-! ## One unit of local space -/

/-- Where the unit at local offset `o` of partition `p` stands. -/
structure UnitLoc where
  rgn : Rgn
  page : Nat
  home : Nat
  ent : MapEnt
deriving DecidableEq, Repr

/-- The unit by the region table at a die. -/
def State.locateAt (s : State) (D p o : Nat) : Option UnitLoc :=
  match s.rgnOfAt D p o with
  | none => none
  | some r =>
    let pb := r.pageBase o
    match s.homeDie r o with
    | none => none
    | some h => some ⟨r, pb / 65536, h, s.mapEnt (pb / 65536)⟩

def State.locate (s : State) (p o : Nat) : Option UnitLoc := s.locateAt 31 p o

/-- The byte address, in its home die's Bay, of offset `o` of a page resting in frames. -/
def UnitLoc.phys (u : UnitLoc) (o : Nat) : Nat := u.ent.frame * 65536 + (o - u.page * 65536)

/-- The unit at `o` as its page's resting place holds it: frames, zero blocks, or host memory for a HOST page; pages in
Yard or Cellar read as their ciphertext will once moved in, and a LOST page reads poisoned (R312, R313). -/
def State.localUnit (s : State) (p o : Nat) : Sheaf :=
  match s.locate p o with
  | none => poisonSheaf
  | some u =>
    if u.rgn.kind = 4 then
      ⟨sheafOfBytes (s.hostBytes (u.ent.loc / 65536 * 65536 + (o - u.page * 65536)) 32), false⟩
    else
      match u.ent.st with
      | .bay | .moveout =>
        let b := s.readBurst p u.rgn.enc (s.globalAddr (o / 64 * 64)) u.ent.gen u.home (u.phys o)
        if o % 64 < 32 then b.2.1 else b.2.2
      | .absent => zeroSheaf
      | _ => poisonSheaf

/-- A store of one unit into frames: a read-modify-write of its burst (R333). -/
def State.putFrameUnit (s : State) (p o : Nat) (u : UnitLoc) (x : Sheaf) : State :=
  let ga := s.globalAddr (o / 64 * 64)
  let f := u.phys o / 64 * 64
  let r := s.readBurst p u.rgn.enc ga u.ent.gen u.home f
  let b := if o % 64 < 32 then s.makeBurst p u.rgn.enc ga u.ent.gen u.home f x r.2.2
    else s.makeBurst p u.rgn.enc ga u.ent.gen u.home f r.2.1 x
  s.setBurst (burstKey u.home f) (some b)

/-- Bytes of local space as firmware and fetchers read them, with whether a unit was poisoned. -/
def State.localBytes (s : State) (p o : Nat) : Nat → List Byte × Bool
  | 0 => ([], false)
  | n + 1 =>
    let x := s.localUnit p (o / 32 * 32)
    let r := s.localBytes p (o + 1) n
    ((sheafBytes x.bits).getD (o % 32) 0 :: r.1, x.psn || r.2)

/-- Bytes read unit by unit from a 32-byte-aligned offset. -/
def State.localUnits (s : State) (p o n : Nat) : List Sheaf := (List.range n).map fun i => s.localUnit p (o + 32 * i)

/-- `n` bytes from a 32-byte-aligned offset, with whether any unit was poisoned. -/
def State.localBlock (s : State) (p o n : Nat) : List Byte × Bool :=
  let us := s.localUnits p o (ceilDiv n 32)
  ((us.flatMap fun x => sheafBytes x.bits).take n, us.any (·.psn))

end Sys2Proof.Machine
end

