-- ==== Sys2Proof/Machine/Mem.lean ====
section
/-! DEFINITION. The memory tiers at work (R307 to R340): frames and quotas, moves, the stream window, checks of bursts,
and the service of one unit of a request at its home gateway. -/

namespace Sys2Proof.Machine

/-! ## Channels and frames -/

/-- The channels of memory die `m` in service, by package-wide channel number, in ascending order (R310). -/
def State.chansIn (s : State) (m : Nat) : List Nat :=
  (List.range 24).filterMap fun k => if s.fget (R.CH_STAT (m * 24 + k)) F.CH_STAT_STATE = 2 then some (m * 24 + k) else none

/-- The channel that holds byte `f` of a die's Bay (R310). -/
def State.chanOf (s : State) (die f : Nat) : Option Nat :=
  let cs := s.chansIn (die - 24)
  if cs.isEmpty then none else cs[(f / 256) % cs.length]?

/-- The 64 KiB frames of `n` modules of 64 × 10^9 bytes times a power of two (R4, R323). -/
def modFrames (n cap : Nat) : Nat := n * (64 * 10 ^ 9 * 2 ^ cap) / 65536

/-- The frames of a die's Bay that pages may take: those of its modules but the ones at the top that hold the tier map, one 16-byte entry
for each frame (R311; DESIGN CHOICE, log entry 90). -/
def State.frameCap (s : State) (die : Nat) : Nat :=
  match s.chansIn (die - 24) with
  | [] => 0
  | c :: r => let n := modFrames (r.length + 1) (s.fget (R.CH_STAT c) F.CH_STAT_CAP); n - ceilDiv (16 * n) 65536

def frameKey (die f : Nat) : Nat := die * 2 ^ 36 + f

/-- The lowest frame from which `n` consecutive frames of the die are free: one pass over the frames in use. -/
def gapFrom (die n : Nat) : Nat → Sparse Bool → Nat
  | cur, [] => cur
  | cur, e :: r =>
    if e.1 < frameKey die cur then gapFrom die n cur r
    else if frameKey die (cur + n) ≤ e.1 then cur
    else gapFrom die n (e.1 - frameKey die 0 + 1) r

def State.freeRun (s : State) (die n : Nat) : Option Nat :=
  let f := gapFrom die n 0 s.mem.taken
  if f + n ≤ s.frameCap die then some f else none

def State.takeFrames (s : State) (die f n : Nat) : State :=
  { s with mem := { s.mem with taken := (List.range n).foldl (fun t i => spPut (fun _ => false) t (frameKey die (f + i)) true) s.mem.taken } }

/-- Frames given back: a frame on the retired list stays out of use (R336). -/
def State.dropFrames (s : State) (die f n : Nat) : State :=
  { s with mem := { s.mem with taken := (List.range n).foldl (fun t i =>
      if s.mem.retired.contains (die, f + i) then t else spPut (fun _ => false) t (frameKey die (f + i)) false) s.mem.taken } }

/-- Frames a page of a region kind takes (R310). -/
def kindFrames (kind : Nat) : Nat := if kind = 1 then 32 else 1

/-! ## Quotas (R339): Bay at each memory die, Yard at LD0, Cellar at the steward -/

def State.quotaUsed (s : State) (die p : Nat) : Nat := s.fget (R.TQ_QUOTA die p) F.TQ_QUOTA_USED
def State.quotaFits (s : State) (die p n : Nat) : Bool :=
  decide (s.quotaUsed die p + n ≤ s.fget (R.TQ_QUOTA die p) F.TQ_QUOTA_QUOTA)
def State.quotaAdd (s : State) (die p n : Nat) : State := s.fset (R.TQ_QUOTA die p) F.TQ_QUOTA_USED (s.quotaUsed die p + n)
def State.quotaSub (s : State) (die p n : Nat) : State := s.fset (R.TQ_QUOTA die p) F.TQ_QUOTA_USED (s.quotaUsed die p - n)

/-- The block that holds a tier's quota and regulator: LD0 for Yard, the steward for Cellar. -/
def tierDie (st : PgSt) : Nat := if st = .yard then 28 else 31

/-! ## Regulators (R340): tokens in half bytes, by die and partition -/

def State.tokens (s : State) (die p : Nat) : Nat := spGet (fun _ => 0) s.mem.tokens (die * 16 + p)
def State.setTokens (s : State) (die p n : Nat) : State :=
  { s with mem := { s.mem with tokens := spPut (fun _ => 0) s.mem.tokens (die * 16 + p) n } }
def State.regOn (s : State) (die p : Nat) : Bool := s.flag (R.TQ_REG die p) F.TQ_REG_EN
def State.regPays (s : State) (die p bytes : Nat) : Bool := !s.regOn die p || decide (2 * bytes ≤ s.tokens die p)
def State.regTake (s : State) (die p bytes : Nat) : State :=
  if s.regOn die p then s.setTokens die p (s.tokens die p - 2 * bytes) else s

/-- One held network cycle of a partition at a gateway's die, by cause (R338). A wait on a map read is no stall cause (R311). -/
inductive StallWhy where
  | mapRead | regulator | quota | cellar | yardfail | yard | reread
deriving DecidableEq, Repr

/-- The place of a cause in R338's order. -/
def StallWhy.rank : StallWhy → Nat
  | .regulator => 1
  | .quota => 2
  | .cellar => 3
  | .yardfail => 4
  | .yard => 5
  | .reread => 6
  | .mapRead => 8

def State.stall (s : State) (die p : Nat) (w : StallWhy) : State :=
  match w with
  | .mapRead => s
  | .regulator => s.dieCnt die (R.TQ_STALL3 die p) F.TQ_STALL3_REGULATOR 1
  | .quota => s.dieCnt die (R.TQ_STALL2 die p) F.TQ_STALL2_QUOTA 1
  | .cellar => s.dieCnt die (R.TQ_STALL2 die p) F.TQ_STALL2_CELLAR 1
  | .yardfail => s.dieCnt die (R.TQ_STALL1 die p) F.TQ_STALL1_YARDFAIL 1
  | .yard => s.dieCnt die (R.TQ_STALL1 die p) F.TQ_STALL1_YARD 1
  | .reread => s.dieCnt die (R.TQ_STALL0 die p) F.TQ_STALL0_REREAD 1

def State.misrouteCnt (s : State) (die p : Nat) : State := s.dieCnt die (R.TQ_STALL3 die p) F.TQ_STALL3_MISROUTE 1

/-- A misrouted unit: counted and reported as a fault of the die (R309). -/
def State.misroute (s : State) (die p addr : Nat) : State :=
  (s.misrouteCnt die p).plainRep 4 (some p) (dieIsland die) addr 0

/-- A unit that a gateway on die `D` is no home to: its page has another home, or it lies outside every region (R309). -/
def State.misrouted (s : State) (D p o : Nat) : Bool :=
  match s.locateAt D p o with
  | none => true
  | some u => decide (u.home ≠ D)

/-! ## Bursts of a page -/

/-- The listed bursts whose keys lie in `[a, a + n)`. -/
def spRange {β : Type} (a n : Nat) (m : Sparse β) : Sparse β := m.filter fun e => decide (a ≤ e.1) && decide (e.1 < a + n)

/-- Bursts of the away copy of a page are kept from key page × 2^10. -/
def awayKey (pg : Nat) : Nat := pg * 1024

/-- The page's bursts carried verbatim from its frames to its away copy (R316). -/
def State.copyOut (s : State) (pg die f n : Nat) : State :=
  let a := burstKey die (f * 65536)
  let src := spRange a (n * 1024) s.mem.bursts
  let away := spClearRange (awayKey pg) (n * 1024) s.mem.away
  { s with mem := { s.mem with away := src.foldl (fun m e => spPut (fun _ => none) m (awayKey pg + (e.1 - a)) e.2) away } }

/-- The page's away copy carried verbatim into frames, each burst with the CRC of its new frame address (R316, R329). -/
def State.copyIn (s : State) (pg die f n : Nat) : State :=
  let a := burstKey die (f * 65536)
  let src := spRange (awayKey pg) (n * 1024) s.mem.away
  let clr := spClearRange a (n * 1024) s.mem.bursts
  { s with mem := { s.mem with bursts := src.foldl (fun m e =>
      let k := a + (e.1 - awayKey pg)
      spPut (fun _ => none) m k (e.2.map fun b => { b with crc := BitVec.ofNat 32 (burstCrc b die (f * 65536 + (k - a) * 64)) })) clr } }

/-- Every burst of a page as it stands in frames: an unlisted one is a burst of zero blocks as a write makes it (R332). -/
def State.frameBurst (s : State) (p pg : Nat) (enc : Bool) (gen die f j : Nat) : Burst :=
  (s.burst (burstKey die (f * 65536) + j)).getD
    (s.makeBurst p enc (s.globalAddr (pg * 65536 + 64 * j)) gen die (f * 65536 + 64 * j) zeroSheaf zeroSheaf)

/-- A page carried out: every burst as it stands, ciphertext and check bytes (R316). -/
def State.carryOut (s : State) (pg n : Nat) (bs : List Burst) : State :=
  let away := spClearRange (awayKey pg) (n * 1024) s.mem.away
  { s with mem := { s.mem with away := (List.range (n * 1024)).foldl (fun m j => spPut (fun _ => none) m (awayKey pg + j) bs[j]?) away } }

def pageBursts (f : Nat → Burst) (n : Nat) : List Burst := (List.range (n * 1024)).map f

/-- A page carried out to host memory: its ciphertext at LOC, 64 bytes a burst; the check bytes stay with its away copy, because the manual
gives them no place in a host frame (R316; DESIGN CHOICE, log entry 92). -/
def State.hostOut (s : State) (p pg : Nat) (enc : Bool) (gen die f n loc : Nat) : State :=
  let bs := pageBursts (s.frameBurst p pg enc gen die f) n
  (s.carryOut pg n bs).putHost loc (bs.flatMap fun b => leBytes 64 b.data.toNat)

/-- The link die that a message to a package leaves from. -/
def State.dieToward (s : State) (pkg : Nat) : Nat := ((s.routeTo pkg).map fun x => x.1 / 12).getD 0

/-- A PAGE message of the mover to the guest frames at LOC: `us` are written there, none asks for what they hold (R316, R385). -/
def State.pageMsg (s : State) (p loc i : Nat) (us : List Sheaf) : State :=
  let n := loc % 4096
  let l := s.dieToward n
  (s.fabSend l (some p) (msgFlits { s.newMsg l 11 n p with offset := (loc / 4096 + i) * 65536 % 2 ^ 48 } us)).1

/-- A page carried out to guest frames of another package: its ciphertext goes as PAGE messages, a frame each; the check bytes stay with its
away copy, because the manual gives them no place in a PAGE message (R316, R385; DESIGN CHOICE, log entry 92). -/
def State.guestOut (s : State) (p pg : Nat) (enc : Bool) (gen die f n loc : Nat) : State :=
  let bs := pageBursts (s.frameBurst p pg enc gen die f) n
  (s.carryOut pg n bs).each (List.range n) fun s i =>
    s.pageMsg p loc i (((bs.drop (1024 * i)).take 1024).flatMap fun b => [⟨b.data.extractLsb' 0 256, false⟩, ⟨b.data.extractLsb' 256 256, false⟩])

/-- Page data asked of the guest frames at LOC. -/
def State.guestAsk (s : State) (p loc n : Nat) : State := s.each (List.range n) fun s i => s.pageMsg p loc i []

/-- One unit of page data that came back, in the page's away copy. -/
def State.awayUnit (s : State) (k half : Nat) (x : SheafBits) : State :=
  match spGet (fun _ => none) s.mem.away k with
  | none => s
  | some b =>
    let d : BitVec 512 := if half = 0 then b.data.extractLsb' 256 256 ++ x else x ++ b.data.extractLsb' 0 256
    { s with mem := { s.mem with away := spPut (fun _ => none) s.mem.away k (some { b with data := d }) } }

/-- A page's away copy with the ciphertext that its host frame holds. -/
def State.hostIn (s : State) (pg n loc : Nat) : State :=
  { s with mem := { s.mem with away := (spRange (awayKey pg) (n * 1024) s.mem.away).foldl (fun m e =>
      spPut (fun _ => none) m e.1 (e.2.map fun b =>
        { b with data := BitVec.ofNat 512 (ofLeBytes (s.hostBytes (loc + 64 * (e.1 - awayKey pg)) 64)) })) s.mem.away } }

/-- The away copy of a page passes the tag check of its home die (R319). -/
def State.awayOk (s : State) (p pg : Nat) (enc : Bool) (gen n : Nat) : Bool :=
  (spRange (awayKey pg) (n * 1024) s.mem.away).all fun e =>
    match e.2 with
    | none => true
    | some b => s.tagOk p enc (s.globalAddr (pg * 65536 + 64 * (e.1 - awayKey pg))) gen b

/-- A weight page as its source gives it, written under the memory keys (R319, R330): its contents are free (log entry 92). -/
def State.weightIn (s : State) (p pg : Nat) (enc : Bool) (gen die f n : Nat) : State :=
  s.each (List.range (n * 1024)) fun s j =>
    let w := Config.weightBurst (s.globalAddr (pg * 65536 + 64 * j))
    let x (i : Nat) : Sheaf := ⟨BitVec.ofNat 256 (w.toNat / 2 ^ (256 * i)), false⟩
    s.setBurst (burstKey die (f * 65536) + j)
      (some (s.makeBurst p enc (s.globalAddr (pg * 65536 + 64 * j)) gen die (f * 65536 + 64 * j) (x 0) (x 1)))

/-- Frames cleared to zero blocks. -/
def State.clearFrames (s : State) (die f n : Nat) : State :=
  { s with mem := { s.mem with bursts := spClearRange (burstKey die (f * 65536)) (n * 1024) s.mem.bursts } }

/-! ## Reading bytes of local space at any alignment -/

/-- `n` bytes of local space from offset `o`, and whether a unit was poisoned. -/
def State.locBytes (s : State) (p o n : Nat) : List Byte × Bool :=
  let b := s.localBlock p (o / 32 * 32) (n + o % 32)
  (b.1.drop (o % 32), b.2)

def State.locNum (s : State) (p o n : Nat) : Nat := ofLeBytes (s.locBytes p o n).1

/-- Bytes written unit by unit at a resting page; poison of a touched unit clears. -/
def State.putLoc (s : State) (p o : Nat) (l : List Byte) : State :=
  s.each (List.range (ceilDiv (o % 32 + l.length) 32)) fun s i =>
    let uo := o / 32 * 32 + 32 * i
    match s.locate p uo with
    | none => s
    | some u =>
      let old := sheafBytes (s.localUnit p uo).bits
      let new := (List.range 32).map fun j =>
        if o ≤ uo + j ∧ uo + j < o + l.length then l.getD (uo + j - o) 0 else old.getD j 0
      if u.rgn.kind = 4 then s.putHost (u.ent.loc / 65536 * 65536 + (uo - u.page * 65536)) new
      else if u.ent.st = .bay ∨ u.ent.st = .moveout then s.putFrameUnit p uo u ⟨sheafOfBytes new, false⟩
      else s

/-! ## The weight directory (R418) -/

/-- The local offset of a partition's weight directory; 0: none. -/
def State.wdir (s : State) (p : Nat) : Nat := s.fget (R.PT_WDIR p) F.PT_WDIR_ADDR * 65536 % 2 ^ 48

/-- The stripe of the running manifest that holds a page on this package: (stripe number, LAYER, another holder or the
reader). -/
def State.stripeOf (s : State) (p pg : Nat) : Option (Nat × Nat × Nat) :=
  let m := s.wdir p
  if m = 0 then none
  else
    (List.range (s.locNum p (m + 0x10) 4)).findSome? fun n =>
      let e := m + 0x40 + 64 * n
      let hs := (List.range (s.locNum p (e + 18) 2)).map fun i => m + s.locNum p (e + 20) 4 + 16 * i
      let own := hs.any fun h =>
        decide (s.locNum p h 2 % 4096 = s.pkgOwn) && decide (s.locNum p (h + 8) 8 % 2 ^ 48 ≤ pg * 65536) &&
          decide (pg * 65536 < s.locNum p (h + 8) 8 % 2 ^ 48 + s.locNum p (e + 4) 4)
      if own then
        let other := (hs.map fun h => s.locNum p h 2 % 4096).find? fun k => decide (k ≠ s.pkgOwn)
        some (n, s.locNum p e 1, other.getD (s.locNum p (e + 16) 2 % 4096))
      else none

/-- A weight key a partition holds under a KEYID (R479): its slot. -/
def State.wkSlot (s : State) (p keyid : Nat) : Option Nat :=
  (List.range 16).find? fun i => s.flag (R.SEC_WKEY p i) F.SEC_WKEY_VALID && decide (s.fget (R.SEC_WKEY p i) F.SEC_WKEY_KEYID = keyid)

/-- A re-fetch finds the page in the weight directory and its key still held (R319, R480). -/
def State.refetchable (s : State) (p pg : Nat) : Bool :=
  (s.stripeOf p pg).isSome && (s.wkSlot p (s.locNum p (s.wdir p + 0xC) 4)).isSome

def State.streamOf (s : State) (p : Nat) : Option Stream := spGet (fun _ => none) s.mem.streams p
def State.nlayer (s : State) (p : Nat) : Nat := s.locNum p (s.wdir p + 6) 2

/-- Layer `l` lies in the window of `w` layers from `l0`, cyclically over `n` layers (R321). -/
def inWindow (n l0 w l : Nat) : Bool := decide (l < n) && decide ((l + n - l0) % n < w)

/-! ## Moves (R316 to R321) -/

def State.moveOf (s : State) (pg : Nat) : Option Move := s.mem.moves.find? fun m => decide (m.page = pg)
def State.dropMove (s : State) (pg : Nat) : State :=
  { s with mem := { s.mem with moves := s.mem.moves.filter fun m => decide (m.page ≠ pg) } }
def State.putMove (s : State) (m : Move) : State :=
  { s with mem := { s.mem with moves := s.mem.moves.map fun x => if x.page = m.page then m else x } }
def State.addMove (s : State) (m : Move) : State := { s with mem := { s.mem with moves := s.mem.moves ++ [m] } }

/-- The outcome of the move that MV_CMD started (R345). -/
def State.mvResult (s : State) (m : Move) (res : Nat) : State :=
  if m.cmd then
    (s.fset (R.MV_CMD (m.die - 24)) F.MV_CMD_BUSY 0).fset (R.MV_CMD (m.die - 24)) F.MV_CMD_RESULT res
  else s

/-- A page outside Bay is asked for: a move-in waits for a slot (R312). A page that a weight load is writing needs none (R419). -/
def State.askMoveIn (s : State) (p : Nat) (u : UnitLoc) (why : MvWhy) : State :=
  match s.moveOf u.page with
  | some m => if m.running || m.kind != .moveIn then s else if why = .demand ∧ m.why ≠ .demand then
      (s.dropMove u.page).addMove { m with why := .demand } else s
  | none =>
    if u.ent.st = .movein then s
    else s.addMove ⟨u.page, u.home, p, why, .moveIn, u.ent.st, u.ent.loc, 0, false, false, false⟩

/-- Pages of a partition resting in Bay on a die, with their entries. -/
def State.bayPages (s : State) (p die : Nat) : List (Nat × UnitLoc) :=
  s.mem.map.filterMap fun e =>
    if e.2.st = .bay then
      match s.locate p (e.1 * 65536) with
      | some u => if u.home = die ∧ u.page = e.1 then some (e.1, u) else none
      | none => none
    else none

/-- The page lies in its partition's stream window. -/
def State.windowed (s : State) (p : Nat) (u : UnitLoc) : Bool :=
  match s.streamOf p, s.stripeOf p u.page with
  | some w, some (_, l, _) => u.rgn.kind == 1 && inWindow (s.nlayer p) w.l0 w.w l
  | _, _ => false

/-- The first entry with the least value of `f`. -/
def leastBy {α : Type} (f : α → Nat) : List α → Option α
  | [] => none
  | a :: r =>
    match leastBy f r with
    | some b => if f b < f a then some b else some a
    | none => some a

/-- A place for a page that the steward moves out on its own: Yard when guest frames are free in the slice, which only the
other packages know (a free value), and otherwise Cellar; the host frame or bus page is a free value too (R320, R339). -/
def State.pickAway (s : State) (p n : Nat) : Option (PgSt × Nat) × State :=
  let f := s.fresh
  let pkg := s.slice.find? fun k => decide (k ≠ s.pkgOwn)
  let g := f.2.fresh
  match pkg with
  | some k =>
    if f.1 % 2 = 1 ∧ s.quotaFits 28 p n then (some (.yard, k + g.1 % 2 ^ 32 * 4096), g.2)
    else if s.quotaFits 31 p n then (some (.cellar, g.1 % 2 ^ 48 * 65536), g.2) else (none, g.2)
  | none => if s.quotaFits 31 p n then (some (.cellar, g.1 % 2 ^ 48 * 65536), g.2) else (none, g.2)

/-- The steward moves out the partition's page with the least ACC on the die while a request waits on the quota; pages in the
window and pages in moves are left (R339). -/
def State.evict (s : State) (p die : Nat) : State :=
  if s.mem.moves.any fun m => decide (m.part = p ∧ m.die = die ∧ m.kind = .moveOut) then s
  else
    let c := (s.bayPages p die).filter fun x => decide (x.2.rgn.kind ≠ 4) && !s.windowed p x.2 && (s.moveOf x.1).isNone
    match leastBy (fun x => x.2.ent.acc) c with
    | none => s
    | some x =>
      let a := s.pickAway p (kindFrames x.2.rgn.kind)
      match a.1 with
      | none => a.2
      | some (st, loc) => a.2.addMove ⟨x.1, die, p, .command, .moveOut, st, loc, 0, false, false, false⟩

/-- The blocks beside the home die that a move's page data crosses: the link die toward the package that holds the page, or the steward
gateway for host memory (R316, R340). -/
def State.moveBlock (s : State) (m : Move) : Option Nat :=
  let pkg := if m.kind = .refetch then ((s.stripeOf m.part m.page).map fun x => x.2.2).getD 0 else m.loc % 4096
  match m.kind, m.st with
  | .retire, _ => none
  | _, .yard => (s.routeTo pkg).map fun r => 28 + r.1 / 12
  | _, .cellar => some 31
  | _, _ => none

/-- A move's page data charged to the partition's regulators at every block it crosses (R340). -/
def State.chargeMove (s : State) (m : Move) (n : Nat) : State :=
  let s := s.regTake m.die m.part (n * 65536)
  match s.moveBlock m with
  | some b => s.regTake b m.part (n * 65536)
  | none => s

/-- The move finds frames on its die and room in its partition's Bay quota (R318, R339). -/
def State.moveFits (s : State) (m : Move) (n : Nat) : Bool :=
  m.kind == .moveOut || ((s.freeRun m.die n).isSome && (m.kind != .moveIn || s.quotaFits m.die m.part n))

/-- A waiting move taken into a slot; none where it cannot start yet. -/
def State.tryMove (s : State) (m : Move) : Option State :=
  match s.locate m.part (m.page * 65536) with
  | none => none
  | some u =>
    let n := kindFrames u.rgn.kind
    let e := s.mapEnt m.page
    if ¬ s.moveFits m n then none
    else
      let f := (s.freeRun m.die n).getD 0
      let s := s.chargeMove m n
      match m.kind with
      | .moveOut => some ((s.setMapEnt m.page { e with st := .moveout }).putMove { m with running := true, frame := e.frame })
      | .moveIn =>
        let s := ((s.takeFrames m.die f n).quotaAdd m.die m.part n).setMapEnt m.page { e with st := .movein, frame := f }
        let s := s.putMove { m with running := true, frame := f }
        some (if m.st = .yard then s.guestAsk m.part m.loc n else s)
      | .refetch =>
        let s := s.takeFrames m.die f n
        let s := if e.st = .bay ∨ e.st = .moveout then s.dropFrames m.die e.frame n else s.quotaAdd m.die m.part n
        some ((s.setMapEnt m.page { e with st := .movein, frame := f, err := 0 }).putMove { m with running := true, frame := f })
      | .retire => some ((s.takeFrames m.die f n).putMove { m with running := true, frame := f })

def whyRank : MvWhy → Nat
  | .demand => 0
  | .stream => 1
  | .retire => 2
  | .command => 3

/-- A move-out whose destination has no room is refused (R339). -/
def State.refuseOut (s : State) (m : Move) : Bool :=
  match s.locate m.part (m.page * 65536) with
  | some u => m.kind == .moveOut && !s.quotaFits (tierDie m.st) m.part (kindFrames u.rgn.kind)
  | none => false

/-- The mover of a die takes the first waiting move of the first rank that can start, four at once (R316, R317). Moves that wait on the
quota set off the move-out of R339. -/
def State.moverStart (s : State) (die : Nat) : State :=
  let mine := s.mem.moves.filter fun m => decide (m.die = die)
  if 4 ≤ (mine.filter (·.running)).length then s
  else
    let wait := (List.range 4).flatMap fun r => mine.filter fun m => !m.running && decide (whyRank m.why = r)
    match wait.find? fun m => s.refuseOut m || (s.tryMove m).isSome with
    | some m =>
      if s.refuseOut m then (s.dropMove m.page).mvResult m 1
      else (s.tryMove m).getD s
    | none =>
      match wait.find? fun m => decide (m.kind = .moveIn) with
      | some m => s.evict m.part die
      | none => s

/-- The die's retired list has room for `n` frames (R336). -/
def State.retireRoom (s : State) (die n : Nat) : Bool := decide (s.fget (R.MEM_RET (die - 24)) F.MEM_RET_COUNT + n ≤ 4096)

/-- A page's frames entered on the die's retired list (R336). -/
def State.retireFrames (s : State) (die f n : Nat) : State :=
  let s := { s with mem := { s.mem with retired := s.mem.retired ++ (List.range n).map fun i => (die, f + i) } }
  let s := s.fadd (R.MEM_RET (die - 24)) F.MEM_RET_COUNT n
  match s.chanOf die (f * 65536) with
  | some c => s.dieCnt die (R.CH_ERR c) F.CH_ERR_RETIRED n
  | none => s

/-- A running move ends (R318, R336). A retirement that finds the list full by now leaves its page where it is. -/
def State.moveEnd (s : State) (m : Move) : State :=
  match s.locate m.part (m.page * 65536) with
  | none => s.dropMove m.page
  | some u =>
    let n := kindFrames u.rgn.kind
    let e := s.mapEnt m.page
    let s := (s.dropMove m.page).mvResult m 0
    match m.kind with
    | .moveIn =>
      let s := s.copyIn m.page m.die m.frame n
      let s := if e.loc ≠ 0 ∧ (s.streamOf m.part).isNone then s.quotaSub (tierDie m.st) m.part n else s
      s.setMapEnt m.page { e with st := .bay, err := 0 }
    | .refetch => (s.weightIn m.part m.page u.rgn.enc e.gen m.die m.frame n).setMapEnt m.page { e with st := .bay, err := 0 }
    | .retire =>
      if ¬ s.retireRoom m.die n then (s.dropFrames m.die m.frame n).fset (R.MEM_RET (m.die - 24)) F.MEM_RET_FULL 1
      else
        let s := s.copyOut m.page m.die e.frame n
        let s := s.copyIn m.page m.die m.frame n
        let s := s.retireFrames m.die e.frame n
        s.setMapEnt m.page { e with frame := m.frame, err := 0 }
    | .moveOut =>
      let s := if m.st = .cellar then s.hostOut m.part m.page u.rgn.enc e.gen m.die e.frame n m.loc
        else s.guestOut m.part m.page u.rgn.enc e.gen m.die e.frame n m.loc
      let s := s.dropFrames m.die e.frame n
      let s := s.quotaSub m.die m.part n
      let s := s.quotaAdd (tierDie m.st) m.part n
      s.setMapEnt m.page { e with st := m.st, frame := 0, loc := m.loc }

/-- The data of a move-in as it reaches its home die: a page from host memory brings what the host frame holds (R316). -/
def State.moveData (s : State) (m : Move) : State :=
  match s.locate m.part (m.page * 65536) with
  | some u => if m.kind = .moveIn ∧ m.st = .cellar then s.hostIn m.page (kindFrames u.rgn.kind) m.loc else s
  | none => s

/-- Page data that returned from guest frames of package `n`: it belongs to the move that brings those frames' page in (R316, R385). -/
def State.guestBack (s : State) (n a : Nat) (us : List SheafBits) : State :=
  let fr := a / 65536
  let hit := s.mem.moves.find? fun m =>
    m.running && m.kind == .moveIn && m.st == .yard && decide (m.loc % 4096 = n) && decide (m.loc / 4096 ≤ fr) &&
      (match s.locate m.part (m.page * 65536) with
        | some u => decide (fr < m.loc / 4096 + kindFrames u.rgn.kind)
        | none => false)
  match hit with
  | none => s
  | some m =>
    s.each (List.range us.length) fun s i =>
      let o := (fr - m.loc / 4096) * 65536 + a % 65536 + 32 * i
      s.awayUnit (awayKey m.page + o / 64) (o / 32 % 2) (us.getD i 0)

/-- The data passes the tag check at the home die (R319). -/
def State.moveSound (s : State) (m : Move) : Bool :=
  match s.locate m.part (m.page * 65536) with
  | some u => m.kind != .moveIn || s.awayOk m.part m.page u.rgn.enc (s.mapEnt m.page).gen (kindFrames u.rgn.kind)
  | none => true

/-- A store accepted during a move-out cancels it (R312, R318). -/
def State.cancelOut (s : State) (pg : Nat) : State :=
  match s.moveOf pg with
  | some m => if m.kind = .moveOut then
      ((s.dropMove pg).mvResult m 3).setMapEnt pg { s.mapEnt pg with st := .bay } else s
  | none => s

/-! ## Page errors (R334 to R336) -/

/-- A page lost: its frames freed, the steward told (R319). -/
def State.pageLost (s : State) (p die pg frame n : Nat) : State :=
  let s := (s.dropFrames die frame n).quotaSub die p n
  (s.setMapEnt pg { s.mapEnt pg with st := .lost, frame := 0, loc := 0 }).plainRep 5 (some p) (dieIsland die) (pg * 65536) pg

/-- ERR of a page grows; at RETTHR its frames retire: any page but a weight page moves to new frames, a weight page is fetched again, and
is LOST where its key is no longer held (R480). -/
def State.pageErr (s : State) (p : Nat) (u : UnitLoc) (n : Nat) : State :=
  let e := s.mapEnt u.page
  let er := min 255 (e.err + n)
  let s := s.setMapEnt u.page { e with err := er }
  let m := u.home - 24
  if er < s.fget (R.MEM_CTL m) F.MEM_CTL_RETTHR ∨ (s.moveOf u.page).isSome then s
  else if ¬ s.retireRoom u.home (kindFrames u.rgn.kind) then s.fset (R.MEM_RET m) F.MEM_RET_FULL 1
  else if u.rgn.kind = 1 then
    let s := s.retireFrames u.home e.frame 32
    if s.refetchable p u.page then s.addMove ⟨u.page, u.home, p, .retire, .refetch, .yard, e.loc, 0, false, false, false⟩
    else s.pageLost p u.home u.page e.frame 32
  else s.addMove ⟨u.page, u.home, p, .retire, .retire, .bay, 0, 0, false, false, false⟩

/-- A read of a burst is repeated under R334: it fails its checks, or `bad` reads of it fail before one passes, and it is not stale. -/
def State.rereads (s : State) (p : Nat) (u : UnitLoc) (o bad : Nat) : Bool :=
  match (s.readBurst p u.rgn.enc (s.globalAddr (o / 64 * 64)) u.ent.gen u.home (u.phys o / 64 * 64)).1 with
  | .stale => false
  | .ok => decide (bad ≠ 0)
  | _ => true

/-- A burst read under R334 and R335: `bad` reads of it fail before one passes. Answers its two sheaves. -/
def State.checkBurst (s : State) (p : Nat) (u : UnitLoc) (o bad : Nat) : State × Sheaf × Sheaf :=
  let f := u.phys o / 64 * 64
  let r := s.readBurst p u.rgn.enc (s.globalAddr (o / 64 * 64)) u.ent.gen u.home f
  let cnt (s : State) (fl : Fld) : State :=
    match s.chanOf u.home f with
    | some c => s.dieCnt u.home (R.CH_ERR c) fl 1
    | none => s
  let fail : State × Sheaf × Sheaf :=
    (((cnt s F.CH_ERR_POISONED).plainRep 5 (some p) (dieIsland u.home) o u.page).pageErr p u 16, poisonSheaf, poisonSheaf)
  if s.secErr ∧ u.rgn.enc then (s, poisonSheaf, poisonSheaf)
  else
    match r.1 with
    | .stale => ((cnt s F.CH_ERR_STALEGEN).secEvent .stale, poisonSheaf, poisonSheaf)
    | .ok => if bad = 0 then (s, r.2) else if bad ≤ 3 then ((cnt s F.CH_ERR_RECOVERED).pageErr p u 1, r.2) else fail
    | _ => fail

/-- What the checks of R334 and R335 set off where the bytes `[o, o + n)` of local space are read outside a gateway's queue: by a fetcher
or by the steward. The values read are those of `localUnit`. -/
def State.readTouch (s : State) (p o n : Nat) : State :=
  s.each (List.range (ceilDiv (o % 64 + n) 64)) fun s i =>
    let a := o / 64 * 64 + 64 * i
    match s.locate p a with
    | none => s
    | some u => if u.rgn.kind ≠ 4 ∧ (u.ent.st = .bay ∨ u.ent.st = .moveout) then (s.checkBurst p u a 0).1 else s

/-- The steward reads the byte ranges `l` (offset and length) of local space under R334 and R335, then goes on with `f`; a part that a stale
burst zeroised does no more. -/
def State.readThen (s : State) (p : Nat) (l : List (Nat × Nat)) (f : State → State) : State :=
  let t := s.each l fun s x => s.readTouch p x.1 x.2
  if t.fwif = 0 then t else f t

/-- A command that reads `n` bytes at `o` of local space once its own checks `gs` pass: the reads meet R334 and R335, and a part that a
stale burst zeroised does no more. The refusals `rs` are told from the bytes read. -/
def State.cmdRead (s : State) (gs : List (Bool × Reply)) (p o n : Nat) (rs : List (Bool × Reply)) (f : State → State × Reply) : State × Reply :=
  s.cmd gs fun s =>
    let t := s.readTouch p o n
    if t.fwif = 0 then (t, .ok []) else t.cmd rs f

/-! ## The stream window (R321) -/

/-- The weight pages of a partition with their layers, from the map. -/
def State.weightPages (s : State) (p : Nat) : List (UnitLoc × Nat) :=
  s.mem.map.filterMap fun e =>
    match s.locate p (e.1 * 65536) with
    | some u =>
      if u.rgn.kind = 1 ∧ u.page = e.1 then (s.stripeOf p e.1).map fun x => (u, x.2.1) else none
    | none => none

/-- A local copy dropped: the page returns to Yard with no data written back. A page that has no place in Yard yet keeps its copy there
(DESIGN CHOICE, log entry 91). -/
def State.dropCopy (s : State) (p : Nat) (u : UnitLoc) : State :=
  let e := s.mapEnt u.page
  if e.st ≠ .bay ∨ (s.moveOf u.page).isSome then s
  else
    let s := if e.loc = 0 then s.copyOut u.page u.home e.frame 32 else s
    let s := (s.dropFrames u.home e.frame 32).quotaSub u.home p 32
    if e.loc ≠ 0 then s.setMapEnt u.page { e with st := .yard, frame := 0 }
    else
      let f := s.fresh
      let h := ((f.2.stripeOf p u.page).map fun x => x.2.2).getD 0
      f.2.setMapEnt u.page { e with st := .yard, frame := 0, loc := h + f.1 % 2 ^ 32 * 4096 }

/-- The window set to begin at layer `l0`: leaving layers drop their copies, entering layers are fetched. -/
def State.setWindow (s : State) (p : Nat) (w : Stream) : State :=
  let n := s.nlayer p
  let pages := s.weightPages p
  let s := { s with mem := { s.mem with streams := spPut (fun _ => none) s.mem.streams p (some w) } }
  let s := s.each (pages.filter fun x => decide (x.2 < n) && !inWindow n w.l0 w.w x.2) fun s x => s.dropCopy p x.1
  s.each (pages.filter fun x => inWindow n w.l0 w.w x.2) fun s x =>
    if (s.mapEnt x.1.page).st = .yard then s.askMoveIn p { x.1 with ent := s.mapEnt x.1.page } .stream else s

/-- The first request for a page of a later layer of the window moves the window on to it. -/
def State.advanceWindow (s : State) (p : Nat) (u : UnitLoc) : State :=
  match s.streamOf p with
  | none => s
  | some w =>
    if u.rgn.kind ≠ 1 then s
    else
      match s.stripeOf p u.page with
      | some (_, l, _) => if l ≠ w.l0 ∧ inWindow (s.nlayer p) w.l0 w.w l then s.setWindow p { w with l0 := l } else s
      | none => s

/-! ## Accumulator blocks as bytes, and contributions (R48, R49) -/

/-- A contribution as it travels in units (log entry 12): an info unit (byte 0: 0 a block of 32-bit values, 1 of 48-bit values,
2 single elements; byte 1: the target's A48; bytes 4 to 7: the source's exponent word), then the values: 4 bytes each, a 48-bit value 8 bytes; a single
element is 32 bits, its value in [23:0] and its exponent in [31:24]. -/
def contribInfo (kind : Nat) (tgt48 : Bool) (word : Nat) : SheafBits :=
  BitVec.ofNat 256 (kind + 256 * bit tgt48 + 2 ^ 32 * (word % 2 ^ 32))

def chunks {α : Type} (n : Nat) : Nat → List α → List (List α)
  | 0, _ => []
  | k + 1, l => l.take n :: chunks n k (l.drop n)

def unitsOfBytes (l : List Byte) : List SheafBits :=
  (chunks 32 (ceilDiv l.length 32) l).map sheafOfBytes

def accValsOf (a48 : Bool) (l : List Byte) : List Int :=
  (chunks (accValBytes a48) 128 l).map fun b => sext (8 * accValBytes a48) (ofLeBytes b)

def accValsBytes (a48 : Bool) (v : List Int) : List Byte :=
  v.flatMap fun z => leBytes (accValBytes a48) (toField (8 * accValBytes a48) z)

/-- An accumulator block from its value bytes and its exponent word. -/
def accOf (a48 : Bool) (l : List Byte) (word : Nat) : AccBlock :=
  { vals := accValsOf a48 l, x := sext 16 word, inx := word.testBit 16, sat := word.testBit 17, psn := word.testBit 18, a48 := a48 }

/-- What a contribution's units say: the elements with their exponents. -/
def contribElems (us : List SheafBits) : List (Int × Int) :=
  match us with
  | [] => []
  | info :: d =>
    let b := d.flatMap sheafBytes
    let word := bitsOf info.toNat 63 32
    match bitsOf info.toNat 7 0 with
    | 0 => (accValsOf false b).map fun v => (v, sext 16 word)
    | 1 => (chunks 8 128 b).map fun e => (sext 48 (ofLeBytes e), sext 16 word)
    | _ => (chunks 4 128 b).map fun e => (sext 24 (ofLeBytes e), sext 8 (ofLeBytes e / 2 ^ 24))

/-- The source block itself stands poisoned in its exponent word. -/
def contribPsn (us : List SheafBits) : Bool :=
  match us with
  | [] => false
  | info :: _ => decide (bitsOf info.toNat 7 0 < 2) && info.toNat.testBit (32 + 18)

def contribTgt48 (us : List SheafBits) : Bool :=
  match us with
  | [] => false
  | info :: _ => info.toNat.testBit 8

/-- A contribution added into a target block (R49); a poisoned unit or source poisons the target. -/
def accApply (t : AccBlock) (us : List SheafBits) (psn : Bool) : AccBlock :=
  let r := accAddAt t 0 (contribElems us)
  { r with psn := r.psn || psn || contribPsn us }

/-- Where the units of an accumulator block of a MEM target lie (R144): `first` of them in the run they begin in, then runs of `run`
(25 stands for every longer one), `jump` bytes from the first run's start, or from the block where the run is longer, to the next. -/
structure AccRunGeo where
  first : Nat
  run : Nat
  jump : Nat
deriving DecidableEq, Repr

/-- A block that lies in one run. -/
def AccRunGeo.flat : AccRunGeo := ⟨24, 25, 0⟩

/-- The geometry and the exponent word's offset in TPLACE of an ACCSTORE request unit (log entry 12). -/
def AccRunGeo.bits (x : AccRunGeo) (ew : Int) : Nat :=
  (ew % (2 ^ 48 : Nat)).toNat + x.first * 2 ^ 48 + x.run * 2 ^ 53 + x.jump * 2 ^ 64
def accRunGeo (v : Nat) : AccRunGeo := ⟨bitsOf v 52 48, bitsOf v 57 53, bitsOf v 111 64⟩

/-- The offset of unit `i` of a block that begins at offset `o`. -/
def AccRunGeo.unit (x : AccRunGeo) (o i : Nat) : Nat :=
  if i < x.first then o + 32 * i
  else
    let j := i - x.first
    let pos := if x.run ≤ 24 then x.run - x.first else 0
    (((o : Int) - 32 * pos + x.jump * (1 + j / x.run : Nat) + 32 * (j % x.run : Nat)) % (2 ^ 48 : Nat)).toNat

/-! ## Atomics on one lane (R157) -/

/-- The operand unit of an ATOM (log entry 12): bytes 0 to 7 lane 0, 8 to 15 lane 1, byte 16 the operation, byte 17 one for
64-bit lanes. Answers the new value. -/
def atomApply (op : Nat) (w64 : Bool) (old a c : Nat) : Nat :=
  let w := if w64 then 64 else 32
  let o := sext w old
  let x := sext w a
  match op with
  | 0 => (old + a) % 2 ^ w
  | 1 => if x < o then a % 2 ^ w else old
  | 2 => if o < x then a % 2 ^ w else old
  | 3 => a % 2 ^ w
  | _ => if old = c % 2 ^ w then a % 2 ^ w else old

/-- The value returned and the unit to write back, where the word begins at bit `sh` of the unit. -/
def atomAt (opnd : SheafBits) (old : SheafBits) (sh : Nat) : SheafBits × SheafBits :=
  let w := if opnd.toNat.testBit 136 then 64 else 32
  let ov := old.toNat / 2 ^ sh % 2 ^ w
  let nv := atomApply (bitsOf opnd.toNat 135 128) (opnd.toNat.testBit 136) ov (bitsOf opnd.toNat 63 0 % 2 ^ w) (bitsOf opnd.toNat 127 64 % 2 ^ w)
  (BitVec.ofNat 256 ov, BitVec.ofNat 256 (old.toNat / 2 ^ (sh + w) * 2 ^ (sh + w) + nv * 2 ^ sh + old.toNat % 2 ^ sh))

/-! ## One unit of a request at its home gateway (R309 to R313, R322) -/

inductive UnitOut where
  | got (x : Sheaf)
  | wait (w : StallWhy)
deriving DecidableEq, Repr

/-- What is done to a unit: read, or replaced by what a function makes of what it held; `lone` marks a store that covers one
sheaf of its burst and so reads it (R333). -/
inductive UnitDo where
  | load
  | store (x : Sheaf) (lone : Bool)
deriving DecidableEq, Repr

/-- A cleared page allocated in frames: GEN advances (R332). None where quota or frames are short. -/
def State.allocPage (s : State) (p : Nat) (u : UnitLoc) : Option State :=
  let n := kindFrames u.rgn.kind
  if ¬ s.quotaFits u.home p n then none
  else
    match s.freeRun u.home n with
    | none => none
    | some f =>
      let e := s.mapEnt u.page
      let s := (s.takeFrames u.home f n).clearFrames u.home f n
      let s := s.quotaAdd u.home p n
      some (s.setMapEnt u.page { e with st := .bay, frame := f, gen := (e.gen + 1) % 65536, acc := 0, err := 0, loc := 0, idle := 0 })

/-- Two sheaves' store into a resting page's burst, checked as a read-modify-write where it covers one (R333). -/
def State.storeUnit (s : State) (p o : Nat) (u : UnitLoc) (x : Sheaf) (lone : Bool) (bad : Nat) : State :=
  let ga := s.globalAddr (o / 64 * 64)
  let f := u.phys o / 64 * 64
  let r := if lone then s.checkBurst p u o bad else (s, (s.readBurst p u.rgn.enc ga u.ent.gen u.home f).2)
  let b := if o % 64 < 32 then s.makeBurst p u.rgn.enc ga u.ent.gen u.home f x r.2.2
    else s.makeBurst p u.rgn.enc ga u.ent.gen u.home f r.2.1 x
  r.1.setBurst (burstKey u.home f) (some b)

/-- A store that is discarded: to a read-only weight page (R322), or to an encrypted region while the security module is in its error state. -/
def State.dropsStore (s : State) (p : Nat) (u : UnitLoc) : Bool :=
  (decide (u.rgn.kind = 1) && u.rgn.stream && (s.streamOf p).isSome) || (s.secErr && u.rgn.enc)

/-- What a request that must read or write the unit at `o` meets at gateway die `D` before it can be served (R311 to R313): the state of its
page, with what the meeting sets off, and the cause of the wait where it waits. A HOST page's host answers now or is waited on: a
free draw decides (log entry 2). -/
def State.meet (s : State) (D p o : Nat) (ld st : Bool) : State × Option StallWhy :=
  match s.locateAt D p o with
  | none => (s, none)
  | some u =>
    if u.home ≠ D then (s, none)
    else if u.rgn.kind = 4 then let f := s.fresh; (f.2, if f.1 % 2 = 1 then some .cellar else none)
    else if ¬ s.mem.cached.contains (D, u.page) then (s, some .mapRead)
    else if ¬ ld ∧ s.dropsStore p u then (s, none)
    else
      let s := s.advanceWindow p u
      let u := { u with ent := s.mapEnt u.page }
      match u.ent.st with
      | .bay | .moveout | .lost => (s, none)
      | .absent =>
        if ¬ st ∨ s.dropsStore p u then (s, none)
        else
          match s.allocPage p u with
          | some t => (t, none)
          | none => (s.evict p u.home, some .quota)
      | _ =>
        let away (m : Move) : PgSt := if u.ent.st = .movein then m.st else u.ent.st
        let s := s.askMoveIn p u .demand
        match s.moveOf u.page with
        | none => (s, some (if u.ent.st = .cellar then .cellar else .yard))
        | some m =>
          (s, some (if ¬ m.running ∧ ¬ s.moveFits m (kindFrames u.rgn.kind) then .quota
            else if away m = .cellar then .cellar else if m.retried then .yardfail else .yard))

/-- One unit read or stored at gateway die `D`, where it need not wait; `bad` reads of its burst fail first. -/
def State.apply (s : State) (D p o bad : Nat) (act : UnitDo) : State × Sheaf :=
  match s.locateAt D p o with
  | none => (s.misroute D p o, poisonSheaf)
  | some u =>
    if u.home ≠ D then (s.misroute D p o, poisonSheaf)
    else if u.rgn.kind = 4 then
      let a := u.ent.loc / 65536 * 65536 + (o - u.page * 65536)
      match act with
      | .load => (s, ⟨sheafOfBytes (s.hostBytes a 32), false⟩)
      | .store x _ => (s.putHost a (sheafBytes x.bits), x)
    else
      match act, u.ent.st with
      | .load, .bay | .load, .moveout => let r := s.checkBurst p u o bad; (r.1, if o % 64 < 32 then r.2.1 else r.2.2)
      | .load, .absent => (s, zeroSheaf)
      | .load, _ => (s, poisonSheaf)
      | .store x lone, st =>
        if s.dropsStore p u then
          let s := s.misrouteCnt D p
          (if s.secErr ∧ u.rgn.enc then s else s.plainRep 5 (some p) (dieIsland D) o u.page, x)
        else
          match st with
          | .bay => (s.storeUnit p o u x lone bad, x)
          | .moveout => ((s.cancelOut u.page).storeUnit p o u x lone bad, x)
          | .lost => (s.misrouteCnt D p, x)
          | _ => (s, x)

/-- One unit of local space served at gateway die `D` for partition `p` (R309 to R313); `bad` reads of its burst fail first. -/
def State.serveUnit (s : State) (D p o bad : Nat) (act : UnitDo) : State × UnitOut :=
  let m := s.meet D p o (act == .load) (act != .load)
  match m.2 with
  | some w => (m.1, .wait w)
  | none => let r := m.1.apply D p o bad act; (r.1, .got r.2)

/-- The first of several units that must wait, met one after another. -/
def State.meetAll (s : State) (D p : Nat) (ld st : Bool) : List Nat → State × Option StallWhy
  | [] => (s, none)
  | o :: rest =>
    let m := s.meet D p o ld st
    match m.2 with
    | some w => (m.1, some w)
    | none => m.1.meetAll D p ld st rest

end Sys2Proof.Machine
end

