-- ==== Sys2Proof/Machine/Gw.lean ====
section
/-! DEFINITION. Gateways (R216, R227 to R230): ingress, acceptance into reorder queues, the service of accepted requests,
presentation in acceptance order, and the bound. -/

namespace Sys2Proof.Machine

/-! ## Router inputs and outputs, by die index -/

def inKey (d r i : Nat) : Nat := (d * 8 + r) * 64 + i
def outKey (d r o : Nat) : Nat := (d * 8 + r) * 32 + o

def State.inq (s : State) (k : Nat) : List BUnit := spGet (fun _ => []) s.net.inq k
def State.setInq (s : State) (k : Nat) (l : List BUnit) : State :=
  { s with net := { s.net with inq := spPut (fun _ => []) s.net.inq k l } }

/-! ## Gateways, numbered 0 to 3 for the memory dies, 4 to 6 for the link dies, 7 for the steward -/

def gwDie (d : Nat) : Nat := 24 + d
def State.gw (s : State) (d : Nat) : GwSt := spGet (fun _ => GwSt.idle) s.gws d
def State.setGw (s : State) (d : Nat) (x : GwSt) : State :=
  { s with gws := spPut (fun _ => GwSt.idle) s.gws d x }
def State.ingress (s : State) (d port : Nat) : List (Nat × BUnit) := spGet (fun _ => []) (s.gw d).ingress port
def State.setIngress (s : State) (d port : Nat) (l : List (Nat × BUnit)) : State :=
  s.setGw d { s.gw d with ingress := spPut (fun _ => []) (s.gw d).ingress port l }

/-- The storage of R227, in units. -/
def gwStorage (d : Nat) : Nat := if d < 4 then 49152 else if d < 7 then 24576 else 8192

def State.qUsed (s : State) (d q : Nat) : Nat := s.fget (R.GW_QCFG (gwDie d) q) F.GW_QCFG_USED
def State.qAdd (s : State) (d q n : Nat) : State := s.fset (R.GW_QCFG (gwDie d) q) F.GW_QCFG_USED (s.qUsed d q + n)
def State.qSub (s : State) (d q n : Nat) : State := s.fset (R.GW_QCFG (gwDie d) q) F.GW_QCFG_USED (s.qUsed d q - n)

/-! ## The request unit (R216) -/

structure ReqUnit where
  addr : Nat
  count : Nat
  op : Nat
  lastReq : Bool
  part : Nat
  tpkg : Nat
  ttile : Nat
  tplace : Nat
deriving DecidableEq, Repr

def reqOf (u : SheafBits) : ReqUnit :=
  let v := u.toNat
  { addr := bitsOf v 63 0, count := bitsOf v 79 64, op := bitsOf v 87 80, lastReq := v.testBit 88, part := bitsOf v 95 92,
    tpkg := bitsOf v 111 96, ttile := bitsOf v 127 112, tplace := bitsOf v 255 128 }

def reqBits (r : ReqUnit) : SheafBits :=
  BitVec.ofNat 256 (r.addr % 2 ^ 64 + r.count % 2 ^ 16 * 2 ^ 64 + r.op % 256 * 2 ^ 80 + bit r.lastReq * 2 ^ 88 +
    r.part % 16 * 2 ^ 92 + r.tpkg % 2 ^ 16 * 2 ^ 96 + r.ttile % 2 ^ 16 * 2 ^ 112 + r.tplace % 2 ^ 128 * 2 ^ 128)

/-- A placement header (R215). -/
def placeHdr (count loft acnt : Nat) (acc : Bool) (expw : Nat) : SheafBits :=
  BitVec.ofNat 256 (count % 2 ^ 32 + loft % 2 ^ 32 * 2 ^ 32 + acnt % 256 * 2 ^ 64 + bit acc * 2 ^ 72 + expw % 2 ^ 32 * 2 ^ 80)

/-- Data units that follow a request unit. -/
def ReqUnit.dataUnits (r : ReqUnit) : Nat :=
  if r.op = 2 ∨ r.op = 4 then r.count else if r.op = 5 then 1 else 0

/-- Units a request returns into its queue; a store returns none. -/
def ReqUnit.returns (r : ReqUnit) : Nat :=
  if r.op = 1 ∨ r.op = 3 then r.count else if r.op = 5 then 1 else 0

/-- The progress marks of an accepted request: one for each unit it returns or stores, one for an accumulate-store. -/
def ReqUnit.marks (r : ReqUnit) : Nat :=
  if r.op = 4 ∨ r.op = 5 then 1 else r.count

/-- The local offset of an address that names this package, if it does (R374). -/
def State.localOff (s : State) (a : Nat) : Option Nat :=
  let sp := a / 2 ^ 62
  if bitsOf a 49 48 ≠ 0 then none
  else if sp = 0 ∧ bitsOf a 61 50 = 0 then some (a % 2 ^ 48)
  else if sp = 1 ∧ bitsOf a 61 50 = s.pkgOwn then some (a % 2 ^ 48)
  else none

/-! ## Service (R309 to R314) -/

/-- The offsets that an accumulate-store reaches: its block's units in run order, then its exponent word's unit (R144, R157). -/
def GwReq.accOffs (r : GwReq) (o : Nat) : List Nat :=
  let geo := accRunGeo r.tplace
  let n := accBytes (contribTgt48 (r.data.map (·.data))) / 32
  ((List.range n).map fun i => geo.unit o i) ++ [r.tplace % 2 ^ 48 / 32 * 32]

/-- The offsets of the units that progress mark `i` of a request stands for. -/
def State.markOffs (s : State) (r : GwReq) (i : Nat) : List Nat :=
  match s.localOff r.addr with
  | none => []
  | some o => if r.op = 4 then r.accOffs o else if r.op = 5 then [o / 32 * 32] else [o + 32 * i]

/-- The pages that mark `i` of a request at gateway `d` waits on, of those homed there. -/
def State.markPages (s : State) (d : Nat) (r : GwReq) (i : Nat) : List Nat :=
  (s.markOffs r i).filterMap fun o =>
    match s.locateAt (gwDie d) r.part o with
    | some u => if u.home = gwDie d then some u.page else none
    | none => none

/-- The pages that a request reaches, each once. -/
def State.reqPages (s : State) (d : Nat) (r : GwReq) : List Nat :=
  ((List.range r.units.length).flatMap fun i => s.markPages d r i).eraseDups

/-- A request has a mark outstanding on one of the pages. -/
def State.reqOnPages (s : State) (d : Nat) (r : GwReq) (pgs : List Nat) : Bool :=
  (List.range r.units.length).any fun i => (r.units.getD i none).isNone && (s.markPages d r i).any fun pg => pgs.contains pg

/-- Units read one after another. -/
def State.applyLoads (s : State) (D p bad : Nat) : List Nat → State × List Sheaf
  | [] => (s, [])
  | o :: rest =>
    let a := s.apply D p o bad .load
    let b := a.1.applyLoads D p bad rest
    (b.1, a.2 :: b.2)

/-- Units stored one after another; a misrouted one was counted when it was read. -/
def State.applyStores (s : State) (D p : Nat) (l : List (Nat × Sheaf)) : State :=
  s.each l fun s x => if s.misrouted D p x.1 then s else (s.apply D p x.1 0 (.store x.2 true)).1

/-- Units read, changed and written back at one time, once none of them need wait; `f` answers the new contents and the result. -/
def State.serveUpdate (s : State) (D p bad : Nat) (offs : List Nat) (f : List Sheaf → List Sheaf × Sheaf) : State × UnitOut :=
  let m := s.meetAll D p true true offs
  match m.2 with
  | some w => (m.1, .wait w)
  | none =>
    let l := m.1.applyLoads D p bad offs
    let r := f l.2
    (l.1.applyStores D p (offs.zip r.1), .got r.2)

/-- An accumulate-store's block, exponent word and contribution (R49, R157). -/
def GwReq.accUpdate (r : GwReq) (xs : List Sheaf) : List Sheaf × Sheaf :=
  let us := r.data.map (·.data)
  let a48 := contribTgt48 us
  let n := accBytes a48 / 32
  let e := r.tplace % 32
  let blk := (xs.take n).flatMap fun x => sheafBytes x.bits
  let wu := xs.getD n zeroSheaf
  let wb := sheafBytes wu.bits
  let t := accApply (accOf a48 blk (ofLeBytes ((wb.drop e).take 4))) us (r.data.any (·.psn) || xs.any (·.psn))
  let nw := sheafOfBytes (wb.take e ++ leBytes 4 (accWord t) ++ wb.drop (e + 4))
  (((unitsOfBytes (accValsBytes a48 t.vals)).map fun b => Sheaf.mk b false) ++ [Sheaf.mk nw wu.psn], zeroSheaf)

/-- An atomic on the word at offset `o`, with its operand unit (R157): the unit written back and the value returned. -/
def atomUpdate (opnd : SheafBits) (o : Nat) (xs : List Sheaf) : List Sheaf × Sheaf :=
  let x := xs.getD 0 poisonSheaf
  let y := atomAt opnd x.bits (8 * (o % 32))
  ([⟨y.2, x.psn⟩], ⟨y.1, x.psn⟩)

/-- Unit `i` of a store covers one sheaf of its burst alone, so that the burst is read first (R333). -/
def GwReq.lone (r : GwReq) (o i : Nat) : Bool :=
  if (o + 32 * i) % 64 < 32 then decide (r.count ≤ i + 1) else decide (i = 0)

/-- Mark `i` of a request tried once; `bad` reads of its burst fail first. -/
def State.serveMark (s : State) (D : Nat) (r : GwReq) (i bad : Nat) : State × UnitOut :=
  match s.localOff r.addr with
  | none => (s.misroute D r.part r.addr, .got poisonSheaf)
  | some o =>
    match r.op with
    | 2 =>
      let x := r.data.getD i ⟨.req, false, false, false, zeroBits, 0⟩
      s.serveUnit D r.part (o + 32 * i) bad (.store ⟨x.data, x.psn⟩ (r.lone o i))
    | 4 => s.serveUpdate D r.part bad (r.accOffs o) r.accUpdate
    | 5 => s.serveUpdate D r.part bad [o / 32 * 32] (atomUpdate ((r.data.head?.map (·.data)).getD 0) o)
    | _ => s.serveUnit D r.part (o + 32 * i) bad .load

/-- The request with a number at a gateway. -/
def State.req (s : State) (d id : Nat) : Option GwReq := (s.gw d).reqs.find? fun r => decide (r.id = id)
def State.putReq (s : State) (d : Nat) (r : GwReq) : State :=
  s.setGw d { s.gw d with reqs := (s.gw d).reqs.map fun x => if x.id = r.id then r else x }
def State.dropReq (s : State) (d id : Nat) : State :=
  s.setGw d { s.gw d with reqs := (s.gw d).reqs.filter fun x => decide (x.id ≠ id) }

/-- An earlier request of the gateway still waits on one of the pages (R318: waiters proceed in the order of acceptance). -/
def State.heldBehind (s : State) (d id : Nat) (pgs : List Nat) : Bool :=
  ((s.gw d).reqs.takeWhile fun x => decide (x.id ≠ id)).any fun x => s.reqOnPages d x pgs

/-- The request heads its queue. -/
def State.heads (s : State) (d : Nat) (r : GwReq) : Bool :=
  match (s.gw d).reqs.find? fun x => decide (x.queue = r.queue) with
  | some x => decide (x.id = r.id)
  | none => false

/-- A read of mark `i` of a request is repeated (R334). -/
def State.markRereads (s : State) (d : Nat) (r : GwReq) (i bad : Nat) : Bool :=
  (s.markOffs r i).any fun o =>
    (decide (r.op ≠ 2) || r.lone (o - 32 * i) i) &&
    match s.locateAt (gwDie d) r.part o with
    | some u => decide (u.home = gwDie d) && decide (u.rgn.kind ≠ 4) && (u.ent.st == .bay || u.ent.st == .moveout) && s.rereads r.part u o bad
    | none => false

/-- One mark of a request tried unless it already stands, an earlier request waits on its pages, or its request expired. Answers what
the request waits on: its page, or the re-reads of its burst. -/
def State.tryMark (s : State) (d id i bad : Nat) : State × Option StallWhy :=
  match s.req d id with
  | none => (s, none)
  | some r =>
    if r.expired ∨ r.units.length ≤ i ∨ (r.units.getD i none).isSome then (s, none)
    else if s.heldBehind d id (s.markPages d r i) then (s, none)
    else
      let again := s.markRereads d r i bad
      let a := s.serveMark (gwDie d) r i bad
      match a.2 with
      | .wait w => (a.1, some w)
      | .got x => (a.1.putReq d { r with units := r.units.set i (some x) }, if again then some .reread else none)

/-- The cause that stands first in R338's order. -/
def firstCause : Option StallWhy → Option StallWhy → Option StallWhy
  | some a, some b => if b.rank < a.rank then some b else some a
  | some a, none => some a
  | none, b => b

/-- One network cycle's held count of a request (R338): all causes but QUOTA count where it heads its queue. -/
def State.countWait (s : State) (d : Nat) (r : GwReq) (head : Bool) (w : Option StallWhy) : State :=
  match w with
  | none => s
  | some w => if w = .quota ∨ head then s.stall (gwDie d) r.part w else s

/-- The network cycles that a request which heads its queue waits on refreshing banks: only the channel knows them (R327, R338; a free
count, log entry 2). -/
def State.refreshWait (s : State) (d : Nat) (r : GwReq) : State :=
  if d < 4 ∧ s.heads d r ∧ (s.reqPages d r).any fun pg => decide ((s.mapEnt pg).st = .bay) then
    let f := s.fresh
    f.2.dieCnt (gwDie d) (R.TQ_STALL0 (gwDie d) r.part) F.TQ_STALL0_REFRESH (f.1 % 2 ^ 16)
  else s

/-- Every outstanding mark of a request tried once; one held cycle is counted under the first cause. -/
def State.tryReq (s : State) (d id : Nat) : State :=
  match s.req d id with
  | none => s
  | some r =>
    let head := s.heads d r
    let s := s.refreshWait d r
    let a := (List.range r.units.length).foldl (fun (a : State × Option StallWhy) i =>
      let b := a.1.tryMark d id i 0
      (b.1, firstCause a.2 b.2)) (s, none)
    a.1.countWait d r head a.2

/-! ## Presentation (R227, R230) -/

/-- The units a request presents: for an ACOPY a placement header first (R230). -/
def GwReq.total (r : GwReq) : Nat := r.units.length + bit (r.op == 3)

def GwReq.unitAt (r : GwReq) (die i : Nat) : Option BUnit :=
  if r.op = 3 ∧ i = 0 then
    some ⟨.place, false, true, false, placeHdr r.units.length (bitsOf r.tplace 31 0) (bitsOf r.tplace 39 32) false 0, die⟩
  else
    let j := i - bit (r.op == 3)
    match r.units.getD j none with
    | none => none
    | some x => some ⟨if r.op = 3 then .place else .load, x.psn, false, r.lastReq && decide (j + 1 = r.units.length), x.bits, die⟩

/-- Units that stand at the head of a queue move into its router input while the input has room (R224, R227). -/
def State.present (s : State) (d q : Nat) : Nat → State
  | 0 => s
  | n + 1 =>
    match (s.gw d).reqs.find? fun r => decide (r.queue = q) && (r.op == 1 || r.op == 3 || r.op == 5) with
    | none => s
    | some r =>
      let k := inKey (gwDie d) 0 (16 + q)
      if r.total ≤ r.shown then (s.dropReq d r.id).present d q n
      else if 32 ≤ (s.inq k).length then s
      else
        match r.unitAt (gwDie d) r.shown with
        | none => s
        | some u =>
          let s := s.setInq k (s.inq k ++ [u])
          let s := if r.op = 3 ∧ r.shown = 0 then s else s.qSub d q 1
          let s := if r.shown + 1 = r.total then s.dropReq d r.id else s.putReq d { r with shown := r.shown + 1 }
          s.present d q n

def State.presentAll (s : State) (d : Nat) : State :=
  s.each (List.range 32) fun s q => s.present d q 4096

/-- Stores that have been applied leave the gateway. -/
def State.dropStores (s : State) (d : Nat) : State :=
  s.setGw d { s.gw d with reqs := (s.gw d).reqs.filter fun r =>
    !((r.op == 2 || r.op == 4) && decide (r.queue < 32) && r.units.all (·.isSome)) }

/-! ## Acceptance (R227, R229, R340) -/

/-- Missing units written in place as poisoned units (R229). -/
def fillPoison (l : List (Option Sheaf)) : List (Option Sheaf) := l.map fun x => some (x.getD poisonSheaf)

/-- ACC of each page that a request reaches grows once (R320). -/
def State.countAcc (s : State) (pgs : List Nat) : State :=
  s.each pgs fun s pg => let e := s.mapEnt pg; s.setMapEnt pg { e with acc := min 255 (e.acc + 1), idle := 0 }

/-- A store accepted during a move-out of its page cancels the move (R318). -/
def State.cancelOuts (s : State) (pgs : List Nat) : State :=
  s.each pgs fun s pg => if (s.mapEnt pg).st = .moveout then s.cancelOut pg else s

/-- What keeps the request at the head of an ingress entry from being accepted. -/
inductive Accept where
  | empty
  | badOp (n : Nat)
  | hold (qfull reg : Bool)
  | take (r : ReqUnit) (q n via : Nat) (data : List BUnit)
deriving DecidableEq, Repr

/-- Units up to and including the one marked LAST. -/
def untilLast : List (Nat × BUnit) → Nat
  | [] => 0
  | u :: r => if u.2.last then 1 else 1 + untilLast r

def State.acceptable (s : State) (d port : Nat) : Accept :=
  match s.ingress d port with
  | [] => .empty
  | (q, u) :: rest =>
    let r := reqOf u.data
    if r.op = 0 ∨ 5 < r.op ∨ r.count = 0 ∨ 64 < r.count then .badOp (untilLast ((q, u) :: rest))
    else if rest.length < r.dataUnits then .empty
    else
      let qfull := decide (s.fget (R.GW_QCFG (gwDie d) q) F.GW_QCFG_QUOTA < s.qUsed d q + r.returns)
      let reg := !s.regPays (gwDie d) r.part (32 * r.count)
      if qfull || reg then .hold qfull reg
      else .take r q (1 + r.dataUnits) u.via ((rest.take r.dataUnits).map (·.2))

/-- A request number: its queue is its remainder by 64. -/
def reqQueue (id : Nat) : Nat := id % 64

/-- An accepted request entered behind the earlier ones; a fenced gateway poison-fills it at once (R520). -/
def State.enter (s : State) (d : Nat) (r : ReqUnit) (q via : Nat) (data : List BUnit) : State × Nat :=
  let g := s.gw d
  let id := g.nextId * 64 + q
  let fenced := s.flag (R.DIE_CTL (gwDie d)) F.DIE_CTL_FENCE
  let us := List.replicate r.marks none
  let x : GwReq :=
    { id := id, queue := q, addr := r.addr, count := r.count, op := r.op, lastReq := r.lastReq, part := r.part, tpkg := r.tpkg,
      ttile := r.ttile, tplace := r.tplace, data := data, units := (if fenced then fillPoison us else us), shown := 0,
      expired := fenced, via := via }
  let s := s.setGw d { g with reqs := g.reqs ++ [x], nextId := g.nextId + 1 }
  let s := s.qAdd d q (if q < 32 then r.returns else 0)
  let s := s.regTake (gwDie d) r.part (32 * r.count)
  let pgs := s.reqPages d x
  let s := s.countAcc pgs
  (if r.op = 2 ∨ r.op = 4 ∨ r.op = 5 then s.cancelOuts pgs else s, id)

/-- A request filled, counted at its queue; requests of the fabric and of a remote ACOPY have none. -/
def State.filledCnt (s : State) (d q : Nat) : State :=
  if q < 32 then s.dieCnt (gwDie d) (R.GW_QCNT (gwDie d) q) F.GW_QCNT_FILLED 1 else s

/-- A request's missing units filled, and the request counted (R229). -/
def State.expire (s : State) (d id : Nat) : State :=
  match s.req d id with
  | none => s
  | some r =>
    if r.expired ∨ r.op = 2 ∨ r.op = 4 ∨ r.units.all (·.isSome) then s
    else
      let s := s.filledCnt d r.queue
      (s.putReq d { r with units := fillPoison r.units, expired := true }).present d r.queue 4096

/-- Units a channel, link or host returns for a request: placed in its missing places in order, or LATE (R227, R229). -/
def fillIn : List (Option Sheaf) → List Sheaf → List (Option Sheaf)
  | [], _ => []
  | some x :: r, us => some x :: fillIn r us
  | none :: r, u :: us => some u :: fillIn r us
  | none :: r, [] => none :: fillIn r []

/-- Units that come for a request whose place is gone count at its queue (R229); requests of the fabric have none. -/
def State.lateCnt (s : State) (d q n : Nat) : State :=
  if q < 32 then s.dieCnt (gwDie d) (R.GW_QCNT (gwDie d) q) F.GW_QCNT_LATE n else s

def State.returnUnits (s : State) (d id : Nat) (us : List Sheaf) : State :=
  match s.req d id with
  | some r =>
    if r.expired then s.lateCnt d (reqQueue id) us.length
    else (s.putReq d { r with units := fillIn r.units us }).present d r.queue 4096
  | none => if id / 64 < (s.gw d).nextId then s.lateCnt d (reqQueue id) us.length else s

end Sys2Proof.Machine
end

