-- ==== Sys2Proof/Machine/Sync.lean ====
section
/-! DEFINITION. Semaphores, waits and the barrier tree (R175 to R201): counts behind aliases, signals and tests, posted
waits and their wakes, final tests and timeouts, arrival counters, and the nodes of the tree. -/

namespace Sys2Proof.Machine

/-! ## Counts behind aliases (R175, R178) -/

def State.aliasType (s : State) (g a : Nat) : Nat := if a < 63 then s.fget (R.TIL_ALIAS g a) F.TIL_ALIAS_TYPE else 0
def State.aliasIdx (s : State) (g a : Nat) : Nat := s.fget (R.TIL_ALIAS g a) F.TIL_ALIAS_INDEX

def State.semCount (s : State) (d i : Nat) : Nat := s.fget (R.SYN_SEM d i) F.SYN_SEM_COUNT
def State.arcCount (s : State) (g n : Nat) : Nat := s.fget (R.TIL_ARC g n) F.TIL_ARC_COUNT

/-- The timeout held in TIL_TMO_j, j from 1 to 3 (R187). -/
def State.tmoOf (s : State) (g j : Nat) : Nat := s.fget (R.TIL_TMO g (j - 1)) F.TIL_TMO_CYCLES

/-- The count an alias names. -/
def State.aliasCount (s : State) (g a : Nat) : Nat :=
  match s.aliasType g a with
  | 1 => s.semCount (g / 64) (s.aliasIdx g a)
  | 2 => s.arcCount g (s.aliasIdx g a % 64)
  | 3 => s.fget (R.TIL_ALIAS g a) F.TIL_ALIAS_RELCNT
  | _ => 0

def State.setAliasCount (s : State) (g a v : Nat) : State :=
  match s.aliasType g a with
  | 1 => s.fset (R.SYN_SEM (g / 64) (s.aliasIdx g a)) F.SYN_SEM_COUNT v
  | 2 => s.fset (R.TIL_ARC g (s.aliasIdx g a % 64)) F.TIL_ARC_COUNT v
  | 3 => s.fset (R.TIL_ALIAS g a) F.TIL_ALIAS_RELCNT v
  | _ => s

/-! ## Tests and grants (R182, R185, R188) -/

/-- One test: it passes when the count reaches the threshold, and a consuming wait subtracts the threshold (R182). -/
def State.testWait (s : State) (g : Nat) (w : WaitF) : State × Bool :=
  let c := s.aliasCount g w.alias_
  if w.thr ≤ c then (if w.consume then s.setAliasCount g w.alias_ (c - w.thr) else s, true) else (s, false)

/-- A grant: a wait under final test completes with CLOSECALL, and its timer is done (R188). -/
def State.grant (s : State) (g : Nat) (e : Eng) : State :=
  let x := s.eng g e
  let s := if x.wait = .finaling then s.tilCnt g (R.TIL_SYNCNT0 g) F.TIL_SYNCNT0_CLOSECALL 1 else s
  s.setEng g e { x with wait := .granted, timer := if x.wait = .finaling then none else x.timer }

/-- Whether an engine has a test posted at a counter. -/
def EngSt.isPosted (x : EngSt) : Bool := decide (x.wait = .posted) || decide (x.wait = .finaling)

/-- A posted test tested again: granted, or one spurious wake (R185). -/
def State.retest (s : State) (g : Nat) (e : Eng) : State :=
  let x := s.eng g e
  match x.wf with
  | some w =>
    if x.isPosted then
      let r := s.testWait g w
      if r.2 then r.1.grant g e else r.1.tilCnt g (R.TIL_SYNCNT1 g) F.TIL_SYNCNT1_SPURIOUS 1
    else s
  | none => s

/-- An engine's posted test names a semaphore of group `k`. -/
def State.postedOnGroup (s : State) (g : Nat) (e : Eng) (k : Nat) : Bool :=
  match (s.eng g e).wf with
  | some w => (s.eng g e).isPosted && decide (s.aliasType g w.alias_ = 1) && decide (s.aliasIdx g w.alias_ / 32 = k)
  | none => false

/-- Every test posted on group `k` of die `d`, tested again in the fixed engine order (R183, R185). -/
def State.retestGroup (s : State) (d k : Nat) : State :=
  s.each (List.range 64) fun s t =>
    s.each engsTestOrder fun s e => if s.postedOnGroup (d * 64 + t) e k then s.retest (d * 64 + t) e else s

/-- The tests posted on the counter behind one ARC or BAR alias type and index of a tile, tested again. -/
def State.retestTile (s : State) (g typ idx : Nat) : State :=
  s.each engsTestOrder fun s e =>
    match (s.eng g e).wf with
    | some w =>
      if (s.eng g e).isPosted ∧ s.aliasType g w.alias_ = typ ∧ s.aliasIdx g w.alias_ = idx then s.retest g e else s
    | none => s

/-! ## The end of a wait -/

/-- Status recorded in TIL_ISTAT (R163). -/
def State.istat (s : State) (g : Nat) (e : Eng) (st : Nat) : State :=
  let a := R.TIL_ISTAT g (engIdx e)
  let s := s.fset a F.TIL_ISTAT_LAST st
  s.fset a F.TIL_ISTAT_STICKY (s.fget a F.TIL_ISTAT_STICKY ||| st)

/-- A wait that fails its final test (R189, R190). -/
def State.timeout (s : State) (g : Nat) (e : Eng) : State :=
  let x := s.eng g e
  let s := s.clearWait g e
  let s := s.istat g e 0x80
  let s := s.tilCnt g (R.TIL_SYNCNT1 g) F.TIL_SYNCNT1_TMOFIRED 1
  let s := match x.wf with
    | some w =>
      if s.aliasType g w.alias_ = 2 then s.fset (R.TIL_ARC g (s.aliasIdx g w.alias_ % 64)) F.TIL_ARC_EXPIRED 1 else s
    | none => s
  s.tileFault g (engIdx e) 0x31 x.wia none

/-- The final test at the counter: passing completes with CLOSECALL, failing times out; an engine whose RUN bit is 0 is only
withdrawn (R104, R188). -/
def State.finalTest (s : State) (g : Nat) (e : Eng) : State :=
  match (s.eng g e).wf with
  | some w =>
    let r := s.testWait g w
    if r.2 then (r.1.modEng g e fun x => { x with wait := .finaling }).grant g e
    else if s.runBit g e then s.timeout g e
    else s.clearWait g e
  | none => s

/-! ## Sync messages (R234) -/

def State.syncSend (s : State) (src dst : Nat) (b : SyncBody) : State :=
  { s with net := { s.net with sync := s.net.sync ++ [⟨src, dst, b⟩] } }

/-- A sync message between fabric nodes as the model lays it out in its 8 bytes: byte 0 is 1 for an arrival and 2 for a release, byte 1
is the channel; a zero slot of the unit holds no message (log entry 6). -/
def syncFlit (src dst kind ch : Nat) : Flit :=
  { Flit.blank with typ := 12, vc := 0, src := src, dst := dst, units := [BitVec.ofNat 256 (kind + 256 * ch)] }

/-- The BARRIER report of R197 and R199. -/
def State.barReport (s : State) (part die ch : Nat) : State :=
  s.faultRep 13 0x33 (some part) (if die = 31 then 1700 else dieIsland die) 0 ch

/-- A message to the fabric node at the far end of link `k`; a link out of service, whose loss R199 had reported, loses it. -/
def State.fabNodeSend (s : State) (k dst kind ch : Nat) : State :=
  if s.linkState k = 4 then s.linkQueue k [⟨syncFlit s.pkgOwn dst kind ch, none⟩] else s

/-- The own fabric node's channel uses link `k`: to a child, or to its parent (R199). -/
def State.fabUses (s : State) (ch k : Nat) : Bool :=
  s.flag (R.FBN_CFG 0 ch) F.FBN_CFG_EN &&
    ((s.fget (R.FBN_KIDS 0 ch) F.FBN_KIDS_LINKS).testBit k ||
      (!s.flag (R.FBN_CFG 0 ch) F.FBN_CFG_ROOT && decide (s.fget (R.FBN_CFG 0 ch) F.FBN_CFG_PLINK = k)))

/-- The loss of every channel whose tree used link `k` (R199). -/
def State.chansLost (s : State) (k : Nat) : State :=
  s.each ((List.range 64).filter fun ch => s.fabUses ch k) fun s ch => s.barReport (s.fget (R.FBN_CFG 0 ch) F.FBN_CFG_PART) 28 ch

/-! ## Barrier nodes (R195 to R200) -/

/-- The bits of `need` are all in `have_`. -/
def covers (have_ need : Nat) : Bool := have_ &&& need == need

/-- A node records an arrival from an expected child, and answers whether all have arrived. -/
def State.clnFull (s : State) (d c ch : Nat) : Bool :=
  let a := R.SYN_CLN d c ch
  let ex := s.fget a F.SYN_CLN_EXPECT
  decide (ex ≠ 0) && covers (s.fget a F.SYN_CLN_ARRIVED) ex

def State.dieFull (s : State) (d ch : Nat) : Bool :=
  let a := R.SYN_DIE d ch
  let ex := s.fget a F.SYN_DIE_EXPECT
  decide (ex ≠ 0) && covers (s.fget a F.SYN_DIE_ARRIVED) ex

def State.pkgFull (s : State) (ch : Nat) : Bool :=
  let ex := s.fget (R.PKN_CFG ch) F.PKN_CFG_EXPECT
  covers (s.fget (R.PKN_ARR ch) F.PKN_ARR_ARRIVED) ex &&
    (!s.flag (R.PKN_CFG ch) F.PKN_CFG_SCHILD || s.flag (R.PKN_CFG ch) F.PKN_CFG_SARR) &&
    (decide (ex ≠ 0) || s.flag (R.PKN_CFG ch) F.PKN_CFG_SCHILD)

def State.fabFull (s : State) (ch : Nat) : Bool :=
  covers (s.fget (R.FBN_ARR 0 ch) F.FBN_ARR_LINKS) (s.fget (R.FBN_KIDS 0 ch) F.FBN_KIDS_LINKS) &&
    (!s.flag (R.FBN_KIDS 0 ch) F.FBN_KIDS_SELF || s.flag (R.FBN_ARR 0 ch) F.FBN_ARR_SELF) &&
    (decide (s.fget (R.FBN_KIDS 0 ch) F.FBN_KIDS_LINKS ≠ 0) || s.flag (R.FBN_KIDS 0 ch) F.FBN_KIDS_SELF)

/-- A cluster node whose children have all arrived: it releases as top, or sends its one arrival up (R196). Releasing, it
clears ARRIVED and UP, records what was PENDING, and releases every expected child. -/
def State.clnComplete (s : State) (d c ch : Nat) : Nat → State
  | 0 => s
  | n + 1 =>
    let a := R.SYN_CLN d c ch
    if ¬ s.clnFull d c ch then s
    else if s.flag a F.SYN_CLN_TOP then
      let s := s.fset a F.SYN_CLN_ARRIVED (s.fget a F.SYN_CLN_PENDING)
      let s := s.fset a F.SYN_CLN_PENDING 0
      let s := s.fset a F.SYN_CLN_UP 0
      let s := s.each ((List.range 8).filter fun t => (s.fget a F.SYN_CLN_EXPECT).testBit t) fun s t =>
        s.syncSend d d (.tileRelease (d * 64 + c * 8 + t) ch)
      s.clnComplete d c ch n
    else if s.flag a F.SYN_CLN_UP then s
    else (s.fset a F.SYN_CLN_UP 1).syncSend d d (.arrive (.die (Fin.ofNat 24 d)) ch c none 0)

/-- A release reaching a cluster node from its parent. -/
def State.clnRelease (s : State) (d c ch : Nat) : State :=
  let a := R.SYN_CLN d c ch
  let s := s.fset a F.SYN_CLN_ARRIVED (s.fget a F.SYN_CLN_PENDING)
  let s := s.fset a F.SYN_CLN_PENDING 0
  let s := s.fset a F.SYN_CLN_UP 0
  let s := s.each ((List.range 8).filter fun t => (s.fget a F.SYN_CLN_EXPECT).testBit t) fun s t =>
    s.syncSend d d (.tileRelease (d * 64 + c * 8 + t) ch)
  s.clnComplete d c ch 2

def State.dieRelease (s : State) (d ch : Nat) : State :=
  let a := R.SYN_DIE d ch
  let s := s.fset a F.SYN_DIE_ARRIVED 0
  let s := s.fset a F.SYN_DIE_UP 0
  s.each ((List.range 8).filter fun c => (s.fget a F.SYN_DIE_EXPECT).testBit c) fun s c =>
    s.syncSend d d (.release (.cluster (Fin.ofNat 24 d) (Fin.ofNat 8 c)) ch)

def State.dieComplete (s : State) (d ch : Nat) : State :=
  let a := R.SYN_DIE d ch
  if ¬ s.dieFull d ch then s
  else if s.flag a F.SYN_DIE_TOP then s.dieRelease d ch
  else if s.flag a F.SYN_DIE_UP then s
  else (s.fset a F.SYN_DIE_UP 1).syncSend d 31 (.arrive .pkg ch d none 0)

/-- A swap of the partition still awaits stripes of layer episode `e`; episode 0 awaits those of layer 0x7F too (R422). -/
def swapHolds (x : PartSt) (e : Nat) : Bool :=
  x.wloads.any fun w => w.swap && w.waiting.any fun n => decide (n.2 = e ∨ (e = 0 ∧ n.2 = 0x7F))

/-- The partition uses the channel as its layer channel (R422). -/
def State.isLayerCh (s : State) (p ch : Nat) : Bool :=
  s.flag (R.PT_SERVE p) F.PT_SERVE_LAYEREN && decide (s.fget (R.PT_SERVE p) F.PT_SERVE_LAYERCH = ch) &&
    s.flag (R.PKN_CFG ch) F.PKN_CFG_SCHILD

/-- After each release of a layer channel the step controller arrives at once; in a swap step it waits for the next episode's stripes. -/
def State.layerArrive (s : State) (ch : Nat) : State :=
  let p := s.fget (R.PKN_CFG ch) F.PKN_CFG_PART
  match spGet (fun _ => none) s.serve p with
  | none => s
  | some x =>
    if ¬ s.isLayerCh p ch then s
    else
      let s := { s with serve := spPut (fun _ => none) s.serve p (some { x with episode := x.episode + 1 }) }
      if swapHolds x (x.episode + 1) then s else s.fset (R.PKN_CFG ch) F.PKN_CFG_SARR 1

def State.pkgRelease (s : State) (ch : Nat) : State :=
  let s := s.fset (R.PKN_ARR ch) F.PKN_ARR_ARRIVED 0
  let s := s.fset (R.PKN_CFG ch) F.PKN_CFG_UP 0
  let s := (s.fset (R.PKN_CFG ch) F.PKN_CFG_SARR 0).layerArrive ch
  s.each ((List.range 24).filter fun d => (s.fget (R.PKN_CFG ch) F.PKN_CFG_EXPECT).testBit d) fun s d =>
    s.syncSend 31 d (.release (.die (Fin.ofNat 24 d)) ch)

def State.pkgComplete (s : State) (ch : Nat) : State :=
  let a := R.PKN_CFG ch
  if ¬ s.pkgFull ch then s
  else if s.flag a F.PKN_CFG_TOP then s.pkgRelease ch
  else if s.flag a F.PKN_CFG_UP then s
  else (s.fset a F.PKN_CFG_UP 1).syncSend 31 28 (.arrive .fab ch 36 none 0)

def State.fabRelease (s : State) (ch : Nat) : State :=
  let s := s.fset (R.FBN_ARR 0 ch) F.FBN_ARR_LINKS 0
  let s := s.fset (R.FBN_ARR 0 ch) F.FBN_ARR_SELF 0
  let s := s.fset (R.FBN_CFG 0 ch) F.FBN_CFG_UP 0
  let s := s.each ((List.range 36).filter fun k => (s.fget (R.FBN_KIDS 0 ch) F.FBN_KIDS_LINKS).testBit k) fun s k =>
    s.fabNodeSend k (s.fget (R.LNK_STAT k) F.LNK_STAT_PEER) 2 ch
  if s.flag (R.FBN_KIDS 0 ch) F.FBN_KIDS_SELF then s.syncSend 28 31 (.release .pkg ch) else s

def State.fabComplete (s : State) (ch : Nat) : State :=
  let a := R.FBN_CFG 0 ch
  if ¬ s.fabFull ch then s
  else if s.flag a F.FBN_CFG_ROOT then s.fabRelease ch
  else if s.flag a F.FBN_CFG_UP then s
  else (s.fset a F.FBN_CFG_UP 1).fabNodeSend (s.fget a F.FBN_CFG_PLINK) (s.fget a F.FBN_CFG_PARENT) 1 ch

/-- An arrival at a node (R196, R197). `e` and `iaddr` name the signalling engine and its instruction at a cluster node. -/
def State.barArrive (s : State) (node : BNode) (ch child : Nat) (e : Option Eng) (iaddr : Nat) : State :=
  match node with
  | .cluster d c =>
    let a := R.SYN_CLN d c ch
    let ar := s.fget a F.SYN_CLN_ARRIVED
    let pe := s.fget a F.SYN_CLN_PENDING
    let ok := s.flag a F.SYN_CLN_EN && (s.fget a F.SYN_CLN_EXPECT).testBit child
    if !ok || (ar.testBit child && pe.testBit child) then
      s.tileFault (d.val * 64 + c.val * 8 + child % 8) ((e.map engIdx).getD 6) 0x33 iaddr none
    else if ar.testBit child then s.fset a F.SYN_CLN_PENDING (pe + 2 ^ child)
    else (s.fset a F.SYN_CLN_ARRIVED (ar + 2 ^ child)).clnComplete d c ch 2
  | .die d =>
    let a := R.SYN_DIE d ch
    if s.flag a F.SYN_DIE_EN && (s.fget a F.SYN_DIE_EXPECT).testBit child then
      (s.fset a F.SYN_DIE_ARRIVED (s.fget a F.SYN_DIE_ARRIVED ||| 2 ^ child)).dieComplete d ch
    else s.barReport (s.fget a F.SYN_DIE_PART) d ch
  | .pkg =>
    let a := R.PKN_CFG ch
    if s.flag a F.PKN_CFG_EN && (s.fget a F.PKN_CFG_EXPECT).testBit child then
      (s.fset (R.PKN_ARR ch) F.PKN_ARR_ARRIVED (s.fget (R.PKN_ARR ch) F.PKN_ARR_ARRIVED ||| 2 ^ child)).pkgComplete ch
    else s.barReport (s.fget a F.PKN_CFG_PART) 31 ch
  | .fab =>
    let a := R.FBN_CFG 0 ch
    if child = 36 then
      if s.flag a F.FBN_CFG_EN && s.flag (R.FBN_KIDS 0 ch) F.FBN_KIDS_SELF then
        (s.fset (R.FBN_ARR 0 ch) F.FBN_ARR_SELF 1).fabComplete ch
      else s.barReport (s.fget a F.FBN_CFG_PART) 28 ch
    else if s.flag a F.FBN_CFG_EN && (s.fget (R.FBN_KIDS 0 ch) F.FBN_KIDS_LINKS).testBit child then
      (s.fset (R.FBN_ARR 0 ch) F.FBN_ARR_LINKS (s.fget (R.FBN_ARR 0 ch) F.FBN_ARR_LINKS ||| 2 ^ child)).fabComplete ch
    else s.barReport (s.fget a F.FBN_CFG_PART) 28 ch

/-- A channel enabled at a node (R196). -/
def State.nodeEn (s : State) (node : BNode) (ch : Nat) : Bool :=
  match node with
  | .cluster d c => s.flag (R.SYN_CLN d c ch) F.SYN_CLN_EN
  | .die d => s.flag (R.SYN_DIE d ch) F.SYN_DIE_EN
  | .pkg => s.flag (R.PKN_CFG ch) F.PKN_CFG_EN
  | .fab => s.flag (R.FBN_CFG 0 ch) F.FBN_CFG_EN

/-- A release from its parent reaching a node: only an enabled channel acts on it (R196). -/
def State.barRelease (s : State) (node : BNode) (ch : Nat) : State :=
  if ¬ s.nodeEn node ch then s
  else
    match node with
    | .cluster d c => s.clnRelease d c ch
    | .die d => s.dieRelease d ch
    | .pkg => s.pkgRelease ch
    | .fab => s.fabRelease ch

/-- A sync message of a fabric node received over link `k`: a release comes from the parent's link, an arrival from a child's; any
other is discarded and reported (R197, R199). -/
def State.fabNodeRecv (s : State) (k kind ch : Nat) : State :=
  let a := R.FBN_CFG 0 ch
  if kind = 1 then s.barArrive .fab ch k none 0
  else if s.flag a F.FBN_CFG_EN ∧ ¬ s.flag a F.FBN_CFG_ROOT ∧ s.fget a F.FBN_CFG_PLINK = k then s.fabRelease ch
  else s.barReport (s.fget a F.FBN_CFG_PART) 28 ch

/-- A release reaching a tile: RELCNT of the alias that names the channel (R196). -/
def State.tileRelease (s : State) (g ch : Nat) : State :=
  match (List.range 63).find? fun a => decide (s.aliasType g a = 3 ∧ s.aliasIdx g a = ch) with
  | none => s
  | some a =>
    let c := s.fget (R.TIL_ALIAS g a) F.TIL_ALIAS_RELCNT
    let s := if c = 65535 then s.tileFault g 6 0x34 0 none else s.fset (R.TIL_ALIAS g a) F.TIL_ALIAS_RELCNT (c + 1)
    s.retestTile g 3 ch

/-! ## Signals (R181, R183, R184) -/

/-- The counter's holder applies a signal, without the wake of R185. -/
def State.addSignal (s : State) (g : Nat) (e : Eng) (a inc iaddr : Nat) : State :=
  let c := s.aliasCount g a + inc
  let s := s.setAliasCount g a (min 65535 c)
  if c > 65535 then s.tileFault g (engIdx e) 0x30 iaddr none else s

/-- A signal applied by the holder of the counter its alias names, with the wake of the posted tests. -/
def State.applySignal (s : State) (g : Nat) (e : Eng) (a inc iaddr : Nat) : State :=
  match s.aliasType g a with
  | 1 => (s.addSignal g e a inc iaddr).retestGroup (g / 64) (s.aliasIdx g a / 32)
  | 2 => (s.addSignal g e a inc iaddr).retestTile g 2 (s.aliasIdx g a)
  | 3 => s.barArrive (.cluster (Fin.ofNat 24 (g / 64)) (Fin.ofNat 8 (g % 64 / 8))) (s.aliasIdx g a % 64) (g % 8) (some e) iaddr
  | _ => s

/-- A signal given at an instruction's completion point: it joins the tile's batch toward SYN, acts in the tile, or leaves
as the tile's arrival at a barrier channel (R131, R181, R184). -/
def State.giveSignal (s : State) (g : Nat) (e : Eng) (h : Sig) (iaddr : Nat) : State :=
  match s.aliasType g h.alias_ with
  | 1 => s.modTile g fun t => { t with batch := t.batch ++ [.signal e h.alias_ h.inc iaddr] }
  | 2 => s.applySignal g e h.alias_ h.inc iaddr
  | 3 =>
    s.syncSend (g / 64) (g / 64) (.arrive (.cluster (Fin.ofNat 24 (g / 64)) (Fin.ofNat 8 (g % 64 / 8))) (s.aliasIdx g h.alias_ % 64)
      (g % 8) (some e) iaddr)
  | _ => s

/-- A tile's batch applied in SYN in one network cycle: its signals, then, in the fixed engine order, the posted tests of
every group signalled and the tests that came with the batch (R183 to R185). -/
def State.poolBatch (s : State) (g : Nat) : State :=
  let b := (s.tile g).batch
  let s := s.modTile g fun t => { t with batch := [] }
  let sigs := b.filterMap fun o => match o with
    | .signal e a inc ia => some (e, a, inc, ia)
    | _ => none
  let groups := (sigs.map fun x => s.aliasIdx g x.2.1 / 32).eraseDups
  let s := s.each sigs fun s x => s.addSignal g x.1 x.2.1 x.2.2.1 x.2.2.2
  let s := s.each engsTestOrder fun s e =>
    let s := if groups.any fun k => s.postedOnGroup g e k then s.retest g e else s
    let tests := b.filterMap fun o => match o with
      | .test e2 a thr c f => if e2 = e then some (WaitF.mk a thr c 0, f) else none
      | _ => none
    s.each tests fun s tf =>
      if tf.2 then (if (s.eng g e).wait = .finaling then s.finalTest g e else s)
      else if (s.eng g e).wait = .inBatch then
        let r := s.testWait g tf.1
        if r.2 then r.1.modEng g e fun x => { x with wait := .granted, timer := none }
        else if ¬ s.runBit g e then s.clearWait g e
        else
          match (s.eng g e).wf, (s.eng g e).timer with
          | some w, some 0 =>
            if w.tmo ≠ 0 ∧ s.tmoOf g w.tmo = 0 then s.timeout g e
            else
              let s := s.modEng g e fun x => { x with wait := .finaling }
              s.modTile g fun t => { t with batch := t.batch ++ [.test e w.alias_ w.thr w.consume true] }
          | _, _ => s.modEng g e fun x => { x with wait := .posted }
      else s
  let tiles := (List.range 64).map fun t => g / 64 * 64 + t
  s.each (tiles.filter fun g2 => decide (g2 ≠ g)) fun s g2 =>
    s.each engsTestOrder fun s e => if groups.any fun k => s.postedOnGroup g2 e k then s.retest g2 e else s

/-! ## Arrival counters (R191 to R194) -/

def State.arcIncr (s : State) (g n : Nat) : State :=
  let c := s.arcCount g n
  let s := if c = 65535 then s.tileFault g 6 0x34 0 none else s.fset (R.TIL_ARC g n) F.TIL_ARC_COUNT (c + 1)
  s.retestTile g 2 n

/-- A unit written for an arrival counter; `last` marks its segment's last unit, and `via` says who presented it: a gateway
of die `via` below 32 closes the segment over the sync network (R191, R192). -/
def State.arcUnit (s : State) (g n : Nat) (last : Bool) (via : Nat) : State :=
  let a := R.TIL_ARC g n
  let part := s.fget a F.TIL_ARC_PART + 1
  if s.flag a F.TIL_ARC_MODE then
    let s := s.fset a F.TIL_ARC_PART (part % 65536)
    if last then (if via < 32 then s.syncSend via (g / 64) (.segClose g n) else s.arcIncr g n) else s
  else if part = s.fget a F.TIL_ARC_QUANT then (s.fset a F.TIL_ARC_PART 0).arcIncr g n
  else s.fset a F.TIL_ARC_PART part

/-- A segment without units closes its counter when its header is written (R286). -/
def State.arcEmpty (s : State) (g n via : Nat) : State :=
  if s.flag (R.TIL_ARC g n) F.TIL_ARC_MODE then
    (if via < 32 then s.syncSend via (g / 64) (.segClose g n) else s.arcIncr g n)
  else s

/-- A sync message delivered (R234). -/
def State.syncDeliver (s : State) (b : SyncBody) : State :=
  match b with
  | .arrive node ch child e ia => s.barArrive node ch child e ia
  | .release node ch => s.barRelease node ch
  | .tileRelease g ch => s.tileRelease g ch
  | .segClose g n => if s.flag (R.TIL_ARC g n) F.TIL_ARC_EXPIRED then s else s.arcIncr g n

end Sys2Proof.Machine
end

