-- ==== Sys2Proof/Machine/TileCore.lean ====
section
/-! DEFINITION. A tile's engines between instructions (R78 to R107, R125 to R138, R159 to R165): bank contests and transitions, the
fetcher, the stream position and its loops, credits, completion and status, arrivals, the control/debug port, and a tile's reset. -/

namespace Sys2Proof.Machine

/-! ## Stored program headers -/

/-- The partition whose Bay a tile's program lies in. -/
def State.tileP (s : State) (g : Nat) : Nat := (s.tilePart g).getD 0
def State.pbase (s : State) (g : Nat) : Nat := s.fget (R.TIL_PBASE g) F.TIL_PBASE_ADDR * 64
/-- A field of the program header (R125). -/
def State.progNum (s : State) (g off n : Nat) : Nat := s.locNum (s.tileP g) (s.pbase g % 2 ^ 48 + off) n
def State.soff (s : State) (g : Nat) (e : Eng) : Nat := s.progNum g (0x10 + 8 * engIdx e) 4
def State.slen (s : State) (g : Nat) (e : Eng) : Nat := s.progNum g (0x14 + 8 * engIdx e) 4
def State.spc (s : State) (g : Nat) (e : Eng) : Nat := s.fget (R.TIL_SPC g (engIdx e)) F.TIL_SPC_OFF
def State.setSpc (s : State) (g : Nat) (e : Eng) (v : Nat) : State := s.fset (R.TIL_SPC g (engIdx e)) F.TIL_SPC_OFF (v % 2 ^ 40)
/-- The byte address of the next instruction within its stream. -/
def State.iaddr (s : State) (g : Nat) (e : Eng) : Nat := s.spc g e - s.soff g e

/-! ## The instruction buffer (R80, R126, R127) -/

/-- The buffer's place at a byte offset; an offset outside the stream is a fetch gap. -/
def cellAt (soff slen : Nat) (buf : Sparse BufCell) (o : Nat) : BufCell :=
  if o < soff ∨ soff + slen ≤ o then .gap else spGet (fun _ => .absent) buf o

/-- The target of a JMP at offset `o` (R133, R135). A target below the program base lies outside every stream; TIL_SPC then shows
2^40 − 1, which the manual does not say (DESIGN CHOICE, log entry 147). -/
def jmpTarget (o : Nat) (off : Int) : Nat :=
  let t : Int := o + 8 + 8 * off
  if t < 0 then 2 ^ 40 - 1 else t.toNat

/-- The operation an instruction word names. -/
def opAt (e : Eng) (w : Word64) : Option TOp := (decodeInstr e w).map (·.op)

/-- What the fetcher finds ahead of issue: the offsets it passed, and the next offset it lacks with whether that lies in the branch buffer. -/
structure Scan where
  seen : List Nat
  want : Option (Nat × Bool)
deriving DecidableEq, Repr

/-- The first offset that a BRV at `o` with `v` slots still lacks: its slots, then the first packet of its first 8 targets (R126). -/
def brvWant (cell bcell : Nat → BufCell) (e : Eng) (o v : Nat) : Option (Nat × Bool) :=
  match (List.range v).find? fun i => cell (o + 8 + 8 * i) == .absent with
  | some i => some (o + 8 + 8 * i, false)
  | none =>
    ((List.range (min v 8)).findSome? fun i =>
      match cell (o + 8 + 8 * i) with
      | .word w =>
        match opAt e w with
        | some (.jmp off) => if bcell (jmpTarget (o + 8 + 8 * i) off) == .absent then some (jmpTarget (o + 8 + 8 * i) off, true) else none
        | _ => none
      | _ => none)

/-- An offset passed on the path. -/
def Scan.passed (o : Nat) (r : Scan) : Scan := { r with seen := o :: r.seen }

/-- The fetcher's path from an offset (R126): JMP followed, END and BRV stop it. Below `stop`, the end of the outermost LOOP body met,
it takes every instruction, since a body is checked whole and replayed from the buffer (R134). -/
def scanPath (cell bcell : Nat → BufCell) (e : Eng) : Nat → Nat → Nat → Scan
  | 0, _, _ => ⟨[], none⟩
  | n + 1, stop, o =>
    match cell o with
    | .absent => ⟨[], some (o, false)⟩
    | .gap => if o < stop then (scanPath cell bcell e n stop (o + 8)).passed o else ⟨[o], none⟩
    | .word w =>
      match opAt e w with
      | some .endStream => ⟨[o], none⟩
      | some (.jmp off) => (scanPath cell bcell e n stop (if o < stop then o + 8 else jmpTarget o off)).passed o
      | some (.brv _ v) => ⟨o :: (List.range v).map fun i => o + 8 + 8 * i, brvWant cell bcell e o v⟩
      | some (.loop _ _ len) => (scanPath cell bcell e n (max stop (o + 8 + 8 * len)) (o + 8)).passed o
      | _ => (scanPath cell bcell e n stop (o + 8)).passed o

def State.scan (s : State) (g : Nat) (e : Eng) : Scan :=
  let x := s.eng g e
  let so := s.soff g e
  let sl := s.slen g e
  let stop := (x.loops.map fun l => l.first + 8 * l.len).foldl max 0
  scanPath (cellAt so sl x.buf) (cellAt so sl x.bbuf) e 2048 stop (s.spc g e)

/-- The engine's stream has ended, or its END is in flight. -/
def EngSt.over (x : EngSt) : Bool := x.ended || x.infl.any fun i => decide (i.op = 0x03)

/-- Eight instructions put into a buffer from a packet: an offset outside the stream, or a failed packet, leaves a gap. -/
def putPacket (ok : Bool) (soff slen pos : Nat) (bytes : List Byte) (buf : Sparse BufCell) : Sparse BufCell :=
  (List.range 8).foldl (fun b i =>
    let o := pos + 8 * i
    if spGet (fun _ => BufCell.absent) b o ≠ .absent then b
    else
      spPut (fun _ => BufCell.absent) b o
        (if !ok || decide (o < soff ∨ soff + slen ≤ o) then .gap else .word (BitVec.ofNat 64 (ofLeBytes ((bytes.drop (8 * i)).take 8))))) buf

/-- The next packet of the engine's fetcher, if it wants one and the buffer has room for 8 more (R80, R126). -/
def State.fetchWant (s : State) (g : Nat) (e : Eng) : Option (Nat × Bool) :=
  let x := s.eng g e
  if x.over ∨ 2040 < x.buf.length then none else (s.scan g e).want

/-- A packet lands: the 8 instructions from the offset the fetcher lacked, so that none before it enters the buffer or FILL, and a
target's first packet holds its first 8 instructions (R126, R137; DEDUCED, log entry 148). -/
def State.landPacket (s : State) (g : Nat) (e : Eng) (w : Nat × Bool) (ok : Bool) (bytes : List Byte) : State :=
  let so := s.soff g e
  let sl := s.slen g e
  s.modEng g e fun x =>
    if w.2 then { x with bbuf := putPacket ok so sl w.1 bytes x.bbuf } else { x with buf := putPacket ok so sl w.1 bytes x.buf }

/-- A page that a read waits for (R312). -/
def UnitLoc.away (u : UnitLoc) : Bool :=
  decide (u.rgn.kind ≠ 4) && (u.ent.st == .yard || u.ent.st == .cellar || u.ent.st == .movein)

/-- A fetch packet returns (R126, R127): a read of Bay; a page outside Bay is asked for and the packet goes on waiting. -/
def State.fetchReturn (s : State) (g : Nat) (e : Eng) (failed : Bool) : State :=
  match s.fetchWant g e with
  | none => s
  | some w =>
    if failed then s.landPacket g e w false []
    else
      let p := s.tileP g
      let o := s.pbase g % 2 ^ 48 + w.1
      let n := min 64 (s.soff g e + s.slen g e - w.1)
      match s.locate p o, s.locate p (o + n - 1) with
      | some u, some v =>
        match [u, v].find? UnitLoc.away with
        | some x => s.askMoveIn p x .demand
        | none =>
          let b := s.localBlock p o n
          (s.readTouch p o n).landPacket g e w (!b.2) b.1
      | _, _ => s.landPacket g e w false []

/-! ## Stream position and loops (R133, R134) -/

/-- The position after the last instruction of a body: back to the body's first while iterations are left, else on (R134). -/
def nextPos : List LoopFrame → Nat → List LoopFrame × Nat
  | [], o => ([], o)
  | l :: r, o =>
    if o = l.first + 8 * l.len then
      if l.cnt + 1 < l.n then ({ l with cnt := l.cnt + 1 } :: r, l.first) else nextPos r o
    else (l :: r, o)

/-- An engine moves on to an offset. Instructions behind it leave the buffer once no loop is active; `jump` drops what the
path no longer reaches, and takes over the branch buffer. -/
def State.moveTo (s : State) (g : Nat) (e : Eng) (dest : Nat) (jump : Bool) : State :=
  let x := s.eng g e
  let r := nextPos x.loops dest
  let old := s.spc g e
  let s := s.setSpc g e r.2
  let buf := if jump then x.bbuf.foldl (fun b c => if spGet (fun _ => BufCell.absent) b c.1 = .absent then spIns c.1 c.2 b else b) x.buf else x.buf
  let s := s.setEng g e { x with loops := r.1, buf := buf, bbuf := (if jump then [] else x.bbuf) }
  if r.1.isEmpty then
    if jump ∨ ¬ x.loops.isEmpty then
      let seen := (s.scan g e).seen
      s.modEng g e fun x => { x with buf := x.buf.filter fun c => seen.contains c.1 }
    else s.modEng g e fun x => { x with buf := spDel old x.buf }
  else s

/-! ## Credits (R81) -/

/-- An in-flight record that stands for one fetch entry of an LDQ (R150); `iaddr` holds the LDQ's number and the increment of its
signal field, which names no alias, the ring slot it fills. -/
def opEntry : Nat := 0x51

/-- The pool an operation draws on, with its size: LE load slots, VE slots, SE store slots, NE send slots (0) and receive slots (1).
An LDQ takes its credits entry by entry; a walk's credits are the queues of R82; each strip of an MM is computed and written within
one command, which takes a strip slot and returns it, so none is held between commands (DESIGN CHOICE, log entry 141). -/
def creditPool (op : TOp) : Option (Nat × Nat) :=
  match op with
  | .ld _ _ | .cpy _ _ | .acopy _ _ | .ldd _ _ => some (0, 64)
  | .rq _ _ _ | .norm _ _ _ | .emul _ _ _ _ | .lane _ _ _ _ | .fn _ _ _ | .red _ _ _ | .smx _ _ _ => some (0, 4)
  | .st _ _ | .sta _ _ | .atom _ _ _ => some (0, 32)
  | .send _ _ _ => some (0, 16)
  | .recv _ _ => some (1, 16)
  | _ => none

/-- Credits of a pool that are taken or reserved (R77, R81). -/
def EngSt.poolUsed (x : EngSt) (k : Nat) : Nat := (x.infl.filter fun i => decide (i.pool = some k)).length + bit (x.rsv == some k)

def State.hasCredit (s : State) (g : Nat) (e : Eng) (op : TOp) : Bool :=
  match creditPool op with
  | none => true
  | some (k, n) => (s.eng g e).rsv == some k || decide ((s.eng g e).poolUsed k < n)

/-- The credit of an operation reserved (R77). -/
def State.reserve (s : State) (g : Nat) (e : Eng) (op : TOp) : State :=
  s.modEng g e fun x => { x with rsv := (creditPool op).map (·.1) }

/-! ## Completion (R78, R131, R163) -/

/-- Status flags of an instruction (R172). -/
def stSat : Nat := 1
def stSatBlk : Nat := 2
def stFmt : Nat := 4
def stInx : Nat := 8
def stAccSat : Nat := 16
def stPsn : Nat := 32
def stLsat : Nat := 64

/-- TIL_ARSTAT and the counts of instructions that ended with a flag (R74). -/
def State.arStatus (s : State) (g st : Nat) : State :=
  let a := R.TIL_ARSTAT g
  let s := s.wr a (s.rd a ||| BitVec.ofNat 64 (st % 128))
  let s := if st.testBit 2 then s.fadd (R.TIL_ARCNT2 g) F.TIL_ARCNT2_FORMAT 1 else s
  let s := if st.testBit 3 then s.fadd (R.TIL_ARCNT1 g) F.TIL_ARCNT1_INEXACT 1 else s
  if st.testBit 5 then s.fadd (R.TIL_ARCNT2 g) F.TIL_ARCNT2_POISON 1 else s

/-- A FORMAT raised at the issue stage (R84): FMT recorded, nothing done, and the fault. -/
def State.formatIssue (s : State) (g : Nat) (e : Eng) (iaddr : Nat) (laddr : Option Nat) : State :=
  ((s.istat g e stFmt).arStatus g stFmt).tileFault g (engIdx e) 0x01 iaddr laddr

/-- An instruction's completion point: status, RETIRED, its signal, and, when a reserved scale word was read, the FORMAT fault that
stops the engine (R41, R131, R163). That fault names no Loft address: R107 lists none for it (DESIGN CHOICE, log entry 149). -/
def State.complete (s : State) (g : Nat) (e : Eng) (h : Sig) (iaddr st : Nat) : State :=
  let s := (s.istat g e st).arStatus g st
  let s := s.tilCnt g (R.TIL_ECNTA g (engIdx e)) F.TIL_ECNTA_RETIRED 1
  let s := if h.alias_ = 63 then s else s.giveSignal g e h iaddr
  if st.testBit 2 then s.tileFault g (engIdx e) 0x01 iaddr none else s

/-- Status that comes back to an instruction of an engine whose units went to another package (R157): it joins the record while that is in
flight; after the completion point of R78 it joins STICKY and the tile's status (DESIGN CHOICE, log entry 12). -/
def State.lateStatus (s : State) (via : Nat) (e : Eng) (st : Nat) : State :=
  if via < 32 then s
  else
    let g := viaTile via
    if (s.eng g e).infl.any fun i => decide (i.uid = viaUid via) then
      s.modEng g e fun x => { x with infl := x.infl.map fun i => if i.uid = viaUid via then { i with status := i.status ||| st } else i }
    else
      let a := R.TIL_ISTAT g (engIdx e)
      (s.fset a F.TIL_ISTAT_STICKY (s.fget a F.TIL_ISTAT_STICKY ||| st)).arStatus g st

/-- The router input of a tile's lane: 0 NE, 1 LE, 2 SE (R210). -/
def laneKey (g k : Nat) : Nat := inKey (g / 64) (g % 64 / 8) (4 * (g % 8) + k)

/-- The lane an engine presents its units on. -/
def laneOf : Eng → Option Nat
  | .ne => some 0
  | .le => some 1
  | .se => some 2
  | _ => none

/-- The units that wait on an engine's lane: the first 32 stand in the router input, the rest in the Loft, not yet read (R224). -/
def State.laneLen (s : State) (g : Nat) (e : Eng) : Nat :=
  match laneOf e with
  | some k => (s.inq (laneKey g k)).length
  | none => 0

/-- An instruction put in flight. -/
def State.launch (s : State) (g : Nat) (e : Eng) (op : Nat) (h : Sig) (iaddr st : Nat) (pool : Option Nat) (need units : Nat) : State :=
  s.modEng g e fun x =>
    { x with infl := x.infl ++ [⟨x.nextUid, op, iaddr, h, st, pool, need, units, [], []⟩], nextUid := x.nextUid + 1 }

def EngSt.rec_ (x : EngSt) (uid : Nat) : Option InFlight := x.infl.find? fun i => decide (i.uid = uid)
def EngSt.dropRec (x : EngSt) (uid : Nat) : EngSt := { x with infl := x.infl.filter fun i => decide (i.uid ≠ uid) }
def EngSt.modRec (x : EngSt) (uid : Nat) (f : InFlight → InFlight) : EngSt :=
  { x with infl := x.infl.map fun i => if i.uid = uid then f i else i }

/-- An instruction in flight stands at its completion point: nothing it waits for is left, and a FENCE, an END or an LDQ has nothing
earlier, or none of its entries, still in flight. -/
def EngSt.ready (x : EngSt) (i : InFlight) : Bool :=
  decide (i.need = 0) && decide (i.op ≠ opEntry) &&
    (if i.op = 0x02 ∨ i.op = 0x03 then (x.infl.takeWhile fun j => decide (j.uid ≠ i.uid)).isEmpty
     else !(x.infl.any fun j => decide (j.op = opEntry) && decide (j.iaddr = i.uid) && decide (i.op = 0x11)))

/-- The last unit that an instruction presents has been read from the Loft: it stands in the router input or has left it (R78, R224). -/
def State.laneRead (s : State) (g : Nat) (e : Eng) (i : InFlight) : Bool :=
  let later := (((s.eng g e).infl.dropWhile fun j => decide (j.uid ≠ i.uid)).drop 1).map (·.units)
  decide (i.units = 0) || decide (s.laneLen g e ≤ 32 + later.foldl (· + ·) 0)

/-- INSTRUCTION_COMPLETE: the record with number `uid` completes if it stands at its completion point. -/
def State.completeRec (s : State) (g : Nat) (e : Eng) (uid : Nat) : State :=
  let x := s.eng g e
  match x.rec_ uid with
  | none => s
  | some i =>
    if ¬ x.ready i ∨ ¬ s.laneRead g e i then s
    else
      let s := s.setEng g e (x.dropRec uid)
      let s := s.complete g e i.sig i.iaddr i.status
      if i.op = 0x03 then s.modEng g e fun x => { x with ended := true } else s

/-! ## Bank contests (R91, R92) -/

/-- The engine behind a Loft port. -/
def portEng (p : Nat) : Option Eng :=
  match p with
  | 1 => some .me
  | 2 => some .ve
  | 3 => some .aw
  | 4 => some .le
  | 5 => some .se
  | 6 => some .ne
  | _ => none

/-- The port a bank serves: the first of the fixed order, or the control/debug port once it has lost for 512 tile cycles. -/
def bankWinner (aged : Bool) (l : List Nat) : Nat :=
  if aged && l.contains 7 then 7 else l.foldl min 7

/-- A lost contest, counted at the port and for the tile. -/
def State.lose (s : State) (g p : Nat) : State :=
  let s := s.tilCnt g (R.TIL_BNKCNT g) F.TIL_BNKCNT_CONFLICT 1
  match portEng p with
  | some e => s.tilCnt g (R.TIL_ECNTC g (engIdx e)) F.TIL_ECNTC_BANK 1
  | none => s

/-- One tile cycle's contests: every request but the winner's at each bank loses. Answers the ports that lost. -/
def State.contests (s : State) (g : Nat) (reqs : List BankReq) : State × List Nat :=
  let banks := (reqs.map (·.bank)).eraseDups
  let aged := decide (512 ≤ (s.tile g).dbgLost)
  banks.foldl (fun (a : State × List Nat) b =>
    let ps := (reqs.filter fun r => decide (r.bank = b)).map (·.port)
    let w := bankWinner aged ps
    let losers := ps.erase w
    let s := losers.foldl (fun s p => s.lose g p) a.1
    let s := if aged && decide (w = 7) && !losers.isEmpty then
        (s.tilCnt g (R.TIL_BNKCNT g) F.TIL_BNKCNT_DBGAGED 1).modTile g fun t => { t with dbgLost := 0 }
      else if losers.contains 7 then s.modTile g fun t => { t with dbgLost := t.dbgLost + 1 }
      else if w = 7 ∧ ps.contains 7 then s.modTile g fun t => { t with dbgLost := 0 }
      else s
    (s, a.2 ++ losers)) (s, [])

/-! ## Bank power (R95 to R97) -/

/-- A transition begun, or refused, for a target that no transition stands before (R97). -/
def State.bankGo (s : State) (g b tgt : Nat) : State :=
  let cur := s.fget (R.BNK_STAT g) (F.BNK_STAT_CUR b)
  if cur = tgt then s
  else if cur = 0 ∧ tgt = 1 then
    s.fset (R.BNK_BUSY g) F.BNK_BUSY_REFUSED (s.fget (R.BNK_BUSY g) F.BNK_BUSY_REFUSED ||| 2 ^ b)
  else s.modTile g fun t => { t with trans := t.trans ++ [(b, tgt)] }

/-- A target written for a bank: held during a transition; the reserved code is ignored (R95, R97). TGT keeps a refused RET, which the
manual does not say (DESIGN CHOICE, log entry 150). -/
def State.bankTarget (s : State) (g b code : Nat) : State :=
  if code = 2 then s
  else
    let s := s.fset (R.BNK_PWR g) (F.BNK_PWR_TGT b) code
    match (s.tile g).transOf b with
    | some _ => s.modTile g fun t => { t with held := (t.held.filter fun h => decide (h.1 ≠ b)) ++ [(b, code)] }
    | none => s.bankGo g b code

/-- A bank cleared to zero blocks without poison (R96). -/
def State.bankClear (s : State) (g b : Nat) : State :=
  { s with loft := spClearRange (g * 2 ^ 22 + b * 2 ^ 17) (2 ^ 17) s.loft,
           loftPsn := spClearRange ((g * 2 ^ 22 + b * 2 ^ 17) / 32) (2 ^ 12) s.loftPsn }

/-- A transition ends; a held target is then applied as if written now (R96, R97). -/
def State.bankEnd (s : State) (g b : Nat) : State :=
  match (s.tile g).transOf b with
  | none => s
  | some tgt =>
    let old := s.fget (R.BNK_STAT g) (F.BNK_STAT_CUR b)
    let s := s.fset (R.BNK_STAT g) (F.BNK_STAT_CUR b) tgt
    let s := if tgt = 0 ∨ old = 0 then s.bankClear g b else s
    let h := (s.tile g).held.find? fun h => decide (h.1 = b)
    let s := s.modTile g fun t =>
      { t with trans := t.trans.filter fun x => decide (x.1 ≠ b), held := t.held.filter fun x => decide (x.1 ≠ b) }
    match h with
    | some x => s.bankGo g b x.2
    | none => s

/-! ## Arrivals (R98, R159, R160, R191 to R193, R214) -/

/-- How an arriving unit met its line: written, still waiting on its handshake, or discarded (R98). -/
inductive Landed where
  | wrote | waits | lost
deriving DecidableEq, Repr

/-- The arrival port's access to a line: a bank that is not ON discards the unit and raises BANKSTATE with SRC 6. -/
def State.arrAcc (s : State) (g a n : Nat) : State × Landed :=
  match s.loftAcc g a n with
  | (.ok, _) => (s, .wrote)
  | (.wait, _) => (s, .waits)
  | (.bad, l) =>
    (((s.tilCnt g (R.TIL_BNKCNT g) F.TIL_BNKCNT_ARRLOST 1).tileFault g 6 0x02 0 (some l)), .lost)

/-- A ring slot's load is complete (R259). -/
def State.slotLanded (s : State) (g slot : Nat) : State :=
  s.modTile g fun t => { t with walk := t.walk.map fun w => { w with landed := w.landed ||| 2 ^ slot } }

/-- A receive has landed all it waits for: its instruction reaches its completion point; an entry of an LDQ ends here. -/
def State.recvDone (s : State) (g : Nat) (e : Eng) (uid : Nat) : State :=
  match (s.eng g e).rec_ uid with
  | none => s
  | some i =>
    if i.op = opEntry then
      (s.modEng g e fun x => (x.dropRec uid).modRec i.iaddr fun p => { p with status := p.status ||| i.status }).slotLanded g i.sig.inc
    else s.modEng g e fun x => x.modRec uid fun i => { i with need := 0 }

/-- A unit or a lane written for a receive. -/
def State.landAt (s : State) (g : Nat) (r : RecvRec) (a : Nat) (u : BUnit) : State :=
  let s := if r.width = 32 then s.putLoftSheaf g a ⟨u.data, u.psn⟩
    else (s.putLoftNum g a r.width (u.data.toNat % 2 ^ (8 * r.width))).setLoftPoison g (a / 32 * 32) u.psn
  if u.psn then s.modEng g r.eng fun x => x.modRec r.uid fun i => { i with status := i.status ||| stPsn } else s

/-- What the oldest armed receive of a class becomes when a unit reaches it: none where the unit goes on waiting. -/
def State.recvTake (s : State) (g : Nat) (r : RecvRec) (u : BUnit) : Option (State × Option RecvRec) :=
  if r.seg ∧ r.left = none then
    if ¬ u.hdr then
      some (((s.tilCnt g (R.TIL_BNKCNT g) F.TIL_BNKCNT_ARRLOST 1).tileFault g 6 0x1B 0 none), some r)
    else
      let c := u.data.toNat % 2 ^ 32
      if c = 0 then some (s.recvDone g r.eng r.uid, none)
      else if r.addrs.length < c then
        let ia := (((s.eng g r.eng).rec_ r.uid).map (·.iaddr)).getD 0
        let s := s.tileFault g (engIdx r.eng) 0x1A ia none
        some (s.modEng g r.eng fun x => x.dropRec r.uid, some { r with left := some c })
      else some (s, some { r with left := some c })
  else
    let left := match r.left with
      | some n => n
      | none => r.addrs.length
    match r.addrs with
    | [] =>
      let s := s.tilCnt g (R.TIL_BNKCNT g) F.TIL_BNKCNT_ARRLOST 1
      if left ≤ 1 then some (s.recvDone g r.eng r.uid, none) else some (s, some { r with left := some (left - 1) })
    | a :: rest =>
      let p := s.arrAcc g a r.width
      match p.2 with
      | .waits => none
      | out =>
        let s := if out = .wrote then p.1.landAt g r a u else p.1
        if left ≤ 1 then some (s.recvDone g r.eng r.uid, none)
        else some (s, some { r with addrs := rest, left := r.left.map (· - 1) })

/-- Contributions added from value index `i` of block `t` at `blk`: the values they meet and the exponent word are written, and
TIL_ARSTAT.ACCSAT is set where one of them saturates (R49). -/
def State.accPut (s : State) (g blk expw : Nat) (t : AccBlock) (i : Nat) (xs : List (Int × Int)) (psn : Bool) : State :=
  let r := accAddAt { t with sat := false } i xs
  let n := accValBytes t.a48
  let s := s.putLoftPart g (blk + n * i) (accValsBytes t.a48 ((r.vals.drop i).take xs.length))
  let s := s.putLoftNum g expw 4 (accWord { r with sat := r.sat || t.sat, psn := t.psn || psn })
  if r.sat then s.arStatus g stAccSat else s

/-- One unit of a contribution added into a block of the tile's own Loft (R49, R214): `idx` counts from the info unit. -/
def State.accUnit (s : State) (g : Nat) (a48 : Bool) (blk expw : Nat) (info u : SheafBits) (idx : Nat) (psn : Bool) : State :=
  let per := if bitsOf info.toNat 7 0 = 1 then 4 else 8
  let n := accBytes a48
  let t := accOf a48 (s.loftBytes g blk n) (s.expWord g blk n expw)
  s.accPut g blk expw t ((idx - 1) * per) ((contribElems [info, u]).take per) (psn || contribPsn [info])

/-- One sheaf of a row-accumulate placement (R285): sheaf `j` goes into values 30 × (j mod 4) onward of block j div 4. -/
def State.rowAccUnit (s : State) (g blk expw j : Nat) (u : SheafBits) (psn : Bool) : State :=
  let b := blk + 512 * (j / 4)
  let e := expw + 4 * (j / 4)
  let t := accOf false (s.loftBytes g b 512) (s.expWord g b 512 e)
  s.accPut g b e t (30 * (j % 4)) (sheafContrib .s8 u) psn

/-- A PLACE unit at the arrival port (R191 to R193, R214): the unit marked LAST is its segment's last. None where it goes on waiting. -/
def State.placeTake (s : State) (g : Nat) (u : BUnit) : Option State :=
  match (s.tile g).place with
  | none =>
    let v := u.data.toNat
    let n := bitsOf v 31 0
    let acnt := bitsOf v 69 64
    if n = 0 then some (s.arcEmpty g acnt u.via)
    else
      some (s.modTile g fun t =>
        { t with place := some ⟨bitsOf v 53 32, 0, n, acnt, bitsOf v 79 72, bitsOf v 101 80, u.via, zeroBits⟩ })
  | some p =>
    let next : Option PlaceRec := if p.left ≤ 1 then none else some { p with idx := p.idx + 1, left := p.left - 1, info := if p.idx = 0 then u.data else p.info }
    let go (s : State) : State := s.modTile g fun t => { t with place := next }
    if s.flag (R.TIL_ARC g p.acnt) F.TIL_ARC_EXPIRED then some (go (s.tilCnt g (R.TIL_SYNCNT0 g) F.TIL_SYNCNT0_STALE 1))
    else if p.kind = 1 then
      if p.idx = 0 then some ((go s).arcUnit g p.acnt u.last p.via)
      else
        let a48 := contribTgt48 [p.info]
        match s.arrAcc g p.addr (accBytes a48), s.arrAcc g p.expw 4 with
        | (_, .waits), _ | _, (_, .waits) => none
        | (_, .wrote), (_, .wrote) =>
          some ((go (s.accUnit g a48 p.addr p.expw p.info u.data p.idx u.psn)).arcUnit g p.acnt u.last p.via)
        | (t, .lost), _ | _, (t, .lost) => some (go t)
    else if p.kind = 2 then
      match s.arrAcc g (p.addr + 512 * (p.idx / 4)) 512, s.arrAcc g (p.expw + 4 * (p.idx / 4)) 4 with
      | (_, .waits), _ | _, (_, .waits) => none
      | (_, .wrote), (_, .wrote) => some ((go (s.rowAccUnit g p.addr p.expw p.idx u.data u.psn)).arcUnit g p.acnt u.last p.via)
      | (t, .lost), _ | _, (t, .lost) => some (go t)
    else
      let a := p.addr + 32 * p.idx
      let r := s.arrAcc g a 32
      match r.2 with
      | .waits => none
      | .lost => some (go r.1)
      | .wrote => some ((go (r.1.putLoftSheaf g a ⟨u.data, u.psn⟩)).arcUnit g p.acnt u.last p.via)

/-- The presented unit meets the arrival port (R160): it is taken, or waits on its handshake. -/
def State.arrive (s : State) (g : Nat) : State :=
  let t := s.tile g
  match (if t.march.running then none else t.presented) with
  | none => s
  | some u =>
    let taken (s : State) : State := s.modTile g fun t => { t with presented := none }
    match u.cls with
    | .req => taken s
    | .place =>
      match s.placeTake g u with
      | some s => taken s
      | none => s
    | .load =>
      match t.loadQ with
      | [] => s
      | r :: rest =>
        match s.recvTake g r u with
        | none => s
        | some (s, q) => taken (s.modTile g fun t => { t with loadQ := q.toList ++ rest })
    | .recv =>
      match t.recvQ with
      | [] => s
      | r :: rest =>
        match s.recvTake g r u with
        | none => s
        | some (s, q) => taken (s.modTile g fun t => { t with recvQ := q.toList ++ rest })

/-! ## The control/debug port (R98, R114 to R116) -/

/-- A line operation ends: it waits on a bank that turns ON, and sets ERR on one that is not ON. -/
def State.debugDone (s : State) (g : Nat) : State :=
  match (s.tile g).dbg with
  | none => s
  | some o =>
    let fin (s : State) (err : Nat) : State :=
      let s := s.fset (R.BNK_DCTL g) F.BNK_DCTL_DONE 1
      let s := s.fset (R.BNK_DCTL g) F.BNK_DCTL_ERR err
      s.modTile g fun t => { t with dbg := none, dbgLost := 0 }
    let a := o.line * 64
    match s.bankAcc g (s.bankOf g a) with
    | .wait => s
    | .bad =>
      let s := if o.wr then s else
        ((List.range 8).foldl (fun s i => s.wr (R.BNK_DDATA g i) 0) s).fset (R.BNK_DCTL g) F.BNK_DCTL_PSN 0
      fin s 1
    | .ok =>
      if o.wr then
        let s := (List.range 8).foldl (fun s i => s.putLoftBytes g (a + 8 * i) (leBytes 8 (s.rd (R.BNK_DDATA g i)).toNat)) s
        fin ((s.setLoftPoison g a (o.psn.testBit 0)).setLoftPoison g (a + 32) (o.psn.testBit 1)) 0
      else
        let s := (List.range 8).foldl (fun s i => s.wr (R.BNK_DDATA g i) (BitVec.ofNat 64 (s.loftNum g (a + 8 * i) 8))) s
        fin (s.fset (R.BNK_DCTL g) F.BNK_DCTL_PSN (bit (s.loftPoison g a) + 2 * bit (s.loftPoison g (a + 32)))) 0

/-! ## RUN, SRST and yields (R101, R104, R128, R165) -/

/-- RUN written: the waits of the engines whose bit is cleared are withdrawn (R104). An engine whose fault still stands recorded does not
issue until TIL_FAULT is cleared. -/
def State.setRun (s : State) (g run : Nat) : State :=
  let s := s.fset (R.TIL_CTL g) F.TIL_CTL_RUN run
  s.each engsAll fun s e =>
    if run.testBit (engIdx e) then s else s.withdraw g e

/-- TIL_FAULT.CLR (R106). -/
def State.faultClr (s : State) (g : Nat) : State :=
  let s := (s.wr (R.TIL_FAULT g) 0).wr (R.TIL_FADDR g) 0
  s.each engsAll fun s e => s.modEng g e fun x => { x with faulted := false }

/-- TIL_CTL.SRST (R101, R174): units not yet read from the Loft go with their instructions. -/
def State.tileReset (s : State) (g : Nat) : State :=
  let s := s.fset (R.TIL_CTL g) F.TIL_CTL_RUN 0
  let s := (s.wr (R.TIL_FAULT g) 0).wr (R.TIL_FADDR g) 0
  let s := s.wr (R.TIL_YREQ g) 0
  let s := (List.range 6).foldl (fun s i => (s.wr (R.TIL_LOOP g i) 0).wr (R.TIL_ISTAT g i) 0) s
  let s := s.each engsAll fun s e => s.setEng g e { EngSt.idle with nextUid := (s.eng g e).nextUid }
  let s := s.each [0, 1, 2] fun s k => s.setInq (laneKey g k) ((s.inq (laneKey g k)).take 32)
  s.modTile g fun t =>
    { t with loadQ := [], recvQ := [], leQ := [], meQ := [], veQ := [], walk := none, hintDue := false,
             batch := t.batch.filter fun o => match o with
               | .signal _ _ _ _ => true
               | .test _ _ _ _ _ => false }

/-- A write of TIL_SPC_e (R128). -/
def State.spcWrite (s : State) (g : Nat) (e : Eng) (off : Nat) : State :=
  let x := s.eng g e
  if s.runBit g e ∨ ¬ x.infl.isEmpty then s
  else
    let s := s.setSpc g e (off / 8 * 8)
    s.setEng g e
      { EngSt.idle with nextUid := x.nextUid, faulted := x.faulted, wait := x.wait, wf := x.wf, wia := x.wia, timer := x.timer,
                        rsv := x.rsv }

/-- A held YIELD completes when REQ is cleared (R165); that of a faulted engine does not, and gives no signal (R131). -/
def State.yieldRelease (s : State) (g : Nat) (e : Eng) : State :=
  let x := s.eng g e
  if x.holdY = none then s
  else if x.faulted then s.setEng g e { x with holdY := none }
  else
    let ia := s.iaddr g e
    let s := (s.setEng g e { x with holdY := none }).clearWait g e
    (s.moveTo g e (s.spc g e + 8) false).complete g e x.holdSig ia 0

/-- TIL_YREQ.REQ written. -/
def State.yreqWrite (s : State) (g : Nat) (req : Bool) : State :=
  if req then s.fset (R.TIL_YREQ g) F.TIL_YREQ_REQ 1
  else (s.wr (R.TIL_YREQ g) 0).each engsAll fun s e => s.yieldRelease g e

/-- A tile parks when every engine has reached a YIELD or ended and the tile is quiet (R165). -/
def State.park (s : State) (g : Nat) : State :=
  let there := engsAll.all fun e => (s.eng g e).ended || ((s.eng g e).holdY.isSome && !(s.eng g e).faulted)
  if ¬ s.flag (R.TIL_YREQ g) F.TIL_YREQ_REQ ∨ s.flag (R.TIL_YREQ g) F.TIL_YREQ_AT ∨ ¬ there ∨ ¬ s.quiet g then s
  else
    match engsAll.findSome? fun e => (s.eng g e).holdY with
    | none => (s.fset (R.TIL_YREQ g) F.TIL_YREQ_AT 1).fset (R.TIL_YREQ g) F.TIL_YREQ_ENDED 1
    | some ref =>
      match engsAll.find? fun e => match (s.eng g e).holdY with
        | some y => decide (y ≠ ref)
        | none => false with
      | some e => s.tileFault g (engIdx e) 0x18 (s.iaddr g e) none
      | none => (s.fset (R.TIL_YREQ g) F.TIL_YREQ_AT 1).fset (R.TIL_YREQ g) F.TIL_YREQ_ID ref

end Sys2Proof.Machine
end

