-- ==== Sys2Proof/Machine/TileOps.lean ====
section
/-! DEFINITION. What each tile instruction does at its issue stage: the checks of R162 and R176, and the effects of R150 to R158, unit
by unit and block by block until the first line in a bank that is not ON (R98). -/

namespace Sys2Proof.Machine

/-! ## An execution under way -/

/-- Why an execution stopped: a bank still turning ON, a bank that is not ON, a fault. -/
inductive Stop where
  | go | wait
  | bank (a : Nat)
  | fault (cause : Nat) (a : Option Nat)
deriving DecidableEq, Repr

/-- The state so far, why it stopped, and the status gathered. -/
structure Ex where
  s : State
  stop : Stop
  st : Nat

/-- The first of some byte ranges that lies in a bank not ON. -/
def State.firstBadAcc (s : State) (g : Nat) : List (Nat × Nat) → Option (BankAcc × Nat)
  | [] => none
  | (a, n) :: r =>
    match s.loftAcc g a n with
    | (.ok, _) => s.firstBadAcc g r
    | x => some x

/-- One part of an execution: it is done when every line it touches lies in a bank that is ON. -/
def Ex.part (x : Ex) (g : Nat) (accs : List (Nat × Nat)) (f : State → State × Nat) : Ex :=
  match x.stop with
  | .go =>
    match x.s.firstBadAcc g accs with
    | some (.wait, _) => { x with stop := .wait }
    | some (_, l) => { x with stop := .bank l }
    | none => let r := f x.s; ⟨r.1, .go, x.st ||| r.2⟩
  | _ => x

def Ex.each {α : Type} (x : Ex) (l : List α) (f : Ex → α → Ex) : Ex := l.foldl f x

/-! ## Units toward the network -/

/-- The mark of the units that the engine's next instruction presents. -/
def State.viaNext (s : State) (g : Nat) (e : Eng) : Nat := viaOf g (s.eng g e).nextUid

def State.pushLane (s : State) (g k : Nat) (us : List BUnit) : State := s.setInq (laneKey g k) (s.inq (laneKey g k) ++ us)

/-- A contiguous range cut into requests of up to 64 units (R150). -/
def cutUnits (a : Nat) : Nat → Nat → List (Nat × Nat)
  | 0, _ => []
  | f + 1, n => if n = 0 then [] else (a, min n 64) :: cutUnits (a + 2048) f (n - min n 64)

/-- The requests of a MEM region, in run order. -/
def TMem.requests (m : TMem) : List (Nat × Nat) :=
  (List.range (ceilDiv m.count m.run)).flatMap fun r =>
    let n := min m.run (m.count - r * m.run)
    cutUnits (m.addr + r * m.stride) (ceilDiv n 64) n

/-- Request units of an instruction: LASTREQ on the last of them, LAST on the last unit of each (R213, R216). -/
def reqUnits (via part op : Nat) (tgt : Nat → ReqUnit → ReqUnit) : Nat → List (Nat × Nat) → List BUnit
  | _, [] => []
  | k, (a, n) :: r =>
    let q := tgt k ⟨a, n, op, r.isEmpty, part, 0, 0, 0⟩
    ⟨.req, false, false, true, reqBits q, via⟩ :: reqUnits via part op tgt (k + n) r

def dataUnit (via : Nat) (c : UClass) (last : Bool) (x : Sheaf) : BUnit := ⟨c, x.psn, false, last, x.bits, via⟩

/-- A list's last entry marked LAST. -/
def markLast : List BUnit → List BUnit
  | [] => []
  | [u] => [{ u with last := true }]
  | u :: r => u :: markLast r

/-! ## Results of an operation -/

/-- What an executed operation leaves in flight. -/
structure OpOut where
  x : Ex
  need : Nat
  recv : Option (Bool × RecvRec)

/-- An operation that needs nothing further. -/
def OpOut.of (x : Ex) : OpOut := ⟨x, 0, none⟩

/-! ## Moves: LD, CPY, ACOPY, LDD, ST, SEND, RECV, ATOM -/

def psnSt (b : Bool) : Nat := if b then stPsn else 0

def opLd (s : State) (g : Nat) (m : TMem) (t : TLoft) : OpOut :=
  let us := reqUnits (s.viaNext g .le) (s.tileP g) 1 (fun _ q => q) 0 m.requests
  ⟨⟨s.pushLane g 1 us, .go, 0⟩, 1, some (true, ⟨.le, 0, (List.range t.units).map t.unit, false, none, 32⟩)⟩

def opCpy (s : State) (g : Nat) (a b : TLoft) : OpOut :=
  .of ((Ex.mk s .go 0).each (List.range a.units) fun x u =>
    x.part g [(a.unit u, 32), (b.unit u, 32)] fun s =>
      let v := s.loftSheaf g (a.unit u)
      (s.putLoftSheaf g (b.unit u) v, psnSt v.psn))

/-- ACOPY (R151). A target region that runs past Loft address 0x3F_FFFF goes on from 0: TGT gives no end (DESIGN CHOICE, log entry 146). -/
def opAcopy (s : State) (g : Nat) (m : TMem) (t : TTgt) : OpOut :=
  let rs := m.requests
  let us := reqUnits (s.viaNext g .le) (s.tileP g) 3 (fun k q =>
    { q with tpkg := t.pkg, ttile := t.tile, tplace := (t.loft + 32 * k) % 2 ^ 22 + t.acnt * 2 ^ 32 }) 0 rs
  ⟨⟨s.pushLane g 1 us, .go, 0⟩, rs.length, none⟩

/-- LDD: 2 KiB into one table or 12 KiB into all six (R150). -/
def opLdd (s : State) (g eng off : Nat) : OpOut :=
  let a := s.pbase g + 64 * off
  let tabs := if eng = 7 then List.range 6 else [eng]
  let n := 64 * tabs.length
  let us := reqUnits (s.viaNext g .le) (s.tileP g) 1 (fun _ q => q) 0 (cutUnits a tabs.length n)
  let addrs := tabs.flatMap fun e => (List.range 64).map fun i => s.fget (R.TIL_DBASE g e) F.TIL_DBASE_BASE * 2048 + 32 * i
  ⟨⟨s.pushLane g 1 us, .go, 0⟩, 1, some (true, ⟨.le, 0, addrs, false, none, 32⟩)⟩

/-- ST: each request with its units is read and presented in turn. -/
def opSt (s : State) (g : Nat) (t : TLoft) (m : TMem) : OpOut :=
  let rs := m.requests
  let ks := (List.range rs.length).map fun i => ((rs.take i).map (·.2)).foldl (· + ·) 0
  .of ((Ex.mk s .go 0).each (List.range rs.length) fun x i =>
    let r := rs.getD i (0, 0)
    let k := ks.getD i 0
    let as_ := (List.range r.2).map fun j => t.unit (k + j)
    x.part g (as_.map fun a => (a, 32)) fun s =>
      let vs := as_.map fun a => s.loftSheaf g a
      let q : BUnit := ⟨.req, false, false, false, reqBits ⟨r.1, r.2, 2, decide (i + 1 = rs.length), s.tileP g, 0, 0, 0⟩, s.viaNext g .se⟩
      (s.pushLane g 2 (q :: markLast (vs.map (dataUnit (s.viaNext g .se) .req false))), psnSt (vs.any (·.psn))))

/-- A segment header (R215). -/
def segHdr (via n : Nat) : BUnit := ⟨.recv, false, true, false, BitVec.ofNat 256 (n % 2 ^ 32), via⟩

def opSend (s : State) (g : Nat) (t : Option TLoft) (seg : Bool) : OpOut :=
  let n := (t.map (·.units)).getD 0
  let s := if seg then s.pushLane g 0 [{ segHdr (s.viaNext g .ne) n with last := decide (n = 0) }] else s
  match t with
  | none => .of ⟨s, .go, 0⟩
  | some t =>
    .of ((Ex.mk s .go 0).each (List.range n) fun x u =>
      x.part g [(t.unit u, 32)] fun s =>
        let v := s.loftSheaf g (t.unit u)
        (s.pushLane g 0 [dataUnit (s.viaNext g .ne) .recv (decide (u + 1 = n)) v], psnSt v.psn))

def opRecv (s : State) (t : TLoft) (seg : Bool) : OpOut :=
  ⟨⟨s, .go, 0⟩, 1, some (false, ⟨.ne, 0, (List.range t.units).map t.unit, seg, none, 32⟩)⟩

/-- ATOM: the operand unit goes with the request; the old value returns to lane 0 (R157). -/
def opAtom (s : State) (g : Nat) (v : TVec) (m : TMem) (op : Nat) : OpOut :=
  let w := v.width
  let x := (Ex.mk s .go 0).part g [(v.base, 2 * w)] fun s =>
    let opnd := BitVec.ofNat 256 (s.loftNum g v.base w + s.loftNum g (v.base + w) w * 2 ^ 64 + op * 2 ^ 128 + bit v.w64 * 2 ^ 136)
    let q : BUnit := ⟨.req, false, false, false, reqBits ⟨m.addr, 1, 5, true, s.tileP g, 0, 0, 0⟩, s.viaNext g .se⟩
    let psn := s.loftPoison g (v.base / 32 * 32) || s.loftPoison g ((v.base + w) / 32 * 32)
    (s.pushLane g 2 [q, dataUnit (s.viaNext g .se) .req true ⟨opnd, psn⟩], psnSt psn)
  ⟨x, 1, some (true, ⟨.se, 0, [v.base], false, none, w⟩)⟩

/-! ## Accumulate-stores (R49, R157) -/

/-- The elements of block (rb, cb) of a LOFT tensor, row by row, with each row's poison and whether a scale word was reserved. -/
def State.tensorRow (s : State) (g : Nat) (t : TLoft) (row cb : Nat) : List (Int × Int) × Bool × Bool :=
  let e := fmtCount t.fmt
  let xs := (List.range 8).map fun j =>
    let v := s.loftSheaf g (t.at_ row ((8 * cb + j) / e))
    let z := (sheafContrib t.fmt v.bits).getD ((8 * cb + j) % e) (0, 0)
    (z, v.psn, sheafReserved v.bits)
  (xs.map (·.1), xs.any (·.2.1), xs.any (·.2.2))

def tensorAccs (t : TLoft) (rb cb : Nat) : List (Nat × Nat) :=
  let e := fmtCount t.fmt
  (List.range 16).flatMap fun i =>
    [(t.at_ (16 * rb + i) (8 * cb / e), 32), (t.at_ (16 * rb + i) ((8 * cb + 7) / e), 32)]

/-- A contribution: its units after the info unit with their poison, the info unit, and whether a scale word was reserved. -/
structure Contrib where
  info : SheafBits
  units : List (SheafBits × Bool)
  fmt : Bool
deriving DecidableEq, Repr

def State.contribAcc (s : State) (g : Nat) (t : TAcc) (b : Nat) (tgt48 : Bool) : Contrib :=
  let vals := accValsOf t.a48 (s.loftBytes g (t.block b) (accBytes t.a48))
  let bytes := if t.a48 then vals.flatMap fun z => leBytes 8 (toField 64 z) else accValsBytes false vals
  ⟨contribInfo (bit t.a48) tgt48 (s.expWord g (t.block b) (accBytes t.a48) (t.exp b)), (unitsOfBytes bytes).map fun u => (u, false), false⟩

def State.contribLoft (s : State) (g : Nat) (t : TLoft) (rb cb : Nat) (tgt48 : Bool) : Contrib :=
  let rows := (List.range 16).map fun i => s.tensorRow g t (16 * rb + i) cb
  ⟨contribInfo 2 tgt48 0, rows.map fun r =>
    (sheafOfBytes (r.1.flatMap fun z => leBytes 4 (toField 24 z.1 + toField 8 z.2 * 2 ^ 24)), r.2.1), rows.any (·.2.2)⟩

/-- The source of an accumulate-store. -/
inductive StaSrc where
  | acc (t : TAcc)
  | loft (t : TLoft)
deriving DecidableEq, Repr

def StaSrc.nb1 : StaSrc → Nat
  | .acc t => t.nb1
  | .loft t => t.n1 / 16
def StaSrc.nb2 : StaSrc → Nat
  | .acc t => t.nb2
  | .loft t => t.ns * fmtCount t.fmt / 8
def StaSrc.accs (x : StaSrc) (b : Nat) : List (Nat × Nat) :=
  match x with
  | .acc t => [(t.block b, accBytes t.a48), (t.exp b, 4)]
  | .loft t => tensorAccs t (b / x.nb2) (b % x.nb2)
def State.contrib (s : State) (g : Nat) (x : StaSrc) (b : Nat) (tgt48 : Bool) : Contrib :=
  match x with
  | .acc t => s.contribAcc g t b tgt48
  | .loft t => s.contribLoft g t (b / x.nb2) (b % x.nb2) tgt48

/-- The target of an accumulate-store. -/
inductive StaTgt where
  | acc (t : TAcc)
  | mem (m : TMem)
  | tgt (t : TTgt)
deriving DecidableEq, Repr

def Contrib.psn (c : Contrib) : Bool := c.units.any (·.2) || contribPsn [c.info]
def Contrib.status (c : Contrib) : Nat := psnSt c.psn ||| (if c.fmt then stFmt else 0)

/-- A contribution added into a block of the tile's own Loft; status carries INEXACT and ACCSAT of this addition (R49). -/
def State.accOwn (s : State) (g : Nat) (t : TAcc) (b : Nat) (c : Contrib) : State × Nat :=
  let old := accOf t.a48 (s.loftBytes g (t.block b) (accBytes t.a48)) (s.expWord g (t.block b) (accBytes t.a48) (t.exp b))
  let r := accApply { old with inx := false, sat := false } (c.info :: c.units.map (·.1)) (c.units.any (·.2))
  let n := { r with inx := r.inx || old.inx, sat := r.sat || old.sat }
  let s := s.putLoftBytes g (t.block b) (accValsBytes t.a48 n.vals)
  let s := s.clearPsn g (t.block b) (accBytes t.a48)
  (s.putLoftNum g (t.exp b) 4 (accWord n),
    c.status ||| (if r.inx then stInx else 0) ||| (if r.sat then stAccSat else 0) ||| psnSt n.psn)

/-- The runs that the units of a MEM target take from unit `u` on. -/
def TMem.blockRun (m : TMem) (u : Nat) : AccRunGeo :=
  let pos := u % m.run
  let first := min 24 (m.run - pos)
  if m.run ≤ 24 then ⟨first, m.run, m.stride % 2 ^ 48⟩ else ⟨first, 25, ((m.stride : Int) - 32 * pos) % (2 ^ 48 : Nat) |>.toNat⟩

/-- The marker in a request unit's byte 31 of an accumulate-store into a tile of another package (log entry 12). -/
def tileMark : Nat := 2 ^ 120

/-- STA (R49, R157). A LOFT source goes to a TGT target as A32 blocks: TGT names no form (DESIGN CHOICE, log entry 145). -/
def opSta (s : State) (g : Nat) (src : StaSrc) (tgt : StaTgt) : OpOut :=
  let n := src.nb1 * src.nb2
  let a48 := match tgt, src with
    | .acc t, _ => t.a48
    | .mem m, _ => decide (m.count = n * 24)
    | .tgt _, .acc t => t.a48
    | .tgt _, .loft _ => false
  let per := accBytes a48
  .of ((Ex.mk s .go 0).each (List.range n) fun x b =>
    let last := decide (b + 1 = n)
    let own := match tgt with
      | .acc t => [(t.block b, per), (t.exp b, 4)]
      | _ => []
    x.part g (src.accs b ++ own) fun s =>
      let c := s.contrib g src b a48
      let us := ⟨c.info, false⟩ :: c.units.map fun u => Sheaf.mk u.1 u.2
      let req (q : ReqUnit) : State :=
        s.pushLane g 2 (⟨.req, false, false, false, reqBits q, s.viaNext g .se⟩ :: markLast (us.map (dataUnit (s.viaNext g .se) .req false)))
      match tgt with
      | .acc t => s.accOwn g t b c
      | .mem m =>
        let u := b * (per / 32)
        (req ⟨m.unit u, us.length, 4, last, s.tileP g, 0, 0, (m.blockRun u).bits (m.expOff u)⟩, c.status)
      | .tgt t =>
        if t.pkg = s.pkgOwn then
          let h : BUnit := ⟨.place, false, true, false, placeHdr us.length (t.loft + b * per) t.acnt true (t.texpw + 4 * b), s.viaNext g .se⟩
          (s.pushLane g 2 (h :: (if last then markLast else id) (us.map (dataUnit (s.viaNext g .se) .place false))), c.status)
        else
          (req ⟨2 ^ 62 + t.pkg * 2 ^ 50, us.length, 4, last, s.tileP g, t.pkg, t.tile,
            t.loft + b * per + t.acnt * 2 ^ 32 + 2 ^ 40 + (t.texpw + 4 * b) * 2 ^ 48 + tileMark⟩, c.status))

/-! ## MM (R83 to R86, R152, R153, R544) and the Winnow unit (R66, R67) -/

/-- The vector of a tensor's row or column, along the packing dimension. -/
def State.vecOf (s : State) (g : Nat) (t : TLoft) (i : Nat) : List Sheaf := (List.range t.ns).map fun j => s.loftSheaf g (t.at_ i j)
def vecAccs (t : TLoft) (i : Nat) : List (Nat × Nat) := (List.range t.ns).map fun j => (t.at_ i j, 32)

/-- What a matrix product needs beside its operands. -/
structure MmGeo where
  fw : Fmt
  fa : Fmt
  n : Nat
  width : Nat
  bound : Nat
  granules : Nat
deriving DecidableEq, Repr

def mmGeo (fw fa : Fmt) (sheavesW : Nat) : MmGeo :=
  let p := (effPair fw fa).getD (fw, fa)
  let n := granuleLen p.1 p.2
  ⟨fw, fa, n, accWidth p.1 p.2, granuleBound p.1 p.2, sheavesW * fmtCount fw / n⟩

/-- Block granules skipped: all 16 activation sheaves, or all 8 weight sheaves, are zero blocks (R86). -/
def MmGeo.skips (m : MmGeo) (ws as_ : List (List Sheaf)) : Nat :=
  ((List.range m.granules).filter fun k =>
    (ws.all fun v => sheafIsZero (sheafNth v (k * m.n / fmtCount m.fw)).bits) ||
      (as_.all fun v => sheafIsZero (sheafNth v (k * m.n / fmtCount m.fa)).bits)).length

/-- One output block of form `a48` from 8 weight vectors and 16 activation vectors, over an existing block where given (R152, R544). -/
def mmBlock (m : MmGeo) (a48 : Bool) (ws as_ : List (List Sheaf)) (old : Option AccBlock) : AccBlock × Bool × Bool :=
  let outs := (List.range 16).flatMap fun i => (List.range 8).map fun j =>
    let start : Wide := match old with
      | some b => ⟨true, b.vals.getD (8 * i + j) 0 * (2 ^ 32 : Nat), b.x - 32, false⟩
      | none => wideEmpty
    dotElem m.width m.bound m.fw m.fa (ws.getD j []) (as_.getD i []) m.granules start
  let psn := outs.any (·.psn)
  let b := narrow a48 (outs.map (·.acc.wide)) psn
  let oinx := match old with
    | some o => o.inx
    | none => false
  let osat := match old with
    | some o => o.sat
    | none => false
  let opsn := match old with
    | some o => o.psn
    | none => false
  ({ b with psn := psn || opsn, inx := b.inx || oinx, sat := osat }, b.inx, outs.any (·.fmt))

/-- An exponent that leaves the 16 bits of the exponent word reads back as a free value (log entry 143). -/
def State.fitExp (s : State) (x : Int) : State × Int :=
  if fitsSigned 16 x then (s, x) else (s.fresh.2, sext 16 s.fresh.1)

/-- An accumulator block written with its exponent word; poison lies in the word only, and the sheaves' own bits clear. -/
def State.putAcc (s : State) (g a e : Nat) (b : AccBlock) : State :=
  let x := s.fitExp b.x
  let s := x.1
  let b := { b with x := x.2 }
  let s := s.putLoftBytes g a (accValsBytes b.a48 b.vals)
  let s := s.clearPsn g a (accBytes b.a48)
  s.putLoftNum g e 4 (accWord b)

def State.getAcc (s : State) (g a e : Nat) (a48 : Bool) : AccBlock := 
  accOf a48 (s.loftBytes g a (accBytes a48)) (s.expWord g a (accBytes a48) e)

/-- The Winnow unit at a block's beginning (R66, R67): the LFSR steps for eligible clusters, and while EN is set a selected block is
captured with its result, skipped, or abandoned. The cycles a capture adds to WNWSTALL are a free value (log entry 144). -/
def State.winnow (s : State) (g blk iaddr : Nat) (m : MmGeo) (ws as_ : List (List Sheaf)) (res : AccBlock) : State :=
  let d := g / 64
  let a := R.WNW_CTL d
  if ¬ (s.fget a F.WNW_CTL_CLMASK).testBit (g % 64 / 8) then s
  else
    let x := lfsrStep (BitVec.ofNat 32 (s.fget (R.WNW_SEED d) F.WNW_SEED_LFSR))
    let s := s.fset (R.WNW_SEED d) F.WNW_SEED_LFSR x.toNat
    if ¬ s.flag a F.WNW_CTL_EN then s
    else if x.toNat % 2 ^ s.fget a F.WNW_CTL_RATE ≠ 0 then s
    else if (spGet (fun _ => none) s.captures d).isSome then s.fadd (R.WNW_CNT1 d) F.WNW_CNT1_SKIPPED 1
    else if 32768 < ((ws ++ as_).map (·.length)).foldl (· + ·) 0 then s.fadd (R.WNW_CNT1 d) F.WNW_CNT1_ABANDONED 1
    else if (ws ++ as_).any (fun v => v.any (·.psn)) then s.fadd (R.WNW_CNT1 d) F.WNW_CNT1_ABANDONED 1
    else
      let f := s.fresh
      let s := f.2.fadd (R.TIL_ARCNT2 g) F.TIL_ARCNT2_WNWSTALL (f.1 % 2 ^ 32)
      { s with captures := spPut (fun _ => none) s.captures d (some ⟨g, blk, iaddr, m.fw, m.fa, ws, as_, m.granules, res⟩) }

/-- The counts of one output block (R120, R121). -/
def State.mmCounts (s : State) (g : Nat) (m : MmGeo) (ws as_ : List (List Sheaf)) : State :=
  let z := m.skips ws as_
  let s := s.tilCnt g (R.TIL_MECNT2 g) F.TIL_MECNT2_ZSKIP z
  if s.flag (R.TIL_CNTCTL g) F.TIL_CNTCTL_FREEZE then s
  else
    let t := (s.tile g).macs + (m.granules - z) * m.n * 128
    (s.modTile g fun x => { x with macs := t % 64 }).fadd (R.TIL_MECNT g) F.TIL_MECNT_MAC64 (t / 64)

/-- One output block of a matrix instruction computed and written: its effect and its status. -/
def State.mmOne (s : State) (g blk iaddr : Nat) (m : MmGeo) (a48 : Bool) (ws as_ : List (List Sheaf)) (a e : Nat) (acc : Bool) :
    State × Nat :=
  let r := mmBlock m a48 ws as_ (if acc then some (s.getAcc g a e a48) else none)
  let s := s.winnow g blk iaddr m ws as_ r.1
  let s := (s.mmCounts g m ws as_).putAcc g a e r.1
  (s, psnSt r.1.psn ||| (if r.2.1 then stInx else 0) ||| (if r.2.2 then stFmt else 0))

/-- MM over its whole grid of blocks (R153); a mask-driven MM only takes its place in flight. -/
def opMm (s : State) (g iaddr : Nat) (w a : TLoft) (c : TAcc) (strip : Nat) (acc mq : Bool) : OpOut :=
  if mq then ⟨⟨s, .go, 0⟩, 1, none⟩
  else
    let m := mmGeo w.fmt a.fmt w.ns
    let k := if strip = 0 then 4 else strip
    .of ((Ex.mk s .go 0).each (List.range c.count) fun x b =>
      let rb := b / c.nb2
      let cb := b % c.nb2
      let rows := (List.range 16).map fun i => 16 * rb + i
      let cols := (List.range 8).map fun j => 8 * cb + j
      x.part g ((rows.flatMap (vecAccs a)) ++ (cols.flatMap (vecAccs w)) ++ [(c.block b, accBytes c.a48), (c.exp b, 4)]) fun s =>
        let r := s.mmOne g b iaddr m c.a48 (cols.map (s.vecOf g w)) (rows.map (s.vecOf g a)) (c.block b) (c.exp b) acc
        (if cb % k = k - 1 ∨ cb + 1 = c.nb2 then r.1.tilCnt g (R.TIL_MECNT2 g) F.TIL_MECNT2_STRIPS 1 else r.1, r.2))

/-! ## The vector engine (R154, R155, R542) -/

/-- Counts of one requantised output sheaf (R74). -/
def State.rqCounts (s : State) (g : Nat) (o : RqOut) : State :=
  let s := s.fadd (R.TIL_ARCNT0 g) F.TIL_ARCNT0_SATELEM o.satElems
  let s := if o.satBlk then s.fadd (R.TIL_ARCNT0 g) F.TIL_ARCNT0_SATBLK 1 else s
  if o.zeroBlk then s.fadd (R.TIL_ARCNT1 g) F.TIL_ARCNT1_ZEROBLK 1 else s

def RqOut.status (o : RqOut) : Nat :=
  (if 0 < o.satElems then stSat else 0) ||| (if o.satBlk then stSatBlk else 0) ||| (if o.fmt then stFmt else 0)

/-- The elements of output sheaf `sh` of row `i` that RQ reads from a grid of blocks, with the poison of the blocks it reads. -/
def State.accElems (s : State) (g : Nat) (t : TAcc) (e i sh : Nat) : List (Int × Int) × Bool :=
  let xs := (List.range e).map fun k =>
    let j := sh * e + k
    if j < 8 * t.nb2 then
      let b := i / 16 * t.nb2 + j / 8
      let n := accValBytes t.a48
      let a := t.block b + n * (i % 16 * 8 + j % 8)
      let w := s.expWord g a n (t.exp b)
      ((sext (8 * n) (s.loftNum g a n), sext 16 w), w.testBit 18)
    else ((0, 0), false)
  (xs.map (·.1), xs.any (·.2))

def accElemAccs (t : TAcc) (e i sh : Nat) : List (Nat × Nat) :=
  ((List.range e).filterMap fun k =>
    let j := sh * e + k
    if j < 8 * t.nb2 then some (i / 16 * t.nb2 + j / 8) else none).eraseDups.flatMap fun b =>
      [(t.block b + accValBytes t.a48 * (i % 16 * 8), 8 * accValBytes t.a48), (t.exp b, 4)]

def opRq (s : State) (g : Nat) (a : TAcc) (b : TLoft) (q : TRqp) : OpOut :=
  let e := fmtCount q.fmt
  let grid := (List.range b.n1).flatMap fun i => (List.range b.ns).map fun j => (i, j)
  let r := grid.foldl (fun (acc : Ex × Rng) ij =>
    let i := ij.1
    let kaddr := q.kaddr + 2 * i
    let accs := accElemAccs a e i ij.2 ++ (if q.kvec then [(kaddr, 2)] else []) ++ [(b.at_ i ij.2, 32)]
    let st := acc.1.s
    let k := if q.kvec then st.loftNum g kaddr 2 else q.k
    let el := st.accElems g a e i ij.2
    let kp := q.kvec && st.loftPoison g (kaddr / 32 * 32)
    let o := rqSheafRng ⟨q.fmt, k, if q.dyn then none else some q.scale, q.sto⟩ el.1 acc.2
    let x := acc.1.part g accs fun s =>
      let s := (s.rqCounts g o.1).putLoftSheaf g (b.at_ i ij.2) ⟨o.1.bits, el.2 || kp⟩
      let s := if q.sto then s.fset (R.TIL_RNG g) F.TIL_RNG_STATE o.2.x.toNat else s
      (s, o.1.status ||| psnSt (el.2 || kp))
    (x, if x.stop = .go then o.2 else acc.2)) (⟨s, .go, 0⟩, ⟨BitVec.ofNat 64 (s.fget (R.TIL_RNG g) F.TIL_RNG_STATE), []⟩)
  .of r.1

/-- The state an execution has reached, with the value of a function of it; a stopped execution's value is used by no part. -/
def Ex.read {α : Type} (x : Ex) (f : State → α) : α := f x.s

/-- NORM over its rows, then its blocks (R60, R148, R154). -/
def opNorm (s : State) (g : Nat) (a b : TLoft) (c : TAcc) (rlen eps : Nat) : OpOut :=
  .of ((Ex.mk s .go 0).each (List.range c.nb1) fun x rb =>
    let rows := (List.range 16).map fun i => 16 * rb + i
    let x := x.part g (rows.flatMap (vecAccs a)) fun s => (s, 0)
    let ins := x.read fun s => rows.map (s.vecOf g a)
    let sts := ins.map fun us => normStat a.fmt rlen eps (us.map (·.bits))
    let psn := ins.any fun us => us.any (·.psn)
    let fmt := ins.any fun us => us.any fun v => sheafReserved v.bits
    x.each (List.range c.nb2) fun x cb =>
      let blk := rb * c.nb2 + cb
      let e := fmtCount a.fmt
      let cols := (List.range 8).map fun j => 8 * cb + j
      x.part g ((cols.map fun j => (b.at_ 0 (j / e), 32)) ++ [(c.block blk, accBytes c.a48), (c.exp blk, 4)]) fun s =>
        let ws := s.vecOf g b 0
        let wOf (j : Nat) : Sheaf := sheafNth ws (j / e)
        let psn := psn || cols.any fun j => (wOf j).psn
        let fmt := fmt || cols.any fun j => sheafReserved (wOf j).bits
        let r := narrow c.a48 ((List.range 16).flatMap fun i => cols.map fun j =>
          normElem a.fmt (sts.getD i ⟨0, 0, false⟩) (sheafNth (ins.getD i []) (j / e)).bits (wOf j).bits (j % e)) psn
        (s.putAcc g (c.block blk) (c.exp blk) r,
          psnSt psn ||| (if r.inx then stInx else 0) ||| (if fmt then stFmt else 0)))

/-- One element of EMUL's product as a wide sum (R154): nothing where either sheaf is a zero block. -/
def emulElem (relu : Bool) (f : Fmt) (x y : SheafBits) (k : Nat) : Wide :=
  match scaleOf (scaleWord x), scaleOf (scaleWord y) with
  | .val ma ea, .val mb eb =>
    let qa := sheafElem f x k
    let qa := if relu && decide (qa < 0) then 0 else qa
    foldWide wideEmpty (qa * sheafElem f y k * (ma * mb : Nat)) (ea + eb - 14)
  | _, _ => wideEmpty

def opEmul (s : State) (g : Nat) (a b : TLoft) (c : TAcc) (relu : Bool) : OpOut :=
  let e := fmtCount a.fmt
  .of ((Ex.mk s .go 0).each (List.range c.count) fun x blk =>
    let rb := blk / c.nb2
    let cb := blk % c.nb2
    x.part g (tensorAccs a rb cb ++ tensorAccs b rb cb ++ [(c.block blk, accBytes c.a48), (c.exp blk, 4)]) fun s =>
      let cells := (List.range 16).flatMap fun i => (List.range 8).map fun j =>
        let p := s.loftSheaf g (a.at_ (16 * rb + i) ((8 * cb + j) / e))
        let q := s.loftSheaf g (b.at_ (16 * rb + i) ((8 * cb + j) / e))
        (emulElem relu a.fmt p.bits q.bits ((8 * cb + j) % e), p.psn || q.psn, sheafReserved p.bits || sheafReserved q.bits)
      let psn := cells.any (·.2.1)
      let r := narrow c.a48 (cells.map (·.1)) psn
      (s.putAcc g (c.block blk) (c.exp blk) r,
        psnSt psn ||| (if r.inx then stInx else 0) ||| (if cells.any (·.2.2) then stFmt else 0)))

/-- A lane of a VEC: its bits and the poison of the sheaves it lies in. -/
def State.lane (s : State) (g : Nat) (v : TVec) (i : Nat) : Nat × Bool :=
  let a := v.base + i * v.width
  (s.loftNum g a v.width, s.loftPoison g (a / 32 * 32))

/-- Lanes written from lane `i0` of an operation's output; a sheaf that a poisoned lane contributed to is poisoned (R42), the first one
also by the lanes before `i0` that this operation has put there. -/
def State.putLanes (s : State) (g : Nat) (v : TVec) (i0 : Nat) (l : List (Nat × Bool)) : State :=
  let at_ (i : Nat) : Nat := v.base + i * v.width
  let first := at_ i0 / 32 * 32
  let was := decide (0 < i0) && decide (at_ (i0 - 1) / 32 * 32 = first) && s.loftPoison g first
  let s := (List.range l.length).foldl (fun s i => s.putLoftNum g (at_ (i0 + i)) v.width (l.getD i (0, false)).1) s
  let s := (List.range l.length).foldl (fun s i =>
    if (l.getD i (0, false)).2 then s.setLoftPoison g (at_ (i0 + i) / 32 * 32) true else s) s
  if was then s.setLoftPoison g first true else s

/-- LANE's result on two signed 32-bit lanes: the exact value, to be clamped (R62, R542). -/
def laneOp (op : Nat) (a b : Int) : Int :=
  let sh := (max b 0).toNat
  match op with
  | 0 => a + b
  | 1 => a - b
  | 2 => a * b
  | 3 => min a b
  | 4 => max a b
  | 5 => a * (2 ^ min sh 64 : Nat)
  | 6 => a / (2 ^ min sh 31 : Nat)
  | 7 => sext 32 (toField 32 a &&& toField 32 b)
  | 8 => sext 32 (toField 32 a ||| toField 32 b)
  | 9 => sext 32 (toField 32 a ^^^ toField 32 b)
  | _ => if b < a then 1 else 0

def clamp32 (z : Int) : Nat × Bool := (toField 32 (clampSigned 32 z), !fitsSigned 32 z)

/-- A vector operation: groups of lanes are computed and written one sheaf-run after another. -/
def opLanes (s : State) (g : Nat) (ins : List TVec) (out : TVec) (per : Nat) (f : State → Nat → State × List (Nat × Bool) × Nat) : OpOut :=
  let n := ceilDiv out.count per
  .of ((Ex.mk s .go 0).each (List.range n) fun x k =>
    let cnt := min per (out.count - k * per)
    let r := out.count
    let src := ins.map fun v => let m := v.count / max r 1 + bit (decide (v.count % max r 1 ≠ 0))
      (v.base + k * per * m * v.width, min (cnt * m) (v.count - k * per * m) * v.width)
    x.part g (src ++ [(out.base + k * per * out.width, cnt * out.width)]) fun s =>
      let o := (List.range cnt).foldl (fun (z : State × List (Nat × Bool) × Nat) i =>
        let y := f z.1 (k * per + i); (y.1, z.2.1 ++ y.2.1, z.2.2 ||| y.2.2)) (s, [], 0)
      let s := o.1.putLanes g out (k * per) o.2.1
      (s, o.2.2))

def opLane (s : State) (g : Nat) (a b c : TVec) (op : Nat) : OpOut :=
  opLanes s g [a, b] c 8 fun s i =>
    let x := s.lane g a i
    let y := s.lane g b i
    let r := clamp32 (laneOp op (sext 32 x.1) (sext 32 y.1))
    (s, [(r.1, x.2 || y.2)], psnSt (x.2 || y.2) ||| (if r.2 then stLsat else 0))

/-- FN on one lane; exp2's exponent field where it overflows, and bits [63:48] of a reciprocal square root, are free values. -/
def fnLane (s : State) (f v : Nat) : State × Nat :=
  match f with
  | 0 =>
    let r := exp2Fn (sext 32 v)
    if r.2 = 32768 then let z := s.fresh; (z.2, r.1 + z.1 % 65536 * 65536)
    else (s, r.1 + toField 16 r.2 * 65536)
  | 1 => (s, toField 32 (log2Fn v))
  | _ =>
    let r := rsqrtFn (v % 2 ^ 48) (sext 16 (v / 2 ^ 48))
    let z := s.fresh
    (z.2, r.1 % 2 ^ 32 + toField 16 r.2 * 2 ^ 32 + z.1 % 65536 * 2 ^ 48)

def opFn (s : State) (g : Nat) (a c : TVec) (f : Nat) : OpOut :=
  opLanes s g [a] c 4 fun s i =>
    let x := s.lane g a i
    let r := fnLane s f x.1
    (r.1, [(r.2, x.2)], psnSt x.2)

def opRed (s : State) (g : Nat) (a c : TVec) (mx : Bool) : OpOut :=
  .of ((Ex.mk s .go 0).each (List.range c.count) fun x k =>
    let cnt := min 64 (a.count - 64 * k)
    x.part g [(a.base + 256 * k, 4 * cnt), (c.base + 4 * k, 4)] fun s =>
      let ls := (List.range cnt).map fun i => s.lane g a (64 * k + i)
      let vs := ls.map fun l => sext 32 l.1
      let z := if mx then vs.foldl max (vs.headD 0) else vs.foldl (· + ·) 0
      let r := clamp32 z
      let psn := ls.any (·.2)
      (s.putLanes g c k [(r.1, psn)], psnSt psn ||| (if r.2 then stLsat else 0)))

/-! ## Issue checks (R139, R140, R162) -/

/-- The descriptors an operation reads, in the order of R162, with the kinds each slot accepts; the flag marks a slot that names a further one. -/
def opSlots (op : TOp) : List (Nat × List Nat) :=
  match op with
  | .ld a b => [(a, [2]), (b, [1])]
  | .cpy a b => [(a, [1]), (b, [1])]
  | .acopy a b => [(a, [2]), (b, [6])]
  | .mm a b c _ _ _ => [(a, [1]), (b, [1]), (c, [3])]
  | .rq a b c => [(a, [3]), (b, [1]), (c, [4])]
  | .norm a b c => [(a, [1]), (b, [1]), (c, [5])]
  | .emul a b c _ => [(a, [1]), (b, [1]), (c, [3])]
  | .lane a b c _ => [(a, [8]), (b, [8]), (c, [8])]
  | .fn a c _ => [(a, [8]), (c, [8])]
  | .red a c _ => [(a, [8]), (c, [8])]
  | .smx a b c => [(a, [3]), (b, [1]), (c, [8])]
  | .walk a => [(a, [7])]
  | .st a b => [(a, [1]), (b, [2])]
  | .sta a b => [(a, [1, 3]), (b, [3, 2, 6])]
  | .atom a b _ => [(a, [8]), (b, [2])]
  | .send a _ empty => if empty then [] else [(a, [1])]
  | .recv b _ => [(b, [1])]
  | _ => []

/-- The descriptor entries read, the OUT of an NRM last: an entry of another kind, or one whose bank is not ON, names none. -/
def State.slotsOf (s : State) (g : Nat) (e : Eng) (op : TOp) : List (Nat × List Nat) :=
  let l := opSlots op
  match op with
  | .norm _ _ c =>
    let d := s.descRead g e c
    if (s.loftAcc g d.addr 32).1 = .ok ∧ d.kind = 5 then l ++ [(d.f 0 9 4, [3])] else l
  | _ => l

/-- A relation between two descriptors that SHAPE requires, with their places in the order. -/
structure Rel where
  ok : Bool
  i : Nat
  j : Nat
deriving DecidableEq, Repr

/-- The place of the descriptor that a broken relation raises SHAPE for. -/
def Rel.blamed (r : Rel) : Nat := if Config.shapeBlamesLater then max r.i r.j else min r.i r.j

/-- The shapes that must agree, per operation (R150, R153 to R157); `ds` are the descriptors in order. -/
def shapeRels (op : TOp) (x : EngSt) (ds : List Desc) : List Rel :=
  let d (i : Nat) : Desc := ds.getD i ⟨0, 0⟩
  let L (i : Nat) : TLoft := (d i).toLoft x
  let A (i : Nat) : TAcc := (d i).toAcc x
  let V (i : Nat) : TVec := (d i).toVec x
  let M (i : Nat) : TMem := (d i).toMem x
  match op with
  | .ld _ _ => [⟨decide ((M 0).count = (L 1).units), 0, 1⟩]
  | .st _ _ => [⟨decide ((L 0).units = (M 1).count), 0, 1⟩]
  | .cpy _ _ => [⟨decide ((L 0).units = (L 1).units), 0, 1⟩]
  | .mm _ _ _ _ _ _ =>
    [⟨decide ((L 0).ns * fmtCount (L 0).fmt = (L 1).ns * fmtCount (L 1).fmt), 0, 1⟩,
     ⟨decide ((L 0).n1 = 8 * (A 2).nb2), 0, 2⟩, ⟨decide ((L 1).n1 = 16 * (A 2).nb1), 1, 2⟩,
     ⟨match effPair (L 0).fmt (L 1).fmt with
        | some p => (A 2).a48 == decide (accWidth p.1 p.2 = 48)
        | none => true, 2, 2⟩]
  | .rq _ _ _ =>
    [⟨decide ((L 1).fmt = (d 2).toRqp.fmt), 1, 2⟩, ⟨decide ((L 1).n1 = 16 * (A 0).nb1), 0, 1⟩,
     ⟨decide ((L 1).ns = ceilDiv (8 * (A 0).nb2) (fmtCount (L 1).fmt)), 0, 1⟩]
  | .norm _ _ _ =>
    [⟨decide ((L 0).fmt = .s16), 0, 0⟩, ⟨(L 0).n1 % 16 == 0 && (L 0).ns * 15 % 8 == 0, 0, 0⟩,
     ⟨decide ((L 1).fmt = .s16) && decide ((L 1).n1 = 1), 1, 1⟩, ⟨decide ((L 1).ns = (L 0).ns), 0, 1⟩,
     ⟨decide ((A 3).nb1 = (L 0).n1 / 16) && decide ((A 3).nb2 = 15 * (L 0).ns / 8), 0, 3⟩]
  | .emul _ _ _ _ =>
    [⟨decide ((L 0).fmt = (L 1).fmt) && decide ((L 0).n1 = (L 1).n1) && decide ((L 0).ns = (L 1).ns), 0, 1⟩,
     ⟨(L 0).n1 % 16 == 0 && (L 0).ns * fmtCount (L 0).fmt % 8 == 0, 0, 0⟩,
     ⟨decide ((A 2).nb1 = (L 0).n1 / 16) && decide ((A 2).nb2 = (L 0).ns * fmtCount (L 0).fmt / 8), 0, 2⟩]
  | .lane _ _ _ _ =>
    [⟨!(V 0).w64, 0, 0⟩, ⟨!(V 1).w64, 1, 1⟩, ⟨!(V 2).w64, 2, 2⟩, ⟨decide ((V 0).count = (V 1).count), 0, 1⟩,
     ⟨decide ((V 0).count = (V 2).count), 0, 2⟩]
  | .fn _ _ f =>
    [⟨(V 0).w64 == decide (f = 2), 0, 0⟩, ⟨(V 1).w64 == decide (f = 2), 1, 1⟩, ⟨decide ((V 0).count = (V 1).count), 0, 1⟩]
  | .red _ _ _ =>
    [⟨!(V 0).w64, 0, 0⟩, ⟨!(V 1).w64, 1, 1⟩, ⟨decide ((V 1).count = ceilDiv (V 0).count 64), 0, 1⟩]
  | .sta _ _ =>
    let src : StaSrc := if (d 0).kind = 3 then .acc (A 0) else .loft (L 0)
    let own := if (d 0).kind = 3 then true else (L 0).n1 % 16 == 0 && (L 0).ns * fmtCount (L 0).fmt % 8 == 0
    let n := src.nb1 * src.nb2
    [⟨own, 0, 0⟩,
     ⟨match (d 1).kind with
        | 3 => decide ((A 1).nb1 = src.nb1) && decide ((A 1).nb2 = src.nb2)
        | 2 => decide ((M 1).count = n * 16) || decide ((M 1).count = n * 24)
        | _ => true, 0, 1⟩]
  | .atom _ _ _ => [⟨decide ((V 0).count = 2), 0, 0⟩, ⟨decide ((M 1).count = 1), 1, 1⟩]
  | _ => []

/-- Data areas that a descriptor names beside its base: the factors of an RQP (R147). -/
def extraLoftOk (op : TOp) (x : EngSt) (ds : List Desc) (i : Nat) : Bool :=
  match op with
  | .rq _ _ _ =>
    if i = 2 then
      let q := (ds.getD 2 ⟨0, 0⟩).toRqp
      !q.kvec || decide (q.kaddr + 2 * ((ds.getD 1 ⟨0, 0⟩).toLoft x).n1 ≤ 2 ^ 22)
    else true
  | _ => true

/-- The units of one accumulator block of a STA's MEM target; 0 for every other operation. -/
def staBlockUnits (op : TOp) (ds : List Desc) (x : EngSt) : Nat :=
  match op with
  | .sta _ _ =>
    let d := ds.getD 0 ⟨0, 0⟩
    let src : StaSrc := if d.kind = 3 then .acc (d.toAcc x) else .loft (d.toLoft x)
    if ((ds.getD 1 ⟨0, 0⟩).toMem x).count = src.nb1 * src.nb2 * 24 then 24 else 16
  | _ => 0

/-- What the issue stage finds (R162). -/
inductive IssueChk where
  | ok (ds : List Desc)
  | wait
  | fault (cause : Nat) (laddr : Nat)
deriving DecidableEq, Repr

def State.issueChk (s : State) (g : Nat) (e : Eng) (op : TOp) : IssueChk :=
  let sl := s.slotsOf g e op
  let addrs := sl.map fun k => s.descAddr g e k.1
  match s.firstBadAcc g (addrs.map fun a => (a, 32)) with
  | some (.wait, _) => .wait
  | some (_, l) => .fault 0x02 ((addrs.find? fun a => decide (a / 64 = l / 64)).getD l)
  | none =>
    let ds := sl.map fun k => s.descRead g e k.1
    let x := s.eng g e
    let ix := List.range ds.length
    let d (i : Nat) : Desc := ds.getD i ⟨0, 0⟩
    let first (ok : Nat → Bool) : Option Nat := ix.find? fun i => !ok i
    match first fun i => (sl.getD i (0, [])).2.contains (d i).kind with
    | some i => .fault 0x10 (d i).addr
    | none =>
      match first fun i => (d i).alignOk with
      | some i => .fault 0x12 (d i).addr
      | none =>
        match first fun i => (d i).loftOk x && extraLoftOk op x ds i with
        | some i => .fault 0x03 (d i).addr
        | none =>
          match first fun i => (d i).shapeOk x && (shapeRels op x ds).all fun r => r.ok || decide (r.blamed ≠ i) with
          | some i => .fault 0x11 (d i).addr
          | none =>
            match first fun i => !((d i).kind == 2) || (s.memOk g ((d i).toMem x) && s.expOk g (staBlockUnits op ds x) ((d i).toMem x)) with
            | some i => .fault 0x17 (d i).addr
            | none =>
              match op with
              | .mm _ _ _ _ _ _ =>
                if (effPair ((d 0).toLoft x).fmt ((d 1).toLoft x).fmt).isNone then .fault 0x01 (d 1).addr else .ok ds
              | _ => .ok ds

end Sys2Proof.Machine
end

