-- ==== Sys2Proof/Machine/Walk.lean ====
section
/-! DEFINITION. The attention walker and the steps that consume its queues (R239 to R266, R269): the length table, what a row sees,
the walk's geometry and checks, the order of pushes, the LE's fetch entries, the ME's strips and the VE's steps of online softmax. -/

namespace Sys2Proof.Machine

/-! ## Geometry (R239, R251, R253) -/

/-- A walk's fixed numbers, from its descriptor. -/
structure WGeo where
  ltab : Nat
  nent : Nat
  kvh : Nat
  qph : Nat
  blk : Nat
  mode : Nat
  tent : Bool
  exit : Bool
  layer : Nat
  ring : Nat
  nslot : Nat
  kf : Fmt
  qf : Fmt
  qbase : Nat
  hw : Nat
  work : Nat
  outb : Nat
  nkvh : Nat
deriving DecidableEq, Repr

def wgeo (d : BitVec 256) : WGeo :=
  let x : Desc := ⟨0, d.toNat⟩
  { ltab := x.f 0 29 8, nent := x.f 0 47 32, kvh := x.f 0 55 48, qph := x.f 0 63 56, blk := x.f 1 15 0, mode := x.f 1 17 16,
    tent := x.f 1 18 18 = 1, exit := x.f 1 19 19 = 1, layer := x.f 1 38 32, ring := x.f 2 21 0, nslot := x.f 2 27 24,
    kf := fmtOf (x.f 2 29 28), qf := fmtOf (x.f 2 31 30), qbase := x.f 2 53 32, hw := if x.f 2 56 56 = 1 then 120 else 60,
    work := x.f 3 21 0, outb := x.f 3 53 32, nkvh := x.f 3 63 56 }

/-- Key or value sheaves of a row, positions of a page, and probability sheaves of a block (R239). -/
def hshOf (kf : Fmt) (hw : Nat) : Nat := hw / fmtCount kf
def ppbOf (kf : Fmt) (hw : Nat) : Nat := 0x8000 / (hshOf kf hw * 32)
def npOf (blk : Nat) : Nat := ceilDiv blk 30
/-- The walk blocks that R239 allows. -/
def blkOk (kf : Fmt) (hw blk : Nat) : Bool :=
  blk == 128 || blk == 256 || (blk == 512 && !(decide (kf = .s8) && hw == 120))

def WGeo.hsh (g : WGeo) : Nat := hshOf g.kf g.hw
def WGeo.ppb (g : WGeo) : Nat := ppbOf g.kf g.hw
def WGeo.np (g : WGeo) : Nat := npOf g.blk
def WGeo.qsh (g : WGeo) : Nat := g.hw / fmtCount g.qf
def WGeo.osh (g : WGeo) : Nat := g.hw / 30
def WGeo.nb (g : WGeo) : Nat := g.blk / 8
def WGeo.dd (g : WGeo) : Nat := if g.hw = 60 then 64 else 128
def WGeo.ob (g : WGeo) : Nat := ceilDiv g.hw 8
/-- Bytes of a ring slot. -/
def slotSize (kf : Fmt) (hw blk : Nat) : Nat :=
  2 * (blk * hshOf kf hw * 32) + (if hw = 60 then 64 else 128) * npOf blk * 32
def WGeo.keys (g : WGeo) (s : Nat) : Nat := g.ring + s * slotSize g.kf g.hw g.blk
def WGeo.vals (g : WGeo) (s : Nat) : Nat := g.keys s + g.blk * g.hsh * 32
def WGeo.vt (g : WGeo) (s : Nat) : Nat := g.vals s + g.blk * g.hsh * 32

/-- The sizes of the work area's regions: SC0, SX0, SC1, SX1, PB0, PB1, ID, TA, TX, OA, OX, RS (R253). -/
def workSizes (hw blk nrb : Nat) : List Nat :=
  let nb := blk / 8
  let d := if hw = 60 then 64 else 128
  let ob := ceilDiv hw 8
  [nb * 512, nb * 4, nb * 512, nb * 4, 16 * npOf blk * 32, 16 * npOf blk * 32, d * (hw / 30) * 32, d / 16 * nb * 512,
   d / 16 * nb * 4, nrb * ob * 512, nrb * ob * 4, nrb * 256]

/-- The offset of region `i` from WORK: each begins at a multiple of 512 bytes. -/
def workOff (hw blk nrb : Nat) (i : Nat) : Nat := (((workSizes hw blk nrb).take i).map fun n => alignUp n 512).foldl (· + ·) 0

def WGeo.reg (g : WGeo) (nrb i : Nat) : Nat := g.work + workOff g.hw g.blk nrb i

/-! ## The length table (R243 to R245) -/

/-- An entry's fields; `zero` gathers the bits marked zero. -/
def lentry (v : Nat) : LEntry :=
  { clen := bitsOf v 53 32, tlen := bitsOf v 85 64, win := bitsOf v 113 96, nglob := bitsOf v 124 114, gptr := bitsOf v 149 128,
    pptr := bitsOf v 173 152, xptr := bitsOf v 197 176, xl := bitsOf v 238 232,
    zero := bitsOf v 63 54 + bitsOf v 95 86 + bitsOf v 127 125 + bitsOf v 151 150 + bitsOf v 175 174 + bitsOf v 199 198 +
      bitsOf v 239 239 + bitsOf v 255 240 }

def LEntry.qcnt (e : LEntry) : Nat := e.tlen - e.clen
def LEntry.rows (e : LEntry) (g : WGeo) : Nat := g.qph * e.qcnt
def LEntry.rblocks (e : LEntry) (g : WGeo) : Nat := ceilDiv (e.rows g) 16
def LEntry.skipped (e : LEntry) (g : WGeo) : Bool := decide (e.xl < g.layer)

/-- A Loft area that a field implies: the field's number, the address, the bytes, and the alignment it needs. -/
structure WArea where
  field : Nat
  addr : Nat
  size : Nat
  al : Nat
deriving DecidableEq, Repr

/-- The Loft areas that an entry's pointers imply for this walk (R243, R244). A field is numbered by its first byte. -/
def LEntry.areas (e : LEntry) (g : WGeo) (nx : Nat) : List WArea :=
  (if g.mode = 1 then [⟨16, e.gptr, 4 * e.nglob, 4⟩] else []) ++ [⟨19, e.pptr, 8 * ceilDiv e.tlen (max 1 g.ppb), 8⟩] ++
    (if g.exit && decide (e.xptr ≠ 0) then [⟨22, e.xptr, 4 + 4 * nx, 4⟩] else [])

/-- The number of the first condition that does not hold. -/
def firstField (l : List (Bool × Nat)) : Option Nat := (l.find? fun c => !c.1).map (·.2)

/-- The field of the first count of R244 that does not hold; 30 stands for the bits marked zero. -/
def LEntry.countBad (e : LEntry) (g : WGeo) : Option Nat :=
  firstField [(decide (e.clen + 1 ≤ e.tlen) && decide (e.qcnt ≤ 4096), 8), (decide (e.tlen ≤ 2097152), 8), (decide (e.rows g ≤ 65536), 8),
    (decide (g.mode ≠ 1) || (decide (1 ≤ e.win) && decide (e.win ≤ 131072)), 12), (decide (g.mode ≠ 1) || decide (e.nglob ≤ 1024), 14),
    (decide (e.zero = 0), 30)]

/-- What the walker reads of the entries, from any store of numbers. -/
def WGeo.lreads (g : WGeo) (num : Nat → Nat → Nat) : List LRead :=
  (List.range g.nent).map fun i =>
    let a := g.ltab + 32 * i
    let e := lentry (num a 32)
    ⟨a, e, if g.exit && decide (e.xptr ≠ 0) then num e.xptr 4 % 2 ^ 22 else 0⟩

/-- The valid global positions in the order of the list: below CLEN and ascending; with how many words were skipped (R245). -/
def globalsFrom (clen : Nat) : Option Nat → List (Nat × Nat) → List (Nat × Nat) × Nat
  | _, [] => ([], 0)
  | last, (a, w) :: r =>
    let p := w % 2 ^ 22
    let up := match last with
      | some q => decide (q < p)
      | none => true
    if decide (p < clen) && up then let x := globalsFrom clen (some p) r; ((a, p) :: x.1, x.2)
    else let x := globalsFrom clen last r; (x.1, x.2 + 1)

def WGeo.globals (g : WGeo) (num : Nat → Nat → Nat) (e : LEntry) : List (Nat × Nat) × Nat :=
  if g.mode = 1 then
    globalsFrom e.clen none ((List.range e.nglob).map fun i => (e.gptr + 4 * i, num (e.gptr + 4 * i) 4))
  else ([], 0)

/-- The exit records below CLEN: address, position, LEXIT (R245). -/
def WGeo.exits (g : WGeo) (num : Nat → Nat → Nat) (x : LRead) : List (Nat × Nat × Nat) :=
  if g.exit && decide (x.ent.xptr ≠ 0) then
    ((List.range x.nx).map fun i =>
      let a := x.ent.xptr + 4 + 4 * i
      let w := num a 4
      (a, w % 2 ^ 22, bitsOf w 28 22)).filter fun r => decide (r.2.1 < x.ent.clen)
  else []

/-! ## What a row sees (R246, R247) -/

/-- Position `k` is seen by query position `q`. -/
def seenBy (g : WGeo) (clen win : Nat) (globals hidden : List Nat) (q k : Nat) : Bool :=
  let past := decide (k ≤ q) && (g.tent || decide (k < clen))
  let base := match g.mode with
    | 0 => past
    | 1 => (past && decide (q < k + win)) || globals.contains k
    | _ => decide (k < clen)
  base && !hidden.contains k

/-- Row `r` of a sequence sees position `k`; a padding row sees nothing. -/
def rowSees (g : WGeo) (e : LEntry) (b : WalkBlk) (r k : Nat) : Bool :=
  decide (r < e.rows g) && seenBy g e.clen e.win b.globals b.hidden (e.clen + r / max 1 g.qph) k

/-! ## Checks of a walk (R244, R250, R252) -/

/-- What the checks find: a cause, the address of what holds the field, and the field's number (WALK_CHECK, log entry 15). -/
structure WBad where
  cause : Nat
  addr : Nat
  field : Nat
deriving DecidableEq, Repr

/-- The walk's own areas (R252, R253): a field of the descriptor is numbered by its lowest bit. -/
def WGeo.areas (g : WGeo) (nrb : Nat) : List WArea :=
  [⟨8, g.ltab, 32 * g.nent, 32⟩, ⟨128, g.ring, g.nslot * slotSize g.kf g.hw g.blk, 512⟩, ⟨160, g.qbase, nrb * 16 * g.qsh * 32, 32⟩,
   ⟨192, g.work, workOff g.hw g.blk nrb 12, 512⟩, ⟨224, g.outb, nrb * 16 * g.osh * 32, 32⟩]

def WGeo.nrb (g : WGeo) (l : List LRead) : Nat := (l.map fun x => x.ent.rblocks g).foldl (· + ·) 0

/-- The field of the first shape of R252 that does not hold; 4 stands for the bits marked zero. -/
def WGeo.shapeBad (g : WGeo) (d : Desc) : Option Nat :=
  firstField [(d.zerosOk, 4), (decide (0 < g.nent) && decide (g.nent ≤ 1024), 32), (decide (g.kvh < g.nkvh), 48), (blkOk g.kf g.hw g.blk, 64),
    (decide (g.mode < 3) && !(decide (g.mode = 2) && g.tent), 80), (d.f 1 22 20 == 7, 84), (decide (1 ≤ g.nslot), 152)]

/-- The field of a format that R250 refuses. -/
def WGeo.fmtBad (g : WGeo) : Option Nat :=
  firstField [(decide (g.kf = .s4) || decide (g.kf = .s8), 156), (decide (g.qf = .s8) || decide (g.qf = .s16), 158)]

/-- A descriptor that is no WALK; then check by check in the order of R162, the descriptor before its entries. -/
def walkBad (d : Desc) (l : List LRead) : Option WBad :=
  let g := wgeo (BitVec.ofNat 256 d.w)
  let all : List (Nat × WArea) := ((g.areas (g.nrb l)).map fun a => (d.addr, a)) ++ l.flatMap fun x => (x.ent.areas g x.nx).map fun a => (x.addr, a)
  let area (bad : WArea → Bool) (cause : Nat) : Option WBad := (all.find? fun a => bad a.2).map fun a => ⟨cause, a.1, a.2.field⟩
  if d.kind ≠ 7 then some ⟨0x10, d.addr, 0⟩
  else
    (area (fun a => a.addr % a.al != 0) 0x12).or
      ((area (fun a => decide (2 ^ 22 < a.addr + a.size)) 0x03).or
        (((g.shapeBad d).map fun f => WBad.mk 0x11 d.addr f).or
          ((l.findSome? fun x => (x.ent.countBad g).map fun f => WBad.mk 0x11 x.addr f).or
            ((g.fmtBad).map fun f => WBad.mk 0x01 d.addr f))))

/-! ## The order of pushes (R248, R254 to R258) -/

def meEntry (kind last ben slot buf cb0 trb rb : Nat) : Word64 :=
  BitVec.ofNat 64 (kind + 8 * last + 16 * ben + 2 ^ 8 * slot + 2 ^ 12 * buf + 2 ^ 16 * cb0 + 2 ^ 24 * trb + 2 ^ 32 * rb)

/-- Strips of at most 4 blocks over `n` column blocks. -/
def strips (kind slot buf trb rb n : Nat) (en : Nat → Bool) (lastStep : Bool) : List WalkPush :=
  (List.range (ceilDiv n 4)).map fun i =>
    let w := min 4 (n - 4 * i)
    let ben := (List.range w).foldl (fun a j => a + 2 ^ j * bit (en (4 * i + j))) 0
    .me (meEntry kind (bit (lastStep && decide (i + 1 = ceilDiv n 4))) ben slot buf (4 * i) trb rb)

def tStrips (g : WGeo) (slot npos : Nat) : List WalkPush :=
  (List.range (g.dd / 16)).flatMap fun trb => strips 0 slot 0 trb 0 (npos / 8) (fun _ => true) (decide (trb + 1 = g.dd / 16))

/-- The fields of a VE entry that follow bit 31 of its first word: RB and the row index within the sequence. -/
def veWord0 (kind first vrows slot buf ent rb rseq : Nat) : Nat :=
  kind + 8 * first + 16 * vrows + 2 ^ 12 * slot + 2 ^ 16 * buf + 2 ^ 18 * ent + 2 ^ 32 * rb + 2 ^ 48 * rseq

def veEntry (w0 p0 npos clen gaddr gn gsel win xaddr xn : Nat) : BitVec 256 :=
  BitVec.ofNat 256 (w0 + 2 ^ 64 * (p0 + 2 ^ 22 * npos + 2 ^ 32 * clen) +
    2 ^ 128 * (gaddr + 2 ^ 22 * gn + 2 ^ 33 * gsel + 2 ^ 34 * win) + 2 ^ 192 * (xaddr + 2 ^ 22 * xn))

/-- A walk under construction: pushes, pairs and blocks so far, loads made, rows blocks that have had an X, and words skipped. -/
structure WBuild where
  todo : List WalkPush
  pairs : List WalkPair
  blocks : List WalkBlk
  v : Nat
  fst : List Nat
deriving DecidableEq, Repr

/-- One visited block of an entry whose first row block is `rb0`: its load, T strips, Q, and its pairs (R258). -/
def buildBlock (g : WGeo) (ent rb0 : Nat) (e : LEntry) (gl : List (Nat × Nat)) (xs : List (Nat × Nat × Nat)) (w : WBuild) (b : Nat) :
    WBuild :=
  let p0 := b * g.blk
  let inBlk (p : Nat) : Bool := decide (p0 ≤ p) && decide (p < p0 + g.blk)
  let gin := gl.filter fun x => inBlk x.2
  let xin := xs.filter fun x => inBlk x.2.1
  let firsts := xin.filter fun x => decide ((xin.find? fun y => decide (y.2.1 = x.2.1)) = some x)
  let blk : WalkBlk := ⟨ent, p0, gin.map (·.2), (firsts.filter fun x => decide (x.2.2 < g.layer)).map (·.2.1)⟩
  let sees (r k : Nat) : Bool := rowSees g e blk r k
  let ps := (List.range g.blk).map fun j => p0 + j
  let rbSees (r k : Nat) : Bool := (List.range 16).any fun i => sees (16 * r + i) k
  let rbs := (List.range (e.rblocks g)).filter fun r => ps.any fun k => rbSees r k
  let seen := ps.filter fun k => rbs.any fun r => rbSees r k
  match seen.getLast? with
  | none => w
  | some lastP =>
    let npos := alignUp (lastP + 1 - p0) 8
    let slot := w.v % max 1 g.nslot
    let gsel := decide (g.mode = 1) && decide (p0 + g.blk + e.win ≤ e.clen + 1)
    let win := if g.mode = 1 then e.win else 0
    let ve (kind first buf r : Nat) : WalkPush :=
      .ve (veEntry (veWord0 kind first (min 16 (e.rows g - 16 * r)) slot buf ent (rb0 + r) (16 * r)) p0 npos e.clen
        ((gin.map (·.1)).headD 0) gin.length (bit gsel) win ((xin.map (·.1)).headD 0) xin.length)
    let q : WalkPush := .ve (veEntry (veWord0 0 0 0 slot 0 ent 0 0) p0 npos e.clen 0 0 0 win 0 0)
    let oS (n r : Nat) : List WalkPush := strips 2 slot (n % 2) 0 (rb0 + r) g.ob (fun _ => true) true
    let start : List WalkPush :=
      .load ent (e.pptr + 8 * (p0 / max 1 g.ppb)) p0 npos w.v :: tStrips g slot npos ++ [q]
    let n0 := w.pairs.length
    let per := (List.range rbs.length).flatMap fun i =>
      let r := rbs.getD i 0
      let n := n0 + i
      strips 1 slot (n % 2) 0 (rb0 + r) (npos / 8) (fun c => (List.range 8).any fun j => rbSees r (p0 + 8 * c + j)) true ++
        (if 0 < i then oS (n - 1) (rbs.getD (i - 1) 0) else []) ++
        [ve 1 (bit (!w.fst.contains (rb0 + r))) (n % 2) r]
    let fin := oS (n0 + rbs.length - 1) (rbs.getLastD 0)
    { todo := w.todo ++ start ++ per ++ fin, pairs := w.pairs ++ rbs.map fun r => ⟨w.v, rb0 + r⟩, blocks := w.blocks ++ [blk],
      v := w.v + 1, fst := w.fst ++ rbs.map fun r => rb0 + r }

/-- An entry's walk: all its blocks in ascending order, then its F steps; a skipped entry pushes nothing and keeps its row blocks'
places. -/
def buildEntry (g : WGeo) (num : Nat → Nat → Nat) (ent rb0 : Nat) (x : LRead) (w : WBuild) : WBuild :=
  if x.ent.skipped g then w
  else
    let e := x.ent
    let w := { w with todo := w.todo ++ [.enter ent] }
    let w := (List.range (ceilDiv e.tlen (max 1 g.blk))).foldl (buildBlock g ent rb0 e (g.globals num e).1 (g.exits num x)) w
    let fin := (List.range (e.rblocks g)).map fun r => WalkPush.ve
      (veEntry (veWord0 2 0 (min 16 (e.rows g - 16 * r)) 0 0 ent (rb0 + r) (16 * r)) 0 0 e.clen 0 0 0 (if g.mode = 1 then e.win else 0) 0 0)
    { w with todo := w.todo ++ fin }

/-- The queue that a push goes to, as a bit of `got`. -/
def WalkPush.queue : WalkPush → Nat
  | .enter _ => 0
  | .load _ _ _ _ _ => 1
  | .nullLe => 1
  | .me _ => 2
  | .ve _ => 4

/-- Null entries with END for the queues of `got` that a walk pushes nothing into (R257). -/
def nullPushes (got : Nat) : List WalkPush :=
  (if got.testBit 0 then [] else [.nullLe]) ++ (if got.testBit 1 then [] else [.me 3#64]) ++ (if got.testBit 2 then [] else [.ve 3#256])

/-- The walker's next act: it reaches an entry, or makes a push, with whether that is the last one into its queue. It reaches the next
entry before it makes the last push known for a queue, since END depends on it (R257). -/
inductive WalkDo where
  | done
  | reach (x : LRead) (rest : List LRead)
  | push (p : WalkPush) (rest : List WalkPush) (last : Bool)
deriving DecidableEq, Repr

def WalkSt.next (w : WalkSt) : WalkDo :=
  match w.todo with
  | [] =>
    match w.ents with
    | [] => .done
    | x :: r => .reach x r
  | p :: ps =>
    let last := decide (p.queue ≠ 0) && !(ps.any fun q => decide (q.queue = p.queue))
    match w.ents with
    | x :: r => if last then .reach x r else .push p ps false
    | [] => .push p ps last

/-! ## The walker at work (R82, R254, R259) -/

/-- An LE fetch entry (R254). -/
def leEntry (addr runu slot : Nat) (fail last : Bool) : BitVec 128 :=
  BitVec.ofNat 128 (addr + 2 ^ 64 * runu + 2 ^ 80 * slot + 2 ^ 88 * bit fail + 2 ^ 89 * bit last)

/-- The WALK that the walker performs. -/
def State.awRec (s : State) (g : Nat) : Option InFlight := ((s.eng g .aw).infl.filter fun i => decide (i.op = 0x10)).getLast?
def State.awMod (s : State) (g : Nat) (f : InFlight → InFlight) : State :=
  match s.awRec g with
  | some i => s.modEng g .aw fun x => x.modRec i.uid f
  | none => s

/-- A bank that is not ON met by the walk: it ends with BANKSTATE. -/
def State.awFault (s : State) (g l : Nat) : State :=
  let i := s.awRec g
  let s := match i with
    | some i => s.modEng g .aw fun x => x.dropRec i.uid
    | none => s
  (s.modTile g fun t => { t with walk := none }).tileFault g (engIdx .aw) 0x02 ((i.map (·.iaddr)).getD 0) (some l)

/-- PSN in the WALK's status where a unit it read is poisoned (R151). -/
def State.awPoison (s : State) (g : Nat) (accs : List (Nat × Nat)) : State :=
  if accs.any fun a => s.psnAt g a.1 a.2 then s.awMod g fun i => { i with status := i.status ||| stPsn } else s

/-- The lists of an entry: its global words and its exit records. -/
def WGeo.lists (g : WGeo) (x : LRead) : List (Nat × Nat) :=
  (if g.mode = 1 ∧ 0 < x.ent.nglob then [(x.ent.gptr, 4 * x.ent.nglob)] else []) ++
    (if g.exit && decide (x.ent.xptr ≠ 0) then [(x.ent.xptr, 4 + 4 * x.nx)] else [])

/-- The walk reaches an entry: its lists are read, once, and its work is laid out (R245, R248, R269). -/
def State.walkReach (s : State) (g : Nat) (w : WalkSt) (x : LRead) (rest : List LRead) : State :=
  let geo := wgeo w.desc
  let num := s.loftNum g
  let skip := x.ent.skipped geo
  let b := buildEntry geo num w.nextEnt w.rb0 x ⟨[], w.pairs, w.blocks, w.loads, []⟩
  let s := if skip then s.tilCnt g (R.AW_CNT3 g) F.AW_CNT3_SKIPSEQ 1
    else ((s.tilCnt g (R.AW_CNT0 g) F.AW_CNT0_SEQS 1).tilCnt g (R.AW_CNT1 g) F.AW_CNT1_GSKIP (geo.globals num x.ent).2).awPoison g (geo.lists x)
  let todo := w.todo ++ b.todo
  let got := todo.foldl (fun a p => a ||| p.queue) w.got
  let w := { w with todo := (if rest.isEmpty then todo ++ nullPushes got else todo), pairs := b.pairs, blocks := b.blocks, ents := rest,
                    nextEnt := w.nextEnt + 1, rb0 := w.rb0 + x.ent.rblocks geo, loads := b.v, got := got }
  s.modTile g fun t => { t with walk := some w }

/-- What holds the walker: a full queue, a ring slot not released, or a bank (R81, R98, R259). -/
def State.walkHold (s : State) (g : Nat) : Option Stall :=
  let t := s.tile g
  match t.walk with
  | none => none
  | some w =>
    let x := wgeo w.desc
    match w.next with
    | .done => none
    | .reach e _ => if e.ent.skipped x then none else
      match s.firstBadAcc g (x.lists e) with
      | some (.wait, _) => some .bank
      | _ => none
    | .push p _ _ =>
      match p with
      | .enter _ => none
      | .me _ => if 32 ≤ t.meQ.length then some .credit else none
      | .ve _ => if 32 ≤ t.veQ.length then some .credit else none
      | .nullLe => if 64 ≤ t.leQ.length then some .credit else none
      | .load _ pt _ _ v =>
        if 64 ≤ t.leQ.length then some .credit
        else if w.held.testBit (v % max 1 x.nslot) then some .wait
        else if (s.loftAcc g pt 8).1 = .wait then some .bank
        else none

/-- The walker waits for a ring slot. -/
def State.ringWait (s : State) (g : Nat) : Bool := decide (s.walkHold g = some .wait)

/-- A push that nothing holds; `last` sets END. A page-table entry in a bank that is not ON ends the walk with BANKSTATE. -/
def State.walkPush (s : State) (g : Nat) (w : WalkSt) (p : WalkPush) (rest : List WalkPush) (last : Bool) : State :=
  let on (w : WalkSt) (f : TileSt → TileSt) : State := s.modTile g fun t => { f t with walk := some { w with todo := rest } }
  match p with
  | .enter ent => on { w with entry := ent } id
  | .me e => on w fun t => { t with meQ := t.meQ ++ [if last then e ||| 4#64 else e] }
  | .ve e => on w fun t => { t with veQ := t.veQ ++ [if last then e ||| 4#256 else e] }
  | .nullLe => on w fun t => { t with leQ := t.leQ ++ [leEntry 0 0 0 false last] }
  | .load _ pt p0 npos v =>
    let x := wgeo w.desc
    let slot := v % max 1 x.nslot
    match s.loftAcc g pt 8 with
    | (.bad, l) => s.awFault g l
    | _ =>
      let e := s.loftNum g pt 8
      let a := e / 65536 * 65536 + (x.layer * x.nkvh + x.kvh) * 65536 + p0 % max 1 x.ppb * x.hsh * 32
      let w := { w with held := w.held ||| 2 ^ slot, landed := w.landed &&& (2 ^ 15 - 1 - 2 ^ slot) }
      ((on w fun t =>
        { t with leQ := t.leQ ++ [leEntry (if e.testBit 0 then a % 2 ^ 64 else 0) (npos * x.hsh) slot (!e.testBit 0) last] }).tilCnt g
          (R.AW_CNT0 g) F.AW_CNT0_BLOCKS 1).awPoison g [(pt, 8)]

/-- The walker goes on as far as queues, slots and banks allow; the last push completes the WALK. A walk makes at most 128 pushes, and
enters and reaches at most 1,024 entries, before a queue is full. -/
def State.walkPump (s : State) (g : Nat) : Nat → State
  | 0 => s
  | n + 1 =>
    match (s.tile g).walk with
    | none => s
    | some w =>
      if (s.walkHold g).isSome then s
      else
        match w.next with
        | .done => s
        | .reach x rest =>
          match if x.ent.skipped (wgeo w.desc) then none else s.firstBadAcc g ((wgeo w.desc).lists x) with
          | some (_, l) => s.awFault g l
          | none => (s.walkReach g w x rest).walkPump g n
        | .push p rest last =>
          let s := s.walkPush g w p rest last
          let s := if rest.isEmpty ∧ w.ents.isEmpty then s.awMod g fun i => { i with need := 0 } else s
          s.walkPump g n

def State.pump (s : State) (g : Nat) : State := s.walkPump g 4096

/-- A bank's transition ends, and a walk that waited for it goes on (R98). -/
def State.bankOn (s : State) (g b : Nat) : State := (s.bankEnd g b).pump g

/-- A walk's entries have all been taken and its steps are done: another may begin. -/
def State.walkFree (s : State) (g : Nat) : Bool :=
  let t := s.tile g
  match t.walk with
  | none => true
  | some w => w.todo.isEmpty && w.ents.isEmpty && t.leQ.isEmpty && t.meQ.isEmpty && t.veQ.isEmpty && decide (w.held = 0) && decide (w.fLeft = 0)

/-- The exit lists' counts, which a WALK reads at issue to check their spans. -/
def WGeo.nxAccs (g : WGeo) (l : List LRead) : List (Nat × Nat) :=
  l.filterMap fun x => if g.exit && decide (x.ent.xptr ≠ 0) then some (x.ent.xptr, 4) else none

/-- The issue checks of a WALK (R162, R244, R252). -/
def State.walkChk (s : State) (g da : Nat) : IssueChk :=
  let a := s.descAddr g .aw da
  match s.firstBadAcc g [(a, 32)] with
  | some (.wait, _) => .wait
  | some _ => .fault 0x02 a
  | none =>
    let d := s.descRead g .aw da
    if d.kind ≠ 7 then .fault 0x10 a
    else if ¬ s.walkFree g then .wait
    else
      let w := wgeo (BitVec.ofNat 256 d.w)
      let inLoft := decide (w.ltab + 32 * w.nent ≤ 2 ^ 22)
      let num := s.loftNum g
      match if inLoft then s.firstBadAcc g [(w.ltab, 32 * w.nent)] else none with
      | some (.wait, _) => .wait
      | some (_, l) => .fault 0x02 l
      | none =>
        let l := if inLoft then w.lreads num else []
        match walkBad d l with
        | some b => .fault b.cause b.addr
        | none =>
          .ok [d]

/-- A WALK past its checks: the entries are read now, and the walk begins (R252, R258). -/
def opWalk (s : State) (g : Nat) (d : Desc) : OpOut :=
  let dw := BitVec.ofNat 256 d.w
  let w := wgeo dw
  let l := w.lreads (s.loftNum g)
  let fs := ((l.filter fun x => !x.ent.skipped w).map fun x => x.ent.rblocks w).foldl (· + ·) 0
  let st := psnSt (((w.ltab, 32 * w.nent) :: w.nxAccs l).any fun a => s.psnAt g a.1 a.2)
  ⟨⟨s.modTile g fun t => { t with walk := some ⟨dw, w.nrb l, 0, [], 0, 0, 0, 0, 0, 0, 0, fs, [], [], l, 0, 0, 0, 0⟩ }, .go, st⟩, 1, none⟩

/-! ## Taking entries -/

/-- The oldest instruction in flight that takes queue entries. -/
def EngSt.taker (x : EngSt) (op : Nat) : Option InFlight := x.infl.find? fun i => decide (i.op = op) && decide (0 < i.need)

/-- An entry taken by instruction `uid`: it completes on END, and ends without a signal on a fault. -/
def State.tookEntry (s : State) (g : Nat) (e : Eng) (uid st : Nat) (last : Bool) : State :=
  s.modEng g e fun x => x.modRec uid fun i => { i with status := i.status ||| st, need := if last then 0 else i.need }

/-- A fault at execution: the instruction ends, nothing more of it is done and no signal is given (R162). The entry was taken, so a walk
stopped on its queue goes on (R82). -/
def State.entryFault (s : State) (g : Nat) (e : Eng) (i : InFlight) (cause : Nat) (l : Option Nat) : State :=
  ((s.modEng g e fun x => x.dropRec i.uid).tileFault g (engIdx e) cause i.iaddr l).pump g

/-- The sheaves of a ring slot that a fetch entry of `runu` units fills (R254). -/
def WGeo.slotAddrs (x : WGeo) (slot runu : Nat) : List Nat :=
  ((List.range runu).map fun k => x.keys slot + 32 * k) ++ ((List.range runu).map fun k => x.vals slot + 32 * k)

/-- A fetch entry carries FAIL, or fails the check of R145 (R254). -/
def State.leFails (s : State) (g v : Nat) : Bool :=
  let a := v % 2 ^ 64
  let n := 32 * bitsOf v 79 64
  v.testBit 88 ||
    (match s.tilePart g with
     | none => true
     | some p => !(s.addrOk (g / 64) p a n && s.addrOk (g / 64) p (a + 0x8000) n))

/-- A fetch entry suits the LDQ that takes it (R260). -/
def leSuits (x : WGeo) (v : Nat) : Bool :=
  let runu := bitsOf v 79 64
  decide (bitsOf v 83 80 < x.nslot) && bitsOf v 87 84 == 0 && bitsOf v 127 90 == 0 && decide (runu ≤ x.blk * x.hsh) &&
    (decide (0 < runu) || v.testBit 89)

/-- What holds the LDQ that would take the front fetch entry: its load slots, or a bank of a FAIL entry's slot (R81, R98). -/
def State.leHold (s : State) (g : Nat) : Option Stall :=
  let t := s.tile g
  let x := s.eng g .le
  match x.taker 0x11, t.leQ, t.walk with
  | some _, q :: _, some w =>
    let v := q.toNat
    let geo := wgeo w.desc
    if 64 ≤ x.poolUsed 0 then some .credit
    else if leSuits geo v && decide (0 < bitsOf v 79 64) && s.leFails g v then
      match s.firstBadAcc g ((geo.slotAddrs (bitsOf v 83 80) (bitsOf v 79 64)).map fun b => (b, 32)) with
      | some (.wait, _) => some .bank
      | _ => none
    else none
  | _, _, _ => none

/-- LE_FETCH_ENTRY: an LDQ takes the front fetch entry and performs it as a load of two runs (R150, R254). -/
def State.leFetch (s : State) (g : Nat) : State :=
  let t := s.tile g
  let x := s.eng g .le
  match x.taker 0x11, t.leQ, t.walk with
  | some i, q :: rest, some w =>
    if (s.leHold g).isSome then s
    else
      let v := q.toNat
      let runu := bitsOf v 79 64
      let slot := bitsOf v 83 80
      let last := v.testBit 89
      let geo := wgeo w.desc
      let s := s.modTile g fun t => { t with leQ := rest }
      let dec (s : State) (st : Nat) : State :=
        (s.modEng g .le fun x => x.modRec i.uid fun j =>
          { j with status := j.status ||| st, need := if last then 0 else j.need - 1 }).pump g
      if ¬ leSuits geo v then s.entryFault g .le i 0x19 none
      else if runu = 0 then dec s 0
      else
        let a := v % 2 ^ 64
        let addrs := geo.slotAddrs slot runu
        if s.leFails g v then
          let s := s.tilCnt g (R.AW_CNT1 g) F.AW_CNT1_PGFAIL 1
          match s.firstBadAcc g (addrs.map fun b => (b, 32)) with
          | some (_, l) => s.entryFault g .le i 0x02 (some l)
          | none => dec ((addrs.foldl (fun s b => s.putLoftSheaf g b poisonSheaf) s).slotLanded g slot) stPsn
        else
          let us := reqUnits (s.viaNext g .le) (s.tileP g) 1 (fun _ q => q) 0 (cutUnits a 1024 runu ++ cutUnits (a + 0x8000) 1024 runu)
          let s := s.pushLane g 1 us
          let child := (s.eng g .le).nextUid
          let s := s.launch g .le opEntry ⟨63, slot⟩ i.uid 0 (some 0) 1 0
          let s := s.modTile g fun t => { t with loadQ := t.loadQ ++ [⟨.le, child, addrs, false, none, 32⟩] }
          dec s 0
  | _, _, _ => s

/-! ## The ME's strips (R255, R259) -/

/-- The interlock of R259 for an ME entry. -/
def meReady (w : WalkSt) (v : Nat) : Bool :=
  let slot := bitsOf v 11 8
  match v % 4 with
  | 0 => w.landed.testBit slot && decide (w.tDone ≤ w.qDone)
  | 1 => w.landed.testBit slot && decide (w.sDone ≤ w.xDone + 1)
  | 2 => decide (w.oDone < w.xDone) && decide (((w.pairs.map (·.v)).getD w.oDone 0) < w.qDone)
  | _ => true

/-- The templates of an MM under MQ or an SMX: its descriptors as it read them at issue (R253). -/
def InFlight.desc (i : InFlight) (k : Nat) : Desc := ⟨0, i.args.getD k 0⟩
def InFlight.loft (i : InFlight) (k : Nat) : TLoft := (i.desc k).toLoft { EngSt.idle with loops := i.loops }
def InFlight.acc (i : InFlight) (k : Nat) : TAcc := (i.desc k).toAcc { EngSt.idle with loops := i.loops }
def InFlight.vec (i : InFlight) (k : Nat) : TVec := (i.desc k).toVec { EngSt.idle with loops := i.loops }

/-- An ME entry suits the MM that takes it: its columns lie within the weights and the score blocks of the templates (R260). -/
def meSuits (w : WalkSt) (i : InFlight) (v : Nat) : Bool :=
  let x := wgeo w.desc
  let top := bitsOf v 23 16 + (if bitsOf v 7 4 = 0 then 0 else (bitsOf v 7 4).log2 + 1)
  bitsOf v 63 48 == 0 && bitsOf v 15 13 == 0 && bitsOf v 31 27 == 0 &&
    (match v % 4 with
     | 0 => decide (bitsOf v 11 8 < x.nslot) && decide (bitsOf v 26 24 < x.dd / 16) && decide (top ≤ x.nb) &&
        decide (8 * top ≤ (i.loft 0).n1)
     | 1 => decide (bitsOf v 11 8 < x.nslot) && decide (bitsOf v 47 32 < w.nrb) && decide (top ≤ x.nb) &&
        decide (8 * top ≤ (i.loft 0).n1) && decide (top ≤ (i.acc 2).nb2)
     | 2 => decide (bitsOf v 11 8 < x.nslot) && decide (bitsOf v 47 32 < w.nrb) && decide (top ≤ x.ob)
     | _ => v.testBit 2)

/-- `n` sheaves from `a`. -/
def sheafRow (a n : Nat) : List Nat := (List.range n).map fun i => a + 32 * i

/-- A strip's operands and outputs: formats, the sheaves of a column of weights and of a row of activations, the blocks' form, the block
and exponent addresses, and ACC. -/
structure StripGeo where
  fw : Fmt
  fa : Fmt
  wts : Nat → List Nat
  acts : Nat → List Nat
  nsW : Nat
  a48 : Bool
  blk : Nat → Nat
  exp : Nat → Nat
  acc : Bool

/-- The operands of R255. An S strip moves the MM's templates, which name slot 0's KEYS, row block 0 of the queries and SC0, to its
slot, row block and buffer; a T or an O strip takes the other regions of the slot and of the work area, which no template names
(R253; DEDUCED, log entry 151). -/
def stripGeo (w : WalkSt) (i : InFlight) (v : Nat) : StripGeo :=
  let x := wgeo w.desc
  let slot := bitsOf v 11 8
  let buf := bitsOf v 12 12
  let trb := bitsOf v 26 24
  let rb := bitsOf v 47 32
  let r (i : Nat) : Nat := x.reg w.nrb i
  match v % 4 with
  | 0 =>
    { fw := x.kf, fa := .s8, wts := fun c => sheafRow (x.vals slot + c * x.hsh * 32) x.hsh,
      acts := fun i => sheafRow (r 6 + (16 * trb + i) * x.osh * 32) x.osh, nsW := x.hsh, a48 := false,
      blk := fun c => r 7 + (trb * x.nb + c) * 512, exp := fun c => r 8 + (trb * x.nb + c) * 4, acc := false }
  | 1 =>
    let da := i.loft 0
    let db := i.loft 1
    let dc := i.acc 2
    { fw := da.fmt, fa := db.fmt, wts := fun c => (List.range da.ns).map fun j => da.at_ c j + slot * slotSize x.kf x.hw x.blk,
      acts := fun i => (List.range db.ns).map fun j => db.at_ i j + 16 * rb * x.qsh * 32, nsW := da.ns, a48 := dc.a48,
      blk := fun c => dc.block c + (r (2 * buf) - r 0), exp := fun c => dc.exp c + (r (2 * buf + 1) - r 1), acc := false }
  | _ =>
    { fw := .s8, fa := .s8, wts := fun d => sheafRow (x.vt slot + d * x.np * 32) x.np,
      acts := fun i => sheafRow (r (4 + buf) + i * x.np * 32) x.np, nsW := x.np, a48 := false,
      blk := fun c => r 9 + (rb * x.ob + c) * 512, exp := fun c => r 10 + (rb * x.ob + c) * 4, acc := true }

def State.sheavesAt (s : State) (g : Nat) (l : List Nat) : List Sheaf := l.map fun a => s.loftSheaf g a

/-- The column blocks a strip computes, and what it touches for one of them. -/
def stripCols (v : Nat) : List Nat := ((List.range 4).filter fun j => (bitsOf v 7 4).testBit j).map fun j => bitsOf v 23 16 + j
def StripGeo.accs (q : StripGeo) (c : Nat) : List (Nat × Nat) :=
  (((List.range 8).flatMap fun k => q.wts (8 * c + k)) ++ (List.range 16).flatMap q.acts).map (fun a => (a, 32)) ++
    [(q.blk c, accBytes q.a48), (q.exp c, 4)]

def rsAddr (x : WGeo) (nrb row : Nat) : Nat := x.reg nrb 11 + 16 * row
/-- The poison flag of a row's state: bit 0 of byte 6 (R262). -/
def State.rsPoison (s : State) (g a : Nat) : State := s.putLoftNum g (a + 6) 1 (s.loftNum g (a + 6) 1 ||| 1)

/-- The strip's enabled blocks computed in order. -/
def State.stripRun (s : State) (g : Nat) (w : WalkSt) (i : InFlight) (v : Nat) : Ex :=
  let x := wgeo w.desc
  let q := stripGeo w i v
  let m := mmGeo q.fw q.fa q.nsW
  let rb := bitsOf v 47 32
  (Ex.mk s .go 0).each (stripCols v) fun z c =>
    z.part g (q.accs c) fun s =>
      let o := s.mmOne g c i.iaddr m q.a48 ((List.range 8).map fun k => s.sheavesAt g (q.wts (8 * c + k)))
        ((List.range 16).map fun i => s.sheavesAt g (q.acts i)) (q.blk c) (q.exp c) q.acc
      let s := o.1
      (if v % 4 = 2 ∧ (s.loftNum g (q.exp c) 4).testBit 18 then
        (List.range 16).foldl (fun s i => s.rsPoison g (rsAddr x w.nrb (16 * rb + i))) s else s, o.2)

/-- What a completed step of the ME changes in the walk: its count, and a ring slot that no later pair reads. -/
def meStepped (w : WalkSt) (v : Nat) : WalkSt :=
  match v % 4 with
  | 0 => { w with tDone := w.tDone + 1 }
  | 1 => { w with sDone := w.sDone + 1 }
  | _ =>
    let ld := (w.pairs.map (·.v)).getD w.oDone 0
    let more := ((w.pairs.drop (w.oDone + 1)).any fun p => decide (p.v = ld))
    { w with oDone := w.oDone + 1,
             held := if more then w.held else w.held &&& (2 ^ 15 - 1 - 2 ^ bitsOf v 11 8) }

/-- What holds the MM that would take the front mask entry: an interlock, or a bank (R98, R259). -/
def State.meHold (s : State) (g : Nat) : Option Stall :=
  let t := s.tile g
  match (s.eng g .me).taker 0x10, t.meQ, t.walk with
  | some i, q :: _, some w =>
    let v := q.toNat
    if ¬ meReady w v then some .wait
    else if meSuits w i v && decide (v % 4 ≠ 3) then
      match s.firstBadAcc g ((stripCols v).flatMap (stripGeo w i v).accs) with
      | some (.wait, _) => some .bank
      | _ => none
    else none
  | _, _, _ => none

/-- An MM with MQ takes the front mask entry when it is of kind `kind` (or a null entry) and its interlock holds. -/
def State.meStrip (s : State) (g kind : Nat) : State :=
  let t := s.tile g
  match (s.eng g .me).taker 0x10, t.meQ, t.walk with
  | some i, q :: rest, some w =>
    let v := q.toNat
    if (v % 4 ≠ kind ∧ v % 4 ≠ 3) ∨ ¬ meReady w v then s
    else
      let took (s : State) : State := s.modTile g fun t => { t with meQ := rest }
      if ¬ meSuits w i v then (took s).entryFault g .me i 0x19 none
      else if v % 4 = 3 then ((took s).tookEntry g .me i.uid 0 true).pump g
      else
        let r := s.stripRun g w i v
        match r.stop with
        | .wait => s
        | .bank l => (took r.s).entryFault g .me i 0x02 (some l)
        | .fault c l => (took r.s).entryFault g .me i c l
        | .go =>
          let s := (took r.s).tilCnt g (R.TIL_MECNT2 g) F.TIL_MECNT2_STRIPS 1
          let s := if v.testBit 3 then s.modTile g fun t => { t with walk := t.walk.map fun w => meStepped w v } else s
          (s.tookEntry g .me i.uid r.st (v.testBit 2)).pump g
  | _, _, _ => s

/-! ## The VE's steps (R256, R261 to R266) -/

/-- The pair before `n` with the same row block. -/
def prevPair (w : WalkSt) (n rb : Nat) : Option Nat :=
  (((List.range n).filter fun m => decide ((w.pairs.map (·.rb)).getD m 0 = rb)).getLast?)

def veReady (w : WalkSt) (v : Nat) : Bool :=
  let rb := bitsOf v 47 32
  let oOf (p : Option Nat) : Bool := match p with
    | some m => decide (m < w.oDone)
    | none => true
  match v % 4 with
  | 0 => decide (w.qDone < w.tDone)
  | 1 => decide (w.xDone < w.sDone) && decide (w.xDone ≤ w.oDone + 1) && oOf (prevPair w w.xDone rb)
  | 2 => oOf (prevPair w w.pairs.length rb)
  | _ => true

/-- A VE entry suits the SMX that takes it: the scores of an X lie within the blocks of its template (R260). -/
def veSuits (w : WalkSt) (i : InFlight) (v : Nat) : Bool :=
  let x := wgeo w.desc
  let z := bitsOf v 11 9 + bitsOf v 17 17 + bitsOf v 31 28 + bitsOf v 127 118 + bitsOf v 191 180 + bitsOf v 255 224
  decide (z = 0) &&
    (match v % 4 with
     | 0 => decide (bitsOf v 15 12 < x.nslot) && decide (bitsOf v 95 86 ≤ x.blk)
     | 1 => decide (bitsOf v 15 12 < x.nslot) && decide (bitsOf v 95 86 ≤ x.blk) && decide (bitsOf v 47 32 < w.nrb) &&
        decide (bitsOf v 95 86 ≤ 8 * (i.acc 0).nb2)
     | 2 => decide (bitsOf v 47 32 < w.nrb)
     | _ => v.testBit 2)

/-- A row of values requantised to S8 in dynamic mode with nearest-even rounding and factor 1, in `n` sheaves at `a`, sheaf by sheaf with
the poison of what feeds it (R42, R50, R52, R54). -/
def State.rqRow (s : State) (g a n : Nat) (psn : Nat → Bool) (el : Nat → Int × Int) : State × Nat :=
  (List.range n).foldl (fun (z : State × Nat) i =>
    let o := rqSheaf ⟨.s8, 32768, none, false⟩ ((List.range 30).map fun k => el (30 * i + k)) []
    (((z.1.rqCounts g o).putLoftSheaf g (a + 32 * i) ⟨o.bits, psn i⟩), z.2 ||| o.status ||| psnSt (psn i))) (s, 0)

/-- A value of an accumulator block and its exponent. -/
def State.accVal (s : State) (g : Nat) (a48 : Bool) (blk exp k : Nat) : Int × Int :=
  let n := accValBytes a48
  (sext (8 * n) (s.loftNum g (blk + n * k) n), sext 16 (s.loftNum g exp 4))
def State.accPoison (s : State) (g : Nat) (a48 : Bool) (blk exp : Nat) : Bool := (s.expWord g blk (accBytes a48) exp).testBit 18

/-- Q: TA requantised into the slot's VT (R265). -/
def qAccs (w : WalkSt) (v : Nat) : List (Nat × Nat) :=
  let x := wgeo w.desc
  [(x.reg w.nrb 7, x.dd / 16 * x.nb * 512), (x.reg w.nrb 8, x.dd / 16 * x.nb * 4), (x.vt (bitsOf v 15 12), x.dd * x.np * 32)]
def State.stepQ (s : State) (g : Nat) (w : WalkSt) (v : Nat) : Ex :=
  let x := wgeo w.desc
  let slot := bitsOf v 15 12
  let npos := bitsOf v 95 86
  let ta := x.reg w.nrb 7
  let tx := x.reg w.nrb 8
  (Ex.mk s .go 0).part g (qAccs w v) fun s =>
    (List.range x.dd).foldl (fun (z : State × Nat) d =>
      let src := z.1
      let bi (j : Nat) : Nat := d / 16 * x.nb + j / 8
      let feeds (j : Nat) : Bool := decide (j < npos) && decide (d < x.hw)
      let r := src.rqRow g (x.vt slot + d * x.np * 32) x.np
        (fun k => (List.range 30).any fun m => feeds (30 * k + m) &&
          src.accPoison g false (ta + bi (30 * k + m) * 512) (tx + bi (30 * k + m) * 4))
        fun j => if feeds j then src.accVal g false (ta + bi j * 512) (tx + bi j * 4) (d % 16 * 8 + j % 8) else (0, 0)
      (r.1, z.2 ||| r.2)) (s, 0)

/-- A row's softmax state (R262). -/
structure RowSt where
  mx : Option Int
  nr : Nat
  flags : Nat
  sum : Int
deriving DecidableEq, Repr

def State.rowSt (s : State) (g a : Nat) : RowSt :=
  let m := s.loftNum g a 4
  ⟨if m = 2 ^ 31 then none else some (sext 32 m), s.loftNum g (a + 4) 2, s.loftNum g (a + 6) 1, sext 64 (s.loftNum g (a + 8) 8)⟩

def State.putRowSt (s : State) (g a : Nat) (r : RowSt) : State :=
  let m := match r.mx with
    | some z => toField 32 z
    | none => 2 ^ 31
  s.putLoftNum g a 16 (m + 2 ^ 32 * (r.nr % 65536) + 2 ^ 48 * (r.flags % 256) + 2 ^ 64 * toField 64 r.sum)

/-- A score as a signed Q16.16 value, and whether it clamped (R261). -/
def scoreOf (a : Int × Int) : Int × Bool :=
  let z := (alignBy a.1 (-(a.2 + 16))).1
  (clampSigned 32 z, !fitsSigned 32 z)

/-- z × (mu × 2^(eps − 15)), rounded to nearest even. -/
def scaleBy (z : Int) (f : Nat × Int) : Int := (alignBy (z * f.1) (15 - f.2)).1

/-- A block whose own sheaves are poisoned takes the poison into its exponent word before a part of it is written (R42, R94). -/
def State.keepPsn (s : State) (g blk exp : Nat) : State :=
  if s.accPoison g false blk exp then s.putLoftNum g exp 4 (s.loftNum g exp 4 ||| 2 ^ 18) else s

/-- The rescale of one row's output values (R262). -/
def State.rescaleRow (s : State) (g : Nat) (x : WGeo) (nrb rb i : Nat) (f : Nat × Int) : State × Nat :=
  let oa := x.reg nrb 9 + rb * x.ob * 512
  let s := s.each (List.range x.ob) fun s c => s.keepPsn g (oa + 512 * c) (x.reg nrb 10 + (rb * x.ob + c) * 4)
  (List.range (x.ob * 8)).foldl (fun (z : State × Nat) k =>
    let a := oa + k / 8 * 512 + 4 * (i * 8 + k % 8)
    let y := scaleBy (sext 32 (z.1.loftNum g a 4)) f
    (z.1.putLoftNum g a 4 (toField 32 (clampSigned 32 y)), z.2 ||| (if fitsSigned 32 y then 0 else stLsat))) (s, 0)

/-- X on one row: its new state, its rescale and its probabilities as (mantissa, exponent). -/
structure RowX where
  st : RowSt
  factor : Option (Nat × Int)
  probs : List (Int × Int)
deriving DecidableEq, Repr

def rowX (r : RowSt) (xs : List Int) (seen : Nat → Bool) : RowX :=
  let idx := List.range xs.length
  let vis := (idx.filter seen).map fun j => xs.getD j 0
  match vis with
  | [] => ⟨r, none, xs.map fun _ => (0, 0)⟩
  | y :: ys =>
    let bm := ys.foldl max y
    let up : RowSt × Option (Nat × Int) :=
      match r.mx with
      | none => ({ r with mx := some bm }, none)
      | some m =>
        if m < bm then
          let f := exp2Fn (m - bm)
          ({ r with mx := some bm, sum := scaleBy r.sum f, nr := (r.nr + 1) % 65536 }, some f)
        else (r, none)
    let mx := up.1.mx.getD 0
    let ps := idx.map fun j =>
      let d := xs.getD j 0 - mx
      if seen j ∧ -(40 * 65536) ≤ d then exp2Fn d else (0, 0)
    let add := (ps.map fun p => (alignBy (p.1 : Int) (-(p.2 + 25))).1).foldl (· + ·) 0
    ⟨{ up.1 with sum := up.1.sum + add }, up.2, ps.map fun p => ((p.1 : Int), p.2 - 15)⟩

/-- Where an X or an F finds its row block: scores and their exponent words from the SMX's first template moved to the buffer, row state
from its third moved to the row block, the rest in the work area (R253). -/
structure XGeo where
  a48 : Bool
  sc : Nat → Nat
  sx : Nat → Nat
  pb : Nat
  oa : Nat
  ox : Nat
  rs : Nat

def xGeo (w : WalkSt) (i : InFlight) (v : Nat) : XGeo :=
  let x := wgeo w.desc
  let rb := bitsOf v 47 32
  let buf := bitsOf v 16 16
  let r (i : Nat) : Nat := x.reg w.nrb i
  { a48 := (i.acc 0).a48, sc := fun c => (i.acc 0).block c + (r (2 * buf) - r 0), sx := fun c => (i.acc 0).exp c + (r (2 * buf + 1) - r 1),
    pb := r (4 + buf), oa := r 9 + rb * x.ob * 512, ox := r 10 + rb * x.ob * 4, rs := (i.vec 2).base + 256 * rb }

def xAccs (w : WalkSt) (i : InFlight) (v : Nat) : List (Nat × Nat) :=
  let x := wgeo w.desc
  let y := xGeo w i v
  let nc := bitsOf v 95 86 / 8
  [(y.sc 0, nc * accBytes y.a48), (y.sx 0, nc * 4), (y.pb, 16 * x.np * 32), (y.oa, x.ob * 512), (y.ox, x.ob * 4), (y.rs, 256)]

/-- X: one softmax step of a row block (R261, R262, R265, R266). The column blocks that no row of it sees were not computed: they are
neither converted nor asked for poison. -/
def State.stepX (s : State) (g : Nat) (w : WalkSt) (i : InFlight) (v : Nat) : Ex :=
  let x := wgeo w.desc
  let rb := bitsOf v 47 32
  let vrows := bitsOf v 8 4
  let rseq := bitsOf v 63 48
  let ent := bitsOf v 27 18
  let p0 := bitsOf v 85 64
  let npos := bitsOf v 95 86
  let clen := bitsOf v 117 96
  let win := bitsOf v 179 162
  let b := (w.blocks.find? fun b => decide (b.ent = ent) && decide (b.p0 = p0)).getD ⟨ent, p0, [], []⟩
  let y := xGeo w i v
  let seen (i j : Nat) : Bool :=
    decide (i < vrows) && seenBy x clen win b.globals b.hidden (clen + (rseq + i) / max 1 x.qph) (p0 + j)
  let on (c : Nat) : Bool := (List.range 16).any fun i => (List.range 8).any fun j => seen i (8 * c + j)
  (Ex.mk s .go 0).part g (xAccs w i v) fun s =>
    let s := if v.testBit 3 then
        let s := (List.range 16).foldl (fun s i => s.putRowSt g (y.rs + 16 * i) ⟨none, 0, 0, 0⟩) s
        (List.range x.ob).foldl (fun s c => s.putAcc g (y.oa + 512 * c) (y.ox + 4 * c) ⟨List.replicate 128 0, 0, false, false, false, false⟩) s
      else s
    let anyPsn := (List.range (npos / 8)).any fun c => on c && s.accPoison g y.a48 (y.sc c) (y.sx c)
    (List.range 16).foldl (fun (z : State × Nat) i =>
      let s := z.1
      let scores := (List.range npos).map fun j =>
        if on (j / 8) then scoreOf (s.accVal g y.a48 (y.sc (j / 8)) (y.sx (j / 8)) (i * 8 + j % 8)) else (0, false)
      let a := y.rs + 16 * i
      let r := rowX (s.rowSt g a) (scores.map (·.1)) (seen i)
      let psn := anyPsn && decide (i < vrows)
      let s := s.putRowSt g a { r.st with flags := if psn then r.st.flags ||| 1 else r.st.flags }
      let o := match r.factor with
        | some f => (s.tilCnt g (R.AW_CNT2 g) F.AW_CNT2_RESCALE 1).rescaleRow g x w.nrb rb i f
        | none => (s, 0)
      let o2 := o.1.rqRow g (y.pb + i * x.np * 32) x.np (fun _ => psn) fun j => r.probs.getD j (0, 0)
      (o2.1, z.2 ||| o.2 ||| o2.2 ||| (if scores.any (·.2) then stLsat else 0))) (s, 0)

/-- F: each row's values times the reciprocal of SUM, requantised into the output tensor (R264). -/
def fAccs (w : WalkSt) (i : InFlight) (v : Nat) : List (Nat × Nat) :=
  let x := wgeo w.desc
  let y := xGeo w i v
  [(y.oa, x.ob * 512), (y.ox, x.ob * 4), (y.rs, 256), (x.outb + 16 * bitsOf v 47 32 * x.osh * 32, 16 * x.osh * 32)]
def State.stepF (s : State) (g : Nat) (w : WalkSt) (i : InFlight) (v : Nat) : Ex :=
  let x := wgeo w.desc
  let rb := bitsOf v 47 32
  let vrows := bitsOf v 8 4
  let y := xGeo w i v
  let out := x.outb + 16 * rb * x.osh * 32
  (Ex.mk s .go 0).part g (fAccs w i v) fun s =>
    let oPsn := (List.range x.ob).any fun c => s.accPoison g false (y.oa + 512 * c) (y.ox + 4 * c)
    (List.range 16).foldl (fun (z : State × Nat) i =>
      let s := z.1
      let r := s.rowSt g (y.rs + 16 * i)
      let r := { r with flags := if oPsn && decide (i < vrows) then r.flags ||| 1 else r.flags }
      let psn := r.flags.testBit 0
      let s := s.putRowSt g (y.rs + 16 * i) r
      let s := if i < vrows ∧ s.fget (R.AW_CNT3 g) F.AW_CNT3_RSMAX < r.nr ∧ ¬ s.flag (R.TIL_CNTCTL g) F.TIL_CNTCTL_FREEZE then
          s.fset (R.AW_CNT3 g) F.AW_CNT3_RSMAX r.nr else s
      let a := out + i * x.osh * 32
      if r.sum = 0 then
        let s := if i < vrows then s.tilCnt g (R.AW_CNT2 g) F.AW_CNT2_EMPTYROW 1 else s
        ((List.range x.osh).foldl (fun s k => s.putLoftSheaf g (a + 32 * k) ⟨zeroBits, psn⟩) s, z.2 ||| psnSt psn)
      else
        let q := rsqrtFn r.sum.toNat (-40)
        let o := s.rqRow g a x.osh (fun _ => psn) fun d =>
          let e := s.accVal g false (y.oa + d / 8 * 512) (y.ox + d / 8 * 4) (i * 8 + d % 8)
          (e.1 * (q.1 * q.1 : Nat), e.2 + 2 * q.2 - 60)
        (o.1, z.2 ||| o.2)) (s, 0)

/-- What a VE step touches. -/
def veAccs (w : WalkSt) (i : InFlight) (v : Nat) : List (Nat × Nat) :=
  match v % 4 with
  | 0 => qAccs w v
  | 1 => xAccs w i v
  | _ => fAccs w i v

def veStepped (w : WalkSt) (v : Nat) : WalkSt :=
  match v % 4 with
  | 0 => { w with qDone := w.qDone + 1 }
  | 1 => { w with xDone := w.xDone + 1 }
  | _ => { w with fLeft := w.fLeft - 1 }

/-- What holds the SMX that would take the front mask entry: an interlock, or a bank (R98, R259). -/
def State.veHold (s : State) (g : Nat) : Option Stall :=
  let t := s.tile g
  match (s.eng g .ve).taker 0x16, t.veQ, t.walk with
  | some i, q :: _, some w =>
    let v := q.toNat
    if ¬ veReady w v then some .wait
    else if veSuits w i v && decide (v % 4 ≠ 3) then
      match s.firstBadAcc g (veAccs w i v) with
      | some (.wait, _) => some .bank
      | _ => none
    else none
  | _, _, _ => none

/-- An SMX takes the front mask entry when it is of kind `kind` (or a null entry) and its interlock holds. -/
def State.veStep (s : State) (g kind : Nat) : State :=
  let t := s.tile g
  match (s.eng g .ve).taker 0x16, t.veQ, t.walk with
  | some i, q :: rest, some w =>
    let v := q.toNat
    if (v % 4 ≠ kind ∧ v % 4 ≠ 3) ∨ ¬ veReady w v then s
    else
      let took (s : State) : State := s.modTile g fun t => { t with veQ := rest }
      if ¬ veSuits w i v then (took s).entryFault g .ve i 0x19 none
      else if v % 4 = 3 then ((took s).tookEntry g .ve i.uid 0 true).pump g
      else
        let r := match v % 4 with
          | 0 => s.stepQ g w v
          | 1 => s.stepX g w i v
          | _ => s.stepF g w i v
        match r.stop with
        | .wait => s
        | .bank l => (took r.s).entryFault g .ve i 0x02 (some l)
        | .fault c l => (took r.s).entryFault g .ve i c l
        | .go =>
          let s := (took r.s).modTile g fun t => { t with walk := t.walk.map fun w => veStepped w v }
          (s.tookEntry g .ve i.uid r.st (v.testBit 2)).pump g
  | _, _, _ => s

/-- What holds an engine at a step of the walker's queues; the walker itself at a push (R81, R98, R259). -/
def State.stepHold (s : State) (g : Nat) (e : Eng) : Option Stall :=
  match e with
  | .le => s.leHold g
  | .me => s.meHold g
  | .ve => s.veHold g
  | .aw => s.walkHold g
  | _ => none

end Sys2Proof.Machine
end

