-- ==== Sys2Proof/Machine/TileIssue.lean ====
section
/-! DEFINITION. The issue of an instruction (R77, R133 to R138, R162, R165, R182 to R189, R543): the decode stage, the credit, the
wait, the issue stage and the execution, and one tile cycle's attempt of an engine. -/

namespace Sys2Proof.Machine

/-! ## The decode stage (R134, R162, R176, R543) -/

/-- A body that encloses an instruction: its counter, its first offset and the offset after its last instruction. -/
structure Body where
  k : Nat
  first : Nat
  stop : Nat
deriving DecidableEq, Repr

/-- What the check of a LOOP's body finds. -/
inductive BodyChk where
  | ok | absent | bad
deriving DecidableEq, Repr

/-- A LOOP of counter `k` and length `len` whose body begins at `o` may be entered inside the bodies `encl`, innermost first. -/
def loopFits (encl : List Body) (k o len : Nat) : Bool :=
  decide (len ≤ 1024) && decide (encl.length < 4) && !(encl.any fun b => decide (b.k = k)) &&
    (match encl with
     | [] => true
     | b :: _ => decide (o + 8 * len ≤ b.stop))

/-- The instructions from offset `o` to `stop`, one by one, with the bodies around each. -/
def bodyScan (cell : Nat → BufCell) (e : Eng) (stop : Nat) : Nat → Nat → List Body → BodyChk
  | 0, _, _ => .ok
  | n + 1, o, encl =>
    if stop ≤ o then .ok
    else
      let encl := encl.dropWhile fun b => decide (b.stop ≤ o)
      match cell o with
      | .absent => .absent
      | .gap => bodyScan cell e stop n (o + 8) encl
      | .word w =>
        match opAt e w with
        | some .endStream => .bad
        | some (.yield _) => .bad
        | some (.brv _ _) => .bad
        | some (.jmp off) =>
          match encl with
          | [] => .bad
          | b :: _ =>
            let t := jmpTarget o off
            if b.first ≤ t ∧ t < b.stop then bodyScan cell e stop n (o + 8) encl else .bad
        | some (.loop k _ len) =>
          if loopFits encl k (o + 8) len then bodyScan cell e stop n (o + 8) (⟨k, o + 8, o + 8 + 8 * len⟩ :: encl) else .bad
        | _ => bodyScan cell e stop n (o + 8) encl

/-- The checks of a LOOP at offset `o`, over the whole of its body (R134). -/
def loopChk (cell : Nat → BufCell) (e : Eng) (active : List LoopFrame) (o k len : Nat) : BodyChk :=
  let encl := active.map fun l => Body.mk l.k l.first (l.first + 8 * l.len)
  if ¬ loopFits encl k (o + 8) len then .bad
  else bodyScan cell e (o + 8 + 8 * len) len (o + 8) (⟨k, o + 8, o + 8 + 8 * len⟩ :: encl)

/-- The head of an engine's buffer after the decode stage. -/
inductive Head where
  | starve
  | fault (cause : Nat)
  | instr (i : TInstr)
deriving DecidableEq, Repr

/-- A BRV's slots: each fetched one is a JMP without wait and signal (R543). -/
def brvChk (cell : Nat → BufCell) (e : Eng) (o v : Nat) : BodyChk :=
  let cs := (List.range v).map fun i => cell (o + 8 + 8 * i)
  if cs.any fun c => decide (c = .absent) then .absent
  else if cs.all fun c => match c with
      | .word w =>
        (match decodeInstr e w with
         | some ⟨wt, sg, .jmp _⟩ => decide (wt.alias_ = 63) && decide (sg.alias_ = 63)
         | _ => false)
      | _ => true then .ok else .bad

/-- The decode stage at the engine's head, with the alias check after the others (R162, R176). -/
def State.head (s : State) (g : Nat) (e : Eng) : Head :=
  let x := s.eng g e
  let o := s.spc g e
  let cell := cellAt (s.soff g e) (s.slen g e) x.buf
  match cell o with
  | .absent => .starve
  | .gap => .fault 0x16
  | .word w =>
    match decodeInstr e w with
    | none => .fault 0x05
    | some i =>
      let fin : Head :=
        if (i.wait.alias_ ≠ 63 ∧ s.aliasType g i.wait.alias_ = 0) ∨ (i.sig.alias_ ≠ 63 ∧ s.aliasType g i.sig.alias_ = 0) then .fault 0x32
        else .instr i
      match i.op with
      | .brv _ v =>
        (match brvChk cell e o v with
         | .absent => .starve
         | .bad => .fault 0x05
         | .ok => fin)
      | .loop k _ len =>
        (match loopChk cell e x.loops o k len with
         | .absent => .starve
         | .bad => .fault 0x13
         | .ok => fin)
      | _ => fin

/-! ## The issue stage and the execution -/

def State.stallAs (s : State) (g : Nat) (e : Eng) (k : Stall) : State := s.modEng g e fun x => { x with stall := k }

/-- A tile cycle spent held, counted (R118, R119). -/
def State.countStall (s : State) (g : Nat) (e : Eng) (k : Stall) : State :=
  match k with
  | .active => s
  | .wait => s.tilCnt g (R.TIL_ECNTB g (engIdx e)) F.TIL_ECNTB_WAIT 1
  | .credit => s.tilCnt g (R.TIL_ECNTB g (engIdx e)) F.TIL_ECNTB_CREDIT 1
  | .starve => s.tilCnt g (R.TIL_ECNTC g (engIdx e)) F.TIL_ECNTC_STARVE 1
  | .bank => s.tilCnt g (R.TIL_ECNTC g (engIdx e)) F.TIL_ECNTC_BANK 1

/-- A tile cycle spent held, counted and shown (R105). -/
def State.hold (s : State) (g : Nat) (e : Eng) (k : Stall) : State := (s.countStall g e k).stallAs g e k
def State.holdWait (s : State) (g : Nat) (e : Eng) : State := s.hold g e .wait
def State.holdBank (s : State) (g : Nat) (e : Eng) : State := s.hold g e .bank

/-- The engine passes on to offset `to`, its wait field done with. -/
def State.advance (s : State) (g : Nat) (e : Eng) (dest : Nat) (jump : Bool) : State :=
  ((s.clearWait g e).moveTo g e dest jump).stallAs g e .active

/-- The Loft access of a VE, ME, SE or NE operation, a load's request, a copy: what each operation does past its issue checks. -/
def State.perform (s : State) (g iaddr : Nat) (e : Eng) (op : TOp) (ds : List Desc) : OpOut :=
  let x := s.eng g e
  let d (i : Nat) : Desc := ds.getD i ⟨0, 0⟩
  let L (i : Nat) : TLoft := (d i).toLoft x
  let A (i : Nat) : TAcc := (d i).toAcc x
  let V (i : Nat) : TVec := (d i).toVec x
  let M (i : Nat) : TMem := (d i).toMem x
  match op with
  | .ld _ _ => opLd s g (M 0) (L 1)
  | .ldq n => ⟨⟨s, .go, 0⟩, n, none⟩
  | .cpy _ _ => opCpy s g (L 0) (L 1)
  | .acopy _ _ => opAcopy s g (M 0) (d 1).toTgt
  | .ldd en off => opLdd s g en off
  | .mm _ _ _ strip acc mq => let o := opMm s g iaddr (L 0) (L 1) (A 2) strip acc mq; if mq then { o with need := 1 } else o
  | .rq _ _ _ => opRq s g (A 0) (L 1) (d 2).toRqp
  | .norm _ _ _ => opNorm s g (L 0) (L 1) (A 3) ((d 2).f 0 63 32) ((d 2).f 1 15 0)
  | .emul _ _ _ relu => opEmul s g (L 0) (L 1) (A 2) relu
  | .lane _ _ _ k => opLane s g (V 0) (V 1) (V 2) k
  | .fn _ _ f => opFn s g (V 0) (V 1) f
  | .red _ _ mx => opRed s g (V 0) (V 1) mx
  | .smx _ _ _ => ⟨⟨s, .go, 0⟩, 1, none⟩
  | .walk _ => opWalk s g (d 0)
  | .st _ _ => opSt s g (L 0) (M 1)
  | .sta _ _ =>
    opSta s g (if (d 0).kind = 3 then .acc (A 0) else .loft (L 0))
      (match (d 1).kind with
       | 3 => .acc (A 1)
       | 2 => .mem (M 1)
       | _ => .tgt (d 1).toTgt)
  | .atom _ _ k => opAtom s g (V 0) (M 1) k
  | .send _ seg empty => opSend s g (if empty then none else some (L 0)) seg
  | .recv _ seg => opRecv s (L 0) seg
  | _ => .of ⟨s, .go, 0⟩

/-- The receive of an operation armed for instruction number `uid`. -/
def State.arm (s : State) (g uid : Nat) (r : Option (Bool × RecvRec)) : State :=
  match r with
  | none => s
  | some (load, q) =>
    s.modTile g fun t =>
      if load then { t with loadQ := t.loadQ ++ [{ q with uid := uid }] } else { t with recvQ := t.recvQ ++ [{ q with uid := uid }] }

/-- The operations whose descriptors are templates of the steps of their queue: an MM under MQ and an SMX (R253). -/
def holdsTemplates (op : TOp) : Bool :=
  match op with
  | .mm _ _ _ _ _ mq => mq
  | .smx _ _ _ => true
  | _ => false

/-- Such an operation, the newest in flight, keeps its descriptors, with the loops it was issued in. -/
def State.keepArgs (s : State) (g : Nat) (e : Eng) (op : TOp) (ds : List Desc) : State :=
  if holdsTemplates op then
    s.modEng g e fun x =>
      { x with infl := x.infl.dropLast ++ x.infl.getLast?.toList.map fun i => { i with args := ds.map (·.w), loops := x.loops } }
  else s

/-- An operation past its issue checks: performed, put in flight and the engine moved on; a bank still turning ON holds it, and a fault
at execution leaves what was written and gives no signal (R98, R162). -/
def State.execute (s : State) (g : Nat) (e : Eng) (h : Sig) (op : TOp) (ds : List Desc) : State :=
  let ia := s.iaddr g e
  let o := s.spc g e
  let r := s.perform g ia e op ds
  match r.x.stop with
  | .wait => s.holdBank g e
  | .bank l => (r.x.s.advance g e (o + 8) false).tileFault g (engIdx e) 0x02 ia (some l)
  | .fault c l => (r.x.s.advance g e (o + 8) false).tileFault g (engIdx e) c ia l
  | .go =>
    let uid := (r.x.s.eng g e).nextUid
    let s := r.x.s.launch g e (opCode op) h ia r.x.st ((creditPool op).map (·.1)) r.need (r.x.s.laneLen g e - s.laneLen g e)
    let s := ((s.keepArgs g e op ds).arm g uid r.recv).advance g e (o + 8) false
    match op with
    | .walk _ => s.pump g
    | _ => s

/-- The issue checks of any operation that reads descriptors. -/
def State.opChk (s : State) (g : Nat) (e : Eng) (op : TOp) : IssueChk :=
  match op with
  | .walk da => s.walkChk g da
  | _ => s.issueChk g e op

/-- A HINT's report to the arbiter (R138). -/
def State.hint (s : State) (g cls lead dur level : Nat) : State := s.report (.hint g cls lead dur level s.now)

/-- The variant that a BRV reads: wait, fault, or the slot (R136). -/
inductive BrvRead where
  | wait
  | fault (cause : Nat)
  | slot (i : Nat)
deriving DecidableEq, Repr

def State.brvRead (s : State) (g p v : Nat) : BrvRead :=
  let a := R.TIL_VAR g (p % 4)
  let q := s.fget a F.TIL_VAR_POINT
  let behind := (p + 256 - q) % 256
  if ¬ s.flag a F.TIL_VAR_VALID ∨ (1 ≤ behind ∧ behind ≤ 128) then .wait
  else if q = p then (if s.fget a F.TIL_VAR_VARIANT < v then .slot (s.fget a F.TIL_VAR_VARIANT) else .fault 0x14)
  else .fault 0x15

/-- An instruction past its wait, at its issue stage: it completes at issue, goes in flight, is held, or faults. -/
def State.issueOp (s : State) (g : Nat) (e : Eng) (h : Sig) (op : TOp) : State :=
  let ia := s.iaddr g e
  let o := s.spc g e
  let fin (s : State) : State := s.complete g e h ia 0
  match op with
  | .nop => fin (s.advance g e (o + 8) false)
  | .hint c l d v => fin ((s.advance g e (o + 8) false).hint g c l d v)
  | .jmp off => fin (s.advance g e (jmpTarget o off) true)
  | .loop k n len =>
    if n = 0 then fin (s.advance g e (o + 8 + 8 * len) true)
    else
      let s := s.advance g e (o + 8) false
      fin (s.modEng g e fun x => { x with loops := ⟨k, 0, n, o + 8, len⟩ :: x.loops })
  | .brv p v =>
    (match s.brvRead g p v with
     | .wait => s.holdWait g e
     | .fault c => (s.clearWait g e).tileFault g (engIdx e) c ia none
     | .slot i =>
       let s := s.modTile g fun t => { t with varUnread := if t.varUnread.testBit (p % 4) then t.varUnread - 2 ^ (p % 4) else t.varUnread }
       fin (s.advance g e (o + 8 + 8 * i) false))
  | .yield id =>
    if s.flag (R.TIL_YREQ g) F.TIL_YREQ_REQ then (s.holdWait g e).modEng g e fun x => { x with holdY := some id, holdSig := h }
    else fin (s.advance g e (o + 8) false)
  | .fence | .endStream => (s.advance g e (o + 8) false).launch g e (opCode op) h ia 0 none 0 0
  | _ =>
    match s.opChk g e op with
    | .wait => if (match op with | .walk _ => !s.walkFree g | _ => false) then s.holdWait g e else s.holdBank g e
    | .fault c l => if c = 0x01 then (s.clearWait g e).formatIssue g e ia (some l) else (s.clearWait g e).tileFault g (engIdx e) c ia (some l)
    | .ok ds => s.execute g e h op ds

/-- The operand values that some word encodes (R133, R138, R150, R154, R157, R158). -/
def opLegal : TOp → Bool
  | .loop k n len => decide (k < 4) && decide (n < 65536) && decide (0 < len) && decide (len < 4096)
  | .brv p v => decide (p < 256) && decide (0 < v) && decide (v < 64)
  | .hint c _ _ _ => decide (c ≤ 4)
  | .ldq n => decide (0 < n) && decide (n < 4096)
  | .ldd e _ => decide (e < 6) || decide (e = 7)
  | .lane _ _ _ k => decide (k < 11)
  | .fn _ _ f => decide (f < 3)
  | .atom _ _ k => decide (k < 5)
  | .send da seg empty => !empty || (seg && decide (da = 0))
  | _ => true

/-- The decode stage of a row: an operand no word encodes is ILLEGAL, a signal through an alias of TYPE 0 is ALIAS (R162, R176). -/
def State.rowDecode (s : State) (g : Nat) (h : Sig) (op : TOp) : Option Nat :=
  if ¬ opLegal op then some 0x05
  else if h.alias_ ≠ 63 ∧ s.aliasType g h.alias_ = 0 then some 0x32
  else none

/-- The row of an instruction: the engine runs, stands at no yield point, has not ended, and holds the credit the instruction takes. -/
def State.row (s : State) (g : Nat) (e : Eng) (h : Sig) (op : TOp) : State :=
  let x := s.eng g e
  if ¬ s.runBit g e ∨ x.faulted ∨ x.over ∨ x.holdY.isSome then s
  else
    match s.rowDecode g h op with
    | some c => s.tileFault g (engIdx e) c (s.iaddr g e) none
    | none => if s.hasCredit g e op then s.issueOp g e h op else s

/-- A LOOP as a row: its decode-stage checks over the body, then its issue (R134). -/
def State.loopRow (s : State) (g : Nat) (e : Eng) (h : Sig) (k n len : Nat) : State :=
  let x := s.eng g e
  if ¬ s.runBit g e ∨ x.faulted ∨ x.over ∨ x.holdY.isSome then s
  else if len = 0 then s.tileFault g (engIdx e) 0x05 (s.iaddr g e) none
  else
    match s.rowDecode g h (.loop k n len), loopChk (cellAt (s.soff g e) (s.slen g e) x.buf) e x.loops (s.spc g e) k len with
    | _, .absent => s
    | _, .bad => s.tileFault g (engIdx e) 0x13 (s.iaddr g e) none
    | some c, .ok => s.tileFault g (engIdx e) c (s.iaddr g e) none
    | none, .ok => s.issueOp g e h (.loop k n len)

/-! ## The wait field (R182, R187, R188) -/

/-- The first test of a wait: a POOL test leaves with the tile's batch, an ARC or BAR test is made at once. -/
def State.firstTest (s : State) (g : Nat) (e : Eng) (w : WaitF) (ia : Nat) : State :=
  let tm := if w.tmo = 0 then none else some (s.tmoOf g w.tmo)
  let s := s.modEng g e fun x => { x with wf := some w, wia := ia, timer := tm }
  if s.aliasType g w.alias_ = 1 then
    (s.modEng g e fun x => { x with wait := .inBatch }).modTile g fun t => { t with batch := t.batch ++ [.test e w.alias_ w.thr w.consume false] }
  else
    let r := s.testWait g w
    if r.2 then r.1.modEng g e fun x => { x with wait := .granted, timer := none }
    else if tm = some 0 then s.timeout g e
    else s.modEng g e fun x => { x with wait := .posted }

/-- An instruction at the head, decoded: credit, which is reserved, then wait, then issue (R77). -/
def State.attempt (s : State) (g : Nat) (e : Eng) (i : TInstr) : State :=
  if ¬ s.hasCredit g e i.op then s.hold g e .credit
  else
    let s := s.reserve g e i.op
    if i.wait.alias_ = 63 then s.issueOp g e i.sig i.op
    else
      let s := if (s.eng g e).wait = .fresh then s.firstTest g e i.wait (s.iaddr g e) else s
      if (s.eng g e).faulted then s
      else if (s.eng g e).wait = .granted then s.issueOp g e i.sig i.op
      else s.holdWait g e

/-- The engine is held at its head by a wait field under test or at a YIELD (R105). -/
def EngSt.waiting (x : EngSt) : Bool :=
  x.holdY.isSome || x.wait == .inBatch || x.wait == .posted || x.wait == .finaling

/-- One tile cycle of a running engine at its head: an instruction is tried unless the engine lost a contest in the cycle (R80, R91). -/
def State.headCycle (s : State) (g : Nat) (e : Eng) (lost : Bool) : State :=
  let x := s.eng g e
  if x.over then s
  else if x.holdY.isSome then s.holdWait g e
  else
    match s.head g e with
    | .starve => s.hold g e .starve
    | .fault c => if lost then s else s.tileFault g (engIdx e) c (s.iaddr g e) none
    | .instr i => if lost then (if x.waiting then s.holdWait g e else s) else s.attempt g e i

/-- INSTRUCTION_ISSUE: one tile cycle of engine `e`, with the bank requests of that cycle (R77, R91). A stopped or faulted engine counts
no waiting; what holds a step of the walker's queues counts once beside what holds the head (R81, R98, R259). -/
def State.issue (s : State) (g : Nat) (e : Eng) (reqs : List BankReq) : State :=
  let c := s.contests g reqs
  let s := c.1
  let s := if (s.eng g e).infl.isEmpty then s else s.tilCnt g (R.TIL_ECNTA g (engIdx e)) F.TIL_ECNTA_BUSY 1
  if ¬ s.runBit g e ∨ (s.eng g e).faulted then s
  else
    let k := s.stepHold g e
    let s := if e = .aw ∧ s.ringWait g then s.tilCnt g (R.AW_CNT1 g) F.AW_CNT1_RINGWAIT 1 else s
    let s := (s.stallAs g e .active).headCycle g e (c.2.any fun p => decide (portEng p = some e))
    match k with
    | none => s
    | some k => if (s.eng g e).stall = k then s else s.countStall g e k

/-! ## TIL_STAT (R105) -/

/-- What holds the engine now: at its head, or at a step of the walker's queues. -/
def State.heldBy (s : State) (g : Nat) (e : Eng) (k : Stall) : Bool :=
  let x := s.eng g e
  s.stepHold g e == some k ||
    (match k with
     | .bank => x.stall == .bank
     | .wait => x.waiting || x.stall == .wait
     | .credit =>
       !x.over && !x.holdY.isSome &&
         (match s.head g e with
          | .instr i => !s.hasCredit g e i.op
          | _ => false)
     | .starve => !x.over && !x.holdY.isSome && decide (s.head g e = .starve)
     | .active => false)

/-- STATE_e of TIL_STAT: the first that applies in the order of R105. -/
def State.engState (s : State) (g : Nat) (e : Eng) : Nat :=
  let x := s.eng g e
  if x.faulted then 7
  else if ¬ s.runBit g e then 6
  else if s.heldBy g e .bank then 5
  else if s.heldBy g e .wait then 2
  else if s.heldBy g e .credit then 3
  else if s.heldBy g e .starve then 4
  else if x.ended ∧ x.infl.isEmpty then 0
  else 1

/-- A WALK at the AW's head waits for a bank of what it checks (R252, R271). -/
def State.walkChecking (s : State) (g : Nat) : Bool :=
  (s.eng g .aw).stall == .bank &&
    (match s.head g .aw with
     | .instr ⟨_, _, .walk da⟩ => (s.loftAcc g (s.descAddr g .aw da) 32).1 == .ok
     | _ => false)

end Sys2Proof.Machine
end

