-- ==== Sys2Proof/Machine/TileCmd.lean ====
section
/-! DEFINITION. The tile's register writes and the commands of chapters 2, 3 and 4: what TIL_STAT and its neighbours show (R105, R110,
R113, R171, R271, R272), runs, resets and bank power (R102), the Loft through the control/debug port, programs (R166), and the arithmetic
and Winnow commands (R67 to R71). -/

namespace Sys2Proof.Machine

/-! ## What a tile's registers show -/

/-- TIL_STAT (R105). -/
def State.tilStat (s : State) (g : Nat) : Nat :=
  (engsAll.map fun e => s.engState g e * 2 ^ (4 * engIdx e)).foldl (· + ·) 0 + bit (s.quiet g) * 2 ^ 24

/-- FILL and the free credits of an engine (R110). -/
def State.tilEq (s : State) (g : Nat) (e : Eng) : Nat :=
  let x := s.eng g e
  let t := s.tile g
  let fill := (x.buf.filter fun c => match c.2 with
    | .word _ => true
    | _ => false).length
  let free : Nat × Nat × Nat := match e with
    | .le => (64 - x.poolUsed 0, 0, 0)
    | .me => (2, 0, 0)
    | .ve => (4 - x.poolUsed 0, 0, 0)
    | .aw => (64 - t.leQ.length, 32 - t.meQ.length, 32 - t.veQ.length)
    | .se => (32 - x.poolUsed 0, 0, 0)
    | .ne => (16 - x.poolUsed 0, 16 - x.poolUsed 1, 0)
  fill + free.1 * 2 ^ 16 + free.2.1 * 2 ^ 24 + free.2.2 * 2 ^ 32

def State.tilLoop (s : State) (g : Nat) (e : Eng) : Nat :=
  ((List.range 4).map fun k => (s.eng g e).loopVal k * 2 ^ (16 * k)).foldl (· + ·) 0

def State.bnkBusy (s : State) (g : Nat) : Nat :=
  ((List.range 32).map fun b => bit ((s.tile g).transOf b).isSome * 2 ^ b).foldl (· + ·) 0

def State.posted (s : State) (g : Nat) : Nat :=
  (engsAll.map fun e => bit (s.eng g e).isPosted * 2 ^ engIdx e).foldl (· + ·) 0

def countBits (n : Nat) : Nat := ((List.range 15).filter fun i => n.testBit i).length

/-- AW_STAT (R271). -/
def State.awStat (s : State) (g : Nat) : Nat :=
  match (s.tile g).walk with
  | none => bit (s.walkChecking g) * 2 ^ 12
  | some w =>
    let phase := if w.todo.isEmpty ∧ w.ents.isEmpty then 0 else if s.ringWait g then 3 else 2
    w.entry % 1024 + phase * 2 ^ 12 + countBits w.held * 2 ^ 16

def State.awRing (s : State) (g : Nat) : Nat :=
  match (s.tile g).walk with
  | none => 0
  | some w => w.landed % 2 ^ 15 + w.held % 2 ^ 15 * 2 ^ 16

/-! ## Register writes -/

/-- TIL_CTL.ILV (R104). -/
def State.ilvWrite (s : State) (g v : Nat) : State := if s.quiet g then s.fset (R.TIL_CTL g) F.TIL_CTL_ILV (min 5 v) else s

/-- BNK_DCTL written with GO (R115): ignored while an operation is pending. -/
def State.debugGo (s : State) (g : Nat) (wr : Bool) (psn : Nat) : State :=
  let a := R.BNK_DCTL g
  let s := (s.fset a F.BNK_DCTL_WR (bit wr)).fset a F.BNK_DCTL_PSN psn
  if ¬ s.flag a F.BNK_DCTL_DONE then s
  else
    let s := s.fset a F.BNK_DCTL_DONE 0
    s.modTile g fun t => { t with dbg := some ⟨wr, psn, s.fget (R.BNK_DADDR g) F.BNK_DADDR_LINE⟩ }

/-- TIL_CNTCTL.CLR: the counters of the section and those that follow it (R123, R208, R274). -/
def State.cntClear (s : State) (g : Nat) : State :=
  let s := s.clearRegs (R.TIL_ECNTA g 0) 0xF8
  let s := s.clearRegs (R.TIL_SYNCNT0 g) 16
  (s.clearRegs (R.AW_CNT0 g) 32).modTile g fun t => { t with macs := 0 }

/-- TIL_ARSTAT.CNTCLR (R74). -/
def State.arClear (s : State) (g : Nat) : State := ((s.wr (R.TIL_ARCNT0 g) 0).wr (R.TIL_ARCNT1 g) 0).wr (R.TIL_ARCNT2 g) 0

/-- TIL_PBASE: taken only while every RUN bit is 0 (R167). -/
def State.pbaseWrite (s : State) (g v : Nat) : State :=
  if s.fget (R.TIL_CTL g) F.TIL_CTL_RUN = 0 then s.fset (R.TIL_PBASE g) F.TIL_PBASE_ADDR (v / 64) else s

/-- TIL_DBASE_e: taken only while the engine is stopped with nothing in flight (R173). -/
def State.dbaseWrite (s : State) (g : Nat) (e : Eng) (v : Nat) : State :=
  if ¬ s.runBit g e ∧ (s.eng g e).infl.isEmpty then s.fset (R.TIL_DBASE g (engIdx e)) F.TIL_DBASE_BASE (v / 2048 % 2048) else s

/-- TIL_VAR_j (R168): the write wakes a BRV. -/
def State.varWrite (s : State) (g j point variant : Nat) (valid : Bool) : State :=
  let a := R.TIL_VAR g j
  let s := s.modTile g fun t => { t with varUnread := if t.varUnread.testBit j then t.varUnread else t.varUnread + 2 ^ j }
  ((s.fset a F.TIL_VAR_POINT point).fset a F.TIL_VAR_VARIANT variant).fset a F.TIL_VAR_VALID (bit valid)

/-! ## Sums over tiles -/

def State.sumFld (s : State) (l : List Nat) (f : Fld) : Nat := (l.map fun a => s.fget a f).foldl (· + ·) 0

/-- The tiles named, each checked: a virtual function's own partition, no tile of another (R12), a well-formed set. -/
def State.tileChecks (s : State) (fn p o : Nat) (ts : TileSet) : List (Bool × Reply) :=
  [badAt o (tileSetBad ts), ownPart fn p, (s.foreignTiles p ts, if fn = 0 then .malformed (16 + o) else .notPermitted)]

/-- A global tile id that a virtual function names outside its partition. -/
def State.ownTile (s : State) (fn g : Nat) : Bool × Reply := (decide (fn ≠ 0 ∧ s.tilePart g ≠ some (fn - 1)), .notPermitted)

/-! ## Commands of chapter 3 (R102) -/

/-- Tiles stopped: RUN cleared under `mask`. -/
def State.stopTiles (s : State) (l : List Nat) (mask : Nat) : State :=
  s.each l fun s g => s.setRun g (s.fget (R.TIL_CTL g) F.TIL_CTL_RUN &&& (63 - mask))

def cmdTileRun (fn p : Nat) (ts : TileSet) (engs : Nat) (run : Bool) (s : State) : State × Reply :=
  s.cmd (s.tileChecks fn p 1 ts) fun s =>
    let l := s.tilesIn p ts
    if run then (s.each l fun s g => s.setRun g (s.fget (R.TIL_CTL g) F.TIL_CTL_RUN ||| engs), .ok (lay (layList [])))
    else
      let s := s.stopTiles l engs
      (s, .ok (lay (layList ((l.filter fun g => !s.quiet g).map fun g => (2, g)))))

/-- The first `n` of a list, with how many were left out. -/
def capped {α : Type} (n : Nat) (l : List α) : List α × Nat := (l.take n, l.length - n)

def cmdTileStatus (fn p : Nat) (s : State) : State × Reply :=
  s.cmd [ownPart fn p] fun s =>
    let l := (s.tilesOf p).filter fun g => (engsAll.any fun e => decide (s.engState g e ≠ 0)) || s.flag (R.TIL_FAULT g) F.TIL_FAULT_VALID
    let c := capped 256 l
    (s, .ok (lay ((4, c.1.length) :: (c.1.flatMap fun g =>
      [(2, g), (4, s.tilStat g), (4, (s.rd (R.TIL_FAULT g)).toNat), (8, (s.rd (R.TIL_FADDR g)).toNat)]) ++ [(4, c.2)])))

def pwrCode : Pwr → Nat
  | .on => 3
  | .ret => 1
  | .off => 0

/-- The mask holds whole groups of banks under a tile's interleave (R90, R102). -/
def wholeGroups (k mask : Nat) : Bool :=
  (List.range 32).all fun b => mask.testBit b == mask.testBit (b / 2 ^ k * 2 ^ k)

/-- A bank brought to a state at once, a transition under way ended first. -/
def State.bankTo (s : State) (g b code : Nat) : State := ((s.bankTarget g b code).bankOn g b).bankOn g b

def cmdLoftPower (fn p : Nat) (ts : TileSet) (banks : Nat) (pw : Pwr) (s : State) : State × Reply :=
  let l := s.tilesIn p ts
  s.cmd (s.tileChecks fn p 1 ts ++
    [refuse 1 (l.any fun g => !wholeGroups (s.ilv g) banks),
     refuse 2 (decide (pw ≠ .on) && l.any fun g => !s.stopped g)]) fun s =>
    (s.each l fun s g => s.each ((List.range 32).filter fun b => banks.testBit b) fun s b => s.bankTo g b (pwrCode pw)).told (l.map R.BNK_PWR)

/-- Sheaves of the Loft that `[a, a + n)` touches. -/
def sheavesOf (a n : Nat) : List Nat := (List.range ((a + n - 1) / 32 + 1 - a / 32)).map fun i => (a / 32 + i) * 32

/-- Banks turning ON are waited for: their transitions end (R98). -/
def State.awaitOn (s : State) (g a n : Nat) : State :=
  s.each ((sheavesOf a n).map (s.bankOf g)).eraseDups fun s b => if (s.tile g).transOf b = some 3 then s.bankOn g b else s

def cmdLoftRead (fn g addr n : Nat) (s : State) : State × Reply :=
  s.cmd [badAt 0 (decide (1536 ≤ g)), badAt 4 (decide (2 ^ 22 ≤ addr)), badAt 8 (decide (n = 0 ∨ 4096 < n ∨ 2 ^ 22 < addr + n)),
    s.ownTile fn g] fun s =>
    let s := s.awaitOn g addr n
    let on (a : Nat) : Bool := decide (s.bankAcc g (s.bankOf g a) = .ok)
    let sh := sheavesOf addr n
    let bytes := (List.range n).map fun i => if on (addr + i) then (s.loftByte g (addr + i)).toNat else 0
    (s, .ok (lay ((4, n) :: bytes.map (fun b => (1, b)) ++ (4, sh.length) :: sh.map (fun a => (1, bit (on a && s.loftPoison g a))) ++
      (4, sh.length) :: sh.map (fun a => (1, bit (!on a))))))

/-- LOFT_WRITE (R102). A sheaf whose bank is RET or OFF is left out and the command still answers OK; the row names no answer for it
(DESIGN CHOICE, log entry 152). -/
def cmdLoftWrite (fn g addr : Nat) (data : List Byte) (psn : List Bool) (s : State) : State × Reply :=
  let n := data.length
  s.cmd [badAt 0 (decide (1536 ≤ g)), badAt 4 (decide (2 ^ 22 ≤ addr ∨ addr % 32 ≠ 0)),
    badAt 8 (decide (n < 32 ∨ 4096 < n ∨ n % 32 ≠ 0 ∨ 2 ^ 22 < addr + n ∨ psn.length ≠ n / 32)), s.ownTile fn g,
    refuse 1 (decide (s.fget (R.TIL_CTL g) F.TIL_CTL_RUN ≠ 0))] fun s =>
    let s := s.awaitOn g addr n
    (s.each (List.range (n / 32)) fun s i =>
      let a := addr + 32 * i
      if s.bankAcc g (s.bankOf g a) = .ok then
        (s.putLoftBytes g a ((data.drop (32 * i)).take 32)).setLoftPoison g a (psn.getD i false)
      else s, .ok [])

/-- The counters that TILE_STATS sums: six of each engine, then those of the tile. -/
def tileStatFields : List ((Nat → Nat) × Fld) :=
  ((List.range 6).flatMap fun e =>
    [(fun g => R.TIL_ECNTA g e, F.TIL_ECNTA_RETIRED), (fun g => R.TIL_ECNTA g e, F.TIL_ECNTA_BUSY), (fun g => R.TIL_ECNTB g e, F.TIL_ECNTB_WAIT),
     (fun g => R.TIL_ECNTB g e, F.TIL_ECNTB_CREDIT), (fun g => R.TIL_ECNTC g e, F.TIL_ECNTC_BANK), (fun g => R.TIL_ECNTC g e, F.TIL_ECNTC_STARVE)]) ++
    [(R.TIL_MECNT, F.TIL_MECNT_MAC64), (R.TIL_MECNT2, F.TIL_MECNT2_ZSKIP), (R.TIL_MECNT2, F.TIL_MECNT2_STRIPS),
     (R.TIL_BNKCNT, F.TIL_BNKCNT_CONFLICT), (R.TIL_BNKCNT, F.TIL_BNKCNT_ARRLOST), (R.TIL_BNKCNT, F.TIL_BNKCNT_DBGAGED)]

def State.tileSums (s : State) (l : List Nat) (fs : List ((Nat → Nat) × Fld)) : List (Nat × Nat) :=
  fs.map fun x => (8, s.sumFld (l.map x.1) x.2)

def cmdTileStats (fn p : Nat) (clr : Bool) (s : State) : State × Reply :=
  s.cmd [ownPart fn p] fun s =>
    let l := s.tilesOf p
    let out := lay ((4, 6) :: s.tileSums l tileStatFields)
    (if clr then s.each l fun s g => (s.clearRegs (R.TIL_ECNTA g 0) 0xF8).modTile g fun t => { t with macs := 0 } else s, .ok out)

/-- A tile stopped and reset with its fault cleared. -/
def State.resetTile (s : State) (g : Nat) : State := ((s.setRun g 0).tileReset g).faultClr g

def cmdTileReset (fn p : Nat) (ts : TileSet) (s : State) : State × Reply :=
  s.cmd (s.tileChecks fn p 1 ts) fun s =>
    let l := s.tilesIn p ts
    let t := s.stopTiles l 63
    (t.each l fun s g => s.resetTile g, .ok (lay (layList ((l.filter fun g => !t.quiet g).map fun g => (2, g)))))

def cmdTileConfig (fn p : Nat) (ts : TileSet) (ilv : Nat) (s : State) : State × Reply :=
  let l := s.tilesIn p ts
  s.cmd (s.tileChecks fn p 1 ts ++ [badAt (1 + tileSetLen 1 ts) (decide (5 < ilv)), refuse 1 (l.any fun g => !s.quiet g)]) fun s =>
    (s.each l fun s g => s.ilvWrite g ilv).told (l.map R.TIL_CTL)

/-! ## Programs (R125, R166) -/

/-- The bytes of a program: its header, streams, yield-point map and range lists, to the end of the last of them. R125 gives the program no
length, so how far DIGEST reaches is the model's choice (DESIGN CHOICE, log entry 153). -/
def State.progLen (s : State) (p b : Nat) : Nat :=
  let n (o k : Nat) : Nat := s.locNum p (b + o) k
  let streams := (List.range 6).map fun e => n (0x10 + 8 * e) 4 + n (0x14 + 8 * e) 4
  let yoff := n 0x60 4
  let ycnt := n 0x64 4
  let maps := if yoff = 0 then [] else (yoff + 32 * ycnt) :: (List.range ycnt).map fun i =>
    n (yoff + 32 * i + 28) 4 + 8 * n (yoff + 32 * i + 2) 2
  (streams ++ maps).foldl max 0x400

/-- SOFF and SLEN of an engine as the loader checks them: aligned, beyond the header, and within the region of the program base, the only
bound of a program that the header's own fields do not give (R125, R166; log entry 153). -/
def State.streamOk (s : State) (p b e : Nat) : Bool :=
  let off := s.locNum p (b + 0x10 + 8 * e) 4
  let len := s.locNum p (b + 0x14 + 8 * e) 4
  decide (off % 64 = 0 ∧ len % 8 = 0 ∧ (len = 0 ∨ (0x400 ≤ off ∧ s.rgnOf p (b + off + len - 1) = s.rgnOf p b)))

/-- The SM3 digest of a program with its DIGEST field taken as zero. -/
def State.progDigest (s : State) (p b : Nat) : List Byte :=
  let bs := (s.localBytes p b (s.progLen p b)).1
  sm3 (bs.take 0x280 ++ List.replicate 32 0 ++ bs.drop 0x2A0)

/-- The refusals that PROG_LOAD and PROG_START share, from position `k`. -/
def State.progTiles (s : State) (p : Nat) (l : List Nat) (k : Nat) : List (Bool × Reply) :=
  [refuse k (l.any fun g => decide (s.tilePart g ≠ some p)), refuse (k + 1) (l.any fun g => !s.quiet g),
   refuse (k + 2) (l.any fun g => decide (s.fget (R.TIL_CTL g) F.TIL_CTL_RUN ≠ 0))]

/-- A tile set that a virtual function may name. -/
def State.vfTiles (s : State) (fn p : Nat) (ts : TileSet) : Bool × Reply :=
  (decide (fn ≠ 0) && s.foreignTiles p ts, .notPermitted)

def cmdProgLoad (fn p addr : Nat) (ts : TileSet) (s : State) : State × Reply :=
  let b := addr % 2 ^ 48
  let l := s.tilesIn p ts
  let n (o k : Nat) : Nat := s.locNum p (b + o) k
  let dig := s.progDigest p b
  s.cmdRead [badAt 8 (decide (addr % 64 ≠ 0 ∨ 2 ^ 48 ≤ addr)), badAt 16 (tileSetBad ts), ownPart fn p, s.vfTiles fn p ts] p b (s.progLen p b)
    ([refuse 1 (decide (n 0 4 ≠ 0x484C4942)), refuse 2 (decide (n 4 2 ≠ 1)), refuse 3 (decide (n 6 2 = 0 ∨ 16 < n 6 2)),
      refuse 4 ((List.range 6).any fun e => !s.streamOk p b e),
      refuse 5 (decide (dig ≠ (s.localBytes p (b + 0x280) 32).1))] ++ s.progTiles p l 6) fun s =>
    ((s.each l fun s g => s.pbaseWrite g addr).measure (16 + p) 5 dig, .ok dig)

/-- SEMIMG applied to a tile's aliases (R205). -/
def State.semImage (s : State) (g : Nat) : State :=
  s.each (List.range 63) fun s a =>
    match s.aliasType g a with
    | 0 => s
    | k =>
      let c := s.progNum g (0x80 + 2 * a) 2
      let t := s.setAliasCount g a c
      if s.aliasCount g a = c then t
      else if k = 1 then t.retestGroup (g / 64) (t.aliasIdx g a / 32) else t.retestTile g k (t.aliasIdx g a)

/-- A tile started at entry point `k`, with its semaphore image where `init` is given (R125, R166). -/
def State.startTile (s : State) (g k : Nat) (init : Bool) : State :=
  let s := s.each engsAll fun s e =>
    let s := s.spcWrite g e (s.soff g e + 8 * s.progNum g (0x100 + 24 * k + 4 * engIdx e) 4)
    s.dbaseWrite g e (s.progNum g (0x40 + 4 * engIdx e) 4)
  let s := if init then s.semImage g else s
  s.setRun g 63

def cmdProgStart (fn p : Nat) (ts : TileSet) (k : Nat) (init : Bool) (s : State) : State × Reply :=
  let l := s.tilesIn p ts
  s.cmd ([badAt 1 (tileSetBad ts), badAt (1 + tileSetLen 1 ts) (decide (15 < k)), ownPart fn p, s.vfTiles fn p ts,
      refuse 1 (l.any fun g => decide (s.progNum g 8 4 % 8 ≠ s.ilv g))] ++ s.progTiles p l 2 ++
      [refuse 5 (l.any fun g => decide (s.progNum g 6 2 ≤ k))]) fun s =>
    (s.each l fun s g => s.startTile g k init).told
      (l.flatMap fun g => (List.range 6).map (R.TIL_SPC g) ++ (List.range 6).map (R.TIL_DBASE g) ++ [R.TIL_CTL g])

def cmdProgWhere (fn g : Nat) (s : State) : State × Reply :=
  s.cmd [badAt 0 (decide (1536 ≤ g)), s.ownTile fn g] fun s =>
    (s, .ok (lay ((4, 6) :: (engsAll.flatMap fun e =>
      [(8, s.spc g e), (8, s.tilLoop g e), (4, (s.rd (R.TIL_ISTAT g (engIdx e))).toNat), (1, s.engState g e)]) ++
      layList ((List.range 4).map fun j => (4, (s.rd (R.TIL_VAR g j)).toNat)) ++ [(4, (s.rd (R.TIL_YREQ g)).toNat)])))

/-! ## Arithmetic and Winnow (R67 to R71) -/

def cmdArithSeed (fn p seed : Nat) (s : State) : State × Reply :=
  s.cmd [ownPart fn p] fun s =>
    let l := s.tilesOf p
    (s.each l fun s g => s.fset (R.TIL_RNG g) F.TIL_RNG_STATE (seed ^^^ ((g + 1) * 0x100000001 % 2 ^ 64)), .ok (lay [(8, seed), (2, l.length)]))

/-- The mask of the clusters of die `d` that a function may set: its partition's, or every one for the physical function. -/
def State.fnClusters (s : State) (fn d : Nat) : Nat :=
  ((List.range 8).map fun c =>
    if fn = 0 ∨ s.tilePart (d * 64 + c * 8) = some (fn - 1) then 2 ^ c else 0).foldl (· + ·) 0

/-- `old` with the bits of `mask` set or cleared. -/
def setMask (old mask : Nat) (on : Bool) : Nat := if on then old ||| mask else old - (old &&& mask)

def cmdWinnowSet (fn rate : Nat) (sample fault : Bool) (s : State) : State × Reply :=
  s.cmd [badAt 0 (decide (rate ≠ 0 ∧ (rate < 6 ∨ 16 < rate))), (decide (fn ≠ 0 ∧ rate ≠ 0), .notPermitted)] fun s =>
    (s.each (List.range 24) fun s d =>
      let a := R.WNW_CTL d
      let m := s.fnClusters fn d
      let s := s.fset a F.WNW_CTL_CLMASK (setMask (s.fget a F.WNW_CTL_CLMASK) m sample)
      let s := s.fset a F.WNW_CTL_FLTMASK (setMask (s.fget a F.WNW_CTL_FLTMASK) m fault)
      if fn = 0 then
        let s := s.fset a F.WNW_CTL_EN (bit sample)
        if rate = 0 then s else s.fset a F.WNW_CTL_RATE rate
      else s).told ((List.range 24).map R.WNW_CTL)

def cmdArithStats (fn p : Nat) (clr : Bool) (s : State) : State × Reply :=
  s.cmd [ownPart fn p] fun s =>
    let l := s.tilesOf p
    let ds := List.range 24
    let out := lay (s.tileSums l [(R.TIL_ARCNT0, F.TIL_ARCNT0_SATELEM), (R.TIL_ARCNT0, F.TIL_ARCNT0_SATBLK), (R.TIL_ARCNT1, F.TIL_ARCNT1_ZEROBLK),
        (R.TIL_ARCNT1, F.TIL_ARCNT1_INEXACT), (R.TIL_ARCNT2, F.TIL_ARCNT2_FORMAT), (R.TIL_ARCNT2, F.TIL_ARCNT2_POISON),
        (R.TIL_ARCNT2, F.TIL_ARCNT2_WNWSTALL)] ++
      s.tileSums ds [(R.WNW_CNT0, F.WNW_CNT0_SAMPLED), (R.WNW_CNT0, F.WNW_CNT0_MISMATCH), (R.WNW_CNT1, F.WNW_CNT1_SKIPPED),
        (R.WNW_CNT1, F.WNW_CNT1_ABANDONED)])
    (if clr then s.each l fun s g => s.arClear g else s, .ok out)

/-- One element's comparison: index, mismatch, ERR and the exact distance. -/
structure WnwElem where
  i : Nat
  bad : Bool
  err : Nat
  num : Nat
  scale : Nat
deriving DecidableEq, Repr

def Capture.elem (c : Capture) (i : Nat) : WnwElem :=
  let r := refElem c.fa c.fb (c.wts.getD (i % 8) []) (c.acts.getD (i / 8) []) c.granules
  let o := c.result.vals.getD i 0
  let d := refDiff o c.result.x r
  ⟨i, winnowMismatch o c.result.x r c.granules c.result.inx, winnowErr o c.result.x r, d.1, d.2⟩

/-- The worst of the elements: the largest distance, the lowest index among equals. -/
def worstOf : List WnwElem → Option WnwElem
  | [] => none
  | e :: r =>
    match worstOf r with
    | none => some e
    | some w => if e.num * 2 ^ w.scale < w.num * 2 ^ e.scale then some w else some e

/-- A log entry written, or counted as lost (R70). -/
def State.winnowLog (s : State) (d : Nat) (c : Capture) (w : WnwElem) : State :=
  let a := R.WNW_LOGPTR d
  if s.flag a F.WNW_LOGPTR_FREEZE then s.fadd a F.WNW_LOGPTR_LOST 1
  else
    let n := s.fget a F.WNW_LOGPTR_NEXT
    let s := if decide (s.rd (R.WNW_LOGA d n) ≠ 0) || decide (s.rd (R.WNW_LOGB d n) ≠ 0) then s.fadd a F.WNW_LOGPTR_LOST 1 else s
    let la := c.tile + ((s.tilePart c.tile).getD 0) * 2 ^ 12 + c.blk % 65536 * 2 ^ 16 + c.iaddr % 2 ^ 32 * 2 ^ 32
    let lb := toField 16 c.result.x + w.i * 2 ^ 16 + bit c.result.inx * 2 ^ 24 + bit c.result.a48 * 2 ^ 25 + w.err * 2 ^ 32
    let s := (s.wr (R.WNW_LOGA d n) (BitVec.ofNat 64 la)).wr (R.WNW_LOGB d n) (BitVec.ofNat 64 lb)
    s.fset a F.WNW_LOGPTR_NEXT ((n + 1) % 16)

/-- The unit recomputes and compares the captured block (R68 to R70). -/
def State.winnowCompare (s : State) (d : Nat) : State :=
  match spGet (fun _ => none) s.captures d with
  | none => s
  | some c =>
    let s := { s with captures := spPut (fun _ => none) s.captures d none }
    let s := s.fadd (R.WNW_CNT0 d) F.WNW_CNT0_SAMPLED 1
    match worstOf (((List.range 128).map c.elem).filter (·.bad)) with
    | none => s
    | some w =>
      let s := (s.fadd (R.WNW_CNT0 d) F.WNW_CNT0_MISMATCH 1)
      let n := s.fget (R.WNW_LOGPTR d) F.WNW_LOGPTR_NEXT
      let s := s.winnowLog d c w
      if (s.fget (R.WNW_CTL d) F.WNW_CTL_FLTMASK).testBit (c.tile % 64 / 8) then s.plainRep 8 (s.tilePart c.tile) c.tile c.iaddr n else s

def State.winnowCntClear (s : State) (d : Nat) : State := (s.wr (R.WNW_CNT0 d) 0).wr (R.WNW_CNT1 d) 0

end Sys2Proof.Machine
end

