-- ==== Sys2Proof/Machine/MemCmd.lean ====
section
/-! DEFINITION. The memory tiers' events and commands (R315 to R346): the map cache, moves and their failures, ageing, channel
training, region writes, MV_CMD, the regulators' fill, and the mailbox commands of R341. -/

namespace Sys2Proof.Machine

/-! ## The map cache (R311) -/

/-- A map entry read into a memory die's cache of 65,536 entries; the oldest entry makes room. -/
def State.mapRead (s : State) (d page : Nat) : State :=
  let D := gwDie d
  if 4 ≤ d ∨ s.mem.cached.contains (D, page) then s
  else
    let mine := s.mem.cached.filter fun x => decide (x.1 = D)
    let l := if mine.length < 65536 then s.mem.cached
      else match mine.head? with
        | some x => s.mem.cached.erase x
        | none => s.mem.cached
    { s with mem := { s.mem with cached := l ++ [(D, page)] } }

/-! ## Moves that end (R318, R319) -/

/-- Units of a request outstanding on a page filled as R229 fills them. -/
def State.fillPage (s : State) (d id pg : Nat) : State :=
  match s.req d id with
  | none => s
  | some r =>
    if r.op = 2 ∨ r.op = 4 ∨ ¬ s.reqOnPages d r [pg] then s
    else
      let us := (List.range r.units.length).map fun i =>
        match r.units.getD i none with
        | some x => some x
        | none => if (s.markPages d r i).contains pg then some poisonSheaf else none
      let s := s.filledCnt d r.queue
      (s.putReq d { r with units := us }).present d r.queue 4096

/-- A page lost (R319): its frames freed, the requests that wait on it filled; a weight page is fetched again. -/
def State.losePage (s : State) (m : Move) : State :=
  let s := (s.dropMove m.page).mvResult m 2
  match s.locate m.part (m.page * 65536) with
  | none => s
  | some u =>
    let n := kindFrames u.rgn.kind
    let e := s.mapEnt m.page
    let s := if e.loc ≠ 0 ∧ (s.streamOf m.part).isNone then s.quotaSub (tierDie m.st) m.part n else s
    let s := s.pageLost m.part m.die m.page m.frame n
    let d := m.die - 24
    let s := s.each ((s.gw d).reqs.map (·.id)) fun s id => s.fillPage d id m.page
    if m.kind = .moveIn ∧ u.rgn.kind = 1 ∧ s.refetchable m.part m.page then
      (s.setMapEnt m.page { e with st := .movein, frame := 0, loc := 0 }).addMove
        ⟨m.page, m.die, m.part, .demand, .refetch, .yard, 0, 0, false, false, false⟩
    else s

/-- A running move fails: a fetch is retried once from its source, a move-out leaves its page in Bay. -/
def State.moveFail (s : State) (pg : Nat) : State :=
  match s.moveOf pg with
  | none => s
  | some m =>
    if ¬ m.running then s
    else
      match m.kind with
      | .retire => s
      | .moveOut => ((s.dropMove pg).mvResult m 2).setMapEnt pg { s.mapEnt pg with st := .bay }
      | _ => if m.retried then s.losePage m else s.putMove { m with retried := true }

/-- A running move has copied its page: a page moved in meets its home die's tag check first, and fails the move where it fails
(R318, R319). -/
def State.moveComplete (s : State) (pg : Nat) : State :=
  match s.moveOf pg with
  | some m => if ¬ m.running then s else let s := s.moveData m; if s.moveSound m then s.moveEnd m else s.moveFail pg
  | none => s

/-! ## Ageing (R320) -/

/-- A partition's use on a die exceeds nine tenths of its quota there. -/
def State.crowded (s : State) (p die : Nat) : Bool := decide (9 * s.fget (R.TQ_QUOTA die p) F.TQ_QUOTA_QUOTA < 10 * s.quotaUsed die p)

/-- Pages of KV and GEN regions not used for two intervals move out where the partition crowds its quota. -/
def State.ageOut (s : State) (p die : Nat) : State :=
  if ¬ s.crowded p die then s
  else
    let c := (s.bayPages p die).filter fun x =>
      (decide (x.2.rgn.kind = 2) || decide (x.2.rgn.kind = 3)) && decide (2 ≤ x.2.ent.idle) && (s.moveOf x.1).isNone
    s.each c fun s x =>
      let a := s.pickAway p (kindFrames x.2.rgn.kind)
      match a.1 with
      | none => a.2
      | some (st, loc) => a.2.addMove ⟨x.1, die, p, .command, .moveOut, st, loc, 0, false, false, false⟩

def State.accAge (s : State) : State :=
  let s := s.each (s.mem.map.map (·.1)) fun s pg =>
    let e := s.mapEnt pg
    s.setMapEnt pg { e with acc := e.acc / 2, idle := if e.acc = 0 then e.idle + 1 else 0 }
  s.each (List.range 16) fun s p => s.each [24, 25, 26, 27] fun s die => s.ageOut p die

/-! ## Channels (R323 to R326) -/

def State.dimm (s : State) (n : Nat) : Option Dimm := spGet (fun _ => none) s.mem.dimms n
def State.anyRegion (s : State) : Bool :=
  (List.range 16).any fun p => (List.range 32).any fun r => s.flag (R.HST_RGN p r) F.MEM_RGN_VALID

/-- The capacity that most channels with a module hold; a tie goes to the larger. -/
def State.mainCap (s : State) : Nat :=
  let n (c : Nat) : Nat := ((List.range 96).filter fun k => match s.dimm k with
    | some x => decide ((x.cap : Nat) = c)
    | none => false).length
  [1, 2, 3].foldl (fun b c => if n b ≤ n c then c else b) 0

/-- A channel's state by R324: 0 without a module, 2 in service, 3 out of service. -/
def State.chanState (s : State) (n : Nat) : Nat :=
  match s.dimm n with
  | none => 0
  | some x =>
    if x.mrdimm ∧ (x.rated : Nat) ≠ 0 ∧ (x.cap : Nat) < 3 ∧ (x.cap : Nat) = s.mainCap ∧ spGet (fun _ => false) s.mem.trained n then 2 else 3

/-- The speed of every channel: the highest that each module in service and each SPMAX allows (R323). -/
def State.chanSpeed (s : State) : Nat :=
  let rated := (List.range 96).filterMap fun n => if s.chanState n = 2 then (s.dimm n).map fun x => (x.rated : Nat) - 1 else none
  let caps := (List.range 4).map fun m => s.fget (R.MEM_CTL m) F.MEM_CTL_SPMAX
  if rated.isEmpty then 0 else (rated ++ caps).foldl min 2

/-- CH_STAT and MEM_CTL follow what training found. -/
def State.chanUpdate (s : State) : State :=
  let s := s.each (List.range 96) fun s n =>
    (s.fset (R.CH_STAT n) F.CH_STAT_STATE (s.chanState n)).fset (R.CH_STAT n) F.CH_STAT_CAP (((s.dimm n).map fun x => (x.cap : Nat)).getD 0)
  let v := s.chanSpeed
  s.each [0, 1, 2, 3] fun s m =>
    (s.fset (R.MEM_CTL m) F.MEM_CTL_NCH (s.chansIn m).length).fset (R.MEM_CTL m) F.MEM_CTL_SPEED v

/-- A channel trained, its failed step retried once; channels in service do not change while a region exists (R310). -/
def State.chanTrain (s : State) (n : Nat) (x : Option Dimm) (fail1 fail2 : Bool) : State :=
  if s.anyRegion then s
  else
    { s with mem := { s.mem with dimms := spPut (fun _ => none) s.mem.dimms n x,
                                 trained := spPut (fun _ => false) s.mem.trained n (x.isSome && !(fail1 && fail2)) } }.chanUpdate

/-- A module's temperature read over the sideband (R325). -/
def State.tempPoll (s : State) (n temp : Nat) : State :=
  let a := R.CH_STAT n
  if s.fget a F.CH_STAT_STATE = 0 then s
  else
    let s := s.fset a F.CH_STAT_TEMP temp
    let s := s.fset a F.CH_STAT_HOT (bit (decide (85 ≤ temp)))
    s.fset a F.CH_STAT_THR (bit (decide (s.fget (R.MEM_CTL (n / 24)) F.MEM_CTL_TLIM ≤ temp)))

/-! ## Region registers (R344) -/

def rgnAddr (t : RgnTab) (p r : Nat) : Nat :=
  match t with
  | .mem m => R.MEM_RGN m p r
  | .hst => R.HST_RGN p r
  | .die d => R.DIE_RGN d p r

/-- A page of the region that a table entry holds is in a move. -/
def State.rgnMoving (s : State) (a : Nat) : Bool :=
  s.flag a F.MEM_RGN_VALID && s.mem.moves.any fun m =>
    decide (s.fget a F.MEM_RGN_BASE ≤ m.page ∧ m.page < s.fget a F.MEM_RGN_BASE + s.fget a F.MEM_RGN_SIZE)

/-- ENC as a region of a kind has it. -/
def rgnEnc (lo : Nat) : Nat := if lo % 16 = 1 ∨ lo % 16 = 2 then 1 else if lo % 16 = 4 then 0 else bitsOf lo 4 4

/-- A decommissioned part creates no encrypted region (R473). -/
def State.noEnc (s : State) (lo : Nat) : Bool :=
  decide (s.fget R.SEC_LIFE F.SEC_LIFE_STATE = 3) && decide (rgnEnc lo = 1) && lo.testBit 15

/-- A region register set as a whole; ENC is forced by the kind. -/
def State.rgnPut (s : State) (a lo hi : Nat) : State :=
  let k := lo % 16
  let enc := rgnEnc lo
  let s := s.fset a F.MEM_RGN_KIND k
  let s := s.fset a F.MEM_RGN_ENC enc
  let s := s.fset a F.MEM_RGN_STREAM (bitsOf lo 5 5)
  let s := s.fset a F.MEM_RGN_HOME (bitsOf lo 10 8)
  let s := s.fset a F.MEM_RGN_VALID (bitsOf lo 15 15)
  let s := s.fset a F.MEM_RGN_BASE (bitsOf lo 47 16)
  s.fset a F.MEM_RGN_SIZE (bitsOf hi 47 16)

/-- The staging register of a block (R33), by accessor (a function, or 17 + a control core) and the die its block lies on. -/
def stageKey (acc die : Nat) : Nat := acc * 32 + die
def State.staged (s : State) (acc die : Nat) : Option Word64 := spGet (fun _ => none) s.staging (stageKey acc die)
def State.stage (s : State) (acc die : Nat) (v : Option Word64) : State :=
  { s with staging := spPut (fun _ => none) s.staging (stageKey acc die) v }

/-- The lower half that an upper-half write applies. -/
def State.lowerHalf (s : State) (acc die a : Nat) : Nat := ((s.staged acc die).getD (s.rd a)).toNat

def State.rgnWrite (s : State) (acc die a hi : Nat) : State :=
  let lo := s.lowerHalf acc die a
  let s := s.stage acc die none
  if s.rgnMoving a ∨ s.noEnc lo then s else s.rgnPut a lo hi

def rgnDie : RgnTab → Nat
  | .mem m => 24 + m
  | .hst => 31
  | .die d => d

/-- The partition's regions written at a compute die, which is now a die of the partition (R344). -/
def State.rgnShow (s : State) (p d : Nat) : State :=
  s.each (List.range 32) fun s r => (s.wr (R.DIE_RGN d p r) (s.rd (R.HST_RGN p r))).wr (R.DIE_RGN d p r + 8) (s.rd (R.HST_RGN p r + 8))

/-- Every table that holds partition `p`'s regions. -/
def State.rgnTables (s : State) (p r : Nat) : List Nat :=
  (List.range 4).map (fun m => R.MEM_RGN m p r) ++ [R.HST_RGN p r] ++
    (((List.range 24).filter fun d => (List.range 64).any fun t => decide (s.tilePart (d * 64 + t) = some p)).map fun d => R.DIE_RGN d p r)

/-! ## MV_CMD (R345) -/

/-- A Yard frame of a host package, or of one that the steward chooses; whether the slice has a free guest frame only other packages
know (a free value). -/
def State.yardPlace (s : State) (dest : Nat) : Option Nat × State :=
  if dest % 4096 ≠ 0xFFF then (some (dest % 2 ^ 44), s)
  else
    let f := s.fresh
    let g := f.2.fresh
    match s.slice.find? fun k => decide (k ≠ s.pkgOwn) with
    | some k => (if f.1 % 2 = 1 then some (k + g.1 % 2 ^ 32 * 4096) else none, g.2)
    | none => (none, s)

/-- A move asked for by command: none where it is refused; otherwise the state and whether the page already rests there. -/
def State.askMove (s : State) (p die pg tgt dest : Nat) (cmd : Bool) : Option (State × Bool) :=
  match s.locate p (pg * 65536) with
  | none => none
  | some u =>
    if u.rgn.kind = 4 ∨ u.home ≠ die ∨ u.page ≠ pg ∨ (s.moveOf pg).isSome then none
    else
      match tgt, u.ent.st with
      | 1, .bay => some (s, true)
      | 1, .yard | 1, .cellar =>
        some (s.addMove ⟨pg, die, p, .command, .moveIn, u.ent.st, u.ent.loc, 0, false, false, cmd⟩, false)
      | 2, .bay =>
        let y := s.yardPlace dest
        y.1.map fun loc => (y.2.addMove ⟨pg, die, p, .command, .moveOut, .yard, loc, 0, false, false, cmd⟩, false)
      | 3, .bay =>
        some (s.addMove ⟨pg, die, p, .command, .moveOut, .cellar, dest / 65536 * 65536, 0, false, false, cmd⟩, false)
      | 2, .yard => some (s, true)
      | 3, .cellar => some (s, true)
      | _, _ => none

def State.mvGo (s : State) (m tgt : Nat) : State :=
  let a := R.MV_CMD m
  if s.flag a F.MV_CMD_BUSY then s
  else
    let s := s.fset a F.MV_CMD_TGT tgt
    let pg := s.fget (R.MV_ADDR m) F.MV_ADDR_PAGE
    match s.partOf (pg * 65536) with
    | none => s.fset a F.MV_CMD_RESULT 1
    | some p =>
      match s.askMove p (24 + m) pg tgt (s.fget (R.MV_DEST m) F.MV_DEST_DEST) true with
      | none => s.fset a F.MV_CMD_RESULT 1
      | some (t, true) => t.fset a F.MV_CMD_RESULT 0
      | some (t, false) => (t.fset a F.MV_CMD_BUSY 1).fset a F.MV_CMD_RESULT 0

/-! ## Regulators fill (R340, R386) -/

/-- `ns` nanoseconds of filling: RATE × 0.5 GB/s, up to DEPTH KiB; amounts in half bytes. -/
def fillTo (now rate depth ns : Nat) : Nat := min (depth * 2048) (now + rate * ns)

def State.bucketFill (s : State) (d : Nat) (fab : Bool) (p ns : Nat) : State :=
  if fab then
    if 4 ≤ d ∧ d < 7 then
      let a := R.FBP_LREG (d - 4) p
      s.setLinkTokens (d - 4) p (fillTo (s.linkTokens (d - 4) p) (s.fget a F.FBP_LREG_RATE) (s.fget a F.FBP_LREG_DEPTH) ns)
    else s
  else
    let a := R.TQ_REG (gwDie d) p
    s.setTokens (gwDie d) p (fillTo (s.tokens (gwDie d) p) (s.fget a F.TQ_REG_RATE) (s.fget a F.TQ_REG_DEPTH) ns)

/-! ## Mailbox commands (R341) -/

/-- The regions of every partition. -/
def State.regions (s : State) : List (Nat × Rgn) :=
  (List.range 16).flatMap fun p => ((List.range 32).filter fun r => s.flag (R.HST_RGN p r) F.MEM_RGN_VALID).map fun r =>
    (p, s.rgnAt (R.HST_RGN p r) r)

def State.rgnFree (s : State) (p : Nat) : Option Nat := (List.range 32).find? fun r => !s.flag (R.HST_RGN p r) F.MEM_RGN_VALID

/-- HOME is allowed for the kind, and its die has channels (R307, R324). -/
def State.homeOk (s : State) (kind home : Nat) : Bool :=
  if kind = 4 then decide (home = 5)
  else if home = 4 then !s.memDies.isEmpty
  else decide (home < 4) && decide (0 < s.nch home)

/-- Every page of a region allocated and cleared; none where quota or frames run short. -/
def State.allocAll (s : State) (p : Nat) (r : Rgn) : Option State :=
  (List.range (r.size / pageSize r.kind)).foldl (fun (o : Option State) i => o.bind fun s =>
    match s.locate p (r.base + i * pageSize r.kind) with
    | some u => s.allocPage p u
    | none => none) (some s)

/-- The pages of a HOST region stand in Cellar (R313) and count there (R339). -/
def State.hostPages (s : State) (p : Nat) (r : Rgn) : Option State :=
  let n := r.size / 65536
  if ¬ s.quotaFits 31 p n then none
  else
    some ((s.quotaAdd 31 p n).each (List.range n) fun s i =>
      let pg := r.base / 65536 + i
      s.setMapEnt pg { MapEnt.none_ with st := .cellar, loc := Config.hostPageOf pg % 2 ^ 48 * 65536 })

def State.putRegion (s : State) (p r lo hi : Nat) : State := s.each (s.rgnTables p r) fun s a => s.rgnPut a lo hi

def cmdMemRegion (fn p base size kind home : Nat) (enc reserve : Bool) (s : State) : State × Reply :=
  let ps := pageSize kind
  let r := (s.rgnFree p).getD 0
  let st := (s.streamOf p).isSome && decide (kind = 1)
  let lo := kind + bit enc * 16 + bit st * 32 + home * 256 + 2 ^ 15 + base / 65536 * 65536
  let t := s.putRegion p r lo (size / 65536 * 65536)
  let rg := t.rgnAt (R.HST_RGN p r) r
  let made := if kind = 4 then t.hostPages p rg else if reserve then some t else t.allocAll p rg
  s.cmd [badAt 8 (decide (2 ^ 48 ≤ base)), badAt 16 (decide (size = 0 ∨ 2 ^ 48 < base + size)), badAt 24 (decide (kind = 0 ∨ 4 < kind)),
    badAt 25 (decide (5 < home)), ownPart fn p,
    refuse 1 (s.regions.any fun x => decide (x.2.base < base + size ∧ base < x.2.base + x.2.size)),
    refuse 2 (s.rgnFree p).isNone, refuse 3 (decide (base % ps ≠ 0 ∨ size % ps ≠ 0)), refuse 4 (!s.homeOk kind home),
    refuse 5 made.isNone, refuse 0 (s.noEnc lo)] fun s => (made.getD s).told [R.HST_RGN p r, R.HST_RGN p r + 8]

/-- One page of a freed region. -/
def State.freePage (s : State) (p : Nat) (r : Rgn) (pg : Nat) : State :=
  let n := kindFrames r.kind
  let s := s.moveComplete pg
  let s := match s.moveOf pg with
    | some m => (s.dropMove pg).mvResult m 1
    | none => s
  let e := s.mapEnt pg
  let s := match s.homeDie r (pg * 65536), e.st with
    | some h, .bay => ((s.clearFrames h e.frame n).dropFrames h e.frame n).quotaSub h p n
    | _, .yard => if (s.streamOf p).isSome then s else s.quotaSub 28 p n
    | _, .cellar => s.quotaSub 31 p n
    | _, _ => s
  { s with mem := { s.mem with away := spClearRange (awayKey pg) (n * 1024) s.mem.away,
                               cached := s.mem.cached.filter fun x => decide (x.2 ≠ pg) } }.setMapEnt pg { MapEnt.none_ with gen := e.gen }

def cmdMemFree (fn p base : Nat) (s : State) : State × Reply :=
  let r := (s.regions.find? fun x => decide (x.1 = p ∧ x.2.base = base)).map (·.2)
  s.cmd [badAt 8 r.isNone, ownPart fn p] fun s =>
    match r with
    | none => (s, .ok [])
    | some r =>
      let pgs := (List.range (r.size / pageSize r.kind)).map fun i => (r.base + i * pageSize r.kind) / 65536
      let s := s.each pgs fun s pg => s.freePage p r pg
      (s.putRegion p r.idx 0 0).told [R.HST_RGN p r.idx, R.HST_RGN p r.idx + 8]

/-- Tiers in commands are coded as MV_CMD.TGT codes them: 1 Bay, 2 Yard, 3 Cellar. -/
def tierBlocks (tier : Nat) : List Nat := if tier = 1 then [24, 25, 26, 27] else if tier = 2 then [28, 29, 30] else [31]

/-- Frames by die for a Bay quota: as given, or divided equally among the dies with channels. -/
def State.quotaShare (s : State) (tier : Nat) (frames : List Nat) : List (Nat × Nat) :=
  if tier = 1 then
    if frames.length = 4 then (List.range 4).map fun m => (24 + m, frames.getD m 0)
    else (List.range 4).map fun m => (24 + m, if 0 < s.nch m then frames.headD 0 / max 1 s.memDies.length else 0)
  else [(if tier = 2 then 28 else 31, frames.headD 0)]

def cmdMemQuota (fn p tier : Nat) (frames : List Nat) (s : State) : State × Reply :=
  let l := s.quotaShare tier frames
  s.cmd [badAt 1 (decide (tier = 0 ∨ 3 < tier)), badAt 4 (!(decide (frames.length = 1) || (decide (tier = 1) && decide (frames.length = 4)))),
    badAt 8 (frames.any fun f => decide (2 ^ 32 ≤ f)), pfOnly fn,
    refuse 1 (l.any fun x => decide (x.2 < s.quotaUsed x.1 p))] fun s =>
    (s.each l fun s x => s.fset (R.TQ_QUOTA x.1 p) F.TQ_QUOTA_QUOTA x.2).told (l.map fun x => R.TQ_QUOTA x.1 p)

def cmdMemRegulate (fn p tier rate depth : Nat) (on : Bool) (s : State) : State × Reply :=
  let l := tierBlocks tier
  s.cmd [badAt 1 (decide (tier = 0 ∨ 3 < tier)), badAt 2 (decide (65535 < rate)), badAt 4 (decide (65535 < depth)), ownPart fn p] fun s =>
    (s.each l fun s d =>
      let a := R.TQ_REG d p
      ((s.fset a F.TQ_REG_RATE (rate / l.length)).fset a F.TQ_REG_DEPTH (max 2 depth)).fset a F.TQ_REG_EN (bit on)).told
      (l.map fun d => R.TQ_REG d p)

def boundBad (us : Nat) : Bool := decide (us < 2 ∨ 2000 < us)

def cmdMemBound (fn p bay cellar : Nat) (s : State) : State × Reply :=
  s.cmd [badAt 2 (boundBad bay), badAt 4 (boundBad cellar), ownPart fn p] fun s =>
    ((s.each [24, 25, 26, 27] fun s d => s.fset (R.TQ_BOUND d p) F.TQ_BOUND_US bay).fset (R.TQ_BOUND 31 p) F.TQ_BOUND_US cellar).told
      ([24, 25, 26, 27, 31].map fun d => R.TQ_BOUND d p)

/-- A command's move run to its end: the mover of its die takes moves in R317's order, and its oldest running move completes, until this one
has. Answers MV_CMD.RESULT: 0 done, 1 refused, 2 failed. -/
def State.runMove (s : State) (m : Move) : Nat → State × Nat
  | 0 => ((s.dropMove m.page).mvResult m 1, 1)
  | n + 1 =>
    if (s.moveOf m.page).isNone then
      (s, if (s.mapEnt m.page).st = .lost then 2 else if (s.mapEnt m.page).st = (if m.kind = .moveOut then m.st else .bay) then 0 else 1)
    else
      let t := s.moverStart m.die
      match t.mem.moves.find? fun x => decide (x.die = m.die) && x.running with
      | some x => (t.moveComplete x.page).runMove m n
      | none => if (t.moveOf m.page).isNone then t.runMove m n else ((t.dropMove m.page).mvResult m 1, 1)

/-- One page of MEM_MOVE; answers the result of MV_CMD.RESULT. -/
def State.movePage (s : State) (p pg tgt dest : Nat) : State × Nat :=
  match s.locate p (pg * 65536) with
  | none => (s, 1)
  | some u =>
    match s.askMove p u.home pg tgt dest false with
    | none => (s, 1)
    | some (t, true) => (t, 0)
    | some (t, false) =>
      match t.moveOf pg with
      | none => (t, 0)
      | some m => t.runMove m 4096

/-! ## What the steward itself stores (R308, R312) -/

/-- The page that holds `o` brought to where a store of the steward's can be applied: moved in, or allocated. -/
def State.resident (s : State) (p o : Nat) : State :=
  match s.locate p o with
  | none => s
  | some u =>
    if u.rgn.kind = 4 then s
    else
      match u.ent.st with
      | .absent =>
        match s.allocPage p u with
        | some t => t
        | none =>
          let t := s.evict p u.home
          match t.mem.moves.find? fun x => decide (x.part = p ∧ x.die = u.home ∧ x.kind = .moveOut) with
          | none => s
          | some m => let t := (t.runMove m 4096).1; (t.allocPage p u).getD t
      | .yard | .cellar => (s.movePage p u.page 1 0).1
      | .moveout => s.cancelOut u.page
      | .movein =>
        match s.moveOf u.page with
        | some m => if m.running then s.moveComplete u.page else (s.runMove m 4096).1
        | none => s
      | _ => s

/-- Every page that `[o, o + n)` touches. -/
def State.residentAll (s : State) (p o n : Nat) : State :=
  s.each (List.range (ceilDiv (o % 65536 + n) 65536)) fun s i => s.resident p (o / 65536 * 65536 + 65536 * i)

/-- Bytes that the steward stores in local space. -/
def State.stewPut (s : State) (p o : Nat) (l : List Byte) : State := (s.residentAll p o l.length).putLoc p o l

/-- Whole units that the steward stores, poison with them. -/
def State.stewUnits (s : State) (p o : Nat) (us : List Sheaf) : State :=
  let s := s.residentAll p o (32 * us.length)
  s.each (List.range us.length) fun s i =>
    let uo := o + 32 * i
    match s.locate p uo with
    | none => s
    | some u =>
      let x := us.getD i zeroSheaf
      if u.rgn.kind = 4 then s.putHost (u.ent.loc / 65536 * 65536 + (uo - u.page * 65536)) (sheafBytes x.bits)
      else if u.ent.st = .bay then s.putFrameUnit p uo u x
      else s

def cmdMemMove (fn p addr pages tgt pkg : Nat) (hosts : List Nat) (s : State) : State × Reply :=
  let ps := match s.rgnOf p addr with
    | some r => pageSize r.kind
    | none => 65536
  s.cmd [badAt 8 (decide (addr % ps ≠ 0 ∨ 2 ^ 48 ≤ addr)), badAt 20 (decide (tgt = 0 ∨ 3 < tgt)),
    badAt 22 (decide (4095 < pkg)), badAt 24 (decide (tgt = 3 ∧ hosts.length ≠ pages)), ownPart fn p] fun s =>
    let r : State × List Nat := (List.range pages).foldl (fun (a : State × List Nat) i =>
      let dest := if tgt = 3 then hosts.getD i 0 else pkg
      let dest := if tgt = 2 ∧ pkg ≠ 0xFFF then dest + Config.freeNat a.1.freeCtr % 2 ^ 32 * 4096 else dest
      let b := ({ a.1 with freeCtr := a.1.freeCtr + 1 }).movePage p ((addr + i * ps) / 65536) tgt dest
      (b.1, a.2 ++ [b.2])) (s, [])
    (r.1, .ok (lay (layList ((r.2.take 16364).map fun x => (1, x)))))

def pgCode : PgSt → Nat
  | .absent => 0
  | .bay => 1
  | .yard => 2
  | .cellar => 3
  | .movein => 4
  | .moveout => 5
  | .lost => 6

/-- FRAME and LOC of a map entry as they read: FRAME while the page stands in frames, LOC while it is away (R311). -/
def mapFrame (e : MapEnt) : Nat := if e.st = .bay ∨ e.st = .movein ∨ e.st = .moveout then e.frame % 2 ^ 28 else 0
def mapLoc (e : MapEnt) : Nat := if e.st = .yard ∨ e.st = .cellar then e.loc else 0

/-- MEM_QUERY (R341): the region's partition, KIND, HOME and ENC, the entry's STATE, ACC, ERR, GEN and FRAME, the region's base and size,
and the entry's LOC (log entry 23). -/
def cmdMemQuery (fn addr : Nat) (s : State) : State × Reply :=
  let p := if fn = 0 then s.partOf addr else some (fn - 1)
  let u := p.bind fun p => s.locate p addr
  s.cmd [badAt 0 (decide (2 ^ 48 ≤ addr)), (decide (fn ≠ 0) && decide (s.partOf addr ≠ p) && (s.partOf addr).isSome, .notPermitted),
    badAt 0 u.isNone] fun s =>
    match p, u with
    | some p, some u =>
      (s, .ok (lay [(1, p), (1, u.rgn.kind), (1, u.rgn.home), (1, bit u.rgn.enc), (1, pgCode u.ent.st), (1, u.ent.acc), (1, u.ent.err),
        (2, u.ent.gen), (4, mapFrame u.ent), (8, u.rgn.base), (8, u.rgn.size), (8, mapLoc u.ent)]))
    | _, _ => (s, .ok [])

/-- The frames of a partition's largest layer. -/
def State.largestLayer (s : State) (p : Nat) : Nat :=
  let l := s.weightPages p
  ((List.range (s.nlayer p)).map fun n => 32 * (l.filter fun x => decide (x.2 = n)).length).foldl max 0

def State.bayQuota (s : State) (p : Nat) : Nat := ([24, 25, 26, 27].map fun d => s.fget (R.TQ_QUOTA d p) F.TQ_QUOTA_QUOTA).foldl (· + ·) 0

/-- The steward gateway's entries of the partition's weight regions. -/
def State.weightRgns (s : State) (p : Nat) : List Nat :=
  ((List.range 32).filter fun r => s.flag (R.HST_RGN p r) F.MEM_RGN_VALID && decide (s.fget (R.HST_RGN p r) F.MEM_RGN_KIND = 1)).map (R.HST_RGN p)

/-- STREAM of the partition's weight regions. -/
def State.setStreamBits (s : State) (p : Nat) (on : Bool) : State :=
  s.each ((List.range 32).filter fun r => s.flag (R.HST_RGN p r) F.MEM_RGN_VALID && decide (s.fget (R.HST_RGN p r) F.MEM_RGN_KIND = 1)) fun s r =>
    s.each (s.rgnTables p r) fun s a => s.fset a F.MEM_RGN_STREAM (bit on)

/-- Frames of the partition's weight pages in Yard: charged to its Yard quota outside stream mode only. -/
def State.yardWeights (s : State) (p : Nat) : Nat := 32 * ((s.weightPages p).filter fun x => decide ((s.mapEnt x.1.page).st = .yard)).length

def cmdStreamSet (fn p w : Nat) (on : Bool) (s : State) : State × Reply :=
  s.cmd [badAt 1 (on && decide (w < 2 ∨ 16 < w)), pfOnly fn, refuse 1 (on && decide (s.bayQuota p < w * s.largestLayer p))] fun s =>
    let was := (s.streamOf p).isSome
    if on then
      let s := if was then s else s.quotaSub 28 p (s.yardWeights p)
      ((s.setStreamBits p true).setWindow p ⟨w, ((s.streamOf p).map (·.l0)).getD 0⟩).told (s.weightRgns p)
    else
      let s := if was then s.quotaAdd 28 p (s.yardWeights p) else s
      ({ s with mem := { s.mem with streams := spPut (fun _ => none) s.mem.streams p none } }.setStreamBits p false).told (s.weightRgns p)

/-- The tier counters of a partition at every block. -/
def tqCounters (p : Nat) : List Nat :=
  (List.range 8).flatMap fun d => [R.TQ_STALL0 (gwDie d) p, R.TQ_STALL1 (gwDie d) p, R.TQ_STALL2 (gwDie d) p, R.TQ_STALL3 (gwDie d) p]

def State.tqSum (s : State) (p : Nat) (r : Nat → Nat → Nat) (f : Fld) : Nat := s.sumFld ((List.range 8).map fun d => r (gwDie d) p) f

def cmdMemStats (fn p : Nat) (clr : Bool) (s : State) : State × Reply :=
  s.cmd [ownPart fn p] fun s =>
    let out := lay ([(8, s.tqSum p R.TQ_STALL0 F.TQ_STALL0_REFRESH), (8, s.tqSum p R.TQ_STALL0 F.TQ_STALL0_REREAD),
      (8, s.tqSum p R.TQ_STALL1 F.TQ_STALL1_YARD), (8, s.tqSum p R.TQ_STALL1 F.TQ_STALL1_YARDFAIL),
      (8, s.tqSum p R.TQ_STALL2 F.TQ_STALL2_CELLAR), (8, s.tqSum p R.TQ_STALL2 F.TQ_STALL2_QUOTA),
      (8, s.tqSum p R.TQ_STALL3 F.TQ_STALL3_REGULATOR), (8, s.tqSum p R.TQ_STALL3 F.TQ_STALL3_MISROUTE)] ++
      (if fn = 0 then (List.range 96).map fun n => (8, (s.rd (R.CH_ERR n)).toNat) else []))
    (if clr then s.each (tqCounters p) fun s a => s.wr a 0 else s, .ok out)

def cmdMemRetired (fn m : Nat) (restore : Option (List Nat)) (s : State) : State × Reply :=
  let bad := match restore with
    | some l => decide (4096 < l.length) || l.any fun f => decide (2 ^ 28 ≤ f)
    | none => false
  s.cmd [badAt 4 bad, pfOnly fn, refuse 1 (restore.isSome && s.anyRegion)] fun s =>
    match restore with
    | none =>
      let l := capped 4090 ((s.mem.retired.filter fun (x : Nat × Nat) => decide (x.1 = 24 + m)).map (·.2))
      (s, .ok (lay (layList (l.1.map fun f => (4, f)) ++ [(4, l.2)])))
    | some l =>
      let l := l.eraseDups
      let s := { s with mem := { s.mem with retired := (s.mem.retired.filter fun (x : Nat × Nat) => decide (x.1 ≠ 24 + m)) ++ (l.map fun (f : Nat) => (24 + m, f)) } }
      let s := s.each l fun s f => s.takeFrames (24 + m) f 1
      ((s.fset (R.MEM_RET m) F.MEM_RET_COUNT l.length).fset (R.MEM_RET m) F.MEM_RET_FULL (bit (decide (4096 ≤ l.length)))).told [R.MEM_RET m]

def cmdMemChannels (s : State) : State × Reply :=
  s.cmd [] fun s =>
    (s, .ok (lay (((List.range 96).map fun n => (4, (s.rd (R.CH_STAT n)).toNat)) ++ (List.range 4).map fun m => (4, (s.rd (R.MEM_CTL m)).toNat))))

end Sys2Proof.Machine
end

