-- ==== Sys2Proof/Machine/Runs.lean ====
section
/-! DEFINITION. Exchange copies and runs at the link dies (R282 to R286, R296, R301, R381), the step plan as the part reads it
(R293), and messages cut into flits (R357). -/

namespace Sys2Proof.Machine

/-! ## Messages as flits -/

/-- A flit's units with their poison. -/
def Flit.sheaves (f : Flit) : List Sheaf := (List.range f.units.length).map fun i => ⟨f.units.getD i 0, f.psn.testBit i⟩
def Flit.isLast (f : Flit) : Bool := f.aux.testBit 7

/-- The local partition of a job id. -/
def State.jobPart (s : State) (l j : Nat) : Option Nat :=
  if s.flag (R.FB_JOB l j) F.FB_JOB_VALID then some (s.fget (R.FB_JOB l j) F.FB_JOB_PART) else none

/-! ## The step plan (R293) -/

/-- The local offset of a partition's plan; 0: no plan. -/
def State.planBase (s : State) (p : Nat) : Nat := s.fget (R.STEP_PLAN p) F.STEP_PLAN_ADDR * 64 % 2 ^ 48
def State.planNum (s : State) (p o n : Nat) : Nat := s.locNum p (s.planBase p + o) n

structure PlanHdr where
  npt : Nat
  nexp : Nat
  k : Nat
  nshared : Nat
  cunits : Nat
  npkg : Nat
  ptoff : Nat
  emoff : Nat
  eqoff : Nat
  tmoff : Nat
deriving DecidableEq, Repr

/-- A plan's header, its bytes read through `num`. -/
def planHdr (num : Nat → Nat → Nat) : PlanHdr :=
  { npt := num 6 2, nexp := num 8 2, k := num 0xA 1, nshared := num 0xB 1, cunits := num 0xC 2, npkg := num 0xE 2,
    ptoff := num 0x10 4, emoff := num 0x14 4, eqoff := num 0x18 4, tmoff := num 0x1C 4 }

structure PointRec where
  point : Nat
  kind : Nat
  layer : Nat
  policy : Nat
  cap : Nat
  ngrp : Nat
  goff : Nat
  xthr : Int
  fmap : Nat
  spld : Nat
  spq : Nat
  nposp : Nat
  zeros : Bool
deriving DecidableEq, Repr

def pointRec (num : Nat → Nat → Nat) (a : Nat) : PointRec :=
  { point := num a 1, kind := num (a + 1) 1, layer := num (a + 2) 1, policy := num (a + 3) 1, cap := num (a + 4) 2,
    ngrp := num (a + 6) 2, goff := num (a + 8) 4, xthr := sext 32 (num (a + 12) 4), fmap := num (a + 16) 4,
    spld := num (a + 20) 1 % 4, spq := num (a + 20) 1 / 4 % 32, nposp := num (a + 22) 2,
    zeros := decide (num (a + 20) 1 < 128 ∧ num (a + 21) 1 = 0 ∧ num (a + 24) 8 = 0) }

structure GroupRec where
  exp : Nat
  die : Nat
  nb : Nat
  tmask : Nat
  bounds : List Nat
deriving DecidableEq, Repr

def groupRec (num : Nat → Nat → Nat) (a : Nat) : GroupRec :=
  { exp := num a 2, die := num (a + 2) 1, nb := num (a + 3) 1, tmask := num (a + 4) 8,
    bounds := (List.range (num (a + 3) 1)).map fun i => num (num (a + 12) 4 + 2 * i) 2 }

def State.planOf (s : State) (p : Nat) : PlanHdr := planHdr (s.planNum p)

/-- The `i`-th point record. -/
def State.pointNth (s : State) (p i : Nat) : PointRec := pointRec (s.planNum p) ((s.planOf p).ptoff + 32 * i)

/-- The point record of a dynamic point. -/
def State.pointOf (s : State) (p pt : Nat) : Option PointRec :=
  if s.planBase p = 0 then none
  else ((List.range (s.planOf p).npt).map (s.pointNth p)).find? fun r => decide (r.point = pt)

def State.groupsAt (s : State) (p : Nat) (r : PointRec) : List GroupRec :=
  (List.range r.ngrp).map fun i => groupRec (s.planNum p) (r.goff + 16 * i)

/-- The queue assignment of an expert as PLAN_LOAD wrote it (R302). -/
def State.expertQueue (s : State) (p e : Nat) : Nat := spGet (fun _ => 0) s.moe.queues (p * 4096 + e)

/-- The assignments of partition `p` written: word `e` of the list is expert `e`'s, and an expert that the package does not own has none. -/
def State.setExpertQueues (s : State) (p : Nat) (l : List Nat) : State :=
  let q := (List.range 4096).foldl (fun q e =>
    let v := l.getD e 0
    spPut (fun _ => 0) q (p * 4096 + e) (if v.testBit 15 then v else 0)) s.moe.queues
  { s with moe := { s.moe with queues := q } }

/-- Where an expert's run lies: link die, queue, and whether the package owns it. -/
def State.expertAt (s : State) (p e : Nat) : Nat × Nat × Bool :=
  let v := s.expertQueue p e
  (v % 4 % 3, v / 4 % 32, v.testBit 15)

/-- The package that holds an expert, by the plan. -/
def State.expertPkg (s : State) (p e : Nat) : Nat := s.planNum p ((s.planOf p).emoff + 2 * e) 2 % 4096

/-! ## Exchange units (R282) -/

structure XUnit where
  dpkg : Nat
  kind : Nat
  exp : Nat
  gate : Nat
  hpkg : Nat
  htile : Nat
  haddr : Nat
  hexpw : Nat
  hacnt : Nat
  point : Nat
  slot : Nat
deriving DecidableEq, Repr

def xunitOf (u : SheafBits) : XUnit :=
  let v := u.toNat
  { dpkg := bitsOf v 11 0, kind := bitsOf v 15 12, exp := bitsOf v 27 16, gate := bitsOf v 47 32, hpkg := bitsOf v 59 48,
    htile := bitsOf v 74 64, haddr := bitsOf v 101 80, hexpw := bitsOf v 125 104, hacnt := bitsOf v 133 128,
    point := bitsOf v 143 136, slot := bitsOf v 155 144 }

def xunitBits (x : XUnit) : SheafBits :=
  BitVec.ofNat 256 (x.dpkg % 4096 + x.kind % 16 * 2 ^ 12 + x.exp % 4096 * 2 ^ 16 + x.gate % 65536 * 2 ^ 32 +
    x.hpkg % 4096 * 2 ^ 48 + x.htile % 2048 * 2 ^ 64 + x.haddr % 2 ^ 22 * 2 ^ 80 + x.hexpw % 2 ^ 22 * 2 ^ 104 +
    x.hacnt % 64 * 2 ^ 128 + x.point % 256 * 2 ^ 136 + x.slot % 4096 * 2 ^ 144)

/-- The unit keeps to R282: a listed KIND, and no bit outside its fields. -/
def xunitOk (u : SheafBits) : Bool := decide ((xunitOf u).kind ≤ 3) && decide (xunitBits (xunitOf u) = u)

/-! ## Runs -/

def State.stepSt (s : State) (p : Nat) : StepSt := spGet (fun _ => StepSt.idle) s.moe.steps p
def State.modStep (s : State) (p : Nat) (f : StepSt → StepSt) : State :=
  { s with moe := { s.moe with steps := spPut (fun _ => StepSt.idle) s.moe.steps p (f (s.stepSt p)) } }

def State.setRuns (s : State) (l : List Run) : State := { s with moe := { s.moe with runs := l } }

/-- The copy that stands at place `i` of a segment: an expert and which of its copies, or a PAD copy. Blocks are of 16 copies,
except in a forward run. -/
def copyAt (fwd : Bool) : Nat → List (Nat × Nat) → Option (Nat × Nat)
  | _, [] => none
  | i, (e, m) :: r =>
    let w := if fwd then m else alignUp m 16
    if i < w then (if i < m then some (e, i) else none) else copyAt fwd (i - w) r

def Run.isFwd (r : Run) : Bool := match r.kind with
  | .fwd _ => true
  | _ => false

def Run.have_ (r : Run) (e : Nat) : Nat := (r.got.filter fun g => decide (g.1 = e)).length
def Run.need (r : Run) (e : Nat) : Nat := ((r.parts.find? fun x => decide (x.1 = e)).map (·.2)).getD 0

/-- Every unit of the segment has been presented. -/
def Run.finished (r : Run) (cunits : Nat) : Bool :=
  match r.total with
  | some n => r.header && decide (n * cunits ≤ r.shown)
  | none => false

/-- No further copy of the expert joins. -/
def Run.closed (r : Run) (e : Nat) : Bool := r.total.isSome && (r.padAll || decide (r.need e ≤ r.have_ e))

def State.cunits (s : State) (p : Nat) : Nat := (s.planOf p).cunits

/-- The sheaf at unit `u` of the copy at place `i` of a run: none while a real copy is missing. A PAD copy is zero-block rows and an exchange
unit of KIND PAD, whose other fields are open (log entry 16). -/
def State.runUnit (s : State) (r : Run) (cunits i u : Nat) : Option (Sheaf × State) :=
  let pad : Sheaf × State :=
    if u + 1 < cunits then (zeroSheaf, s)
    else let f := s.fresh; (⟨xunitBits { xunitOf (BitVec.ofNat 256 f.1) with kind := 0 }, false⟩, f.2)
  match copyAt r.isFwd i r.parts with
  | none => some pad
  | some (e, j) =>
    match (r.got.filter fun g => decide (g.1 = e))[j]? with
    | some g => let x := g.2.getD u ⟨.recv, false, false, false, zeroBits, 0⟩; some (⟨x.data, x.psn⟩, s)
    | none => if r.padAll then some pad else none

/-- The run at the front of a queue of a link die presents what it can while its router input has room (R284). -/
def State.runShow (s : State) (l q : Nat) : Nat → State
  | 0 => s
  | n + 1 =>
    let k := inKey (28 + l) 0 (16 + q)
    let mine (r : Run) : Bool := decide (r.ld = l ∧ r.q = q)
    match s.moe.runs.findIdx? fun r => mine r && !r.finished (s.cunits r.part) with
    | none => s
    | some i =>
      match s.moe.runs[i]? with
      | none => s
      | some r =>
        let c := s.cunits r.part
        match r.total with
        | none => s
        | some t =>
          if 32 ≤ (s.inq k).length then s
          else if ¬ r.header then
            let u : BUnit := ⟨.recv, false, true, decide (t = 0), BitVec.ofNat 256 (t * c), 28 + l⟩
            ((s.setInq k (s.inq k ++ [u])).setRuns (s.moe.runs.set i { r with header := true })).runShow l q n
          else
            match s.runUnit r c (r.shown / max 1 c) (r.shown % max 1 c) with
            | none => s
            | some (x, s) =>
              let u : BUnit := ⟨.recv, x.psn, false, decide (r.shown + 1 = t * c), x.bits, 28 + l⟩
              ((s.setInq k (s.inq k ++ [u])).setRuns (s.moe.runs.set i { r with shown := r.shown + 1 })).runShow l q n

def State.lateCopy (s : State) (p : Nat) : State := s.fadd (R.STEP_SCNT p) F.STEP_SCNT_LATECOPY 1

/-- Units of real copies that a run holds and has not presented. -/
def Run.holds (r : Run) (cunits : Nat) : Nat :=
  let real (i : Nat) : Bool := match copyAt r.isFwd i r.parts with
    | some (e, j) => decide (j < r.have_ e)
    | none => false
  let c := max 1 cunits
  let done := ((List.range (r.shown / c)).filter real).length * c + (if real (r.shown / c) then r.shown % c else 0)
  r.got.length * c - done

/-- A queue of a link die has room for one more copy of `n` units beside the units reserved in it and the copies it holds. -/
def State.runRoom (s : State) (l q n : Nat) : Bool :=
  let held := ((s.moe.runs.filter fun r => decide (r.ld = l ∧ r.q = q)).map fun r => r.holds (s.cunits r.part)).foldl (· + ·) 0
  decide (s.qUsed (4 + l) q + held + n ≤ s.fget (R.GW_QCFG (gwDie (4 + l)) q) F.GW_QCFG_QUOTA)

/-- The package that sent a DISPATCH copy: the home package of its exchange unit. -/
def copySrc (us : List BUnit) : Nat := (xunitOf ((us.getLast?.map (·.data)).getD 0)).hpkg

/-- A copy joins a run of its kind, begins the next one, or is late; none while its queue is full (R284, R289, R301). -/
def State.joinRun (s : State) (l q p point : Nat) (kind : RunKind) (e : Nat) (us : List BUnit) : Option State :=
  let same (r : Run) : Bool := decide (r.ld = l ∧ r.q = q ∧ r.part = p ∧ r.kind = kind)
  let here (r : Run) : Bool := same r && decide (r.point = point)
  let new : Run :=
    { ld := l, q := q, part := p, point := point, kind := kind, parts := [], total := none, got := [(e, us)], header := false,
      shown := 0, padAll := false, out := [] }
  let lost := (s.stepSt p).missing.contains (copySrc us)
  let room := s.runRoom l q us.length
  match s.moe.runs.findIdx? here with
  | some i =>
    match s.moe.runs[i]? with
    | none => none
    | some r =>
      if r.closed e || (if r.total.isSome then r.out.contains (copySrc us) else lost) then some (s.lateCopy p)
      else if ¬ room then none
      else some ((s.setRuns (s.moe.runs.set i { r with got := r.got ++ [(e, us)] })).runShow l q 40)
  | none =>
    if !lost && (s.moe.runs.filter same).all fun r => r.finished (s.cunits p) then
      if room then some (s.setRuns ((s.moe.runs.filter fun r => !same r) ++ [new])) else none
    else some (s.lateCopy p)

/-- A DISPATCH copy at the link die of its run: the first 16 × CAP join the expert's run, the others the spill run (R296). -/
def State.joinExpert (s : State) (l p : Nat) (x : XUnit) (us : List BUnit) : Option State :=
  let at_ := s.expertAt p x.exp
  match s.pointOf p x.point with
  | none => some (s.lateCopy p)
  | some r =>
    let have_ := ((s.moe.runs.find? fun y => decide (y.ld = l ∧ y.part = p ∧ y.point = x.point ∧ y.kind = .expert x.exp)).map
      fun y => y.have_ x.exp).getD 0
    if have_ < 16 * r.cap then s.joinRun l at_.2.1 p x.point (.expert x.exp) x.exp us
    else s.joinRun (r.spld % 3) r.spq p x.point .spill x.exp us

/-- The queue of the forward run from link die `l` toward link die `t`, where forward runs are in use (R381). -/
def State.fwdQueue (s : State) (l p t : Nat) : Option Nat :=
  let a := R.FBP_XFWD l p
  if ¬ s.flag a F.FBP_XFWD_VALID then none
  else some (if t = (l + 1) % 3 then s.fget a F.FBP_XFWD_QA else s.fget a F.FBP_XFWD_QB)

/-- A placement segment written at once through the tile's control/debug port (R380); none while a bank turns ON. -/
def State.placeNow (s : State) (g : Nat) (us : List BUnit) : Option State :=
  let old := (s.tile g).place
  let s := s.modTile g fun t => { t with place := none }
  (us.foldl (fun (o : Option State) u => o.bind fun s => s.placeTake g u) (some s)).map fun s =>
    s.modTile g fun t => { t with place := old }

/-- A copy that the die discards with a fault of its own (R283). -/
def State.copyFault (s : State) (l p : Nat) (x : SheafBits) : State :=
  s.plainRep 4 (some p) (dieIsland (28 + l)) (x.toNat % 2 ^ 64) 0

/-- The COPY message that carries a copy to another package. -/
def State.copyMsg (s : State) (l p dst : Nat) (us : List BUnit) : List Flit :=
  msgFlits (s.newMsg l 9 dst p) (us.map fun u => ⟨u.data, u.psn⟩)

/-- A whole copy of partition `p` at the exchange port of link die `l` (R283 to R286, R381). None while a placement waits, or the queue of
its run is full. -/
def State.serveCopy (s : State) (l p : Nat) (us : List BUnit) : Option State :=
  let last := (us.getLast?.map (·.data)).getD 0
  let x := xunitOf last
  let rows := us.dropLast
  if ¬ xunitOk last then some (s.copyFault l p last)
  else if x.kind = 0 then some s
  else if x.dpkg ≠ s.pkgOwn then
    match s.routeTo x.dpkg with
    | none => some s
    | some (k, _) =>
      if k / 12 ≠ l ∧ (s.fwdQueue l p (k / 12)).isSome then
        s.joinRun l ((s.fwdQueue l p (k / 12)).getD 0) p x.point (.fwd (k / 12)) 0 us
      else some (s.fabSend l (some p) (s.copyMsg l p x.dpkg us)).1
  else if x.kind = 1 then
    let at_ := s.expertAt p x.exp
    if ¬ at_.2.2 then some (s.copyFault l p last)
    else if at_.1 = l then s.joinExpert l p x us
    else
      match s.fwdQueue l p at_.1 with
      | some q => s.joinRun l q p x.point (.fwd at_.1) 0 us
      | none => s.joinExpert at_.1 p x us
  else if 1536 ≤ x.htile ∨ s.tilePart x.htile ≠ some p then some (s.copyFault l p last)
  else
    let via := 28 + l
    let n := if x.kind = 2 then rows.length else 0
    let hdr : BUnit := ⟨.place, false, true, decide (n = 0),
      BitVec.ofNat 256 (n + x.haddr * 2 ^ 32 + x.hacnt * 2 ^ 64 + 2 * 2 ^ 72 + x.hexpw * 2 ^ 80), via⟩
    s.placeNow x.htile (hdr :: (List.range n).map fun i =>
      { rows.getD i ⟨.place, false, false, false, zeroBits, via⟩ with cls := .place, last := decide (i + 1 = n), via := via })

/-- The partition that an exchange port serves: its output's owner. -/
def State.portPart (s : State) (l port : Nat) : Option Nat :=
  let a := R.BNET_OCFG (28 + l) 0 (14 + port)
  if s.flag a F.BNET_OCFG_ASSIGNED then some (s.fget a F.BNET_OCFG_PART) else none

/-- EXCHANGE_COPY: the copy that stands whole at an exchange port is served; a forward run's header is dropped. -/
def State.exchangeCopy (s : State) (l port : Nat) : State :=
  let g := 4 + l
  match s.portPart l port with
  | none => s
  | some p =>
    let q := (s.ingress g (2 + port)).dropWhile fun u => u.2.hdr
    let c := s.cunits p
    if c = 0 ∨ q.length < c then s
    else
      match (s.setIngress g (2 + port) (q.drop c)).serveCopy l p ((q.take c).map (·.2)) with
      | some t => t
      | none => s

/-- COPY_TIMEOUT: missing real copies of the partition's counted runs are replaced by PAD copies (R301). -/
def State.copyTimeout (s : State) (p : Nat) : State :=
  let s := s.setRuns (s.moe.runs.map fun r => if r.part = p ∧ r.total.isSome then { r with padAll := true } else r)
  s.each [0, 1, 2] fun s l => s.each (List.range 32) fun s q => s.runShow l q 40

end Sys2Proof.Machine
end

