-- ==== Sys2Proof/Machine/SyncCmd.lean ====
section
/-! DEFINITION. The register writes and commands of synchronisation (R178 to R209): semaphores and their owners, aliases, arrival
counters, node channels, the fabric tree, and the commands of R205. -/

namespace Sys2Proof.Machine

/-! ## Semaphores and aliases (R178 to R180, R206) -/

def State.owned (s : State) (d i : Nat) : Bool := s.flag (R.SYN_SEM d i) F.SYN_SEM_OWNED
def State.ownerOf (s : State) (d i : Nat) : Nat := s.fget (R.SYN_SEM d i) F.SYN_SEM_OWNER

/-- A test is posted on semaphore `i` of die `d`. -/
def State.semPosted (s : State) (d i : Nat) : Bool :=
  (List.range 64).any fun t => engsAll.any fun e =>
    match (s.eng (d * 64 + t) e).wf with
    | some w => (s.eng (d * 64 + t) e).isPosted && decide (s.aliasType (d * 64 + t) w.alias_ = 1) && decide (s.aliasIdx (d * 64 + t) w.alias_ = i)
    | none => false

def State.clearAlias (s : State) (g a : Nat) : State := s.wr (R.TIL_ALIAS g a) 0

/-- A semaphore's count written over the control space: only a change wakes (R185). -/
def State.semCountTo (s : State) (d i c : Nat) : State :=
  let t := s.fset (R.SYN_SEM d i) F.SYN_SEM_COUNT c
  if s.semCount d i = c then t else t.retestGroup d (i / 32)

/-- SYN_SEM_i written (R180, R183, R185): ownership first, then the count and the wake that its change brings. -/
def State.semWrite (s : State) (d i v : Nat) : State :=
  let a := R.SYN_SEM d i
  let owner := bitsOf v 21 16
  let own := v.testBit 24
  let was := s.ownerOf d i
  let change := s.owned d i && (!own || decide (owner ≠ was))
  let s :=
    if s.semPosted d i ∧ change then s
    else
      let s := if change then
          s.each (List.range 63) fun s k =>
            if s.aliasType (d * 64 + was) k = 1 ∧ s.aliasIdx (d * 64 + was) k = i then s.clearAlias (d * 64 + was) k else s
        else s
      (s.fset a F.SYN_SEM_OWNER owner).fset a F.SYN_SEM_OWNED (bit own)
  s.semCountTo d i (bitsOf v 15 0)

/-- The alias entry `typ`, `idx` is one that tile `g` may take (R177, R179, R206). -/
def State.aliasOk (s : State) (g a typ idx : Nat) : Bool :=
  match typ with
  | 0 => true
  | 1 => s.owned (g / 64) idx && decide (s.ownerOf (g / 64) idx = g % 64)
  | 2 => decide (idx < 64)
  | _ =>
    decide (idx < 64) &&
      ((List.range 63).all fun b => decide (b = a) || !(decide (s.aliasType g b = 3) && decide (s.aliasIdx g b = idx))) &&
      decide (s.tilePart g = some (s.fget (R.SYN_CLN (g / 64) (g % 64 / 8) idx) F.SYN_CLN_PART))

/-- TIL_ALIAS_a written (R206). -/
def State.aliasWrite (s : State) (g a v : Nat) : State :=
  let typ := bitsOf v 13 12
  let idx := bitsOf v 10 0
  if ¬ s.stopped g ∨ ¬ s.aliasOk g a typ idx then s.fset (R.TIL_SYNSTAT g) F.TIL_SYNSTAT_AREF 1
  else
    let r := R.TIL_ALIAS g a
    ((s.fset r F.TIL_ALIAS_INDEX idx).fset r F.TIL_ALIAS_TYPE typ).fset r F.TIL_ALIAS_RELCNT (if typ = 3 then bitsOf v 31 16 else 0)

/-- TIL_ARC_n written (R207): a change of its count wakes (R185). -/
def State.arcWrite (s : State) (g n v : Nat) : State :=
  let a := R.TIL_ARC g n
  let was := s.arcCount g n
  let s := s.fset a F.TIL_ARC_COUNT (bitsOf v 15 0)
  let s := s.fset a F.TIL_ARC_PART (bitsOf v 31 16)
  let s := s.fset a F.TIL_ARC_QUANT (max 1 (bitsOf v 47 32))
  let s := s.fset a F.TIL_ARC_MODE (bitsOf v 48 48)
  let s := if v.testBit 49 then s.fset a F.TIL_ARC_EXPIRED 0 else s
  if was = bitsOf v 15 0 then s else s.retestTile g 2 n

/-- SYN_GRP_k written: ignored while any semaphore of the group is owned, if it would change the assignment. -/
def State.grpWrite (s : State) (d k v : Nat) : State :=
  let a := R.SYN_GRP d k
  if (List.range 32).any fun j => s.owned d (32 * k + j) then s
  else (s.fset a F.SYN_GRP_PART (bitsOf v 3 0)).fset a F.SYN_GRP_ASSIGNED (bitsOf v 8 8)

/-! ## Node channels (R195, R200, R209) -/

/-- A node's channel shows ARRIVED, PENDING or UP (R203, R209). -/
def State.nodeBusy (s : State) (n : BNode) (ch : Nat) : Bool :=
  match n with
  | .cluster d c =>
    let a := R.SYN_CLN d c ch
    s.flag a F.SYN_CLN_ARRIVED || s.flag a F.SYN_CLN_PENDING || s.flag a F.SYN_CLN_UP
  | .die d => s.flag (R.SYN_DIE d ch) F.SYN_DIE_ARRIVED || s.flag (R.SYN_DIE d ch) F.SYN_DIE_UP
  | .pkg => s.flag (R.PKN_ARR ch) F.PKN_ARR_ARRIVED || s.flag (R.PKN_CFG ch) F.PKN_CFG_UP
  | .fab => s.flag (R.FBN_ARR 0 ch) F.FBN_ARR_LINKS || s.flag (R.FBN_ARR 0 ch) F.FBN_ARR_SELF || s.flag (R.FBN_CFG 0 ch) F.FBN_CFG_UP

/-- The step controller's arrival (R200). -/
def State.sarr (s : State) (ch : Nat) : State :=
  let a := R.PKN_CFG ch
  if s.flag a F.PKN_CFG_EN ∧ s.flag a F.PKN_CFG_SCHILD then (s.fset a F.PKN_CFG_SARR 1).pkgComplete ch
  else s.barReport (s.fget a F.PKN_CFG_PART) 31 ch

/-- A node channel's register written: the CFG register at the package and fabric nodes. EXPECT, TOP and PART are ignored while the
channel shows an arrival (R209). -/
def State.nodeWrite (s : State) (n : BNode) (ch v : Nat) : State :=
  let busy := s.nodeBusy n ch
  match n with
  | .cluster d c =>
    let a := R.SYN_CLN d c ch
    let s := if busy then s else
      ((s.fset a F.SYN_CLN_EXPECT (bitsOf v 7 0)).fset a F.SYN_CLN_TOP (bitsOf v 24 24)).fset a F.SYN_CLN_PART (bitsOf v 35 32)
    s.fset a F.SYN_CLN_EN (bitsOf v 25 25)
  | .die d =>
    let a := R.SYN_DIE d ch
    let s := if busy then s else
      ((s.fset a F.SYN_DIE_EXPECT (bitsOf v 7 0)).fset a F.SYN_DIE_TOP (bitsOf v 24 24)).fset a F.SYN_DIE_PART (bitsOf v 35 32)
    s.fset a F.SYN_DIE_EN (bitsOf v 25 25)
  | .pkg =>
    let a := R.PKN_CFG ch
    let s := if busy then s else
      ((s.fset a F.PKN_CFG_EXPECT (bitsOf v 23 0)).fset a F.PKN_CFG_TOP (bitsOf v 24 24)).fset a F.PKN_CFG_PART (bitsOf v 35 32)
    let s := (s.fset a F.PKN_CFG_EN (bitsOf v 25 25)).fset a F.PKN_CFG_SCHILD (bitsOf v 27 27)
    if v.testBit 28 then s.sarr ch else s
  | .fab =>
    let a := R.FBN_CFG 0 ch
    let s := if busy then s else (s.fset a F.FBN_CFG_ROOT (bitsOf v 12 12)).fset a F.FBN_CFG_PART (bitsOf v 19 16)
    ((s.fset a F.FBN_CFG_PARENT (bitsOf v 11 0)).fset a F.FBN_CFG_PLINK (bitsOf v 37 32)).fset a F.FBN_CFG_EN (bitsOf v 13 13)

/-- FBN_KIDS_ch written. -/
def State.kidsWrite (s : State) (ch v : Nat) : State :=
  if s.nodeBusy .fab ch then s
  else (s.fset (R.FBN_KIDS 0 ch) F.FBN_KIDS_LINKS (bitsOf v 35 0)).fset (R.FBN_KIDS 0 ch) F.FBN_KIDS_SELF (bitsOf v 36 36)

/-- A release that a node may now make: it waits for its parent's, or it is the top and complete. -/
def State.releasable (s : State) (n : BNode) (ch : Nat) : Bool :=
  match n with
  | .cluster d c => s.flag (R.SYN_CLN d c ch) F.SYN_CLN_UP || (s.flag (R.SYN_CLN d c ch) F.SYN_CLN_TOP && s.clnFull d c ch)
  | .die d => s.flag (R.SYN_DIE d ch) F.SYN_DIE_UP || (s.flag (R.SYN_DIE d ch) F.SYN_DIE_TOP && s.dieFull d ch)
  | .pkg => s.flag (R.PKN_CFG ch) F.PKN_CFG_UP || (s.flag (R.PKN_CFG ch) F.PKN_CFG_TOP && s.pkgFull ch)
  | .fab => s.flag (R.FBN_CFG 0 ch) F.FBN_CFG_UP || (s.flag (R.FBN_CFG 0 ch) F.FBN_CFG_ROOT && s.fabFull ch)

/-! ## The fabric tree (R205, R372) -/

/-- The parent of package `n` in a tree rooted at `root`: the root where its first hop is direct, else the relay of the default route,
or the lowest package that links both where that relay is gone. -/
def treeParent (live : List Nat) (root n : Nat) : Option Nat :=
  if n = root then none
  else
    match firstHop root n with
    | none => none
    | some h =>
      if h = n then some root
      else if live.contains h then some h
      else live.find? fun r => (directLink root r).isSome && (directLink r n).isSome

/-- The own fabric node of a channel set up for the slice (R205). -/
def State.fabTree (s : State) (ch p : Nat) : State :=
  let own := s.pkgOwn
  let live := if s.slice.contains own then s.slice else own :: s.slice
  let root := live.foldl min own
  let kids := (live.filter fun n => decide (treeParent live root n = some own)).filterMap fun n => directLink own n
  let mask := (kids.map fun k => 2 ^ k).foldl (· + ·) 0
  let a := R.FBN_CFG 0 ch
  let s := (s.fset (R.FBN_KIDS 0 ch) F.FBN_KIDS_LINKS mask).fset (R.FBN_KIDS 0 ch) F.FBN_KIDS_SELF 1
  let s := (s.fset a F.FBN_CFG_ROOT (bit (decide (root = own)))).fset a F.FBN_CFG_EN 1
  let s := s.fset a F.FBN_CFG_PART p
  match treeParent live root own with
  | some r => (s.fset a F.FBN_CFG_PARENT r).fset a F.FBN_CFG_PLINK ((directLink own r).getD 0)
  | none => (s.fset a F.FBN_CFG_PARENT 0).fset a F.FBN_CFG_PLINK 0

/-! ## Commands (R205) -/

def State.grpPart (s : State) (d k : Nat) : Option Nat :=
  if s.flag (R.SYN_GRP d k) F.SYN_GRP_ASSIGNED then some (s.fget (R.SYN_GRP d k) F.SYN_GRP_PART) else none
def State.groupsOf (s : State) (d p : Nat) : List Nat := (List.range 64).filter fun k => decide (s.grpPart d k = some p)
def State.freeGroups (s : State) (d : Nat) : List Nat := (List.range 64).filter fun k => decide (s.grpPart d k = none)
def State.unowned (s : State) (d k : Nat) : Bool := !((List.range 32).any fun j => s.owned d (32 * k + j))

/-- The POOL semaphore that SYNC_MAP takes: the one named, or the lowest free one of the partition's groups. -/
def State.pickSem (s : State) (d p idx : Nat) : Option Nat :=
  if idx = 0xFFFF then
    (List.range 2048).find? fun i => decide (s.grpPart d (i / 32) = some p) && !s.owned d i
  else some idx

def cmdSyncMap (fn p g a typ idx count quant mode : Nat) (s : State) : State × Reply :=
  let d := g / 64
  let i := if typ = 1 then s.pickSem d p idx else some idx
  let semOk : Bool := decide (typ ≠ 1) || (match i with
    | some i => decide (s.grpPart d (i / 32) = some p) && (!s.owned d i || decide (s.ownerOf d i = g % 64))
    | none => false)
  let own (s : State) : State := match typ, i with
    | 1, some i => (s.fset (R.SYN_SEM d i) F.SYN_SEM_OWNER (g % 64)).fset (R.SYN_SEM d i) F.SYN_SEM_OWNED 1
    | _, _ => s
  s.cmd [badAt 2 (decide (1536 ≤ g)), badAt 4 (decide (62 < a)), badAt 5 (decide (3 < typ)),
    badAt 6 (decide (65535 < idx ∨ (2047 < idx ∧ ¬ (typ = 1 ∧ idx = 0xFFFF)))), badAt 8 (decide (65535 < count)),
    badAt 10 (decide (65535 < quant)), badAt 12 (decide (1 < mode)),
    ownPart fn p, s.ownTile fn g, refuse 1 (decide (s.tilePart g ≠ some p)), refuse 2 (!s.quiet g),
    refuse 3 (decide (s.fget (R.TIL_CTL g) F.TIL_CTL_RUN ≠ 0)),
    refuse 4 (!(semOk && (own s).aliasOk g a typ (i.getD 0)))] fun s =>
    let i := i.getD 0
    let s := (own s).aliasWrite g a (i + typ * 2 ^ 12 + (if typ = 3 then count * 2 ^ 16 else 0))
    let s := match typ with
      | 1 => s.semCountTo d i count
      | 2 => s.arcWrite g i (count + s.fget (R.TIL_ARC g i) F.TIL_ARC_PART * 2 ^ 16 + quant * 2 ^ 32 + mode * 2 ^ 48)
      | _ => s
    (s, .ok (lay [(2, i)]))

/-- Every node of the package, its fabric node last. -/
def allNodes : List BNode :=
  ((List.finRange 24).flatMap fun d => BNode.die d :: (List.finRange 8).map fun c => BNode.cluster d c) ++ [.pkg, .fab]

def State.nodePart (s : State) (n : BNode) (ch : Nat) : Nat :=
  match n with
  | .cluster d c => s.fget (R.SYN_CLN d c ch) F.SYN_CLN_PART
  | .die d => s.fget (R.SYN_DIE d ch) F.SYN_DIE_PART
  | .pkg => s.fget (R.PKN_CFG ch) F.PKN_CFG_PART
  | .fab => s.fget (R.FBN_CFG 0 ch) F.FBN_CFG_PART

/-- EXPECT, TOP and EN of one node for a tile set and a scope (0 cluster, 1 die, 2 package, 3 appliance). -/
def State.nodeSet (s : State) (n : BNode) (ch p scope : Nat) (schild : Bool) (l : List Nat) : State :=
  let sum (xs : List Nat) : Nat := (xs.eraseDups.map fun x => 2 ^ x).foldl (· + ·) 0
  match n with
  | .cluster d c =>
    let a := R.SYN_CLN d c ch
    let ex := sum ((l.filter fun g => decide (g / 64 = d.val ∧ g % 64 / 8 = c.val)).map fun g => g % 8)
    ((s.fset a F.SYN_CLN_EXPECT ex).fset a F.SYN_CLN_TOP (bit (decide (ex ≠ 0 ∧ scope = 0)))).fset a F.SYN_CLN_EN (bit (decide (ex ≠ 0)))
  | .die d =>
    let a := R.SYN_DIE d ch
    let ex := if scope = 0 then 0 else sum ((l.filter fun g => decide (g / 64 = d.val)).map fun g => g % 64 / 8)
    ((s.fset a F.SYN_DIE_EXPECT ex).fset a F.SYN_DIE_TOP (bit (decide (ex ≠ 0 ∧ scope = 1)))).fset a F.SYN_DIE_EN (bit (decide (ex ≠ 0)))
  | .pkg =>
    let a := R.PKN_CFG ch
    let ex := if scope < 2 then 0 else sum (l.map fun g => g / 64)
    let s := ((s.fset a F.PKN_CFG_EXPECT ex).fset a F.PKN_CFG_TOP (bit (decide (scope = 2)))).fset a F.PKN_CFG_EN (bit (decide (2 ≤ scope)))
    if 2 ≤ scope then s.fset a F.PKN_CFG_SCHILD (bit schild) else s
  | .fab =>
    if scope = 3 then s.fabTree ch p
    else
      let s := (s.fset (R.FBN_KIDS 0 ch) F.FBN_KIDS_LINKS 0).fset (R.FBN_KIDS 0 ch) F.FBN_KIDS_SELF 0
      (s.fset (R.FBN_CFG 0 ch) F.FBN_CFG_ROOT 0).fset (R.FBN_CFG 0 ch) F.FBN_CFG_EN 0

/-- The configuration registers of a node's channel. -/
def nodeRegs (n : BNode) (ch : Nat) : List Nat :=
  match n with
  | .cluster d c => [R.SYN_CLN d c ch]
  | .die d => [R.SYN_DIE d ch]
  | .pkg => [R.PKN_CFG ch]
  | .fab => [R.FBN_CFG 0 ch, R.FBN_KIDS 0 ch]

def cmdSyncChannel (fn p ch : Nat) (ts : TileSet) (scope : Nat) (schild : Bool) (s : State) : State × Reply :=
  s.cmd ([badAt 1 (decide (63 < ch)), badAt (2 + tileSetLen 2 ts) (decide (3 < scope))] ++ s.tileChecks fn p 2 ts ++
    [refuse 1 (allNodes.any fun n => decide (s.nodePart n ch ≠ p)), refuse 2 (allNodes.any fun n => s.nodeBusy n ch),
     refuse 3 (schild && decide (scope < 2))]) fun s =>
    let l := s.tilesIn p ts
    (s.each allNodes fun s n => s.nodeSet n ch p scope schild l).told (allNodes.flatMap fun n => nodeRegs n ch)

def cmdSyncTimeout (fn p : Nat) (ts : TileSet) (j cycles : Nat) (s : State) : State × Reply :=
  s.cmd (s.tileChecks fn p 1 ts ++ [badAt (1 + tileSetLen 1 ts) (decide (j = 0 ∨ 3 < j))]) fun s =>
    (s.each (s.tilesIn p ts) fun s g => s.fset (R.TIL_TMO g (j - 1)) F.TIL_TMO_CYCLES cycles).told ((s.tilesIn p ts).map fun g => R.TIL_TMO g (j - 1))

/-- An arrival counter rearmed: COUNT set, PART and EXPIRED cleared (R205). -/
def State.rearm (s : State) (g n count : Nat) : State :=
  let a := R.TIL_ARC g n
  let t := ((s.fset a F.TIL_ARC_COUNT count).fset a F.TIL_ARC_PART 0).fset a F.TIL_ARC_EXPIRED 0
  if s.arcCount g n = count then t else t.retestTile g 2 n

def cmdSyncRearm (fn p g n count : Nat) (s : State) : State × Reply :=
  s.cmd (s.tileChecks fn p 2 (.one g) ++ [badAt 4 (decide (63 < n)), badAt 6 (decide (65535 < count))]) fun s => (s.rearm g n count).told [R.TIL_ARC g n]

/-- As many entries, up to `n`, as lie below byte `room` of a result when the first stands at byte `o` (R440). -/
def fitEntries (room : Nat) : Nat → Nat → List (List (Nat × Nat)) → List (List (Nat × Nat))
  | _, _, [] => []
  | 0, _, _ => []
  | n + 1, o, x :: r =>
    let e := o + (layFrom o x).length
    if e ≤ room then x :: fitEntries room n e r else []

def cmdSyncStatus (fn p : Nat) (clr : Bool) (s : State) : State × Reply :=
  s.cmd [ownPart fn p] fun s =>
    let l := s.tilesOf p
    let es := (l.filter fun g => decide (s.posted g ≠ 0)).map fun g =>
      (2, g) :: (1, s.posted g) :: (List.range 63).map fun a => (2, if s.aliasType g a = 0 then 0 else s.aliasCount g a)
    let c := fitEntries 16320 256 4 es
    let out := lay ((4, c.length) :: c.flatten ++ [(4, es.length - c.length)] ++
      s.tileSums l [(R.TIL_SYNCNT0, F.TIL_SYNCNT0_CLOSECALL), (R.TIL_SYNCNT0, F.TIL_SYNCNT0_STALE), (R.TIL_SYNCNT1, F.TIL_SYNCNT1_TMOFIRED),
        (R.TIL_SYNCNT1, F.TIL_SYNCNT1_SPURIOUS)])
    (if clr then s.each l fun s g => s.clearRegs (R.TIL_SYNCNT0 g) 16 else s, .ok out)

/-- The wait timer of an engine reaches zero (R188): a wait granted after it was posted, whose grant is still on its way or not yet used,
completes with CLOSECALL. -/
def State.timerExpiry (s : State) (g : Nat) (e : Eng) : State :=
  let x := s.eng g e
  match x.wf, x.timer, x.wait with
  | some _, some _, .inBatch => s.modEng g e fun x => { x with timer := some 0 }
  | some w, some _, .posted =>
    if s.aliasType g w.alias_ = 1 then
      (s.modEng g e fun x => { x with timer := some 0, wait := .finaling }).modTile g fun t =>
        { t with batch := t.batch ++ [.test e w.alias_ w.thr w.consume true] }
    else (s.modEng g e fun x => { x with timer := some 0 }).finalTest g e
  | some _, some _, .granted => (s.modEng g e fun x => { x with timer := none }).tilCnt g (R.TIL_SYNCNT0 g) F.TIL_SYNCNT0_CLOSECALL 1
  | _, _, _ => s

end Sys2Proof.Machine
end

