-- ==== Sys2Proof/Machine/Net.lean ====
section
/-! DEFINITION. The bulk network (R210 to R226): ports and bridges, route entries, gangs and turns, router faults, START,
table and quota writes, and the mailbox commands of R236. -/

namespace Sys2Proof.Machine

/-! ## Bridges (R14, R211) -/

/-- The four edges of a compute die. -/
inductive Edge where
  | n | s | w | e
deriving DecidableEq, Repr

/-- The die beyond an edge of CD `d`, with the number of modules between them. -/
def edgePartner (d : Nat) : Edge → Nat × Nat
  | .n => if 6 ≤ d then (d - 6, 4) else (28 + d / 3, 3)
  | .s => if d < 18 then (d + 6, 4) else if d < 21 then (30, 3) else (31, 1)
  | .w => if d % 6 ≠ 0 then (d - 1, 4) else (24 + d / 12, 6)
  | .e => if d % 6 ≠ 5 then (d + 1, 4) else (26 + d / 12, 6)

/-- The router and port of CD `d` that module `k` of an edge attaches to. -/
def edgePort (d : Nat) (x : Edge) (k : Nat) : Nat × Nat :=
  let six := decide ((edgePartner d x).2 = 6)
  let side (n s : Nat) : Nat × Nat :=
    if six then (if k < 3 then (n, 13 + k) else (s, 10 + k)) else (if k < 2 then (n, 13 + k) else (s, 11 + k))
  match x with
  | .n => (k, 12)
  | .s => (4 + k, 12)
  | .w => side 0 4
  | .e => side 3 7

def edgeBack : Edge → Edge
  | .n => .s
  | .s => .n
  | .w => .e
  | .e => .w

/-- The position of CD `d` among the compute partners of the die beyond an edge: the lower-numbered comes first. -/
def partnerPos (d : Nat) : Edge → Nat
  | .n | .s => d % 3
  | .w | .e => d / 6 % 2

/-- The edge and module that a bridge port of CD `d` serves. -/
def portModule (d r port : Nat) : Option (Edge × Nat) :=
  [Edge.n, .s, .w, .e].findSome? fun x =>
    ((List.range (edgePartner d x).2).find? fun k => decide (edgePort d x k = (r, port))).map fun k => (x, k)

/-- The compute die, edge and module behind a bridge port of a memory, link or steward die. -/
def sideModule (d port : Nat) : Option (Nat × Edge × Nat) :=
  ((List.range 24).flatMap fun c => [Edge.n, .s, .w, .e].flatMap fun x =>
    (List.range (edgePartner c x).2).map fun k => (c, x, k)).find? fun m =>
      decide ((edgePartner m.1 m.2.1).1 = d) && decide (partnerPos m.1 m.2.1 * (edgePartner m.1 m.2.1).2 + m.2.2 = port)

/-- A bridge port: a die, a router, a port number. -/
structure BPort where
  die : Nat
  router : Nat
  port : Nat
deriving DecidableEq, Repr

/-- The far end of a bridge port. -/
def farEnd (b : BPort) : Option BPort :=
  if b.die < 24 then
    match portModule b.die b.router b.port with
    | none => none
    | some (x, k) =>
      let q := edgePartner b.die x
      if q.1 < 24 then
        let y := edgePort q.1 (edgeBack x) k
        some ⟨q.1, y.1, y.2⟩
      else some ⟨q.1, 0, partnerPos b.die x * q.2 + k⟩
  else if b.router = 0 then
    (sideModule b.die b.port).map fun m => ⟨m.1, (edgePort m.1 m.2.1 m.2.2).1, (edgePort m.1 m.2.1 m.2.2).2⟩
  else none

/-- Bridge modules are numbered as log entry 13 says: the row neighbours of the compute grid, its column neighbours, the memory
dies, the link dies, the steward die. Answers the module's end on its lower-numbered compute die. -/
def moduleEnd (m : Nat) : BPort :=
  let cd (d : Nat) (x : Edge) (k : Nat) : BPort := ⟨d, (edgePort d x k).1, (edgePort d x k).2⟩
  if m < 80 then cd (m / 4 / 5 * 6 + m / 4 % 5) .e (m % 4)
  else if m < 152 then cd ((m - 80) / 4) .s (m % 4)
  else
    let side := if m < 200 then (24 + (m - 152) / 12, (m - 152) % 12)
      else if m < 227 then (28 + (m - 200) / 9, (m - 200) % 9)
      else (31, m - 227)
    (farEnd ⟨side.1, 0, side.2⟩).getD ⟨side.1, 0, side.2⟩

/-- The number of the module at a bridge port. -/
def moduleAt (b : BPort) : Option Nat :=
  (List.range 230).find? fun m => decide (moduleEnd m = b) || decide (farEnd (moduleEnd m) = some b)

def State.moduleIn (s : State) (m : Nat) : Bool := !spGet (fun _ => false) s.net.moduleOut m

/-! ## Crossings between islands (R26 to R28) -/

def State.islandOn (s : State) (i : Nat) : Bool := s.flag (R.CLK_ISL i) F.CLK_ISL_ON

/-- A request refused by the crossing into an island that is off, counted at the sender's die. -/
def State.offRefused (s : State) (d : Nat) : State :=
  { s with net := { s.net with refusedOff := spPut (fun _ => 0) s.net.refusedOff d (spGet (fun _ => 0) s.net.refusedOff d + 1) } }

/-! ## Paths of the control and sync networks (R233, R234) -/

/-- The compute dies bridged to a memory, link or steward die, in ascending order. -/
def doorsOf (d : Nat) : List Nat := (List.range 24).filter fun c => [Edge.n, .s, .w, .e].any fun x => decide ((edgePartner c x).1 = d)

/-- The next compute die from `a` to another, `b`: along the row first, then the column. -/
def gridNext (a b : Nat) : Nat :=
  if a % 6 < b % 6 then a + 1 else if b % 6 < a % 6 then a - 1 else if a < b then a + 6 else a - 6

def gridDist (a b : Nat) : Nat := (max (a % 6) (b % 6) - min (a % 6) (b % 6)) + (max (a / 6) (b / 6) - min (a / 6) (b / 6))

/-- The dies from `a` to `b` over the grid, both included, in at most `n` steps. -/
def gridPath (a b : Nat) : Nat → List Nat
  | 0 => [a]
  | n + 1 => if a = b then [a] else a :: gridPath (gridNext a b) b n

/-- The die that a control packet at die `a` enters next on its way to another, `dst` (R233). -/
def ctlNext (a dst : Nat) : Nat :=
  if 24 ≤ a then (doorsOf a).headD 0
  else
    let t := if dst < 24 then dst else (doorsOf dst).headD 0
    if a = t then dst else gridNext a t

/-- The bridges that a sync message between two dies crosses, each as the die it leaves and the die it enters (R234). -/
def syncEdges (src dst : Nat) : List (Nat × Nat) :=
  if src = dst then []
  else
    let ends (d : Nat) : List Nat := if d < 24 then [d] else doorsOf d
    let pairs := (ends src).flatMap fun a => (ends dst).map fun b => (a, b)
    let best := pairs.foldl (fun (m : Nat × Nat) x => if gridDist x.1 x.2 < gridDist m.1 m.2 then x else m) (pairs.headD (0, 0))
    let mid := gridPath best.1 best.2 16
    let l := (if src < 24 then [] else [src]) ++ mid ++ (if dst < 24 then [] else [dst])
    l.zip (l.drop 1)

/-! ## Lanes of a bridge (R16, R17) -/

/-- The modules of the bridge between two dies, in ascending number (log entry 13). -/
def bridgeModules (a b : Nat) : List Nat :=
  let lo := min a b
  let hi := max a b
  if hi < 24 then (List.range 4).map fun k => (if hi = lo + 1 then 4 * (lo / 6 * 5 + lo % 6) else 80 + 4 * lo) + k
  else if hi < 28 then (List.range 6).map fun k => 152 + 12 * (hi - 24) + 6 * (lo / 6 % 2) + k
  else if hi < 31 then (List.range 3).map fun k => 200 + 9 * (hi - 28) + 3 * (lo % 3) + k
  else [227 + lo % 3]

/-- The module that carries the CTRL and SYNC lanes of a bridge: its lowest-numbered one in service, none where every module is out
(DESIGN CHOICE, log entry 154). -/
def State.laneModule (s : State) (a b : Nat) : Option Nat := (bridgeModules a b).find? s.moduleIn

def slotKey (m a : Nat) : Nat := m * 32 + a
/-- BULK slots of die `a`'s transmitter of module `m` since a CTRL or SYNC slot, counted up to 15. -/
def State.bulkSlots (s : State) (m a : Nat) : Nat := spGet (fun _ => 0) s.net.slots (slotKey m a)
def State.setSlots (s : State) (m a n : Nat) : State := { s with net := { s.net with slots := spPut (fun _ => 0) s.net.slots (slotKey m a) n } }

/-! ## Channels of the control network (R231) -/

/-- The virtual channel of a packet type: 0 RSP, 1 RPT, 2 REQ, in the order of precedence. -/
def ctlChan (t : Nat) : Nat := if 4 ≤ t ∧ t ≤ 6 then 0 else if 7 ≤ t ∧ t ≤ 9 then 1 else 2

/-- The packets of a channel that a die's router holds. -/
def State.ctlHeld (s : State) (d c : Nat) : List CtlPkt :=
  (s.net.ctl.filter fun e => decide (e.hop = some d ∧ ctlChan e.pkt.type = c)).map (·.pkt)

/-- A credit for a channel of a die's router: a hop holds 8 packets of each. -/
def State.ctlCredit (s : State) (d c : Nat) : Bool := decide ((s.ctlHeld d c).length < 8)

/-- The oldest packet of a channel at die `a` that leaves for die `b`. -/
def State.ctlFront (s : State) (a b c : Nat) : Option CtlPkt :=
  (s.ctlHeld a c).find? fun x => decide (x.dst ≠ a ∧ ctlNext a x.dst = b)

/-- The channel at die `a` that goes next over the bridge to die `b`: the first in precedence with a packet and a credit. -/
def State.ctlTurn (s : State) (a b : Nat) : Option Nat :=
  [0, 1, 2].find? fun c => (s.ctlFront a b c).isSome && s.ctlCredit b c

/-- A sync message waits at die `a` to cross to die `b`, and no bridge of its way is out of service. -/
def State.syncWaits (s : State) (a b : Nat) : Bool :=
  s.net.sync.any fun m => decide (m.src = a) &&
    (let l := syncEdges m.src m.dst
     decide (l.head? = some (a, b)) && l.all fun e => (s.laneModule e.1 e.2).isSome)

/-! ## Ports that exist (R210, R545) -/

def bridgeCount (d : Nat) : Nat := if d < 28 then 12 else if d < 31 then 9 else 3

def outOk (d r o : Nat) : Bool :=
  if d < 24 then
    decide (r < 8) &&
      (if o < 8 then true
       else if o = 8 then decide (4 ≤ r)
       else if o = 9 then decide (r % 4 ≠ 3)
       else if o = 10 then decide (r < 4)
       else if o = 11 then decide (r % 4 ≠ 0)
       else if o < 16 then (portModule d r o).isSome
       else decide (o = 16 ∧ r = 0))
  else decide (r = 0) && (decide (o < bridgeCount d) || (decide (12 ≤ o) && decide (o < (if d = 31 then 13 else 16))))

def inOk (d r i : Nat) : Bool :=
  if d < 24 then
    decide (r < 8) &&
      (if i < 32 then decide (i % 4 ≠ 3)
       else if i < 36 then outOk d r (i - 24)
       else if i < 40 then outOk d r (i - 24)
       else decide (i = 40 ∧ r = 0))
  else decide (r = 0) && (decide (i < bridgeCount d) || (decide (16 ≤ i) && decide (i < 48)))

/-- A gateway-ingress output. -/
def ingressOut (d o : Nat) : Bool := decide (24 ≤ d) && decide (12 ≤ o)

/-! ## Route entries (R217) -/

structure MoveEnt where
  segh : Bool
  bound : Bool
  inp : Nat
  count : Nat
  omask : Nat
  qsel : Nat
  iturn : Nat
  istep : Nat
deriving DecidableEq, Repr

inductive REnt where
  | move (m : MoveEnt)
  | loop (n len k : Nat)
  | brv (point v : Nat) (pstep : Bool)
  | jump (t : Nat)
  | halt
  | ill
deriving DecidableEq, Repr

/-- An entry of a route table by its TYPE; bits outside its fields, and fields out of range, make it illegal. -/
def routeEnt (w : Nat) : REnt :=
  match w % 8 with
  | 0 =>
    let m : MoveEnt :=
      { segh := w.testBit 3, bound := w.testBit 4, inp := bitsOf w 10 5, count := bitsOf w 26 11, omask := bitsOf w 43 27,
        qsel := bitsOf w 48 44, iturn := bitsOf w 58 49, istep := bitsOf w 61 59 }
    if bitsOf w 63 62 ≠ 0 ∨ (m.segh ∧ m.count ≠ 0) then .ill else .move m
  | 1 => if bitsOf w 4 3 ≠ 0 ∨ bitsOf w 63 32 ≠ 0 ∨ bitsOf w 30 21 = 0 then .ill else .loop (bitsOf w 20 5) (bitsOf w 30 21) (bitsOf w 31 31)
  | 2 =>
    if bitsOf w 4 3 ≠ 0 ∨ bitsOf w 63 20 ≠ 0 ∨ bitsOf w 18 13 = 0 then .ill
    else .brv (bitsOf w 12 5) (bitsOf w 18 13) (w.testBit 19)
  | 3 => if bitsOf w 4 3 ≠ 0 ∨ bitsOf w 63 15 ≠ 0 then .ill else .jump (bitsOf w 14 5)
  | 4 => if bitsOf w 63 3 ≠ 0 then .ill else .halt
  | _ => .ill

def maskOuts (m : Nat) : List Nat := (List.range 17).filter fun o => m.testBit o

/-! ## Outputs -/

def State.out (s : State) (k : Nat) : OutSt := spGet (fun _ => OutSt.idle) s.net.outs k
def State.setOut (s : State) (k : Nat) (x : OutSt) : State :=
  { s with net := { s.net with outs := spPut (fun _ => OutSt.idle) s.net.outs k x } }
def State.modOut (s : State) (k : Nat) (f : OutSt → OutSt) : State := s.setOut k (f (s.out k))

def tableKey (k n : Nat) : Nat := k * 1024 + n
def State.tableWord (s : State) (k n : Nat) : Nat := (spGet (fun _ => 0) s.net.tables (tableKey k n)).toNat
def State.setTable (s : State) (k n v : Nat) : State :=
  { s with net := { s.net with tables := spPut (fun _ => 0) s.net.tables (tableKey k n) (BitVec.ofNat 64 v) } }

/-- The entry at a position; past entry 1,023 the output ends its program (log entry 14). -/
def State.entryAt (s : State) (k n : Nat) : REnt := if n < 1024 then routeEnt (s.tableWord k n) else .halt

def State.outPart (s : State) (d r o : Nat) : Option Nat :=
  if s.flag (R.BNET_OCFG d r o) F.BNET_OCFG_ASSIGNED then some (s.fget (R.BNET_OCFG d r o) F.BNET_OCFG_PART) else none

/-- A MOVE entry's ports, and the owners of its gang, are as R223 asks; `alien` says an output belongs to another partition. -/
def moveLegal (d r o : Nat) (alien : Nat → Bool) (m : MoveEnt) : Bool :=
  inOk d r m.inp && m.omask.testBit o && (maskOuts m.omask).all (fun x => outOk d r x && !alien x) &&
    (decide (m.qsel = 0) || ingressOut d o)

def State.alien (s : State) (d r o x : Nat) : Bool := (s.outPart d r x).isSome && decide (s.outPart d r x ≠ s.outPart d r o)

/-- The counter of the innermost loop, 0 outside every loop. -/
def OutSt.inner (x : OutSt) : Nat := (x.loops.head?.map (·.cnt)).getD 0

def MoveEnt.turn (m : MoveEnt) (x : OutSt) : Nat := (m.iturn + m.istep * x.inner) % 1024
def State.inTurn (s : State) (d r i : Nat) : Nat := s.fget (R.BNET_ITURN d r i) F.BNET_ITURN_TURN

/-- Where a table goes on from `n`: at the end of a loop's body the next iteration, or the loop's end (R218). -/
def routeNext : List RLoop → Nat → List RLoop × Nat
  | [], n => ([], n)
  | l :: r, n =>
    if n ≠ l.first + l.len then (l :: r, n)
    else if l.cnt + 1 < l.n then ({ l with cnt := l.cnt + 1 } :: r, l.first)
    else routeNext r n

def OutSt.goTo (x : OutSt) (n : Nat) : OutSt :=
  let y := routeNext x.loops n
  { x with entry := y.2, loops := y.1, left := none, held := 0 }

/-! ## Router faults (R223) -/

/-- The first fault recorded, later ones counted, each reported. -/
def State.routeRecord (s : State) (d r o cause : Nat) : State :=
  let a := R.BNET_FAULT d
  let n := (s.out (outKey d r o)).entry
  let s :=
    if s.flag a F.BNET_FAULT_VALID then s.fadd a F.BNET_FAULT_MORE 1
    else
      let s := s.fset a F.BNET_FAULT_ENTRY n
      let s := s.fset a F.BNET_FAULT_OUTPUT o
      let s := s.fset a F.BNET_FAULT_ROUTER r
      (s.fset a F.BNET_FAULT_CAUSE cause).fset a F.BNET_FAULT_VALID 1
  s.faultRep (if cause = 5 then 6 else 2) cause (s.outPart d r o) (dieIsland d) 0 n

def State.routeFault (s : State) (d r o cause : Nat) : State :=
  (s.routeRecord d r o cause).modOut (outKey d r o) fun x => { x with run := .fault }

/-! ## Room downstream (R224) -/

/-- The router input that a mesh or bridge output feeds. -/
def feeds (d r o : Nat) : Option (Nat × Nat × Nat) :=
  if d < 24 then
    if o = 8 then some (d, r - 4, 34)
    else if o = 9 then some (d, r + 1, 35)
    else if o = 10 then some (d, r + 4, 32)
    else if o = 11 then some (d, r - 1, 33)
    else if 12 ≤ o ∧ o < 16 then
      match farEnd ⟨d, r, o⟩ with
      | some b => some (b.die, b.router, if b.die < 24 then b.port + 24 else b.port)
      | none => none
    else none
  else if o < 12 then
    match farEnd ⟨d, 0, o⟩ with
    | some b => some (b.die, b.router, b.port + 24)
    | none => none
  else none

/-- Whether the port is a bridge port. -/
def bridgeOut (d o : Nat) : Bool := if d < 24 then decide (12 ≤ o) && decide (o < 16) else decide (o < 12)

/-- A request stands whole, or illegal up to its last unit, at an ingress entry: the entry behind it waits (R227). -/
def State.ingressFull (s : State) (g port : Nat) : Bool :=
  if 4 ≤ g ∧ g < 7 ∧ 2 ≤ port then false
  else
    match s.acceptable g port with
    | .empty => false
    | .badOp _ => (s.ingress g port).any fun u => u.2.last
    | _ => true

def State.roomAt (s : State) (d r o : Nat) : Bool :=
  if d < 24 ∧ o < 8 then (s.tile (d * 64 + r * 8 + o)).presented.isNone || !s.islandOn (d * 64 + r * 8 + o)
  else if d < 24 ∧ o = 16 then true
  else if ingressOut d o then !s.ingressFull (d - 24) (o - 12)
  else
    match feeds d r o with
    | none => false
    | some (x, y, i) =>
      let n := (s.inq (inKey x y i)).length
      if bridgeOut d o then
        decide (n < 96) && (match moduleAt ⟨d, r, o⟩ with
          | some m => s.moduleIn m
          | none => false)
      else decide (n < 32)

/-- The routing engine of a compute die. -/
def State.rte (s : State) (d : Nat) : RteSt := spGet (fun _ => RteSt.idle) s.moe.rtes d
def State.modRte (s : State) (d : Nat) (f : RteSt → RteSt) : State :=
  { s with moe := { s.moe with rtes := spPut (fun _ => RteSt.idle) s.moe.rtes d (f (s.rte d)) } }

/-- A unit handed downstream of an output; one for a tile whose island is off is refused by the crossing and lost (R28; DESIGN CHOICE, log
entry 155). -/
def State.deliver (s : State) (d r o qsel : Nat) (u : BUnit) : State :=
  if d < 24 ∧ o < 8 then
    let g := d * 64 + r * 8 + o
    if ¬ s.islandOn g then s.offRefused d
    else if u.cls = .req then s.routeFault d r o 2 else s.modTile g fun t => { t with presented := some u }
  else if d < 24 ∧ o = 16 then s.modRte d fun x => { x with inq := x.inq ++ [u] }
  else if ingressOut d o then s.setIngress (d - 24) (o - 12) (s.ingress (d - 24) (o - 12) ++ [(qsel, u)])
  else
    match feeds d r o with
    | none => s
    | some (x, y, i) => s.setInq (inKey x y i) (s.inq (inKey x y i) ++ [u])

/-! ## Gangs (R219 to R221) -/

/-- What the MOVE at an output does next. -/
inductive MoveStep where
  | ill
  | sync (o : Nat)
  | hold (code : Nat)
  | pass
  | take (u : BUnit) (left : Nat)
deriving DecidableEq, Repr

/-- The legal MOVE at which an output stands. -/
def State.moveAt (s : State) (d r o : Nat) : Option MoveEnt :=
  let k := outKey d r o
  let x := s.out k
  if x.run ≠ .run then none
  else
    match s.entryAt k x.entry with
    | .move m => if moveLegal d r o (s.alien d r o) m then some m else none
    | _ => none

/-- The MOVE at output `o` of a running program: turn, gang, fault of the common entry, unit and room, in that order. -/
def State.moveStep (s : State) (d r o : Nat) (m : MoveEnt) : MoveStep :=
  let x := s.out (outKey d r o)
  let t := m.turn x
  let outs := maskOuts m.omask
  let at_ (y : Nat) : Option MoveEnt := s.moveAt d r y
  let ready (y : Nat) : Bool := match at_ y with
    | some e => decide (e.inp = m.inp) && decide (e.turn (s.out (outKey d r y)) = t)
    | none => false
  let same (y : Nat) : Bool := match at_ y with
    | some e => decide (e.count = m.count) && e.segh == m.segh && decide (e.omask = m.omask)
    | none => false
  if s.inTurn d r m.inp ≠ t then .hold 3
  else if ¬ outs.all ready then .hold 4
  else if ¬ outs.all same then .sync (outs.headD o)
  else if m.count = 0 ∧ ¬ m.segh then .pass
  else
    match s.inq (inKey d r m.inp) with
    | [] => .hold 2
    | u :: _ =>
      let header := m.segh && x.left.isNone
      let left := if header then bitsOf u.data.toNat 31 0 else x.left.getD m.count - 1
      let badBound (y : Nat) : Bool := match at_ y with
        | some e => e.bound && (u.last != decide (left = 0))
        | none => false
      if header ∧ ¬ u.hdr then .sync (outs.headD o)
      else
        match outs.find? badBound with
        | some y => .sync y
        | none => if outs.all (s.roomAt d r) then .take u left else .hold 5

/-! ## Slots of a module transmitter (R16) -/

/-- The end of a module at a die. -/
def moduleAtDie (m a : Nat) : Option BPort :=
  let b := moduleEnd m
  if b.die = a then some b else (farEnd b).filter fun c => decide (c.die = a)

/-- BULK has a unit that may cross module `m` from die `a` now. -/
def State.bulkReady (s : State) (m a : Nat) : Bool :=
  match moduleAtDie m a with
  | none => false
  | some b =>
    !s.flag (R.DIE_CTL a) F.DIE_CTL_FENCE &&
      (match s.moveAt a b.router b.port with
       | none => false
       | some e =>
         match s.moveStep a b.router b.port e with
         | .take _ _ => true
         | _ => false)

/-- The CTRL and SYNC lanes may take a slot of the bridge from `a` to `b`: while BULK has data waiting, one slot of 16. -/
def State.laneOpen (s : State) (a b : Nat) : Bool :=
  match s.laneModule a b with
  | none => false
  | some m => decide (15 ≤ s.bulkSlots m a) || !s.bulkReady m a

/-- A slot of the bridge taken by CTRL or SYNC. -/
def State.laneTake (s : State) (a b : Nat) : State :=
  match s.laneModule a b with
  | none => s
  | some m => s.setSlots m a 0

/-- The module and far die behind a bridge output. -/
def bridgeAt (d r o : Nat) : Option (Nat × Nat) :=
  if bridgeOut d o then
    match moduleAt ⟨d, r, o⟩, farEnd ⟨d, r, o⟩ with
    | some m, some b => some (m, b.die)
    | _, _ => none
  else none

/-- BULK yields the slot at an output: SYNC or CTRL waits there, and 15 BULK slots have passed since theirs. -/
def State.yields (s : State) (d r o : Nat) : Bool :=
  match bridgeAt d r o with
  | none => false
  | some (m, b) => decide (s.laneModule d b = some m) && decide (15 ≤ s.bulkSlots m d) && (s.syncWaits d b || (s.ctlTurn d b).isSome)

/-- A BULK slot of the module behind an output, if it is a bridge port. -/
def State.bulkSlot (s : State) (d r o : Nat) : State :=
  match bridgeAt d r o with
  | none => s
  | some (m, _) => s.setSlots m d (min 15 (s.bulkSlots m d + 1))

/-- One network cycle counted under the state the output is held in (R225). -/
def State.heldCycle (s : State) (d r o code : Nat) : State :=
  let s := s.dieCnt d (R.BNET_OCNT d r o) (if code = 5 then F.BNET_OCNT_BLOCK else F.BNET_OCNT_STARVE) 1
  s.modOut (outKey d r o) fun x => { x with held := x.held + 1 }

/-- The gang's entry completes: every output goes on, and the input's turn counter advances by one (R219). -/
def State.gangDone (s : State) (d r : Nat) (m : MoveEnt) : State :=
  let s := s.each (maskOuts m.omask) fun s y => s.modOut (outKey d r y) fun x => if x.run = .run then x.goTo (x.entry + 1) else x
  s.fset (R.BNET_ITURN d r m.inp) F.BNET_ITURN_TURN ((s.inTurn d r m.inp + 1) % 1024)

/-- Room made at a router input that a reorder queue feeds: the queue presents on. -/
def State.refill (s : State) (d i : Nat) : State :=
  if 24 ≤ d ∧ 16 ≤ i then
    let s := s.present (d - 24) (i - 16) 4096
    if 28 ≤ d ∧ d < 31 then s.runShow (d - 28) (i - 16) 40 else s
  else s

/-- One unit read once from the input and copied to every output of the gang (R220). -/
def State.gangMove (s : State) (d r : Nat) (m : MoveEnt) (u : BUnit) (left : Nat) : State :=
  let k := inKey d r m.inp
  let outs := maskOuts m.omask
  let s := s.setInq k ((s.inq k).drop 1)
  let s := s.each outs fun s y => s.modOut (outKey d r y) fun x => { x with left := some left, stalled := false, held := 0 }
  let qs := outs.map fun y => (y, ((s.moveAt d r y).map (·.qsel)).getD 0)
  let s := s.each qs fun s y => s.deliver d r y.1 y.2 u
  (if left = 0 then s.gangDone d r m else s).refill d m.inp

/-- The current entry of a running output handed to what its row does with it; a fenced die holds its outputs (R520), and an illegal entry raises ROUTEILL. -/
def State.atEntry (s : State) (d r o : Nat) (f : OutSt → REnt → Option State) : State :=
  let k := outKey d r o
  let x := s.out k
  if ¬ outOk d r o ∨ x.run ≠ .run ∨ s.flag (R.DIE_CTL d) F.DIE_CTL_FENCE then s
  else
    match s.entryAt k x.entry with
    | .ill => s.routeFault d r o 1
    | e => (f x e).getD s

/-- ROUTE_MOVE: one network cycle of the MOVE at an output. A cycle in which a bridge's slot goes to SYNC or CTRL counts as BLOCK. -/
def State.routeMove (s : State) (d r o : Nat) : State :=
  s.atEntry d r o fun _ e =>
    match e with
    | .move m =>
      if ¬ moveLegal d r o (s.alien d r o) m then some (s.routeFault d r o 1)
      else
        match s.moveStep d r o m with
        | .ill => some (s.routeFault d r o 1)
        | .sync y => some (s.routeFault d r y 2)
        | .hold c => some (s.heldCycle d r o c)
        | .pass => some (s.gangDone d r m)
        | .take u left =>
          let outs := maskOuts m.omask
          if outs.any (s.yields d r) then some (s.heldCycle d r o 5)
          else some ((s.gangMove d r m u left).each outs fun s y => s.bulkSlot d r y)
    | _ => none

/-- ROUTE_LOOP: N = 0 skips the body; a counter in use by an enclosing loop is illegal. -/
def State.routeLoop (s : State) (d r o : Nat) : State :=
  s.atEntry d r o fun x e =>
    match e with
    | .loop n len k =>
      if x.loops.any fun l => decide (l.k = k) then some (s.routeFault d r o 1)
      else if n = 0 then some (s.modOut (outKey d r o) fun x => x.goTo (x.entry + 1 + len))
      else some (s.modOut (outKey d r o) fun x =>
        { x with entry := x.entry + 1, loops := ⟨k, 0, n, x.entry + 1, len⟩ :: x.loops, held := 0 })
    | _ => none

/-- What a BRV finds in the die's variant register of its point (R136, R218). -/
def State.netVar (s : State) (d p v : Nat) : BrvRead :=
  let a := R.BNET_VAR d (p % 4)
  let q := s.fget a F.BNET_VAR_POINT
  let behind := (p + 256 - q) % 256
  if ¬ s.flag a F.BNET_VAR_VALID ∨ (1 ≤ behind ∧ behind ≤ 128) then .wait
  else if q = p then (if s.fget a F.BNET_VAR_VARIANT < v then .slot (s.fget a F.BNET_VAR_VARIANT) else .fault 3)
  else .fault 4

def brvPoint (x : OutSt) (point : Nat) (pstep : Bool) : Nat := (point + (if pstep then x.inner else 0)) % 256

def State.brvJumps (s : State) (k n v : Nat) : Bool :=
  (List.range v).all fun i => match s.entryAt k (n + 1 + i) with
    | .jump _ => true
    | _ => false

/-- ROUTE_BRV. -/
def State.routeBrv (s : State) (d r o : Nat) : State :=
  s.atEntry d r o fun x e =>
    match e with
    | .brv point v pstep =>
      if ¬ s.brvJumps (outKey d r o) x.entry v then some (s.routeFault d r o 1)
      else
        match s.netVar d (brvPoint x point pstep) v with
        | .wait => some (s.heldCycle d r o 6)
        | .fault c => some (s.routeFault d r o c)
        | .slot i => some (s.modOut (outKey d r o) fun x => { x with entry := x.entry + 1 + i, held := 0 })
    | _ => none

/-- A jump out of a loop's body leaves the loop (log entry 14). -/
def jumpLoops (l : List RLoop) (t : Nat) : List RLoop :=
  l.dropWhile fun x => decide (t < x.first ∨ x.first + x.len ≤ t)

def State.routeJump (s : State) (d r o : Nat) : State :=
  s.atEntry d r o fun _ e =>
    match e with
    | .jump t => some (s.modOut (outKey d r o) fun x => { x with entry := t, loops := jumpLoops x.loops t, held := 0 })
    | _ => none

def State.routeHalt (s : State) (d r o : Nat) : State :=
  s.atEntry d r o fun _ e =>
    match e with
    | .halt => some (s.modOut (outKey d r o) fun x => { x with run := .halt, loops := [], held := 0 })
    | _ => none

/-- BNET_OST.STATE of an output. -/
def State.outState (s : State) (d r o : Nat) : Nat :=
  let x := s.out (outKey d r o)
  match x.run with
  | .halt => 0
  | .fault | .cleared => 7
  | .run =>
    match s.entryAt (outKey d r o) x.entry with
    | .move m =>
      (match s.moveStep d r o m with
       | .hold c => c
       | _ => 1)
    | .brv point v pstep => if s.netVar d (brvPoint x point pstep) v = .wait then 6 else 1
    | _ => 1

/-- BNET_OST. -/
def State.outStat (s : State) (d r o : Nat) : Nat :=
  let x := s.out (outKey d r o)
  let remain := match x.left, s.entryAt (outKey d r o) x.entry with
    | some n, _ => n
    | none, .move m => if x.run = .run then m.count else 0
    | none, _ => 0
  x.entry % 1024 + s.outState d r o * 2 ^ 12 + remain % 65536 * 2 ^ 32

/-- ROUTESTALL (R226): raised once until a unit next moves; the output is not stopped. -/
def State.routeStall (s : State) (d r o : Nat) : State :=
  let x := s.out (outKey d r o)
  let c := s.outState d r o
  if s.fget (R.BNET_WDOG d) F.BNET_WDOG_CYCLES = 0 ∨ x.stalled ∨ c = 0 ∨ c = 1 then s
  else (s.routeRecord d r o 5).modOut (outKey d r o) fun x => { x with stalled := true }

/-! ## START and the register writes (R222, R235) -/

def allDies : List Nat := List.range 32

/-- The outputs of a die, as (router, output). -/
def dieOuts (d : Nat) : List (Nat × Nat) :=
  (List.range (if d < 24 then 8 else 1)).flatMap fun r => ((List.range 17).filter fun o => outOk d r o).map fun o => (r, o)

def State.outsOf (s : State) (d p : Nat) : List (Nat × Nat) := (dieOuts d).filter fun x => decide (s.outPart d x.1 x.2 = some p)

def State.atHalt (s : State) (d r o : Nat) : Bool := decide ((s.out (outKey d r o)).run = .halt)

/-- The turn counters of the inputs that outputs and tiles of `p` on die `d` feed. -/
def State.clearTurns (s : State) (d p : Nat) : State :=
  let s := s.each (s.outsOf d p) fun s x =>
    match feeds d x.1 x.2 with
    | some (a, b, i) => s.fset (R.BNET_ITURN a b i) F.BNET_ITURN_TURN 0
    | none => s
  if d < 24 then
    s.each ((List.range 64).filter fun t => decide (s.tilePart (d * 64 + t) = some p)) fun s t =>
      s.each [0, 1, 2] fun s k => s.fset (R.BNET_ITURN d (t / 8) (4 * (t % 8) + k)) F.BNET_ITURN_TURN 0
  else s

/-- START for a partition on a die; answers whether it was accepted. -/
def State.netStart (s : State) (d p : Nat) : State × Bool :=
  let l := s.outsOf d p
  let run (x : Nat × Nat) : OutRun := (s.out (outKey d x.1 x.2)).run
  if l.any fun x => decide (run x = .run) || decide (run x = .fault) then (s.fset (R.BNET_CTL d) F.BNET_CTL_ERR 1, false)
  else
    let s := s.each l fun s x => s.modOut (outKey d x.1 x.2) fun y =>
      if y.run = .cleared then { y with run := .run, held := 0 }
      else { y with run := .run, entry := 0, left := none, loops := [], held := 0 }
    (s.clearTurns d p, true)

def State.netVarWrite (s : State) (d j point variant : Nat) (valid : Bool) : State :=
  let a := R.BNET_VAR d j
  ((s.fset a F.BNET_VAR_POINT point).fset a F.BNET_VAR_VARIANT variant).fset a F.BNET_VAR_VALID (bit valid)

/-- START written by a writer that names its partition in BNET_CTL. -/
def State.netStartFor (s : State) (d p : Nat) : State × Bool := (s.fset (R.BNET_CTL d) F.BNET_CTL_PART p).netStart d p

/-- Where a step begins, START and every BNET_VAR of each die that holds an output of the partition are written (R222). What BNET_VAR is
written with before a step's first dynamic point the manual does not state: free values (DESIGN CHOICE, log entry 157). -/
def State.netStep (s : State) (p : Nat) : State :=
  s.each (allDies.filter fun d => !(s.outsOf d p).isEmpty) fun s d =>
    (s.netStartFor d p).1.each (List.range 4) fun s j =>
      let f := s.fresh
      f.2.netVarWrite d j (f.1 % 256) (f.1 / 256 % 63) (decide (f.1 / 2 ^ 14 % 2 = 1))

def State.rpAddr (s : State) (d : Nat) : Nat × Nat × Nat :=
  let a := R.BNET_RPADDR d
  (s.fget a F.BNET_RPADDR_ROUTER, s.fget a F.BNET_RPADDR_OUTPUT, s.fget a F.BNET_RPADDR_ENTRY)

def State.rpStep (s : State) (d : Nat) : State :=
  let a := R.BNET_RPADDR d
  if s.flag a F.BNET_RPADDR_AUTOINC then s.fset a F.BNET_RPADDR_ENTRY ((s.fget a F.BNET_RPADDR_ENTRY + 1) % 1024) else s

/-- A write of a table entry: only for an output at HALT. -/
def State.rpWrite (s : State) (d v : Nat) : State :=
  let x := s.rpAddr d
  let s := if outOk d x.1 x.2.1 ∧ s.atHalt d x.1 x.2.1 then s.setTable (outKey d x.1 x.2.1) x.2.2 v
    else s.fset (R.BNET_CTL d) F.BNET_CTL_ERR 1
  s.rpStep d

/-- A read of BNET_RPDATA, which steps the address too. -/
def State.rpRead (s : State) (d : Nat) : Nat := let x := s.rpAddr d; s.tableWord (outKey d x.1 x.2.1) x.2.2

/-- CLR of BNET_FAULT: stopped outputs may resume at the next START. -/
def State.netFaultClr (s : State) (d : Nat) : State :=
  let s := s.wr (R.BNET_FAULT d) 0
  s.each (dieOuts d) fun s x => s.modOut (outKey d x.1 x.2) fun y => if y.run = .fault then { y with run := .cleared } else y

/-- The counters of an output cleared (R238). -/
def State.outCntClr (s : State) (d r o : Nat) : State := s.wr (R.BNET_OCNT d r o) 0
def State.queueCntClr (s : State) (d q : Nat) : State := s.wr (R.GW_QCNT d q) 0

/-- An output passes to a partition or to none. -/
def State.setOwner (s : State) (d r o : Nat) (p : Option Nat) : State :=
  let s := if s.outPart d r o = p then s else s.outCntClr d r o
  let s := s.fset (R.BNET_OCFG d r o) F.BNET_OCFG_ASSIGNED (bit p.isSome)
  match p with
  | some p => s.fset (R.BNET_OCFG d r o) F.BNET_OCFG_PART p
  | none => s

/-- BNET_OCFG takes a write only while its output is at HALT. -/
def State.ocfgWrite (s : State) (d r o v : Nat) : State :=
  if outOk d r o ∧ s.atHalt d r o then
    (s.setOwner d r o (if v.testBit 8 then some (v % 16) else none)).fset (R.BNET_OCFG d r o) F.BNET_OCFG_PART (v % 16)
  else s

/-! ## Queues (R227) -/

def State.quotaOf (s : State) (d q : Nat) : Nat := s.fget (R.GW_QCFG (gwDie d) q) F.GW_QCFG_QUOTA
def State.queuePart (s : State) (d q : Nat) : Option Nat :=
  if s.flag (R.GW_QCFG (gwDie d) q) F.GW_QCFG_ASSIGNED then some (s.fget (R.GW_QCFG (gwDie d) q) F.GW_QCFG_PART) else none

/-- The sum of a gateway's quotas with those of `l` in place of the standing ones. -/
def State.quotaSum (s : State) (d : Nat) (l : List (Nat × Nat)) : Nat :=
  ((List.range 32).map fun q => ((l.find? fun x => decide (x.1 = q)).map (·.2)).getD (s.quotaOf d q)).foldl (· + ·) 0

/-- Quota and assignment of a queue set; its counters clear where it passes to another partition (R238). -/
def State.queueSet (s : State) (d q quota p : Nat) (own : Bool) : State :=
  let a := R.GW_QCFG (gwDie d) q
  let s := if s.queuePart d q = (if own then some p else none) then s else s.queueCntClr (gwDie d) q
  ((s.fset a F.GW_QCFG_QUOTA quota).fset a F.GW_QCFG_PART p).fset a F.GW_QCFG_ASSIGNED (bit own)

/-- A write of GW_QCFG. Every field is read-only to a virtual function, and a queue of another partition is a decode miss to it (R12, R236,
R400). -/
def State.qcfgWrite (s : State) (fn d q v : Nat) : State :=
  let a := R.GW_QCFG (gwDie d) q
  if fn ≠ 0 then (if s.queuePart d q = some (fn - 1) then s else s.decodeMiss fn a)
  else
    let s := if v.testBit 63 then s.fset a F.GW_QCFG_ERR 0 else s
    if gwStorage d < s.quotaSum d [(q, v % 65536)] ∨ v % 65536 < s.qUsed d q then s.fset a F.GW_QCFG_ERR 1
    else s.queueSet d q (v % 65536) (bitsOf v 19 16) (v.testBit 20)

/-- A queue holds data: units reserved, or a request in it. -/
def State.queueBusy (s : State) (d q : Nat) : Bool :=
  decide (s.qUsed d q ≠ 0) || (s.gw d).reqs.any fun r => decide (r.queue = q)

/-! ## Commands of R236 -/

def cmdRoutePorts (fn p d : Nat) (outs queues : List (Nat × Nat)) (s : State) : State × Reply :=
  s.cmd [badAt 1 (decide (31 < d)), badAt 4 (outs.any fun x => !outOk d x.1 x.2),
    badAt (8 + 2 * outs.length) (queues.any fun x => decide (31 < x.1 ∨ 65535 < x.2)), pfOnly fn,
    refuse 1 ((outs.any fun x => !s.atHalt d x.1 x.2) || (decide (24 ≤ d) && queues.any fun x => s.queueBusy (d - 24) x.1)),
    refuse 2 (if d < 24 then decide (queues ≠ []) else decide (gwStorage (d - 24) < s.quotaSum (d - 24) queues))] fun s =>
    let s := s.each outs fun s x => s.setOwner d x.1 x.2 (some p)
    let s := s.each queues fun s x => s.queueSet (d - 24) x.1 x.2 p true
    s.told ((outs.map fun x => R.BNET_OCFG d x.1 x.2) ++ queues.map fun x => R.GW_QCFG d x.1)

/-- One table of a route image: router, output, entries, offset, and the zeros of its word. -/
structure TabRec where
  r : Nat
  o : Nat
  n : Nat
  off : Nat
  zeros : Bool
deriving DecidableEq, Repr

def tabRec (w : Nat) : TabRec := ⟨w % 256, bitsOf w 15 8, bitsOf w 26 16, bitsOf w 63 32, decide (bitsOf w 31 27 = 0)⟩

/-- The tables that a route image at local offset `b` names. -/
def State.routeTabs (s : State) (p b : Nat) : List TabRec :=
  (List.range (s.locNum p (b + 7) 1)).map fun n => tabRec (s.locNum p (b + 0x40 + 8 * n) 8)

def State.imageLen (s : State) (p b : Nat) : Nat :=
  ((s.routeTabs p b).map fun t => t.off + 8 * t.n).foldl max (0x40 + 8 * s.locNum p (b + 7) 1)

def State.imageDigest (s : State) (p b : Nat) : List Byte :=
  let bs := (s.locBytes p b (s.imageLen p b)).1
  sm3 (bs.take 8 ++ List.replicate 32 0 ++ bs.drop 0x28)

def State.imageOk (s : State) (p d b : Nat) : Bool :=
  let n (o k : Nat) : Nat := s.locNum p (b + o) k
  decide (n 0 4 = 0x544F5552 ∧ n 4 2 = 1 ∧ n 6 1 = d ∧ n 7 1 ≠ 0) && decide (n 0x28 24 = 0) &&
    (s.routeTabs p b).all (fun t => t.zeros && decide (1 ≤ t.n ∧ t.n ≤ 1024 ∧ t.off % 8 = 0) && outOk d t.r t.o) &&
    decide (s.imageDigest p b = (s.locBytes p (b + 8) 32).1)

def State.imageEntry (s : State) (p b : Nat) (t : TabRec) (i : Nat) : Nat := s.locNum p (b + t.off + 8 * i) 8

/-- An entry of an image raises no ROUTEILL that can be told from the table alone. -/
def State.imageEntryOk (s : State) (p d : Nat) (t : TabRec) (w : Nat) : Bool :=
  match routeEnt w with
  | .move m => moveLegal d t.r t.o (fun x => (s.outPart d t.r x).isSome && decide (s.outPart d t.r x ≠ some p)) m
  | .ill => false
  | _ => true

/-- Two loops of an image's table, one inside the other, name one counter (R218, R223). -/
def State.nestedSame (s : State) (p b : Nat) (t : TabRec) : Bool :=
  (List.range t.n).any fun i =>
    match routeEnt (s.imageEntry p b t i) with
    | .loop _ len k =>
      (List.range (min len (t.n - 1 - i))).any fun j =>
        match routeEnt (s.imageEntry p b t (i + 1 + j)) with
        | .loop _ _ k' => decide (k' = k)
        | _ => false
    | _ => false

/-! ## Islands in use (R28, R449) -/

/-- The tiles of a compute die that a legal MOVE of router `r` reads from or writes to. -/
def moveTiles (d r : Nat) (m : MoveEnt) : List Nat :=
  let at_ (t : Nat) : Nat := d * 64 + r * 8 + t
  (if m.inp < 32 then [at_ (m.inp / 4)] else []) ++ ((maskOuts m.omask).filter fun o => decide (o < 8)).map at_

/-- The tiles of a compute die that a MOVE of its route tables names. -/
def State.routedTiles (s : State) (d : Nat) : List Nat :=
  s.net.tables.flatMap fun e =>
    let k := e.1 / 32768
    if k / 8 = d then
      match routeEnt e.2.toNat with
      | .move m => moveTiles d (k % 8) m
      | _ => []
    else []

/-- The steward's USED flags of a compute die's tile islands: a tile stands in a route program, or in the semaphore quota that its partition
holds on the die (DEDUCED, log entry 155). -/
def State.markUsed (s : State) (d : Nat) : State :=
  if 24 ≤ d then s
  else
    let r := s.routedTiles d
    s.each ((List.range 64).map fun t => d * 64 + t) fun s g =>
      let q := match s.tilePart g with
        | some p => !(s.groupsOf d p).isEmpty
        | none => false
      s.fset (R.CLK_ISL g) F.CLK_ISL_USED (bit (r.contains g || q))

def cmdSyncQuota (fn p dies n : Nat) (s : State) : State × Reply :=
  let ds := (List.range 24).filter fun d => dies.testBit d
  s.cmd [badAt 8 (decide (64 < n)), pfOnly fn,
    refuse 1 (ds.any fun d => decide ((s.groupsOf d p).length + (s.freeGroups d).length < n)),
    refuse 2 (ds.any fun d => decide (((s.groupsOf d p).filter (s.unowned d)).length + n < (s.groupsOf d p).length))] fun s =>
    let s := s.each ds fun s d => State.markUsed (
      let h := s.groupsOf d p
      if h.length < n then
        s.each ((s.freeGroups d).take (n - h.length)) fun s k =>
          (s.fset (R.SYN_GRP d k) F.SYN_GRP_PART p).fset (R.SYN_GRP d k) F.SYN_GRP_ASSIGNED 1
      else
        s.each (((h.filter (s.unowned d)).reverse).take (h.length - n)) fun s k => s.fset (R.SYN_GRP d k) F.SYN_GRP_ASSIGNED 0) d
    (s, .ok (lay (layList ((List.range 24).map fun d => (8, ((s.groupsOf d p).map fun k => 2 ^ k).foldl (· + ·) 0)))))

def cmdRouteLoad (fn p d addr : Nat) (s : State) : State × Reply :=
  let b := addr % 2 ^ 48
  let tabs := s.routeTabs p b
  let dig := s.imageDigest p b
  let ents := tabs.map fun t => (t, (List.range 1024).map fun i => if i < t.n then s.imageEntry p b t i else 0)
  s.cmdRead [badAt 1 (decide (31 < d)), badAt 8 (decide (addr % 64 ≠ 0)), pfOnly fn] p b (s.imageLen p b)
    [refuse 1 (!s.imageOk p d b),
    refuse 2 (tabs.any fun t => ((List.range t.n).any fun i => !s.imageEntryOk p d t (s.imageEntry p b t i)) || s.nestedSame p b t),
    refuse 3 (tabs.any fun t => decide (s.outPart d t.r t.o ≠ some p)),
    refuse 4 (tabs.any fun t => !s.atHalt d t.r t.o)] fun s =>
    ((s.each ents fun s x => s.each (List.range 1024) fun s i =>
      s.setTable (outKey d x.1.r x.1.o) i (x.2.getD i 0)).markUsed d |>.measure (16 + p) 6 dig, .ok [])

def cmdRouteStart (fn p dies : Nat) (s : State) : State × Reply :=
  s.cmd [pfOnly fn] fun s =>
    let r := ((List.range 32).filter fun d => dies.testBit d).foldl (fun (a : State × List Nat) d =>
      let b := a.1.netStartFor d p
      (b.1, if b.2 then a.2 else a.2 ++ [d])) (s, [])
    (r.1, .ok (lay (layList (r.2.map fun d => (1, d)))))

/-- NET_STATUS. Each BNET_OST is preceded by its die, router and output, each USED by its die and queue, and of 256 entries the outputs come
before the queues (DESIGN CHOICE, log entry 156). -/
def cmdNetStatus (fn p : Nat) (s : State) : State × Reply :=
  s.cmd [ownPart fn p] fun s =>
    let outs := allDies.flatMap fun d => ((s.outsOf d p).filter fun x =>
      decide (1000 < (s.out (outKey d x.1 x.2)).held) && decide (2 ≤ s.outState d x.1 x.2 ∧ s.outState d x.1 x.2 ≤ 6)).map fun x => (d, x)
    let qs := (List.range 8).flatMap fun d => ((List.range 32).filter fun q => decide (s.queuePart d q = some p)).map fun q => (d, q)
    let o := capped 256 outs
    let k := capped (256 - o.1.length) qs
    (s, .ok (lay ((4, o.1.length) :: (o.1.flatMap fun x => [(1, x.1), (2, x.2.1 * 256 + x.2.2), (8, s.outStat x.1 x.2.1 x.2.2)]) ++
      (4, k.1.length) :: (k.1.flatMap fun x => [(1, gwDie x.1), (1, x.2), (2, s.qUsed x.1 x.2)]) ++ [(4, o.2 + k.2)])))

/-- The gateways with an ingress output of `p`. -/
def State.gwsOf (s : State) (p : Nat) : List Nat :=
  (List.range 8).filter fun d => (s.outsOf (gwDie d) p).any fun x => ingressOut (gwDie d) x.2

def cmdNetStats (fn p : Nat) (clr : Bool) (s : State) : State × Reply :=
  s.cmd [ownPart fn p] fun s =>
    let outs := allDies.flatMap fun d => (s.outsOf d p).map fun x => R.BNET_OCNT d x.1 x.2
    let qs := (List.range 8).flatMap fun d => ((List.range 32).filter fun q => decide (s.queuePart d q = some p)).map fun q =>
      R.GW_QCNT (gwDie d) q
    let ic := (s.gwsOf p).map fun d => R.GW_ICNT (gwDie d)
    let out := lay [(8, s.sumFld outs F.BNET_OCNT_STARVE), (8, s.sumFld outs F.BNET_OCNT_BLOCK), (8, s.sumFld qs F.GW_QCNT_FILLED),
      (8, s.sumFld qs F.GW_QCNT_LATE), (8, s.sumFld ic F.GW_ICNT_QFULL), (8, s.sumFld ic F.GW_ICNT_BADOP)]
    (if clr then s.each (outs ++ qs ++ ic) fun s a => s.wr a 0 else s, .ok out)

/-! ## DIE_CNTCTL.CLR (R238, R347, R398) -/

/-- The counter registers that follow a die's DIE_CNTCTL. -/
def dieCounters (d : Nat) : List Nat :=
  ((dieOuts d).map fun x => R.BNET_OCNT d x.1 x.2) ++
    (if d < 24 then []
     else
       (R.GW_ICNT d :: (List.range 32).map fun q => R.GW_QCNT d q) ++
         ((List.range 16).flatMap fun p => [R.TQ_STALL0 d p, R.TQ_STALL1 d p, R.TQ_STALL2 d p, R.TQ_STALL3 d p])) ++
    (if 24 ≤ d ∧ d < 28 then (List.range 24).map fun k => R.CH_ERR ((d - 24) * 24 + k)
     else if 28 ≤ d ∧ d < 31 then
       ((List.range 16).flatMap fun p => [R.FBP_CNT0 (d - 28) p, R.FBP_CNT1 (d - 28) p, R.FBP_CNT2 (d - 28) p]) ++
         [R.FB_RCPT0 (d - 28), R.FB_RCPT1 (d - 28)] ++
         ((List.range 12).flatMap fun k => [R.LNK_CNT0 ((d - 28) * 12 + k), R.LNK_CNT1 ((d - 28) * 12 + k)])
     else if d = 31 then (List.range 16).flatMap fun p => [R.PT_CNT0 p, R.PT_CNT1 p]
     else [])

def State.dieCntClear (s : State) (d : Nat) : State := s.each (dieCounters d) fun s a => s.wr a 0

/-! ## Bridges and crossings (R17, R26 to R28) -/

/-- The two dies a module joins. -/
def moduleDies (m : Nat) : List Nat :=
  let b := moduleEnd m
  b.die :: ((farEnd b).map (·.die)).toList

/-- A module out of service, with a fault of each die it joins (class 3). -/
def State.bridgeLost (s : State) (m : Nat) : State :=
  if ¬ s.moduleIn m then s
  else
    let s := { s with net := { s.net with moduleOut := spPut (fun _ => false) s.net.moduleOut m true } }
    s.each (moduleDies m) fun s d => s.plainRep 3 none (dieIsland d) 0 m

/-- An adapter retry counts at both dies of the module. -/
def State.adapterRetry (s : State) (m : Nat) : State :=
  s.each (moduleDies m) fun s d =>
    { s with net := { s.net with retries := spPut (fun _ => 0) s.net.retries d (spGet (fun _ => 0) s.net.retries d + 1) } }

/-- One request across a crossing: delivered in order, or refused where the receiving island's regulator is off. -/
def State.handshake (s : State) (a b : Nat) : State :=
  if s.islandOn b then
    let n := spGet (fun _ => 0) s.net.delivered (a * 2048 + b) + 1
    { s with net := { s.net with delivered := spPut (fun _ => 0) s.net.delivered (a * 2048 + b) n } }
  else s.offRefused (islandDie a)

/-- STW_LOC written (R21, R22). -/
def State.stwLoc (s : State) (v : Nat) : State :=
  let a := R.STW_LOC
  let locked := s.flag a F.STW_LOC_LOCK
  let s := if v.testBit 29 then s.fset a F.STW_LOC_NOSLOT 0 else s
  let s := if v.testBit 30 then s.fset a F.STW_LOC_MISMATCH 0 else s
  let s := if locked then s else s.fset a F.STW_LOC_PKGID (v % 4096)
  if ¬ v.testBit 31 ∨ locked then s
  else if ¬ s.flag a F.STW_LOC_TSVALID then s.fset a F.STW_LOC_NOSLOT 1
  else if s.fget a F.STW_LOC_PKGID % 32 ≠ s.fget a F.STW_LOC_TRAYSLOT then s.fset a F.STW_LOC_MISMATCH 1
  else s.fset a F.STW_LOC_LOCK 1

end Sys2Proof.Machine
end

