-- ==== Sys2Proof/Machine/Experts.lean ====
section
/-! DEFINITION. Expert routing and the step controller (R275 to R305): score segments and confidence units at the routing
engines, count rows, the decision at a point, exits, and the mailbox commands of R302. -/

namespace Sys2Proof.Machine

/-! ## State of one partition's step controller -/

/-- The next point that the step reaches: points are decided in plan order (R292). -/
def State.nextPoint (s : State) (p : Nat) : Option PointRec :=
  if s.planBase p = 0 then none
  else if (s.planOf p).npt ≤ (s.stepSt p).decided then none else some (s.pointNth p (s.stepSt p).decided)

def State.setPhase (s : State) (p v : Nat) : State := s.fset (R.STEP_STAT p) F.STEP_STAT_PHASE v

/-- The compute dies on which a partition has a tile. -/
def State.diesOf (s : State) (p : Nat) : List Nat :=
  (List.range 24).filter fun d => (List.range 64).any fun t => decide (s.tilePart (d * 64 + t) = some p)

/-! ## The routing engine (R275 to R281) -/

def State.rteOn (s : State) (d : Nat) : Bool := s.flag (R.RTE_CFG d) F.RTE_CFG_EN
def State.rtePart (s : State) (d : Nat) : Nat := s.fget (R.RTE_CFG d) F.RTE_CFG_PART

/-- A routing engine's counter (R304). -/
def State.rteCnt (s : State) (d a : Nat) (f : Fld) (n : Nat) : State :=
  if s.flag (R.RTE_CNTCTL d) F.RTE_CNTCTL_FREEZE then s else s.fadd a f n

/-- A unit from a tile that the engine's partition does not own. -/
def State.rteForeign (s : State) (d : Nat) (u : BUnit) : Bool :=
  !s.rteOn d || (decide (32 ≤ u.via) && decide (s.tilePart (viaTile u.via) ≠ some (s.rtePart d)))

/-- Foreign units are discarded and counted. -/
def State.rteClean (s : State) (d : Nat) : State :=
  let q := (s.rte d).inq
  let bad := q.filter (s.rteForeign d)
  if bad.isEmpty then s
  else (s.modRte d fun x => { x with inq := q.filter fun u => !s.rteForeign d u }).rteCnt d (R.RTE_CNT1 d) F.RTE_CNT1_FOREIGN bad.length

/-- The position unit. -/
structure PosUnit where
  htile : Nat
  haddr : Nat
  hexpw : Nat
  hacnt : Nat
  slot : Nat
  point : Nat
deriving DecidableEq, Repr

def posOf (u : SheafBits) : PosUnit :=
  let v := u.toNat
  { htile := bitsOf v 10 0, haddr := bitsOf v 37 16, hexpw := bitsOf v 61 40, hacnt := bitsOf v 69 64, slot := bitsOf v 83 72,
    point := bitsOf v 95 88 }

/-- Bytes 12 to 31 of the position unit are zero. -/
def posZeros (u : SheafBits) : Bool := decide (u.toNat / 2 ^ 96 = 0)

/-- The score of element `j` of a sheaf in units of 2^−71; a zero block or the reserved scale gives zero (R38, R276). -/
def scoreVal (u : SheafBits) (j : Nat) : Int :=
  match scaleOf (scaleWord u) with
  | .val m e => sheafElem .s16 u j * m * ((2 ^ (e + 64).toNat : Nat) : Int)
  | _ => 0

def scoresOf (us : List SheafBits) (nexp : Nat) : List (Nat × Int) :=
  (List.range nexp).map fun e => (e, scoreVal (us.getD (e / 15) zeroBits) (e % 15))

/-- The largest value, the lower index between equal ones. -/
def bestOf : List (Nat × Int) → Option (Nat × Int)
  | [] => none
  | a :: r =>
    match bestOf r with
    | some b => if a.2 < b.2 then some b else some a
    | none => some a

/-- The K largest in descending order (R276). -/
def topK : Nat → List (Nat × Int) → List (Nat × Int)
  | 0, _ => []
  | n + 1, l =>
    match bestOf l with
    | none => []
    | some b => b :: topK n (l.filter fun x => decide (x.1 ≠ b.1))

/-- An expert left out equals the last one taken. -/
def tieDecided (sel all : List (Nat × Int)) : Bool :=
  match sel.getLast? with
  | none => false
  | some b => all.any fun x => decide (x.2 = b.2) && !(sel.any fun y => decide (y.1 = x.1))

/-- ln 2 scaled by 2^160. -/
def ln2Big : Nat := 1013035739299659071135698605846798551586536899366

/-- The terms of the exponential series of t / 2^160 from term `i` on, `n` of them, each from the one before. -/
def expTerms (t : Nat) : Nat → Nat → Nat → Nat
  | 0, _, _ => 0
  | n + 1, i, a => a + expTerms t n (i + 1) (a * t / 2 ^ 160 / (i + 1))

/-- 2^x scaled by 2^160, for x ≤ 0 in units of 2^−71: exact where x is an integer, else to some units of its last place. -/
def gatePow (x : Int) : Nat :=
  let d : Int := ((2 ^ 71 : Nat) : Int)
  let t := (x % d).toNat * ln2Big / 2 ^ 71
  expTerms t 48 0 (2 ^ 160) / 2 ^ (-(x / d)).toNat

/-- The least and the greatest G within R277's bound of 32,768 × v / sum. -/
def gateRange (v sum : Nat) : Nat × Nat :=
  let den := 4096 * sum
  (ceilDiv (32768 * v * 4095 - den) den, (32768 * v * 4097 + den) / den)

/-- The gates of the selected scores (R277). A softmax gate is free within its bound, and so is the rounding of a half. -/
def State.gates (s : State) (mode k : Nat) (sel : List (Nat × Int)) : State × List Nat :=
  match mode with
  | 0 =>
    let top := (sel.head?.map (·.2)).getD 0
    let ps := sel.map fun x => gatePow (x.2 - top)
    let sum := max 1 (ps.foldl (· + ·) 0)
    ps.foldl (fun (a : State × List Nat) v =>
      let b := gateRange v sum
      let f := a.1.fresh
      (f.2, a.2 ++ [b.1 + f.1 % (b.2 - b.1 + 1)])) (s, [])
  | 1 =>
    sel.foldl (fun (a : State × List Nat) x =>
      let d : Int := ((2 ^ 56 : Nat) : Int)
      let q := x.2 / d
      let r := 2 * (x.2 % d)
      let f := a.1.fresh
      let v := if r < d then q else if d < r then q + 1 else q + ((f.1 % 2 : Nat) : Int)
      ((if r = d then f.2 else a.1), a.2 ++ [(clampTo 0 65535 v).toNat])) (s, [])
  | _ => (s, sel.map fun _ => (2 * 32768 + k) / (2 * k))

/-- The order of a position's units (R279). -/
def unitRank (own : Nat) (x : XUnit) : Nat :=
  (if x.dpkg / 32 ≠ own / 32 then 0 else if x.dpkg ≠ own then 1 else 2) * 2 ^ 24 + x.dpkg * 2 ^ 12 + x.exp

def insUnit (own : Nat) (x : XUnit) : List XUnit → List XUnit
  | [] => [x]
  | y :: r => if unitRank own x < unitRank own y then x :: y :: r else y :: insUnit own x r

/-- `n` exchange units of KIND NULL, whose expert and gate are open. -/
def State.nullUnits (s : State) (base : XUnit) : Nat → State × List XUnit
  | 0 => (s, [])
  | n + 1 =>
    let f := s.fresh
    let r := f.2.nullUnits base n
    (r.1, { base with exp := f.1 % 4096, gate := f.1 / 4096 % 65536 } :: r.2)

/-- The units returned to the home tile as one RECV-class segment. -/
def State.returnPos (s : State) (d : Nat) (us : List XUnit) : State :=
  let k := inKey d 0 40
  s.setInq k (s.inq k ++ (List.range us.length).map fun i =>
    ⟨.recv, false, false, decide (i + 1 = us.length), ((us[i]?).map xunitBits).getD 0, d⟩)

/-- The count vector closed: sent in reports of 32 counts, 64 bytes each (R281). -/
def State.closeVec (s : State) (d : Nat) : State :=
  let x := s.rte d
  let n := s.fget (R.RTE_CFG d) F.RTE_CFG_NEXP
  let point := s.fget (R.RTE_STAT d) F.RTE_STAT_POINT
  let s := s.each (List.range (ceilDiv n 32)) fun s i =>
    s.report (.count (s.rtePart d) d point i ((List.range 32).flatMap fun j => leBytes 2 (spGet (fun _ => 0) x.vec (32 * i + j))))
  (s.modRte d fun x => { x with open_ := false, seen := 0, vec := [] }).fset (R.RTE_STAT d) F.RTE_STAT_POS 0

/-- One position routed: selection, gates, counts and units. -/
def State.routePos (s : State) (d : Nat) (base : XUnit) (scores : List SheafBits) : State :=
  let k := s.fget (R.RTE_CFG d) F.RTE_CFG_K
  let nexp := s.fget (R.RTE_CFG d) F.RTE_CFG_NEXP
  let all := scoresOf scores nexp
  let sel := topK k all
  let s := s.rteCnt d (R.RTE_CNT1 d) F.RTE_CNT1_FORMAT (scores.filter sheafReserved).length
  let s := if tieDecided sel all then s.rteCnt d (R.RTE_CNT1 d) F.RTE_CNT1_TIES 1 else s
  let g := s.gates (s.fget (R.RTE_CFG d) F.RTE_CFG_GATE) k sel
  let us := (List.zip sel g.2).map fun x =>
    { base with kind := 1, exp := x.1.1, gate := x.2, dpkg := s.fget (R.RTE_EMAP d x.1.1) F.RTE_EMAP_PKG }
  let own := s.pkgOwn
  let nul := g.1.nullUnits base (k - sel.length)
  let s := (nul.1.fadd (R.RTE_STAT d) F.RTE_STAT_POS 1).each sel fun s x => s.rteCnt d (R.RTE_ECNT d x.1) F.RTE_ECNT_COPIES 1
  let s := s.modRte d fun r => { r with vec := sel.foldl (fun v x =>
    spPut (fun _ => 0) v x.1 (min 65535 (spGet (fun _ => 0) v x.1 + 1))) r.vec }
  s.returnPos d (us.foldl (fun l x => insUnit own x l) [] ++ nul.2)

/-- A position that is not routed: K units of KIND NULL (R278). -/
def State.skipPos (s : State) (d : Nat) (base : XUnit) : State :=
  let r := s.nullUnits base (s.fget (R.RTE_CFG d) F.RTE_CFG_K)
  r.1.returnPos d r.2

def State.xset (s : State) (d slot : Nat) : Bool := (s.fget (R.RTE_XSET d (slot / 64)) F.RTE_XSET_SLOT).testBit (slot % 64)

/-- The position's place in the count vectors: a change of POINT closes the open one. -/
def State.openVec (s : State) (d point : Nat) : State :=
  let s := if (s.rte d).open_ ∧ s.fget (R.RTE_STAT d) F.RTE_STAT_POINT ≠ point then s.closeVec d else s
  let s := if (s.rte d).open_ then s
    else ((s.modRte d fun x => { x with open_ := true, seen := 0, vec := [] }).fset (R.RTE_STAT d) F.RTE_STAT_POS 0).fset
      (R.RTE_STAT d) F.RTE_STAT_POINT point
  s.modRte d fun x => { x with seen := x.seen + 1 }

/-- SCORE_SEGMENT: the segment at the head of the engine's input. -/
def State.scoreSegment (s : State) (d : Nat) : State :=
  let s := s.rteClean d
  let n := 1 + s.fget (R.RTE_CFG2 d) F.RTE_CFG2_NSH
  let k := s.fget (R.RTE_CFG d) F.RTE_CFG_K
  match (s.rte d).inq with
  | [] => s
  | u :: rest =>
    if rest.length + 1 < n ∨ 32 < (s.inq (inKey d 0 40)).length + k then s
    else
      let seg := (u :: rest).take n
      let s := s.modRte d fun x => { x with inq := (u :: rest).drop n }
      if ¬ posZeros u.data then s.rteCnt d (R.RTE_CNT1 d) F.RTE_CNT1_FOREIGN n
      else
        let pu := posOf u.data
        let s := (s.rteCnt d (R.RTE_CNT0 d) F.RTE_CNT0_POSITIONS 1).openVec d pu.point
        let base : XUnit :=
          { dpkg := s.pkgOwn, kind := 3, exp := 0, gate := 0, hpkg := s.pkgOwn, htile := pu.htile, haddr := pu.haddr,
            hexpw := pu.hexpw, hacnt := pu.hacnt, point := pu.point, slot := pu.slot }
        let s :=
          if seg.any (·.psn) then
            ((s.rteCnt d (R.RTE_CNT0 d) F.RTE_CNT0_PSNPOS 1).report (.psn (s.rtePart d) pu.slot)).skipPos d base
          else if s.xset d pu.slot then (s.rteCnt d (R.RTE_CNT0 d) F.RTE_CNT0_XSKIP 1).skipPos d base
          else s.routePos d base ((seg.drop 1).map (·.data))
        let np := s.fget (R.RTE_CFG2 d) F.RTE_CFG2_NPOS
        if np ≠ 0 ∧ np ≤ (s.rte d).seen then s.closeVec d else s

/-- The valid records of a confidence unit (R298). -/
def confRecs (u : SheafBits) : List (Nat × Int) :=
  (List.range 4).filterMap fun i =>
    let v := u.toNat >>> (64 * i)
    if v.testBit 15 then some (bitsOf v 11 0, sext 32 (bitsOf v 63 32)) else none

/-- CONFIDENCE_UNIT: at an exit point the unit at the head of the engine's input is forwarded. -/
def State.confUnit (s : State) (d : Nat) : State :=
  let s := s.rteClean d
  match (s.rte d).inq, s.nextPoint (s.rtePart d) with
  | u :: rest, some r =>
    if r.kind ≠ 2 then s
    else
      let s := s.modRte d fun x => { x with inq := rest }
      if (confRecs u.data).isEmpty then s else s.report (.conf (s.rtePart d) r.point (confRecs u.data))
  | _, _ => s

/-! ## Counts across the slice (R288, R289) -/

/-- A count, poison or confidence report of partition `p`. -/
def isStepRpt (p : Nat) : Rpt → Bool
  | .count q _ _ _ _ => decide (q = p)
  | .psn q _ => decide (q = p)
  | .conf q _ _ => decide (q = p)
  | _ => false

def rptPoint : Rpt → Option Nat
  | .count _ _ pt _ _ => some pt
  | .conf _ pt _ => some pt
  | _ => none

def State.evq (s : State) (q : Nat) : List Rpt := spGet (fun _ => []) s.stw.queues q
def State.setEvq (s : State) (q : Nat) (l : List Rpt) : State :=
  { s with stw := { s.stw with queues := spPut (fun _ => []) s.stw.queues q l } }

/-- The first entry that satisfies `f`, and the list without it. -/
def takeFirst {α : Type} (f : α → Bool) : List α → Option (α × List α)
  | [] => none
  | a :: r => if f a then some (a, r) else (takeFirst f r).map fun x => (x.1, a :: x.2)

/-- The first report that satisfies `f`, from the partition's event queue or else as it arrives. -/
def State.takeRpt (s : State) (q : Nat) (f : Rpt → Bool) : Option (Rpt × State) :=
  match takeFirst f (s.evq q) with
  | some x => some (x.1, s.setEvq q x.2)
  | none => (takeFirst f s.rpt).map fun x => (x.1, { s with rpt := x.2 })

/-- Reports of the partition at a point that the step controller has not taken. -/
def State.rptWaits (s : State) (p pt : Nat) : Bool :=
  (s.evq (p % 4) ++ s.rpt).any fun r => isStepRpt p r && decide (rptPoint r = some pt)

/-- Engines serving the partition. -/
def State.enginesOf (s : State) (p : Nat) : List Nat := (List.range 24).filter fun d => s.rteOn d && decide (s.rtePart d = p)

/-- Every engine with positions at the point has reported, and nothing of the point is on its way. -/
def State.reported (s : State) (p pt : Nat) : Bool :=
  !s.rptWaits p pt &&
    (s.enginesOf p).all fun d =>
      (s.rte d).inq.isEmpty && !((s.rte d).open_ && decide (s.fget (R.RTE_STAT d) F.RTE_STAT_POINT = pt)) &&
        (!Config.routesAt p pt d || decide (0 < spGet (fun _ => 0) (s.stepSt p).from_ d))

/-- Copies of a package taken as missing that wait for a count are late (R284, R289). -/
def State.dropCopies (s : State) (p pkg : Nat) : State :=
  let from_ (r : Run) (g : Nat × List BUnit) : Bool := decide (r.part = p) && r.total.isNone && decide (copySrc g.2 = pkg)
  let n := (s.moe.runs.map fun r => (r.got.filter (from_ r)).length).foldl (· + ·) 0
  (s.setRuns (s.moe.runs.map fun r => { r with got := r.got.filter fun g => !from_ r g })).fadd (R.STEP_SCNT p) F.STEP_SCNT_LATECOPY n

/-- A package taken as missing (R289). -/
def State.takeMissing (s : State) (p pkg : Nat) : State :=
  if (s.stepSt p).missing.contains pkg then s
  else
    let n := (s.stepSt p).missing.length
    let s := (s.modStep p fun x => { x with missing := x.missing ++ [pkg] }).fadd (R.STEP_STAT p) F.STEP_STAT_MISSING 1
    let s := if n < 8 then
        (s.fset (R.STEP_MISSID p n) F.STEP_MISSID_PKG pkg).fset (R.STEP_MISSID p n) F.STEP_MISSID_VALID 1
      else s
    (s.dropCopies p pkg).plainRep 7 (some p) 1700 0 pkg

/-- The next step is released: no package is missing any more (R289). -/
def State.clearMissing (s : State) (p : Nat) : State :=
  let s := (s.modStep p fun x => { x with missing := [] }).fset (R.STEP_STAT p) F.STEP_STAT_MISSING 0
  s.each (List.range 8) fun s k => s.wr (R.STEP_MISSID p k) 0

/-- A count row reaches the step controller: ignored from a package taken as missing; one beyond the plan's bound makes its package
missing (R288 to R290, R301). -/
def State.rowArrive (s : State) (p pt pkg : Nat) (counts : List Nat) : State :=
  match s.pointOf p pt with
  | none => s
  | some r =>
    if (s.stepSt p).missing.contains pkg then s
    else if (s.planOf p).k * r.nposp < counts.foldl (· + ·) 0 then s.takeMissing p pkg
    else s.modStep p fun x =>
      { x with rows := (x.rows.filter fun y => decide (y.1 ≠ pt ∨ y.2.1 ≠ pkg)) ++ [(pt, pkg, counts)] }

/-- The units of a count row (R385). -/
def rowUnits (pt p pkg : Nat) (counts : List Nat) : List Sheaf :=
  ⟨BitVec.ofNat 256 (pt + p * 256 + pkg * 2 ^ 16 + counts.length * 2 ^ 32), false⟩ ::
    (List.range (ceilDiv counts.length 16)).map fun i =>
      ⟨sheafOfBytes ((List.range 16).flatMap fun j => leBytes 2 (counts.getD (16 * i + j) 0)), false⟩

/-- The package's own row formed and sent to every package of the slice and to itself (R288). -/
def State.sendRow (s : State) (p pt : Nat) : State :=
  let own := (s.stepSt p).own
  let counts := (List.range (s.planOf p).nexp).map fun e => spGet (fun _ => 0) own e
  let s := (s.modStep p fun x => { x with sentRow := true }).rowArrive p pt s.pkgOwn counts
  s.each (s.slice.filter fun n => decide (n ≠ s.pkgOwn)) fun s n =>
    (s.fabSend (s.dieToward n) (some p) (msgFlits (s.newMsg (s.dieToward n) 10 n p) (rowUnits pt p s.pkgOwn counts))).1

def State.tryRow (s : State) (p pt : Nat) : State :=
  if (s.stepSt p).sentRow ∨ ¬ s.reported p pt then s else s.sendRow p pt

/-- The counts of a report added to the package's own. -/
def addCounts (own : Sparse Nat) (idx : Nat) (bytes : List Byte) : Sparse Nat :=
  (List.range 32).foldl (fun o j =>
    let e := 32 * idx + j
    spPut (fun _ => 0) o e (min 65535 (spGet (fun _ => 0) o e + ofLeBytes ((bytes.drop (2 * j)).take 2)))) own

/-- A report may be taken now: it names the open point, or none is open. -/
def State.rptReady (s : State) (p : Nat) (r : Rpt) : Bool :=
  isStepRpt p r && (match rptPoint r, (s.stepSt p).open_ with
    | some a, some b => decide (a = b)
    | _, _ => true)

/-- COUNT_REPORT: the next report that the step controller of `p` can take. -/
def State.countReport (s : State) (p : Nat) : State :=
  match s.takeRpt (p % 4) (s.rptReady p) with
  | none => s
  | some (r, s) =>
    match r with
    | .psn _ slot => s.modStep p fun x => { x with gone := if x.gone.contains slot then x.gone else x.gone ++ [slot] }
    | .conf _ pt recs =>
      if s.planBase p = 0 then s
      else (s.modStep p fun x => { x with open_ := some pt, conf := x.conf ++ recs }).setPhase p 4
    | .count _ d pt idx bytes =>
      if s.planBase p = 0 then s
      else
        let s := (s.modStep p fun x =>
          { x with open_ := some pt, own := addCounts x.own idx bytes,
                   from_ := spPut (fun _ => 0) x.from_ d (spGet (fun _ => 0) x.from_ d + 1) }).setPhase p 1
        s.tryRow p pt
    | _ => s

/-- The packages whose rows a point needs. -/
def State.rowPkgs (s : State) : List Nat := s.pkgOwn :: s.slice.filter fun n => decide (n ≠ s.pkgOwn)

def State.hasRow (s : State) (p pt pkg : Nat) : Bool := (s.stepSt p).rows.any fun y => decide (y.1 = pt ∧ y.2.1 = pkg)

/-- COUNT_ROW_TIMEOUT: only once a first row of the next point is in. -/
def State.rowTimeout (s : State) (p : Nat) : State :=
  match s.nextPoint p with
  | none => s
  | some r =>
    if ¬ (s.stepSt p).rows.any (fun y => decide (y.1 = r.point)) then s
    else s.each (s.rowPkgs.filter fun n => !s.hasRow p r.point n) fun s n => s.takeMissing p n

/-! ## The decision (R290 to R292, R295 to R297) -/

/-- The counts of an expert by package: those taken as missing count zero. -/
def State.countsOf (s : State) (p pt e : Nat) : List (Nat × Nat) :=
  ((s.stepSt p).rows.filter fun y => decide (y.1 = pt) && !(s.stepSt p).missing.contains y.2.1).map fun y => (y.2.1, y.2.2.getD e 0)

def sumSnd (l : List (Nat × Nat)) : Nat := (l.map (·.2)).foldl (· + ·) 0

/-- An owned expert at a point: its total, main and spill counts. -/
structure ExpCnt where
  e : Nat
  n : Nat
  m : Nat
  x : Nat
deriving DecidableEq, Repr

def State.expCnts (s : State) (p : Nat) (r : PointRec) : List ExpCnt :=
  ((List.range (s.planOf p).nexp).filter fun e => (s.expertAt p e).2.2).map fun e =>
    let n := sumSnd (s.countsOf p r.point e)
    ⟨e, n, min n (16 * r.cap), n - 16 * r.cap⟩

/-- The block count that a group's bounds are held against. -/
def groupCount (cs : List ExpCnt) (exits : Bool) (exp : Nat) : Nat :=
  if exp = 0xFFFF then (cs.map fun c => ceilDiv c.x 16).foldl (· + ·) 0
  else if exp = 0xFFFE then bit exits
  else ((cs.find? fun c => decide (c.e = exp)).map fun c => ceilDiv c.m 16).getD 0

/-- The least slot whose bound holds the count. -/
def slotFor (bounds : List Nat) (n : Nat) : Nat := (bounds.findIdx? fun b => decide (n ≤ b)).getD (bounds.length - 1)

/-- A group's slot: an exit group takes 1 if a sequence exits. -/
def groupSlot (cs : List ExpCnt) (exits : Bool) (g : GroupRec) : Nat :=
  if g.exp = 0xFFFE then bit exits else slotFor g.bounds (groupCount cs exits g.exp)

def groupBound (cs : List ExpCnt) (g : GroupRec) : Nat := g.bounds.getD (groupSlot cs false g) 0

def GroupRec.tiles (g : GroupRec) : List Nat := ((List.range 64).filter fun t => g.tmask.testBit t).map fun t => g.die * 64 + t

/-- Every tile named at the point has issued the BRV of the point that last used the same register (R292). -/
def State.varsRead (s : State) (gs : List GroupRec) (j : Nat) : Bool :=
  gs.all fun g => g.tiles.all fun t => !(s.tile t).varUnread.testBit j

/-- Step 3 of R291: the slots of the named tiles, the route slot of every die with a group, slot 0 for the other dies with outputs. -/
def State.writeVars (s : State) (p pt : Nat) (gs : List (GroupRec × Nat)) : State :=
  let s := s.each gs fun s x => s.each x.1.tiles fun s g => s.varWrite g (pt % 4) pt x.2 true
  s.each allDies fun s d =>
    match gs.find? fun x => decide (x.1.die = d) with
    | some x => s.netVarWrite d (pt % 4) pt x.2 true
    | none => if (s.outsOf d p).isEmpty then s else s.netVarWrite d (pt % 4) pt 0 true

/-- A run's count written: the copies that came early stay with it (R284). -/
def State.setRun_ (s : State) (r : Run) : State :=
  let same (y : Run) : Bool := decide (y.ld = r.ld ∧ y.q = r.q ∧ y.part = r.part ∧ y.kind = r.kind)
  let early := s.moe.runs.find? fun y => same y && decide (y.point = r.point) && y.total.isNone
  let rest := s.moe.runs.filter fun y => !(same y && (y.finished (s.cunits r.part) || (decide (y.point = r.point) && y.total.isNone)))
  s.setRuns (rest ++ [{ r with got := (early.map (·.got)).getD [] }])

def newRun (l q p pt : Nat) (kind : RunKind) (parts : List (Nat × Nat)) (total : Nat) (out : List Nat) : Run :=
  { ld := l, q := q, part := p, point := pt, kind := kind, parts := parts, total := some total, got := [], header := false,
    shown := 0, padAll := false, out := out }

/-- The link die on which copies from a package land (R353, R354). -/
def State.landDie (s : State) (pkg : Nat) : Nat :=
  let last := match firstHop s.pkgOwn pkg with
    | some v => v
    | none => pkg
  ((directLink s.pkgOwn last).getD 0) / 12

/-- The copies that the forward run from link die `l` toward `t` carries (R381). -/
def State.fwdCount (s : State) (p pt l t : Nat) : Nat :=
  let own := s.pkgOwn
  ((List.range (s.planOf p).nexp).map fun e =>
    let cs := s.countsOf p pt e
    let mine := sumSnd (cs.filter fun c => decide (c.1 = own))
    let others := cs.filter fun c => decide (c.1 ≠ own)
    let at_ := s.expertAt p e
    if at_.2.2 then
      (if Config.copyEntryDie p e % 3 = l ∧ at_.1 = t then mine else 0) +
        sumSnd (others.filter fun c => decide (s.landDie c.1 = l ∧ at_.1 = t)) +
        sumSnd (others.filter fun c => decide (Config.returnEntryDie p e % 3 = l ∧ s.dieToward c.1 = t))
    else if Config.copyEntryDie p e % 3 = l ∧ s.dieToward (s.expertPkg p e) = t then mine else 0).foldl (· + ·) 0

/-- The counts of every run of the point written to the gateways. -/
def State.writeRuns (s : State) (p : Nat) (r : PointRec) (cs : List ExpCnt) (gs : List GroupRec) : State :=
  let blocks (exp n : Nat) : Nat := match gs.find? fun g => decide (g.exp = exp) with
    | some g => groupBound cs g
    | none => ceilDiv n 16
  let out := (s.stepSt p).missing
  let s := s.each cs fun s c =>
    let at_ := s.expertAt p c.e
    s.setRun_ (newRun at_.1 at_.2.1 p r.point (.expert c.e) [(c.e, c.m)] (16 * blocks c.e c.m) out)
  let sp := (cs.filter fun c => decide (0 < c.x)).map fun c => (c.e, c.x)
  let nsp := groupCount cs false 0xFFFF
  let hasSp := gs.any fun g => decide (g.exp = 0xFFFF)
  let s := if hasSp || !sp.isEmpty then s.setRun_ (newRun (r.spld % 3) r.spq p r.point .spill sp (16 * blocks 0xFFFF (16 * nsp)) out) else s
  let fw := [0, 1, 2].flatMap fun l => ([0, 1, 2].filter fun t => decide (t ≠ l)).map fun t => (l, t)
  s.each fw fun s x =>
    match s.fwdQueue x.1 p x.2 with
    | none => s
    | some q => let n := s.fwdCount p r.point x.1 x.2; s.setRun_ (newRun x.1 q p r.point (.fwd x.2) [(0, n)] n out)

/-- Every run at the link dies presents what it can. -/
def State.showAll (s : State) : State := s.each [0, 1, 2] fun s l => s.each (List.range 32) fun s q => s.runShow l q 40

/-- The Bay address of an expert's weights for a layer, by the weight directory (R297, R418). -/
def State.expertWeights (s : State) (p layer e : Nat) : Nat :=
  let m := s.wdir p
  if m = 0 then 0
  else
    ((List.range (s.locNum p (m + 0x10) 4)).findSome? fun n =>
      let a := m + 0x40 + 64 * n
      if s.locNum p a 1 = layer ∧ s.locNum p (a + 2) 2 = e then
        ((List.range (s.locNum p (a + 18) 2)).map fun i => m + s.locNum p (a + 20) 4 + 16 * i).findSome? fun h =>
          if s.locNum p h 2 % 4096 = s.pkgOwn then some (s.locNum p (h + 8) 8) else none
      else none).getD 0

/-- The spill table (R297). -/
def State.spillTable (s : State) (p layer : Nat) (cs : List ExpCnt) : State :=
  let a := s.fget (R.STEP_SPILL p) F.STEP_SPILL_ADDR * 64 % 2 ^ 48
  if a = 0 then s
  else
    let l := cs.filter fun c => decide (0 < c.x)
    s.stewPut p a ((l.flatMap fun c =>
      leBytes 2 c.e ++ leBytes 2 (ceilDiv c.x 16) ++ leBytes 4 c.x ++ leBytes 8 (s.expertWeights p layer c.e) ++ List.replicate 48 0) ++
        leBytes 2 0xFFFF ++ List.replicate 62 0)

/-- STEP_TIME: the cycles of a decision are open. -/
def State.stepTime (s : State) (p : Nat) : State :=
  let f := s.fresh
  let v := f.1 % 2 ^ 32
  let s := f.2.fset (R.STEP_TIME p) F.STEP_TIME_LAST v
  s.fset (R.STEP_TIME p) F.STEP_TIME_MAX (max v (s.fget (R.STEP_TIME p) F.STEP_TIME_MAX))

/-- The step controller's arrival on the channels of the partition that await it; the layer channel is not one of them. -/
def State.stepArrive (s : State) (p : Nat) : State :=
  s.each (List.range 64) fun s ch =>
    let a := R.PKN_CFG ch
    let layer := s.flag (R.PT_SERVE p) F.PT_SERVE_LAYEREN && decide (s.fget (R.PT_SERVE p) F.PT_SERVE_LAYERCH = ch)
    if s.flag a F.PKN_CFG_EN ∧ s.flag a F.PKN_CFG_SCHILD ∧ s.fget a F.PKN_CFG_PART = p ∧ ¬ layer then s.sarr ch else s

/-- The point is decided: counters, phase, and the next point's turn. -/
def State.pointDone (s : State) (p pt : Nat) (slots : List Nat) : State :=
  let s := s.modStep p fun x =>
    { x with open_ := none, own := [], from_ := [], sentRow := false, rows := x.rows.filter fun y => decide (y.1 ≠ pt), conf := [],
             decided := x.decided + 1, lastSlots := slots }
  (((s.stepTime p).fset (R.STEP_STAT p) F.STEP_STAT_POINT pt).setPhase p 0).stepArrive p

/-- POINT_DECIDE. -/
def State.pointDecide (s : State) (p : Nat) : State :=
  match s.nextPoint p with
  | none => s
  | some r =>
    let gs := s.groupsAt p r
    if r.kind ≠ 1 ∨ (s.stepSt p).open_.any (fun x => decide (x ≠ r.point)) ∨
        ¬ s.rowPkgs.all (fun n => s.hasRow p r.point n || (s.stepSt p).missing.contains n) ∨ ¬ s.varsRead gs (r.point % 4) then s
    else
      let cs := s.expCnts p r
      let slots := gs.map fun g => groupSlot cs false g
      let s := (s.writeVars p r.point (List.zip gs slots)).writeRuns p r cs gs
      let s := s.spillTable p r.layer cs
      let x := (cs.map (·.x)).foldl (· + ·) 0
      let s := s.fadd (R.STEP_SCNT p) F.STEP_SCNT_SPILLCOPY x
      let s := if 0 < x then s.fadd (R.STEP_SCNT p) F.STEP_SCNT_SPILLPT 1 else s
      let s := s.fadd (R.STEP_XCNT p) F.STEP_XCNT_ZEROEXP (cs.filter fun c => decide (c.n = 0)).length
      (s.pointDone p r.point slots).showAll

/-! ## Early exit (R298 to R300) -/

/-- The slots that exit: at least one record, and every one reaches the threshold. -/
def exitSlots (thr : Int) (conf : List (Nat × Int)) : List Nat :=
  ((conf.map (·.1)).eraseDups).filter fun i => (conf.filter fun c => decide (c.1 = i)).all fun c => decide (thr ≤ c.2)

def State.setXset (s : State) (d slot : Nat) : State :=
  let a := R.RTE_XSET d (slot / 64)
  let v := s.fget a F.RTE_XSET_SLOT
  if v.testBit (slot % 64) then s else s.fset a F.RTE_XSET_SLOT (v + 2 ^ (slot % 64))

structure TabMap where
  tile : Nat
  addr : Nat
  nent : Nat
deriving DecidableEq, Repr

/-- The table map of the partition's plan (R293). -/
def State.tableMap (s : State) (p : Nat) : List TabMap :=
  let o := (s.planOf p).tmoff
  (List.range (s.planNum p o 4)).map fun i =>
    let v := s.planNum p (o + 4 + 8 * i) 8
    ⟨bitsOf v 10 0, bitsOf v 37 16, bitsOf v 57 48⟩

/-- The length-table entries with a SEQSLOT, in every table of the table map: their tiles and Loft addresses (R299). -/
def State.slotEntries (s : State) (p slot : Nat) : List (Nat × Nat) :=
  (s.tableMap p).flatMap fun t =>
    ((List.range t.nent).filter fun i => decide (Config.entrySlot p t.tile t.addr i = slot)).map fun i => (t.tile, t.addr + 32 * i)

/-- XL of the entries of a sequence slot in every table (R299). -/
def State.writeXl (s : State) (p slot xl : Nat) : State :=
  s.each (s.slotEntries p slot) fun s x => s.putLoftNum x.1 (x.2 + 29) 1 (xl % 128)

/-- No walk of the partition is in flight (R268). -/
def State.walksDone (s : State) (p : Nat) : Bool := s.tiles.all fun x => s.walkFree x.1 || decide (s.tilePart x.1 ≠ some p)

/-- An engine of the tile holds at the BRV of a point (R268). -/
def State.holdsAt (s : State) (g point : Nat) : Bool :=
  engsAll.any fun e => match s.head g e with
    | .instr ⟨_, _, .brv x _⟩ => decide (x = point)
    | _ => false

/-- The exit bitmap in a tile (R300). -/
def State.writeBitmap (s : State) (g fmap : Nat) (slots : List Nat) : State :=
  let v := slots.foldl (fun n i => if n.testBit i then n else n + 2 ^ i) 0
  s.putLoftNum g fmap 512 v

/-- EXIT_POINT_DECIDE: every exit group holds at its BRV and no walk of the partition is in flight (R268, R298 to R300). -/
def State.exitDecide (s : State) (p : Nat) : State :=
  match s.nextPoint p with
  | none => s
  | some r =>
    let gs := s.groupsAt p r
    if r.kind ≠ 2 ∨ (s.stepSt p).open_.any (fun x => decide (x ≠ r.point)) ∨ s.rptWaits p r.point ∨
        ¬ (s.enginesOf p).all (fun d => (s.rte d).inq.isEmpty) ∨ ¬ s.varsRead gs (r.point % 4) ∨ ¬ s.walksDone p ∨
        ¬ ((gs.filter fun x => decide (x.exp = 0xFFFE)).flatMap GroupRec.tiles).all (fun g => s.holdsAt g r.point) then s
    else
      let ex := exitSlots r.xthr (s.stepSt p).conf
      let s := s.each ex fun s i => (s.each (s.diesOf p) fun s d => s.setXset d i).writeXl p i r.layer
      let tiles := (gs.filter fun g => decide (g.exp = 0xFFFE)).flatMap GroupRec.tiles
      let s := if r.policy = 1 then s.each tiles fun s g => s.writeBitmap g r.fmap ex else s
      let s := s.fadd (R.STEP_XCNT p) F.STEP_XCNT_EXITED ex.length
      let s := s.modStep p fun x => { x with exited := x.exited ++ ex.map fun i => (i, r.layer, r.policy) }
      let slots := gs.map fun g => groupSlot [] (!ex.isEmpty) g
      (s.writeVars p r.point (List.zip gs slots)).pointDone p r.point slots

/-! ## Registers (R303, R304) -/

/-- A position's units are being returned. -/
def State.rteBusy (s : State) (d : Nat) : Bool := !(s.inq (inKey d 0 40)).isEmpty

def State.rteCfg (s : State) (d v : Nat) : State :=
  if s.rteBusy d then s
  else
    let a := R.RTE_CFG d
    let s := s.fset a F.RTE_CFG_K (max 1 (min 16 (bitsOf v 4 0)))
    let s := s.fset a F.RTE_CFG_NEXP (max 1 (bitsOf v 20 8))
    let s := s.fset a F.RTE_CFG_GATE (bitsOf v 25 24)
    (s.fset a F.RTE_CFG_EN (bitsOf v 26 26)).fset a F.RTE_CFG_PART (bitsOf v 31 28)

def State.rteCfg2 (s : State) (d v : Nat) : State :=
  if s.rteBusy d then s
  else
  let a := R.RTE_CFG2 d
  let nexp := s.fget (R.RTE_CFG d) F.RTE_CFG_NEXP
  (s.fset a F.RTE_CFG2_NSH (max (bitsOf v 8 0) (ceilDiv nexp 15))).fset a F.RTE_CFG2_NPOS (bitsOf v 31 16)

def State.rteCntClear (s : State) (d : Nat) : State :=
  ((s.wr (R.RTE_CNT0 d) 0).wr (R.RTE_CNT1 d) 0).clearRegs (R.RTE_ECNT d 0) 0x4000

/-- The engine passes to another partition (R304). -/
def State.rteAssign (s : State) (d p : Nat) : State :=
  if s.rtePart d = p ∧ s.rteOn d then s
  else
    let s := ((s.rteCntClear d).clearRegs (R.RTE_XSET d 0) 0x200).clearRegs (R.RTE_EMAP d 0) 0x4000
    s.modRte d fun x => { x with open_ := false, seen := 0, vec := [] }

def State.stepCntClear (s : State) (p : Nat) : State :=
  ((s.fset (R.STEP_TIME p) F.STEP_TIME_MAX 0).wr (R.STEP_SCNT p) 0).wr (R.STEP_XCNT p) 0

/-! ## The plan's checks (R294) -/

/-- A plan's spans end here: the extent of its digest. -/
def planEnd (num : Nat → Nat → Nat) : Nat :=
  let h := planHdr num
  let pts := (List.range h.npt).map fun i => pointRec num (h.ptoff + 32 * i)
  let grps := pts.flatMap fun r => (List.range r.ngrp).map fun i => r.goff + 16 * i
  ([64, h.ptoff + 32 * h.npt, h.emoff + 2 * h.nexp, h.eqoff + 2 * h.nexp, h.tmoff + 4 + 8 * num h.tmoff 4] ++
    (pts.map fun (r : PointRec) => r.goff + 16 * r.ngrp) ++ grps.map fun a => num (a + 12) 4 + 2 * num (a + 3) 1).foldl max 0

def State.planDigestOk (s : State) (p b : Nat) : Bool :=
  let num (o n : Nat) : Nat := s.locNum p (b + o) n
  let bs := (s.locBytes p b (planEnd num)).1
  decide (sm3 (bs.take 0x20 ++ List.replicate 32 0 ++ bs.drop 0x40) = (bs.drop 0x20).take 32)

def pointFieldsOk (r : PointRec) : Bool :=
  r.zeros && decide (1 ≤ r.ngrp ∧ r.ngrp ≤ 1536) &&
    (if r.kind = 1 then decide (1 ≤ r.cap ∧ r.cap ≤ 4095) && decide (r.spld < 3) && decide (1 ≤ r.nposp)
     else decide (r.kind = 2) && decide (r.policy ≤ 1) && decide (r.nposp = 0) &&
       (decide (r.policy = 0) || decide (r.fmap % 512 = 0 ∧ r.fmap < 2 ^ 22)))

def groupFieldsOk (nexp : Nat) (g : GroupRec) : Bool :=
  decide (g.exp < nexp ∨ g.exp = 0xFFFF ∨ g.exp = 0xFFFE) && decide (g.die < 24) && decide (1 ≤ g.nb ∧ g.nb ≤ 63)

/-- Strictly ascending. -/
def ascending : List Nat → Bool
  | a :: b :: r => decide (a < b) && ascending (b :: r)
  | _ => true

/-- The plan as its checks read it: each point with its groups. -/
def planPoints (num : Nat → Nat → Nat) : List (PointRec × List GroupRec) :=
  let h := planHdr num
  (List.range h.npt).map fun i =>
    let r := pointRec num (h.ptoff + 32 * i)
    (r, (List.range r.ngrp).map fun j => groupRec num (r.goff + 16 * j))

def isExpertGroup (g : GroupRec) : Bool := decide (g.exp < 0xFFFE)

/-- The refusals of PLAN_LOAD in the order of R294. -/
def State.planFaults (s : State) (p b : Nat) : List Bool :=
  let num (o n : Nat) : Nat := s.locNum p (b + o) n
  let h := planHdr num
  let pts := planPoints num
  let all := pts.flatMap (·.2)
  let emap := (List.range h.nexp).map fun e => num (h.emoff + 2 * e) 2
  let eq := (List.range h.nexp).map fun e => num (h.eqoff + 2 * e) 2
  let tabs := (List.range (num h.tmoff 4)).map fun i => num (h.tmoff + 4 + 8 * i) 8
  let owned := (eq.filter fun v => v.testBit 15).length
  let two (gs : List GroupRec) : Bool := gs.any fun a => gs.any fun c =>
    decide (a.die = c.die ∧ a.exp ≠ c.exp) && decide (a.tmask &&& c.tmask ≠ 0)
  [!decide (num 0 4 = 0x4E414C50 ∧ num 4 2 = 1) || !s.planDigestOk p b,
   !(decide (1 ≤ h.npt ∧ h.npt ≤ 256 ∧ 1 ≤ h.nexp ∧ h.nexp ≤ 4096) && decide (1 ≤ h.k ∧ h.k ≤ 16 ∧ h.nshared ≤ 15 ∧ 2 ≤ h.cunits) &&
     decide (1 ≤ h.npkg ∧ h.npkg ≤ 4096) && pts.all (fun x => pointFieldsOk x.1) && all.all (groupFieldsOk h.nexp) &&
     emap.all (fun v => decide (v < 4096)) && eq.all (fun v => decide (v % 4 < 3)) && tabs.all (fun v => decide (v % 2048 < 1536))),
   all.any (fun g => isExpertGroup g && (decide (g.bounds.headD 0 ≠ 0) || !ascending g.bounds)),
   pts.any (fun x => x.2.any fun g => isExpertGroup g && decide (g.bounds.getLastD 0 < x.1.cap)),
   pts.any (fun x => x.2.any fun g => decide (g.exp = 0xFFFF) &&
     decide (g.bounds.getLastD 0 < owned * ceilDiv (h.npkg * x.1.nposp - 16 * x.1.cap) 16)),
   pts.any (fun x => two x.2),
   (all.flatMap GroupRec.tiles ++ tabs.map (· % 2048)).any fun t => decide (s.tilePart t ≠ some p),
   all.any (fun g => decide (g.exp = 0xFFFE ∧ g.nb ≠ 2))]

/-- The checks run lazily: a plan that fails one is not read further. -/
def planRefusal (l : List Bool) : List (Bool × Reply) := (List.range l.length).map fun i => refuse (i + 1) (l.getD i false)

/-- A partition's state (R430, R432): 0 IDLE, 1 RUN, 2 PARKED, 3 SWAP, 4 SWAPFAIL, 5 FAILED. -/
def State.ptState (s : State) (p : Nat) : Nat := s.fget (R.PT_CTL p) F.PT_CTL_STATE

/-- A package of the slice that is up, or the own one. -/
def State.livePkg (s : State) (n : Nat) : Bool := decide (n = s.pkgOwn) || s.flag (R.FB_RT 0 n) F.FB_RT_VALID

def cmdPlanLoad (fn p addr : Nat) (s : State) : State × Reply :=
  let b := addr % 2 ^ 48
  let num (o n : Nat) : Nat := s.locNum p (b + o) n
  let h := planHdr num
  let eqs := (List.range h.nexp).map fun e => num (h.eqoff + 2 * e) 2
  s.cmdRead [badAt 8 (decide (addr % 64 ≠ 0 ∨ 2 ^ 48 ≤ addr)), ownPart fn p] p b (planEnd num)
    (planRefusal (s.planFaults p b) ++ [refuse 9 (s.stepSt p).open_.isSome]) fun s =>
    let s := (s.fset (R.STEP_PLAN p) F.STEP_PLAN_ADDR (b / 64)).setExpertQueues p eqs
    let n := (s.planOf p).nexp
    let pk := (List.range n).map fun e => s.expertPkg p e
    let s := s.each (s.diesOf p) fun s d => s.each (List.range n) fun s e => s.fset (R.RTE_EMAP d e) F.RTE_EMAP_PKG (pk.getD e 0)
    let s := s.modStep p fun x => { x with decided := 0 }
    let s := if s.ptState p = 5 ∧ pk.all s.livePkg then
        s.fset (R.PT_CTL p) F.PT_CTL_STATE 0
      else s
    (s.measure (16 + p) 7 (s.locBytes p (b + 0x20) 32).1).told [R.STEP_PLAN p]

def cmdRouteConfig (fn p dies k nexp nsh gate npos : Nat) (s : State) : State × Reply :=
  let ds := (List.range 24).filter fun d => dies.testBit d
  s.cmd [badAt 8 (decide (k = 0 ∨ 16 < k)), badAt 10 (decide (nexp = 0 ∨ 4096 < nexp)), badAt 12 (decide (276 < nsh ∨ 15 * nsh < nexp)),
    badAt 16 (decide (65535 < npos)), ownPart fn p,
    (decide (fn ≠ 0) && ds.any (fun d => !(s.diesOf p).contains d || (s.rteOn d && decide (s.rtePart d ≠ p))), .notPermitted)] fun s =>
    (s.each ds fun s d =>
      if s.rteBusy d then s
      else
        let s := s.rteAssign d p
        (s.rteCfg d (k + nexp * 2 ^ 8 + gate * 2 ^ 24 + 2 ^ 26 + p * 2 ^ 28)).rteCfg2 d (nsh + npos * 2 ^ 16)).told
      (ds.flatMap fun d => [R.RTE_CFG d, R.RTE_CFG2 d])

def cmdRouteStats (fn p : Nat) (clr : Bool) (s : State) : State × Reply :=
  s.cmd [ownPart fn p] fun s =>
    let ds := s.enginesOf p
    let n := (ds.map fun d => s.fget (R.RTE_CFG d) F.RTE_CFG_NEXP).foldl max 0
    let per := (List.range n).map fun e => s.sumFld (ds.map fun d => R.RTE_ECNT d e) F.RTE_ECNT_COPIES
    let sum := per.foldl (· + ·) 0
    let mx := per.foldl max 0
    let c0 := ds.map R.RTE_CNT0
    let c1 := ds.map R.RTE_CNT1
    let l := capped 2000 per
    let out := lay (layList (l.1.map fun v => (8, v)) ++
      [(8, mx), (8, sum / max 1 n), (4, mx * 65536 / max 1 sum), (8, s.sumFld c0 F.RTE_CNT0_POSITIONS), (8, s.sumFld c0 F.RTE_CNT0_PSNPOS),
       (8, s.sumFld c0 F.RTE_CNT0_XSKIP), (8, s.sumFld c1 F.RTE_CNT1_TIES), (8, s.sumFld c1 F.RTE_CNT1_FORMAT),
       (8, s.sumFld c1 F.RTE_CNT1_FOREIGN), (4, l.2)])
    (if clr then s.each ds fun s d => s.rteCntClear d else s, .ok out)

def cmdStepStatus (fn p : Nat) (s : State) : State × Reply :=
  s.cmd [ownPart fn p] fun s =>
    (s, .ok (lay ([(4, (s.rd (R.STEP_STAT p)).toNat), (8, (s.rd (R.STEP_TIME p)).toNat), (8, (s.rd (R.STEP_SCNT p)).toNat),
      (8, (s.rd (R.STEP_XCNT p)).toNat)] ++ layList ((s.stepSt p).lastSlots.map fun v => (1, v)))))

def cmdStepSpillbuf (fn p addr size : Nat) (s : State) : State × Reply :=
  s.cmd [badAt 8 (decide (addr % 64 ≠ 0)), ownPart fn p, refuse 1 (decide (size < 64 * ((s.planOf p).nexp + 1)))] fun s =>
    (s.fset (R.STEP_SPILL p) F.STEP_SPILL_ADDR (addr / 64)).told [R.STEP_SPILL p]

end Sys2Proof.Machine
end

