-- ==== Sys2Proof/Machine/Sm2.lean ====
section
/-! DEFINITION. SM2 (R466, R467): the recommended curve, signatures, the responder's side of the key exchange, and the part's two key pairs.
The manual names the standards and does not restate them: curve, formulas and byte order are PRESUMED from those standards (log entry 119). -/

namespace Sys2Proof.Machine

/-! ## The curve y² = x³ + ax + b over the field of `sm2P` elements, with base point `sm2G` of order `sm2N` -/

def sm2P : Nat := 0xFFFFFFFEFFFFFFFFFFFFFFFFFFFFFFFFFFFFFFFF00000000FFFFFFFFFFFFFFFF
def sm2A : Nat := sm2P - 3
def sm2B : Nat := 0x28E9FA9E9D9F5E344D5A9E4BCF6509A7F39789F515AB8F92DDBCBD414D940E93
def sm2N : Nat := 0xFFFFFFFEFFFFFFFFFFFFFFFFFFFFFFFF7203DF6B21C6052B53BBF40939D54123
def sm2Gx : Nat := 0x32C4AE2C1F1981195F9904466A39C9948FE30BBFF2660BE1715A4589334C74C7
def sm2Gy : Nat := 0xBC3736A2F4F6779C59BDCEE36B692153D0A9877CC62A474002DF32E52139F0A0

/-- A power modulo `m` by the lowest `k` bits of the exponent. -/
def powMod (m b e : Nat) : Nat → Nat
  | 0 => 1 % m
  | k + 1 =>
    let h := powMod m b (e / 2) k
    let q := h * h % m
    if e % 2 = 1 then q * b % m else q

/-- The inverse modulo a 256-bit prime (Fermat). -/
def invMod (m b : Nat) : Nat := powMod m (b % m) (m - 2) 256

def fMul (a b : Nat) : Nat := a * b % sm2P
def fSub (a b : Nat) : Nat := (a + sm2P - b) % sm2P

/-- A point in Jacobian coordinates: (x/z², y/z³); z = 0 is the point at infinity. -/
structure JPoint where
  x : Nat
  y : Nat
  z : Nat
deriving DecidableEq, Repr

def JPoint.zero : JPoint := ⟨1, 1, 0⟩
def sm2G : JPoint := ⟨sm2Gx, sm2Gy, 1⟩

def JPoint.dbl (p : JPoint) : JPoint :=
  if p.z = 0 ∨ p.y = 0 then .zero
  else
    let yy := fMul p.y p.y
    let s := fMul 4 (fMul p.x yy)
    let zz := fMul p.z p.z
    let m := (3 * fMul p.x p.x + fMul sm2A (fMul zz zz)) % sm2P
    let x := fSub (fMul m m) (2 * s % sm2P)
    ⟨x, fSub (fMul m (fSub s x)) (fMul 8 (fMul yy yy)), fMul 2 (fMul p.y p.z)⟩

def JPoint.add (p q : JPoint) : JPoint :=
  if p.z = 0 then q
  else if q.z = 0 then p
  else
    let pz := fMul p.z p.z
    let qz := fMul q.z q.z
    let u := fMul p.x qz
    let h := fSub (fMul q.x pz) u
    let v := fMul p.y (fMul qz q.z)
    let r := fSub (fMul q.y (fMul pz p.z)) v
    if h = 0 then (if r = 0 then p.dbl else .zero)
    else
      let hh := fMul h h
      let hhh := fMul h hh
      let uh := fMul u hh
      let x := fSub (fSub (fMul r r) hhh) (2 * uh % sm2P)
      ⟨x, fSub (fMul r (fSub uh x)) (fMul v hhh), fMul h (fMul p.z q.z)⟩

/-- The lowest `k` bits of `n` times a point. -/
def JPoint.mulBits (p : JPoint) (n : Nat) : Nat → JPoint
  | 0 => .zero
  | k + 1 =>
    let h := (p.mulBits (n / 2) k).dbl
    if n % 2 = 1 then h.add p else h

def JPoint.mul (n : Nat) (p : JPoint) : JPoint := p.mulBits n 256

/-- The affine coordinates, or none at infinity. -/
def JPoint.affine (p : JPoint) : Option (Nat × Nat) :=
  if p.z = 0 then none
  else
    let i := invMod sm2P p.z
    let ii := fMul i i
    some (fMul p.x ii, fMul p.y (fMul ii i))

/-- A point of the curve as 64 bytes, x then y. -/
def pointBytes (p : Nat × Nat) : List Byte := beBytes 32 p.1 ++ beBytes 32 p.2
def pointOf (b : List Byte) : Nat × Nat := (ofBeBytes (b.take 32), ofBeBytes ((b.drop 32).take 32))
def onCurve (p : Nat × Nat) : Bool :=
  decide (p.1 < sm2P ∧ p.2 < sm2P) && decide (fMul p.2 p.2 = (fMul p.1 (fMul p.1 p.1) + fMul sm2A p.1 + sm2B) % sm2P)
def jOf (p : Nat × Nat) : JPoint := ⟨p.1, p.2, 1⟩

/-- The public key of a private one. -/
def sm2Pub (d : Nat) : List Byte := pointBytes (((sm2G.mul d).affine).getD (0, 0))

/-! ## Signatures -/

/-- The default distinguishing identifier (R466). -/
def sm2Id : List Byte := [0x31, 0x32, 0x33, 0x34, 0x35, 0x36, 0x37, 0x38, 0x31, 0x32, 0x33, 0x34, 0x35, 0x36, 0x37, 0x38]

/-- The digest Z of a user: the identifier, the curve and the public key. -/
def sm2Z (pub : List Byte) : List Byte :=
  sm3 (beBytes 2 (8 * sm2Id.length) ++ sm2Id ++ beBytes 32 sm2A ++ beBytes 32 sm2B ++ pointBytes (sm2Gx, sm2Gy) ++ pub.take 64)

def sm2Digest (pub m : List Byte) : Nat := ofBeBytes (sm3 (sm2Z pub ++ m))

/-- Whether a signature, r then s, of a message verifies under a public key. -/
def sm2Verify (pub m sig : List Byte) : Bool :=
  let r := ofBeBytes (sig.take 32)
  let s := ofBeBytes ((sig.drop 32).take 32)
  let t := (r + s) % sm2N
  if sig.length ≠ 64 ∨ r = 0 ∨ sm2N ≤ r ∨ s = 0 ∨ sm2N ≤ s ∨ t = 0 then false
  else
    match ((sm2G.mul s).add ((jOf (pointOf pub)).mul t)).affine with
    | none => false
    | some a => decide ((sm2Digest pub m + a.1) % sm2N = r)

/-- A random number of 1 to n − 1 from a draw of the DRBG. -/
def sm2Rand (draw : Nat) : Nat := 1 + draw % (sm2N - 1)

/-- The pair r, s of one random number, or none where the standard takes another. -/
def sm2Try (d k e : Nat) : Option (Nat × Nat) :=
  match (sm2G.mul k).affine with
  | none => none
  | some a =>
    let r := (e + a.1) % sm2N
    let s := invMod sm2N (1 + d) * (k + sm2N * sm2N - r * d) % sm2N
    if r = 0 ∨ r + k = sm2N ∨ s = 0 then none else some (r, s)

/-- The first of `fuel` random numbers that serves. -/
def sm2SignFrom (d e draw : Nat) : Nat → Nat × Nat
  | 0 => (0, 0)
  | fuel + 1 =>
    match sm2Try d (sm2Rand draw) e with
    | some x => x
    | none => sm2SignFrom d e (draw + 1) fuel

/-- The signature of a message under a private key and a draw of the DRBG. -/
def sm2Sign (d draw : Nat) (m : List Byte) : List Byte := pointBytes (sm2SignFrom d (sm2Digest (sm2Pub d) m) draw 8)

/-! ## Key exchange, as responder -/

/-- What an exchange gives: the own ephemeral point, the shared key, and the confirmations S_B and S_A. -/
structure Exchange where
  eb : List Byte
  key : List Byte
  sb : List Byte
  sa : List Byte
deriving DecidableEq, Repr

def xBar (x : Nat) : Nat := 2 ^ 127 + x % 2 ^ 127

/-- The responder of private key `d` with a draw meets the initiator's static key and ephemeral point; none where the standard ends the
exchange: the point is not on the curve, or the shared point is at infinity. -/
def sm2Respond (d draw : Nat) (pubA ea : List Byte) : Option Exchange :=
  let r := sm2Rand draw
  let ra := pointOf ea
  let rb := ((sm2G.mul r).affine).getD (0, 0)
  let t := (d + xBar rb.1 * r) % sm2N
  if ea.length ≠ 64 ∨ ¬ onCurve ra then none
  else
    match (((jOf (pointOf pubA)).add ((jOf ra).mul (xBar ra.1))).mul t).affine with
    | none => none
    | some v =>
      let za := sm2Z pubA
      let zb := sm2Z (sm2Pub d)
      let eb := pointBytes rb
      let inner := sm3 (beBytes 32 v.1 ++ za ++ zb ++ ea ++ eb)
      some { eb := eb, key := kdfSm3 (beBytes 32 v.1 ++ beBytes 32 v.2 ++ za ++ zb) 32,
             sb := sm3 (0x02 :: beBytes 32 v.2 ++ inner), sa := sm3 (0x03 :: beBytes 32 v.2 ++ inner) }

/-! ## The part's keys (R467, R468) -/

/-- A private key derived under a label: the first counter from `c` whose value is at most n − 3, among `fuel`. -/
def privFrom (label : List Byte) (c : Nat) : Nat → Nat
  | 0 => 1
  | fuel + 1 =>
    let v := ofBeBytes (kdfSm3 (leBytes 32 Config.uds ++ label ++ leBytes 4 c) 32)
    if v + 3 ≤ sm2N then v + 1 else privFrom label (c + 1) fuel

/-- The device identity key, which signs. -/
def dikPriv : Nat := privFrom [0x44, 0x49, 0x4B, 0x53] 0 64
/-- The device wrapping key, which takes part in key exchange. -/
def dwkPriv : Nat := privFrom [0x44, 0x57, 0x4B, 0x58] 0 64

end Sys2Proof.Machine
end

