-- ==== Sys2Proof/Machine/LinkCtl.lean ====
section
/-! DEFINITION. The life of a link (R350 to R352, R361 to R365, R369, R392, R471, R472): training, beacons and the map check, receiving
flits, replay, going DOWN; and the steward's routes (R366 to R372). -/

namespace Sys2Proof.Machine

def State.linkCnt (s : State) (k : Nat) (a : Nat) (f : Fld) (n : Nat) : State := s.dieCnt (28 + k / 12) a f n
def State.stale (s : State) (l n : Nat) : State := s.dieCnt (28 + l) (R.FB_RCPT1 l) F.FB_RCPT1_STALE n
/-- A fault of a link die, class FABRIC (R509). -/
def State.fabFault (s : State) (l : Nat) (p : Option Nat) (d1 d2 : Nat) : State := s.plainRep 6 p (dieIsland (28 + l)) d1 d2

/-- The fabric domain id, held by the security module (R396). -/
def State.domain (s : State) : Nat := s.fget R.SEC_DOMAIN F.SEC_DOMAIN_ID
def State.fabMode (s : State) (l : Nat) : Nat := s.fget (R.FB_CTL l) F.FB_CTL_MODE
def State.isTwin (s : State) : Bool := s.flag (R.FB_CTL 0) F.FB_CTL_TWIN

/-! ## Routes (R354, R356, R366, R371) -/

/-- The own link that reaches a package directly and is UP: that of R353, else an uplink to a listed peer (R356). -/
def State.directUp (s : State) (n : Nat) : Option Nat :=
  let up (k : Nat) : Bool := decide (s.linkState k = 4)
  match (directLink s.pkgOwn n).filter up with
  | some k => some k
  | none => if up 35 ∧ s.fget (R.LNK_STAT 35) F.LNK_STAT_PEER = n then some 35 else none

/-- Package `r` reaches `n` directly: by R353, or by an uplink that the map lists. -/
def State.reaches (s : State) (r n : Nat) : Bool :=
  ((directLink r n).isSome || (match s.fab.map with
    | some m => m.ups.any fun u => decide (u.loc = r ∧ u.peer = n)
    | none => false)) && Config.farLinkUp r n

/-- A live relay whose links to both ends are UP. -/
def State.relayOk (s : State) (n r : Nat) : Bool :=
  decide (r ≠ n ∧ r ≠ s.pkgOwn) && s.flag (R.FB_RT 0 r) F.FB_RT_VALID && (s.directUp r).isSome && s.reaches r n

/-- A relay receives and sends on one link die. -/
def relaySameDie (own n r : Nat) : Bool :=
  match directLink r own, directLink r n with
  | some a, some b => decide (a / 12 = b / 12)
  | _, _ => false

/-- The relays of R371 in the order in which they are chosen. -/
def State.relays (s : State) (n : Nat) : List Nat :=
  let own := s.pkgOwn
  let sort (l : List Nat) : List Nat := (l.filter (relaySameDie own n)) ++ (l.filter fun r => !relaySameDie own n r)
  let live := s.slice.filter (s.relayOk n)
  if own / 32 ≠ n / 32 ∧ own / 64 = n / 64 then
    let c := (n % 32 + 32 - own % 32) % 32 / 8
    let crossed := (List.range 4).filterMap fun i => linkPeer own (31 + (c + i) % 4)
    (crossed.filter (s.relayOk n)) ++ sort (live.filter fun r => decide (r / 32 = own / 32))
  else sort live

/-- The routes to a package that stand now, best first: direct, the default relay, then the relays of R371. -/
def State.routesNow (s : State) (n : Nat) : List (Nat × Nat) :=
  let direct := match s.directUp n with
    | some k => [(k, n)]
    | none => []
  let dflt := match firstHop s.pkgOwn n with
    | some h => if h ≠ n ∧ s.relayOk n h then [h] else []
    | none => []
  let via := (dflt ++ s.relays n).eraseDups.filterMap fun r => (s.directUp r).map fun k => (k, r)
  direct ++ via

/-- A routing entry written whole in all three link dies (R366). -/
def State.rtPut (s : State) (n v : Nat) : State := s.each [0, 1, 2] fun s l => s.wr (R.FB_RT l n) (BitVec.ofNat 64 v)

def rtWord (link via link2 via2 : Nat) (valid altv useAlt : Bool) : Nat :=
  link % 64 + via % 4096 * 2 ^ 6 + link2 % 64 * 2 ^ 18 + via2 % 4096 * 2 ^ 24 + bit valid * 2 ^ 36 + bit altv * 2 ^ 37 + bit useAlt * 2 ^ 38

/-- The steward's recomputation of one entry: the best route, and the next one as alternative (R371). Where no route stands, the default
route is written, and messages are answered UNREACH while its link is not UP. -/
def State.reroute1 (s : State) (n : Nat) : State :=
  if n = s.pkgOwn ∨ ¬ s.flag (R.FB_RT 0 n) F.FB_RT_VALID then s
  else
    let h := (firstHop s.pkgOwn n).getD n
    match s.routesNow n with
    | [] => s.rtPut n (rtWord ((directLink s.pkgOwn h).getD 35) h 0 0 true false false)
    | [a] => s.rtPut n (rtWord a.1 a.2 0 0 true false false)
    | a :: b :: _ => s.rtPut n (rtWord a.1 a.2 b.1 b.2 true true false)

def State.reroute (s : State) : State := s.each s.routed fun s n => s.reroute1 n

/-- The logical order closed again (R372): the fabric tree of every channel of appliance scope is rebuilt. -/
def State.closeOrder (s : State) : State :=
  s.each ((List.range 64).filter fun ch => s.flag (R.FBN_CFG 0 ch) F.FBN_CFG_EN) fun s ch => s.fabTree ch (s.fget (R.FBN_CFG 0 ch) F.FBN_CFG_PART)

/-- The pages of the own partitions that were moved to guest frames of a lost package (R515). A stream page rests with its owner and was
not moved there: it is lost when its next fetch fails (R321). -/
def State.losePages (s : State) (n : Nat) : State :=
  s.each s.mem.map fun s e =>
    if e.2.st = .yard ∧ e.2.loc % 4096 = n then
      match (s.partOf (e.1 * 65536)).bind fun p => (s.locate p (e.1 * 65536)).map fun u => (p, u.rgn.kind) with
      | none => s
      | some (p, kind) =>
        if kind = 1 ∧ (s.streamOf p).isSome then s
        else (s.quotaSub 28 p (kindFrames kind)).setMapEnt e.1 { e.2 with st := .lost, loc := 0 }
    else s

/-- A package lost (R370 steps 5 and 6): its entry loses VALID, routes and the logical order are computed again. -/
def State.losePkg (s : State) (n : Nat) : State :=
  if n = s.pkgOwn ∨ s.fab.lost.contains n then s
  else
    let s := { s with fab := { s.fab with lost := s.fab.lost ++ [n], probes := s.fab.probes.filter fun m => decide (m ≠ n) } }
    let s := s.each [0, 1, 2] fun s l => s.fset (R.FB_RT l n) F.FB_RT_VALID 0
    ((s.reroute.closeOrder).losePages n).plainRep 7 none 1700 0 n

/-- A NOTICE (R358): one unit with the subject package and the partition or 0xFFFF. -/
def State.noticeTo (s : State) (dst kind subject part : Nat) : State :=
  let f := { Flit.blank with typ := 14, vc := 0, src := s.pkgOwn, dst := dst, aux := kind, units := [BitVec.ofNat 256 (subject + part * 2 ^ 16)] }
  (s.fabSend (((s.routeTo dst).map fun x => x.1 / 12).getD 0) none [f]).1

/-- A NOTICE sent to every other package of the slice. -/
def State.noticeAll (s : State) (kind subject part : Nat) : State :=
  s.each (s.slice.filter fun n => decide (n ≠ s.pkgOwn)) fun s n => s.noticeTo n kind subject part

/-! ## Going DOWN (R352, R369, R370 steps 1 to 3) -/

/-- USEALT set on every entry that leaves by the link and whose alternative is UP. -/
def State.useAlt (s : State) (k : Nat) : State :=
  s.each s.routed fun s n =>
    let a := R.FB_RT 0 n
    if s.fget a F.FB_RT_LINK = k ∧ s.flag a F.FB_RT_ALTV ∧ s.linkState (s.fget a F.FB_RT_LINK2) = 4 then
      s.each [0, 1, 2] fun s l => s.fset (R.FB_RT l n) F.FB_RT_USEALT 1
    else s

/-- A flit of a dead link sent again on its new route (R369), or discarded as STALE where it was only relayed (R393). -/
def State.resend (s : State) (k : Nat) (t : TxFlit) : State :=
  if t.flit.hop then s.stale (k / 12) 1
  else if t.flit.typ = 13 then s
  else
    match s.routeTo t.flit.dst with
    | some (k2, _) => s.linkQueue k2 [t]
    | none => s

/-- A package whose link died is probed by any UP route. -/
def State.probe (s : State) (n : Nat) : State :=
  if n ≠ s.pkgOwn ∧ s.flag (R.FB_RT 0 n) F.FB_RT_VALID ∧ ¬ s.fab.probes.contains n then
    ({ s with fab := { s.fab with probes := s.fab.probes ++ [n] } }).noticeTo n 1 n 0xFFFF
  else s

/-- The transmitter emptied at DOWN or before training. -/
def LinkSt.cleared (x : LinkSt) : LinkSt :=
  { LinkSt.idle with rx := x.rx, held := x.held, parts := x.parts, attempts := x.attempts, refLost := x.refLost, out := x.out }

/-- A link in UP, BEACON or HELD goes DOWN; the barrier channels that used it are reported lost (R199). -/
def State.linkGoDown (s : State) (k : Nat) : State :=
  let x := s.link k
  let n := s.fget (R.LNK_STAT k) F.LNK_STAT_PEER
  let wasUp := decide (s.linkState k = 4)
  let s := (s.setLinkState k 5).linkCnt k (R.LNK_CNT1 k) F.LNK_CNT1_DOWN 1
  let s := (s.setLink k x.cleared).useAlt k
  let s := s.each (x.sent.map (·.tx) ++ x.txq) fun s t => s.resend k t
  if wasUp then (s.probe n).chansLost k else s

/-- LINK_DOWN: the cause must be one the link's state allows. A link still in BEACON fails its attempt: after the third it stays OFF. -/
def State.linkDown (s : State) (k : Nat) (why : DownWhy) : State :=
  let st := s.linkState k
  let ok : Bool :=
    (decide (st = 2) || decide (st = 3) || decide (st = 4)) &&
    match why with
    | .lock => true
    | .silent => true
    | .refclk => true
    | .beacon => decide (st = 2)
    | .replays => (s.link k).sent.any fun t => decide (8 ≤ t.reps)
  if ¬ ok then s
  else
    let s := s.linkGoDown k
    let s := if st = 2 ∧ 3 ≤ (s.link k).attempts then s.setLinkState k 0 else s
    if why = .refclk then s.setLink k { s.link k with refLost := true } else s

/-! ## Beacons (R362 to R365) -/

def beaconMagic : Nat := 0x4E434542

/-- Bytes 0 to 111 of the own beacon on a link; the key is the public part of DIK (R468). -/
def State.beaconHead (s : State) (k : Nat) (echo : List Byte) : List Byte :=
  let own := s.pkgOwn
  leBytes 4 beaconMagic ++ leBytes 2 own ++ leBytes 1 (own % 32) ++ leBytes 1 k ++ leBytes 2 s.domain ++
    leBytes 1 (s.fabMode (k / 12) + 2 * bit s.isTwin) ++ List.replicate 5 0 ++ (s.link k).nonce ++ echo ++ sm2Pub dikPriv

/-- The signature of DIK over a message (R468); what stands there when the module no longer holds the key is free. -/
def State.dikSign (s : State) (draw : Nat) (m : List Byte) : List Byte :=
  if s.sec.alive then sm2Sign dikPriv draw m else leBytes 64 draw

/-- A beacon queued on its link. -/
def State.sendBeacon (s : State) (k round : Nat) (echo : List Byte) : State :=
  let h := s.beaconHead k echo
  let fr := s.fresh
  let pay := h ++ s.dikSign fr.1 h ++ List.replicate 80 0
  let units := (List.range 8).map fun i => sheafOfBytes ((pay.drop (32 * i)).take 32)
  let f := { Flit.blank with typ := 13, vc := 0, src := s.pkgOwn, dst := (linkPeer s.pkgOwn k).getD 0, aux := round, units := units }
  fr.2.linkQueue k [⟨f, none⟩]

/-- The first check of R364 and R472 that a beacon fails, or 0. In the error state no link stands in UP, as R482 holds it with cause 7. -/
def State.beaconCause (s : State) (k : Nat) (b : List Byte) : Nat :=
  let own := s.pkgOwn
  let pkg := ofLeBytes ((b.drop 4).take 2)
  let lnk := ofLeBytes ((b.drop 7).take 1)
  let key := sm3 ((b.drop 48).take 64)
  let dig : Option (List Byte) := match s.fab.map with
    | none => none
    | some m =>
      if k = 35 then (m.ups.find? fun u => decide (u.loc = own ∧ u.peer = pkg)).map (·.digest)
      else (m.pkgs.find? fun e => decide (e.pkg = pkg)).map (·.digest)
  if k ≠ 35 ∧ linkPeer own k ≠ some pkg then 1
  else if lnk ≠ (if k = 35 then 35 else (directLink pkg own).getD 63) then 2
  else if ofLeBytes ((b.drop 8).take 2) ≠ s.domain then 3
  else if ofLeBytes ((b.drop 10).take 1) % 2 ≠ s.fabMode (k / 12) then 4
  else
    match dig with
    | none => 6
    | some d => if d ≠ key then 5 else if s.sec.kd.isNone ∨ s.secErr then 7 else 0

/-- The link's keys (R467, R471): the first half sends from the lower package, or from the lower link where both ids are one. -/
def State.linkKeys (s : State) (k : Nat) (b : List Byte) : LinkSt :=
  let x := s.link k
  let own := s.pkgOwn
  let pkg := ofLeBytes ((b.drop 4).take 2)
  let lnk := ofLeBytes ((b.drop 7).take 1)
  let lower := decide (own < pkg) || (decide (own = pkg) && decide (k < lnk))
  let ctx := if lower then leBytes 2 own ++ leBytes 2 pkg ++ leBytes 1 k ++ leBytes 1 lnk ++ x.nonce ++ x.peerNonce
    else leBytes 2 pkg ++ leBytes 2 own ++ leBytes 1 lnk ++ leBytes 1 k ++ x.peerNonce ++ x.nonce
  let key := kdfSm3 ((s.sec.kd.getD []) ++ [0x4C, 0x49, 0x4E, 0x4B] ++ ctx) 32
  let a := key.take 16
  let c := key.drop 16
  { x with txKey := if lower then a else c, rxKey := if lower then c else a, lowerEnd := lower, attempts := 0 }

/-- The map check of R364: the link enters UP or HELD. -/
def State.mapCheck (s : State) (k : Nat) (b : List Byte) : State :=
  let c := s.beaconCause k b
  let s := s.fset (R.LNK_STAT k) F.LNK_STAT_PEER (ofLeBytes ((b.drop 4).take 2))
  let s := s.fset (R.LNK_STAT k) F.LNK_STAT_PEERLINK (ofLeBytes ((b.drop 7).take 1))
  let s := s.fset (R.LNK_STAT k) F.LNK_STAT_HCAUSE c
  if c = 0 then
    (((s.setLink k (s.linkKeys k b)).setLinkState k 4).reroute).linkFlush k
  else
    let s := ((s.setLink k { s.link k with attempts := 0 }).setLinkState k 3).fabFault (k / 12) none 0 k
    if c = 5 then s.secEvent .heldKey else s

/-- A beacon received in BEACON (R363). -/
def State.beaconRecv (s : State) (k round : Nat) (b : List Byte) : State :=
  if s.linkState k ≠ 2 ∨ b.length ≠ 256 ∨ ofLeBytes (b.take 4) ≠ beaconMagic then s
  else
    let x := s.link k
    let nonce := (b.drop 16).take 16
    if round = 1 then (s.setLink k { x with peerNonce := nonce }).sendBeacon k 2 nonce
    else if round = 2 ∧ (b.drop 32).take 16 = x.nonce ∧ sm2Verify ((b.drop 48).take 64) (b.take 112) ((b.drop 112).take 64) then
      (s.setLink k { x with peerNonce := nonce, beacon := some b }).mapCheck k b
    else s

/-! ## Training (R351, R352) -/

/-- How an attempt ends: the link reaches BEACON with the beacons that arrive within step 5, or it fails and goes DOWN, or OFF when it was the
third. -/
def State.trainEnd (s : State) (k : Nat) (lanes ctrOk : Bool) (beacons : List (Nat × List Byte)) : State :=
  if ¬ (lanes ∧ ctrOk) then
    if 3 ≤ (s.link k).attempts then s.setLinkState k 0 else (s.setLinkState k 5).linkCnt k (R.LNK_CNT1 k) F.LNK_CNT1_DOWN 1
  else
    let fr := s.fresh
    let s := fr.2
    let x := (s.link k).cleared
    let s := ((s.setLink k { x with nonce := leBytes 16 fr.1 }).setLinkState k 2).sendBeacon k 1 (List.replicate 16 0)
    s.each beacons fun s b => s.beaconRecv k b.1 b.2

/-- Links 31 to 34 train only in a twin rack; no link trains before STW_LOC is locked (R22, R353, R396). -/
def State.mayTrain (s : State) (k : Nat) : Bool :=
  s.flag R.STW_LOC F.STW_LOC_LOCK && (!(decide (31 ≤ k) && decide (k ≤ 34)) || s.isTwin)

/-- LINK_TRAIN: a link in OFF enters TRAIN, unless three attempts failed or FAB_LINK turned it off; one in TRAIN ends its attempt (log
entry 160). -/
def State.linkTrain (s : State) (k : Nat) (lanes ctrOk : Bool) (beacons : List (Nat × List Byte)) : State :=
  let st := s.linkState k
  if ¬ s.mayTrain k then s
  else if st = 1 then s.trainEnd k lanes ctrOk beacons
  else if st ≠ 0 ∨ 3 ≤ (s.link k).attempts then s
  else (s.setLink k { s.link k with attempts := 0 }).setLinkState k 1

/-- LINK_RETRAIN: a DOWN link enters TRAIN for one of its three attempts; one in TRAIN ends its attempt. -/
def State.linkRetrain (s : State) (k : Nat) (lanes ctrOk : Bool) (beacons : List (Nat × List Byte)) : State :=
  let x := s.link k
  if ¬ s.mayTrain k then s
  else if s.linkState k = 1 then s.trainEnd k lanes ctrOk beacons
  else if s.linkState k ≠ 5 ∨ x.refLost ∨ 3 ≤ x.attempts then s
  else (s.setLink k { x with attempts := x.attempts + 1 }).setLinkState k 1

/-! ## Receiving (R359, R361, R392) -/

/-- The first discard since a good flit returns a NAK. -/
def State.rxDiscard (s : State) (k : Nat) : State :=
  let x := s.link k
  if x.nakSent then s else (s.setLink k { x with nakSent := true }).linkIdle k true

/-- What a received flit says of the own transmissions: acknowledgement, replay request, credits. -/
def LinkSt.ackTake (x : LinkSt) (f : Flit) : LinkSt :=
  let x :=
    if f.ackv then
      match x.sent.findIdx? fun t => decide (t.f % 2 ^ 16 = f.lack) with
      | some i => { x with sent := x.sent.drop (i + 1) }
      | none => x
    else x
  let x := if f.nak then { x with replayDue := true } else x
  if f.crvc < 5 then { x with credits := setNth x.credits f.crvc (min 64 (x.credits.getD f.crvc 0 + f.crn)) } else x

/-- A channel's credit owed once its flit has left the receiver's buffer. -/
def LinkSt.owe (x : LinkSt) (vc : Nat) : LinkSt := { x with owed := setNth x.owed vc (x.owed.getD vc 0 + 1) }

/-- What the injector does to a received flit: its MODE, where it selects the flit (R392). -/
def State.injected (s : State) (k typ : Nat) : Nat × State :=
  let a := R.LNK_INJ k
  let m := s.fget a F.LNK_INJ_MODE
  if ¬ s.flag R.SEC_DEBUG F.SEC_DEBUG_INJECT ∨ m = 0 ∨ typ = 0 ∨ typ = 13 ∨ typ = 14 then (0, s)
  else
    let fr := s.fresh
    if fr.1 % 2 ^ s.fget a F.LNK_INJ_RATE = 0 then (m, fr.2.fset a F.LNK_INJ_COUNT (min (2 ^ 32 - 1) (s.fget a F.LNK_INJ_COUNT + 1))) else (0, fr.2)

/-- One flit delivered in order by the link layer counts down the delays of reordered messages. -/
def LinkSt.tickHeld (x : LinkSt) : LinkSt :=
  let h := x.held.map fun e => (e.1 - 1, e.2)
  { x with held := h.filter (fun e => decide (0 < e.1)), rx := x.rx ++ (h.filter fun e => decide (e.1 = 0)).map (·.2) }

/-- Flits of one message. -/
def Flit.sameMsg (g f : Flit) : Bool := decide (g.src = f.src ∧ g.typ = f.typ ∧ g.tseq = f.tseq ∧ g.vc = f.vc)

/-- A flit accepted in order; one that is delayed, or follows a delayed flit of its message, waits (R392). -/
def State.rxAccept (s : State) (k : Nat) (f : Flit) (delay : Nat) : State :=
  let x := s.link k
  let dec := if f.typ = 13 ∨ x.rxKey.isEmpty then f.payload else ctrXor x.rxKey (ctrBlock x.rxF (bit x.lowerEnd)) f.payload
  let g := { f with units := (List.range f.units.length).map fun i => sheafOfBytes ((dec.drop (32 * i)).take 32) }
  let x := { x with rxF := x.rxF + 1, nakSent := false }
  if g.typ = 13 then (s.setLink k (x.owe g.vc)).beaconRecv k g.aux dec
  else if s.linkState k ≠ 4 ∨ (g.typ = 14 ∧ (g.aux = 0 ∨ 6 < g.aux)) then s.setLink k (x.owe g.vc)
  else
    let x := x.tickHeld
    let d : Nat := (x.held.filter fun e => e.2.sameMsg g).foldl (fun m e => max m e.1) delay
    s.setLink k (if 0 < d then { x with held := x.held ++ [(d, g)] } else { x with rx := x.rx ++ [g] })

/-- FLIT_RECEIVE: the flit's 288 bytes reach the receiver of link `k`. -/
def State.flitReceive (s : State) (k : Nat) (b : List Byte) (corr unc : Nat) : State :=
  let st := s.linkState k
  if ¬ (st = 2 ∨ st = 3 ∨ st = 4) then s
  else
    let s := (s.linkCnt k (R.LNK_CNT1 k) F.LNK_CNT1_FECCORR corr).linkCnt k (R.LNK_CNT1 k) F.LNK_CNT1_FECUNC unc
    let f := flitOf (b.take 280)
    let inj := s.injected k f.typ
    let s := inj.2
    if b.length ≠ 288 ∨ b ≠ flitSeal (b.take 280) ∨ f.typ = 15 ∨ 5 ≤ f.vc ∨ inj.1 = 2 then
      (s.linkCnt k (R.LNK_CNT0 k) F.LNK_CNT0_CRCFAIL 1).rxDiscard k
    else if inj.1 = 1 then s.rxDiscard k
    else
      let took := (s.setLink k ((s.link k).ackTake f)).linkFlush k
      if f.typ = 0 then took
      else if f.lseq ≠ (s.link k).rxF % 2 ^ 16 then s.rxDiscard k
      else
        let s := took
        let reord := decide (inj.1 = 3)
        let fr := s.fresh
        let d := if reord then fr.1 % max 1 (s.fget (R.LNK_INJ k) F.LNK_INJ_WIN) else 0
        let s := (if reord then fr.2 else s).rxAccept k f d
        if (s.link k).rxF % 64 = 0 then s.linkIdle k false else s

/-- FLIT_REPLAY: after a NAK every unacknowledged flit goes again, in order, as it was sent (R361, R471). -/
def State.flitReplay (s : State) (k : Nat) : State :=
  let x := s.link k
  if ¬ x.replayDue then s
  else
    (s.setLink k { x with replayDue := false, sent := x.sent.map fun t => { t with reps := t.reps + 1 }, out := x.out ++ x.sent.map (·.bytes) }).linkCnt k (R.LNK_CNT0 k)
      F.LNK_CNT0_REPLAY x.sent.length

/-- IDLE_FLIT: a transmitter that has nothing to send. -/
def State.idleFlit (s : State) (k : Nat) : State :=
  let st := s.linkState k
  if (st = 2 ∨ st = 3 ∨ st = 4) ∧ (s.linkPick k).isNone then s.linkIdle k false else s

/-! ## Taking what was received -/

/-- The flit at the front of a channel. -/
def State.rxFront (s : State) (k vc : Nat) : Option Flit := (s.link k).rx.find? fun f => decide (f.vc = vc)

/-- That flit taken: its buffer place is returned as a credit. -/
def State.rxPop (s : State) (k vc : Nat) : State :=
  match s.rxFront k vc with
  | none => s
  | some f => let x := s.link k; s.setLink k ({ x with rx := x.rx.erase f }.owe vc)

def State.srcOk (s : State) (n : Nat) : Bool := decide (n = s.pkgOwn) || s.flag (R.FB_RT 0 n) F.FB_RT_VALID

end Sys2Proof.Machine
end

