-- ==== Sys2Proof/Machine/ServeCore.lean ====
section
/-! DEFINITION. The rings and the completion ledger (R403, R404, R427 to R429), which every chapter that ends an item uses. -/

namespace Sys2Proof.Machine

/-! ## Rings, 0 to 3 for SQ0 to SQ3, 4 for OQ, 5 for LQ -/

def State.ringOn (s : State) (p r : Nat) : Bool := s.flag (R.PT_RC p r) F.PT_RC_EN
/-- N, the elements of a ring. -/
def State.ringN (s : State) (p r : Nat) : Nat := 2 ^ s.fget (R.PT_RC p r) F.PT_RC_LOG2N
def State.ringBase (s : State) (p r : Nat) : Nat := s.fget (R.PT_RB p r) F.PT_RB_BASE * 4096
def State.prod (s : State) (p r : Nat) : Nat := s.fget (R.PT_RP p r) F.PT_RP_PROD
def State.cons (s : State) (p r : Nat) : Nat := s.fget (R.PT_RK p r) F.PT_RK_CONS
/-- PROD − CONS modulo 2^32. -/
def State.ringUsed (s : State) (p r : Nat) : Nat := (s.prod p r + 2 ^ 32 - s.cons p r) % 2 ^ 32
def ringElem (r : Nat) : Nat := if r = 5 then 32 else 64
/-- The bus address of element `i`. -/
def State.ringAddr (s : State) (p r i : Nat) : Nat := s.ringBase p r + i % s.ringN p r * ringElem r
/-- The function may master the bus (R500). -/
def State.master (s : State) (fn : Nat) : Bool := spGet (fun _ => false) s.rst.busMaster fn

def State.ringRoom (s : State) (p r n : Nat) : Bool := s.ringOn p r && decide (s.ringUsed p r + n ≤ s.ringN p r)

/-- An element written completely, then PROD advanced past it (R404). -/
def State.ringPut (s : State) (p r : Nat) (l : List Byte) : State :=
  (s.putHost (s.ringAddr p r (s.prod p r)) l).fset (R.PT_RP p r) F.PT_RP_PROD ((s.prod p r + 1) % 2 ^ 32)

/-! ## The completion ledger -/

/-- A ledger record (R427). -/
def LedRec.bytes (r : LedRec) : List Byte :=
  leBytes 4 r.tag ++ leBytes 1 r.kind ++ leBytes 1 (bit r.failed) ++ leBytes 2 r.cause ++ leBytes 8 r.detail ++ leBytes 8 r.lsn ++
    List.replicate 8 0

/-- Held records are written while the function masters the bus and the ledger ring has room. -/
def State.ledgerDrain (s : State) (p : Nat) : Nat → State
  | 0 => s
  | n + 1 =>
    match s.part p with
    | none => s
    | some x =>
      match x.held with
      | [] => s
      | r :: rest =>
        if s.master (p + 1) ∧ s.ringRoom p 5 1 then ((s.ringPut p 5 r.bytes).setPart p (some { x with held := rest })).ledgerDrain p n else s

/-- The item's one record, with the next LSN: written, or held while LQ has no room or the bus is not mastered (R429, R500). -/
def State.ledger (s : State) (p tag kind cause detail : Nat) : State :=
  match s.part p with
  | none => s
  | some x =>
    let r : LedRec := ⟨p, tag, kind, decide (cause ≠ 0), cause, detail, x.lsn + 1⟩
    if x.held.isEmpty ∧ s.master (p + 1) ∧ s.ringRoom p 5 1 then (s.setPart p (some { x with lsn := x.lsn + 1 })).ringPut p 5 r.bytes
    else
      let s := s.setPart p (some { x with lsn := x.lsn + 1, held := x.held ++ [r] })
      (s.dieCnt 31 (R.PT_CNT0 p) F.PT_CNT0_HELDREC 1).fset (R.PT_CTL p) F.PT_CTL_LFULL 1

/-- Causes of R428. -/
def lcMalformed : Nat := 1
def lcQuota : Nat := 3
def lcPoison : Nat := 4
def lcExpired : Nat := 5
def lcCancelled : Nat := 6
def lcNotFound : Nat := 7
def lcAdapter : Nat := 8
def lcWgen : Nat := 9
def lcDigest : Nat := 10
def lcPkgLost : Nat := 11
def lcRemoteTmo : Nat := 12
def lcOutcome : Nat := 13
def lcDomain : Nat := 14
def lcReset : Nat := 15
def lcBusy : Nat := 16
def lcLength : Nat := 17

/-- The partition's open item with a number. -/
def State.openItem (s : State) (p uid : Nat) : Option OpenItem :=
  (s.part p).bind fun x => x.open_.find? fun i => decide (i.uid = uid)

/-- `n` more messages of an item are out. -/
def State.itemMore (s : State) (p uid n : Nat) : State :=
  s.modPart p fun x => { x with open_ := x.open_.map fun i => if i.uid = uid then { i with left := i.left + n } else i }

/-- One message of a COPY or ATOMIC item is settled: the first cause stands; after the last the item has its record (R406, R429). -/
def State.itemSettle (s : State) (p uid cause detail : Nat) : State :=
  match s.openItem p uid with
  | none => s
  | some i =>
    let c := if i.cause = 0 then cause else i.cause
    let d := if detail = 0 then i.detail else detail
    if i.left ≤ 1 then
      (s.modPart p fun x => { x with open_ := x.open_.filter fun j => decide (j.uid ≠ uid) }).ledger p i.tag i.kind c (if c = 0 then d else 0)
    else
      s.modPart p fun x => { x with open_ := x.open_.map fun j => if j.uid = uid then { j with left := j.left - 1, cause := c, detail := d } else j }

end Sys2Proof.Machine
end

