-- ==== Sys2Proof/Machine/Fabric.lean ====
section
/-! DEFINITION. Remote operations (R374 to R393): the messages served at their target, receipts, what a source sends and how it settles,
and the acceptance of request units at every gateway. -/

namespace Sys2Proof.Machine

/-! ## Windows (R376, R377) -/

/-- A window of partition `p` covers a package, every byte and the operation: `perm` 0 R, 1 W, 2 A, 3 C. A placement names no byte of
local space, so only its package is compared. -/
def State.windowOk (s : State) (l p pkg off bytes perm : Nat) : Bool :=
  (List.range 16).any fun w =>
    let a := R.FB_WIN l p w
    let base := s.fget a F.FB_WIN_BASE * 65536
    s.flag a F.FB_WIN_VALID && decide (s.fget a F.FB_WIN_PKGLO ≤ pkg) && decide (pkg ≤ s.fget a F.FB_WIN_PKGHI) &&
      (s.fget a F.FB_WIN_PERM).testBit perm &&
      (decide (perm = 3) || (decide (base ≤ off) && decide (off + bytes ≤ base + s.fget a F.FB_WIN_SIZE * 65536)))

/-- A refusal under R377. -/
def State.refusedAt (s : State) (l : Nat) (p : Option Nat) (pkg tag : Nat) : State :=
  let s := match p with
    | some p => s.dieCnt (28 + l) (R.FBP_CNT0 l p) F.FBP_CNT0_REFUSED 1
    | none => s
  s.fabFault l p tag pkg

/-- Whether the landing die lets a message of partition `p` through: in MODE 0 its source checked it. -/
def State.landOk (s : State) (l p src off bytes perm : Nat) : Bool :=
  decide (s.fabMode l = 0) || s.windowOk l p src off bytes perm

/-! ## Answers -/

/-- The answer to a message: its job and tag return. -/
def State.answer (s : State) (l : Nat) (f : Flit) (typ status : Nat) (us : List Sheaf) : State :=
  let base := { s.newMsg l typ f.src 0 with job := f.job, tseq := f.tseq, offset := f.offset, aux := status }
  let fs := if typ = 2 then msgFlits base us else [{ base with units := us.map (·.bits), psn := bit (us.any (·.psn)) }]
  (s.fabSend l (s.jobPart l f.job) fs).1

/-- An answer that brings no data: an ARESULT still carries its one unit, whose value no rule gives (R358). -/
def State.answerEmpty (s : State) (l : Nat) (f : Flit) (typ status : Nat) : State :=
  if typ = 7 then
    let fr := s.fresh
    fr.2.answer l f 7 status [⟨BitVec.ofNat 256 fr.1, false⟩]
  else s.answer l f typ status []

/-- Flits of a partition that leave a link die in transit (R368). -/
def State.transit (s : State) (l p n : Nat) : State := s.dieCnt (28 + l) (R.FBP_CNT2 l p) F.FBP_CNT2_TRANSIT n
/-- One flit in transit from a link die to another, if they differ. -/
def State.transitTo (s : State) (l p l2 : Nat) : State := if l = l2 then s else s.transit l p 1

/-- What a landed request needs to be answered, kept in its GwReq: TYPE in `ttile`, source in `tpkg`, tag above bit 128 of `tplace`. -/
def GwReq.flit (s : State) (l : Nat) (r : GwReq) : Flit :=
  { Flit.blank with typ := r.ttile, src := r.tpkg, tseq := r.tplace / 2 ^ 128 % 2 ^ 32, job := s.jobOf l r.part, offset := r.addr % 2 ^ 48 }

/-! ## The home gateway of an offset (R308, R379) -/

def State.homeGw (s : State) (p o : Nat) : Option Nat := (s.locate p o).map fun u => u.home - 24

/-- A request of the fabric handed to the home gateway; it is answered when its units stand. -/
def State.fabEnter (s : State) (l p src tseq typ d off count op place : Nat) (data : List BUnit) : State :=
  (s.enter d ⟨off, count, op, true, p, src, typ, place % 2 ^ 128 + tseq * 2 ^ 128⟩ (32 + l) (28 + l) data).1

def dataOf (us : List Sheaf) (via : Nat) : List BUnit := us.map fun x => ⟨.req, x.psn, false, false, x.bits, via⟩

/-- Units that no gateway of the package is home to (R309), at the landing die. -/
def State.noHome (s : State) (l p off n : Nat) : State := s.each (List.range n) fun s i => s.misroute (28 + l) p (off + 32 * i)

/-! ## Receipts (R388 to R390) -/

def State.receipts (s : State) (rl : Nat) : List Receipt := spGet (fun _ => []) s.fab.receipts rl
def State.setReceipts (s : State) (rl : Nat) (l : List Receipt) : State :=
  { s with fab := { s.fab with receipts := spPut (fun _ => []) s.fab.receipts rl l } }

def floorKey (rl src sld : Nat) : Nat := rl * 2 ^ 14 + src * 4 + sld
def State.floorOf (s : State) (rl src sld : Nat) : Option Nat :=
  match spGet (fun _ => 0) s.fab.floors (floorKey rl src sld) with
  | 0 => none
  | n + 1 => some n

/-- a ≥ b in serial order modulo 2^32 over a span of 2^31. -/
def serialGe (a b : Nat) : Bool := decide ((a + 2 ^ 32 - b) % 2 ^ 32 < 2 ^ 31)

/-- An entry is free when it has been DONE for 2 ms. -/
def Receipt.free (now : Nat) (r : Receipt) : Bool := r.done_ && decide (r.time + 2000 ≤ now)

def State.occupied (s : State) (rl : Nat) : Nat := ((s.receipts rl).filter fun r => !r.free s.now).length

/-- The oldest free entry evicted: the floor of its source link die rises above it. -/
def State.evictReceipt (s : State) (rl : Nat) : State :=
  match leastBy (fun r => r.time) ((s.receipts rl).filter (Receipt.free s.now)) with
  | none => s
  | some r =>
    let k := floorKey rl r.src r.sld
    let f := (r.tseq + 1) % 2 ^ 32
    let up := match s.floorOf rl r.src r.sld with
      | some o => if serialGe f o then f else o
      | none => f
    let s := s.setReceipts rl ((s.receipts rl).erase r)
    { s with fab := { s.fab with floors := spPut (fun _ => 0) s.fab.floors k (up + 1) } }

def sameAtom (src sld tseq : Nat) (r : Receipt) : Bool := decide (r.src = src ∧ r.sld = sld ∧ r.tseq = tseq)

/-- A receipt die's answer, which returns through the landing die. -/
def State.atomAnswer (s : State) (l p : Nat) (f : Flit) (status : Nat) (us : List Sheaf) : State :=
  let s := s.transitTo (f.src % 3) p l
  if us.isEmpty then s.answerEmpty l f 7 status else s.answer l f 7 status us

/-- An atomic at its receipt die (R389). `l` is its landing die. -/
def State.atomAt (s : State) (l p : Nat) (f : Flit) (opnd : SheafBits) (psn : Bool) : State :=
  let rl := f.src % 3
  let sld := Config.sourceDieOf f.src f.tseq % 3
  let s := s.transitTo l p rl
  match (s.receipts rl).find? (sameAtom f.src sld f.tseq) with
  | some r =>
    if r.done_ then
      (s.dieCnt (28 + rl) (R.FB_RCPT0 rl) F.FB_RCPT0_REPLAYED 1).atomAnswer l p f r.status [⟨BitVec.ofNat 256 r.result.toNat, decide (r.status = 2)⟩]
    else s.dieCnt (28 + rl) (R.FB_RCPT1 rl) F.FB_RCPT1_DUP 1
  | none =>
    let low := match s.floorOf rl f.src sld with
      | some fl => !serialGe f.tseq fl
      | none => false
    if low then
      let s := (s.dieCnt (28 + rl) (R.FB_RCPT1 rl) F.FB_RCPT1_UNKNOWN 1).atomAnswer l p f 4 []
      s.fabFault rl (some p) f.tseq f.src
    else if 65536 ≤ s.occupied rl then (s.dieCnt (28 + rl) (R.FB_RCPT1 rl) F.FB_RCPT1_BUSY 1).atomAnswer l p f 3 []
    else
      let s := if 65536 ≤ (s.receipts rl).length then s.evictReceipt rl else s
      let s := s.setReceipts rl (s.receipts rl ++ [⟨f.src, sld, f.tseq, false, 0, 0, 0⟩])
      match s.homeGw p f.offset with
      | some d => (s.transit rl p 1).fabEnter l p f.src f.tseq 6 d f.offset 1 5 0 (dataOf [⟨opnd, psn⟩] (28 + l))
      | none =>
        let s := s.noHome l p f.offset 1
        let s := s.setReceipts rl ((s.receipts rl).map fun r => if sameAtom f.src sld f.tseq r then { r with done_ := true, status := 2, time := s.now } else r)
        s.atomAnswer l p f 2 [poisonSheaf]

/-- The result of an applied atomic recorded and returned. -/
def State.atomDone (s : State) (l : Nat) (r : GwReq) (x : Sheaf) : State :=
  let f := r.flit s l
  let rl := f.src % 3
  let sld := Config.sourceDieOf f.src f.tseq % 3
  let st := if x.psn then 2 else 0
  let s := s.dieCnt (28 + rl) (R.FB_RCPT0 rl) F.FB_RCPT0_APPLIED 1
  let s := s.setReceipts rl ((s.receipts rl).map fun y =>
    if sameAtom f.src sld f.tseq y then { y with done_ := true, status := st, result := BitVec.ofNat 64 x.bits.toNat, time := s.now } else y)
  s.atomAnswer l r.part f st [x]

/-! ## The source's side -/

def State.setRemotes (s : State) (l : List Remote) : State := { s with fab := { s.fab with remotes := l } }
def State.addRemote (s : State) (r : Remote) : State := s.setRemotes (s.fab.remotes ++ [r])
def State.dropRemote (s : State) (r : Remote) : State := s.setRemotes (s.fab.remotes.erase r)
def State.putRemote (s : State) (a b : Remote) : State := s.setRemotes (s.fab.remotes.map fun r => if r = a then b else r)

/-- The next TSEQ of a link die's atomics (key l), or of its other messages (key 4 + l). -/
def State.nextTseq (s : State) (k : Nat) : Nat × State :=
  let n := spGet (fun _ => 0) s.fab.tseq k
  (n, { s with fab := { s.fab with tseq := spPut (fun _ => 0) s.fab.tseq k ((n + 1) % 2 ^ 32) } })

/-- The tag of a message that is no atomic: it names its link die by its remainder by 3. -/
def State.nextTag (s : State) (l : Nat) : Nat × State :=
  let n := s.nextTseq (4 + l)
  ((3 * n.1 + l) % 2 ^ 32, n.2)

/-- A message sent and remembered until it settles. -/
def State.sendRemote (s : State) (l : Nat) (kind : RemKind) (gid pkg p tag : Nat) (item : Option Nat) (dst : Nat) (fs : List Flit)
    (via : Nat := 0) : State :=
  ((s.addRemote ⟨l, tag, kind, gid, pkg, p, item, dst, fs, 0, via, false⟩).fabSend l (some p) fs).1

/-- A request's missing units poisoned in place, as a refusal or an unreachable package leaves them (R367, R377). -/
def State.poisonReq (s : State) (d id : Nat) : State :=
  match s.req d id with
  | none => s
  | some r => (s.putReq d { r with units := fillPoison r.units, expired := true }).present d r.queue 4096

/-- The LOAD message for `n` units of package `pkg`. -/
def State.loadMsgOf (s : State) (l pkg p tag off n : Nat) : List Flit := [{ s.newMsg l 1 pkg p with tseq := tag, offset := off, aux := n }]
def State.storeMsgOf (s : State) (l typ pkg p tag off : Nat) (us : List Sheaf) : List Flit :=
  msgFlits { s.newMsg l typ pkg p with tseq := tag, offset := off } us
/-- The ATOMIC message: operand lanes in the unit, operation and W64 in AUX (R358). -/
def State.atomMsgOf (s : State) (l pkg p tseq off : Nat) (opnd : Sheaf) : List Flit :=
  let v := opnd.bits.toNat
  [{ s.newMsg l 6 pkg p with tseq := tseq, offset := off, aux := bitsOf v 130 128 + 8 * bitsOf v 136 136, units := [BitVec.ofNat 256 (v % 2 ^ 128)], psn := bit opnd.psn }]

/-- The operand unit of an ATOMIC message as a gateway takes it (log entry 12). -/
def atomOpnd (f : Flit) : SheafBits :=
  BitVec.ofNat 256 ((f.units.getD 0 0).toNat % 2 ^ 128 + f.aux % 8 * 2 ^ 128 + f.aux / 8 % 2 * 2 ^ 136)

/-- Unit 0 of an ACCSTORE message for a block at offset `off`: EXPOFF in [15:0] (R358), the runs of the block from bit 48 on as TPLACE has
them, and the exponent word's whole offset from bit 128 on, because EXPOFF counts 32 bytes (log entry 12). -/
def accHead (off place : Nat) : SheafBits :=
  let ew : Nat := place % 2 ^ 48
  let eo : Int := ((ew : Int) - (off : Int)) / 32 % 65536
  BitVec.ofNat 256 (eo.toNat + place / 2 ^ 48 % 2 ^ 80 * 2 ^ 48 + ew * 2 ^ 128)

/-- TPLACE as unit 0 of an ACCSTORE message gives it. -/
def accPlace (v : Nat) : Nat := v / 2 ^ 128 % 2 ^ 48 + v / 2 ^ 48 % 2 ^ 80 * 2 ^ 48

/-- A PLACE message (R378, R380); bit 0 of its AUX says that another message of the same segment follows (R191; log entry 12). -/
def State.sendPlace (s : State) (l p pkg tile via : Nat) (more : Bool) (us : List Sheaf) : State :=
  let t := s.nextTag l
  let fs := msgFlits { t.2.newMsg l 5 pkg p with tseq := t.1, offset := tile, aux := bit more } us
  if (t.2.routeTo pkg).isNone then t.2 else t.2.sendRemote l .place 0 pkg p t.1 none 0 fs via

/-- The units of a remote ACOPY sent as PLACE. -/
def State.acopyPlace (s : State) (l : Nat) (r : GwReq) : State :=
  let us := r.units.map fun x => x.getD poisonSheaf
  let hdr := placeHdr us.length (bitsOf r.tplace 31 0) (bitsOf r.tplace 39 32) false 0
  s.sendPlace l r.part r.tpkg r.ttile 0 (!r.lastReq) (⟨hdr, false⟩ :: us)

/-- An ACOPY whose request a gateway accepted has one less to wait for (R151). -/
def State.acopyTaken (s : State) (op via : Nat) : State :=
  if op ≠ 3 ∨ via < 32 then s
  else s.modEng (viaTile via) .le fun x => x.modRec (viaUid via) fun i => { i with need := i.need - 1 }

/-- The marker of an accumulate-store into another package's tile (log entry 12). -/
def ReqUnit.toTile (r : ReqUnit) : Bool := decide (r.op = 4) && r.tplace.testBit 120

/-- An address that names nothing: SPACE 2 or 3, or a reserved bit (R374). -/
def badSpace (a : Nat) : Bool := decide (2 ≤ a / 2 ^ 62) || decide (bitsOf a 49 48 ≠ 0) || (decide (a / 2 ^ 62 = 0) && decide (bitsOf a 61 50 ≠ 0))

def addrPkg (own a : Nat) : Nat := if a / 2 ^ 62 = 1 then bitsOf a 61 50 else own

/-- A request unit turned away at the source (R367, R377): what it would return is poison, and an accumulate-store's status carries PSN
(R157). -/
def State.turnAway (s : State) (l : Nat) (r : ReqUnit) (q via : Nat) (data : List BUnit) : State :=
  if r.op = 2 then s
  else if r.op = 4 then s.lateStatus via .se stPsn
  else let e := s.enter (4 + l) r q via data; e.1.poisonReq (4 + l) e.2

/-- A request unit accepted at a link die's gateway (R376 to R378). -/
def State.launchFab (s : State) (l : Nat) (r : ReqUnit) (q via : Nat) (data : List BUnit) : State :=
  let own := s.pkgOwn
  let d := 4 + l
  let p := r.part
  let far := decide (r.op = 3) && decide (r.tpkg ≠ own)
  let n := if r.toTile ∨ far then r.tpkg % 4096 else addrPkg own r.addr
  let off := r.addr % 2 ^ 48
  let perm := if r.toTile ∨ far then 3 else if r.op = 2 ∨ r.op = 4 then 1 else if r.op = 5 then 2 else 0
  let bytes := if r.op = 5 then 8 else 32 * r.count
  if badSpace r.addr ∧ ¬ r.toTile then (s.refusedAt l (some p) n r.addr).turnAway l r q via data
  else if n = own then
    let e := s.enter d r q via data
    (e.1.tryReq d e.2).present d q 4096
  else if s.flag (R.DIE_CTL (28 + l)) F.DIE_CTL_FENCE then s.turnAway l r q via data
  else if s.fabMode l = 0 ∧ ¬ s.windowOk l p n off bytes perm then (s.refusedAt l (some p) n r.addr).turnAway l r q via data
  else if (s.routeTo n).isNone then s.turnAway l r q via data
  else if far then
    let src := addrPkg own r.addr
    if src = own then
      match s.homeGw p off with
      | some h => (s.enter h { r with op := 1 } (36 + l) via []).1
      | none =>
        let s := s.noHome l p off r.count
        let e := s.enter d { r with op := 1 } (36 + l) via []
        e.1.poisonReq d e.2
    else
      let e := s.enter d { r with op := 1 } (36 + l) via []
      let t := e.1.nextTag l
      t.2.sendRemote l .load e.2 src p t.1 none 0 (t.2.loadMsgOf l src p t.1 off r.count)
  else
    match r.op with
    | 2 =>
      let s := s.regTake (gwDie d) p bytes
      let t := s.nextTag l
      t.2.sendRemote l .store 0 n p t.1 none 0 (t.2.storeMsgOf l 3 n p t.1 off (data.map fun u => ⟨u.data, u.psn⟩))
    | 4 =>
      let s := s.regTake (gwDie d) p bytes
      let us := data.map fun u => Sheaf.mk u.data u.psn
      if r.toTile then
        s.sendPlace l p n r.ttile via (!r.lastReq)
          (⟨placeHdr us.length (bitsOf r.tplace 31 0) (bitsOf r.tplace 39 32) true (bitsOf r.tplace 79 48), false⟩ :: us)
      else
        let t := s.nextTag l
        t.2.sendRemote l .accstore 0 n p t.1 none 0 (t.2.storeMsgOf l 4 n p t.1 off (⟨accHead off r.tplace, false⟩ :: us)) via
    | 5 =>
      let e := s.enter d r q via data
      let t := e.1.nextTseq l
      let o := (data.head?.map fun u => Sheaf.mk u.data u.psn).getD zeroSheaf
      t.2.sendRemote l .atomic e.2 n p t.1 none 0 (t.2.atomMsgOf l n p t.1 off o)
    | _ =>
      let e := s.enter d r q via data
      let t := e.1.nextTag l
      t.2.sendRemote l .load e.2 n p t.1 none 0 (t.2.loadMsgOf l n p t.1 off r.count)

/-! ## Requests whose units stand -/

/-- A completed request of the fabric answered, or a remote ACOPY's units sent on. -/
def State.settleReq (s : State) (d : Nat) (r : GwReq) : State :=
  let s := s.dropReq d r.id
  let us := r.units.map fun x => x.getD poisonSheaf
  if 36 ≤ r.queue then s.acopyPlace (r.queue - 36) r
  else
    let l := r.queue - 32
    let f := r.flit s l
    match r.ttile with
    | 1 => s.answer l f 2 (if us.any (·.psn) then 2 else 0) us
    | 6 => s.atomDone l r (us.getD 0 poisonSheaf)
    | _ => s.answer l f 8 0 []

/-- Every request that stands complete leaves: fabric requests are answered, stores of the queues are dropped (R314, R379). -/
def State.settleReqs (s : State) (d : Nat) : State :=
  let s := s.each ((s.gw d).reqs.filter fun r => decide (32 ≤ r.queue) && r.units.all (·.isSome)) fun s r => s.settleReq d r
  s.dropStores d

/-! ## Gateway events -/

/-- GATEWAY_REQUEST (R216, R227, R229, R238): the request unit at the head of an ingress entry. -/
def State.gatewayRequest (s : State) (d port : Nat) : State :=
  let D := gwDie d
  match s.acceptable d port with
  | .empty => s
  | .badOp n =>
    let l := s.ingress d port
    if l.any fun u => u.2.last then
      let part := (l.head?.map fun u => (reqOf u.2.data).part).getD 0
      ((s.setIngress d port (l.drop n)).dieCnt D (R.GW_ICNT D) F.GW_ICNT_BADOP 1).plainRep 4 (some part) (dieIsland D) 0 0
    else s
  | .hold qfull reg =>
    let part := ((s.ingress d port).head?.map fun u => (reqOf u.2.data).part).getD 0
    let s := if qfull then s.dieCnt D (R.GW_ICNT D) F.GW_ICNT_QFULL 1 else s
    if reg then s.stall D part .regulator else s
  | .take r q n via data =>
    let s := s.setIngress d port ((s.ingress d port).drop n)
    let s := if 4 ≤ d ∧ d < 7 then s.launchFab (d - 4) r q via data else (s.enter d r q via data).1
    ((s.acopyTaken r.op via).present d q 4096).settleReqs d

/-- MEMORY_REQUEST (R309 to R314): an accepted request meets the state of its pages. -/
def State.memoryRequest (s : State) (d id : Nat) : State :=
  if 4 ≤ d ∧ d < 7 then s else (((s.tryReq d id).present d (reqQueue id) 4096)).settleReqs d

/-- One unit's burst read with `bad` reads failing first (R334), or a store that covers one sheaf of its burst (R333). -/
def State.burstAccess (s : State) (d id u bad : Nat) (store : Bool) : State :=
  match s.req d id with
  | none => s
  | some r =>
    if (4 ≤ d ∧ d < 7) ∨ (store ≠ decide (r.op = 2 ∨ r.op = 4)) then s
    else
      let a := s.tryMark d id u bad
      ((a.1.countWait d r (s.heads d r) a.2).present d r.queue 4096).settleReqs d

/-- PARTIAL_WRITE: the first store unit of a request that is not yet applied. -/
def State.partialWrite (s : State) (d id bad : Nat) : State :=
  match s.req d id with
  | none => s
  | some r =>
    match r.units.findIdx? (·.isNone) with
    | some u => s.burstAccess d id u bad true
    | none => s

/-! ## Messages of the fabric at their target -/

/-- The channel of a message at its receiver: the second-hop channel where a relay sent it on. -/
def rxVc (cls : Nat) (second : Bool) : Nat := cls + bit second

/-- The message at the front of a channel of link `k`, if it is of `typ` and for this package. One whose source has no VALID entry is
discarded and counted (R367). -/
def State.onMsg (s : State) (k vc typ : Nat) (body : Flit → State) : State :=
  match s.rxFront k vc with
  | none => s
  | some f =>
    if f.typ ≠ typ ∨ f.dst ≠ s.pkgOwn then s
    else if ¬ s.srcOk f.src then (s.rxPop k vc).stale (k / 12) 1
    else body f

/-- The flits of one message gathered until LAST; then what it is, with the last flit still in its buffer. -/
def State.gather (s : State) (k vc : Nat) (f : Flit) (whole : State → List Flit → State) : State :=
  let x := s.link k
  if ¬ f.isLast then (s.setLink k { x with parts := x.parts ++ [f] }).rxPop k vc
  else whole s ((x.parts.filter fun g => g.sameMsg f) ++ [f])

/-- The message consumed: its last flit and what was gathered of it. -/
def State.consume (s : State) (k vc : Nat) (f : Flit) : State :=
  let x := s.link k
  (s.setLink k { x with parts := x.parts.filter fun g => !g.sameMsg f }).rxPop k vc

def msgUnits (fs : List Flit) : List Sheaf := fs.flatMap Flit.sheaves
/-- The local offset that a message names: that of its first flit. -/
def msgOff (fs : List Flit) : Nat := (fs.head?.map (·.offset)).getD 0

/-- The partition a message belongs to, if its job is mapped and its window lets it through; else it is answered REFUSED. -/
def State.admitMsg (s : State) (l : Nat) (f : Flit) (off bytes perm rtyp : Nat) (go : State → Nat → State) : State :=
  match s.jobPart l f.job with
  | none => (s.refusedAt l none f.src f.tseq).answerEmpty l f rtyp 1
  | some p =>
    if s.landOk l p f.src off bytes perm then go s p else (s.refusedAt l (some p) f.src f.tseq).answerEmpty l f rtyp 1

/-- LOAD (R378, R379). -/
def State.recvLoad (s : State) (k : Nat) (second : Bool) : State :=
  let vc := rxVc 1 second
  let l := k / 12
  s.onMsg k vc 1 fun f =>
    let s := s.rxPop k vc
    let n := f.aux % 128
    if n = 0 ∨ 64 < n then (s.refusedAt l (s.jobPart l f.job) f.src f.tseq).answer l f 2 1 []
    else
      s.admitMsg l f f.offset (32 * n) 0 2 fun s p =>
        match s.homeGw p f.offset with
        | some d => (s.transit l p 1).fabEnter l p f.src f.tseq 1 d f.offset n 1 0 []
        | none => (s.noHome l p f.offset n).answer l f 2 2 (List.replicate n poisonSheaf)

/-- STORE (R378, R379). -/
def State.recvStore (s : State) (k : Nat) (second : Bool) : State :=
  let vc := rxVc 1 second
  let l := k / 12
  s.onMsg k vc 3 fun f => s.gather k vc f fun s fs =>
    let s := s.consume k vc f
    let us := msgUnits fs
    let off := msgOff fs
    s.admitMsg l f off (32 * us.length) 1 8 fun s p =>
      match s.homeGw p off with
      | some d => (s.transit l p fs.length).fabEnter l p f.src f.tseq 3 d off us.length 2 0 (dataOf us (28 + l))
      | none => (s.noHome l p off us.length).answer l f 8 2 []

/-- ACCSTORE: unit 0 says where the block's units and its exponent word lie (R144, R358). -/
def State.recvAccstore (s : State) (k : Nat) (second : Bool) : State :=
  let vc := rxVc 1 second
  let l := k / 12
  s.onMsg k vc 4 fun f => s.gather k vc f fun s fs =>
    let s := s.consume k vc f
    let us := msgUnits fs
    let off := msgOff fs
    let body := us.drop 1
    s.admitMsg l f off (32 * body.length) 1 8 fun s p =>
      match s.homeGw p off with
      | some d => (s.transit l p fs.length).fabEnter l p f.src f.tseq 4 d off body.length 4 (accPlace (us.getD 0 zeroSheaf).bits.toNat) (dataOf body (28 + l))
      | none => (s.noHome l p off 1).answer l f 8 2 []

/-- PLACE (R380): the segment is written through the tile's control/debug port; a bank that turns ON holds it. -/
def State.recvPlace (s : State) (k : Nat) (second : Bool) : State :=
  let vc := rxVc 1 second
  let l := k / 12
  s.onMsg k vc 5 fun f => s.gather k vc f fun s fs =>
    let us := msgUnits fs
    let g := f.offset % 2048
    let via := 28 + l
    let n := us.length - 1
    let bus := (List.range us.length).map fun i =>
      let x := us.getD i zeroSheaf
      BUnit.mk .place (x.psn && decide (i ≠ 0)) (decide (i = 0)) (decide (i = n) && !f.aux.testBit 0) x.bits via
    match s.jobPart l f.job with
    | none => ((s.refusedAt l none f.src f.tseq).answer l f 8 1 []).consume k vc f
    | some p =>
      if ¬ s.landOk l p f.src 0 0 3 ∨ 1536 ≤ g ∨ s.tilePart g ≠ some p then
        ((s.refusedAt l (some p) f.src f.tseq).answer l f 8 1 []).consume k vc f
      else
        match s.placeNow g bus with
        | some t => ((t.transit l p fs.length).consume k vc f).answer l f 8 0 []
        | none => s

/-- ATOMIC (R388, R389). -/
def State.recvAtomic (s : State) (k : Nat) (second : Bool) : State :=
  let vc := rxVc 1 second
  let l := k / 12
  s.onMsg k vc 6 fun f =>
    let s := s.rxPop k vc
    s.admitMsg l f f.offset 8 2 7 fun s p => s.atomAt l p f (atomOpnd f) (f.psn.testBit 0)

/-- COPY (R381): served at the landing die's exchange port; a placement on a bank that turns ON holds it. -/
def State.recvCopy (s : State) (k : Nat) (second : Bool) : State :=
  let vc := rxVc 1 second
  let l := k / 12
  s.onMsg k vc 9 fun f => s.gather k vc f fun s fs =>
    match s.jobPart l f.job with
    | none => (s.refusedAt l none f.src f.tseq).consume k vc f
    | some p =>
      let us := (msgUnits fs).map fun x => BUnit.mk .recv x.psn false false x.bits (28 + l)
      match s.serveCopy l p us with
      | some t => t.consume k vc f
      | none => s

/-- COUNTROW (R385). -/
def State.recvCountrow (s : State) (k : Nat) (second : Bool) : State :=
  let vc := rxVc 1 second
  let l := k / 12
  s.onMsg k vc 10 fun f => s.gather k vc f fun s fs =>
    let s := s.consume k vc f
    match s.jobPart l f.job with
    | none => s.refusedAt l none f.src f.tseq
    | some p =>
      let us := msgUnits fs
      let h := (us.getD 0 zeroSheaf).bits.toNat
      let bytes := (us.drop 1).flatMap fun x => sheafBytes x.bits
      let counts := (List.range (bitsOf h 47 32)).map fun e => ofLeBytes ((bytes.drop (2 * e)).take 2)
      (s.transit l p fs.length).rowArrive p (h % 256) (bitsOf h 31 16) counts

/-! ## Guest frames (R316, R339, R385) -/

/-- A unit of a guest frame is held by the frame's address in units. -/
def State.guestUnit (s : State) (a : Nat) : SheafBits := (spGet (fun _ => none) s.mem.guestData (a / 32)).getD 0
def State.frameHeld (s : State) (fr : Nat) : Bool := s.mem.guestData.any fun e => decide (e.1 / 2048 = fr)
/-- The memory die that holds a guest frame. -/
def State.guestDie (s : State) (fr : Nat) : Nat := s.memDies.getD (fr % max 1 s.memDies.length) 0

/-- Page data written to guest frames within MEM_GUEST's quota; a frame beyond it is reported. -/
def State.guestPut (s : State) (a : Nat) (us : List SheafBits) : State :=
  let fr := a / 65536
  let m := s.guestDie fr
  let used := s.fget (R.MEM_GUEST m) F.MEM_GUEST_USED
  if ¬ s.frameHeld fr ∧ s.fget (R.MEM_GUEST m) F.MEM_GUEST_QUOTA ≤ used then s.plainRep 5 none (dieIsland (24 + m)) a 0
  else
    let s := if s.frameHeld fr then s else s.fset (R.MEM_GUEST m) F.MEM_GUEST_USED (used + 1)
    { s with mem := { s.mem with guestData := spPutL (fun _ => none) s.mem.guestData (a / 32) (us.map some) } }

/-- PAGE: a request with units writes guest frames, one without reads the frame it names; page data that returns belongs to a move-in. -/
def State.recvPage (s : State) (k : Nat) (rsp second : Bool) : State :=
  let vc := rxVc (if rsp then 3 else 1) second
  let l := k / 12
  s.onMsg k vc 11 fun f =>
    let s := s.rxPop k vc
    if rsp then s.guestBack f.src f.offset f.units
    else if f.units.isEmpty then
      let a := f.offset / 65536 * 65536
      let us := (List.range 2048).map fun i => Sheaf.mk (s.guestUnit (a + 32 * i)) false
      let fs := msgFlits { s.newMsg l 11 f.src 0 with vc := 3, job := f.job, tseq := f.tseq, offset := a } us
      (s.fabSend l none fs).1
    else s.guestPut f.offset f.units

/-- SYNC (R234, R358): up to four 8-byte messages in each unit (log entry 6). -/
def State.recvSync (s : State) (k : Nat) : State :=
  s.onMsg k 0 12 fun f =>
    (s.rxPop k 0).each (f.units.flatMap fun u => (List.range 4).map fun i => u.toNat / 2 ^ (64 * i)) fun s m =>
      let kind := m % 256
      let ch := bitsOf m 15 8
      if 64 ≤ ch ∨ kind = 0 ∨ 2 < kind then s else s.fabNodeRecv k kind ch

/-- RELAY_FORWARD (R355, R359, R367), by class (0 SYNC, 1 REQ, 2 RSP): sent on over the direct link, or discarded as STALE. A message that
a relay sent here already goes to no third package. -/
def State.relayForward (s : State) (k : Nat) (cls : Nat) : State :=
  let vc := if cls = 0 then 0 else 2 * cls - 1
  match s.rxFront k vc with
  | none => s
  | some f =>
    if f.dst = s.pkgOwn then s
    else
      let s := s.rxPop k vc
      match s.directUp f.dst with
      | some k2 =>
        if s.flag (R.FB_RT 0 f.dst) F.FB_RT_VALID ∧ s.flag (R.FB_RT 0 f.src) F.FB_RT_VALID ∧ ¬ f.hop then
          s.linkQueue k2 [⟨{ f with hop := true, vc := if cls = 0 then 0 else f.vc + 1 }, none⟩]
        else s.stale (k / 12) 1
      | none => s.stale (k / 12) 1

/-! ## Answers at the source -/

/-- The ledger cause of a message that ended badly: OUTCOME for UNKNOWN, PKGLOST for UNREACH, POISON for what returns poisoned units. -/
def statusCause (st : Nat) : Nat := if st = 0 then 0 else if st = 4 then lcOutcome else if st = 5 then lcPkgLost else lcPoison

/-- Units of local space met at their home gateways, one after another (R309 to R313); answers whether one of them must wait. -/
def State.meetHomes (s : State) (p : Nat) (ld st : Bool) : List Nat → State × Bool
  | [] => (s, false)
  | o :: rest =>
    match s.homeGw p o with
    | none => s.meetHomes p ld st rest
    | some d =>
      let m := s.meet (gwDie d) p o ld st
      if m.2.isSome then (m.1, true) else m.1.meetHomes p ld st rest

/-- The pages that units of local space lie on, each once. -/
def State.pagesOf (s : State) (p : Nat) (offs : List Nat) : List Nat := (offs.filterMap fun o => (s.locate p o).map (·.page)).eraseDups

/-- A unit of local space read, or stored, at its home gateway; one without a home is the steward's fault (R309). -/
def State.applyHome (s : State) (p o : Nat) (act : UnitDo) : State × Sheaf :=
  match s.homeGw p o with
  | none => (s.misroute 31 p o, poisonSheaf)
  | some d => s.apply (gwDie d) p o 0 act

/-- Units of a COPY item's load stored at their destination: in local space at once, where their pages count the access (R320), elsewhere
as a STORE of the item. Answers whether they are, or a unit waits for its page. -/
def State.itemStore (s : State) (p uid dst : Nat) (us : List Sheaf) : State × Bool :=
  let n := addrPkg s.pkgOwn dst
  let off := dst % 2 ^ 48
  if n ≠ s.pkgOwn then
    let l := s.dieToward n
    let t := s.nextTag l
    if (t.2.routeTo n).isNone then ((t.2.itemMore p uid 1).itemSettle p uid lcPkgLost 0, true)
    else ((t.2.itemMore p uid 1).sendRemote l .store 0 n p t.1 (some uid) 0 (t.2.storeMsgOf l 3 n p t.1 off us), true)
  else
    let offs := (List.range us.length).map fun i => off + 32 * i
    let m := s.meetHomes p false true offs
    if m.2 then (m.1, false)
    else ((m.1.countAcc (m.1.pagesOf p offs)).each (offs.zip us) fun s x => (s.applyHome p x.1 (.store x.2 true)).1, true)

/-- LDATA (R378): units in the order of the message; a bad status poisons the request. -/
def State.recvLdata (s : State) (k : Nat) (second : Bool) : State :=
  let vc := rxVc 3 second
  s.onMsg k vc 2 fun f =>
    match s.fab.remotes.find? fun r => decide (r.tag = f.tseq ∧ r.kind = .load ∧ r.pkg = f.src) with
    | none => s.rxPop k vc
    | some r =>
      let st := f.aux % 128
      let us := f.sheaves
      let ended := f.isLast || decide (st ≠ 0 ∧ st ≠ 2)
      match r.item with
      | some uid =>
        let w := s.itemStore r.part uid (r.dst + 32 * r.got) us
        if ¬ w.2 then w.1
        else
          let t := w.1.rxPop k vc
          if ended then (t.dropRemote r).itemSettle r.part uid (statusCause st) 0 else t.putRemote r { r with got := r.got + us.length }
      | none =>
        let s := s.rxPop k vc
        let d := 4 + r.ld
        if st ≠ 0 ∧ st ≠ 2 then ((s.dropRemote r).poisonReq d r.gid).settleReqs d
        else
          let s := s.returnUnits d r.gid us
          (if ended then s.dropRemote r else s.putRemote r { r with got := r.got + us.length }).settleReqs d

/-- The remote atomic that an ARESULT answers: one of the landing die where there is one. -/
def State.atomOf (s : State) (l : Nat) (f : Flit) : Option Remote :=
  let mine := s.fab.remotes.filter fun r => decide (r.tag = f.tseq ∧ r.kind = .atomic ∧ r.pkg = f.src)
  match mine.find? fun r => decide (r.ld = l) with
  | some r => some r
  | none => mine.head?

/-- ARESULT (R387): the first result completes the atomic; BUSY is none; UNKNOWN ends it with poison and an OUTCOME report. -/
def State.recvAresult (s : State) (k : Nat) (second : Bool) : State :=
  let vc := rxVc 3 second
  s.onMsg k vc 7 fun f =>
    let s := s.rxPop k vc
    match s.atomOf (k / 12) f with
    | none => s
    | some r =>
      let st := f.aux % 128
      if st = 3 then s
      else
        let s := s.dropRemote r
        let s := if st = 4 then s.fabFault r.ld (some r.part) f.tseq r.pkg else s
        let x := (f.sheaves.getD 0 poisonSheaf)
        match r.item with
        | some uid => s.itemSettle r.part uid (statusCause st) (x.bits.toNat % 2 ^ 64)
        | none =>
          let d := 4 + r.ld
          if st = 0 ∨ st = 2 then s.returnUnits d r.gid [⟨x.bits, x.psn || decide (st = 2)⟩] else s.poisonReq d r.gid

/-- A store of a tile that failed (R157): an accumulate-store's status carries PSN. -/
def State.remFailed (s : State) (r : Remote) : State := if r.kind = .store then s else s.lateStatus r.via .se stPsn

/-- DONE (R378): counted at the source, not waited on. -/
def State.recvDoneMsg (s : State) (k : Nat) (second : Bool) : State :=
  let vc := rxVc 3 second
  s.onMsg k vc 8 fun f =>
    let s := s.rxPop k vc
    match s.fab.remotes.find? fun r => decide (r.tag = f.tseq ∧ r.pkg = f.src ∧ r.kind ≠ .atomic ∧ r.kind ≠ .load) with
    | none => s
    | some r =>
      let s := s.dropRemote r
      match r.item with
      | some uid => s.itemSettle r.part uid (statusCause (f.aux % 128)) 0
      | none => if f.aux % 128 = 0 then s else s.remFailed r

def State.remoteTmo (s : State) (r : Remote) : State :=
  (s.dieCnt (28 + r.ld) (R.FBP_CNT0 r.ld r.part) F.FBP_CNT0_REMOTETMO 1).fabFault r.ld (some r.part) r.tag r.pkg

/-- REMOTE_BOUND_EXPIRY (R382, R387): a load filled, whose units are LATE from then on (R229), or an atomic ended with poison. -/
def State.remoteExpire (s : State) (l tag : Nat) : State :=
  match s.fab.remotes.find? fun r => decide (r.ld = l ∧ r.tag = tag ∧ (r.kind = .load ∨ r.kind = .atomic)) && !r.dead with
  | none => s
  | some r =>
    let s := (if r.kind = .load ∧ r.item.isNone then s.putRemote r { r with dead := true } else s.dropRemote r).remoteTmo r
    match r.item with
    | some uid => s.itemSettle r.part uid lcRemoteTmo 0
    | none => (s.expire (4 + l) r.gid).settleReqs (4 + l)

/-- STORE_LOST (R383). -/
def State.storeLost (s : State) (l tag : Nat) : State :=
  match s.fab.remotes.find? fun r => decide (r.ld = l ∧ r.tag = tag ∧ r.kind ≠ .load ∧ r.kind ≠ .atomic) with
  | none => s
  | some r =>
    let s := (s.dropRemote r).dieCnt (28 + l) (R.FBP_CNT1 l r.part) F.FBP_CNT1_STORELOST 1
    let s := s.fabFault l (some r.part) r.tag r.pkg
    match r.item with
    | some uid => s.itemSettle r.part uid lcOutcome 0
    | none => s.remFailed r

/-- ATOMIC_RETRY (R387): sent again with RETRY, by the route the table gives now. -/
def State.atomicRetry (s : State) (l tag : Nat) : State :=
  match s.fab.remotes.find? fun r => decide (r.ld = l ∧ r.tag = tag ∧ r.kind = .atomic) with
  | none => s
  | some r => (s.fabSend l (some r.part) (r.msg.map fun f => { f with retry := true })).1

/-! ## Notices (R358, R370, R373) -/

/-- A NOTICE of a kind at the front of SYNC, with the package it names and its partition. -/
def State.onNotice (s : State) (k kind : Nat) (body : State → Flit → Nat → Nat → State) : State :=
  s.onMsg k 0 14 fun f =>
    if f.aux ≠ kind then s
    else let u := (f.units.getD 0 0).toNat; body (s.rxPop k 0) f (bitsOf u 11 0) (bitsOf u 31 16)

def State.noticeProbe (s : State) (k : Nat) : State := s.onNotice k 1 fun s f n _ => s.noticeTo f.src 2 n 0xFFFF
/-- A probed package that answers lives: only the link is lost, and the routes of the pairs that used it are computed again. -/
def State.noticeAnswer (s : State) (k : Nat) : State :=
  s.onNotice k 2 fun s f _ _ =>
    if s.fab.probes.contains f.src then
      ({ s with fab := { s.fab with probes := s.fab.probes.filter fun m => decide (m ≠ f.src) } }).reroute
    else s
/-- PROBE_TIMEOUT: the package is lost, and the slice is told. -/
def State.probeTimeout (s : State) (n : Nat) : State :=
  if s.fab.probes.contains n then (s.losePkg n).noticeAll 3 n 0xFFFF else s
def State.noticeLoss (s : State) (k : Nat) : State := s.onNotice k 3 fun s _ n _ => s.losePkg n

/-- A package back in the slice (R373). -/
def State.rejoin (s : State) (n : Nat) : State :=
  if n = s.pkgOwn then s
  else
    let s := { s with fab := { s.fab with lost := s.fab.lost.filter fun m => decide (m ≠ n) } }
    let s := s.each [0, 1, 2] fun s l => s.fset (R.FB_RT l n) F.FB_RT_VALID 1
    s.reroute.closeOrder
def State.noticeRejoin (s : State) (k : Nat) : State := s.onNotice k 6 fun s _ n _ => s.rejoin n

/-! ## Registers of the fabric (R392, R396, R397) -/

/-- FB_CTL written: MODE and TWIN while unlocked; LOCK is set by 1. -/
def State.fbCtlWrite (s : State) (l v : Nat) : State :=
  let a := R.FB_CTL l
  let s := if s.flag a F.FB_CTL_LOCK then s else (s.fset a F.FB_CTL_MODE (bitsOf v 16 16)).fset a F.FB_CTL_TWIN (bitsOf v 17 17)
  if v.testBit 31 then s.fset a F.FB_CTL_LOCK 1 else s

/-- FB_RT_n written whole; SELF shows the own package. -/
def State.fbRtWrite (s : State) (l n v : Nat) : State := s.wr (R.FB_RT l n) (BitVec.ofNat 64 (v % 2 ^ 39))

/-- LNK_INJ written: only under debug authorisation. -/
def State.lnkInjWrite (s : State) (k v : Nat) : State :=
  let a := R.LNK_INJ k
  if ¬ s.flag R.SEC_DEBUG F.SEC_DEBUG_INJECT then s
  else ((s.fset a F.LNK_INJ_MODE (bitsOf v 1 0)).fset a F.LNK_INJ_WIN (max 1 (min 64 (bitsOf v 14 8)))).fset a F.LNK_INJ_RATE (bitsOf v 19 16)

end Sys2Proof.Machine
end

