-- ==== Sys2Proof/Machine/FabCmd.lean ====
section
/-! DEFINITION. The mailbox commands of the fabric (R365, R394). -/

namespace Sys2Proof.Machine

/-! ## The expected map (R365) -/

def State.mapLen (s : State) (p a : Nat) : Nat := 0x30 + 40 * (s.locNum p (a + 8) 2 + s.locNum p (a + 10) 2)

/-- The map that lies at an address, or none where it breaks R365. -/
def State.readMap (s : State) (p a : Nat) : Option FabMap :=
  let num (o n : Nat) : Nat := s.locNum p (a + o) n
  let np := num 8 2
  let nu := num 10 2
  if num 0 4 ≠ 0x50414D46 ∨ num 4 2 ≠ 1 ∨ (num 6 1 ≠ 1 ∧ num 6 1 ≠ 2) ∨ (num 6 1 = 2 ∧ num 7 1 % 2 = 1) ∨ np = 0 ∨ 64 < np ∨ 4096 < nu ∨
      num 12 4 ≠ 0 then none
  else
    let b := (s.locBytes p a (s.mapLen p a)).1
    if sm3 (b.take 0x10 ++ List.replicate 32 0 ++ b.drop 0x30) ≠ (b.drop 0x10).take 32 then none
    else
      let ent (o : Nat) : List Byte := (b.drop o).take 40
      let id (l : List Byte) (o : Nat) : Nat := ofLeBytes ((l.drop o).take 2)
      let pk := (List.range np).map fun i => let e := ent (0x30 + 40 * i); MapPkg.mk (id e 0) (e.drop 8)
      let us := (List.range nu).map fun i => let e := ent (0x30 + 40 * (np + i)); MapUp.mk (id e 0) (id e 2) (e.drop 8)
      if (pk.any fun e => decide (4096 ≤ e.pkg)) || (us.any fun e => decide (4096 ≤ e.loc) || decide (4096 ≤ e.peer)) then none
      else some ⟨num 6 1, num 7 1, pk, us⟩

/-- The map in force: its packages, but the lost ones, form the slice, and the uplink peers listed for one of them are reached too (R356);
every link is checked by its peer's last valid beacon. -/
def State.useMap (s : State) (m : FabMap) : State :=
  let s := { s with fab := { s.fab with map := some m } }
  let ups := (m.ups.filter fun u => decide (u.loc = s.pkgOwn) || m.pkgs.any fun e => decide (e.pkg = u.loc)).map (·.peer)
  let live := (m.pkgs.map (·.pkg) ++ ups).filter fun n => !s.fab.lost.contains n
  let s := s.each (List.range 4096) fun s n =>
    let v := bit (live.contains n)
    if s.fget (R.FB_RT 0 n) F.FB_RT_VALID = v then s else s.each [0, 1, 2] fun s l => s.fset (R.FB_RT l n) F.FB_RT_VALID v
  let s := s.each (List.range 36) fun s k =>
    match (s.link k).beacon with
    | some b => if s.linkState k = 3 ∨ s.linkState k = 4 then s.mapCheck k b else s
    | none => s
  s.reroute

def cmdFabMap (fn addr : Nat) (s : State) : State × Reply :=
  let p := s.partOf addr
  let m := p.bind fun p => s.readMap p addr
  let dig := (s.locBytes (p.getD 0) (addr + 0x10) 32).1
  s.cmdRead [badAt 0 p.isNone, pfOnly fn] (p.getD 0) addr (p.elim 0 fun p => s.mapLen p addr) [refuse 1 m.isNone] fun s =>
    match m with
    | none => (s, .ok [])
    | some m =>
      let s := (s.measure 5 4 dig).useMap m
      let bad := (List.range 36).filter fun k => decide (s.linkState k ≠ 4)
      (s, .ok (lay ((4, bad.length) :: bad.flatMap fun k => [(1, k), (1, s.fget (R.LNK_STAT k) F.LNK_STAT_HCAUSE)])))

def cmdFabStatus (s : State) : State × Reply :=
  s.cmd [] fun s =>
    (s, .ok (lay (((List.range 36).map fun k => (4, (s.rd (R.LNK_STAT k)).toNat)) ++ layList (s.slice.map fun n => (2, n)) ++
      layList (s.fab.lost.map fun n => (2, n)))))

def cmdFabMode (fn : Nat) (mode twin : Bool) (s : State) : State × Reply :=
  s.cmd [pfOnly fn, refuse 1 (s.flag (R.FB_CTL 0) F.FB_CTL_LOCK)] fun s =>
    (s.each [0, 1, 2] fun s l => s.fbCtlWrite l (bit mode * 2 ^ 16 + bit twin * 2 ^ 17 + 2 ^ 31)).told ([0, 1, 2].map R.FB_CTL)

def cmdFabJob (fn p job : Nat) (s : State) : State × Reply :=
  let other := match s.jobPart 0 job with
    | some q => decide (q ≠ p)
    | none => false
  s.cmd [ownPart fn p, refuse 1 other] fun s =>
    (s.each [0, 1, 2] fun s l =>
      let old := s.jobOf l p
      let s := if s.flag (R.FBP_JOB l p) F.FBP_JOB_VALID then s.fset (R.FB_JOB l old) F.FB_JOB_VALID 0 else s
      let s := (s.fset (R.FBP_JOB l p) F.FBP_JOB_JOB job).fset (R.FBP_JOB l p) F.FBP_JOB_VALID 1
      (s.fset (R.FB_JOB l job) F.FB_JOB_PART p).fset (R.FB_JOB l job) F.FB_JOB_VALID 1).told
      ([0, 1, 2].flatMap fun l => [R.FBP_JOB l p, R.FB_JOB l job])

/-- FB_WIN_p_w's two halves. -/
def winWords (lo hi base size perm : Nat) (on : Bool) : Nat × Nat :=
  (lo % 4096 + hi % 4096 * 2 ^ 12 + perm % 16 * 2 ^ 24 + bit on * 2 ^ 31 + base / 65536 % 2 ^ 32 * 2 ^ 32, size / 65536 % 2 ^ 32)

def cmdFabWindow (fn p w lo hi base size perm : Nat) (on : Bool) (s : State) : State × Reply :=
  s.cmd [badAt 4 (decide (hi < lo)), badAt 8 (decide (base % 65536 ≠ 0 ∨ 2 ^ 48 ≤ base)),
    badAt 16 (decide (size % 65536 ≠ 0 ∨ 2 ^ 48 ≤ size)), ownPart fn p] fun s =>
    let v := winWords lo hi base size perm on
    (s.each [0, 1, 2] fun s l =>
      (s.wr (R.FB_WIN l p w) (BitVec.ofNat 64 v.1)).wr (R.FB_WIN l p w + 8) (BitVec.ofNat 64 v.2)).told
      ([0, 1, 2].flatMap fun l => [R.FB_WIN l p w, R.FB_WIN l p w + 8])

def cmdFabBound (fn p us retry : Nat) (s : State) : State × Reply :=
  s.cmd [badAt 2 (decide (us < 2 ∨ 500 < us)), badAt 4 (decide (retry < 1 ∨ 100 < retry)), ownPart fn p] fun s =>
    (s.each [0, 1, 2] fun s l => (s.fset (R.FBP_BOUND l p) F.FBP_BOUND_US us).fset (R.FBP_BOUND l p) F.FBP_BOUND_ARETRY retry).told
      ([0, 1, 2].map fun l => R.FBP_BOUND l p)

def cmdFabRegulate (fn p rate depth : Nat) (on : Bool) (s : State) : State × Reply :=
  s.cmd [badAt 2 (decide (65535 < rate)), badAt 4 (decide (65535 < depth)), ownPart fn p] fun s =>
    (s.each [0, 1, 2] fun s l =>
      let a := R.FBP_LREG l p
      ((s.fset a F.FBP_LREG_RATE (rate / 3)).fset a F.FBP_LREG_DEPTH (max 2 depth)).fset a F.FBP_LREG_EN (bit on)).told
      ([0, 1, 2].map fun l => R.FBP_LREG l p)

/-- FAB_LINK: 0 retrain, 1 off, 2 hold. -/
def State.linkAct (s : State) (k act : Nat) : State :=
  let st := s.linkState k
  let live := decide (st = 2) || decide (st = 3) || decide (st = 4)
  let tries (s : State) (n : Nat) : State := s.setLink k { s.link k with attempts := n }
  match act with
  | 0 => tries (if live then s.linkGoDown k else s) 0
  | 1 => tries ((if live then s.linkGoDown k else s).setLinkState k 0) 3
  | _ => if st = 4 then (s.setLinkState k 3).reroute else s

def cmdFabLink (fn k act : Nat) (s : State) : State × Reply :=
  s.cmd [badAt 1 (decide (2 < act)), pfOnly fn] fun s => (s.linkAct k act, .ok [])

def cmdFabRejoin (fn n : Nat) (s : State) : State × Reply :=
  s.cmd [pfOnly fn, refuse 1 (s.directUp n).isNone] fun s => (s.rejoin n, .ok [])

def cmdFabInject (fn k mode rate win : Nat) (s : State) : State × Reply :=
  s.cmd [badAt 2 (decide (15 < rate)), badAt 3 (decide (win < 1 ∨ 64 < win)), pfOnly fn, refuse 1 (!s.flag R.SEC_DEBUG F.SEC_DEBUG_INJECT)] fun s =>
    (s.lnkInjWrite k (mode + win * 2 ^ 8 + rate * 2 ^ 16)).told [R.LNK_INJ k]

def fbpCounters (p : Nat) : List Nat := [0, 1, 2].flatMap fun l => [R.FBP_CNT0 l p, R.FBP_CNT1 l p, R.FBP_CNT2 l p]
def fabCounters : List Nat :=
  ([0, 1, 2].flatMap fun l => [R.FB_RCPT0 l, R.FB_RCPT1 l]) ++ (List.range 36).flatMap fun k => [R.LNK_CNT0 k, R.LNK_CNT1 k]

def cmdFabStats (fn p : Nat) (clr : Bool) (s : State) : State × Reply :=
  s.cmd [ownPart fn p] fun s =>
    let sum (r : Nat → Nat → Nat) (f : Fld) : Nat × Nat := (8, s.sumFld ([0, 1, 2].map fun l => r l p) f)
    let own := [sum R.FBP_CNT0 F.FBP_CNT0_REMOTETMO, sum R.FBP_CNT0 F.FBP_CNT0_REFUSED, sum R.FBP_CNT1 F.FBP_CNT1_REGWAIT,
      sum R.FBP_CNT1 F.FBP_CNT1_STORELOST, sum R.FBP_CNT2 F.FBP_CNT2_TRANSIT]
    let rest := if fn = 0 then fabCounters.map fun a => (8, (s.rd a).toNat) else []
    let cleared := fbpCounters p ++ (if fn = 0 then fabCounters else [])
    (if clr then s.each cleared fun s a => s.wr a 0 else s, .ok (lay (own ++ rest)))

/-! ## The link regulators (R386) -/

/-- A partition's message waits on the regulator of a link. -/
def State.regHeld (s : State) (k p : Nat) : Bool :=
  decide (s.linkState k = 4) && (vcOrder.any fun v =>
    match (s.link k).txq.find? fun t => decide (t.flit.vc = v) with
    | some t => decide (t.part = some p) && !s.linkPays k t
    | none => false)

/-- A link die's bucket filled over `ns` nanoseconds: the network cycles (two a nanosecond) that messages waited count in REGWAIT, and
what the bucket now holds goes. -/
def State.linkBucket (s : State) (l p ns : Nat) : State :=
  let ks := (List.range 12).map fun i => 12 * l + i
  let s := if ks.any fun k => s.regHeld k p then s.dieCnt (28 + l) (R.FBP_CNT1 l p) F.FBP_CNT1_REGWAIT (2 * ns) else s
  (s.bucketFill (4 + l) true p ns).each ks fun s k => s.linkFlush k

end Sys2Proof.Machine
end

