-- ==== Sys2Proof/Machine/Serving.lean ====
section
/-! DEFINITION. Serving (R403 to R431): items and their parsing, sequences, the step boundary, step records, pauses, weight loads and
swaps. -/

namespace Sys2Proof.Machine

/-! ## Items (R405, R406) -/

def itemNum (b : List Byte) (o n : Nat) : Nat := ofLeBytes ((b.drop o).take n)
def itemOp (b : List Byte) : Nat := itemNum b 0 1
def itemTag (b : List Byte) : Nat := itemNum b 4 4
def itemSeq (b : List Byte) : Nat := itemNum b 8 4

/-- The bytes that an OP uses: first byte and count. -/
def itemUsed (op : Nat) : List (Nat × Nat) :=
  let turn := [(1, 1), (8, 4), (12, 4), (16, 8), (24, 2), (26, 1), (28, 12)]
  [(0, 1), (4, 4)] ++ match op with
  | 1 => (27, 1) :: turn
  | 2 => turn
  | 3 => [(8, 4), (40, 4), (44, 1)]
  | 4 => [(8, 4)]
  | 5 => [(8, 4)]
  | 6 => [(8, 4)]
  | 0x10 => [(8, 8), (16, 8), (24, 4)]
  | 0x11 => [(8, 8), (16, 1), (17, 1)]
  | 0x12 => [(8, 8), (16, 1), (17, 1), (24, 8), (32, 8)]
  | _ => []

def itemOpLegal (op : Nat) : Bool := (decide (1 ≤ op) && decide (op ≤ 7)) || (decide (0x10 ≤ op) && decide (op ≤ 0x12))
def unusedZero (b : List Byte) : Bool :=
  (List.range 64).all fun i => ((itemUsed (itemOp b)).any fun u => decide (u.1 ≤ i) && decide (i < u.1 + u.2)) || decide (b.getD i 0 = 0)

/-- The fields of an item are in range (R406). -/
def fieldsOk (b : List Byte) : Bool :=
  let within (v lo hi : Nat) : Bool := decide (lo ≤ v) && decide (v ≤ hi)
  match itemOp b with
  | 1 => decide (itemNum b 1 1 < 4) && within (itemNum b 12 4) 1 2097151 && decide (itemNum b 16 8 < 2 ^ 48) && within (itemNum b 24 2) 1 65535 &&
      decide (itemNum b 26 1 ≤ 16) && (decide (itemNum b 27 1 ≤ 63) || decide (itemNum b 27 1 = 255))
  | 2 => decide (itemNum b 1 1 < 4) && within (itemNum b 12 4) 1 2097151 && decide (itemNum b 16 8 < 2 ^ 48) && within (itemNum b 24 2) 1 65535 &&
      decide (itemNum b 26 1 ≤ 16)
  | 3 => within (itemNum b 40 4) 1 86400 && within (itemNum b 44 1) 2 3
  | 0x10 => !badSpace (itemNum b 8 8) && !badSpace (itemNum b 16 8) && decide (itemNum b 8 8 % 32 = 0) && decide (itemNum b 16 8 % 32 = 0) &&
      decide (itemNum b 24 4 % 32 = 0)
  | 0x11 => decide (itemNum b 8 8 < 2 ^ 48) && decide (itemNum b 16 1 ≤ 1) && decide (itemNum b 17 1 ≤ 1)
  | 0x12 => !badSpace (itemNum b 8 8) && decide (itemNum b 16 1 ≤ 4) && decide (itemNum b 17 1 ≤ 1) &&
      decide (itemNum b 8 8 % (4 + 4 * itemNum b 17 1) = 0)
  | _ => true

def itemOk (b : List Byte) : Bool := itemOpLegal (itemOp b) && unusedZero b && fieldsOk b

/-- The entry at the head of a submission ring. -/
def State.itemHead (s : State) (p r : Nat) : Option (List Byte) :=
  if s.ringOn p r ∧ s.ringUsed p r ≠ 0 then some (s.hostBytes (s.ringAddr p r (s.cons p r)) 64) else none

/-- An entry is consumed when CONS advances past it (R405). -/
def State.consumeItem (s : State) (p r : Nat) : State := s.fset (R.PT_RK p r) F.PT_RK_CONS ((s.cons p r + 1) % 2 ^ 32)

/-! ## Sequences (R407) -/

def PartSt.seq (x : PartSt) (id : Nat) : Option Seq := x.seqs.find? fun q => decide (q.seqid = id)
def State.seqOf (s : State) (p id : Nat) : Option Seq := (s.part p).bind fun x => x.seq id
def State.putSeq (s : State) (p : Nat) (q : Seq) : State :=
  s.modPart p fun x => { x with seqs := if (x.seq q.seqid).isSome then x.seqs.map fun y => if y.seqid = q.seqid then q else y else x.seqs ++ [q] }
def State.dropSeq (s : State) (p id : Nat) : State := s.modPart p fun x => { x with seqs := x.seqs.filter fun y => decide (y.seqid ≠ id) }

/-- The sequence holds a slot. -/
def Seq.slotted (q : Seq) : Bool := decide (q.mode = .active ∨ q.mode = .idle ∨ q.mode = .pausing)
def PartSt.freeSlot (x : PartSt) : Option Nat := (List.range 4096).find? fun n => !x.seqs.any fun q => q.slotted && decide (q.slot = n)

/-- Items are consumed: the partition exists and is enabled, no step is in flight, and the ledger and its keep have room
(R405, R429, R501). -/
def State.takesItems (s : State) (p : Nat) : Bool :=
  match s.part p with
  | none => false
  | some x => s.flag (R.PT_CTL p) F.PT_CTL_EN && !x.running && decide (x.held.length < 65536) && decide (s.keepCount < 131072)

/-- The maximum committed length (R409). -/
def maxLen : Nat := 2097152

/-! ## A sequence's pages (R239, R415) -/

/-- The pages of the run bases in the sequence's page table that stand in the tier map. -/
def State.seqPages (s : State) (p slot clen : Nat) : List Nat :=
  match (s.slotEntries p slot).head? with
  | none => []
  | some t =>
    let pptr := s.loftNum t.1 (t.2 + 19) 3
    (List.range (ceilDiv clen (max 1 (Config.kvBlock p)))).flatMap fun b =>
      let v := s.loftNum t.1 (pptr + 8 * b) 8
      if v % 2 = 0 then []
      else
        match s.localOff (v / 65536 * 65536) with
        | none => []
        | some o => ((List.range (Config.kvRun p)).map fun i => o / 65536 + i).filter fun pg => decide ((s.mapEnt pg).st ≠ .absent)

/-- A sequence's pages freed. -/
def State.freePages (s : State) (p : Nat) (pgs : List Nat) : State :=
  s.each pgs fun s pg =>
    match s.locate p (pg * 65536) with
    | some u => s.freePage p u.rgn pg
    | none => s

def State.pagesOfSeq (s : State) (p : Nat) (q : Seq) : List Nat := if q.slotted then s.seqPages p q.slot q.clen else q.pages

/-- The sequence ended: its pages are freed and it is gone. -/
def State.endSeq (s : State) (p : Nat) (q : Seq) : State := (s.freePages p (s.pagesOfSeq p q)).dropSeq p q.seqid

/-! ## Length tables and input areas (R268, R408, R410) -/

/-- SEQID, CLEN, TLEN, WGEN, AGEN and XL of the sequence's entry written in every table; the program's own fields stand. -/
def State.writeEntry (s : State) (p : Nat) (q : Seq) : State :=
  s.each (s.slotEntries p q.slot) fun s t =>
    (s.putLoftPart t.1 t.2 (leBytes 4 q.seqid ++ leBytes 4 q.clen ++ leBytes 4 q.tlen)).putLoftPart t.1 (t.2 + 25)
      (leBytes 2 q.wgen ++ leBytes 2 q.agen ++ leBytes 1 0x7F)

/-- Prompt tokens of the turn, the last emitted one included in an APPEND (R409). -/
def Seq.total (q : Seq) : Nat := q.plen + bit q.append
def Seq.prefill (q : Seq) : Bool := decide (q.fed < q.total)
/-- Query positions of the coming step. -/
def Seq.nextCnt (q : Seq) (pchunk : Nat) : Nat := if q.prefill then min pchunk (q.total - q.fed) else 1 + q.ndraft
def Seq.lastChunk (q : Seq) : Bool := decide (q.total ≤ q.fed + q.qcnt)

/-- The token at place `i` of the turn's prompt. -/
def State.promptTok (s : State) (p : Nat) (q : Seq) (i : Nat) : Nat :=
  if q.append ∧ i = 0 then q.lastTok else s.locNum p (q.paddr + 3 * (i - bit q.append)) 3

def State.area (s : State) (a : Nat) : Nat := s.fget a F.PT_INAREA_ADDR * 65536 % 2 ^ 48

/-- The input area of a slot. -/
def State.writeInput (s : State) (p gen : Nat) (q : Seq) : State :=
  let toks := if q.prefill then (List.range q.qcnt).map fun i => s.promptTok p q (q.fed + i) else [q.lastTok]
  let h := leBytes 2 toks.length ++ leBytes 2 q.aslot ++ leBytes 2 gen ++ leBytes 1 (bit q.prefill + 2 * bit (q.prefill && q.lastChunk)) ++
    leBytes 1 q.ndraft ++ leBytes 4 q.seqid ++ List.replicate 52 0
  s.stewPut p (s.area (R.PT_INAREA p) + q.slot * 0x4000) (h ++ toks.flatMap fun t => leBytes 3 t)

/-! ## Verdicts and the commit (R411, R412, R267) -/

structure Verdict where
  nq : Nat
  psn : Bool
  a : Nat
  d : List Nat
  m : List Nat
deriving DecidableEq, Repr

def State.verdict (s : State) (p slot : Nat) : Verdict :=
  let b := s.locBytes p (s.area (R.PT_VERDICT p) + 128 * slot) 128
  let n (o k : Nat) : Nat := itemNum b.1 o k
  { nq := n 0 2, psn := decide (n 2 1 % 2 = 1) || b.2, a := n 3 1, d := (List.range 16).map fun j => n (8 + 3 * j) 3,
    m := (List.range 17).map fun j => n (56 + 3 * j) 3 }

/-- The greatest i ≤ n with D_j = M_j for every j < i. -/
def acceptRun : Nat → List Nat → List Nat → Nat
  | 0, _, _ => 0
  | n + 1, x :: d, y :: m => if x = y then 1 + acceptRun n d m else 0
  | _ + 1, _, _ => 0

/-- The emitted tokens kept: up to the first STOP token, or to MAXTOK of the turn; with why the turn ends (bit 1 STOP, bit 5 MAXTOK). -/
def keepToks (stop : List Nat) (left : Nat) : List Nat → List Nat × Nat
  | [] => ([], 0)
  | t :: r =>
    if stop.contains t then ([t], 2 + (if left ≤ 1 then 32 else 0))
    else if left ≤ 1 then ([t], 32)
    else let x := keepToks stop (left - 1) r; (t :: x.1, x.2)

/-- What the end of a step does to a sequence: committed with its count, its tokens and why it ends; or failed with a cause. -/
inductive Fate where
  | commit (a : Nat) (toks : List Nat) (why : Nat)
  | fail (cause : Nat)
deriving DecidableEq, Repr

def seqFate (q : Seq) (v : Verdict) (gone lost : Bool) : Fate :=
  if lost then .fail lcPkgLost
  else if v.psn ∨ v.nq ≠ q.qcnt ∨ gone then .fail lcPoison
  else if q.prefill then
    if ¬ q.lastChunk then .commit (v.nq - 1) [] 0
    else let k := keepToks q.stop (q.maxtok - q.turn) [v.m.getD 0 0]; .commit (v.nq - 1) k.1 k.2
  else if q.vmode ∧ v.nq ≤ v.a then .fail lcMalformed
  else
    let a := if q.vmode then v.a else acceptRun (v.nq - 1) v.d v.m
    let k := keepToks q.stop (q.maxtok - q.turn) (v.d.take a ++ [v.m.getD a 0])
    .commit (if k.2 = 0 then a else k.1.length - 1) k.1 k.2

/-- The exit list of a slot after a commit (R245, R267, R300): records at or beyond the new length go, and an absent-policy exit records
each newly committed position. -/
def State.writeExits (s : State) (p slot old new : Nat) (lexit : Option Nat) : State :=
  s.each (s.slotEntries p slot) fun s t =>
    let x := s.loftNum t.1 (t.2 + 22) 3 % 2 ^ 22
    if x = 0 then s
    else
      let n := s.loftNum t.1 x 4 % 2 ^ 22
      let recs := ((List.range n).map fun i => s.loftNum t.1 (x + 4 + 4 * i) 4).filter fun r => decide (r % 2 ^ 22 < new)
      let more := match lexit with
        | some l => (List.range (new - old)).map fun i => (old + i) + l % 128 * 2 ^ 22
        | none => []
      let all := recs ++ more
      s.putLoftPart t.1 x (leBytes 4 all.length ++ all.flatMap fun r => leBytes 4 r)

def detailOf (q : Seq) : Nat := q.slot + q.turn * 2 ^ 16 + q.clen * 2 ^ 32

/-- One slot committed or failed at the end of its step: the sequence after it, its record entry, and its ledger record
(cause, detail) where its turn ends. -/
def State.commitSeq (s : State) (p : Nat) (q : Seq) : State × RecEnt × Option (Nat × Nat × Nat × Nat) :=
  let st := s.stepSt p
  let ex := st.exited.find? fun e => decide (e.1 = q.slot)
  let pf := if q.prefill then 8 else 0
  let xf := if ex.isSome then 16 else 0
  match seqFate q (s.verdict p q.slot) (st.gone.contains q.slot) (st.lost.contains q.slot) with
  | .fail c =>
    let q := { q with mode := .idle, tlen := q.clen, qcnt := 0 }
    ((s.putSeq p q).writeEntry p q, ⟨q.seqid, q.slot, 4 + pf + xf, [], q.clen, 0⟩, some (q.tag, q.kind, c, 0))
  | .commit a toks why =>
    let new := q.clen + a + 1
    let lexit := match ex with
      | some (_, l, 0) => some l
      | _ => none
    let s := s.writeExits p q.slot q.clen new lexit
    let q' : Seq :=
      { q with clen := new, tlen := new, fed := (if q.prefill then q.fed + q.qcnt else q.fed), turn := q.turn + toks.length, qcnt := 0,
               lastTok := (toks.getLast?).getD q.lastTok, mode := if why = 0 then .active else .idle }
    let fl := (if why = 0 then 0 else 1) + why + pf + xf
    ((s.putSeq p q').writeEntry p q', ⟨q'.seqid, q'.slot, fl, toks, new, a⟩,
      if why = 0 then none else some (q'.tag, q'.kind, 0, detailOf q'))

/-! ## Step records (R413, R414) -/

def RecEnt.bytes (e : RecEnt) : List Byte :=
  leBytes 4 e.seqid ++ leBytes 2 e.slot ++ leBytes 1 e.toks.length ++ leBytes 1 e.flags ++
    ((e.toks.flatMap fun t => leBytes 3 t) ++ List.replicate 51 0).take 51 ++ leBytes 3 (e.clen % 2 ^ 22) ++ leBytes 1 e.acc ++ [0]

def recHeader (step nseq part swap gen start dur npos : Nat) : List Byte :=
  leBytes 8 step ++ leBytes 2 nseq ++ leBytes 1 part ++ leBytes 1 swap ++ leBytes 2 gen ++ [0, 0] ++ leBytes 8 start ++ leBytes 4 dur ++
    leBytes 4 npos ++ List.replicate 32 0

/-- Sequences that run in the step in flight, in slot order. -/
def insSlot (q : Seq) : List Seq → List Seq
  | [] => [q]
  | x :: r => if q.slot < x.slot then q :: x :: r else x :: insSlot q r
def PartSt.ran (x : PartSt) : List Seq := (x.seqs.filter fun q => decide (0 < q.qcnt)).foldr insSlot []
def PartSt.actives (x : PartSt) : List Seq := x.seqs.filter fun q => decide (q.mode = .active)

/-- The step record written, element by element; its step is the next number. -/
def State.putRecord (s : State) (p : Nat) (x : PartSt) (es : List RecEnt) : State :=
  let n := s.fget (R.PT_STEP p) F.PT_STEP_STEP + 1
  let npos := (x.ran.map (·.qcnt)).foldl (· + ·) 0
  let h := recHeader n es.length p (bit x.stepSwap) x.stepGen x.stepAt (s.now - x.stepAt) npos
  let s := (s.ringPut p 4 h).each es fun s e => s.ringPut p 4 e.bytes
  s.fset (R.PT_STEP p) F.PT_STEP_STEP n

/-- The step controller is ready for the next step. -/
def State.clearStep (s : State) (p : Nat) : State :=
  s.modStep p fun x => { StepSt.idle with rows := x.rows, lastSlots := x.lastSlots, missing := x.missing }

/-- The ledger record of the step itself: in AUTO mode, or of the STEP item it ran for (R427). -/
def State.stepLedger (s : State) (p : Nat) (x : PartSt) (cause : Nat) : State :=
  let n := s.fget (R.PT_STEP p) F.PT_STEP_STEP
  match x.stepItem with
  | some t => s.ledger p t 7 cause (if cause = 0 then n else 0)
  | none => if s.flag (R.PT_CTL p) F.PT_CTL_AUTO then s.ledger p 0 7 cause (if cause = 0 then n else 0) else s

/-- R430 steps 1 and 2: the finished step committed, its record written, then its ledger records. -/
def State.commitStep (s : State) (p : Nat) : State :=
  match s.part p with
  | none => s
  | some x =>
    if ¬ x.running then s
    else
      let r := x.ran.foldl (fun (a : State × List RecEnt × List (Nat × Nat × Nat × Nat)) q =>
        let c := a.1.commitSeq p q
        (c.1, a.2.1 ++ [c.2.1], a.2.2 ++ c.2.2.toList)) (s, [], [])
      let s := r.1.putRecord p x r.2.1
      let s := s.each r.2.2 fun s l => s.ledger p l.1 l.2.1 l.2.2.1 l.2.2.2
      let s := s.stepLedger p x 0
      let s := if x.stepSwap then
          let g := s.fget (R.PT_WGEN p) F.PT_WGEN_NEXT
          (s.fset (R.PT_WGEN p) F.PT_WGEN_CUR g).fset (R.PT_WGEN p) F.PT_WGEN_NEXT 0
        else s
      let s := if s.ptState p = 1 ∨ s.ptState p = 3 then s.fset (R.PT_CTL p) F.PT_CTL_STATE 0 else s
      (s.modPart p fun y => { y with running := false, stepSwap := false, stepItem := none }).clearStep p

/-! ## Turns: START, APPEND, CANCEL (R408, R409, R417, R430) -/

/-- Frames of Bay quota that the partition has left. -/
def State.kvRoom (s : State) (p : Nat) : Nat :=
  (s.memDies.map fun m => s.fget (R.TQ_QUOTA (24 + m) p) F.TQ_QUOTA_QUOTA - s.quotaUsed (24 + m) p).foldl (· + ·) 0

def stopsOf (b : List Byte) : List Nat := ((List.range 4).map fun i => itemNum b (28 + 3 * i) 3).filter fun t => decide (t ≠ 0xFFFFFF)

def State.admitted (s : State) (p : Nat) : State :=
  (s.modPart p fun x => { x with admitted := x.admitted + 1 }).dieCnt 31 (R.PT_CNT0 p) F.PT_CNT0_ADMITTED 1

/-- Admissions are left for this boundary, and the partition is not FAILED (R405, R515). -/
def State.mayAdmit (s : State) (p : Nat) : Bool :=
  match s.part p with
  | none => false
  | some x => decide (x.admitted < max 1 (s.fget (R.PT_SERVE p) F.PT_SERVE_ADMIT)) && decide (s.ptState p ≠ 5)

/-- A record written for an item consumed with no further effect. -/
def State.failItem (s : State) (p r : Nat) (b : List Byte) (cause : Nat) : State := (s.consumeItem p r).ledger p (itemTag b) (itemOp b) cause 0

def State.itemStart (s : State) (p r : Nat) (b : List Byte) : State :=
  match s.part p with
  | none => s
  | some x =>
    let id := itemSeq b
    let ad := itemNum b 27 1
    let pin : Option (Nat × Nat) := if ad = 255 then some (0xFFFF, 0) else spGet (fun _ => none) x.ids ad
    if ¬ s.mayAdmit p then s
    else if (x.seq id).any fun q => decide (q.mode ≠ .expired) then s.failItem p r b lcMalformed
    else
      match pin with
      | none => s.failItem p r b lcAdapter
      | some (aslot, agen) =>
        match x.freeSlot with
        | none => s
        | some slot =>
          if s.kvRoom p < (Config.promptFrames p (itemNum b 12 4)).toNat then s
          else
            let q : Seq :=
              { seqid := id, mode := .active, slot := slot, clen := 0, tlen := 0, wgen := s.fget (R.PT_WGEN p) F.PT_WGEN_CUR,
                agen := agen, aslot := aslot, strict := decide (itemNum b 1 1 % 2 = 1), vmode := decide (2 ≤ itemNum b 1 1), append := false,
                plen := itemNum b 12 4, paddr := itemNum b 16 8, fed := 0, maxtok := itemNum b 24 2, ndraft := itemNum b 26 1,
                stop := stopsOf b, lastTok := 0, turn := 0, tag := itemTag b, kind := 1, qcnt := 0, pages := [], expiry := 0, ttl := 0, tier := 0 }
            let s := (((s.consumeItem p r).dropSeq p id).putSeq p q).admitted p
            s.writeEntry p q

def State.itemAppend (s : State) (p r : Nat) (b : List Byte) : State :=
  if ¬ s.mayAdmit p then s
  else
    match s.seqOf p (itemSeq b) with
    | none => s.failItem p r b lcNotFound
    | some q =>
      match q.mode with
      | .expired => s.failItem p r b lcExpired
      | .paused => s.failItem p r b lcNotFound
      | .active => s.failItem p r b lcBusy
      | .pausing => s.failItem p r b lcBusy
      | .idle =>
        if maxLen < q.clen + itemNum b 12 4 + 1 then s.failItem p r b lcLength
        else
          let q := { q with mode := .active, append := true, plen := itemNum b 12 4, paddr := itemNum b 16 8, fed := 0, maxtok := itemNum b 24 2,
                            ndraft := itemNum b 26 1, stop := stopsOf b, turn := 0, tag := itemTag b, kind := 2,
                            strict := decide (itemNum b 1 1 % 2 = 1), vmode := decide (2 ≤ itemNum b 1 1) }
          (((s.consumeItem p r).putSeq p q).admitted p).writeEntry p q

/-- An active turn ended with a cause; the sequence stays, IDLE. -/
def State.endTurn (s : State) (p : Nat) (q : Seq) (cause : Nat) : State :=
  (s.putSeq p { q with mode := .idle, qcnt := 0, tlen := q.clen }).ledger p q.tag q.kind cause 0

def State.itemCancel (s : State) (p r : Nat) (b : List Byte) : State :=
  match s.seqOf p (itemSeq b) with
  | none => s.failItem p r b lcNotFound
  | some q =>
    let s := s.consumeItem p r
    if q.mode = .active then (s.endTurn p q lcCancelled).ledger p (itemTag b) 5 0 0 else s.ledger p (itemTag b) 5 0 1

def State.itemEnd (s : State) (p r : Nat) (b : List Byte) : State :=
  match s.seqOf p (itemSeq b) with
  | none => s.failItem p r b lcNotFound
  | some q =>
    if q.mode = .pausing then s.failItem p r b lcBusy
    else
      let s := s.consumeItem p r
      let s := if q.mode = .active then s.endTurn p q lcCancelled else s
      (s.endSeq p q).ledger p (itemTag b) 6 0 0

/-! ## Pauses (R415, R416) -/

def State.itemPause (s : State) (p r : Nat) (b : List Byte) : State :=
  match s.seqOf p (itemSeq b) with
  | none => s.failItem p r b lcNotFound
  | some q =>
    match q.mode with
    | .active => s.failItem p r b lcBusy
    | .pausing => s.failItem p r b lcBusy
    | .paused => s.failItem p r b lcNotFound
    | .expired => s.failItem p r b lcNotFound
    | .idle =>
      let away := ((s.part p).map fun x => (x.seqs.filter fun y => decide (y.mode = .paused ∨ y.mode = .expired)).length).getD 0
      if 65536 ≤ away then s.failItem p r b lcQuota
      else
        let tier := itemNum b 44 1
        let pgs := s.seqPages p q.slot q.clen
        let s := s.consumeItem p r
        let s := s.putSeq p { q with mode := .pausing, ttl := itemNum b 40 4, tier := tier, tag := itemTag b, kind := 3, pages := pgs }
        s.each pgs fun s pg =>
          match s.locate p (pg * 65536) with
          | none => s
          | some u =>
            let fr := s.fresh
            match fr.2.askMove p u.home pg tier (if tier = 2 then 0xFFF else fr.1 % 2 ^ 48 * 65536) false with
            | some (t, _) => t
            | none => fr.2

/-- The items that depend on a page that is LOST now (R319, R514): the turn of an active sequence whose page table names the page fails with
PKGLOST, at the end of the step it runs in or at once. -/
def State.lostItems (s : State) (pg : Nat) : State :=
  if (s.mapEnt pg).st ≠ .lost then s
  else
    match s.partOf (pg * 65536) with
    | none => s
    | some p =>
      let hit := ((s.part p).map (·.seqs)).getD [] |>.filter fun q => decide (q.mode = .active) && (s.seqPages p q.slot q.clen).contains pg
      s.each hit fun s q =>
        if 0 < q.qcnt then s.modStep p fun x => { x with lost := q.slot :: x.lost } else s.endTurn p q lcPkgLost

/-- The items that depend on the pages which `t` has LOST and `s` had not. -/
def State.lostSince (t s : State) : State :=
  t.each ((t.mem.map.filter fun e => decide (e.2.st = .lost ∧ (s.mapEnt e.1).st ≠ .lost)).map (·.1)) fun t pg => t.lostItems pg

/-- PAUSE_COMPLETE: no page of the sequence is in a move any more. -/
def State.pauseComplete (s : State) (p id : Nat) : State :=
  match s.seqOf p id with
  | none => s
  | some q =>
    if q.mode ≠ .pausing ∨ q.pages.any fun pg => (s.moveOf pg).isSome then s
    else if q.pages.any fun pg => decide ((s.mapEnt pg).st = .lost) then (s.putSeq p { q with mode := .idle, pages := [] }).ledger p q.tag 3 lcPkgLost 0
    else if q.pages.any fun pg => decide ((s.mapEnt pg).st = .bay) then (s.putSeq p { q with mode := .idle, pages := [] }).ledger p q.tag 3 lcQuota 0
    else (s.putSeq p { q with mode := .paused, expiry := s.now + q.ttl * 1000000 }).ledger p q.tag 3 0 0

/-- SEQUENCE_EXPIRE: at its expiry time a paused sequence's pages are freed; 24 hours later its SEQID is free too. -/
def State.seqExpire (s : State) (p id : Nat) : State :=
  match s.seqOf p id with
  | none => s
  | some q =>
    if q.mode ≠ .paused ∨ s.now < q.expiry then s else (s.freePages p q.pages).putSeq p { q with mode := .expired, pages := [] }

/-- SEQID_RETENTION_EXPIRY: an expired sequence's SEQID is kept for 24 hours. -/
def State.seqForget (s : State) (p id : Nat) : State :=
  match s.seqOf p id with
  | none => s
  | some q => if q.mode = .expired ∧ q.expiry + 86400000000 ≤ s.now then s.dropSeq p id else s

def State.itemResume (s : State) (p r : Nat) (b : List Byte) : State :=
  if ¬ s.mayAdmit p then s
  else
    match s.part p, s.seqOf p (itemSeq b) with
    | some x, some q =>
      if q.mode = .expired then s.failItem p r b lcExpired
      else if q.mode ≠ .paused then s.failItem p r b lcBusy
      else if q.expiry ≤ s.now then s.failItem p r b lcExpired
      else if q.pages.any fun pg => decide ((s.mapEnt pg).st = .lost) then (s.failItem p r b lcPkgLost).endSeq p q
      else
        match x.freeSlot with
        | none => s.failItem p r b 2
        | some slot =>
          let q := { q with mode := .idle, slot := slot, pages := [], tlen := q.clen }
          ((((s.consumeItem p r).putSeq p q).admitted p).writeEntry p q).ledger p (itemTag b) 4 0 0
    | _, _ => s.failItem p r b lcNotFound

/-! ## STEP, COPY, ATOMIC (R406, R427) -/

def State.itemStep (s : State) (p r : Nat) (b : List Byte) : State :=
  match s.part p with
  | none => s
  | some x =>
    if s.flag (R.PT_CTL p) F.PT_CTL_AUTO then s.failItem p r b lcBusy
    else if x.stepItem.isSome then s
    else (s.consumeItem p r).modPart p fun x => { x with stepItem := some (itemTag b) }

/-- An item consumed with messages out. -/
def State.openNew (s : State) (p r : Nat) (b : List Byte) (left : Nat) : State × Nat :=
  match s.part p with
  | none => (s, 0)
  | some x =>
    let i : OpenItem := ⟨itemTag b, itemOp b, 0, x.nextUid, left, 0, 0⟩
    (((s.consumeItem p r).setPart p (some { x with open_ := x.open_ ++ [i], nextUid := x.nextUid + 1 })), x.nextUid)

/-- A unit lies on a LOST page: an item that depends on it fails with PKGLOST (R319, R514). -/
def State.onLost (s : State) (p : Nat) (offs : List Nat) : Bool :=
  (s.pagesOf p offs).any fun pg => decide ((s.mapEnt pg).st = .lost)

/-- The cause of an item that met poison at some of its units. -/
def State.poisonCause (s : State) (p : Nat) (offs : List Nat) (psn : Bool) : Nat :=
  if s.onLost p offs then lcPkgLost else if psn then lcPoison else 0

/-- Units of local space read at their home gateways, whose pages count the access (R320); none while one waits, with what the wait
sets off. -/
def State.readUnits (s : State) (p : Nat) (offs : List Nat) : State × Option (List Sheaf) :=
  let m := s.meetHomes p true false offs
  if m.2 then (m.1, none)
  else
    let r := offs.foldl (fun (a : State × List Sheaf) o => let b := a.1.applyHome p o .load; (b.1, a.2 ++ [b.2]))
      (m.1.countAcc (m.1.pagesOf p offs), [])
    (r.1, some r.2)

/-- Chunks of up to 64 units. -/
def chunks64 (n : Nat) : List (Nat × Nat) := (List.range (ceilDiv n 64)).map fun i => (64 * i, min 64 (n - 64 * i))

/-- COPY. Within the package it runs through the gateways at one time and waits while a page is away; to or from another package it goes
as LOAD and STORE messages of up to 64 units. -/
def State.itemCopy (s : State) (p r : Nat) (b : List Byte) : State :=
  let src := itemNum b 8 8
  let dst := itemNum b 16 8
  let n := itemNum b 24 4 / 32
  let sp := addrPkg s.pkgOwn src
  if n = 0 then (s.consumeItem p r).ledger p (itemTag b) 0x10 0 0
  else if sp ≠ s.pkgOwn then
    if (s.routeTo sp).isNone then s.failItem p r b lcPkgLost
    else
      let e := s.openNew p r b (chunks64 n).length
      e.1.each (chunks64 n) fun s c =>
        let l := s.dieToward sp
        let t := s.nextTag l
        t.2.sendRemote l .load 0 sp p t.1 (some e.2) (dst + 32 * c.1) (t.2.loadMsgOf l sp p t.1 (src % 2 ^ 48 + 32 * c.1) c.2)
  else
    let offs := (List.range n).map fun i => src % 2 ^ 48 + 32 * i
    let rd := s.readUnits p offs
    match rd.2 with
    | none => rd.1
    | some us =>
      let s := rd.1
      let cause := s.poisonCause p offs (us.any (·.psn))
      if addrPkg s.pkgOwn dst = s.pkgOwn then
        let w := s.itemStore p 0 dst us
        let lost := s.onLost p ((List.range n).map fun i => dst % 2 ^ 48 + 32 * i)
        if w.2 then (w.1.consumeItem p r).ledger p (itemTag b) 0x10 (if lost then lcPkgLost else cause) 0 else w.1
      else
        let e := s.openNew p r b 1
        let s := e.1.each (chunks64 n) fun s c =>
          (s.itemStore p e.2 (dst + 32 * c.1) ((us.drop c.1).take c.2)).1
        s.itemSettle p e.2 cause 0

/-- ATOMIC: within the package at the home gateway at one time; else as an ATOMIC message. -/
def State.itemAtomic (s : State) (p r : Nat) (b : List Byte) : State :=
  let a := itemNum b 8 8
  let n := addrPkg s.pkgOwn a
  let off := a % 2 ^ 48
  let w64 := itemNum b 17 1
  let opnd : SheafBits := BitVec.ofNat 256 (itemNum b 24 8 + itemNum b 32 8 * 2 ^ 64 + itemNum b 16 1 * 2 ^ 128 + w64 * 2 ^ 136)
  if n ≠ s.pkgOwn then
    if (s.routeTo n).isNone then s.failItem p r b lcPkgLost
    else
      let e := s.openNew p r b 1
      let l := e.1.dieToward n
      let t := e.1.nextTseq l
      t.2.sendRemote l .atomic 0 n p t.1 (some e.2) 0 (t.2.atomMsgOf l n p t.1 off ⟨opnd, false⟩)
  else
    match s.homeGw p off with
    | none => (s.misroute 31 p off).failItem p r b lcPoison
    | some d =>
      let o := off / 32 * 32
      let x := s.serveUpdate (gwDie d) p 0 [o] (atomUpdate opnd off)
      match x.2 with
      | .wait _ => x.1
      | .got v =>
        let c := s.poisonCause p [o] v.psn
        (((x.1.countAcc (s.pagesOf p [o])).consumeItem p r).ledger p (itemTag b) 0x12 c (if c = 0 then v.bits.toNat % 2 ^ 64 else 0))

/-! ## Weight loads (R418 to R423) -/

structure Stripe where
  layer : Nat
  len : Nat
  src : Nat
  reader : Nat
  dst : Option Nat
  dig : List Byte
deriving DecidableEq, Repr

/-- A stripe entry as this package reads it: where it lands here, if it is a holder. -/
def State.stripeAt (s : State) (p m n : Nat) : Stripe :=
  let e := m + 0x40 + 64 * n
  let hs := (List.range (s.locNum p (e + 18) 2)).map fun i => m + s.locNum p (e + 20) 4 + 16 * i
  { layer := s.locNum p e 1, len := s.locNum p (e + 4) 4, src := s.locNum p (e + 8) 8, reader := s.locNum p (e + 16) 2 % 4096,
    dst := (hs.find? fun h => decide (s.locNum p h 2 % 4096 = s.pkgOwn)).map fun h => s.locNum p (h + 8) 8 % 2 ^ 48,
    dig := (s.locBytes p (e + 32) 32).1 }

/-- The end of a manifest: its stripe entries and the holder lists they name. -/
def State.manifestLen (s : State) (p m : Nat) : Nat :=
  let n := s.locNum p (m + 0x10) 4
  ((List.range n).map fun i => let e := m + 0x40 + 64 * i; s.locNum p (e + 20) 4 + 16 * s.locNum p (e + 18) 2).foldl max (0x40 + 64 * n)

def State.manifestDigest (s : State) (p m : Nat) : List Byte :=
  let b := (s.locBytes p m (s.manifestLen p m)).1
  sm3 (b.take 0x20 ++ List.replicate 32 0 ++ b.drop 0x40)

/-- A manifest keeps to R418. -/
def State.manifestOk (s : State) (p m : Nat) : Bool :=
  let num (o n : Nat) : Nat := s.locNum p (m + o) n
  decide (num 0 4 = 0x52494457) && decide (num 4 2 = 1) && decide (1 ≤ num 6 2) && decide (num 6 2 ≤ 127) &&
    (List.range (num 0x10 4)).all fun i =>
      let t := s.stripeAt p m i
      (decide (t.layer < num 6 2) || decide (t.layer = 0x7F)) && decide (t.len % 0x200000 = 0) && decide (t.len ≤ 0x4000000)

/-- The holders of a stripe: package and local address (R418). -/
def State.stripeHolders (s : State) (p m n : Nat) : List (Nat × Nat) :=
  let e := m + 0x40 + 64 * n
  (List.range (s.locNum p (e + 18) 2)).map fun i =>
    let h := m + s.locNum p (e + 20) 4 + 16 * i
    (s.locNum p h 2 % 4096, s.locNum p (h + 8) 8 % 2 ^ 48)

/-- A stripe's bytes sent to a package as a PAGE message (R385, R420). -/
def State.sendStripe (s : State) (p dst off : Nat) (data : List Byte) : State :=
  let l := s.dieToward dst
  (s.fabSend l (some p) (msgFlits { s.newMsg l 11 dst p with offset := off } ((unitsOfBytes data).map fun x => ⟨x, false⟩))).1

/-- The next package of the chain of R420, in logical order. -/
def State.chainNext (s : State) : Option Nat := s.slice.find? fun n => decide (s.pkgOwn < n)

/-- A stripe passed on to the next package of the chain, under the address that its holder list gives that package (log entry 136). -/
def State.passStripe (s : State) (p m n : Nat) (data : List Byte) : State :=
  match s.chainNext with
  | none => s
  | some k => s.sendStripe p k ((((s.stripeHolders p m n).find? fun h => decide (h.1 = k)).map (·.2)).getD 0) data

/-- What the own package sends for a weight load as it starts (R420). Broadcast: each stripe that it reads, to every other holder. Pipeline:
the first of the chain every stripe to the next; the others pass on what arrives. -/
def State.sendWeights (s : State) (p m : Nat) (pipe : Bool) : State :=
  let own := s.pkgOwn
  let ns := List.range (s.locNum p (m + 0x10) 4)
  let bytes (n : Nat) : List Byte := let t := s.stripeAt p m n; (s.localBlock p (t.src % 2 ^ 48) t.len).1
  if ¬ pipe then
    s.each (ns.filter fun n => decide ((s.stripeAt p m n).reader = own)) fun s n =>
      s.each ((s.stripeHolders p m n).filter fun h => decide (h.1 ≠ own)) fun s h => s.sendStripe p h.1 h.2 (bytes n)
  else if s.slice.all fun k => decide (own ≤ k) then s.each ns fun s n => s.passStripe p m n (bytes n)
  else s.modPart p fun x => { x with passing := x.passing ++ ns.map fun n => (m, n) }

/-- The pages that a stripe covers here. -/
def stripePages (dst len : Nat) : List Nat := (List.range (ceilDiv len 0x200000)).map fun i => dst / 65536 + 32 * i

/-- A page made ready for a stripe: it is MOVEIN until the stripe's digest passes (R419). None where frames or quota are short. -/
def State.openPage (s : State) (p pg : Nat) : Option State :=
  match s.locate p (pg * 65536) with
  | none => none
  | some u =>
    if u.ent.st = .bay then some (s.setMapEnt pg { u.ent with st := .movein })
    else if u.ent.st = .movein then some s
    else
      let s := if u.ent.st = .absent then s else s.freePage p u.rgn pg
      (s.allocPage p { u with ent := s.mapEnt pg }).map fun s => s.setMapEnt pg { s.mapEnt pg with st := .movein }

def State.openPages (s : State) (p : Nat) (pgs : List Nat) : Option State :=
  pgs.foldl (fun (o : Option State) pg => o.bind fun s => s.openPage p pg) (some s)

/-- A weight load done: the manifest becomes the partition's weight directory, and outside a swap its generation runs. -/
def State.wloadDone (s : State) (p : Nat) (w : WLoad) : State :=
  let s := s.modPart p fun x => { x with wloads := x.wloads.filter fun y => decide (y ≠ w) }
  let s := if w.addr % 65536 = 0 then s.fset (R.PT_WDIR p) F.PT_WDIR_ADDR (w.addr / 65536) else s
  let s := if w.swap then s else s.fset (R.PT_WGEN p) F.PT_WGEN_CUR w.wgen
  s.ledger p w.tag 0x11 0 w.wgen

/-- A WLOAD item (R418, R420, R421). -/
def State.itemWload (s : State) (p r : Nat) (b : List Byte) : State :=
  match s.part p with
  | none => s
  | some x =>
    let m := itemNum b 8 8
    let swap := decide (itemNum b 17 1 = 1)
    let gen := s.locNum p (m + 8) 2
    let keyid := s.locNum p (m + 0xC) 4
    let ok := s.manifestOk p m
    let dig := decide (s.manifestDigest p m = (s.locBytes p (m + 0x20) 32).1)
    let mine := (List.range (s.locNum p (m + 0x10) 4)).filterMap fun n =>
      let t := s.stripeAt p m n
      t.dst.map fun d => (n, t.layer, d, t.len)
    let busy := !s.flag (R.PT_SERVE p) F.PT_SERVE_LAYEREN || (x.wloads.any fun w => w.swap) || (s.streamOf p).isSome
    s.readThen p [(m, s.manifestLen p m)] fun s =>
    if ¬ ok then s.failItem p r b lcMalformed
    else if ¬ dig then s.failItem p r b lcDigest
    else if swap ∧ busy then s.failItem p r b lcBusy
    else if swap ∧ gen ≠ (s.fget (R.PT_WGEN p) F.PT_WGEN_CUR + 1) % 65536 then s.failItem p r b lcWgen
    else if (s.wkSlot p keyid).isNone then s.failItem p r b lcNotFound
    else
      let w : WLoad := ⟨itemTag b, m, swap, gen, keyid, mine.map fun t => (t.1, t.2.1), [], decide (itemNum b 16 1 = 1)⟩
      match (if swap then some s else s.openPages p (mine.flatMap fun t => stripePages t.2.2.1 t.2.2.2)) with
      | none => s.failItem p r b lcQuota
      | some s =>
        let s := (s.consumeItem p r).modPart p fun x => { x with wloads := x.wloads ++ [w] }
        let s := if swap then s.fset (R.PT_WGEN p) F.PT_WGEN_NEXT gen else s
        let s := if swap ∧ s.ptState p = 4 then
            ((s.openPages p (mine.flatMap fun t => stripePages t.2.2.1 t.2.2.2)).getD s).fset (R.PT_CTL p) F.PT_CTL_STATE 3
          else s
        let s := if swap ∧ s.ptState p ≠ 3 then s else s.sendWeights p m w.pipe
        if mine.isEmpty ∧ ¬ swap then s.wloadDone p w else s

/-- A stripe that passed its digest, decrypted under the weight key and written under the memory keys (R419). -/
def State.landStripe (s : State) (p n dst keyid : Nat) (data : List Byte) : State :=
  let key := ((s.wkSlot p keyid).bind fun i => spGet (fun _ => none) s.sec.wkeys (p * 16 + i)).getD []
  let s := s.each (List.range (data.length / 64)) fun s j =>
    let o := dst + 64 * j
    match s.locate p o with
    | none => s
    | some u =>
      let f := u.phys o / 64 * 64
      let c := xtsDec (key.take 16) (key.drop 16) (n * 2 ^ 32 + j) ((data.drop (64 * j)).take 64)
      let x (i : Nat) : Sheaf := ⟨sheafOfBytes ((c.drop (32 * i)).take 32), false⟩
      s.setBurst (burstKey u.home f) (some (s.makeBurst p u.rgn.enc (s.globalAddr o) u.ent.gen u.home f (x 0) (x 1)))
  s.each (stripePages dst data.length) fun s pg =>
    match s.locate p (pg * 65536) with
    | none => s
    | some u => (s.setMapEnt pg { u.ent with st := .bay }).copyOut pg u.home u.ent.frame 32

/-- After a stripe the step controller may arrive for the episode that waits (R422). -/
def State.layerRetry (s : State) (p : Nat) : State :=
  match s.part p with
  | none => s
  | some x =>
    let ch := s.fget (R.PT_SERVE p) F.PT_SERVE_LAYERCH
    if x.running ∧ x.stepSwap ∧ s.isLayerCh p ch ∧ ¬ s.flag (R.PKN_CFG ch) F.PKN_CFG_SARR ∧ ¬ swapHolds x x.episode then s.sarr ch else s

/-- A stripe that arrives on a chain goes on to the next package, once (R420). -/
def State.passArrival (s : State) (p n : Nat) (data : List Byte) : State :=
  match ((s.part p).map (·.passing)).getD [] |>.find? fun x => decide (x.2 = n ∧ data.length = (s.stripeAt p x.1 n).len) with
  | none => s
  | some x => (s.modPart p fun y => { y with passing := y.passing.erase x }).passStripe p x.1 n data

/-- STRIPE_ARRIVAL: stripe `n` of the oldest weight load that awaits it. -/
def State.stripeArrival (s : State) (p n : Nat) (data : List Byte) : State :=
  let s := s.passArrival p n data
  match s.part p with
  | none => s
  | some x =>
    match x.wloads.find? fun w => w.waiting.any fun y => decide (y.1 = n) with
    | none => s
    | some w =>
      let t := s.stripeAt p w.addr n
      if w.swap ∧ ¬ x.stepSwap then s
      else if data.length = t.len ∧ sm3 data = t.dig then
        let w' := { w with waiting := w.waiting.filter fun y => decide (y.1 ≠ n) }
        let s := s.landStripe p n (t.dst.getD 0) w.keyid data
        let s := s.modPart p fun x => { x with wloads := x.wloads.map fun y => if y = w then w' else y }
        let s := if w'.waiting.isEmpty then s.wloadDone p w' else s
        s.layerRetry p
      else if w.retried.contains n then
        let s := s.each (stripePages (t.dst.getD 0) t.len) fun s pg =>
          let e := s.mapEnt pg
          if e.st = .movein then s.setMapEnt pg { e with st := .lost } else s
        let s := (s.modPart p fun x => { x with wloads := x.wloads.filter fun y => decide (y ≠ w) }).ledger p w.tag 0x11 lcDigest w.wgen
        if w.swap then s.fset (R.PT_CTL p) F.PT_CTL_STATE 4 else s
      else s.modPart p fun x => { x with wloads := x.wloads.map fun y => if y = w then { w with retried := n :: w.retried } else y }

/-! ## The rings read (R405, R430) -/

def isAdmission (op : Nat) : Bool := decide (op = 1 ∨ op = 2 ∨ op = 4)

/-- The entry at the head of ring `r` taken, if it can be. -/
def State.takeItem (s : State) (p r : Nat) : State :=
  if ¬ s.takesItems p then s
  else
    match s.itemHead p r with
    | none => s
    | some b =>
      if ¬ itemOk b then s.failItem p r b lcMalformed
      else
        match itemOp b with
        | 1 => s.itemStart p r b
        | 2 => s.itemAppend p r b
        | 3 => s.itemPause p r b
        | 4 => s.itemResume p r b
        | 5 => s.itemCancel p r b
        | 6 => s.itemEnd p r b
        | 7 => s.itemStep p r b
        | 0x10 => s.itemCopy p r b
        | 0x11 => s.itemWload p r b
        | _ => s.itemAtomic p r b

/-- One pass over the rings, SQ0 to SQ3 in turn; in the first passes entries of kinds START, APPEND and RESUME stay. -/
def State.readPass (s : State) (p : Nat) (admits : Bool) : State :=
  s.each (List.range 4) fun s r =>
    match s.itemHead p r with
    | none => s
    | some b => if isAdmission (itemOp b) && !admits then s else s.takeItem p r

/-- Passes until one takes nothing. -/
def State.readRings (s : State) (p : Nat) (admits : Bool) : Nat → State
  | 0 => s
  | n + 1 =>
    let t := s.readPass p admits
    if (List.range 4).all fun r => decide (t.cons p r = s.cons p r) then t else t.readRings p admits n

def State.ringsUsed (s : State) (p : Nat) : Nat := ((List.range 4).map fun r => s.ringUsed p r).foldl (· + ·) 0

/-! ## The step boundary (R430) -/

/-- Pending ADAPTER_PUT commands applied (R417). -/
def State.applyPuts (s : State) (p : Nat) : State :=
  s.modPart p fun x => x.puts.foldl (fun (x : PartSt) a =>
    let g := (spGet (fun _ => 0) x.gens a.1 + 1) % 65536
    { x with ids := spPut (fun _ => none) x.ids a.1 (some (a.2, g)), gens := spPut (fun _ => 0) x.gens a.1 g }) { x with puts := [] }

/-- Adapter slots that no id points at, no pending put fills and no sequence pins are free (R417). -/
def PartSt.freeAdapters (x : PartSt) : PartSt :=
  { x with alloc := x.alloc.filter fun e =>
      (x.ids.any fun i => decide (i.2.map (·.1) = some e.1)) || (x.puts.any fun a => decide (a.2 = e.1)) ||
        x.seqs.any fun q => decide (q.aslot = e.1) && decide (q.mode ≠ .expired) }

/-- A swap whose WLOAD was accepted begins: the next step is the swap step (R421). -/
def State.beginSwap (s : State) (p : Nat) : State :=
  match s.part p with
  | none => s
  | some x =>
    match x.wloads.find? (·.swap) with
    | none => s
    | some w =>
      if x.stepSwap ∨ s.ptState p ≠ 0 then s
      else
        let pgs := w.waiting.flatMap fun n => let t := s.stripeAt p w.addr n.1; stripePages (t.dst.getD 0) t.len
        let s := (s.openPages p pgs).getD s
        let ch := s.fget (R.PT_SERVE p) F.PT_SERVE_LAYERCH
        let s := if s.isLayerCh p ch then s.fset (R.PKN_CFG ch) F.PKN_CFG_SARR 0 else s
        ((s.modPart p fun x => { x with stepSwap := true }).fset (R.PT_CTL p) F.PT_CTL_STATE 3).sendWeights p w.addr w.pipe

/-- Sequences as the next step takes them: under a swap those pinned to the old generation fail, the others take the new one. -/
def State.stepSeqs (s : State) (p gen : Nat) (swap : Bool) : State :=
  let pchunk := s.fget (R.PT_SERVE p) F.PT_SERVE_PCHUNK
  s.each (((s.part p).map (·.seqs)).getD []) fun s q =>
    if ¬ q.slotted then s
    else if swap ∧ q.strict ∧ q.wgen ≠ gen then if q.mode = .active then s.endTurn p q lcWgen else s
    else
      let q := if swap then { q with wgen := gen } else q
      let q := if q.mode = .active then let n := q.nextCnt pchunk; { q with qcnt := n, tlen := q.clen + n } else { q with tlen := q.clen }
      let s := (s.putSeq p q).writeEntry p q
      if q.mode = .active then s.writeInput p gen q else s

/-- A step may start (R414, R423, R429, R515): there is one to run, no state forbids it, and OQ has room for its record. -/
def State.stepDue (s : State) (p : Nat) : Bool :=
  match s.part p with
  | none => false
  | some x =>
    s.flag (R.PT_CTL p) F.PT_CTL_EN && !x.running && !x.parking && decide (x.held.length < 65536) &&
      (decide (s.ptState p = 0) || (decide (s.ptState p = 3) && x.stepSwap)) &&
      (if s.flag (R.PT_CTL p) F.PT_CTL_AUTO then !x.actives.isEmpty else x.stepItem.isSome)

def State.recordFits (s : State) (p : Nat) : Bool :=
  match s.part p with
  | none => false
  | some x => s.ringRoom p 4 (1 + x.actives.length)

/-- The prompt bytes that the next step's input areas are written from (R409, R410). -/
def State.promptReads (s : State) (p : Nat) : List (Nat × Nat) :=
  let pchunk := s.fget (R.PT_SERVE p) F.PT_SERVE_PCHUNK
  (((s.part p).map (·.seqs)).getD []).filterMap fun q =>
    if q.slotted ∧ q.mode = .active ∧ q.prefill then
      let app := bit q.append
      some (q.paddr + 3 * (q.fed - app), 3 * (q.nextCnt pchunk - (app - q.fed)))
    else none

/-- STEP_RELEASE (R410, R414, R422): length tables and input areas are written and the step runs; a full OQ holds it. -/
def State.stepRelease (s : State) (p : Nat) : State :=
  if ¬ s.stepDue p ∨ ¬ s.walksDone p then s
  else if ¬ s.recordFits p then s.dieCnt 31 (R.PT_CNT1 p) F.PT_CNT1_OQWAIT 1
  else
    match s.part p with
    | none => s
    | some x =>
      let gen := if x.stepSwap then s.fget (R.PT_WGEN p) F.PT_WGEN_NEXT else s.fget (R.PT_WGEN p) F.PT_WGEN_CUR
      s.readThen p (s.promptReads p) fun s =>
      let s := (s.netStep p).clearMissing p
      let s := s.each (s.diesOf p) fun s d => s.each (List.range 64) fun s i => s.wr (R.RTE_XSET d i) 0
      let s := s.stepSeqs p gen x.stepSwap
      let s := s.modPart p fun x => { x with running := true, stepAt := s.now, stepGen := gen, admitted := 0, episode := 0 }
      let s := s.fset (R.PT_CTL p) F.PT_CTL_STATE (if x.stepSwap then 3 else 1)
      let ch := s.fget (R.PT_SERVE p) F.PT_SERVE_LAYERCH
      let hold := x.stepSwap && swapHolds x 0
      if s.isLayerCh p ch ∧ ¬ s.flag (R.PKN_CFG ch) F.PKN_CFG_SARR ∧ ¬ hold then s.sarr ch else s

/-- The verdicts that the commit of a finished step reads. -/
def State.verdictReads (s : State) (p : Nat) : List (Nat × Nat) :=
  match s.part p with
  | none => []
  | some x => if x.running then x.ran.map fun q => (s.area (R.PT_VERDICT p) + 128 * q.slot, 128) else []

/-- STEP_BOUNDARY (R430), once no walk of the partition is in flight (R268). -/
def State.stepBoundary (s : State) (p : Nat) : State :=
  if ¬ s.walksDone p then s else
  s.readThen p (s.verdictReads p) fun s =>
  let s := s.commitStep p
  let s := ((s.applyPuts p).modPart p PartSt.freeAdapters).beginSwap p
  let s := s.readRings p false (s.ringsUsed p + 1)
  let s := s.readRings p true (s.ringsUsed p + 1)
  s.stepRelease p

/-- The item at the head of a ring taken between steps, where its OP is `op`. -/
def State.itemRow (s : State) (p r op : Nat) : State :=
  match s.itemHead p r with
  | none => s
  | some b => if itemOp b = op then s.takeItem p r else s

/-! ## Rings written (R404) -/

def State.prodWrite (s : State) (fn p r v : Nat) : State :=
  if fn ≠ 0 ∧ (fn ≠ p + 1 ∨ (s.part p).isNone) then s.decodeMiss fn (R.PT_RP p r)
  else if s.ringN p r < (v + 2 ^ 32 - s.cons p r) % 2 ^ 32 then s.fset (R.PT_RC p r) F.PT_RC_ERR 1
  else s.fset (R.PT_RP p r) F.PT_RP_PROD v

/-- OQ is ring 4, LQ ring 5. -/
def State.consWrite (s : State) (fn p r v : Nat) : State :=
  if fn ≠ 0 ∧ (fn ≠ p + 1 ∨ (s.part p).isNone) then s.decodeMiss fn (R.PT_RK p r)
  else if s.ringN p r < (s.prod p r + 2 ^ 32 - v) % 2 ^ 32 then s.fset (R.PT_RC p r) F.PT_RC_ERR 1
  else
    let s := s.fset (R.PT_RK p r) F.PT_RK_CONS v
    if r = 5 then s.ledgerDrain p 65536 else s

end Sys2Proof.Machine
end

