-- ==== Sys2Proof/Machine/ServeCmd.lean ====
section
/-! DEFINITION. Clusters given and taken back (R99), save areas and time-slicing (R424 to R426), the function-level reset of a virtual
function (R402), and the mailbox commands of R432. -/

namespace Sys2Proof.Machine

/-! ## Clusters (R20, R99) -/

def clusterTiles (d c : Nat) : List Nat := (List.range 8).map fun t => d * 64 + c * 8 + t

/-- The tiles of the clusters that a mask for each die names. -/
def maskTiles (l : List (BitVec 8)) : List Nat :=
  (List.range 24).flatMap fun d => (List.range 8).flatMap fun c => if (l.getD d 0).toNat.testBit c then clusterTiles d c else []

def State.allBanks (s : State) (g code : Nat) : State := s.each (List.range 32) fun s b => s.bankTo g b code

/-- A tile taken back: stopped, reset, its banks OFF; it belongs to none. -/
def State.takeTile (s : State) (g : Nat) : State :=
  let s := (s.setRun g 0).tileReset g
  (s.allBanks g 0).fset (R.TIL_OWNER g) F.TIL_OWNER_ASSIGNED 0

/-- A tile given: its counters cleared (R75, R124, R208, R274), its island on, then every bank from OFF to ON (R99, R449). -/
def State.giveTile (s : State) (p g : Nat) : State :=
  let s := ((s.cntClear g).arClear g).fset (R.CLK_ISL g) F.CLK_ISL_ON 1
  let s := (s.fset (R.TIL_OWNER g) F.TIL_OWNER_PART p).fset (R.TIL_OWNER g) F.TIL_OWNER_ASSIGNED 1
  s.allBanks g 3

/-- Tiles given to a partition, and its regions written at their dies (R344). -/
def State.giveTiles (s : State) (p : Nat) (gs : List Nat) : State :=
  (s.each gs fun s g => s.giveTile p g).each ((gs.map (· / 64)).eraseDups) fun s d => (s.rgnShow p d).markUsed d

/-! ## Save areas (R202 to R204, R424, R425) -/

def State.saveAt (s : State) (p : Nat) : Nat := s.area (R.PT_SAVE p)

/-- The yield-point map entry of a point in a tile's program, by address; none where the map has none. -/
def State.yieldEntry (s : State) (g id : Nat) : Option Nat :=
  let o := s.progNum g 0x60 4
  if o = 0 then none else ((List.range (s.progNum g 0x64 4)).map fun i => o + 32 * i).find? fun e => decide (s.progNum g e 2 = id)

/-- The live ranges of a point, in map order: first line and count. -/
def State.liveRanges (s : State) (g id : Nat) : List (Nat × Nat) :=
  match s.yieldEntry g id with
  | none => []
  | some e => (List.range (s.progNum g (e + 2) 2)).map fun i =>
      let v := s.progNum g (s.progNum g (e + 28) 4 + 8 * i) 8
      (bitsOf v 21 6, bitsOf v 47 32)

def rangeLines (l : List (Nat × Nat)) : List Nat := l.flatMap fun r => (List.range r.2).map fun i => (r.1 + i) % 65536

/-- Alias `a` in its 16 bytes (log entry 20): TYPE, MODE and EXPIRED, the index or channel, the count, PART, QUANT. -/
def State.aliasSave (s : State) (g a : Nat) : List Byte :=
  let i := s.aliasIdx g a
  let r := R.TIL_ARC g (i % 64)
  let arc := decide (s.aliasType g a = 2)
  leBytes 1 (s.aliasType g a) ++
    leBytes 1 (if arc then s.fget r F.TIL_ARC_MODE + 2 * s.fget r F.TIL_ARC_EXPIRED else 0) ++ leBytes 2 i ++ leBytes 2 (s.aliasCount g a) ++
    leBytes 2 (if arc then s.fget r F.TIL_ARC_PART else 0) ++ leBytes 2 (if arc then s.fget r F.TIL_ARC_QUANT else 0) ++ List.replicate 6 0

/-- The registers of the 512-byte block, in order; TIL_PBASE follows those that the manual names. -/
def ctxRegs (g : Nat) : List Nat :=
  (List.range 6).map (R.TIL_SPC g) ++ (List.range 6).map (R.TIL_DBASE g) ++ (List.range 4).map (R.TIL_VAR g) ++ [R.TIL_RNG g, R.TIL_ARSTAT g] ++
    (List.range 3).map (R.TIL_TMO g) ++ [R.TIL_PBASE g]

/-- The record of a parked tile: its units, with the poison of what the Loft held. -/
def State.tileRecord (s : State) (g : Nat) : List Sheaf :=
  let y := R.TIL_YREQ g
  let ended := s.flag y F.TIL_YREQ_ENDED
  let id := s.fget y F.TIL_YREQ_ID
  let rs := if ended then [] else s.liveRanges g id
  let lines := rangeLines rs
  let head := leBytes 8 g ++ leBytes 8 (id + bit ended * 2 ^ 16) ++ leBytes 8 rs.length ++ leBytes 8 (0x3840 + 64 * lines.length) ++
    List.replicate 32 0
  let ctx := (ctxRegs g).flatMap (fun a => leBytes 8 (s.rd a).toNat) ++ leBytes 8 (s.ilv g)
  let al := (List.range 63).flatMap fun a => s.aliasSave g a
  let arcs := (List.range 64).flatMap fun n => leBytes 8 (s.rd (R.TIL_ARC g n)).toNat
  let fixed := head ++ ctx ++ List.replicate (512 - ctx.length) 0 ++ al ++ List.replicate 16 0 ++ arcs
  let tabs := engsAll.flatMap fun e => (List.range 64).map fun k => s.loftSheaf g ((s.descAddr g e k) % 2 ^ 22)
  ((unitsOfBytes fixed).map fun x => ⟨x, false⟩) ++ tabs ++ lines.flatMap fun l => [s.loftSheaf g (64 * l), s.loftSheaf g (64 * l + 32)]

/-- The channels of a partition at every node, enabled or not. -/
def State.chanNodes (s : State) (p : Nat) : List (BNode × Nat) :=
  (List.range 64).flatMap fun ch => (allNodes.filter fun n => decide (s.nodePart n ch = p)).map fun n => (n, ch)

/-- The configuration registers of a partition's channels at every node (R202). -/
def State.chanRegs (s : State) (p : Nat) : List Nat := (s.chanNodes p).flatMap fun x => nodeRegs x.1 x.2

/-- The save area written, then the tiles reset (R425). -/
def State.savePart (s : State) (p : Nat) : State :=
  let gs := s.tilesOf p
  let recs := gs.flatMap s.tileRecord
  let regs := s.chanRegs p
  let cfg := leBytes 8 regs.length ++ regs.flatMap fun a => leBytes 8 a ++ leBytes 8 (s.rd a).toNat
  let head := leBytes 2 p ++ leBytes 2 s.pkgOwn ++ leBytes 2 (s.fget (R.PT_WGEN p) F.PT_WGEN_CUR) ++ [0, 0] ++
    leBytes 8 (s.fget (R.PT_STEP p) F.PT_STEP_STEP) ++ sm3 (recs.flatMap fun x => sheafBytes x.bits) ++ List.replicate 208 0
  let a := s.saveAt p
  let t := ((s.stewPut p a head).stewUnits p (a + 256) recs).stewPut p (a + 256 + 32 * recs.length) cfg
  (t.each gs fun s g => s.takeTile g).modPart p fun x => { x with parking := false, saved := true }

/-- An alias written from its 16 bytes: a semaphore of the partition that no other tile owns is taken first, and the entry meets the
checks of R177, R179 and R206. -/
def State.aliasRestore (s : State) (p g a : Nat) (b : List Byte) : State :=
  let n (o k : Nat) : Nat := itemNum b o k
  let d := g / 64
  let i := n 2 2
  let free : Bool := decide (s.grpPart d (i / 32) = some p) && (!s.owned d i || decide (s.ownerOf d i = g % 64))
  let s := if n 0 1 = 1 ∧ free then (s.fset (R.SYN_SEM d i) F.SYN_SEM_OWNER (g % 64)).fset (R.SYN_SEM d i) F.SYN_SEM_OWNED 1 else s
  s.aliasWrite g a (i % 2 ^ 11 + n 0 1 % 4 * 2 ^ 12 + (if n 0 1 = 3 then n 4 2 * 2 ^ 16 else 0))

/-- The alias table of a tile written from its record at `a`. -/
def State.aliasesRestore (s : State) (p g a : Nat) : State :=
  let t := s.each (List.range 63) fun s k => s.clearAlias g k
  t.each (List.range 63) fun t k => t.aliasRestore p g k (s.locBytes p (a + 0x240 + 16 * k) 16).1

/-- The counts of a tile: its semaphores' by alias, and its arrival counters. -/
def State.countsRestore (s : State) (p g a : Nat) : State :=
  let t := s.each (List.range 63) fun t k =>
    if t.aliasType g k = 1 then t.setAliasCount g k (s.locNum p (a + 0x240 + 16 * k + 4) 2) else t
  t.each (List.range 64) fun t n => t.wr (R.TIL_ARC g n) (BitVec.ofNat 64 (s.locNum p (a + 0x640 + 8 * n) 8))

/-- The registers, engines and Loft of a tile written from its record at `a`. -/
def State.tileRestore (s : State) (p g a : Nat) : State :=
  let num (o n : Nat) : Nat := s.locNum p (a + o) n
  let unit (i : Nat) : Sheaf := s.localUnit p (a + 32 * i)
  let id := num 8 8
  let ended := decide (2 ^ 16 ≤ id)
  let s0 := s
  let s := s.fset (R.TIL_CTL g) F.TIL_CTL_ILV (num (0x40 + 8 * (ctxRegs g).length) 8)
  let s := s.each (List.range (ctxRegs g).length) fun s i => s.wr ((ctxRegs g).getD i 0) (BitVec.ofNat 64 (s0.locNum p (a + 0x40 + 8 * i) 8))
  let s := s.each (List.range 384) fun s i => s.putLoftSheaf g (s.descAddr g (engOf (i / 64)) (i % 64) % 2 ^ 22) (unit (66 + i))
  let s := s.each engsAll fun s e =>
    let gone := ended || (match s.yieldEntry g (id % 2 ^ 16) with
      | some y => decide (s.progNum g (y + 4 + 4 * engIdx e) 4 = 0xFFFFFFFF)
      | none => false)
    s.setEng g e { EngSt.idle with nextUid := (s.eng g e).nextUid, ended := gone }
  let lines := if ended then [] else rangeLines (s.liveRanges g (id % 2 ^ 16))
  s.each (List.range lines.length) fun s j =>
    let l := lines.getD j 0
    (s.putLoftSheaf g (64 * l) (unit (450 + 2 * j))).putLoftSheaf g (64 * l + 32) (unit (451 + 2 * j))

/-- Each tile with the place of its record. -/
def State.recordPlaces (s : State) (p : Nat) : Nat → List Nat → List (Nat × Nat)
  | _, [] => []
  | a, g :: r => (g, a) :: s.recordPlaces p (a + s.locNum p (a + 24) 8) r

/-- A partition whose clusters it holds again (R204, R425): every tile's alias table, then the counts, then the node configuration, then
the tiles themselves, and RUN last. -/
def State.restorePart (s : State) (p : Nat) : State :=
  let l := s.recordPlaces p (s.saveAt p + 256) (s.tilesOf p)
  let stop := match l.getLast? with
    | some x => x.2 + s.locNum p (x.2 + 24) 8
    | none => s.saveAt p + 256
  s.readThen p [(s.saveAt p, stop + 8 + 16 * s.locNum p stop 8 - s.saveAt p)] fun s =>
  let s := s.each l fun s x => s.aliasesRestore p x.1 x.2
  let s := s.each l fun s x => s.countsRestore p x.1 x.2
  let s := s.each (List.range (s.locNum p stop 8)) fun s i =>
    s.wr (s.locNum p (stop + 8 + 16 * i) 8) (BitVec.ofNat 64 (s.locNum p (stop + 16 + 16 * i) 8))
  let s := s.each l fun s x => s.tileRestore p x.1 x.2
  let s := s.each l fun s x => s.setRun x.1 63
  s.modPart p fun x => { x with saved := false }

/-! ## Time slices (R426) -/

/-- The partitions of a slice group that are time-sliced. -/
def State.groupParts (s : State) (grp : Nat) : List Nat :=
  (List.range 16).filter fun p =>
    (s.part p).isSome && decide (s.fget (R.PT_SLICE p) F.PT_SLICE_GROUP = grp) && decide (s.fget (R.PT_SLICE p) F.PT_SLICE_QUANTUM ≠ 0)

def State.prio (s : State) (p : Nat) : Nat := s.fget (R.PT_SLICE p) F.PT_SLICE_PRIO

/-- A parked partition has a step ready. -/
def State.stepReady (s : State) (p : Nat) : Bool :=
  match s.part p with
  | none => false
  | some x => s.flag (R.PT_CTL p) F.PT_CTL_EN && (if s.flag (R.PT_CTL p) F.PT_CTL_AUTO then !x.actives.isEmpty else x.stepItem.isSome)

/-- The partition that runs next: one of higher priority with a step ready, the highest first; else the next in partition order. -/
def State.nextPart (s : State) (p : Nat) (l : List Nat) : Option Nat :=
  let above := l.filter fun q => s.stepReady q && decide (s.prio p < s.prio q)
  match above.foldl (fun (b : Option Nat) q => match b with
      | none => some q
      | some y => if s.prio y < s.prio q then some q else b) none with
  | some q => some q
  | none =>
    match l.find? fun q => decide (p < q) with
    | some q => some q
    | none => l.head?

def State.requestPark (s : State) (p : Nat) : State :=
  (s.each (s.tilesOf p) fun s g => s.yreqWrite g true).modPart p fun x => { x with parking := true }

/-- Released and asked again at the next yield point. -/
def State.repark (s : State) (p : Nat) : State := s.each (s.tilesOf p) fun s g => (s.yreqWrite g false).yreqWrite g true

def State.allParked (s : State) (p : Nat) : Bool := (s.tilesOf p).all fun g => s.flag (R.TIL_YREQ g) F.TIL_YREQ_AT
def State.noPosted (s : State) (p : Nat) : Bool := (s.tilesOf p).all fun g => decide (s.posted g = 0)
/-- A node of the partition's channels shows ARRIVED, PENDING or UP (R203). -/
def State.chanBusy (s : State) (p : Nat) : Bool :=
  (List.range 64).any fun ch => allNodes.any fun n => decide (s.nodePart n ch = p) && s.nodeBusy n ch

/-- The parked partition saved, its clusters given to the next one, which is restored if it was saved (R99, R425, R426). -/
def State.switchTo (s : State) (p q : Nat) : State :=
  let gs := s.tilesOf p
  let s := (s.savePart p).fset (R.PT_CTL p) F.PT_CTL_STATE 2
  let s := s.giveTiles q gs
  let s := match s.part q with
    | some x => if x.saved then s.restorePart q else s
    | none => s
  let run := ((s.part q).map (·.running)).getD false
  s.fset (R.PT_CTL q) F.PT_CTL_STATE (bit run)

/-- The own steward asks for parking: every package's by NOTICE where the job spans packages and the own id is the lowest. -/
def State.askPark (s : State) (p : Nat) : State :=
  if s.flag (R.FBP_JOB 0 p) F.FBP_JOB_VALID then
    if s.slice.any fun n => decide (n < s.pkgOwn) then s else (s.noticeAll 5 s.pkgOwn p).requestPark p
  else s.requestPark p

/-- QUANTUM_EXPIRY: the running partition's slice has ended, or a higher one is ready; parking asked for, then the switch. -/
def State.quantumExpiry (s : State) (grp : Nat) : State :=
  let l := s.groupParts grp
  match l.find? fun p => decide (s.ptState p ≠ 2) with
  | none => s
  | some p =>
    match s.part p, s.nextPart p (l.filter fun q => decide (q ≠ p)) with
    | some x, some q =>
      if x.stepSwap ∨ 3 ≤ s.ptState p then s
      else if ¬ x.parking then s.askPark p
      else if ¬ (s.allParked p ∧ s.noPosted p) then s
      else if s.chanBusy p then s.repark p
      else s.switchTo p q
    | _, _ => s

/-- PARK_TIMEOUT: 20 ms have passed since the request. -/
def State.parkTimeout (s : State) (p : Nat) : State :=
  match s.part p with
  | none => s
  | some x => if ¬ x.parking ∨ s.allParked p then s else (s.dieCnt 31 (R.PT_CNT1 p) F.PT_CNT1_LATEPARK 1).repark p

/-- NOTICE_PARKING: the lowest package asks for the parking of a partition of the job. During a swap step the request waits (R426). -/
def State.noticeParking (s : State) (k : Nat) : State :=
  let held : Bool := match s.rxFront k 0 with
    | some f => (s.part (bitsOf (f.units.getD 0 0).toNat 31 16)).any (·.stepSwap)
    | none => false
  if held then s else s.onNotice k 5 fun s _ _ p => if (s.part p).isSome ∧ p < 16 then s.requestPark p else s

/-! ## Items that fail together (R402) -/

/-- Every item without a record fails with one cause, in the order: open items, weight loads, turns, pauses, the step's item. -/
def State.failAll (s : State) (p cause : Nat) : State :=
  match s.part p with
  | none => s
  | some x =>
    let s := s.each x.unrecorded fun s i => s.ledger p i.1 i.2 cause 0
    s.modPart p fun x =>
      { x with open_ := [], wloads := [], passing := [], stepItem := none,
               seqs := x.seqs.map fun q => if q.mode = .active ∨ q.mode = .pausing then { q with mode := .idle, qcnt := 0, tlen := q.clen } else q }

/-- Mailbox commands of a function in progress end ABORTED. -/
def State.mbAbort (s : State) (fn : Nat) : State :=
  if s.flag (State.mbDb fn) F.MB_DB_BUSY ∧ s.fwif ≠ 0 then s.mbPost fn (s.mbNum fn 0 2) (s.mbNum fn 4 4) .aborted else s

/-- VF_FLR of partition `p`'s virtual function (R402, R498). -/
def State.vfFlr (s : State) (p : Nat) : State :=
  let s := match s.part p with
    | none => s
    | some x =>
      let s := s.failAll p lcReset
      let s := s.each x.seqs fun s q => s.freePages p (s.pagesOfSeq p q)
      let s := (s.modPart p fun x => { x with seqs := [], running := false, stepSwap := false, parking := false, admitted := 0 }).clearStep p
      let s := if s.ptState p = 1 ∨ s.ptState p = 3 then s.fset (R.PT_CTL p) F.PT_CTL_STATE 0 else s
      let s := s.fset (R.PT_WGEN p) F.PT_WGEN_NEXT 0
      s.clearRegs (R.PT_RB p 0) 0xC0
  (s.mbAbort (p + 1)).closeSessions (p + 1)

/-! ## Commands (R432) -/

/-- A cluster that the steward does not assign: it holds a FAULTY tile, or its die is fenced (R506, R512). -/
def State.badClusters (s : State) (l : List (BitVec 8)) : Bool :=
  (List.range 24).any fun d =>
    let m := (l.getD d 0).toNat
    decide (m &&& s.fget (R.DIE_STAT d) F.DIE_STAT_FAULTY ≠ 0) || (decide (m ≠ 0) && s.flag (R.DIE_CTL d) F.DIE_CTL_FENCE)

/-- Counters that start at zero with a partition. -/
def partCounters (p : Nat) : List Nat := R.PT_CNT0 p :: R.PT_CNT1 p :: (tqCounters p ++ fbpCounters p)

def cmdPartCreate (fn p : Nat) (clusters : List (BitVec 8)) (s : State) : State × Reply :=
  s.cmd [badAt 1 (decide (clusters.length ≠ 24)), pfOnly fn, refuse 1 (s.part p).isSome, refuse 2 (s.badClusters clusters),
    refuse 0 (!s.flag R.RST_STAT F.RST_STAT_UP)] fun s =>
    let gs := maskTiles clusters
    let held := gs.any fun g => (s.tilePart g).isSome
    let s := s.clearRegs (R.PT_CTL p) 0x190
    let s := s.each (partCounters p) fun s a => s.wr a 0
    let s := s.putRegBytes (measReg (16 + p)) 4 (List.replicate 32 0)
    let s := { s with sec := { s.sec with epochs := spPut (fun _ => 0) s.sec.epochs p ((spGet (fun _ => 0) s.sec.epochs p + 1) % 2 ^ 32) } }
    let s := s.giveTiles p (gs.filter fun g => (s.tilePart g).isNone)
    let s := if held then s.fset (R.PT_CTL p) F.PT_CTL_STATE 2 else s
    (s.setPart p (some { PartSt.fresh with clusters := clusters }), .ok [])

/-- A partition's channel at a node cleared and disabled; it stays the partition's (R205). -/
def State.chanFree (s : State) (p : Nat) (n : BNode) (ch : Nat) : State :=
  let s := s.each (nodeRegs n ch) fun s a => s.wr a 0
  match n with
  | .cluster d c => s.fset (R.SYN_CLN d c ch) F.SYN_CLN_PART p
  | .die d => s.fset (R.SYN_DIE d ch) F.SYN_DIE_PART p
  | .pkg => (s.wr (R.PKN_ARR ch) 0).fset (R.PKN_CFG ch) F.PKN_CFG_PART p
  | .fab => (s.wr (R.FBN_ARR 0 ch) 0).fset (R.FBN_CFG 0 ch) F.FBN_CFG_PART p

/-- Semaphore groups, channels and aliases of a partition freed (R178, R206). -/
def State.freeSync (s : State) (p : Nat) : State :=
  let s := s.each (s.tilesOf p) fun s g => s.each (List.range 63) fun s a => s.clearAlias g a
  let s := s.each (List.range 24) fun s d => s.each (s.groupsOf d p) fun s k =>
    (s.each (List.range 32) fun s j => s.wr (R.SYN_SEM d (32 * k + j)) 0).wr (R.SYN_GRP d k) 0
  s.each (s.chanNodes p) fun s x => s.chanFree p x.1 x.2

/-- Outputs and gateway queues of a partition freed (R236). -/
def State.freePorts (s : State) (p : Nat) : State :=
  let s := s.each allDies fun s d => s.each (s.outsOf d p) fun s x => (s.setOut (outKey d x.1 x.2) OutSt.idle).setOwner d x.1 x.2 none
  s.each (List.range 8) fun s d => s.each (List.range 32) fun s q =>
    if s.queuePart d q = some p then s.queueSet d q 0 0 false else s

/-- Regions, quotas, regulators, windows and the job of a partition freed (R307, R339, R340, R375, R386). -/
def State.freeMemory (s : State) (p : Nat) : State :=
  let s := s.each ((s.regions.filter fun x => decide (x.1 = p)).map (·.2)) fun s r =>
    let pgs := (List.range (r.size / pageSize r.kind)).map fun i => (r.base + i * pageSize r.kind) / 65536
    (s.each pgs fun s pg => s.freePage p r pg).putRegion p r.idx 0 0
  let s := s.each (List.range 8) fun s d => (s.clearRegs (R.TQ_QUOTA (gwDie d) p) 0x38).setTokens (gwDie d) p 0
  let s := s.each [0, 1, 2] fun s l =>
    let s := if s.flag (R.FBP_JOB l p) F.FBP_JOB_VALID then s.wr (R.FB_JOB l (s.jobOf l p)) 0 else s
    ((s.clearRegs (R.FBP_JOB l p) 0x38).clearRegs (R.FB_WIN l p 0) 0x100).setLinkTokens l p 0
  { s with mem := { s.mem with streams := spPut (fun _ => none) s.mem.streams p none } }

/-- Weight keys of a partition zeroised (R480). -/
def State.dropKeys (s : State) (p : Nat) : State :=
  let s := s.clearRegs (R.SEC_WKEY p 0) 0x80
  { s with sec := { s.sec with wkeys := spClearRange (p * 16) 16 s.sec.wkeys } }

/-- Everything that the partition holds freed. -/
def State.freePart (s : State) (p : Nat) : State :=
  let ds := s.diesOf p
  let gs := s.tilesOf p
  let s := ((s.freeSync p).freePorts p).dropKeys p
  let s := s.freeMemory p
  let s := s.each ds fun s d => if s.rtePart d = p ∧ s.rteOn d then (s.clearRegs (R.RTE_CFG d) 16).modRte d fun _ => RteSt.idle else s
  let s := ((s.clearRegs (R.STEP_PLAN p) 0x40).modStep p fun _ => StepSt.idle).setExpertQueues p []
  let s := s.each gs fun s g => s.takeTile g
  ((s.each ds fun s d => s.markUsed d).clearRegs (R.PT_CTL p) 0x190).setPart p none

def cmdPartDestroy (fn p : Nat) (s : State) : State × Reply :=
  let busy := match s.part p with
    | some x => !x.unrecorded.isEmpty
    | none => false
  s.cmd [badAt 0 (s.part p).isNone, pfOnly fn, refuse 1 busy] fun s => (s.freePart p, .ok [])

def cmdPartRings (fn p : Nat) (rings : List RingSet) (s : State) : State × Reply :=
  s.cmd [badAt 0 (s.part p).isNone, badAt 8 (rings.any fun r => decide (r.base % 4096 ≠ 0 ∨ 2 ^ 64 ≤ r.base ∨ r.log2n < 6 ∨ 16 < r.log2n)),
    ownPart fn p, refuse 1 (rings.any fun r => s.ringOn p r.ring && decide (s.ringUsed p r.ring ≠ 0))] fun s =>
    let s := s.each rings fun s r =>
      let s := s.fset (R.PT_RB p r.ring) F.PT_RB_BASE (r.base / 4096)
      (s.fset (R.PT_RC p r.ring) F.PT_RC_LOG2N r.log2n).fset (R.PT_RC p r.ring) F.PT_RC_EN (bit r.on)
    (s.ledgerDrain p 65536).told (rings.flatMap fun r => [R.PT_RB p r.ring, R.PT_RC p r.ring])

/-- `[a, a + n)` lies in one GEN region of the partition. -/
def State.inGen (s : State) (p a n : Nat) : Bool :=
  match s.rgnOf p a with
  | some r => decide (r.kind = 3) && decide (a + n ≤ r.base + r.size)
  | none => false

/-- What a save area takes at least: its header, and each tile's record without its live ranges. -/
def State.saveMin (s : State) (p : Nat) : Nat :=
  256 + 0x3840 * (maskTiles (((s.part p).map (·.clusters)).getD [])).length

def cmdPartServe (fn p : Nat) (auto : Bool) (admits pchunk layerch : Nat) (layeren : Bool) (inarea verdict save : Nat) (s : State) :
    State × Reply :=
  let out (a : Nat) : Bool := decide (a % 65536 ≠ 0 ∨ 2 ^ 48 ≤ a)
  s.cmd [badAt 0 (s.part p).isNone, badAt 2 (decide (255 < admits)), badAt 4 (decide (pchunk = 0 ∨ 4096 < pchunk)), badAt 6 (decide (63 < layerch)),
    badAt 8 (out inarea), badAt 16 (out verdict), badAt 24 (out save), ownPart fn p,
    refuse 1 (!s.inGen p inarea (4096 * 0x4000) || !s.inGen p verdict (4096 * 128) || !s.inGen p save (s.saveMin p))] fun s =>
    let c := R.PT_CTL p
    let v := R.PT_SERVE p
    let s := (s.fset c F.PT_CTL_EN 1).fset c F.PT_CTL_AUTO (bit auto)
    let s := (s.fset v F.PT_SERVE_ADMIT (max 1 admits)).fset v F.PT_SERVE_PCHUNK pchunk
    let s := (s.fset v F.PT_SERVE_LAYERCH layerch).fset v F.PT_SERVE_LAYEREN (bit layeren)
    let s := if s.ptState p = 1 ∨ s.ptState p = 3 then s
      else
        let s := s.fset (R.PT_INAREA p) F.PT_INAREA_ADDR (inarea / 65536)
        let s := s.fset (R.PT_VERDICT p) F.PT_VERDICT_ADDR (verdict / 65536)
        s.fset (R.PT_SAVE p) F.PT_SAVE_ADDR (save / 65536)
    s.told [c, v, R.PT_INAREA p, R.PT_VERDICT p, R.PT_SAVE p]

def PartSt.freeAdapter (x : PartSt) : Option Nat := (List.range 256).find? fun n => decide (spGet (fun _ => none) x.alloc n = none)

def cmdAdapterPut (fn p aid addr bytes : Nat) (s : State) : State × Reply :=
  let slot := (s.part p).bind PartSt.freeAdapter
  let inRgn := match s.rgnOf p addr with
    | some r => decide (addr + bytes ≤ r.base + r.size)
    | none => false
  s.cmd [badAt 0 (s.part p).isNone, badAt 1 (decide (63 < aid)), badAt 8 (decide (2 ^ 48 ≤ addr) || !inRgn), ownPart fn p,
    refuse 1 slot.isNone] fun s =>
    match s.part p, slot with
    | some x, some n =>
      let g := (spGet (fun _ => 0) x.gens aid + (x.puts.filter fun a => decide (a.1 = aid)).length + 1) % 65536
      (s.setPart p (some { x with alloc := spPut (fun _ => none) x.alloc n (some (addr, bytes)), puts := x.puts ++ [(aid, n)] }),
        .ok (lay [(2, n), (2, g)]))
    | _, _ => (s, .ok [])

def cmdAdapterDrop (fn p aid : Nat) (s : State) : State × Reply :=
  s.cmd [badAt 0 (s.part p).isNone, badAt 1 (decide (63 < aid)), ownPart fn p] fun s =>
    (s.modPart p fun x =>
      PartSt.freeAdapters { x with ids := spPut (fun _ => none) x.ids aid none, puts := x.puts.filter fun a => decide (a.1 ≠ aid) }, .ok [])

def cmdWeightDir (fn p addr : Nat) (s : State) : State × Reply :=
  let run := ((s.part p).map (·.running)).getD false
  let dig := (s.locBytes p (addr + 0x20) 32).1
  s.cmd [badAt 0 (s.part p).isNone, badAt 8 (decide (addr % 65536 ≠ 0 ∨ 2 ^ 48 ≤ addr)), ownPart fn p, refuse 1 run] fun s =>
    s.cmdRead [] p (addr + 0x20) 32 [] fun s =>
      ((s.fset (R.PT_WDIR p) F.PT_WDIR_ADDR (addr / 65536)).measure (16 + p) 8 dig).told [R.PT_WDIR p]

def cmdSliceSet (fn p grp quantum prio : Nat) (s : State) : State × Reply :=
  s.cmd [badAt 0 (s.part p).isNone, badAt 1 (decide (15 < grp)), badAt 2 (decide (10000 < quantum)), badAt 4 (decide (15 < prio)), pfOnly fn] fun s =>
    let a := R.PT_SLICE p
    (((s.fset a F.PT_SLICE_GROUP grp).fset a F.PT_SLICE_QUANTUM quantum).fset a F.PT_SLICE_PRIO prio).told [a]

def cmdServeStats (fn p : Nat) (clr : Bool) (s : State) : State × Reply :=
  s.cmd [badAt 0 (s.part p).isNone, ownPart fn p] fun s =>
    let seqs := ((s.part p).map (·.seqs)).getD []
    let out := lay ([(8, (s.rd (R.PT_CNT0 p)).toNat), (8, (s.rd (R.PT_CNT1 p)).toNat), (4, (seqs.filter Seq.slotted).length),
      (4, (seqs.filter fun q => decide (q.mode = .paused)).length)] ++ (List.range 6).flatMap fun r => [(4, s.prod p r), (4, s.cons p r)])
    (if clr then (s.wr (R.PT_CNT0 p) 0).wr (R.PT_CNT1 p) 0 else s, .ok out)

end Sys2Proof.Machine
end

