-- ==== Sys2Proof/Machine/Power.lean ====
section
/-! DEFINITION. Power and heat (R445 to R464): the arbiter's period, hints, ballast, droop, ageing, sensors, caps, overruns, and the
mailbox commands of R462. -/

namespace Sys2Proof.Machine

def State.modPwr (s : State) (f : PwrSt → PwrSt) : State := { s with pwr := f s.pwr }

/-! ## Heat (R455) -/

def toSigned8 (n : Nat) : Int := if n % 256 < 128 then (n % 256 : Nat) else (n % 256 : Nat) - 256

def State.tjmax (s : State) : Nat := s.fget R.PWR_THCFG F.PWR_THCFG_TJMAX
def State.temp (s : State) (n : Nat) : Int := toSigned8 (s.fget (R.PWR_TS n) F.PWR_TS_TEMP)

/-- The sensors of a zone: one for each cluster and die network of the compute dies, the rest for the whole package. -/
def zoneSensors (z : Nat) : List Nat := if z < 216 then [z] else (List.range 23).map (216 + ·)

def State.zone (s : State) (z : Nat) : Nat := spGet (fun _ => 72) s.pwr.zones z
def State.setZone (s : State) (z n : Nat) : State := s.modPwr fun x => { x with zones := spPut (fun _ => 72) x.zones z n }

/-- The thermal maximum of a tile's clock code. -/
def State.tileZone (s : State) (g : Nat) : Nat :=
  min (s.zone (g / 64 * 9 + g % 64 / 8)) (min (s.zone (g / 64 * 9 + 8)) (s.zone 216))

/-- A reading: its maximum and whether it limits. -/
def State.sensorRead (s : State) (n t : Nat) : State :=
  let a := R.PWR_TS n
  let s := s.fset a F.PWR_TS_TEMP t
  let s := if toSigned8 (s.fget a F.PWR_TS_MAX) < toSigned8 t then s.fset a F.PWR_TS_MAX t else s
  s.fset a F.PWR_TS_LIM (bit (decide ((s.tjmax : Int) ≤ toSigned8 t)))

/-- The thermal maxima after one period; `ms` says a millisecond has passed. -/
def State.zonesStep (s : State) (ms : Bool) : State :=
  let s := s.each (List.range 217) fun s z =>
    let z0 := s.zone z
    if (zoneSensors z).any fun n => decide ((s.tjmax : Int) ≤ s.temp n) then s.setZone z (max 16 (z0 - 1))
    else if ms ∧ (zoneSensors z).all fun n => decide (s.temp n ≤ (s.tjmax : Int) - 3) then s.setZone z (min 72 (z0 + 1))
    else s
  s.fset R.PWR_STAT F.PWR_STAT_THERMLIM (bit ((List.range 217).any fun z => decide (s.zone z < 72)))

/-- The thermal-trip reset starts (R456, R499). -/
def State.trip (s : State) : State :=
  let s := s.fullReset 3
  let s := s.fset R.PWR_STAT F.PWR_STAT_TRIPPED 1
  { s with rst := { s.rst with hold := .trip, tripLow := true } }

def State.sensorSample (s : State) (n t : Nat) : State :=
  let s := s.sensorRead n t
  if 115 ≤ toSigned8 t then s.trip else s

/-! ## What PWR_STAT shows (R457) -/

/-- A channel throttles. -/
def State.modThr (s : State) : Bool := (List.range 96).any fun n => s.flag (R.CH_STAT n) F.CH_STAT_THR

/-- PWR_STAT with MODTHR and ALERT. -/
def State.pwrStat (s : State) : Nat :=
  let v := (fldPut F.PWR_STAT_MODTHR (s.rd R.PWR_STAT) (bit s.modThr)).toNat
  let shown := bitsOf v 55 48
  let alert := decide (shown - (shown &&& s.fget R.PWR_MASK F.PWR_MASK_MASK) ≠ 0)
  v % 2 ^ 63 + bit (!alert) * 2 ^ 63

/-! ## Caps (R458, R459) -/

/-- The target that the part follows: watts, rate, and whether it is the tray's. -/
def State.capTarget (s : State) : Nat × Nat × Bool :=
  let t := s.fget R.PWR_CAP F.PWR_CAP_TRAY
  let h := s.fget R.PWR_CAP F.PWR_CAP_HOST
  if h < t then (h, s.fget R.PWR_CAP F.PWR_CAP_HRATE, false) else (t, s.fget R.PWR_CAP F.PWR_CAP_TRATE, true)

def State.ceil (s : State) : Nat := s.fget R.PWR_STAT F.PWR_STAT_CEIL

def State.capFlags (s : State) : Nat := bit (s.flag R.PWR_STAT F.PWR_STAT_FASTSTR) + 2 * bit s.capTarget.2.2 + 4 * bit (!s.capTarget.2.2)

/-- The fast path's step 1: every tile clock at 0.4 GHz, every floor zero. The time and energy that the draw takes to fall below the new
ceiling are measured, and the manual gives no number for them. -/
def State.fastPath (s : State) (target : Nat) : State :=
  let s := (s.fset R.PWR_STAT F.PWR_STAT_CEIL target).fset R.PWR_STAT F.PWR_STAT_FASTSTR 1
  let s := s.fadd R.PWR_CNT F.PWR_CNT_FASTCAP 1
  let s := s.each (List.range 1536) fun s g =>
    let s := if s.fget (R.TIL_CLK g) F.TIL_CLK_FREQ = 0 then s else s.fset (R.TIL_CLK g) F.TIL_CLK_FREQ 16
    s.fset (R.PWR_ISL g) F.PWR_ISL_FLOOR 0
  let s := s.modPwr fun x => { x with held := [], raised := [], ceilFrac := 0 }
  let d := s.fget R.PWR_STAT F.PWR_STAT_DRAW
  if d ≤ target ∨ s.pwr.overrun.isSome then s
  else
    let f := s.fresh
    let h := f.2.fresh
    h.2.modPwr fun x => { x with overrun := some ⟨s.now, target, d, d - target, s.capFlags, f.1 % 21, h.1 % 2 ^ 32⟩ }

/-- A cap written by the tray or in PWR_CAP.HOST. -/
def State.capWrite (s : State) (tray : Bool) (watts rate : Nat) : State :=
  let w := min 4000 (max 2000 watts)
  let s := if watts < 2000 then s.fset R.PWR_STAT F.PWR_STAT_CAPCLAMP 1 else s
  let s := if tray then (s.fset R.PWR_CAP F.PWR_CAP_TRAY w).fset R.PWR_CAP F.PWR_CAP_TRATE rate
    else (s.fset R.PWR_CAP F.PWR_CAP_HOST w).fset R.PWR_CAP F.PWR_CAP_HRATE rate
  let t := s.capTarget
  let s := s.modPwr fun x => { x with slew := t.2.1 }
  if t.1 < s.ceil ∧ (t.2.1 = 0 ∨ 400 < t.2.1) then s.fastPath t.1 else s

/-- The ceiling of the next period: raised at once, lowered at its rate. -/
def State.ceilStep (s : State) : State :=
  let t := s.capTarget.1
  let c := s.ceil
  if c < t then s.fset R.PWR_STAT F.PWR_STAT_CEIL t
  else if c = t then s
  else
    let n := s.pwr.ceilFrac + s.pwr.slew
    (s.fset R.PWR_STAT F.PWR_STAT_CEIL (max t (c - n / 100))).modPwr fun x => { x with ceilFrac := n % 100 }

/-! ## Overruns (R460) -/

def OverSt.bytes (o : OverSt) : List Byte :=
  leBytes 8 o.start ++ leBytes 2 o.ceil ++ leBytes 2 o.draw ++ leBytes 2 o.excess ++ leBytes 1 o.flags ++ [0] ++ leBytes 4 o.dur ++
    leBytes 4 (ceilDiv o.energy 1000) ++ List.replicate 8 0

def State.overLog (s : State) (o : OverSt) : State :=
  let a := R.PWR_OVRPTR
  let n := s.fget a F.PWR_OVRPTR_NEXT
  let s := { s with stw := { s.stw with ovr := spPutL (fun _ => 0) s.stw.ovr (32 * n) o.bytes } }
  let s := if s.fget a F.PWR_OVRPTR_COUNT = 16 then s.fadd a F.PWR_OVRPTR_LOST 1 else s.fadd a F.PWR_OVRPTR_COUNT 1
  (s.fset a F.PWR_OVRPTR_NEXT ((n + 1) % 16)).fset R.PWR_STAT F.PWR_STAT_OVR 1

/-- The period's measured draw against the ceiling. -/
def State.overStep (s : State) (draw : Nat) : State :=
  let c := s.ceil
  match s.pwr.overrun with
  | none =>
    if draw ≤ c then s
    else s.modPwr fun x => { x with overrun := some ⟨s.now, c, draw, draw - c, s.capFlags, 10, (draw - c) * 10⟩ }
  | some o =>
    if draw ≤ c then (s.modPwr fun x => { x with overrun := none }).overLog o
    else s.modPwr fun x =>
      { x with overrun := some { o with excess := max o.excess (draw - c), dur := o.dur + 10, energy := o.energy + (draw - c) * 10 } }

def State.ovrClear (s : State) : State :=
  let a := R.PWR_OVRPTR
  ((s.fset a F.PWR_OVRPTR_NEXT 0).fset a F.PWR_OVRPTR_COUNT 0).fset a F.PWR_OVRPTR_LOST 0

/-! ## Hints (R450) -/

/-- The oldest hint taken by the arbiter engine: its phase counts from its issue, and one whose phase has begun is late (R461). -/
def State.hintTake (s : State) : State :=
  let isHint : Rpt → Bool := fun r => match r with
    | .hint _ _ _ _ _ _ => true
    | _ => false
  match s.rpt.find? isHint with
  | some (.hint g cls lead dur level t) =>
    let s := { s with rpt := s.rpt.erase (.hint g cls lead dur level t) }
    let s := s.fadd R.PWR_CNT F.PWR_CNT_HINTS 1
    let s := if lead < s.fget R.PWR_CTL F.PWR_CTL_PRELEAD ∨ t + lead ≤ s.now then s.fadd R.PWR_CNT F.PWR_CNT_LATEHINT 1 else s
    s.modPwr fun x => { x with hints := spPut (fun _ => none) x.hints g (some ⟨t, lead, dur, level + 1, cls⟩) }
  | _ => s

/-- The period from now overlaps `[a, phase end)`. -/
def HintSt.over (h : HintSt) (now a : Nat) : Bool := decide (a < now + 10) && (decide (h.dur = 0) || decide (now < h.at_ + h.lead + h.dur))

def State.tileHint (s : State) (g : Nat) : Option HintSt := spGet (fun _ => none) s.pwr.hints g

/-- The hinted level of the period; a hint of class 4 hints at zero. -/
def State.hinted (s : State) (g : Nat) : Nat :=
  match s.tileHint g with
  | none => 0
  | some h => if h.cls ≠ 4 ∧ h.over s.now (h.at_ + (h.lead - s.fget R.PWR_CTL F.PWR_CTL_PRELEAD)) then h.level else 0

/-- A hinted phase is in force. -/
def State.hintOn (s : State) (g : Nat) : Bool :=
  match s.tileHint g with
  | none => false
  | some h => h.over s.now (h.at_ + h.lead)

/-! ## Ballast (R451, R452) -/

def State.islFloor (s : State) (g : Nat) : Nat := s.fget (R.PWR_ISL g) F.PWR_ISL_FLOOR
def State.setFloor (s : State) (g n : Nat) : State := s.fset (R.PWR_ISL g) F.PWR_ISL_FLOOR n

/-- The floor after a period of activity `a`, in units of 1/256: at most 255 as the register holds it. -/
def State.ballast (s : State) (g a : Nat) : State :=
  let a := min 255 a
  if ¬ s.flag R.PWR_CTL F.PWR_CTL_BALEN then (s.setFloor g 0).modPwr fun x => { x with held := spPut (fun _ => 0) x.held g 0 }
  else if s.islFloor g ≤ a then (s.setFloor g a).modPwr fun x => { x with held := spPut (fun _ => 0) x.held g a }
  else
    let n := s.fget R.PWR_CTL F.PWR_CTL_BRAMP
    s.setFloor g (max a (s.islFloor g - ceilDiv (spGet (fun _ => 0) s.pwr.held g) (max 1 n)))

/-- A tile's ME runs ballast. -/
def State.ballastRuns (s : State) (g : Nat) : Bool :=
  decide (0 < s.islFloor g) && (s.tilePart g).isSome && s.runBit g .me && (s.eng g .me).infl.isEmpty

/-- The ballast energy of a period: measured, with no number in the manual. -/
def State.ballastEnergy (s : State) : State :=
  if (List.range 1536).any s.ballastRuns then let f := s.fresh; f.2.fadd R.PWR_BALE F.PWR_BALE_MJ f.1 else s

/-! ## Grants (R446 to R448) -/

/-- What an island asks for: tile, highest code, level. -/
structure Demand where
  g : Nat
  r : Nat
  lv : Nat
deriving DecidableEq, Repr

/-- The level of a tile with its floor lowered by `cut`. -/
def State.levelOf (s : State) (meas : List (Nat × Nat × Nat)) (cut g : Nat) : Nat :=
  let m := ((meas.find? fun x => decide (x.1 = g)).map (·.2.1)).getD 0
  max m (max (s.hinted g) (ceilDiv (s.islFloor g - cut) 64))

def State.demands (s : State) (meas : List (Nat × Nat × Nat)) (cut : Nat) : List Demand :=
  ((List.range 1536).filter fun g => s.flag (R.CLK_ISL g) F.CLK_ISL_ON && (s.tilePart g).isSome).map fun g =>
    ⟨g, min (s.fget R.PWR_CTL F.PWR_CTL_FTGT) (min (s.fget (R.PWR_ISL g) F.PWR_ISL_FMAX) (s.tileZone g)), s.levelOf meas cut g⟩

def sumAt (l : List Demand) (f : Nat) : Nat := (l.map fun d => Config.powerTable d.g (min d.r f) d.lv).foldl (· + ·) 0

/-- The largest code from `n` down to 16 whose sum keeps to the budget. -/
def bestCode (l : List Demand) (budget : Int) : Nat → Option Nat
  | 0 => none
  | n + 1 => if n + 1 < 16 then none else if (sumAt l (n + 1) : Int) ≤ budget then some (n + 1) else bestCode l budget n

/-- The least amount, below 256, by which every floor is lowered so that code 16 keeps to the budget; 0 where none does. -/
def State.floorCut (s : State) (meas : List (Nat × Nat × Nat)) (budget : Int) : Nat :=
  ((List.range 256).find? fun k => decide ((sumAt (s.demands meas k) 16 : Int) ≤ budget)).getD 0

/-- The code of each island, by the order in which what is left is given out. -/
def giveLeft (f : Nat) : Int → List Demand → List (Nat × Nat)
  | _, [] => []
  | left, d :: r =>
    if f < d.r then
      let more : Int := (Config.powerTable d.g (f + 1) d.lv : Int) - Config.powerTable d.g f d.lv
      if more ≤ left then (d.g, f + 1) :: giveLeft f (left - more) r else (d.g, f) :: giveLeft f left r
    else (d.g, d.r) :: giveLeft f left r

/-- A granted code applied to an island's clock: a raise moves at most 4 codes. -/
def State.applyClock (s : State) (g code : Nat) : State :=
  let a := R.TIL_CLK g
  let cur := s.fget a F.TIL_CLK_FREQ
  let new := if cur = 0 then 16 else if code ≤ cur then code else min code (cur + 4)
  let s := if cur < new then s.modPwr fun x => { x with raised := x.raised ++ [g * 128 + cur] } else s
  let s := s.fset a F.TIL_CLK_FREQ new
  s.fset (R.CLK_ISL g) F.CLK_ISL_MV (Config.islandMv g new + 5 * s.fget (R.CLK_ISL g) F.CLK_ISL_VOFF)

def State.grantOne (s : State) (l : List Demand) (codes : List (Nat × Nat)) (g : Nat) : State :=
  let a := R.PWR_ISL g
  let s := s.fset a F.PWR_ISL_HINTED (bit (s.hintOn g))
  match l.find? fun d => decide (d.g = g) with
  | none => ((s.fset a F.PWR_ISL_GRANT 0).fset a F.PWR_ISL_FREQ 0).fset (R.TIL_CLK g) F.TIL_CLK_FREQ 0
  | some d =>
    let c := ((codes.find? fun x => decide (x.1 = g)).map (·.2)).getD 16
    let s := (s.fset a F.PWR_ISL_GRANT (Config.powerTable g c d.lv)).fset a F.PWR_ISL_FREQ c
    (s.fset a F.PWR_ISL_LEVEL d.lv).applyClock g c

/-- One allotment period: `others` bushels drawn by every other island and `draw` watts by the package in the period before, with each
tile's measured level and activity. -/
def State.allotment (s : State) (others draw : Nat) (meas : List (Nat × Nat × Nat)) : State :=
  let us := s.pwr.coolUs + 10
  let s := s.modPwr fun x => { x with coolUs := us % 1000, raised := [] }
  let s := (s.fset R.PWR_STAT F.PWR_STAT_DRAW draw).overStep draw
  let s := (s.ceilStep.zonesStep (decide (1000 ≤ us))).ballastEnergy
  let s := s.each (List.range 1536) fun s g => s.ballast g (((meas.find? fun x => decide (x.1 = g)).map (·.2.2)).getD 0)
  let budget : Int := (4 * s.ceil : Nat) - (others : Int) - 400
  let cut := s.floorCut meas budget
  let s := if cut = 0 then s else s.each (List.range 1536) fun s g => s.setFloor g (s.islFloor g - cut)
  let l := s.demands meas 0
  let best := bestCode l budget 72
  let f := best.getD 16
  let order := (l.filter fun d => decide (s.pwr.lastIsl < d.g)) ++ l.filter fun d => decide (d.g ≤ s.pwr.lastIsl)
  let codes := giveLeft f (budget - (sumAt l f : Int)) order
  let last := ((codes.filter fun x => decide (f < x.2)).getLast?).map (·.1)
  let s := s.each (List.range 1536) fun s g => s.grantOne l codes g
  let s := s.modPwr fun x => { x with lastIsl := last.getD x.lastIsl }
  let s := (s.fset R.PWR_STAT F.PWR_STAT_FCODE f).fset R.PWR_STAT F.PWR_STAT_CAPLIM (bit (best.isNone || l.any fun d => decide (f < d.r)))
  if l.all fun d => decide (s.fget (R.TIL_CLK d.g) F.TIL_CLK_FREQ = s.fget (R.PWR_ISL d.g) F.PWR_ISL_FREQ) then
    s.fset R.PWR_STAT F.PWR_STAT_FASTSTR 0
  else s

/-! ## Droop (R453) -/

def State.droopFire (s : State) (i : Nat) : State :=
  let s := s.fadd (R.CLK_ISL i) F.CLK_ISL_DROOP 1
  let s := s.modPwr fun x => { x with drooped := if x.drooped.contains i then x.drooped else x.drooped ++ [i] }
  match s.pwr.raised.find? fun x => decide (x / 128 = i) with
  | none => s
  | some x =>
    (s.fset (R.TIL_CLK i) F.TIL_CLK_FREQ (x % 128)).modPwr fun y => { y with raised := y.raised.erase x }

def State.droopRecover (s : State) (i : Nat) : State := s.modPwr fun x => { x with drooped := x.drooped.erase i }

/-! ## Ageing (R454) -/

def State.ageLog (s : State) (i vo vn kind fm : Nat) : State :=
  let a := R.AGE_PTR
  let n := s.fget a F.AGE_PTR_NEXT
  let e := leBytes 8 s.now ++ leBytes 2 i ++ leBytes 1 vo ++ leBytes 1 vn ++ leBytes 1 kind ++ leBytes 1 fm ++ [0, 0]
  let s := { s with stw := { s.stw with age := spPutL (fun _ => 0) s.stw.age (16 * n) e } }
  let s := if s.fget a F.AGE_PTR_COUNT = 256 then s.fadd a F.AGE_PTR_LOST 1 else s.fadd a F.AGE_PTR_COUNT 1
  s.fset a F.AGE_PTR_NEXT ((n + 1) % 256)

/-- An island whose critical path is short: one step of trim, or one code less. -/
def State.ageIsland (s : State) (i : Nat) : State :=
  let c := R.CLK_ISL i
  let v := s.fget c F.CLK_ISL_VOFF
  let f := s.fget (R.PWR_ISL i) F.PWR_ISL_FMAX
  if v < 12 then (s.fset c F.CLK_ISL_VOFF (v + 1)).ageLog i v (v + 1) 0 f
  else
    let g := max 16 (f - 1)
    ((s.fset (R.PWR_ISL i) F.PWR_ISL_FMAX g).fset R.PWR_STAT F.PWR_STAT_AGELIM 1).ageLog i v v 1 g

def State.ageingCheck (s : State) (short : List Nat) : State := s.each (short.filter fun i => decide (i < 1701)) State.ageIsland

/-! ## Islands on and off (R449) -/

/-- A die-network or steward island, which cannot be turned off. -/
def alwaysOn (i : Nat) : Bool := (decide (1536 ≤ i) && decide (i < 1568)) || decide (i = 1700)

def State.islandOff (s : State) (i : Nat) : State :=
  let s := s.fset (R.CLK_ISL i) F.CLK_ISL_ON 0
  let s := (s.fset (R.PWR_ISL i) F.PWR_ISL_GRANT 0).fset (R.PWR_ISL i) F.PWR_ISL_FREQ 0
  if i < 1536 then (s.allBanks i 0).fset (R.TIL_CLK i) F.TIL_CLK_FREQ 0 else s

def State.onWrite (s : State) (i : Nat) (on : Bool) : State :=
  if on then s.fset (R.CLK_ISL i) F.CLK_ISL_ON 1
  else if alwaysOn i ∨ s.flag (R.CLK_ISL i) F.CLK_ISL_USED then s.fset (R.CLK_ISL i) F.CLK_ISL_REF 1
  else s.islandOff i

/-! ## Counters (R464) -/

def State.pwrCntClr (s : State) : State := s.wr R.PWR_CNT 0
def State.pwrBaleClr (s : State) : State := s.wr R.PWR_BALE 0
def State.droopClr (s : State) : State := s.each (List.range 1701) fun s i => s.fset (R.CLK_ISL i) F.CLK_ISL_DROOP 0
def State.tsClr (s : State) (n : Nat) : State := s.fset (R.PWR_TS n) F.PWR_TS_MAX 0

/-! ## Commands (R462) -/

/-- The codes of the tile islands whose clock runs. -/
def State.tileCodes (s : State) : List Nat := ((List.range 1536).map fun g => s.fget (R.TIL_CLK g) F.TIL_CLK_FREQ).filter fun c => decide (c ≠ 0)

def cmdPowerStatus (fn : Nat) (clr : Bool) (s : State) : State × Reply :=
  s.cmd [(decide (fn ≠ 0) && clr, .notPermitted)] fun s =>
    let c := s.tileCodes
    let out := lay [(8, (s.rd R.PWR_CAP).toNat), (8, s.pwrStat), (8, (s.rd R.PWR_CNT).toNat), (8, (s.rd R.PWR_BALE).toNat),
      (1, c.foldl min 72 * bit (!c.isEmpty)), (1, c.foldl max 0), (1, c.foldl (· + ·) 0 / max 1 c.length)]
    (if clr then s.pwrCntClr.pwrBaleClr.droopClr else s, .ok out)

def cmdPowerCap (fn watts rate : Nat) (s : State) : State × Reply :=
  s.cmd [badAt 0 (decide (65535 < watts)), badAt 2 (decide (4095 < rate)), pfOnly fn] fun s => (s.capWrite false watts rate).told [R.PWR_CAP]

def cmdPowerTarget (fn p code : Nat) (s : State) : State × Reply :=
  s.cmd [badAt 1 (decide (code < 16 ∨ 72 < code)), ownPart fn p] fun s =>
    (s.each (s.tilesOf p) fun s g => s.fset (R.PWR_ISL g) F.PWR_ISL_FMAX code).told ((s.tilesOf p).map R.PWR_ISL)

def cmdBallastSet (fn : Nat) (on : Bool) (us : Nat) (s : State) : State × Reply :=
  s.cmd [badAt 2 (decide (us < 50 ∨ 2000 < us)), pfOnly fn] fun s =>
    ((s.fset R.PWR_CTL F.PWR_CTL_BALEN (bit on)).fset R.PWR_CTL F.PWR_CTL_BRAMP (us / 10)).told [R.PWR_CTL]

def cmdThermalStatus (clr : Bool) (s : State) : State × Reply :=
  s.cmd [] fun s =>
    let out := lay (((List.range 239).map fun n => (4, (s.rd (R.PWR_TS n)).toNat)) ++
      let z := (List.range 217).filter fun z => decide (s.zone z < 72)
      (4, z.length) :: z.flatMap fun z => [(1, z), (1, s.zone z)])
    (if clr then s.each (List.range 239) State.tsClr else s, .ok out)

/-- The entries of a ring log of `size` places, oldest first. -/
def ringOrder (next count size : Nat) : List Nat := (List.range count).map fun i => (next + size - count + i) % size

def cmdAgeLog (s : State) : State × Reply :=
  s.cmd [] fun s =>
    let a := R.AGE_PTR
    let l := ringOrder (s.fget a F.AGE_PTR_NEXT) (s.fget a F.AGE_PTR_COUNT) 256
    (s, .ok (lay (((4, l.length) :: l.flatMap fun j => (spGetN (fun _ => 0) s.stw.age (16 * j) 16).map fun b => (1, b.toNat)) ++
      [(1, s.fget a F.AGE_PTR_LOST)])))

def cmdOverrunLog (clr : Bool) (s : State) : State × Reply :=
  s.cmd [] fun s =>
    let a := R.PWR_OVRPTR
    let l := ringOrder (s.fget a F.PWR_OVRPTR_NEXT) (s.fget a F.PWR_OVRPTR_COUNT) 16
    let out := lay ((4, l.length) :: l.flatMap fun j => (spGetN (fun _ => 0) s.stw.ovr (32 * j) 32).map fun b => (1, b.toNat))
    (if clr then s.ovrClear.fset R.PWR_STAT F.PWR_STAT_OVR 0 else s, .ok out)

def cmdIslandPower (fn i : Nat) (on : Bool) (s : State) : State × Reply :=
  s.cmd [badAt 0 (decide (1701 ≤ i)), pfOnly fn, refuse 1 (alwaysOn i), refuse 2 (!on && s.flag (R.CLK_ISL i) F.CLK_ISL_USED)] fun s =>
    (s.onWrite i on).told [R.CLK_ISL i]

/-- CLK_DCFG as it is stored. -/
def State.dcfgWrite (s : State) (mv factor : Nat) : State :=
  (s.fset R.CLK_DCFG F.CLK_DCFG_DTH (max 10 mv)).fset R.CLK_DCFG F.CLK_DCFG_STR (min 2 factor)

def cmdDroopSet (fn mv factor : Nat) (s : State) : State × Reply :=
  s.cmd [badAt 0 (decide (255 < mv)), badAt 1 (decide (3 < factor)), pfOnly fn] fun s => (s.dcfgWrite mv factor).told [R.CLK_DCFG]

def cmdHintConfig (fn us : Nat) (s : State) : State × Reply :=
  s.cmd [badAt 0 (decide (255 < us)), pfOnly fn] fun s => (s.fset R.PWR_CTL F.PWR_CTL_PRELEAD us).told [R.PWR_CTL]

/-! ## Commands of R444 -/

def cmdFwInfo (s : State) : State × Reply :=
  s.cmd [] fun s => (s, .ok (lay [(4, (s.rd R.STW_IDENT).toNat), (4, Config.fwVersion)] ++ (s.sec.fwDigest ++ List.replicate 32 0).take 32))

/-- PKG_LOCATE: the slot that the tray controller gave is compared as R22 says. Its wait of 10 ms has passed where TSVALID is 0. -/
def cmdPkgLocate (fn rack : Nat) (s : State) : State × Reply :=
  let id := rack * 32 + s.fget R.STW_LOC F.STW_LOC_TRAYSLOT
  let locked := s.flag R.STW_LOC F.STW_LOC_LOCK
  s.cmd [badAt 0 (decide (127 < rack)), pfOnly fn, refuse 1 (!s.flag R.STW_LOC F.STW_LOC_TSVALID),
      refuse 2 (locked && decide (s.pkgOwn ≠ id))] fun s =>
    let out (s : State) : State × Reply := (s, .ok (lay [(4, (s.rd R.STW_LOC).toNat % 2 ^ 32)]))
    if locked then out s
    else
      let s := s.stwLoc (id + 2 ^ 31)
      if s.flag R.STW_LOC F.STW_LOC_LOCK then out s else (s, .refused 3)

/-! ## Event queues and the doorbell (R437, R441) -/

/-- The event queue of a report: count reports, poisoned and confident sequences by partition, fault reports by class. -/
def rptQueue : Rpt → Option Nat
  | .fault cls _ _ _ _ _ _ _ => some (4 + cls % 4)
  | .count p _ _ _ _ => some (p % 4)
  | .psn p _ => some (p % 4)
  | .conf p _ _ => some (p % 4)
  | .hint _ _ _ _ _ _ => none

/-- The oldest report that goes to a queue is placed there unless the queue is full; hints wait for the arbiter engine. -/
def State.eventEntry (s : State) : State :=
  match s.rpt.find? fun r => (rptQueue r).isSome with
  | none => s
  | some r =>
    let q := (rptQueue r).getD 0
    if 4096 ≤ (s.evq q).length then s
    else { s with rpt := s.rpt.erase r }.setEvq q (s.evq q ++ [r])

/-- A write of MB_DB.GO. -/
def State.mbGo (s : State) (fn : Nat) : State :=
  let a := State.mbDb fn
  if s.fwif = 0 then s
  else if s.flag a F.MB_DB_BUSY then s.fset a F.MB_DB_OVERRUN 1
  else s.fset a F.MB_DB_BUSY 1

end Sys2Proof.Machine
end

