-- ==== Sys2Proof/Machine/Security.lean ====
section
/-! DEFINITION. The security module (R465 to R496): its state, self-tests, sessions and their commands, fuses, measurements, attestation,
debug grants and events. -/

namespace Sys2Proof.Machine

def State.life (s : State) : Nat := s.fget R.SEC_LIFE F.SEC_LIFE_STATE

/-- APPROVED (R481). -/
def State.approved (s : State) : Bool :=
  decide (s.life = 2) && s.sec.alive && !s.secErr && !s.flag R.SEC_DEBUG F.SEC_DEBUG_EVER

/-- SEC_STAT with APPROVED. -/
def State.secStat (s : State) : Nat := (fldPut F.SEC_STAT_APPROVED (s.rd R.SEC_STAT) (bit s.approved)).toNat

/-- The results of a service: the indicator word, then its own. -/
def State.secOk (s : State) (out : List Byte) : State × Reply := (s, .ok (leBytes 4 (bit s.approved) ++ out))

/-! ## Self-tests (R482, R483) -/

/-- A self-test fails: the module is in the error state, and every link in UP is held. -/
def State.secFail (s : State) (n : Nat) : State :=
  let s := s.fset R.SEC_STAT F.SEC_STAT_ERROR 1
  let s := s.fset R.SEC_STAT F.SEC_STAT_FAILTEST n
  let s := s.each (List.range 36) fun s k => if s.linkState k = 4 then (s.linkAct k 2).fset (R.LNK_STAT k) F.LNK_STAT_HCAUSE 7 else s
  s.faultRep 11 n none 1700 0 0

def State.secPass (s : State) : State := (s.fset R.SEC_STAT F.SEC_STAT_ERROR 0).fset R.SEC_STAT F.SEC_STAT_FAILTEST 0

/-! ## Which services are served (R473, R482) -/

/-- SEC_STATUS (0) and SEC_IDENTITY (2) in DECOMMISSIONED; SEC_STATUS, SEC_SELFTEST (1) and ZEROISE (0x10) in the error state; KEY_IMPORT (7)
and DOMAIN_KEY (9) not in MANUFACTURED. -/
def State.secShut (s : State) (k : Nat) : Bool :=
  (decide (s.life = 3) && decide (k ≠ 0 ∧ k ≠ 2)) || (s.secErr && decide (k ≠ 0 ∧ k ≠ 1 ∧ k ≠ 16)) ||
    (decide (s.life = 0) && decide (k = 7 ∨ k = 9))

/-! ## Sessions (R475 to R477) -/

/-- A failed authentication: the session closes, and eight in a row shut SEC_OPEN. -/
def State.authFail (s : State) (i : Nat) : State :=
  let s := (s.setSession i none).secEvent .authFail
  s.modSec fun y => { y with authRow := y.authRow + 1, lockout := y.lockout || decide (8 ≤ y.authRow + 1) }

/-- The MAC of a session command over CODE, the counter and the parameter bytes. -/
def sesMac (x : Session) (code ctr : Nat) (params : List Byte) : List Byte :=
  (hmacSm3 x.kmac (leBytes 2 code ++ leBytes 4 ctr ++ params)).take 16

/-- The outcome of authenticating a session command. -/
inductive Auth where
  | ok (x : Session)
  | none_
  | bad
deriving DecidableEq, Repr

def State.authOf (s : State) (fn code : Nat) (a : SesAuth) (params : List Byte) : Auth :=
  match s.session a.sid with
  | none => .none_
  | some x =>
    if x.fn ≠ fn ∨ ¬ x.granted then .none_
    else if a.ctr = x.ctr + 1 ∧ a.mac = sesMac x code a.ctr params then .ok x
    else .bad

/-- A session command: authenticated, its role checked, then run with the session's keys. -/
def State.sesCmd (s : State) (fn code : Nat) (a : SesAuth) (params : List Byte) (role : Session → Bool)
    (f : Session → State → State × Reply) : State × Reply :=
  match s.authOf fn code a params with
  | .none_ => (s, .refused 0)
  | .bad => (s.authFail a.sid, .refused 0)
  | .ok x =>
    let s := (s.setSession a.sid (some { x with ctr := a.ctr })).modSec fun y => { y with authRow := 0 }
    if role x then f x s else (s, .notPermitted)

def isOwner (x : Session) : Bool := decide (x.role = 1)
/-- OWNER, or OPERATOR of a partition. -/
def mayServe (p : Nat) (x : Session) : Bool := isOwner x || (decide (x.role = 2) && x.mask.testBit p)
def anyRole (_ : Session) : Bool := true

/-- The digest of the current owner key. -/
def State.ownerDigest (s : State) : List Byte := s.regBytes (R.SEC_OWNDIG (s.fget R.SEC_OWNER F.SEC_OWNER_SLOT) 0) 4
def State.ownerSet (s : State) : Bool := s.flag R.SEC_OWNER F.SEC_OWNER_SET

/-- A certificate that the current owner key signed (R478): a key of the digest held. -/
def State.certOk (s : State) (c : List Byte) : Bool :=
  s.ownerSet && decide (ofLeBytes ((c.drop 66).take 1) = 1) && ((c.drop 67).take 29).all (fun b => decide (b = 0)) &&
    decide (sm3 (Config.ownerKeyOf s.ownerDigest) = s.ownerDigest) && sm2Verify (Config.ownerKeyOf s.ownerDigest) (c.take 96) (c.drop 96)

def cmdSecOpen (fn role : Nat) (key ea : List Byte) (s : State) : State × Reply :=
  let slot := (List.range 4).find? fun i => (s.session i).isNone
  let mask := if role = 2 then ofLeBytes ((key.drop 64).take 2) else 0
  s.cmd [badAt 0 (decide (role ≠ 1 ∧ role ≠ 2)), badAt 1 (decide (key.length ≠ (if role = 2 then 160 else 64))),
    badAt (1 + key.length) (decide (ea.length ≠ 64)), (decide (fn ≠ 0 ∧ (role ≠ 2 ∨ ¬ mask.testBit (fn - 1))), .notPermitted),
    refuse 0 (s.secShut 4), refuse 1 s.sec.lockout, refuse 2 slot.isNone,
    refuse 3 (if role = 2 then !s.certOk key else !(s.ownerSet && decide (sm3 key = s.ownerDigest)))] fun s =>
      let fr := s.fresh
      let s := fr.2
      match sm2Respond dwkPriv fr.1 (key.take 64) ea with
      | none => (s, .refused 4)
      | some e =>
        let i := slot.getD 0
        let x : Session :=
          { fn := fn, role := role, mask := if fn = 0 then mask else 2 ^ (fn - 1), granted := false, kenc := e.key.take 16, kmac := e.key.drop 16,
            sa := e.sa, ctr := 0 }
        (s.setSession i (some x)).secOk (leBytes 1 i ++ e.eb ++ e.sb)

def cmdSecConfirm (fn sid : Nat) (sa : List Byte) (s : State) : State × Reply :=
  s.cmd [badAt 0 (decide (3 < sid)), badAt 1 (decide (sa.length ≠ 32)), refuse 0 (s.secShut 5)] fun s =>
    match s.session sid with
    | none => (s, .refused 0)
    | some x =>
      if x.fn ≠ fn ∨ x.granted then (s, .refused 0)
      else if sa = x.sa then
        ((s.setSession sid (some { x with granted := true })).modSec fun y => { y with authRow := 0 }).secOk []
      else (s.authFail sid, .refused 0)

def cmdSecClose (fn : Nat) (a : SesAuth) (s : State) : State × Reply :=
  s.cmd [refuse 0 (s.secShut 6)] fun s => s.sesCmd fn 0x0D06 a [] anyRole fun _ s => (s.setSession a.sid none).secOk []

def State.sessionIdle (s : State) (sid : Nat) : State := if sid < 4 then s.setSession sid none else s

/-! ## Fuses (R474, R487) -/

/-- The fuse digest. -/
def State.fuseDigest (s : State) : List Byte :=
  let r (a : Nat) : List Byte := leBytes 4 (s.rd a).toNat
  sm3 (r R.SEC_LIFE ++ r R.SEC_SVN ++ r R.SEC_OWNER ++ s.ownerDigest ++ r R.SEC_DOMAIN ++
    (List.range 32).flatMap fun d => r (R.SEC_REPAIR d))

def State.measureFuses (s : State) : State := s.measure 3 2 s.fuseDigest

/-- A write of a fuse-backed field: none where it holds the value; refused beyond its counter, which sets WREF. -/
def State.fuseWrite (s : State) (a : Nat) (f rem : Fld) (v : Nat) : Option State :=
  if s.fget a f = v then some s
  else if s.fget a rem = 0 then none
  else some ((s.fset a f v).fset a rem (s.fget a rem - 1))

/-- A service whose fuse write is refused under position `k`. -/
def State.fuseOr (s : State) (a : Nat) (wref : Fld) (k : Nat) (r : Option State) (f : State → State × Reply) : State × Reply :=
  match r with
  | none => (s.fset a wref 1, .refused k)
  | some t => f t

def u8 (l : List (Nat × Nat)) : List Byte := layFrom 8 l

def cmdSvnSet (fn : Nat) (a : SesAuth) (svn : Nat) (s : State) : State × Reply :=
  s.cmd [badAt 8 (decide (255 < svn)), refuse 0 (s.secShut 11)] fun s =>
    s.sesCmd fn 0x0D0B a (u8 [(1, svn)]) isOwner fun _ s =>
      if svn ≤ s.fget R.SEC_SVN F.SEC_SVN_SVN then (s, .refused 1)
      else if s.fget R.SEC_SVN F.SEC_SVN_REMAIN = 0 then (s.fset R.SEC_SVN F.SEC_SVN_WREF 1, .refused 2)
      else if s.sec.fwSvn < svn then (s, .refused 3)
      else
        s.fuseOr R.SEC_SVN F.SEC_SVN_WREF 2 (s.fuseWrite R.SEC_SVN F.SEC_SVN_SVN F.SEC_SVN_REMAIN svn) fun s =>
          s.measureFuses.secOk []

/-- The domain id written; KD and its blob go with a change. -/
def cmdDomainId (fn : Nat) (a : SesAuth) (id : Nat) (s : State) : State × Reply :=
  s.cmd [refuse 0 (s.secShut 10)] fun s =>
    s.sesCmd fn 0x0D0A a (u8 [(2, id)]) isOwner fun _ s =>
      if s.fget R.SEC_DOMAIN F.SEC_DOMAIN_ID = id then s.secOk []
      else
        s.fuseOr R.SEC_DOMAIN F.SEC_DOMAIN_WREF 1 (s.fuseWrite R.SEC_DOMAIN F.SEC_DOMAIN_ID F.SEC_DOMAIN_REMAIN id) fun s =>
          (((s.modSec fun y => { y with kd := none, blob := none }).fset R.SEC_STAT F.SEC_STAT_KDVALID 0).measureFuses).secOk []

/-- The next owner slot written with a key's digest. -/
def State.ownerInstall (s : State) (key : List Byte) : Option State :=
  let slot := if s.ownerSet then s.fget R.SEC_OWNER F.SEC_OWNER_SLOT + 1 else 0
  if s.fget R.SEC_OWNER F.SEC_OWNER_REMAIN = 0 ∨ 7 < slot then none
  else
    let s := s.putRegBytes (R.SEC_OWNDIG slot 0) 4 (sm3 key)
    let s := (s.fset R.SEC_OWNER F.SEC_OWNER_SLOT slot).fset R.SEC_OWNER F.SEC_OWNER_SET 1
    some (s.fset R.SEC_OWNER F.SEC_OWNER_REMAIN (s.fget R.SEC_OWNER F.SEC_OWNER_REMAIN - 1)).measureFuses

def State.ownerRotate (s : State) (key : List Byte) : State × Reply :=
  s.fuseOr R.SEC_OWNER F.SEC_OWNER_WREF 1 (s.ownerInstall key) fun s =>
    if s.life ≠ 0 then s.secOk []
    else
      s.fuseOr R.SEC_LIFE F.SEC_LIFE_WREF 2 (s.fuseWrite R.SEC_LIFE F.SEC_LIFE_STATE F.SEC_LIFE_REMAIN 1) fun s =>
        s.measureFuses.secOk []

def cmdOwnerRotate (fn : Nat) (auth : Option SesAuth) (key : List Byte) (s : State) : State × Reply :=
  s.cmd [badAt (if auth.isSome then 8 else 0) (decide (key.length ≠ 64)),
    (auth.isNone && decide (fn ≠ 0 ∨ s.life ≠ 0), .notPermitted), refuse 0 (s.secShut 12)] fun s =>
      match auth with
      | none => s.ownerRotate key
      | some a => s.sesCmd fn 0x0D0C a key isOwner fun _ s => s.ownerRotate key

def State.granted (s : State) : Bool := s.flag R.SEC_DEBUG F.SEC_DEBUG_INJECT || s.flag R.SEC_DEBUG F.SEC_DEBUG_TEST

def cmdLifecycle (fn : Nat) (a : SesAuth) (next : Nat) (s : State) : State × Reply :=
  s.cmd [badAt 8 (decide (3 < next)), refuse 0 (s.secShut 13)] fun s =>
    s.sesCmd fn 0x0D0D a (u8 [(1, next)]) isOwner fun _ s =>
      if next ≠ s.life + 1 then (s, .refused 1)
      else if s.granted then (s, .refused 2)
      else
        s.fuseOr R.SEC_LIFE F.SEC_LIFE_WREF 3 (s.fuseWrite R.SEC_LIFE F.SEC_LIFE_STATE F.SEC_LIFE_REMAIN next) fun s =>
          let s := s.measureFuses
          if next = 3 then (s.zeroise, .ok []) else s.secOk []

/-- The header and length of a repair map (R507). -/
def repairBad (d : Nat) (m : List Byte) : Bool :=
  let n := ofLeBytes ((m.drop 6).take 2)
  decide (ofLeBytes (m.take 4) ≠ 0x50524552) || decide (ofLeBytes ((m.drop 4).take 1) ≠ d) || decide (512 < n) ||
    decide (m.length ≠ 16 + 4 * n) || !((m.drop 8).take 8).all (fun b => decide (b = 0)) ||
    (List.range n).any fun i => decide (ofLeBytes ((m.drop (16 + 4 * i)).take 4) / 2 ^ 26 % 32 ≠ 0)

def cmdRepairCommit (fn : Nat) (a : SesAuth) (d : Nat) (map : List Byte) (s : State) : State × Reply :=
  let v := ofLeBytes ((map.drop 5).take 1)
  s.cmd [badAt 12 (repairBad d map || decide (31 < v)), refuse 0 (s.secShut 14)] fun s =>
    s.sesCmd fn 0x0D0E a (u8 ((1, d) :: (4, map.length) :: map.map fun b => (1, b.toNat))) isOwner fun _ s =>
      if v ≤ s.fget (R.SEC_REPAIR d) F.SEC_REPAIR_VERSION then (s, .refused 1)
      else
        s.fuseOr (R.SEC_REPAIR d) F.SEC_REPAIR_WREF 2
          (s.fuseWrite (R.SEC_REPAIR d) F.SEC_REPAIR_VERSION F.SEC_REPAIR_REMAIN v) fun s =>
            ((s.modSec fun y => { y with repair := spPut (fun _ => []) y.repair d map }).measureFuses).secOk []

/-! ## Keys (R470, R479, R480) -/

/-- The seal key (R467), while the key engine derives it. -/
def sealKey : List Byte := kdfSm3 (leBytes 32 Config.uds ++ [0x53, 0x45, 0x41, 0x4C]) 16

def State.keySlot (s : State) (p keyid : Nat) : Option Nat :=
  (List.range 16).find? fun i => s.flag (R.SEC_WKEY p i) F.SEC_WKEY_VALID && decide (s.fget (R.SEC_WKEY p i) F.SEC_WKEY_KEYID = keyid)
def State.keyFree (s : State) (p : Nat) : Option Nat := (List.range 16).find? fun i => !s.flag (R.SEC_WKEY p i) F.SEC_WKEY_VALID

def cmdKeyImport (fn : Nat) (a : SesAuth) (p keyid : Nat) (wrapped : List Byte) (s : State) : State × Reply :=
  s.cmd [badAt 16 (decide (wrapped.length ≠ 48)), refuse 0 (s.secShut 7)] fun s =>
    s.sesCmd fn 0x0D07 a (u8 [(1, p), (4, keyid)] ++ wrapped) (mayServe p) fun x s =>
      match kwUnwrap x.kenc wrapped with
      | none => (s, .refused 1)
      | some m =>
        if ofLeBytes ((m.drop 36).take 1) ≠ p ∨ ofLeBytes ((m.drop 32).take 4) ≠ keyid then (s, .refused 2)
        else if (s.keySlot p keyid).isSome then (s, .refused 3)
        else
          match s.keyFree p with
          | none => (s, .refused 4)
          | some i =>
            let s := s.modSec fun y => { y with wkeys := spPut (fun _ => none) y.wkeys (p * 16 + i) (some (m.take 32)) }
            let s := (s.fset (R.SEC_WKEY p i) F.SEC_WKEY_KEYID keyid).fset (R.SEC_WKEY p i) F.SEC_WKEY_VALID 1
            (s.measure (16 + p) 9 (sm3 (leBytes 4 keyid ++ sm3 wrapped))).secOk []

def cmdKeyDrop (fn : Nat) (a : SesAuth) (p keyid : Nat) (s : State) : State × Reply :=
  s.cmd [refuse 0 (s.secShut 8)] fun s =>
    s.sesCmd fn 0x0D08 a (u8 [(1, p), (4, keyid)]) (mayServe p) fun _ s =>
      if (s.part p).any fun x => x.wloads.any fun w => decide (w.keyid = keyid) then (s, .refused 1)
      else
        match s.keySlot p keyid with
        | none => s.secOk []
        | some i =>
          ((s.wr (R.SEC_WKEY p i) 0).modSec fun y => { y with wkeys := spPut (fun _ => none) y.wkeys (p * 16 + i) none }).secOk []

def cmdDomainKey (fn : Nat) (a : SesAuth) (wrapped : List Byte) (s : State) : State × Reply :=
  s.cmd [badAt 8 (decide (wrapped.length ≠ 48)), refuse 0 (s.secShut 9)] fun s =>
    s.sesCmd fn 0x0D09 a wrapped isOwner fun x s =>
      match kwUnwrap x.kenc wrapped with
      | none => (s, .refused 1)
      | some m =>
        let id := ofLeBytes ((m.drop 32).take 2)
        if id ≠ s.fget R.SEC_DOMAIN F.SEC_DOMAIN_ID then (s, .refused 2)
        else
          let blob := kwWrap sealKey (m.take 32 ++ leBytes 2 id ++ List.replicate 6 0)
          ((s.modSec fun y => { y with kd := some (m.take 32), blob := some blob }).fset R.SEC_STAT F.SEC_STAT_KDVALID 1).secOk []

/-- KD unsealed at bring-up: only under the domain id that SEC_DOMAIN holds. -/
def State.unseal (s : State) : State :=
  match s.sec.blob.bind (kwUnwrap sealKey) with
  | none => s
  | some m =>
    if s.life = 3 ∨ ofLeBytes ((m.drop 32).take 2) ≠ s.fget R.SEC_DOMAIN F.SEC_DOMAIN_ID then s
    else (s.modSec fun y => { y with kd := some (m.take 32) }).fset R.SEC_STAT F.SEC_STAT_KDVALID 1

/-! ## Debug grants (R490) -/

/-- The scope set. The loss of INJECT sets the injectors' MODE to 0 at once (R392). -/
def State.debugGrant (s : State) (scope : Nat) : State × Reply :=
  let s := if scope % 2 = 1 then s else s.each (List.range 36) fun s k => s.fset (R.LNK_INJ k) F.LNK_INJ_MODE 0
  let s := (s.fset R.SEC_DEBUG F.SEC_DEBUG_INJECT (scope % 2)).fset R.SEC_DEBUG F.SEC_DEBUG_TEST (scope / 2 % 2)
  let s := if scope = 0 then s else s.fset R.SEC_DEBUG F.SEC_DEBUG_EVER 1
  (s.measure 4 3 (sm3 (leBytes 1 scope ++ leBytes 8 s.now))).secOk []

def cmdDebugGrant (fn : Nat) (auth : Option SesAuth) (scope : Nat) (s : State) : State × Reply :=
  s.cmd [badAt (if auth.isSome then 8 else 0) (decide (3 < scope)), (auth.isNone && decide (fn ≠ 0 ∨ s.life ≠ 0), .notPermitted),
    refuse 0 (s.secShut 15)] fun s =>
      match auth with
      | none => s.debugGrant scope
      | some a => s.sesCmd fn 0x0D0F a (u8 [(1, scope)]) isOwner fun _ s => s.debugGrant scope

/-! ## Zeroisation and events (R491, R492) -/

def cmdZeroise (fn : Nat) (auth : Option SesAuth) (s : State) : State × Reply :=
  s.cmd [(auth.isNone && decide (fn ≠ 0), .notPermitted), refuse 0 (s.secShut 16)] fun s =>
    match auth with
    | none => (s.zeroise, .ok [])
    | some a => s.sesCmd fn 0x0D10 a [] isOwner fun _ s => (s.zeroise, .ok [])

def evtCode (e : SecEvt) : Nat :=
  match e with
  | .stale => 1
  | .authFail => 2
  | .heldKey => 3

def State.secEvtClear (s : State) : State :=
  let a := R.SEC_EVT
  let s := ((s.fset a F.SEC_EVT_STALE 0).fset a F.SEC_EVT_AUTHFAIL 0).fset a F.SEC_EVT_HELDKEY 0
  s.modSec fun y => { y with events := [] }

def cmdSecEvents (fn : Nat) (clr : Bool) (s : State) : State × Reply :=
  s.cmd [pfOnly fn, refuse 0 (s.secShut 17)] fun s =>
    let out := layFrom 4 ((4, s.sec.events.length) :: (s.sec.events.flatMap fun e => [(1, evtCode e.1), (8, e.2)]) ++ [(8, (s.rd R.SEC_EVT).toNat)])
    (if clr then s.secEvtClear else s).secOk out

/-! ## Status, identity and attestation -/

def cmdSecStatus (s : State) : State × Reply :=
  s.cmd [] fun s =>
    let r (a : Nat) : Nat × Nat := (4, (s.rd a).toNat)
    s.secOk (layFrom 4 [(4, s.secStat), r R.SEC_LIFE, r R.SEC_SVN, r R.SEC_OWNER, r R.SEC_DOMAIN, r R.SEC_DEBUG, (8, (s.rd R.SEC_EVT).toNat)])

def cmdSecSelftest (fn failTest : Nat) (s : State) : State × Reply :=
  s.cmd [pfOnly fn, refuse 0 (s.secShut 1)] fun s =>
    (if failTest = 0 then s.secPass else s.secFail failTest).secOk []

def cmdSecIdentity (s : State) : State × Reply :=
  s.cmd [refuse 0 (s.secShut 2)] fun s => s.secOk s.sec.identity

def MeasEnt.bytes (e : MeasEnt) : List Byte :=
  leBytes 1 e.reg ++ leBytes 1 e.kind ++ List.replicate 6 0 ++ leBytes 8 e.time ++ (e.dig ++ List.replicate 32 0).take 32

/-- The report of R489 without its signature. -/
def State.report489 (s : State) (nonce : List Byte) (first : Nat) : List Byte :=
  let es := (s.sec.log.drop first).take 300
  let flags := bit s.approved + 2 * bit (s.flag R.SEC_DEBUG F.SEC_DEBUG_EVER) + 4 * bit (s.flag R.SEC_STAT F.SEC_STAT_LOGFULL) + 8 * bit s.secErr
  leBytes 4 0x54545441 ++ leBytes 2 1 ++ leBytes 2 first ++ leBytes 2 es.length ++ leBytes 2 s.sec.log.length ++ leBytes 1 flags ++
    leBytes 1 s.life ++ leBytes 2 s.pkgOwn ++ leBytes 8 s.now ++ List.replicate 8 0 ++ nonce ++
    ((List.range 8).flatMap s.meas) ++ ((List.range 16).flatMap fun p => s.meas (16 + p)) ++ es.flatMap MeasEnt.bytes

def cmdSecAttest (nonce : List Byte) (first : Nat) (s : State) : State × Reply :=
  s.cmd [badAt 0 (decide (nonce.length ≠ 32)), badAt 32 (decide (65535 < first)), refuse 0 (s.secShut 3)] fun s =>
    let fr := s.fresh
    let s := fr.2
    let r := s.report489 nonce first
    s.secOk (r ++ s.dikSign fr.1 r)

end Sys2Proof.Machine
end

