-- ==== Sys2Proof/Machine/Faults.lean ====
section
/-! DEFINITION. Faults (R505 to R515): march tests, the fault log, epochs, step aborts and the Gleaner, and the resets of a tile, a cluster
and a die. -/

namespace Sys2Proof.Machine

def State.modRst (s : State) (f : RstSt → RstSt) : State := { s with rst := f s.rst }

/-! ## March tests (R505, R506) -/

/-- A tile that holds a failing line which no entry covers is FAULTY, and so is its cluster. -/
def State.setFaulty (s : State) (g : Nat) (on : Bool) : State :=
  let s := s.fset (R.BNK_MARCH g) F.BNK_MARCH_FAULTY (bit on)
  let d := g / 64
  let c := g % 64 / 8
  let any := (clusterTiles d c).any fun t => s.flag (R.BNK_MARCH t) F.BNK_MARCH_FAULTY
  s.fset (R.DIE_STAT d) F.DIE_STAT_FAULTY (setMask (s.fget (R.DIE_STAT d) F.DIE_STAT_FAULTY) (2 ^ c) any)

def State.loftZero (s : State) (g : Nat) : State :=
  { s with loft := spClearRange (g * 2 ^ 22) (2 ^ 22) s.loft, loftPsn := spClearRange (g * 2 ^ 17) (2 ^ 17) s.loftPsn }

def State.repaired (s : State) (g : Nat) : List (Nat × Nat) := spGet (fun _ => []) s.rst.repairs g

/-- A test has ended with the failing lines `fails`, each a bank and a line. -/
def State.marchEnd (s : State) (g : Nat) (preserving : Bool) (fails : List (Nat × Nat)) : State :=
  let fails := fails.filter fun x => decide (x.1 < 32 ∧ x.2 < 2064)
  let rep := s.repaired g
  let s := if preserving then
      s.each fails fun s x =>
        let k := g * 2 ^ 17 + x.1 * 2 ^ 12 + x.2 % 2048 * 2
        if x.2 < 2048 then
          { s with loftPsn := spPut (fun _ => false) (spPut (fun _ => false) s.loftPsn k true) (k + 1) true }
        else s
    else s.loftZero g
  let a := R.BNK_MRES g
  let s := (s.fset a F.BNK_MRES_FAILS fails.length).fset a F.BNK_MRES_REPAIRED rep.length
  let x := fails.headD (0, 0)
  let s := (s.fset a F.BNK_MRES_BANK x.1).fset a F.BNK_MRES_LINE x.2
  let b := R.BNK_MARCH g
  let s := (s.fset b F.BNK_MARCH_BUSY 0).fset b F.BNK_MARCH_DONE 1
  (s.setFaulty g (fails.any fun y => !rep.contains y)).modTile g fun t => { t with march := ⟨false, preserving⟩ }

/-- Who may start a test, and when: on a tile QUIET with RUN 0, its partition's function, the physical one or the steward. -/
def State.mayMarch (s : State) (fn g : Nat) : Bool :=
  s.stopped g && !(s.tile g).march.running && (decide (fn = 0) || decide (s.tilePart g = some (fn - 1)))

/-- BNK_MARCH.GO. -/
def State.marchGo (s : State) (fn g : Nat) (preserving : Bool) : State :=
  if ¬ s.mayMarch fn g then s
  else
    let s := (s.fset (R.BNK_MARCH g) F.BNK_MARCH_MODE (bit preserving)).fset (R.BNK_MARCH g) F.BNK_MARCH_BUSY 1
    s.modTile g fun t => { t with march := ⟨true, preserving⟩ }

def State.marchComplete (s : State) (g : Nat) (fails : List (Nat × Nat)) : State :=
  if (s.tile g).march.running then s.marchEnd g (s.tile g).march.preserving fails else s

/-- A test run to its end within a command: which lines fail is the tile's. -/
def State.marchRun (s : State) (g : Nat) (preserving : Bool) : State :=
  let n := s.freeCtr
  (s.fresh.2.fset (R.BNK_MARCH g) F.BNK_MARCH_MODE (bit preserving)).marchEnd g preserving (Config.marchFails n g)

/-! ## The fault log (R508) -/

/-- A fault record. -/
structure FRec where
  cls : Nat
  cause : Nat
  level : Nat
  part : Option Nat
  island : Nat
  die : Nat
  flags : Nat
  d1 : Nat
  d2 : Nat
  epoch : Nat
deriving DecidableEq, Repr

def FRec.bytes (r : FRec) (time : Nat) : List Byte :=
  leBytes 8 time ++ leBytes 1 r.cls ++ leBytes 1 r.cause ++ leBytes 1 r.level ++
    leBytes 1 (match r.part with
      | some p => p % 16 + 128
      | none => 0) ++
    leBytes 2 r.island ++ leBytes 1 r.die ++ leBytes 1 r.flags ++ leBytes 8 r.d1 ++ leBytes 4 r.d2 ++ leBytes 2 r.epoch ++ [0, 0]

def State.flogPut (s : State) (r : FRec) : State :=
  let a := R.STW_FLOGPTR
  let n := s.fget a F.STW_FLOGPTR_NEXT
  let s := { s with stw := { s.stw with flog := spPutL (fun _ => 0) s.stw.flog (32 * n) (r.bytes s.now) } }
  let s := if s.fget a F.STW_FLOGPTR_COUNT = 1024 then s.fadd a F.STW_FLOGPTR_LOST 1 else s.fadd a F.STW_FLOGPTR_COUNT 1
  s.fset a F.STW_FLOGPTR_NEXT ((n + 1) % 1024)

def State.flogClear (s : State) : State :=
  let a := R.STW_FLOGPTR
  ((s.fset a F.STW_FLOGPTR_NEXT 0).fset a F.STW_FLOGPTR_COUNT 0).fset a F.STW_FLOGPTR_LOST 0

/-! ## PABORT (R513) -/

/-- ARRIVED, PENDING and UP of a partition's channels cleared at the nodes of a die: its clusters and die node, the fabric nodes of a link
die, the package node of the steward. -/
def State.clearNodes (s : State) (d p : Nat) : State :=
  s.each (List.range 64) fun s ch =>
    if d < 24 then
      let s := s.each (List.range 8) fun s c =>
        let a := R.SYN_CLN d c ch
        if s.fget a F.SYN_CLN_PART = p then
          ((s.fset a F.SYN_CLN_ARRIVED 0).fset a F.SYN_CLN_PENDING 0).fset a F.SYN_CLN_UP 0
        else s
      let a := R.SYN_DIE d ch
      if s.fget a F.SYN_DIE_PART = p then (s.fset a F.SYN_DIE_ARRIVED 0).fset a F.SYN_DIE_UP 0 else s
    else if d < 28 then s
    else if d < 31 then
      let l := d - 28
      if s.fget (R.FBN_CFG l ch) F.FBN_CFG_PART = p then
        ((s.fset (R.FBN_ARR l ch) F.FBN_ARR_LINKS 0).fset (R.FBN_ARR l ch) F.FBN_ARR_SELF 0).fset (R.FBN_CFG l ch) F.FBN_CFG_UP 0
      else s
    else if s.fget (R.PKN_CFG ch) F.PKN_CFG_PART = p then
      (s.fset (R.PKN_ARR ch) F.PKN_ARR_ARRIVED 0).fset (R.PKN_CFG ch) F.PKN_CFG_UP 0
    else s

/-- A gateway's queues of a partition: accepted requests poison-filled and discarded, waiting units gone. -/
def State.clearQueues (s : State) (w p : Nat) : State :=
  let mine (q : Nat) : Bool := decide (s.queuePart w q = some p)
  let gone := (s.gw w).reqs.filter fun r => decide (r.part = p)
  let s := s.each gone fun s r => if r.op ≠ 2 ∧ r.op ≠ 4 ∧ r.units.any (·.isNone) then s.filledCnt w r.queue else s
  let s := s.setGw w { s.gw w with reqs := (s.gw w).reqs.filter fun r => decide (r.part ≠ p) }
  let s := s.each (List.range 4) fun s e => s.setIngress w e ((s.ingress w e).filter fun u => !mine u.1)
  if 4 ≤ w ∧ w < 7 then
    { s with fab := { s.fab with remotes := s.fab.remotes.filter fun r => decide (r.ld ≠ w - 4 ∨ r.part ≠ p ∨ r.item.isSome) } }
  else s

/-- DIE_CTL.PABORT for a partition on a die. -/
def State.pabort (s : State) (d p : Nat) : State :=
  let s := s.clearNodes d p
  if d < 24 then
    if s.rtePart d = p then
      (s.modRte d fun x => { x with open_ := false, seen := 0, vec := [] }).clearRegs (R.RTE_XSET d 0) 0x200
    else s
  else s.clearQueues (if d < 31 then d - 24 else 7) p

/-! ## The Gleaner (R514) -/

/-- The aborted step: its record carries FAILED with no token on every entry, its sequences are IDLE with their pages kept, and their
items and the step's fail with the cause. A swap step is the next to run again: no step runs layers of two generations (R421). -/
def State.gleanStep (s : State) (p cause : Nat) : State :=
  match s.part p with
  | none => s
  | some x =>
    if ¬ x.running then s
    else
      let es := x.ran.map fun q => (⟨q.seqid, q.slot, 4 + (if q.prefill then 8 else 0), [], q.clen, 0⟩ : RecEnt)
      let s := s.putRecord p x es
      let s := s.each x.ran fun s q =>
        let q' : Seq := { q with mode := .idle, tlen := q.clen, qcnt := 0 }
        ((s.putSeq p q').writeEntry p q').ledger p q.tag q.kind cause 0
      let s := s.stepLedger p x cause
      let s := if s.ptState p = 1 then s.fset (R.PT_CTL p) F.PT_CTL_STATE 0 else s
      (s.modPart p fun y => { y with running := false, stepItem := none }).clearStep p

/-- An open COPY or ATOMIC item settled with a cause; what was sent for it is forgotten. -/
def State.gleanItem (s : State) (p : Nat) (i : OpenItem) (cause : Nat) : State :=
  let s := { s with fab := { s.fab with remotes := s.fab.remotes.filter fun r => decide (r.item ≠ some i.uid ∨ r.part ≠ p) } }
  (s.modPart p fun x => { x with open_ := x.open_.filter fun j => decide (j.uid ≠ i.uid) }).ledger p i.tag i.kind cause 0

/-- ATOMIC items: OUTCOME once sent, DOMAIN before. -/
def State.gleanAtomics (s : State) (p : Nat) : State :=
  match s.part p with
  | none => s
  | some x =>
    s.each (x.open_.filter fun i => decide (i.kind = 0x12)) fun s i =>
      s.gleanItem p i (if s.fab.remotes.any fun r => decide (r.item = some i.uid ∧ r.part = p) then lcOutcome else lcDomain)

/-- COPY items with a message out at a link die for which `ld` holds. -/
def State.gleanCopies (s : State) (p : Nat) (ld : Nat → Bool) : State :=
  match s.part p with
  | none => s
  | some x =>
    s.each (x.open_.filter fun i => decide (i.kind = 0x10) && s.fab.remotes.any fun r => decide (r.item = some i.uid ∧ r.part = p) && ld r.ld)
      fun s i => s.gleanItem p i lcDomain

/-- Weight loads for which `bad` holds fail; a swap becomes SWAPFAIL (R423). -/
def State.gleanLoads (s : State) (p : Nat) (bad : WLoad → Bool) (cause : Nat) : State :=
  match s.part p with
  | none => s
  | some x =>
    s.each (x.wloads.filter bad) fun s w =>
      let s := (s.modPart p fun y => { y with wloads := y.wloads.erase w, passing := y.passing.filter fun t => decide (t.1 ≠ w.addr) }).ledger p w.tag 0x11 cause 0
      if w.swap then s.fset (R.PT_CTL p) F.PT_CTL_STATE 4 else s

/-! ## Step aborts (R513, R515) -/

/-- R513 steps 1 and 2: tiles reset, PABORT on every die, outputs at HALT. -/
def State.abortStop (s : State) (p : Nat) : State :=
  let s := s.each (s.tilesOf p) fun s g => s.resetTile g
  s.each allDies fun s d =>
    let s := s.pabort d p
    s.each (s.outsOf d p) fun s x => s.setOut (outKey d x.1 x.2) OutSt.idle

/-- R513 step 3: every tile with a program starts at entry 0 with the init flag. -/
def State.abortRestart (s : State) (p : Nat) : State :=
  s.each (s.tilesOf p) fun s g => if s.progNum g 6 2 = 0 then s else s.startTile g 0 true

/-- A step abort on this package. -/
def State.abortHere (s : State) (p cause : Nat) : State :=
  if (s.part p).isNone then s else (((s.abortStop p).gleanStep p cause).gleanAtomics p).abortRestart p

/-- STEP_ABORT: the other packages of the slice are told; `subject` is the lost package under a SLICE fault, else the own one. -/
def State.stepAbort (s : State) (p cause subject : Nat) : State :=
  if (s.part p).isNone then s else (s.abortHere p cause).noticeAll 4 subject p

/-- NOTICE_STEP_ABORT. -/
def State.noticeAbort (s : State) (k : Nat) : State :=
  s.onNotice k 4 fun s f n p => if p < 16 then s.abortHere p (if n = f.src then lcDomain else lcPkgLost) else s

/-- A manifest names a package as a holder or the reader of a stripe. -/
def State.manifestNames (s : State) (p m n : Nat) : Bool :=
  decide (m ≠ 0) && (List.range (s.locNum p (m + 0x10) 4)).any fun i =>
    let e := m + 0x40 + 64 * i
    decide (s.locNum p (e + 16) 2 % 4096 = n) ||
      (List.range (s.locNum p (e + 18) 2)).any fun j => decide (s.locNum p (m + s.locNum p (e + 20) 4 + 16 * j) 2 % 4096 = n)

/-- The partition's expert map, weight directory or fabric tree names a package. -/
def State.names (s : State) (p n : Nat) : Bool :=
  (decide (s.planBase p ≠ 0) && (List.range (s.planOf p).nexp).any fun e => decide (s.expertPkg p e = n)) ||
    s.manifestNames p (s.wdir p) n ||
    (List.range 64).any fun ch =>
      let a := R.FBN_CFG 0 ch
      s.flag a F.FBN_CFG_EN && decide (s.fget a F.FBN_CFG_PART = p) &&
        (decide (s.fget a F.FBN_CFG_PARENT = n ∧ ¬ s.flag a F.FBN_CFG_ROOT) ||
          (List.range 36).any fun k => (s.fget (R.FBN_KIDS 0 ch) F.FBN_KIDS_LINKS).testBit k && decide (linkPeer s.pkgOwn k = some n))

/-- A SLICE fault: of one partition whose count row is missing (R289), or for a lost package of every partition that names it. -/
def State.sliceFault (s : State) (part : Option Nat) (n : Nat) : State :=
  match part with
  | some p => s.stepAbort p lcPkgLost n
  | none =>
    let ps := (List.range 16).filter fun p => (s.part p).isSome
    let s := s.each ps fun s p => s.gleanLoads p (fun w => s.manifestNames p w.addr n) lcPkgLost
    s.each (ps.filter fun p => s.names p n) fun s p => (s.stepAbort p lcPkgLost n).fset (R.PT_CTL p) F.PT_CTL_STATE 5

/-! ## Domains and epochs (R510, R511) -/

/-- A domain: LEVEL, die (0xFF the package) and the tile or cluster within the die. -/
structure Dom where
  level : Nat
  die : Nat
  unit : Nat
deriving DecidableEq, Repr

def Dom.pkg : Dom := ⟨4, 255, 0⟩

/-- The domain of a fault: the steward's own die is the package's. -/
def domOf (level island die : Nat) : Dom :=
  if level = 1 then ⟨1, die, island % 64⟩
  else if level = 2 then ⟨2, die, island % 64 / 8⟩
  else if level = 3 ∧ die < 31 then ⟨3, die, 0⟩
  else .pkg

def Dom.parent (d : Dom) : Dom :=
  if d.level = 1 then ⟨2, d.die, d.unit / 8⟩ else if d.level = 2 then ⟨3, d.die, 0⟩ else .pkg

/-- `a` is or contains `b`. -/
def Dom.contains (a b : Dom) : Bool :=
  decide (a.level = 4) || (decide (a.die = b.die) &&
    (decide (a.level = 3 ∧ b.level ≤ 3) ||
      (decide (a.level = 2) && ((decide (b.level = 2) && decide (b.unit = a.unit)) || (decide (b.level = 1) && decide (b.unit / 8 = a.unit)))) ||
      decide (a.level = 1 ∧ b.level = 1 ∧ a.unit = b.unit)))

def State.epochOpen (s : State) (k : Nat) : Bool := s.flag (R.RST_EPOCH k) F.RST_EPOCH_OPEN
def State.epochDom (s : State) (k : Nat) : Dom :=
  let a := R.RST_EPOCH k
  ⟨s.fget a F.RST_EPOCH_LEVEL, s.fget a F.RST_EPOCH_DIE, s.fget a F.RST_EPOCH_UNIT⟩
def State.openEpochs (s : State) : List Nat := (List.range 8).filter s.epochOpen

def State.epochClose (s : State) (k : Nat) : State :=
  (s.fset (R.RST_EPOCH k) F.RST_EPOCH_OPEN 0).fset (R.RST_EPOCH k) F.RST_EPOCH_STEP 0

/-- An epoch starts at step 1 under the next number. -/
def State.epochStart (s : State) (k : Nat) (d : Dom) (restarts : Nat) : State :=
  let a := R.RST_EPOCH k
  let s := s.modRst fun x => { x with epochNo := (x.epochNo + 1) % 2 ^ 16, epochNos := spPut (fun _ => 0) x.epochNos k ((x.epochNo + 1) % 2 ^ 16) }
  let s := ((s.fset a F.RST_EPOCH_DIE d.die).fset a F.RST_EPOCH_UNIT d.unit).fset a F.RST_EPOCH_LEVEL d.level
  let s := ((s.fset a F.RST_EPOCH_OPEN 1).fset a F.RST_EPOCH_STEP 1).fset a F.RST_EPOCH_RESTARTS restarts
  s.fset a F.RST_EPOCH_START (s.now % 2 ^ 32)

/-- The package is dead: every link that is not OFF is held until a FULL reset (R512); no write of a link's state changes that
(`State.setLinkState`). -/
def State.setDead (s : State) : State :=
  let s := s.fset R.RST_STAT F.RST_STAT_DEAD 1
  (s.each (List.range 36) fun s k => s.setLinkState k 3).reroute

def State.epochNum (s : State) (k : Nat) : Nat := spGet (fun _ => 0) s.rst.epochNos k

/-- A fault's epoch, with the FLAGS and the EPOCH of its record: the open one whose domain it fell in, the parent's where the domain is the
open one's, the package's for a ninth; a package-level epoch restarts. -/
def State.openEpoch : Nat → State → Dom → Nat → State × Nat × Nat
  | 0, s, _, fl => (s, fl, 0)
  | n + 1, s, d, fl =>
    match s.openEpochs.find? fun k => decide ((s.epochDom k).level = 4) with
    | some k =>
      let r := s.fget (R.RST_EPOCH k) F.RST_EPOCH_RESTARTS
      if 3 ≤ r then ((s.epochClose k).setDead, fl, s.epochNum k)
      else let s := s.epochStart k .pkg (r + 1); (s, fl, s.epochNum k)
    | none =>
      match s.openEpochs.find? fun k => (s.epochDom k).contains d with
      | some k => if s.epochDom k = d then s.openEpoch n d.parent (fl ||| 1) else (s, fl ||| 2, s.epochNum k)
      | none =>
        let s := s.each (s.openEpochs.filter fun k => d.contains (s.epochDom k)) State.epochClose
        match (List.range 8).find? fun k => !s.epochOpen k with
        | some k => let s := s.epochStart k d 0; (s, fl, s.epochNum k)
        | none => s.openEpoch n .pkg (fl ||| 1)

/-- A fault report taken from its queue: logged, and by its class an epoch or step aborts begin. A fault of steward core 3 opens no epoch. -/
def State.faultTake (s : State) (q : Nat) : State :=
  match s.evq (4 + q) with
  | [] => s
  | r :: rest =>
    let s := s.setEvq (4 + q) rest
    match r with
    | .fault cls cause level part island die d1 d2 =>
      if level = 0 ∨ level = 5 ∨ (cls = 10 ∧ d2 = 3) ∨ s.flag R.RST_STAT F.RST_STAT_DEAD then
        let s := s.flogPut ⟨cls, cause, level, part, island, die, 0, d1, d2, 0⟩
        if level = 5 then s.sliceFault part d2 else s
      else
        let e := s.openEpoch 8 (domOf level island die) 0
        e.1.flogPut ⟨cls, cause, level, part, island, die, e.2.1, d1, d2, e.2.2⟩
    | _ => s

/-! ## Resets within the part (R510 step 4, R519, R520) -/

/-- The tiles of a domain. -/
def Dom.tiles (d : Dom) : List Nat :=
  if d.level = 1 then [d.die * 64 + d.unit]
  else if d.level = 2 then clusterTiles d.die d.unit
  else if d.level = 3 then (if d.die < 24 then (List.range 64).map fun t => d.die * 64 + t else [])
  else List.range 1536

def Dom.dies (d : Dom) : List Nat := if d.level = 3 then [d.die] else if d.level = 4 then List.range 31 else []

/-- A cluster reset: its tile islands off and on, its Loft tested. -/
def State.clusterReset (s : State) (gs : List Nat) : State :=
  s.each gs fun s g => ((s.resetTile g).allBanks g 0).loftZero g

/-- What a die holds beside its registers, reset: tiles, router inputs and outputs (tables stand as their images have them), the routing
engine, nodes, gateways, links, its sequencer core. -/
def State.dieReset (s : State) (d : Nat) : State :=
  let s := s.each (Dom.tiles ⟨3, d, 0⟩) fun s g => s.resetTile g
  let n := { s.net with
    inq := s.net.inq.filter fun e => decide (e.1 < inKey d 0 0 ∨ inKey (d + 1) 0 0 ≤ e.1),
    outs := s.net.outs.filter fun e => decide (e.1 < outKey d 0 0 ∨ outKey (d + 1) 0 0 ≤ e.1),
    sync := s.net.sync.filter fun m => decide (m.src ≠ d ∧ m.dst ≠ d),
    ctl := s.net.ctl.filter fun e => decide (e.hop ≠ some d) && !(e.hop.isNone && decide (e.pkt.src = d)) }
  let s := { s with net := n }
  let s := s.each (List.range 16) fun s p => s.clearNodes d p
  if d < 24 then
    let s := s.modRte d fun _ => RteSt.idle
    { s with stw := { s.stw with cores := spPut (fun _ => CoreSt.idle) s.stw.cores (4 + d) CoreSt.idle } }
  else
    let s := s.setGw (d - 24) { GwSt.idle with nextId := (s.gw (d - 24)).nextId }
    if d < 28 then s
    else
      let l := d - 28
      let s := s.each ((List.range 12).map fun i => 12 * l + i) fun s k =>
        if s.linkState k = 2 ∨ s.linkState k = 3 ∨ s.linkState k = 4 then s.linkGoDown k else s
      { s with fab := { s.fab with remotes := s.fab.remotes.filter fun r => decide (r.ld ≠ l), receipts := spPut (fun _ => []) s.fab.receipts l [] } }

/-- What training gave the channels of memory die `m` stands, as `t` holds it: their state and capacity, the die's count and speed. -/
def State.keepTrained (s t : State) (m : Nat) : State :=
  let s := s.each ((List.range 24).map (24 * m + ·)) fun s n =>
    (s.fset (R.CH_STAT n) F.CH_STAT_STATE (t.fget (R.CH_STAT n) F.CH_STAT_STATE)).fset (R.CH_STAT n) F.CH_STAT_CAP
      (t.fget (R.CH_STAT n) F.CH_STAT_CAP)
  let a := R.MEM_CTL m
  (s.fset a F.MEM_CTL_NCH (t.fget a F.MEM_CTL_NCH)).fset a F.MEM_CTL_SPEED (t.fget a F.MEM_CTL_SPEED)

/-- RST_DIE of a fenced die: step 4, with the registers of the die at their reset values but for its fence; a memory die reloads its trained
settings, and a compute die's tiles are tested. -/
def State.rstDie (s : State) (d : Nat) : State :=
  if ¬ s.flag (R.DIE_CTL d) F.DIE_CTL_FENCE then s
  else
    let t := s
    let s := (s.dieReset d).clearRegs (dieBase d) 0x1000000
    let s := if 24 ≤ d ∧ d < 28 then s.keepTrained t (d - 24) else s
    let s := s.fset (R.DIE_CTL d) F.DIE_CTL_FENCE 1
    s.each (Dom.tiles ⟨3, d, 0⟩) fun s g => s.marchRun g false

/-- DIE_CTL.CRST. -/
def State.clusterRst (s : State) (d mask : Nat) : State :=
  s.each ((List.range 8).filter fun c => mask.testBit c) fun s c =>
    s.each (clusterTiles d c) fun s g => ((s.resetTile g).allBanks g 0).marchRun g false

/-! ## Recovery (R510, R512) -/

/-- Partitions with tiles in a domain; every one for the package. -/
def State.domParts (s : State) (d : Dom) : List Nat :=
  let ps := (List.range 16).filter fun p => (s.part p).isSome
  if d.level = 4 then ps else ps.filter fun p => d.tiles.any fun g => decide (s.tilePart g = some p)

/-- A partition needs a die: it holds a cluster there, a router output there is its own, or pages of it live there. -/
def State.needsDie (s : State) (p d : Nat) : Bool :=
  ((Dom.tiles ⟨3, d, 0⟩).any fun g => decide (s.tilePart g = some p)) || !(s.outsOf d p).isEmpty ||
    (decide (24 ≤ d ∧ d < 28) && decide (0 < s.quotaUsed d p))

def State.failPart (s : State) (p : Nat) : State := s.fset (R.PT_CTL p) F.PT_CTL_STATE 5

/-- The memory die that a page lives on. -/
def State.pageDie (s : State) (pg : Nat) : Option Nat :=
  (s.partOf (pg * 65536)).bind fun p => (s.rgnOf p (pg * 65536)).bind fun r => s.homeDie r (pg * 65536)

/-- The pages that live on a memory die are LOST, with the items that depend on them (R514). -/
def State.losePagesOf (s : State) (d : Nat) : State :=
  (s.each ((s.mem.map.map (·.1)).filter fun pg => decide (s.pageDie pg = some d)) fun s pg =>
    if (s.mapEnt pg).st = .bay ∨ (s.mapEnt pg).st = .moveout then s.setMapEnt pg { s.mapEnt pg with st := .lost } else s).lostSince s

/-- A domain that failed its reset leaves service. -/
def State.leaveService (s : State) (d : Dom) : State :=
  let ps := s.domParts d
  if d.level = 1 then (s.setFaulty (d.die * 64 + d.unit) true).each ps fun s p => s.failPart p
  else if d.level = 2 then
    (s.fset (R.DIE_STAT d.die) F.DIE_STAT_FAULTY (setMask (s.fget (R.DIE_STAT d.die) F.DIE_STAT_FAULTY) (2 ^ d.unit) true)).each ps
      fun s p => s.failPart p
  else if d.level = 3 then
    let need := (List.range 16).filter fun p => (s.part p).isSome && s.needsDie p d.die
    let s := s.fset (R.DIE_STAT d.die) F.DIE_STAT_INSERVICE 0
    let s := if 24 ≤ d.die ∧ d.die < 28 then s.losePagesOf d.die else s
    s.each need fun s p => s.failPart p
  else (s.setDead).each ps fun s p => s.failPart p

/-- Steps 2 to 6 of an epoch, run to its end; `ok` says the domain passed its reset and re-initialisation. -/
def State.recover (s : State) (k : Nat) (ok : Bool) : State :=
  if ¬ s.epochOpen k then s
  else
    let d := s.epochDom k
    let ps := s.domParts d
    let all := (List.range 16).filter fun p => (s.part p).isSome
    let ld (l : Nat) : Bool := d.dies.contains (28 + l)
    let s := s.each d.tiles fun s g => s.setRun g 0
    let s := s.each d.dies fun s x => s.fset (R.DIE_CTL x) F.DIE_CTL_FENCE 1
    let s := s.each ps fun s p => (s.abortStop p).noticeAll 4 s.pkgOwn p
    let s := s.each ps fun s p => (s.gleanStep p lcDomain).gleanAtomics p
    let s := s.each all fun s p => s.gleanCopies p ld
    let s := if d.level = 4 then s.each all fun s p => s.gleanLoads p (fun _ => true) lcDomain else s
    let s := if d.level = 1 then s.each d.tiles fun s g => s.resetTile g
      else if d.level = 2 then s.clusterReset d.tiles
      else s.each d.dies fun s x => (s.dieReset x).each (Dom.tiles ⟨3, x, 0⟩) fun s g => s.loftZero g
    let s := if d.level = 4 then
        s.each [0, 1, 2] fun s c => { s with stw := { s.stw with cores := spPut (fun _ => CoreSt.idle) s.stw.cores c CoreSt.idle } }
      else s
    let s := if ok then
        let s := if d.level = 2 then s.each d.tiles fun s g => if (s.tilePart g).isSome then s.allBanks g 3 else s else s
        s.each d.dies fun s x => (s.fset (R.DIE_CTL x) F.DIE_CTL_FENCE 0).fset (R.DIE_STAT x) F.DIE_STAT_INSERVICE 1
      else s.leaveService d
    let s := s.epochClose k
    s.each ps fun s p => if s.ptState p = 5 then s else s.abortRestart p

def State.epochCount (s : State) : Nat := s.openEpochs.length

/-- RST_STAT with the open epochs counted. -/
def State.rstStat (s : State) : Nat := (fldPut F.RST_STAT_EPOCHS (s.rd R.RST_STAT) s.epochCount).toNat

/-! ## Commands (R516) -/

def cmdResetStatus (s : State) : State × Reply :=
  s.cmd [] fun s =>
    (s, .ok (lay ([(4, (s.rd R.RST_CAUSE).toNat), (4, s.rstStat)] ++ layList ((List.range 8).map fun i => (8, s.rst.times.getD i 0)))))

/-- The fault log's entries, newest first. -/
def State.flogEntries (s : State) : List (List Byte) :=
  let a := R.STW_FLOGPTR
  ((ringOrder (s.fget a F.STW_FLOGPTR_NEXT) (s.fget a F.STW_FLOGPTR_COUNT) 1024).map fun j => spGetN (fun _ => 0) s.stw.flog (32 * j) 32).reverse

def cmdFaultLog (fn count : Nat) (clr : Bool) (s : State) : State × Reply :=
  s.cmd [badAt 0 (decide (65535 < count)), (decide (fn ≠ 0) && clr, .notPermitted)] fun s =>
    let mine := s.flogEntries.filter fun e => decide (fn = 0) || decide ((e.getD 11 0).toNat = fn - 1 + 128)
    let l := mine.take (min count 511)
    (if clr then s.flogClear else s, .ok (leBytes 4 l.length ++ l.flatten))

def cmdDieRecover (fn d : Nat) (s : State) : State × Reply :=
  s.cmd [badAt 0 (decide (30 < d)), pfOnly fn] fun s => ((s.openEpoch 8 ⟨3, d, 0⟩ 0).1, .ok [])

def cmdLoftMarch (fn p : Nat) (ts : TileSet) (preserving : Bool) (s : State) : State × Reply :=
  let l := s.tilesIn p ts
  s.cmd (s.tileChecks fn p 1 ts ++ [refuse 1 (l.any fun g => !s.mayMarch fn g)]) fun s =>
    let s := s.each l fun s g => s.marchRun g preserving
    let c := capped 2000 l
    (s, .ok (lay (layList (c.1.map fun g => (8, (s.rd (R.BNK_MRES g)).toNat)) ++ [(4, c.2)])))

def cmdWatchdogSet (fn ms : Nat) (on : Bool) (s : State) : State × Reply :=
  s.cmd [badAt 0 (decide (ms < 100 ∨ 60000 < ms)), pfOnly fn] fun s =>
    ((s.fset R.RST_WDOG F.RST_WDOG_MS ms).fset R.RST_WDOG F.RST_WDOG_EN (bit on)).told [R.RST_WDOG]

/-- The records of the keep for a partition: FAILED, cause RESET, at the reserved LSN. -/
def cmdLedgerKeep (fn p : Nat) (clr : Bool) (s : State) : State × Reply :=
  s.cmd [pfOnly fn] fun s =>
    let l := (s.rst.keepRecs.filter fun e => decide (e.2.2.1 = p)).take 511
    let out := l.flatMap fun e => LedRec.bytes ⟨p, e.1, e.2.1, true, lcReset, 0, e.2.2.2⟩
    (if clr then s.modRst fun x => { x with keepRecs := x.keepRecs.filter fun e => !l.contains e } else s, .ok (leBytes 4 l.length ++ out))

end Sys2Proof.Machine
end

