-- ==== Sys2Proof/Machine/Reset.lean ====
section
/-! DEFINITION. Reset sources (R497 to R501), bring-up with secure boot (R484 to R486, R502 to R504), and the package's boundary: rails,
reference clocks, PCI Express configuration, the management port and the TAP (R525 to R539). -/

namespace Sys2Proof.Machine

/-! ## Reset sources (R498, R499) -/

def State.setHold (s : State) (h : Hold) : State := s.modRst fun x => { x with hold := h }

/-- A reset is held, so the management port takes a slot and a cap for the release (R536, R537). -/
def State.inReset (s : State) : Bool := decide (s.rst.hold = .unpowered ∨ s.rst.hold = .pin ∨ s.rst.hold = .trip)

/-- POWER_ON_RESET: every rail is good and the reference clock has run 100 µs; the straps are sampled. With PKG_RESET_N low the part stays
in reset (R527). -/
def State.powerOn (s : State) (twoPorts sris : Bool) : State :=
  if ¬ s.rst.vaux then s
  else
    let h := if s.rst.hold = .pin then Hold.pin else .none_
    ((s.fullReset 0).modRst fun x => { x with twoPorts := twoPorts, sris := sris, hold := h })

/-- A low pulse of PKG_RESET_N: ignored below 1 µs, honoured from 10 µs on, and either between. -/
def State.resetPin (s : State) (ns : Nat) (honoured : Bool) : State :=
  if s.rst.hold ≠ .none_ then s
  else if ns < 1000 ∨ (ns < 10000 ∧ ¬ honoured) then s
  else (s.fullReset 1).setHold .pin

def State.resetPinHigh (s : State) : State := if s.rst.hold = .pin then s.latchSlot.setHold .none_ else s

/-- The watchdog fires when MS have passed since its last kick. -/
def State.watchdog (s : State) : State :=
  if s.flag R.RST_WDOG F.RST_WDOG_EN ∧ s.rst.kickAt + 1000 * s.fget R.RST_WDOG F.RST_WDOG_MS ≤ s.now then s.fullReset 2 else s

/-- The thermal-trip reset ends when it has lasted 1 s and every sensor reads 105 °C or less. -/
def State.tripEnd (s : State) (ms : Nat) (temps : List Byte) : State :=
  if s.rst.hold = .trip ∧ 1000 ≤ ms ∧ temps.length = 239 ∧ temps.all (fun t => decide (toSigned8 t.toNat ≤ 105)) then
    let s := s.each (List.range 239) fun s n => s.sensorRead n (temps.getD n 0).toNat
    (s.latchSlot.modRst fun x => { x with hold := .none_, tripLow := false })
  else s

/-- A rail below its good level: 10 µs begin a power-on reset. Rail 7 is VAUX, whose loss ends the always-on block's state (R528, R537). -/
def State.railDip (s : State) (rail ns : Nat) : State :=
  if ns < 10000 then s
  else
    let s := (s.fullReset 0).setHold .unpowered
    if rail = 7 then
      s.modRst fun x =>
        { x with vaux := false, slot := 0, slotValid := false, slotErr := false, capTray := 4000, rateTray := 0, mpOut := [] }
    else s

/-- VAUX reaches 3.1 V. -/
def State.vauxGood (s : State) : State :=
  if s.rst.vaux then s
  else s.modRst fun x => { x with vaux := true, slot := 0, slotValid := false, slotErr := false, capTray := 4000, rateTray := 0 }

/-- PKG_REFCLK out of tolerance for more than 10 µs: every island stops (R525). -/
def State.refclkLost (s : State) (ns : Nat) : State := if 10000 < ns ∧ s.rst.hold ≠ .unpowered then s.setHold .refLost else s

/-! ## PERST# and function-level resets (R500, R530) -/

/-- The partition is served on a port. -/
def State.onPort (s : State) (port p : Nat) : Bool :=
  if s.rst.twoPorts then decide ((s.fget R.HST_PORTMAP F.HST_PORTMAP_PORT).testBit p = decide (port = 1)) else decide (port = 0)

/-- Bus Master Enable of a function. -/
def State.setMaster (s : State) (fn : Nat) (on : Bool) : State :=
  s.modRst fun x => { x with busMaster := spPut (fun _ => false) x.busMaster fn on }

/-- PERST# of a port, or a reset of its physical function: every partition on it is reset as by its own function, with its records held. -/
def State.portReset (s : State) (port : Nat) : State :=
  if port = 1 ∧ ¬ s.rst.twoPorts then s
  else
    let ps := (List.range 16).filter (s.onPort port)
    let s := s.each (0 :: ps.map (· + 1)) fun s fn => s.setMaster fn false
    let s := s.modRst fun x => { x with vfEn := spPut (fun _ => false) x.vfEn port false }
    let s := s.each ps State.vfFlr
    (s.mbAbort 0).closeSessions 0

/-! ## Secure boot (R484 to R486) -/

/-- The first check that an image fails: 1 header, 2 SVN, 3 digest, 4 signature; 0 where it passes. -/
def State.imageErr (s : State) (stage : Nat) (img : List Byte) : Nat :=
  let n (o k : Nat) : Nat := ofLeBytes ((img.drop o).take k)
  if img.length < 128 ∨ n 0 4 ≠ 0x544F4F42 ∨ n 4 2 ≠ 1 ∨ n 6 1 ≠ stage then 1
  else if n 7 1 < s.fget R.SEC_SVN F.SEC_SVN_SVN then 2
  else if img.length < 128 + n 8 4 ∨ sm3 ((img.drop 128).take (n 8 4)) ≠ (img.drop 16).take 32 then 3
  else if ¬ sm2Verify Config.fwKey (img.take 48) ((img.drop 48).take 64) then 4
  else 0

/-- The first of the copies A and B that passes, or the check that the last one fails. -/
def State.pickImage (s : State) (stage : Nat) : List (List Byte) → Nat → Option (List Byte) × Nat
  | [], e => (none, e)
  | img :: r, _ =>
    let e := s.imageErr stage img
    if e = 0 then (some img, 0) else s.pickImage stage r e

def imageDig (img : List Byte) : List Byte := (img.drop 16).take 32

/-! ## Stages (R502) -/

/-- A stage is complete; how long it took is measured. -/
def State.stageDone (s : State) (n : Nat) : State :=
  let f := s.fresh
  (f.2.fset R.RST_STAT F.RST_STAT_STAGE n).modRst fun x => { x with times := (x.times ++ List.replicate (n - x.times.length) 0).set (n - 1) (f.1 % 2 ^ 32) }

def State.inService (s : State) (ds : List Nat) : State := s.each ds fun s d => s.fset (R.DIE_STAT d) F.DIE_STAT_INSERVICE 1

/-- An image of a stage is checked and measured; none where both copies fail, and boot halts. -/
def State.bootImage (s : State) (stage reg : Nat) (l : List (List Byte)) : State × Option (List Byte) :=
  match s.pickImage stage l 1 with
  | (none, e) => (s.fset R.SEC_STAT F.SEC_STAT_BOOTERR e, none)
  | (some img, _) => (s.measure reg 1 (imageDig img), some img)

/-- Stage 1: the boot ROM's checks of the loader. -/
def State.stage1 (s : State) (b : BootIn) : State × Bool :=
  let r := s.bootImage 1 0 b.loader
  (if r.2.isSome then r.1.stageDone 1 else r.1, r.2.isSome)

/-- Stage 2: the keys, the steward firmware, the die firmware; the watchdog runs. -/
def State.stage2 (s : State) (b : BootIn) : State × Bool :=
  let f := s.fresh
  let s := f.2.modSec fun y => { y with mrk := BitVec.ofNat 256 f.1, alive := decide (f.2.life ≠ 3) }
  let s := s.unseal
  let r := s.bootImage 2 1 b.steward
  match r.2 with
  | none => (r.1, false)
  | some img =>
    let s := r.1.measureFuses.modSec fun y => { y with fwSvn := (img.getD 7 0).toNat, fwDigest := imageDig img }
    let r := s.bootImage 3 2 b.die
    if r.2.isNone then (r.1, false)
    else
      let s := (r.1.fset R.RST_WDOG F.RST_WDOG_EN 1).fset R.RST_WDOG F.RST_WDOG_MS 2000
      let s := s.modRst fun x => { x with kickAt := s.now }
      (s.stageDone 2, true)

/-- Stage 3: clocks and islands; a cap that the tray wrote during reset applies. -/
def State.stage3 (s : State) (b : BootIn) : State :=
  let s := s.ageingCheck b.short
  let c := (s.rst.capTray, s.rst.rateTray)
  let s := if c = (4000, 0) then s else s.capWrite true c.1 c.2
  let s := s.modRst fun x => { x with capTray := 4000, rateTray := 0 }
  (s.inService [31]).stageDone 3

/-- A failed resource written to the fault log (R504). -/
def State.bootFault (s : State) (cls island d2 : Nat) : State := s.flogPut ⟨cls, Config.plainCause cls % 256, 0, none, island, islandDie island, 0, 0, d2, 0⟩

/-- Stage 4: every channel trained. -/
def State.stage4 (s : State) (b : BootIn) : State :=
  let fails (n : Nat) : Nat := ((b.trainFails.find? fun x => decide (x.1 = n)).map (·.2)).getD 0
  let s := s.each (List.range 96) fun s n => s.chanTrain n (b.dimms.getD n none) (decide (1 ≤ fails n)) (decide (2 ≤ fails n))
  let s := s.each (List.range 96) fun s n =>
    if s.fget (R.CH_STAT n) F.CH_STAT_STATE = 3 then s.bootFault 5 (1568 + n) n else s
  (s.inService [24, 25, 26, 27]).stageDone 4

/-- The lines that the repair map of a die covers, where its version is the fuses' (R507). -/
def State.repairsOf (s : State) (d : Nat) : List (Nat × Nat × Nat) :=
  let m := spGet (fun _ => []) s.sec.repair d
  if m.isEmpty ∨ s.life = 3 ∨ ofLeBytes ((m.drop 5).take 1) ≠ s.fget (R.SEC_REPAIR d) F.SEC_REPAIR_VERSION then []
  else
    (List.range (ofLeBytes ((m.drop 6).take 2))).filterMap fun i =>
      let e := ofLeBytes ((m.drop (16 + 4 * i)).take 4)
      if e.testBit 31 then some (d * 64 + bitsOf e 5 0, bitsOf e 10 6, bitsOf e 21 11) else none

/-- Stage 5: repair maps applied, then a destructive test of every tile. -/
def State.stage5 (s : State) (b : BootIn) : State :=
  let reps := (List.range 24).flatMap s.repairsOf
  let s := s.each reps fun s r =>
    s.modRst fun x => { x with repairs := spPut (fun _ => []) x.repairs r.1 (spGet (fun _ => []) x.repairs r.1 ++ [r.2]) }
  let gs := List.range 1536
  let s := s.each gs fun s g => s.marchEnd g false ((b.marchFails.filter fun x => decide (x.1 = g)).map (·.2))
  let s := s.each gs fun s g => if s.flag (R.BNK_MARCH g) F.BNK_MARCH_FAULTY then s.bootFault 1 g 0 else s
  (s.inService (List.range 24)).stageDone 5

/-- Stage 6: KD unsealed, every link trained; one that failed is left OFF, its attempts used up (R504). -/
def State.stage6 (s : State) (lanes : List Bool) : State :=
  let s := s.unseal
  let s := s.each (List.range 36) fun s k => (s.linkTrain k true true []).linkTrain k (lanes.getD k false) true []
  let s := s.each (List.range 36) fun s k => if s.mayTrain k ∧ s.linkState k = 5 then (s.linkAct k 1).bootFault 6 (1664 + k) k else s
  ((s.inService [28, 29, 30]).fset R.RST_STAT F.RST_STAT_LINKWAIT 0).stageDone 6

/-- Stage 7: virtual functions and mailboxes. -/
def State.stage7 (s : State) : State := (s.fset R.STW_IDENT F.STW_IDENT_FWIF 1).stageDone 7

/-- The channels of the barrier tree after bring-up: 4p to 4p + 3 belong to partition p at every node (R205). -/
def State.assignChannels (s : State) : State :=
  s.each (List.range 64) fun s ch =>
    let s := s.each (List.range 24) fun s d =>
      (s.each (List.range 8) fun s c => s.fset (R.SYN_CLN d c ch) F.SYN_CLN_PART (ch / 4)).fset (R.SYN_DIE d ch) F.SYN_DIE_PART (ch / 4)
    (s.fset (R.PKN_CFG ch) F.PKN_CFG_PART (ch / 4)).fset (R.FBN_CFG 0 ch) F.FBN_CFG_PART (ch / 4)

/-- What firmware sets in every Winnow unit after bring-up (R71). -/
def State.winnowDefault (s : State) : State :=
  s.each (List.range 24) fun s d =>
    (((s.fset (R.WNW_CTL d) F.WNW_CTL_EN 1).fset (R.WNW_CTL d) F.WNW_CTL_RATE 12).fset (R.WNW_CTL d) F.WNW_CTL_CLMASK 0xFF).fset
      (R.WNW_CTL d) F.WNW_CTL_FLTMASK 0

/-- Stage 8: the keep's entries have their records; islands that nothing uses are off (R463). -/
def State.stage8 (s : State) : State :=
  let s := s.modRst fun x => { x with keep := [], keepRecs := x.keepRecs ++ x.keep }
  let s := s.each (List.range 1536) fun s g => if (s.tilePart g).isSome then s else s.fset (R.CLK_ISL g) F.CLK_ISL_ON 0
  let s := s.each (List.range 96) fun s n =>
    if s.fget (R.CH_STAT n) F.CH_STAT_STATE = 2 then s else s.fset (R.CLK_ISL (1568 + n)) F.CLK_ISL_ON 0
  let s := s.each (List.range 36) fun s k => if s.linkState k = 0 then s.fset (R.CLK_ISL (1664 + k)) F.CLK_ISL_ON 0 else s
  (s.assignChannels.winnowDefault.fset R.RST_STAT F.RST_STAT_UP 1).stageDone 8

/-- BRING_UP after a FULL reset: a failed self-test lets only stage 7 run among the later stages, a stage whose images fail halts boot, and
without LOCK stage 6 waits while stage 7 runs. -/
def State.bringUp (s : State) (b : BootIn) : State :=
  if s.fget R.RST_STAT F.RST_STAT_STAGE ≠ 0 ∨ s.fget R.SEC_STAT F.SEC_STAT_BOOTERR ≠ 0 ∨ s.fwif ≠ 0 then s
  else if b.failTest = 1 ∨ b.failTest = 2 then (s.secFail b.failTest).stage7
  else
    let r := s.stage1 b
    if ¬ r.2 then r.1
    else if b.failTest ≠ 0 then (r.1.secFail b.failTest).stage7
    else
      let r := r.1.stage2 b
      if ¬ r.2 then r.1
      else
        let s := ((r.1.stage3 b).stage4 b).stage5 b
        if s.flag R.STW_LOC F.STW_LOC_LOCK then ((s.stage6 b.lanes).stage7).stage8
        else (s.fset R.RST_STAT F.RST_STAT_LINKWAIT 1).stage7

/-- BRINGUP_LINK_STAGE: stage 6 once LOCK reads 1, then stage 8. -/
def State.linkStage (s : State) (lanes : List Bool) : State :=
  if s.flag R.RST_STAT F.RST_STAT_LINKWAIT ∧ s.flag R.STW_LOC F.STW_LOC_LOCK then (s.stage6 lanes).stage8 else s

/-! ## Configuration requests, reference clocks of links, the TAP -/

/-- CONFIGURATION_REQUEST: a port that is not there answers nothing; a virtual function answers on the port that serves it. -/
def State.cfgRequest (s : State) (port : Nat) (r : CfgReq) : State :=
  if port = 1 ∧ ¬ s.rst.twoPorts then s
  else
    match r with
    | .other => s
    | .vfEnable on => s.modRst fun x => { x with vfEn := spPut (fun _ => false) x.vfEn port on }
    | .busMaster fn on =>
      if fn.val = 0 then s.setMaster 0 on
      else if ¬ s.onPort port (fn.val - 1) then s
      else
        let s := s.setMaster fn.val on
        if on then s.ledgerDrain (fn.val - 1) 65536 else s

def State.linkClock (s : State) (l : Nat) : State :=
  s.each ((List.range 12).map fun i => 12 * l + i) fun s k => s.setLink k { s.link k with refLost := false }

/-- A TAP instruction: boundary scan while PKG_RESET_N is low; any other needs the TEST grant and acts as BYPASS without it. -/
def State.tapRun (s : State) (op : TapOp) : State :=
  let set (c : Nat) (ok : Bool) : State := s.modRst fun x => { x with tap := if ok then c else 0, tapBypass := !ok || decide (c = 0) }
  let low := decide (s.rst.hold = .pin)
  match op with
  | .bypass => set 0 low
  | .idcode => set 1 low
  | .sample => set 2 low
  | .extest => set 3 low
  | .other c => set (4 + c) (s.flag R.SEC_DEBUG F.SEC_DEBUG_TEST)

/-! ## The management port (R535 to R537) -/

/-- A block read from the port, which VAUX feeds. -/
def State.mpRead (s : State) (l : List Byte) : State := if s.rst.vaux then s.modRst fun x => { x with mpOut := l } else s

def State.mpId (s : State) : State := s.mpRead (leBytes 2 0x320 ++ leBytes 1 (s.fget R.STW_IDENT F.STW_IDENT_STEPPING) ++ [1])

/-- MP_SLOT written. -/
def State.mpSlot (s : State) (slot : Nat) (pecOk : Bool) : State :=
  if ¬ pecOk ∨ ¬ s.rst.vaux then s
  else
    let set (s : State) : State := s.modRst fun x => { x with slot := slot, slotValid := true }
    if s.inReset then set s
    else if s.rst.slotValid then s.modRst fun x => { x with slotErr := true }
    else (set s).latchSlot

def State.mpSlotRead (s : State) : State := s.mpRead (leBytes 1 (s.rst.slot + 128 * bit s.rst.slotValid))

def State.mpCapWrite (s : State) (watts rate : Nat) (pecOk : Bool) : State :=
  if ¬ pecOk ∨ ¬ s.rst.vaux then s
  else if s.inReset then s.modRst fun x => { x with capTray := watts, rateTray := rate % 4096 }
  else s.capWrite true watts rate

def State.mpCapRead (s : State) : State :=
  if s.inReset then s.mpRead (leBytes 2 s.rst.capTray ++ leBytes 2 s.rst.rateTray)
  else s.mpRead (leBytes 2 (s.fget R.PWR_CAP F.PWR_CAP_TRAY) ++ leBytes 2 (s.fget R.PWR_CAP F.PWR_CAP_TRATE))

/-- A block that reads zero while the steward is in reset. -/
def State.mpLive (s : State) (n : Nat) (l : List Byte) : State := s.mpRead (if s.inReset then List.replicate n 0 else l)

def State.mpPower (s : State) : State := s.mpLive 8 (leBytes 8 s.pwrStat)
def State.mpTemp (s : State) : State := s.mpLive 239 ((List.range 239).map fun n => BitVec.ofNat 8 (s.fget (R.PWR_TS n) F.PWR_TS_TEMP))
def State.mpOvr (s : State) : State :=
  let n := s.fget R.PWR_OVRPTR F.PWR_OVRPTR_NEXT
  let l := if s.fget R.PWR_OVRPTR F.PWR_OVRPTR_COUNT = 0 then List.replicate 32 0 else spGetN (fun _ => 0) s.stw.ovr (32 * ((n + 15) % 16)) 32
  s.mpLive 36 (leBytes 4 (s.rd R.PWR_OVRPTR).toNat ++ l)
def State.mpBoot (s : State) : State :=
  s.mpRead (leBytes 4 s.rstStat ++ leBytes 4 (s.rd R.RST_CAUSE).toNat ++ leBytes 1 (s.fget R.SEC_STAT F.SEC_STAT_BOOTERR) ++ leBytes 1 s.life)
def State.mpEvent (s : State) : State :=
  s.mpRead (leBytes 2 (bit (decide (s.rst.hold = .refLost)) + 2 * bit s.rst.tripLow + 4 * bit (s.flag R.RST_STAT F.RST_STAT_DEAD) +
    8 * bit s.rst.slotErr))

end Sys2Proof.Machine
end

