-- ==== Sys2Proof/Machine/Ctl.lean ====
section
/-! DEFINITION. Access to the control space: which accessor reaches which register (R8, R12, R33, R236, R399, R400, R438, R496, R503, R530),
what each register reads as, what a write of each does, and the packets of the control network (R231 to R233). An accessor is a
PCI Express function (0 to 16) or 17 plus a Bilha-C core. -/

namespace Sys2Proof.Machine

/-! ## Who reaches what -/

/-- VF Enable of a partition's function, on the port that serves it (R399, R530). -/
def State.vfEnabled (s : State) (p : Nat) : Bool := spGet (fun _ => false) s.rst.vfEn (if s.onPort 0 p then 0 else 1)

/-- The registers that partition `p`'s virtual function reaches through R400 and R496. -/
def State.vfReach (s : State) (p : Nat) (x : RegSel) : Bool :=
  let slot := decide (x.ix.headD 16 = p)
  match x.kind with
  | .til => decide (s.tilePart x.idx = some p)
  | .step => slot && decide (x.row.base < 0x80000)
  | .tq => slot
  | .fab => slot && decide (0x10000 ≤ x.row.base) && decide (x.row.base < 0x10800)
  | .mem => slot && decide (x.row.width = 128)
  | .rte => s.rteOn x.idx && decide (s.rtePart x.idx = p)
  | .bnet => decide (0x1000 ≤ x.row.base) && decide (x.row.base < 0x3000) && decide (s.outPart x.idx (x.ix.getD 0 0) (x.ix.getD 1 0) = some p)
  | .gw => decide (x.row.base < 0x400) && decide (s.queuePart (x.idx - 24) (x.ix.headD 0) = some p)
  | .pt => decide (x.idx = p)
  | .sec =>
    decide (x.row.base = 0) || decide (x.row.base = 8) || ((decide (x.row.base = 0x2000) || decide (x.row.base = 0x3000)) && slot)
  | _ => false

/-- The windows of bytes: 0 the accessor's own mailbox, 1 the fault log, 2 the overrun log, 3 the ageing log; and the offset within. -/
def winOf (a : Nat) : Option (Nat × Nat) :=
  if 0x10000 ≤ a ∧ a < 0x18000 then some (0, a - 0x10000)
  else if 0x40000 ≤ a ∧ a < 0x48000 then some (1, a - 0x40000)
  else if 0x100100 ≤ a ∧ a < 0x100300 then some (2, a - 0x100100)
  else if 0x140000 ≤ a ∧ a < 0x141000 then some (3, a - 0x140000)
  else none

/-- The island that a register's block stands in, where it can be off. -/
def RegSel.island (x : RegSel) : Option Nat :=
  match x.kind with
  | .til => some x.idx
  | .ch => some (1568 + x.idx)
  | .lnk => some (1664 + x.idx)
  | _ => none

/-- What an access names. -/
inductive CtlTgt where
  | miss
  /-- the crossing into an island that is off refuses it (R28) -/
  | off
  | win (w o : Nat)
  | reg (x : RegSel)

/-- The fabric nodes stand on LD0 (R195). -/
def nodeMissing (x : RegSel) : Bool := decide (x.kind = .fab) && decide (0x80000 ≤ x.row.base) && decide (x.idx ≠ 0)

/-- The register of an access of `n` bytes, apart from the accessor's rights. An access wider than its register, or than a half of a
128-bit one, is a decode miss like the narrower access that R33 names (DESIGN CHOICE, log entry 36). -/
def State.ctlReg (s : State) (a n : Nat) : CtlTgt :=
  match regAt a with
  | none => .miss
  | some x =>
    if 8 * n ≠ min 64 x.row.width ∨ nodeMissing x then .miss
    else
      match x.island with
      | some i => if s.islandOn i then .reg x else .off
      | none => .reg x

/-- What an access of `n` bytes at an address reaches. -/
def State.ctlTarget (s : State) (acc a n : Nat) : CtlTgt :=
  if 2 ^ 30 ≤ a ∨ (acc < 17 ∧ s.fwif = 0 ∧ a ≠ R.STW_IDENT) then .miss
  else
    match vfPart acc, winOf a with
    | none, some w => if n ∈ [1, 2, 4, 8] ∧ a % n = 0 then .win w.1 w.2 else .miss
    | some p, some w => if s.vfEnabled p ∧ w.1 = 0 ∧ n ∈ [1, 2, 4, 8] ∧ a % n = 0 then .win 0 w.2 else .miss
    | none, none => s.ctlReg a n
    | some p, none =>
      if ¬ s.vfEnabled p then .miss
      else
        match s.ctlReg a n with
        | .reg x =>
          if a = R.STW_IDENT ∨ a = R.STW_LOC ∨ a = R.MB_DB ∨ ((s.part p).isSome ∧ s.vfReach p x) then .reg x else .miss
        | .off => if (s.part p).isSome then .off else .miss
        | t => t

/-- The die from which an accessor sends: a function's port and the control cores stand on the steward. -/
def accDie (acc : Nat) : Nat := if acc < 21 then 31 else acc - 21

/-! ## Reads -/

/-- The function whose mailbox an accessor reaches: its own; a core's is the physical function's. -/
def accFn (acc : Nat) : Nat := if acc < 17 then acc else 0

def State.winBytes (s : State) (acc w o n : Nat) : List Byte :=
  match w with
  | 0 => s.mbBytes (accFn acc) o n
  | 1 => spGetN (fun _ => 0) s.stw.flog o n
  | 2 => spGetN (fun _ => 0) s.stw.ovr o n
  | _ => spGetN (fun _ => 0) s.stw.age o n

/-- What a tile's register reads as. -/
def State.tilView (s : State) (g a : Nat) (x : RegSel) : Nat :=
  let e := engOf (x.ix.headD 0)
  if a = R.TIL_STAT g then s.tilStat g
  else if x.row.base = 0x1000 then s.tilEq g e
  else if x.row.base = 0x1010 then s.tilLoop g e
  else if a = R.BNK_BUSY g then (fldPut F.BNK_BUSY_BUSY (s.rd a) (s.bnkBusy g)).toNat
  else if a = R.TIL_SYNSTAT g then (fldPut F.TIL_SYNSTAT_POSTED (s.rd a) (s.posted g)).toNat
  else if a = R.AW_STAT g then s.awStat g
  else if a = R.AW_RING g then s.awRing g
  else (s.rd a).toNat

/-- TQ_QUOTA of LD1 and LD2 reads zero and ignores writes (R346). -/
def RegSel.noQuota (x : RegSel) : Bool := decide (x.kind = .tq ∧ x.row.base = 0 ∧ (x.idx = 29 ∨ x.idx = 30))

/-- What a register reads as: its stored value, or what it shows of the machine. -/
def State.regView (s : State) (acc a : Nat) (x : RegSel) : Nat :=
  let v := s.rd a
  match x.kind with
  | .til => s.tilView x.idx a x
  | .stw => if a = R.MB_DB then (s.rd (State.mbDb (accFn acc))).toNat else v.toNat
  | .syn =>
    if x.row.base = 0x1000 then (fldPut F.SYN_SEM_POSTED v (bit (s.semPosted x.idx (x.ix.headD 0)))).toNat else v.toNat
  | .fab =>
    if a = R.FB_CTL x.idx then (fldPut F.FB_CTL_DOMAIN v s.domain).toNat
    else if x.row.base = 0x50000 then (fldPut F.FB_RT_SELF v (bit (decide (x.ix.headD 0 = s.pkgOwn)))).toNat
    else if a = R.FB_RCPT2 x.idx then s.occupied x.idx
    else v.toNat
  | .bnet =>
    if x.row.base = 0x1008 then s.outStat x.idx (x.ix.getD 0 0) (x.ix.getD 1 0)
    else if a = R.BNET_RPDATA x.idx then s.rpRead x.idx
    else v.toNat
  | .lnk =>
    if a = R.LNK_INJ x.idx then
      let on := s.flag R.SEC_DEBUG F.SEC_DEBUG_INJECT
      (fldPut F.LNK_INJ_AUTH (if on then v else fldPut F.LNK_INJ_MODE v 0) (bit on)).toNat
    else v.toNat
  | .rte => if a = R.RTE_STAT x.idx then (fldPut F.RTE_STAT_BUSY v (bit (s.rteBusy x.idx))).toNat else v.toNat
  | .tq => if x.noQuota then 0 else v.toNat
  | .pwr => if a = R.PWR_STAT then s.pwrStat else v.toNat
  | .sec => if a = R.SEC_STAT then s.secStat else v.toNat
  | .rst => if a = R.RST_STAT then s.rstStat else v.toNat
  | _ => v.toNat

/-- A read of the control space: the value, whether the access failed, and the state after it. -/
def State.ctlRead (s : State) (acc a n : Nat) : (Nat × Bool) × State :=
  match s.ctlTarget acc a n with
  | .miss => ((0, true), s.decodeMiss acc a)
  | .off => ((0, true), s.offRefused (accDie acc))
  | .win w o => ((ofLeBytes (s.winBytes acc w o n), false), s)
  | .reg x => ((s.regView acc a x, false), if a = R.BNET_RPDATA x.idx ∧ x.kind = .bnet then s.rpStep x.idx else s)

/-! ## Writes -/

/-- A half with a field written as its type says (R5); WO effects and fields that a rule governs are the register's own. -/
def fldWrite (f : Fld) (old new : Word64) : Word64 :=
  match f.ty with
  | .rw => fldPut f old (fldGet f new)
  | .w1c => old &&& ~~~ (new &&& fldMask f)
  | .w1s => old ||| (new &&& fldMask f)
  | _ => old

/-- A register half written field by field. -/
def State.rowWrite (s : State) (a v : Nat) (x : RegSel) : State :=
  s.wr a (x.row.fields.foldl (fun o f => if f.half = x.half then fldWrite f o (BitVec.ofNat 64 v) else o) (s.rd a))

/-- One field held within limits. -/
def State.clampFld (s : State) (a : Nat) (f : Fld) (lo hi : Nat) : State := s.fset a f (max lo (min hi (s.fget a f)))

def State.wnwWrite (s : State) (d a v : Nat) (x : RegSel) : State :=
  if a = R.WNW_CTL d then (s.rowWrite a v x).clampFld a F.WNW_CTL_RATE 6 16
  else if a = R.WNW_SEED d then (s.rowWrite a v x).clampFld a F.WNW_SEED_LFSR 1 (2 ^ 32 - 1)
  else if a = R.WNW_LOGPTR d then
    let s := s.rowWrite a v x
    let s := if v.testBit 30 then s.fset a F.WNW_LOGPTR_LOST 0 else s
    if v.testBit 31 then s.winnowCntClear d else s
  else s.rowWrite a v x

def State.tilCtlWrite (s : State) (g v : Nat) : State :=
  let s := (s.ilvWrite g (bitsOf v 10 8)).setRun g (v % 64)
  if v.testBit 16 then s.tileReset g else s

def State.tilWrite (s : State) (acc g a v : Nat) (x : RegSel) : State :=
  let i := x.ix.headD 0
  let b := x.row.base
  if a = R.TIL_CTL g then s.tilCtlWrite g v
  else if a = R.TIL_FAULT g then (if v.testBit 31 then s.faultClr g else s)
  else if a = R.TIL_ARSTAT g then
    let s := s.rowWrite a v x
    if v.testBit 31 then s.arClear g else s
  else if a = R.BNK_PWR g then
    s.each (List.range 32) fun s k => s.bankTarget g k (bitsOf v (2 * k + 1) (2 * k))
  else if a = R.BNK_DCTL g then
    (if v.testBit 0 then s.debugGo g (v.testBit 1) (bitsOf v 3 2) else s.rowWrite a v x)
  else if (a = R.BNK_DADDR g ∨ b = 0x3040) ∧ ¬ s.flag (R.BNK_DCTL g) F.BNK_DCTL_DONE then s
  else if a = R.TIL_CNTCTL g then
    let s := s.rowWrite a v x
    if v.testBit 31 then s.cntClear g else s
  else if a = R.TIL_PBASE g then s.pbaseWrite g v
  else if b = 0x88 then s.varWrite g i (v % 256) (bitsOf v 13 8) (v.testBit 31)
  else if a = R.TIL_YREQ g then s.yreqWrite g (v.testBit 0)
  else if b = 0x1008 then s.spcWrite g (engOf i) (v % 2 ^ 40)
  else if b = 0x1020 then s.dbaseWrite g (engOf i) v
  else if b = 0x2000 then s.aliasWrite g i v
  else if b = 0x2200 then s.arcWrite g i v
  else if a = R.BNK_MARCH g then
    let s := if v.testBit 3 then s.fset a F.BNK_MARCH_DONE 0 else s
    if v.testBit 0 then s.marchGo (accFn acc) g (v.testBit 1) else s.fset a F.BNK_MARCH_MODE (bitsOf v 1 1)
  else s.rowWrite a v x

/-- The cluster number of a die as an operand. -/
def toCDie (d : Nat) : CDie := ⟨d % 24, Nat.mod_lt _ (by decide)⟩

def State.synWrite (s : State) (d v : Nat) (x : RegSel) : State :=
  let i := x.ix.headD 0
  if x.row.base = 0 then s.grpWrite d i v
  else if x.row.base = 0x1000 then s.semWrite d i v
  else if x.row.base = 0x4000 then s.nodeWrite (.cluster (toCDie d) ⟨i % 8, Nat.mod_lt _ (by decide)⟩) (x.ix.getD 1 0) v
  else s.nodeWrite (.die (toCDie d)) i v

def State.stepWrite (s : State) (a v : Nat) (x : RegSel) : State :=
  let i := x.ix.headD 0
  if x.row.base = 0x80000 then s.nodeWrite .pkg i v
  else if x.row.base = 0 then (if s.flag (R.STEP_STAT i) F.STEP_STAT_PHASE then s else s.rowWrite a v x)
  else if x.row.base = 0x30 then ((s.rowWrite a v x).clampFld a F.STEP_CTO_ROWS 1 0xFFFF).clampFld a F.STEP_CTO_COPIES 1 0xFFFF
  else if x.row.base = 0x38 then (if v.testBit 31 then s.stepCntClear i else s)
  else s.rowWrite a v x

def State.fabWrite (s : State) (acc l a v : Nat) (x : RegSel) : State :=
  let i := x.ix.headD 0
  let b := x.row.base
  if b = 0 then s.fbCtlWrite l v
  else if b = 0x10008 then ((s.rowWrite a v x).clampFld a F.FBP_BOUND_US 2 500).clampFld a F.FBP_BOUND_ARETRY 1 100
  else if b = 0x10010 then (s.rowWrite a v x).clampFld a F.FBP_LREG_DEPTH 2 0xFFFF
  else if b = 0x50000 then s.fbRtWrite l i v
  else if b = 0x60000 then
    if x.half = 0 then s.stage acc (28 + l) (some (BitVec.ofNat 64 v))
    else
      let lo := s.lowerHalf acc (28 + l) (a - 8)
      let s := s.stage acc (28 + l) none
      (s.rowWrite (a - 8) lo { x with half := 0 }).rowWrite a v x
  else if b = 0x80000 then s.nodeWrite .fab i v
  else if b = 0x80008 then s.kidsWrite i v
  else s.rowWrite a v x

def State.bnetWrite (s : State) (vf : Bool) (d a v : Nat) (x : RegSel) : State :=
  let i := x.ix.headD 0
  if a = R.BNET_CTL d then
    let s := s.rowWrite a v x
    if v.testBit 8 then (s.netStart d (v % 16)).1 else s
  else if x.row.base = 0x10 then s.netVarWrite d i (v % 256) (bitsOf v 13 8) (v.testBit 31)
  else if a = R.BNET_RPDATA d then s.rpWrite d v
  else if a = R.BNET_FAULT d then (if v.testBit 31 then s.netFaultClr d else s)
  else if x.row.base = 0x1000 then (if vf then s else s.ocfgWrite d i (x.ix.getD 1 0) v)
  else s.rowWrite a v x

/-- RTE registers; a virtual function leaves PART as it stands. -/
def State.rteWrite (s : State) (vf : Bool) (d a v : Nat) (x : RegSel) : State :=
  if a = R.RTE_CFG d then s.rteCfg d (if vf then (fldPut F.RTE_CFG_PART (BitVec.ofNat 64 v) (s.rtePart d)).toNat else v)
  else if a = R.RTE_CFG2 d then s.rteCfg2 d v
  else if a = R.RTE_CNTCTL d then
    let s := s.rowWrite a v x
    if v.testBit 31 then s.rteCntClear d else s
  else s.rowWrite a v x

/-- A region table's register: the lower half waits in the staging register, the upper half applies both (R33, R344). -/
def State.tableWrite (s : State) (acc die a v : Nat) (x : RegSel) : State :=
  if x.half = 0 then s.stage acc die (some (BitVec.ofNat 64 v)) else s.rgnWrite acc die (a - 8) v

def State.memWrite (s : State) (acc m a v : Nat) (x : RegSel) : State :=
  if x.row.width = 128 then s.tableWrite acc (24 + m) a v x
  else if a = R.MEM_CTL m then (s.rowWrite a v x).clampFld a F.MEM_CTL_RETTHR 1 0xFF
  else if a = R.MEM_GUEST m then (s.rowWrite a v x).clampFld a F.MEM_GUEST_QUOTA (s.fget a F.MEM_GUEST_USED) (2 ^ 32 - 1)
  else if a = R.MV_CMD m then
    let s := s.rowWrite a v x
    if v.testBit 8 then s.mvGo m (v % 4) else s
  else if (a = R.MV_ADDR m ∨ a = R.MV_DEST m) ∧ s.flag (R.MV_CMD m) F.MV_CMD_BUSY then s
  else s.rowWrite a v x

def State.tqWrite (s : State) (vf : Bool) (a v : Nat) (x : RegSel) : State :=
  if x.row.base = 0 then
    if vf ∨ x.noQuota then s else (s.rowWrite a v x).clampFld a F.TQ_QUOTA_QUOTA (s.fget a F.TQ_QUOTA_USED) (2 ^ 32 - 1)
  else if x.row.base = 8 then (s.rowWrite a v x).clampFld a F.TQ_REG_DEPTH 2 0xFFFF
  else if x.row.base = 0x10 then (s.rowWrite a v x).clampFld a F.TQ_BOUND_US 2 2000
  else s.rowWrite a v x

/-- A ring's control word: BASE and LOG2N stand while the ring is enabled; enabling the ledger ring writes its held records (R404, R429). -/
def State.ringCtl (s : State) (p r v : Nat) : State :=
  let a := R.PT_RC p r
  let s := if v.testBit 9 then s.fset a F.PT_RC_ERR 0 else s
  let s := if s.flag a F.PT_RC_EN then s else s.fset a F.PT_RC_LOG2N (max 6 (min 16 (v % 32)))
  let s := s.fset a F.PT_RC_EN (bitsOf v 8 8)
  if r = 5 then s.ledgerDrain p 65536 else s

def State.ptWrite (s : State) (acc p a v : Nat) (x : RegSel) : State :=
  let i := x.ix.headD 0
  let b := x.row.base
  if b = 0x18 then ((s.rowWrite a v x).clampFld a F.PT_SERVE_ADMIT 1 0xFF).clampFld a F.PT_SERVE_PCHUNK 1 4096
  else if 0x20 ≤ b ∧ b < 0x40 then (if s.ptState p = 1 ∨ s.ptState p = 3 then s else s.rowWrite a v x)
  else if b = 0x40 then (s.rowWrite a v x).clampFld a F.PT_SLICE_QUANTUM 0 10000
  else if b = 0x80 then (if s.flag (R.PT_RC p i) F.PT_RC_EN then s else s.rowWrite a v x)
  else if b = 0x88 then s.ringCtl p i v
  else if b = 0x90 then (if i < 4 then s.prodWrite (accFn acc) p i v else s)
  else if b = 0x98 then (if i < 4 then s else s.consWrite (accFn acc) p i v)
  else s.rowWrite a v x

def State.pwrWrite (s : State) (a v : Nat) (x : RegSel) : State :=
  if a = R.PWR_CAP then s.capWrite false (bitsOf v 44 32) (bitsOf v 59 48)
  else if a = R.PWR_CTL then ((s.rowWrite a v x).clampFld a F.PWR_CTL_FTGT 16 72).clampFld a F.PWR_CTL_BRAMP 5 200
  else if a = R.PWR_CNTCLR then
    let s := if v.testBit 0 then s.pwrCntClr else s
    let s := if v.testBit 1 then s.pwrBaleClr else s
    if v.testBit 2 then s.droopClr else s
  else if a = R.PWR_OVRPTR then (if v.testBit 31 then s.ovrClear else s)
  else if a = R.PWR_THCFG then (s.rowWrite a v x).clampFld a F.PWR_THCFG_TJMAX 85 105
  else if x.row.base = 0x10000 then (s.rowWrite a v x).clampFld a F.PWR_ISL_FMAX 16 72
  else if x.row.base = 0x20000 then (if v.testBit 31 then s.tsClr (x.ix.headD 0) else s)
  else s.rowWrite a v x

def State.clkWrite (s : State) (a v : Nat) (x : RegSel) : State :=
  if a = R.CLK_DCFG then s.dcfgWrite (v % 256) (bitsOf v 9 8)
  else
    let s := if v.testBit 2 then s.fset a F.CLK_ISL_REF 0 else s
    let s := s.fset a F.CLK_ISL_USED (bitsOf v 1 1)
    if bitsOf v 0 0 = s.fget a F.CLK_ISL_ON then s else s.onWrite (x.ix.headD 0) (v.testBit 0)

def State.rstWrite (s : State) (a v : Nat) (x : RegSel) : State :=
  if a = R.RST_WDOG then
    let s := (s.rowWrite a v x).clampFld a F.RST_WDOG_MS 100 60000
    if v.testBit 31 then s.modRst fun y => { y with kickAt := s.now } else s
  else if a = R.RST_DIE then s.each ((List.range 31).filter fun d => v.testBit d) State.rstDie
  else s.rowWrite a v x

def State.dieWrite (s : State) (acc d a v : Nat) (x : RegSel) : State :=
  if x.row.width = 128 then s.tableWrite acc d a v x
  else if a = R.DIE_CTL d then
    let s := s.rowWrite a v x
    let s := if v.testBit 8 then s.pabort d (v % 16) else s
    if d < 24 ∧ bitsOf v 23 16 ≠ 0 then s.clusterRst d (bitsOf v 23 16) else s
  else if a = R.DIE_CNTCTL d then
    let s := s.rowWrite a v x
    if v.testBit 31 then s.dieCntClear d else s
  else s.rowWrite a v x

/-- HST_PORTMAP: only the bits of partitions that do not exist, and only with two ports (R530). -/
def State.portMap (s : State) (v : Nat) : State :=
  if ¬ s.rst.twoPorts then s
  else
    s.fset R.HST_PORTMAP F.HST_PORTMAP_PORT
      (((List.range 16).map fun p =>
        bit (if (s.part p).isSome then (s.fget R.HST_PORTMAP F.HST_PORTMAP_PORT).testBit p else v.testBit p) * 2 ^ p).foldl (· + ·) 0)

def State.stwWrite (s : State) (acc a v : Nat) : State :=
  if a = R.STW_LOC then (if (vfPart acc).isSome then s else s.stwLoc v)
  else if a = R.MB_DB then
    let m := State.mbDb (accFn acc)
    let s := if v.testBit 2 then s.fset m F.MB_DB_DONE 0 else s
    let s := if v.testBit 3 then s.fset m F.MB_DB_OVERRUN 0 else s
    if v.testBit 0 then s.mbGo (accFn acc) else s
  else if a = R.STW_FLOGPTR then (if v.testBit 31 then s.flogClear else s)
  else s

/-- SEC registers: only ZEROISED, the WREF flags and ZTHR take a write, and none from a virtual function (R495, R496). -/
def State.secWrite (s : State) (acc a v : Nat) (x : RegSel) : State := if (vfPart acc).isSome then s else s.rowWrite a v x

/-- A register written. -/
def State.regWrite (s : State) (acc a v : Nat) (x : RegSel) : State :=
  let vf := (vfPart acc).isSome
  match x.kind with
  | .stw => s.stwWrite acc a v
  | .wnw => s.wnwWrite x.idx a v x
  | .til => s.tilWrite acc x.idx a v x
  | .syn => s.synWrite x.idx v x
  | .step => s.stepWrite a v x
  | .fab => s.fabWrite acc x.idx a v x
  | .bnet => s.bnetWrite vf x.idx a v x
  | .gw => if x.row.base = 0 then s.qcfgWrite (accFn acc) (x.idx - 24) (x.ix.headD 0) v else s
  | .rte => s.rteWrite vf x.idx a v x
  | .mem => s.memWrite acc x.idx a v x
  | .ch => s
  | .tq => s.tqWrite vf a v x
  | .lnk => if a = R.LNK_INJ x.idx then s.lnkInjWrite x.idx v else s
  | .pt => s.ptWrite acc x.idx a v x
  | .pwr => s.pwrWrite a v x
  | .clk => s.clkWrite a v x
  | .sec => s.secWrite acc a v x
  | .rst => s.rstWrite a v x
  | .die => s.dieWrite acc x.idx a v x
  | .hst => if x.row.width = 128 then s.tableWrite acc 31 a v x else s.portMap v

/-- A write of the control space: whether it failed, and the state after it. MB_RSP and the logs are read-only. -/
def State.ctlWrite (s : State) (acc a n v : Nat) : Bool × State :=
  match s.ctlTarget acc a n with
  | .miss => (true, s.decodeMiss acc a)
  | .off => (true, s.offRefused (accDie acc))
  | .win w o => (false, if w = 0 ∧ o < 0x4000 then s.putMb (accFn acc) o (leBytes n v) else s)
  | .reg x => (false, s.regWrite acc a v x)

/-! ## Packets of the control network (R231 to R233) -/

/-- The die whose blocks hold an address. -/
def ctlDie (a : Nat) : Nat :=
  if a < 0x10000000 then 31
  else if a < 0x30000000 then (a - 0x10000000) / 0x1000000
  else if a < 0x38000000 then 24 + (a - 0x30000000) / 0x1000000
  else 28 + (a - 0x38000000) / 0x1000000

def State.setCtl (s : State) (l : List CtlHop) : State := { s with net := { s.net with ctl := l } }

/-- A packet handed to the network by a block of its source die, where it waits for a credit (R231). -/
def State.ctlSend (s : State) (x : CtlPkt) : State := s.setCtl (s.net.ctl ++ [⟨none, x⟩])

/-- The first standing packet equal to `x` taken off. -/
def State.ctlGone (s : State) (x : CtlPkt) : State := s.setCtl (s.net.ctl.eraseP fun e => decide (e.pkt = x))

/-- The first standing packet equal to `x` goes on to the router of die `d`. -/
def State.ctlEnter (s : State) (x : CtlPkt) (d : Nat) : State := (s.ctlGone x).setCtl ((s.ctlGone x).net.ctl ++ [⟨some d, x⟩])

/-- The accessor that a packet's source stands for: a block of a die other than the steward's, or the steward. -/
def pktAcc (src : Nat) : Nat := if src < 31 then 21 + src else 17

/-- The bytes a register access by packet takes: the width of the register or of its half. -/
def ctlWidth (a : Nat) : Nat :=
  match regAt a with
  | some x => min 64 x.row.width / 8
  | none => 8

/-- An answer goes back to the source, from the block that served it. -/
def CtlPkt.answer (x : CtlPkt) (type : Nat) (err : Bool) (l : List Byte) : CtlPkt :=
  ⟨type, x.src, x.dst, 0x7FF, x.tag, err, x.addr, l⟩

/-- A register read or written by packet. -/
def State.pktReg (s : State) (x : CtlPkt) (wr : Bool) : State :=
  let n := ctlWidth x.addr
  let t := if wr then 5 else 4
  if ctlDie x.addr ≠ x.dst then (s.decodeMiss (pktAcc x.src) x.addr).ctlSend (x.answer t true (if wr then [] else leBytes 8 0))
  else if wr then
    let r := s.ctlWrite (pktAcc x.src) x.addr n (ofLeBytes (x.payload.take n))
    r.2.ctlSend (x.answer 5 r.1 [])
  else
    let r := s.ctlRead (pktAcc x.src) x.addr n
    r.2.ctlSend (x.answer 4 r.1.2 (leBytes 8 r.1.1))

/-- A fetch of 64 bytes of Bay for a tile: a page away from Bay is asked for, and the request stands on at its die. -/
def State.pktFetch (s : State) (x : CtlPkt) : State :=
  let part := if x.src < 24 ∧ x.srcId < 64 then s.tilePart (x.src * 64 + x.srcId) else none
  let bad (s : State) : State := s.ctlSend (x.answer 6 true (List.replicate 64 0))
  match part with
  | none => bad s
  | some p =>
    let o := x.addr % 2 ^ 48 / 64 * 64
    match s.locate p o with
    | none => bad s
    | some u =>
      if u.rgn.kind ≠ 4 ∧ (u.ent.st = .yard ∨ u.ent.st = .cellar ∨ u.ent.st = .movein) then
        (s.askMoveIn p u .demand).ctlEnter x x.dst
      else
        let b := s.localBlock p o 64
        s.readThen p [(o, 64)] fun s => s.ctlSend (x.answer 6 b.2 b.1)

/-- A fault record's bytes 8 to 31 as a report. -/
def pktFault (l : List Byte) : Rpt :=
  let n (o k : Nat) : Nat := ofLeBytes ((l.drop o).take k)
  .fault (n 0 1) (n 1 1) (n 2 1) (if (n 3 1).testBit 7 then some (n 3 1 % 16) else none) (n 4 2) (n 6 1) (n 8 8) (n 16 4)

/-- What a packet does at its die. Read responses, acknowledgements and fetched data go to the block that waits for them, page data to its
mover (R316) and transit to its link die (R368), where their own commands take them. -/
def State.packetAt (s : State) (x : CtlPkt) : State :=
  match x.type with
  | 0 => s.pktReg x false
  | 1 => s.pktReg x true
  | 3 => s.pktFetch x
  | 7 => s.report (.count (s.rtePart (x.src % 24)) x.src (s.fget (R.RTE_STAT (x.src % 24)) F.RTE_STAT_POINT) x.tag x.payload)
  | 8 => s.report (pktFault x.payload)
  | 9 =>
    let o := ofLeBytes (x.payload.take 8)
    s.report (.hint (x.src * 64 + x.srcId % 64) (bitsOf o 3 0) (bitsOf o 15 4) (bitsOf o 27 16) (bitsOf o 29 28) s.now)
  | _ => s

/-- Packets of one channel at one place go in the order in which they stand: `x` is the first of them that `f` picks. -/
def CtlPkt.first (x : CtlPkt) (l : List CtlPkt) (f : CtlPkt → Bool) : Bool := decide (l.find? f = some x)

/-- A packet that a block of its source die holds enters the die's router: the block's oldest of the channel, against a credit. -/
def State.ctlAdmits (s : State) (x : CtlPkt) : Bool :=
  let c := ctlChan x.type
  x.first ((s.net.ctl.filter fun e => decide (e.hop = none)).map (·.pkt)) (fun y => decide (y.src = x.src ∧ ctlChan y.type = c)) &&
    s.ctlCredit x.src c

/-- A packet leaves the router of die `a` for that of `b`: its channel's turn, its own turn in the channel, behind the SYNC lane and within
the lanes' slots. -/
def State.ctlCrosses (s : State) (a b : Nat) (x : CtlPkt) : Bool :=
  let c := ctlChan x.type
  decide (s.ctlTurn a b = some c) && decide (s.ctlFront a b c = some x) && !s.syncWaits a b && s.laneOpen a b

/-- A packet at its destination is handed to its block: no earlier one of the channel and none of a channel before it waits there. -/
def State.ctlServed (s : State) (x : CtlPkt) : Bool :=
  let c := ctlChan x.type
  let here (k : Nat) : List CtlPkt := (s.ctlHeld x.dst k).filter fun y => decide (y.dst = x.dst)
  x.first (here c) (fun _ => true) && (List.range c).all fun k => (here k).isEmpty

/-- The way of a packet, hop by hop, as far as credits, order and precedence let it, in at most `n` moves. -/
def State.ctlRun (s : State) (x : CtlPkt) : Nat → State
  | 0 => s
  | n + 1 =>
    match (s.net.ctl.find? fun e => decide (e.pkt = x)).map (·.hop) with
    | none => s
    | some none => if s.ctlAdmits x then (s.ctlEnter x x.src).ctlRun x n else s
    | some (some a) =>
      if a = x.dst then (if s.ctlServed x then (s.ctlGone x).packetAt x else s)
      else
        let b := ctlNext a x.dst
        if s.ctlCrosses a b x then ((s.laneTake a b).ctlEnter x b).ctlRun x n else s

/-- CONTROL_PACKET: a packet that stands in the network goes on, or one is presented at its source die; without a credit it stays with its
sender and waits. One of an illegal TYPE is discarded at its first router and reported of that die (R231, R233). -/
def State.packet (s : State) (x : CtlPkt) : State :=
  if 12 ≤ x.type then s.plainRep 4 none (dieIsland x.src) x.addr x.type
  else if s.net.ctl.any fun e => decide (e.pkt = x) then s.ctlRun x 16
  else (s.ctlSend x).ctlRun x 16

end Sys2Proof.Machine
end

