-- ==== Sys2Proof/Machine/Cores.lean ====
section
/-! DEFINITION. The Bilha-C cores (R434 to R437): their registers and RAM, the control-space instructions, and the ordinary classes. -/

namespace Sys2Proof.Machine

/-! ## Cores and their RAM -/

def State.core (s : State) (c : Nat) : CoreSt := spGet (fun _ => CoreSt.idle) s.stw.cores c
def State.setCore (s : State) (c : Nat) (x : CoreSt) : State :=
  { s with stw := { s.stw with cores := spPut (fun _ => CoreSt.idle) s.stw.cores c x } }
def State.modCore (s : State) (c : Nat) (f : CoreSt → CoreSt) : State := s.setCore c (f (s.core c))

/-- A general register; g0 reads zero. -/
def State.greg (s : State) (c r : Nat) : Word32 := if r = 0 then 0 else spGet (fun _ => 0) (s.core c).regs r
/-- A general register written; g0 ignores writes. -/
def State.setGreg (s : State) (c r : Nat) (v : Word32) : State :=
  if r = 0 then s else s.modCore c fun x => { x with regs := spPut (fun _ => 0) x.regs r v }

/-- On to the next instruction. -/
def State.coreNext (s : State) (c : Nat) : State := s.modCore c fun x => { x with pc := x.pc + 4 }

/-- A branch by a signed number of words. -/
def State.coreJump (s : State) (c : Nat) (off : Word32) : State :=
  s.modCore c fun x => { x with pc := x.pc + BitVec.ofNat 32 Config.branchBase + off * 4 }

/-- An illegal instruction stops the core and is reported as a steward fault: DETAIL1 its address, DETAIL2 the core. -/
def State.coreIllegal (s : State) (c : Nat) : State :=
  let pc := (s.core c).pc.toNat
  (s.modCore c fun x => { x with stopped := true }).plainRep 10 none (if c < 4 then 1700 else dieIsland (c - 4)) pc c

/-- Where a byte of a core's RAM is held: cores 0 to 3 share the steward's; an address past the RAM lies in the window of R435. -/
def ramKey (c : Nat) (a : Word32) : Nat := (if c < 4 then 0 else c) * 2 ^ 32 + a.toNat
def State.ramBytes (s : State) (c : Nat) (a : Word32) (n : Nat) : List Byte := spGetN (fun _ => 0) s.stw.ram (ramKey c a) n
def State.putRam (s : State) (c : Nat) (a : Word32) (l : List Byte) : State :=
  { s with stw := { s.stw with ram := spPutL (fun _ => 0) s.stw.ram (ramKey c a) l } }

/-- An instruction of a core that runs. -/
def State.coreStep (s : State) (c : Nat) (f : State → State) : State := if (s.core c).stopped then s else f s

/-- g_B plus the signed immediate. -/
def State.coreAddr (s : State) (c b : Nat) (imm : BitVec 16) : Word32 := s.greg c b + imm.signExtend 32

/-! ## The control-space instructions (R436) -/

/-- CLW and CLD: `n` bytes; a failed access gives zero and sets CE. -/
def State.coreLoad (s : State) (c a b : Nat) (imm : BitVec 16) (n : Nat) : State :=
  s.coreStep c fun s =>
    let ad := (s.coreAddr c b imm).toNat
    if ad % n ≠ 0 ∨ (n = 8 ∧ a % 2 = 1) then s.coreIllegal c
    else
      let r := s.ctlRead (17 + c) ad n
      let s := r.2.setGreg c a (BitVec.ofNat 32 r.1.1)
      let s := if n = 8 then s.setGreg c (a + 1) (BitVec.ofNat 32 (r.1.1 / 2 ^ 32)) else s
      let s := if r.1.2 then s.modCore c fun x => { x with ce := true } else s
      s.coreNext c

/-- CSW and CSD. -/
def State.coreStore (s : State) (c a b : Nat) (imm : BitVec 16) (n : Nat) : State :=
  s.coreStep c fun s =>
    let ad := (s.coreAddr c b imm).toNat
    if ad % n ≠ 0 ∨ (n = 8 ∧ a % 2 = 1) then s.coreIllegal c
    else
      let v := (s.greg c a).toNat + (if n = 8 then (s.greg c (a + 1)).toNat * 2 ^ 32 else 0)
      (s.ctlWrite (17 + c) ad n v).2.coreNext c

/-- The packet that stands in RAM in the form of R232. -/
def ramPkt (l : List Byte) (body : List Byte) : CtlPkt :=
  let h := ofLeBytes (l.take 8)
  ⟨bitsOf h 3 0, bitsOf h 8 4, bitsOf h 13 9, bitsOf h 26 16, bitsOf h 39 32, bitsOf h 47 47 = 1, ofLeBytes (l.drop 8), body⟩

/-- CPK: only a command packet is sent, in the form of R232: a payload of at most 64 bytes, in multiples of 8. -/
def State.corePkt (s : State) (c b : Nat) (imm : BitVec 16) : State :=
  s.coreStep c fun s =>
    let a := s.coreAddr c b imm
    let l := s.ramBytes c a 16
    let len := bitsOf (ofLeBytes (l.take 8)) 46 40
    let x := ramPkt l (s.ramBytes c (a + 16) len)
    if a.toNat % 8 ≠ 0 ∨ x.type ≠ 2 ∨ 64 < len ∨ len % 8 ≠ 0 then s.coreIllegal c else (s.ctlSend x).coreNext c

/-- EVW: the lowest selected queue that holds an entry; where the entry stands in RAM is free. Without one the core waits. -/
def State.coreEvent (s : State) (c a b : Nat) : State :=
  s.coreStep c fun s =>
    match (List.range 8).find? fun q => decide (c < 4) && (s.greg c b).toNat.testBit q && !(s.evq q).isEmpty with
    | none => s
    | some q =>
      let f := s.fresh
      (f.2.setGreg c a (BitVec.ofNat 32 (q * 2 ^ 24 + f.1 % 2 ^ 24))).coreNext c

/-- TIM. -/
def State.coreTime (s : State) (c a : Nat) : State :=
  s.coreStep c fun s =>
    if a % 2 = 1 then s.coreIllegal c
    else ((s.setGreg c a (BitVec.ofNat 32 s.now)).setGreg c (a + 1) (BitVec.ofNat 32 (s.now / 2 ^ 32))).coreNext c

/-- BCE. -/
def State.coreBce (s : State) (c : Nat) (imm : BitVec 16) : State :=
  s.coreStep c fun s =>
    if (s.core c).ce then (s.modCore c fun x => { x with ce := false }).coreJump c (imm.signExtend 32) else s.coreNext c

/-! ## The ordinary instructions (R435) -/

/-- A result, or none where the manual states no result: a shift by 32 or more, a division by zero, the one quotient out of range. -/
def aluOp (op : AluOp) (x y : Word32) : Option Word32 :=
  let b (p : Bool) : Word32 := if p then 1 else 0
  match op with
  | .add => some (x + y)
  | .sub => some (x - y)
  | .and => some (x &&& y)
  | .or => some (x ||| y)
  | .xor => some (x ^^^ y)
  | .shl => if y.toNat < 32 then some (x <<< y.toNat) else none
  | .shr => if y.toNat < 32 then some (x >>> y.toNat) else none
  | .sar => if y.toNat < 32 then some (x.sshiftRight y.toNat) else none
  | .slt => some (b (x.slt y))
  | .sltu => some (b (x.ult y))
  | .mul => some (x * y)
  | .mulhu => some (BitVec.ofNat 32 (x.toNat * y.toNat / 2 ^ 32))
  | .div => if y = 0 ∨ (x.toInt = -(2 ^ 31) ∧ y.toInt = -1) then none else some (BitVec.ofInt 32 (x.toInt.tdiv y.toInt))
  | .rem => if y = 0 ∨ (x.toInt = -(2 ^ 31) ∧ y.toInt = -1) then none else some (BitVec.ofInt 32 (x.toInt.tmod y.toInt))

/-- A result written; one that the manual does not state is a free value. -/
def State.aluSet (s : State) (c a : Nat) (r : Option Word32) : State :=
  match r with
  | some v => (s.setGreg c a v).coreNext c
  | none =>
    let f := s.fresh
    (f.2.setGreg c a (BitVec.ofNat 32 f.1)).coreNext c

def brOp (op : BrOp) (x y : Word32) : Bool :=
  match op with
  | .eq => x == y
  | .ne => x != y
  | .lt => x.slt y
  | .ge => !x.slt y
  | .ltu => x.ult y
  | .geu => !x.ult y

/-- A loaded value of `n` bytes in a register. -/
def loadExt (n : Nat) (signed : Bool) (v : Nat) : Word32 :=
  if signed then BitVec.ofInt 32 (sext (8 * n) v) else BitVec.ofNat 32 v

def State.coreOp (s : State) (c : Nat) (op : BcOp) : State :=
  s.coreStep c fun s =>
    match op with
    | .alu op a b d => s.aluSet c a (aluOp op (s.greg c b) (s.greg c d))
    | .alui op a b imm => s.aluSet c a (aluOp op (s.greg c b) (imm.signExtend 32))
    | .load n sg a b imm =>
      let ad := s.coreAddr c b imm
      if n ∈ [1, 2, 4] ∧ ad.toNat % n = 0 then (s.setGreg c a (loadExt n sg (ofLeBytes (s.ramBytes c ad n)))).coreNext c
      else s.coreIllegal c
    | .store n a b imm =>
      let ad := s.coreAddr c b imm
      if n ∈ [1, 2, 4] ∧ ad.toNat % n = 0 then (s.putRam c ad (leBytes n (s.greg c a).toNat)).coreNext c
      else s.coreIllegal c
    | .branch op a b imm => if brOp op (s.greg c a) (s.greg c b) then s.coreJump c (imm.signExtend 32) else s.coreNext c
    | .jump off => s.coreJump c (off.signExtend 32)
    | .jumpLink off => (s.setGreg c 31 ((s.core c).pc + 4)).coreJump c (off.signExtend 32)
    | .jumpReg b => s.modCore c fun x => { x with pc := s.greg c b }
    | .illegal _ => s.coreIllegal c

end Sys2Proof.Machine
end

