-- ==== Sys2Proof/Machine/NetRows.lean ====
section
/-! DEFINITION. The meanings of the rows of chapters 1, 6 and 7 that need no later chapter. -/

namespace Sys2Proof.Machine

/-! ## Chapter 1 -/

/-- R21, R22 -/
def execStwLocWrite (value : Word32) (s : State) : Host.Outcome State Fault Refusal :=
  onLive s fun s => s.stwLoc value.toNat

/-- R17 -/
def execBridgeRetrainTimeout (m : Fin 230) (s : State) : Host.Outcome State Fault Refusal :=
  onLive s fun s => s.bridgeLost m

/-- R17 -/
def execAdapterRetry (m : Fin 230) (s : State) : Host.Outcome State Fault Refusal :=
  onLive s fun s => s.adapterRetry m

/-- R26 to R28 -/
def execIslandHandshake (src : Island) (dst : Island) (s : State) : Host.Outcome State Fault Refusal :=
  onLive s fun s => s.handshake src dst

/-! ## Chapter 6 -/

/-- R219 to R221, R224, R225 -/
def execRouteMove (d : Die) (r : Fin 8) (o : Fin 17) (s : State) : Host.Outcome State Fault Refusal :=
  onLive s fun s => s.routeMove d r o

/-- R217, R218 -/
def execRouteLoop (d : Die) (r : Fin 8) (o : Fin 17) (s : State) : Host.Outcome State Fault Refusal :=
  onLive s fun s => s.routeLoop d r o

/-- R136, R218 -/
def execRouteBrv (d : Die) (r : Fin 8) (o : Fin 17) (s : State) : Host.Outcome State Fault Refusal :=
  onLive s fun s => s.routeBrv d r o

/-- R217 -/
def execRouteJump (d : Die) (r : Fin 8) (o : Fin 17) (s : State) : Host.Outcome State Fault Refusal :=
  onLive s fun s => s.routeJump d r o

/-- R218 -/
def execRouteHalt (d : Die) (r : Fin 8) (o : Fin 17) (s : State) : Host.Outcome State Fault Refusal :=
  onLive s fun s => s.routeHalt d r o

/-- R223, R226 -/
def execRoutestall (d : Die) (r : Fin 8) (o : Fin 17) (s : State) : Host.Outcome State Fault Refusal :=
  onLive s fun s => s.routeStall d r o

/-- R222, R235 -/
def execBnetStart (d : Die) (p : Part) (s : State) : Host.Outcome State Fault Refusal :=
  onLive s fun s => (s.netStartFor d p).1

/-- R218, R235 -/
def execBnetVarWrite (d : Die) (j : Fin 4) (point : BitVec 8) (variant : BitVec 6) (valid : Bool) (s : State) :
    Host.Outcome State Fault Refusal :=
  onLive s fun s => s.netVarWrite d j point.toNat variant.toNat valid

/-- R235 -/
def execBnetRpdataWrite (d : Die) (value : Word64) (s : State) : Host.Outcome State Fault Refusal :=
  onLive s fun s => s.rpWrite d value.toNat

/-- R223 -/
def execBnetFaultClr (d : Die) (s : State) : Host.Outcome State Fault Refusal :=
  onLive s fun s => s.netFaultClr d

/-- R227, R236 -/
def execGwQcfgWrite (fn : Fun) (d : Fin 8) (q : Fin 32) (value : Word64) (s : State) : Host.Outcome State Fault Refusal :=
  onLive s fun s => s.qcfgWrite fn d q value.toNat

/-- The oldest message between two nodes, taken off the network. -/
def takeSync (src dst : Nat) : List SyncMsg → Option (SyncMsg × List SyncMsg)
  | [] => none
  | m :: r =>
    if m.src = src ∧ m.dst = dst then some (m, r)
    else (takeSync src dst r).map fun x => (x.1, m :: x.2)

/-- A message carried over every bridge of its way, or held where one is out of service or has no slot for it. -/
def State.syncCross (s : State) (src dst : Nat) (x : SyncMsg × List SyncMsg) : State :=
  let es := syncEdges src dst
  if es.all fun e => s.laneOpen e.1 e.2 then
    let s := s.each es fun s e => s.laneTake e.1 e.2
    { s with net := { s.net with sync := x.2 } }.syncDeliver x.1.body
  else s

/-- R16, R17, R234: the oldest message between the two dies is delivered, over bridges whose lanes are open -/
def execSyncMessage (src : Die) (dst : Die) (s : State) : Host.Outcome State Fault Refusal :=
  onLive s fun s =>
    match takeSync src dst s.net.sync with
    | some x => s.syncCross src dst x
    | none => s

/-- R205 -/
def execSyncQuota (fn : Fun) (p : Part) (dies : BitVec 24) (groups : Nat) (s : State) : Host.Outcome State Fault Refusal :=
  mbRow s fn 0x0500 (cmdSyncQuota fn p dies.toNat groups)

/-- R236 -/
def execRoutePorts (fn : Fun) (p : Part) (d : Die) (outs : List (Nat × Nat)) (queues : List (Nat × Nat)) (s : State) :
    Host.Outcome State Fault Refusal :=
  mbRow s fn 0x0600 (cmdRoutePorts fn p d outs queues)

/-- R236, R237 -/
def execRouteLoad (fn : Fun) (p : Part) (d : Die) (addr : Word64) (s : State) : Host.Outcome State Fault Refusal :=
  mbRow s fn 0x0601 (cmdRouteLoad fn p d addr.toNat)

/-- R222, R236 -/
def execRouteStart (fn : Fun) (p : Part) (dies : Word32) (s : State) : Host.Outcome State Fault Refusal :=
  mbRow s fn 0x0602 (cmdRouteStart fn p dies.toNat)

/-- R225, R236 -/
def execNetStatus (fn : Fun) (p : Part) (s : State) : Host.Outcome State Fault Refusal :=
  mbRow s fn 0x0603 (cmdNetStatus fn p)

/-- R236, R238 -/
def execNetStats (fn : Fun) (p : Part) (clr : Bool) (s : State) : Host.Outcome State Fault Refusal :=
  mbRow s fn 0x0604 (cmdNetStats fn p clr)

/-- R238, R347, R398 -/
def execDieCntctlClr (d : Die) (s : State) : Host.Outcome State Fault Refusal :=
  onLive s fun s => s.dieCntClear d

/-! ## Chapter 7 -/

/-- R254 -/
def execLeFetchEntry (g : Tile) (s : State) : Host.Outcome State Fault Refusal :=
  onLive s fun s => s.leFetch g

/-- R255, R259, R265 -/
def execMeTStrip (g : Tile) (s : State) : Host.Outcome State Fault Refusal :=
  onLive s fun s => s.meStrip g 0

/-- R255, R259, R260 -/
def execMeSStrip (g : Tile) (s : State) : Host.Outcome State Fault Refusal :=
  onLive s fun s => s.meStrip g 1

/-- R255, R259, R263 -/
def execMeOStrip (g : Tile) (s : State) : Host.Outcome State Fault Refusal :=
  onLive s fun s => s.meStrip g 2

/-- R259, R265 -/
def execVeQStep (g : Tile) (s : State) : Host.Outcome State Fault Refusal :=
  onLive s fun s => s.veStep g 0

/-- R259, R261, R262 -/
def execVeXStep (g : Tile) (s : State) : Host.Outcome State Fault Refusal :=
  onLive s fun s => s.veStep g 1

/-- R259, R264 -/
def execVeFStep (g : Tile) (s : State) : Host.Outcome State Fault Refusal :=
  onLive s fun s => s.veStep g 2

/-- KV_LAYOUT: `kf` is a format code, `hw` the head width in elements. -/
def cmdKvLayout (kf hw blk nslot nrb : Nat) (s : State) : State × Reply :=
  let f := fmtOf kf
  s.cmd [badAt 0 (decide (3 < kf) || !(decide (f = .s4) || decide (f = .s8))), badAt 1 (decide (hw ≠ 60 ∧ hw ≠ 120)),
    badAt 4 (decide (nslot = 0 ∨ 15 < nslot)), badAt 8 (decide (65536 < nrb)), refuse 1 (!blkOk f hw blk)] fun s =>
    (s, .ok (lay ([(4, hshOf f hw), (4, ppbOf f hw), (4, npOf blk), (4, slotSize f hw blk), (4, 12)] ++
      (List.zip (workSizes hw blk nrb) (List.range 12)).flatMap fun x => [(4, x.1), (4, workOff hw blk nrb x.2)])))

/-- R239, R251, R253, R270 -/
def execKvLayout (fn : Fun) (kf : Nat) (hw : Nat) (blk : Nat) (nslot : Nat) (nrb : Nat) (s : State) :
    Host.Outcome State Fault Refusal :=
  mbRow s fn 0x0700 (cmdKvLayout kf hw blk nslot nrb)

/-- WALK_CHECK: pointers of the table's entries are followed within its copy in Bay, relative to LTAB (log entry 15). -/
def cmdWalkCheck (fn p daddr taddr : Nat) (s : State) : State × Reply :=
  let d : Desc := ⟨2 ^ 22, s.locNum p (daddr % 2 ^ 48) 32⟩
  let g := wgeo (BitVec.ofNat 256 d.w)
  let num (a n : Nat) : Nat := if g.ltab ≤ a then s.locNum p (taddr % 2 ^ 48 + (a - g.ltab)) n else 0
  s.cmdRead [badAt 8 (decide (daddr % 32 ≠ 0)), badAt 16 (decide (taddr % 32 ≠ 0)), ownPart fn p] p (daddr % 2 ^ 48) 32 [] fun s =>
  s.cmdRead [] p (taddr % 2 ^ 48) (32 * g.nent) [] fun s =>
    match walkBad d (g.lreads num) with
    | none => (s, .ok (lay [(2, 0xFFFF), (1, 0), (1, 0)]))
    | some b =>
      let i := if b.addr = d.addr then 0xFFFE else (b.addr - g.ltab) / 32
      (s, .ok (lay [(2, i), (1, b.field), (1, b.cause)]))

/-- R244, R252, R270 -/
def execWalkCheck (fn : Fun) (p : Part) (daddr : Word64) (taddr : Word64) (s : State) : Host.Outcome State Fault Refusal :=
  mbRow s fn 0x0701 (cmdWalkCheck fn p daddr.toNat taddr.toNat)

def cmdAttnStats (fn p : Nat) (clr : Bool) (s : State) : State × Reply :=
  s.cmd [ownPart fn p] fun s =>
    let l := s.tilesOf p
    let c0 := l.map R.AW_CNT0
    let c1 := l.map R.AW_CNT1
    let c2 := l.map R.AW_CNT2
    let mx := (l.map fun g => s.fget (R.AW_CNT3 g) F.AW_CNT3_RSMAX).foldl max 0
    let out := lay [(8, s.sumFld c0 F.AW_CNT0_BLOCKS), (8, s.sumFld c0 F.AW_CNT0_SEQS), (8, s.sumFld c1 F.AW_CNT1_RINGWAIT),
      (8, s.sumFld c1 F.AW_CNT1_PGFAIL), (8, s.sumFld c1 F.AW_CNT1_GSKIP), (8, s.sumFld c2 F.AW_CNT2_EMPTYROW),
      (8, s.sumFld c2 F.AW_CNT2_RESCALE), (8, mx)]
    let s := if clr then (s.each (c0 ++ c1 ++ c2) fun s a => s.wr a 0).each l fun s g => s.fset (R.AW_CNT3 g) F.AW_CNT3_RSMAX 0 else s
    (s, .ok out)

/-- R270, R274 -/
def execAttnStats (fn : Fun) (p : Part) (clr : Bool) (s : State) : Host.Outcome State Fault Refusal :=
  mbRow s fn 0x0702 (cmdAttnStats fn p clr)

end Sys2Proof.Machine
end

