-- ==== Sys2Proof/Machine/Mailbox.lean ====
section
/-! DEFINITION. A command as it stands in MB_CMD: its header (R439), its parameters (R440), and its taking up (R441, R442). -/

namespace Sys2Proof.Machine

/-- What reading parameters has found: the offset reached, and the first fault among values and zero bytes. -/
structure PCur where
  at_ : Nat
  fault : Option Nat

/-- A reader of parameters: it fails with the byte offset of a fault after which nothing further can be placed. -/
abbrev Prs := ReaderT (List Byte) (StateT PCur (Except Nat))

/-- A fault at an offset of the parameters. -/
def pFault (o : Nat) : Prs Unit := modify fun c => if c.fault.isSome then c else { c with fault := some (16 + o) }

/-- The next `n` bytes; LEN, at byte 8 of the command, is at fault where they are not there. -/
def pBytes (n : Nat) : Prs (List Byte) := do
  let l ← read
  let c ← get
  if l.length < c.at_ + n then throw 8
  set { c with at_ := c.at_ + n }
  pure ((l.drop c.at_).take n)

/-- Zero padding up to a multiple of `n`. -/
def pPad (n : Nat) : Prs Unit := do
  let c ← get
  let l ← pBytes (alignUp c.at_ n - c.at_)
  match l.findIdx? fun b => b != 0 with
  | some i => pFault (c.at_ + i)
  | none => pure ()

/-- A number of `n` bytes within `[lo, hi]`. -/
def pNum (n lo hi : Nat) : Prs Nat := do
  pPad n
  let c ← get
  let v := ofLeBytes (← pBytes n)
  if v < lo ∨ hi < v then pFault c.at_
  pure v

/-- A multiple of `k` below 2^48, in 8 bytes. -/
def pAddr (k : Nat) : Prs Nat := do
  pPad 8
  let c ← get
  let v := ofLeBytes (← pBytes 8)
  if v % k ≠ 0 ∨ 2 ^ 48 ≤ v then pFault c.at_
  pure v

def pFlag : Prs Bool := return (← pNum 1 0 1) = 1
def pPart : Prs Nat := pNum 1 0 15
def pTile : Prs Nat := pNum 2 0 1535

/-- `k` entries of a list. -/
def pTimes {α : Type} (f : Prs α) : Nat → Prs (List α)
  | 0 => pure []
  | k + 1 => do
    let x ← f
    return x :: (← pTimes f k)

/-- A list: its 4-byte count, then its entries. -/
def pList {α : Type} (f : Prs α) : Prs (List α) := do
  let k ← pNum 4 0 16364
  pTimes f k

/-- A tile set. -/
def pTiles : Prs TileSet := do
  let c ← get
  match ← pNum 1 0 255 with
  | 0 => pure .all
  | 1 => return .clusters (← pBytes 24)
  | 2 => return .one (← pTile)
  | _ => throw (16 + c.at_)

/-- The frame of a session command; its MAC is the last 16 bytes. -/
def pSes {α : Type} (f : Prs α) : Prs (SesAuth × α) := do
  let sid ← pNum 1 0 3
  let ctr ← pNum 4 0 (2 ^ 32 - 1)
  let x ← f
  let mac ← pBytes 16
  return (⟨sid, ctr, mac⟩, x)

/-- A command that may come without a session: `n` bytes then. -/
def pOptSes {α : Type} (n : Nat) (f : Prs α) : Prs (Option SesAuth × α) := do
  let l ← read
  if l.length = n then return (none, ← f)
  else
    let x ← pSes f
    return (some x.1, x.2)

abbrev MbFun := State → State × Reply

/-! ## The parameters of each command -/

def mbTile (fn code : Nat) : Option (Prs MbFun) :=
  match code with
  | 0x0001 => some (pure cmdFwInfo)
  | 0x0100 => some (return cmdPkgLocate fn (← pNum 1 0 127))
  | 0x0210 => some do
    let p ← pPart
    return cmdArithSeed fn p (← pNum 8 0 (2 ^ 64 - 1))
  | 0x0211 => some do
    let r ← pNum 1 0 16
    let a ← pFlag
    return cmdWinnowSet fn r a (← pFlag)
  | 0x0212 => some do
    let p ← pPart
    return cmdArithStats fn p (← pFlag)
  | 0x0300 => some do
    let p ← pPart
    let t ← pTiles
    let e ← pNum 1 0 63
    return cmdTileRun fn p t e (← pFlag)
  | 0x0301 => some (return cmdTileStatus fn (← pPart))
  | 0x0302 => some do
    let p ← pPart
    let t ← pTiles
    let b ← pNum 4 0 (2 ^ 32 - 1)
    let c ← get
    match ← pNum 1 0 3 with
    | 0 => return cmdLoftPower fn p t b .off
    | 1 => return cmdLoftPower fn p t b .ret
    | 3 => return cmdLoftPower fn p t b .on
    | _ =>
      pFault c.at_
      return cmdLoftPower fn p t b .off
  | 0x0303 => some do
    let g ← pTile
    let a ← pNum 4 0 (2 ^ 22 - 1)
    return cmdLoftRead fn g a (← pNum 2 1 4096)
  | 0x0304 => some do
    let g ← pTile
    let a ← pNum 4 0 (2 ^ 22 - 1)
    let d ← pList (pBytes 1)
    return cmdLoftWrite fn g a d.flatten (← pList pFlag)
  | 0x0305 => some do
    let p ← pPart
    return cmdTileStats fn p (← pFlag)
  | 0x0306 => some do
    let p ← pPart
    return cmdTileReset fn p (← pTiles)
  | 0x0307 => some do
    let p ← pPart
    let t ← pTiles
    return cmdTileConfig fn p t (← pNum 1 0 5)
  | 0x0400 => some do
    let p ← pPart
    let a ← pAddr 64
    return cmdProgLoad fn p a (← pTiles)
  | 0x0401 => some do
    let p ← pPart
    let t ← pTiles
    let k ← pNum 1 0 15
    return cmdProgStart fn p t k (← pFlag)
  | 0x0402 => some (return cmdProgWhere fn (← pTile))
  | _ => none

def mbSync (fn code : Nat) : Option (Prs MbFun) :=
  match code with
  | 0x0500 => some do
    let p ← pPart
    let d ← pNum 4 0 (2 ^ 24 - 1)
    return cmdSyncQuota fn p d (← pNum 1 0 64)
  | 0x0501 => some do
    let p ← pPart
    let g ← pTile
    let a ← pNum 1 0 62
    let t ← pNum 1 0 3
    let i ← pNum 2 0 0xFFFF
    let c ← pNum 2 0 0xFFFF
    let q ← pNum 2 0 0xFFFF
    return cmdSyncMap fn p g a t i c q (← pNum 1 0 1)
  | 0x0502 => some do
    let p ← pPart
    let ch ← pNum 1 0 63
    let t ← pTiles
    let sc ← pNum 1 0 3
    return cmdSyncChannel fn p ch t sc (← pFlag)
  | 0x0503 => some do
    let p ← pPart
    let t ← pTiles
    let j ← pNum 1 1 3
    return cmdSyncTimeout fn p t j (← pNum 4 0 (2 ^ 32 - 1))
  | 0x0504 => some do
    let p ← pPart
    let g ← pTile
    let n ← pNum 1 0 63
    return cmdSyncRearm fn p g n (← pNum 2 0 0xFFFF)
  | 0x0505 => some do
    let p ← pPart
    return cmdSyncStatus fn p (← pFlag)
  | 0x0600 => some do
    let p ← pPart
    let d ← pNum 1 0 31
    let o ← pList (pNum 2 0 0xFFFF)
    let q ← pNum 4 0 (2 ^ 32 - 1)
    let c ← get
    let u ← pList (pNum 2 0 0xFFFF)
    let qs := (List.range 32).filter fun i => q.testBit i
    if u.length ≠ qs.length then pFault (alignUp c.at_ 4)
    return cmdRoutePorts fn p d (o.map fun x => (x / 256, x % 256)) (List.zip qs u)
  | 0x0601 => some do
    let p ← pPart
    let d ← pNum 1 0 31
    return cmdRouteLoad fn p d (← pAddr 64)
  | 0x0602 => some do
    let p ← pPart
    return cmdRouteStart fn p (← pNum 4 0 (2 ^ 32 - 1))
  | 0x0603 => some (return cmdNetStatus fn (← pPart))
  | 0x0604 => some do
    let p ← pPart
    return cmdNetStats fn p (← pFlag)
  | 0x0700 => some do
    let k ← pNum 1 0 3
    let h ← pNum 1 0 120
    let b ← pNum 2 0 0xFFFF
    let n ← pNum 1 1 15
    return cmdKvLayout k h b n (← pNum 4 0 65536)
  | 0x0701 => some do
    let p ← pPart
    let d ← pAddr 32
    return cmdWalkCheck fn p d (← pAddr 32)
  | 0x0702 => some do
    let p ← pPart
    return cmdAttnStats fn p (← pFlag)
  | 0x0800 => some do
    let p ← pPart
    return cmdPlanLoad fn p (← pAddr 64)
  | 0x0801 => some do
    let p ← pPart
    let d ← pNum 4 0 (2 ^ 24 - 1)
    let k ← pNum 1 1 16
    let n ← pNum 2 1 4096
    let h ← pNum 2 1 276
    let g ← pNum 1 0 3
    return cmdRouteConfig fn p d k n h g (← pNum 2 0 0xFFFF)
  | 0x0802 => some do
    let p ← pPart
    return cmdRouteStats fn p (← pFlag)
  | 0x0803 => some (return cmdStepStatus fn (← pPart))
  | 0x0804 => some do
    let p ← pPart
    let a ← pAddr 64
    return cmdStepSpillbuf fn p a (← pNum 4 0 (2 ^ 32 - 1))
  | _ => none

def mbMem (fn code : Nat) : Option (Prs MbFun) :=
  match code with
  | 0x0900 => some do
    let p ← pPart
    let b ← pNum 8 0 (2 ^ 48 - 1)
    let z ← pNum 8 0 (2 ^ 48)
    let k ← pNum 1 1 4
    let h ← pNum 1 0 5
    let e ← pFlag
    return cmdMemRegion fn p b z k h e (← pFlag)
  | 0x0901 => some do
    let p ← pPart
    return cmdMemFree fn p (← pNum 8 0 (2 ^ 48 - 1))
  | 0x0902 => some do
    let p ← pPart
    let t ← pNum 1 1 3
    return cmdMemQuota fn p t (← pList (pNum 4 0 (2 ^ 32 - 1)))
  | 0x0903 => some do
    let p ← pPart
    let t ← pNum 1 1 3
    let r ← pNum 2 0 0xFFFF
    let d ← pNum 2 0 0xFFFF
    return cmdMemRegulate fn p t r d (← pFlag)
  | 0x0904 => some do
    let p ← pPart
    let b ← pNum 2 2 2000
    return cmdMemBound fn p b (← pNum 2 2 2000)
  | 0x0905 => some do
    let p ← pPart
    let a ← pNum 8 0 (2 ^ 48 - 1)
    let n ← pNum 4 0 (2 ^ 32 - 1)
    let t ← pNum 1 1 3
    let k ← pNum 2 0 4095
    return cmdMemMove fn p a n t k (← pList (pNum 8 0 (2 ^ 64 - 1)))
  | 0x0906 => some (return cmdMemQuery fn (← pNum 8 0 (2 ^ 48 - 1)))
  | 0x0907 => some do
    let p ← pPart
    let w ← pNum 1 0 16
    return cmdStreamSet fn p w (← pFlag)
  | 0x0908 => some do
    let p ← pPart
    return cmdMemStats fn p (← pFlag)
  | 0x0909 => some do
    let m ← pNum 1 0 3
    if ← pFlag then return cmdMemRetired fn m (some (← pList (pNum 4 0 (2 ^ 32 - 1)))) else return cmdMemRetired fn m none
  | 0x090A => some (pure cmdMemChannels)
  | 0x0A00 => some (return cmdFabMap fn (← pAddr 64))
  | 0x0A01 => some (pure cmdFabStatus)
  | 0x0A02 => some do
    let m ← pFlag
    return cmdFabMode fn m (← pFlag)
  | 0x0A03 => some do
    let p ← pPart
    return cmdFabJob fn p (← pNum 1 0 255)
  | 0x0A04 => some do
    let p ← pPart
    let w ← pNum 1 0 15
    let lo ← pNum 2 0 4095
    let hi ← pNum 2 0 4095
    let b ← pNum 8 0 (2 ^ 48 - 1)
    let z ← pNum 8 0 (2 ^ 48 - 1)
    let r ← pFlag
    let wr ← pFlag
    let a ← pFlag
    let c ← pFlag
    return cmdFabWindow fn p w lo hi b z (bit r + 2 * bit wr + 4 * bit a + 8 * bit c) (← pFlag)
  | 0x0A05 => some do
    let p ← pPart
    let u ← pNum 2 2 500
    return cmdFabBound fn p u (← pNum 1 1 100)
  | 0x0A06 => some do
    let p ← pPart
    let r ← pNum 2 0 0xFFFF
    let d ← pNum 2 0 0xFFFF
    return cmdFabRegulate fn p r d (← pFlag)
  | 0x0A07 => some do
    let k ← pNum 1 0 35
    return cmdFabLink fn k (← pNum 1 0 2)
  | 0x0A08 => some (return cmdFabRejoin fn (← pNum 2 0 4095))
  | 0x0A09 => some do
    let k ← pNum 1 0 35
    let m ← pNum 1 0 3
    let r ← pNum 1 0 15
    return cmdFabInject fn k m r (← pNum 1 1 64)
  | 0x0A0A => some do
    let p ← pPart
    return cmdFabStats fn p (← pFlag)
  | _ => none

/-- One ring of PART_RINGS: its base, LOG2N, on or off; the six rings stand in their order. -/
def pRing (r : Fin 6) : Prs RingSet := do
  let b ← pNum 8 0 (2 ^ 64 - 1)
  let n ← pNum 1 6 16
  return ⟨r, b, n, ← pFlag⟩

def mbServe (fn code : Nat) : Option (Prs MbFun) :=
  match code with
  | 0x0B00 => some do
    let p ← pPart
    return cmdPartCreate fn p (← pBytes 24)
  | 0x0B01 => some (return cmdPartDestroy fn (← pPart))
  | 0x0B02 => some do
    let p ← pPart
    let a ← pRing 0
    let b ← pRing 1
    let c ← pRing 2
    let d ← pRing 3
    let e ← pRing 4
    return cmdPartRings fn p [a, b, c, d, e, ← pRing 5]
  | 0x0B03 => some do
    let p ← pPart
    let u ← pFlag
    let a ← pNum 1 0 255
    let c ← pNum 2 1 4096
    let l ← pNum 1 0 63
    let n ← pFlag
    let i ← pAddr 65536
    let v ← pAddr 65536
    return cmdPartServe fn p u a c l n i v (← pAddr 65536)
  | 0x0B04 => some do
    let p ← pPart
    let i ← pNum 1 0 63
    let a ← pNum 8 0 (2 ^ 48 - 1)
    return cmdAdapterPut fn p i a (← pNum 4 0 (2 ^ 32 - 1))
  | 0x0B05 => some do
    let p ← pPart
    return cmdAdapterDrop fn p (← pNum 1 0 63)
  | 0x0B06 => some do
    let p ← pPart
    return cmdWeightDir fn p (← pAddr 65536)
  | 0x0B07 => some do
    let p ← pPart
    let g ← pNum 1 0 15
    let q ← pNum 2 0 10000
    return cmdSliceSet fn p g q (← pNum 1 0 15)
  | 0x0B08 => some do
    let p ← pPart
    return cmdServeStats fn p (← pFlag)
  | 0x0C00 => some (return cmdPowerStatus fn (← pFlag))
  | 0x0C01 => some do
    let w ← pNum 2 0 0xFFFF
    return cmdPowerCap fn w (← pNum 2 0 4095)
  | 0x0C02 => some do
    let p ← pPart
    return cmdPowerTarget fn p (← pNum 1 16 72)
  | 0x0C03 => some do
    let b ← pFlag
    return cmdBallastSet fn b (← pNum 2 50 2000)
  | 0x0C04 => some (return cmdThermalStatus (← pFlag))
  | 0x0C05 => some (pure cmdAgeLog)
  | 0x0C06 => some (return cmdOverrunLog (← pFlag))
  | 0x0C07 => some do
    let i ← pNum 2 0 1700
    return cmdIslandPower fn i (← pFlag)
  | 0x0C08 => some do
    let m ← pNum 1 0 255
    return cmdDroopSet fn m (← pNum 1 0 3)
  | 0x0C09 => some (return cmdHintConfig fn (← pNum 1 0 255))
  | _ => none

/-- SEC_SELFTEST: which of the steward's tests fails, if one does, is the hardware's. -/
def selftestRun (fn : Nat) : MbFun := fun s =>
  let f := s.fresh
  cmdSecSelftest fn ([0, 3, 4, 7].getD (f.1 % 4) 0) f.2

def mbSec (fn code : Nat) : Option (Prs MbFun) :=
  match code with
  | 0x0D00 => some (pure cmdSecStatus)
  | 0x0D01 => some (pure (selftestRun fn))
  | 0x0D02 => some (pure cmdSecIdentity)
  | 0x0D03 => some do
    let n ← pBytes 32
    return cmdSecAttest n (← pNum 2 0 0xFFFF)
  | 0x0D04 => some do
    let l ← read
    let r ← pNum 1 0 255
    let k ← pBytes (l.length - 65)
    return cmdSecOpen fn r k (← pBytes 64)
  | 0x0D05 => some do
    let i ← pNum 1 0 3
    return cmdSecConfirm fn i (← pBytes 32)
  | 0x0D06 => some do
    let x ← pSes (pPad 8)
    return cmdSecClose fn x.1
  | 0x0D07 => some do
    let x ← pSes do
      let p ← pPart
      let k ← pNum 4 0 (2 ^ 32 - 1)
      return (p, k, ← pBytes 48)
    return cmdKeyImport fn x.1 x.2.1 x.2.2.1 x.2.2.2
  | 0x0D08 => some do
    let x ← pSes do
      let p ← pPart
      return (p, ← pNum 4 0 (2 ^ 32 - 1))
    return cmdKeyDrop fn x.1 x.2.1 x.2.2
  | 0x0D09 => some do
    let x ← pSes (pBytes 48)
    return cmdDomainKey fn x.1 x.2
  | 0x0D0A => some do
    let x ← pSes (pNum 2 0 0xFFFF)
    return cmdDomainId fn x.1 x.2
  | 0x0D0B => some do
    let x ← pSes (pNum 1 0 255)
    return cmdSvnSet fn x.1 x.2
  | 0x0D0C => some do
    let x ← pOptSes 64 (pBytes 64)
    return cmdOwnerRotate fn x.1 x.2
  | 0x0D0D => some do
    let x ← pSes (pNum 1 0 3)
    return cmdLifecycle fn x.1 x.2
  | 0x0D0E => some do
    let x ← pSes do
      let d ← pNum 1 0 31
      return (d, ← pList (pBytes 1))
    return cmdRepairCommit fn x.1 x.2.1 x.2.2.flatten
  | 0x0D0F => some do
    let x ← pOptSes 1 (pNum 1 0 3)
    return cmdDebugGrant fn x.1 x.2
  | 0x0D10 => some do
    let x ← pOptSes 0 (pPad 8)
    return cmdZeroise fn x.1
  | 0x0D11 => some (return cmdSecEvents fn (← pFlag))
  | 0x0E00 => some (pure cmdResetStatus)
  | 0x0E01 => some do
    let n ← pNum 2 0 0xFFFF
    return cmdFaultLog fn n (← pFlag)
  | 0x0E02 => some (return cmdDieRecover fn (← pNum 1 0 30))
  | 0x0E03 => some do
    let p ← pPart
    let t ← pTiles
    return cmdLoftMarch fn p t (← pFlag)
  | 0x0E04 => some do
    let m ← pNum 2 100 60000
    return cmdWatchdogSet fn m (← pFlag)
  | 0x0E05 => some do
    let p ← pPart
    return cmdLedgerKeep fn p (← pFlag)
  | _ => none

/-- The reader of a command's parameters, by its CODE. -/
def mbCode (fn code : Nat) : Option (Prs MbFun) :=
  if code < 0x0500 then mbTile fn code
  else if code < 0x0900 then mbSync fn code
  else if code < 0x0B00 then mbMem fn code
  else if code < 0x0D00 then mbServe fn code
  else mbSec fn code

/-- The first byte of a header that should be zero and is not. -/
def State.mbHdrBad (s : State) (fn : Nat) : Option Nat :=
  [2, 3, 12, 13, 14, 15].find? fun o => decide (s.mbNum fn o 1 ≠ 0)

/-- The command in a function's MB_CMD. -/
def State.mbCmd (s : State) (fn : Nat) : State × Reply :=
  let len := s.mbNum fn 8 4
  match mbCode fn (s.mbNum fn 0 2) with
  | none => (s, .unknown)
  | some f =>
    match (s.mbHdrBad fn).filter fun o => decide (o < 8) with
    | some o => (s, .malformed o)
    | none =>
      if 16368 < len then (s, .malformed 8)
      else
        match f.run (s.mbBytes fn 16 len) |>.run ⟨0, none⟩ with
        | .error o => (s, .malformed o)
        | .ok (g, c) =>
          if c.at_ ≠ len then (s, .malformed 8)
          else
            match s.mbHdrBad fn, c.fault with
            | some o, _ => (s, .malformed o)
            | none, some o => (s, .malformed o)
            | none, none => g s

/-- The function to be served next, in turn after the one served last. -/
def State.mbNext (s : State) : Option Nat :=
  ((List.range 17).map fun i => (s.stw.turn + 1 + i) % 17).find? fun fn => s.flag (State.mbDb fn) F.MB_DB_BUSY

/-- A pending command is taken up, run to its completion and answered. -/
def State.takeUp (s : State) : State :=
  match s.mbNext with
  | none => s
  | some fn =>
    let s := { s with stw := { s.stw with turn := fn } }
    s.mbRun fn (s.mbNum fn 0 2) fun s => s.mbCmd fn

end Sys2Proof.Machine
end

