-- ==== Sys2Proof/Machine/CoreRows.lean ====
section
/-! DEFINITION. The meanings of the rows of the control space, of control packets, of the mailbox and of the Bilha-C cores. -/

namespace Sys2Proof.Machine

/-- R5, R6, R33, R400 -/
def execRegisterWrite (fn : Fun) (addr : Nat) (bytes : Nat) (value : Word64) (s : State) : Host.Outcome State Fault Refusal :=
  onLive s fun s => (s.ctlWrite fn addr bytes value.toNat).2

/-- R441, R442 -/
def execMailboxTakeUp (s : State) : Host.Outcome State Fault Refusal :=
  onLive s fun s => s.takeUp

/-- R231 to R233, R508 -/
def execControlPacket (typ : Fin 16) (dst : Die) (src : Die) (srcId : BitVec 11) (tag : Byte) (err : Bool) (addr : Word64) (payload : List Byte) (s : State) : Host.Outcome State Fault Refusal :=
  onLive s fun s => s.packet ⟨typ, dst, src, srcId.toNat, tag.toNat, err, addr.toNat, payload⟩

/-- R436, R437 -/
def execClw (c : CoreNo) (a : Fin 32) (b : Fin 32) (imm : BitVec 16) (s : State) : Host.Outcome State Fault Refusal :=
  onLive s fun s => s.coreLoad c a b imm 4

/-- R436, R437 -/
def execCld (c : CoreNo) (a : Fin 32) (b : Fin 32) (imm : BitVec 16) (s : State) : Host.Outcome State Fault Refusal :=
  onLive s fun s => s.coreLoad c a b imm 8

/-- R436, R437 -/
def execCsw (c : CoreNo) (a : Fin 32) (b : Fin 32) (imm : BitVec 16) (s : State) : Host.Outcome State Fault Refusal :=
  onLive s fun s => s.coreStore c a b imm 4

/-- R436, R437 -/
def execCsd (c : CoreNo) (a : Fin 32) (b : Fin 32) (imm : BitVec 16) (s : State) : Host.Outcome State Fault Refusal :=
  onLive s fun s => s.coreStore c a b imm 8

/-- R436, R437: every earlier access has been acknowledged -/
def execCfn (c : CoreNo) (s : State) : Host.Outcome State Fault Refusal :=
  onLive s fun s => s.coreStep c fun s => s.coreNext c

/-- R436 -/
def execCpk (c : CoreNo) (b : Fin 32) (imm : BitVec 16) (s : State) : Host.Outcome State Fault Refusal :=
  onLive s fun s => s.corePkt c b imm

/-- R436, R437 -/
def execEvw (c : CoreNo) (a : Fin 32) (b : Fin 32) (s : State) : Host.Outcome State Fault Refusal :=
  onLive s fun s => s.coreEvent c a b

/-- R436 -/
def execTim (c : CoreNo) (a : Fin 32) (s : State) : Host.Outcome State Fault Refusal :=
  onLive s fun s => s.coreTime c a

/-- R436 -/
def execBce (c : CoreNo) (imm : BitVec 16) (s : State) : Host.Outcome State Fault Refusal :=
  onLive s fun s => s.coreBce c imm

/-- R434, R435 -/
def execBilhaCInstruction (c : CoreNo) (op : BcOp) (s : State) : Host.Outcome State Fault Refusal :=
  onLive s fun s => s.coreOp c op

end Sys2Proof.Machine
end

