-- ==== Sys2Proof/Machine/ExpertRows.lean ====
section
/-! DEFINITION. The meanings of the rows of chapter 8. -/

namespace Sys2Proof.Machine

/-- R276 to R281 -/
def execScoreSegment (d : CDie) (s : State) : Host.Outcome State Fault Refusal :=
  onLive s fun s => s.scoreSegment d

/-- R298 -/
def execConfidenceUnit (d : CDie) (s : State) : Host.Outcome State Fault Refusal :=
  onLive s fun s => s.confUnit d

/-- R288 -/
def execCountReport (p : Part) (s : State) : Host.Outcome State Fault Refusal :=
  onLive s fun s => s.countReport p

/-- R289 -/
def execCountRowTimeout (p : Part) (s : State) : Host.Outcome State Fault Refusal :=
  onLive s fun s => s.rowTimeout p

/-- R290 to R292, R295 to R297 -/
def execPointDecide (p : Part) (s : State) : Host.Outcome State Fault Refusal :=
  onLive s fun s => s.pointDecide p

/-- R298, R299 -/
def execExitPointDecide (p : Part) (s : State) : Host.Outcome State Fault Refusal :=
  onLive s fun s => s.exitDecide p

/-- R283 to R286, R296, R301, R381 -/
def execExchangeCopy (l : LDie) (port : Fin 2) (s : State) : Host.Outcome State Fault Refusal :=
  onLive s fun s => s.exchangeCopy l port

/-- R284 -/
def execRunHeaderPresent (l : LDie) (q : Fin 32) (s : State) : Host.Outcome State Fault Refusal :=
  onLive s fun s => s.runShow l q 40

/-- R301 -/
def execCopyTimeout (p : Part) (s : State) : Host.Outcome State Fault Refusal :=
  onLive s fun s => s.copyTimeout p

/-- R294, R302, R515 -/
def execPlanLoad (fn : Fun) (p : Part) (addr : Word64) (s : State) : Host.Outcome State Fault Refusal :=
  mbRow s fn 0x0800 (cmdPlanLoad fn p addr.toNat)

/-- R302, R304 -/
def execRouteConfig (fn : Fun) (p : Part) (dies : BitVec 24) (k : Nat) (nexp : Nat) (nsh : Nat) (gate : Fin 4) (npos : Nat)
    (s : State) : Host.Outcome State Fault Refusal :=
  mbRow s fn 0x0801 (cmdRouteConfig fn p dies.toNat k nexp nsh gate npos)

/-- R302 -/
def execRouteStats (fn : Fun) (p : Part) (clr : Bool) (s : State) : Host.Outcome State Fault Refusal :=
  mbRow s fn 0x0802 (cmdRouteStats fn p clr)

/-- R302 -/
def execStepStatus (fn : Fun) (p : Part) (s : State) : Host.Outcome State Fault Refusal :=
  mbRow s fn 0x0803 (cmdStepStatus fn p)

/-- R297, R302 -/
def execStepSpillbuf (fn : Fun) (p : Part) (addr : Word64) (size : Nat) (s : State) : Host.Outcome State Fault Refusal :=
  mbRow s fn 0x0804 (cmdStepSpillbuf fn p addr.toNat size)

/-- R303 -/
def execRteCfgWrite (d : CDie) (second : Bool) (value : Word32) (s : State) : Host.Outcome State Fault Refusal :=
  onLive s fun s => if second then s.rteCfg2 d value.toNat else s.rteCfg d value.toNat

/-- R304 -/
def execRteCntctlClr (d : CDie) (s : State) : Host.Outcome State Fault Refusal :=
  onLive s fun s => s.rteCntClear d

/-- R305 -/
def execStepCntclr (p : Part) (s : State) : Host.Outcome State Fault Refusal :=
  onLive s fun s => s.stepCntClear p

end Sys2Proof.Machine
end

