-- ==== Sys2Proof/Machine/FabRows.lean ====
section
/-! DEFINITION. The meanings of the rows of chapter 10. -/

namespace Sys2Proof.Machine

/-- R22, R351, R353, R363, R364 -/
def execLinkTrain (k : Link) (lanes : Bool) (ctrOk : Bool) (beacons : List (Nat × List Byte)) (s : State) : Host.Outcome State Fault Refusal :=
  onLive s fun s => s.linkTrain k lanes ctrOk beacons

/-- R352, R369, R370 -/
def execLinkDown (k : Link) (why : DownWhy) (s : State) : Host.Outcome State Fault Refusal :=
  onLive s fun s => s.linkDown k why

/-- R352 -/
def execLinkRetrain (k : Link) (lanes : Bool) (ctrOk : Bool) (beacons : List (Nat × List Byte)) (s : State) : Host.Outcome State Fault Refusal :=
  onLive s fun s => s.linkRetrain k lanes ctrOk beacons

/-- R352, R358 -/
def execIdleFlit (k : Link) (s : State) : Host.Outcome State Fault Refusal :=
  onLive s fun s => s.idleFlit k

/-- R359 to R361, R392, R471 -/
def execFlitReceive (k : Link) (flit : FlitBytes) (fecCorr : Nat) (fecUnc : Nat) (s : State) : Host.Outcome State Fault Refusal :=
  onLive s fun s => s.flitReceive k flit fecCorr fecUnc

/-- R361, R471 -/
def execFlitReplay (k : Link) (s : State) : Host.Outcome State Fault Refusal :=
  onLive s fun s => s.flitReplay k

/-- R362 to R364, R472 -/
def execBeacon (k : Link) (round : Nat) (payload : List Byte) (s : State) : Host.Outcome State Fault Refusal :=
  onLive s fun s => s.beaconRecv k round payload

/-- R378, R379 -/
def execLoadMsg (k : Link) (second : Bool) (s : State) : Host.Outcome State Fault Refusal :=
  onLive s fun s => s.recvLoad k second

/-- R378 -/
def execLdata (k : Link) (second : Bool) (s : State) : Host.Outcome State Fault Refusal :=
  onLive s fun s => s.recvLdata k second

/-- R378, R379 -/
def execStoreMsg (k : Link) (second : Bool) (s : State) : Host.Outcome State Fault Refusal :=
  onLive s fun s => s.recvStore k second

/-- R378, R379 -/
def execAccstore (k : Link) (second : Bool) (s : State) : Host.Outcome State Fault Refusal :=
  onLive s fun s => s.recvAccstore k second

/-- R380 -/
def execPlaceMsg (k : Link) (second : Bool) (s : State) : Host.Outcome State Fault Refusal :=
  onLive s fun s => s.recvPlace k second

/-- R388 to R390 -/
def execAtomicMsg (k : Link) (second : Bool) (s : State) : Host.Outcome State Fault Refusal :=
  onLive s fun s => s.recvAtomic k second

/-- R387 -/
def execAresult (k : Link) (second : Bool) (s : State) : Host.Outcome State Fault Refusal :=
  onLive s fun s => s.recvAresult k second

/-- R378, R383 -/
def execDoneMsg (k : Link) (second : Bool) (s : State) : Host.Outcome State Fault Refusal :=
  onLive s fun s => s.recvDoneMsg k second

/-- R381 -/
def execCopyMsg (k : Link) (second : Bool) (s : State) : Host.Outcome State Fault Refusal :=
  onLive s fun s => s.recvCopy k second

/-- R288, R385 -/
def execCountrow (k : Link) (second : Bool) (s : State) : Host.Outcome State Fault Refusal :=
  onLive s fun s => s.recvCountrow k second

/-- R316, R385 -/
def execPageMsg (k : Link) (rsp : Bool) (second : Bool) (s : State) : Host.Outcome State Fault Refusal :=
  onLive s fun s => s.recvPage k rsp second

/-- R196, R385 -/
def execSyncMsg (k : Link) (s : State) : Host.Outcome State Fault Refusal :=
  onLive s fun s => s.recvSync k

/-- R355, R359, R367 -/
def execRelayForward (k : Link) (cls : Fin 3) (s : State) : Host.Outcome State Fault Refusal :=
  onLive s fun s => s.relayForward k cls

/-- R382, R387 -/
def execRemoteBoundExpiry (l : LDie) (tag : Nat) (s : State) : Host.Outcome State Fault Refusal :=
  onLive s fun s => s.remoteExpire l tag

/-- R383 -/
def execStoreLost (l : LDie) (tag : Nat) (s : State) : Host.Outcome State Fault Refusal :=
  onLive s fun s => s.storeLost l tag

/-- R387 -/
def execAtomicRetry (l : LDie) (tag : Nat) (s : State) : Host.Outcome State Fault Refusal :=
  onLive s fun s => s.atomicRetry l tag

/-- R370 -/
def execNoticeProbe (k : Link) (s : State) : Host.Outcome State Fault Refusal :=
  onLive s fun s => s.noticeProbe k

/-- R370 -/
def execNoticeProbeAnswer (k : Link) (s : State) : Host.Outcome State Fault Refusal :=
  onLive s fun s => s.noticeAnswer k

/-- R370 to R372, R514 -/
def execProbeTimeout (pkg : BitVec 12) (s : State) : Host.Outcome State Fault Refusal :=
  onLive s fun s => (s.probeTimeout pkg.toNat).lostSince s

/-- R370 to R372, R514 -/
def execNoticeLoss (k : Link) (s : State) : Host.Outcome State Fault Refusal :=
  onLive s fun s => (s.noticeLoss k).lostSince s

/-- R373 -/
def execNoticeRejoin (k : Link) (s : State) : Host.Outcome State Fault Refusal :=
  onLive s fun s => s.noticeRejoin k

/-- R364, R365, R394 -/
def execFabMap (fn : Fun) (addr : Word64) (s : State) : Host.Outcome State Fault Refusal :=
  mbRow s fn 0x0A00 (cmdFabMap fn addr.toNat)

/-- R394 -/
def execFabStatus (fn : Fun) (s : State) : Host.Outcome State Fault Refusal :=
  mbRow s fn 0x0A01 cmdFabStatus

/-- R394, R396 -/
def execFabMode (fn : Fun) (mode : Bool) (twin : Bool) (s : State) : Host.Outcome State Fault Refusal :=
  mbRow s fn 0x0A02 (cmdFabMode fn mode twin)

/-- R375, R394 -/
def execFabJob (fn : Fun) (p : Part) (job : Byte) (s : State) : Host.Outcome State Fault Refusal :=
  mbRow s fn 0x0A03 (cmdFabJob fn p job.toNat)

/-- R376, R394 -/
def execFabWindow (fn : Fun) (p : Part) (w : Fin 16) (lo : BitVec 12) (hi : BitVec 12) (base : Word64) (size : Word64) (perm : BitVec 4) (on : Bool) (s : State) : Host.Outcome State Fault Refusal :=
  mbRow s fn 0x0A04 (cmdFabWindow fn p w lo.toNat hi.toNat base.toNat size.toNat perm.toNat on)

/-- R382, R387, R394 -/
def execFabBound (fn : Fun) (p : Part) (us : Nat) (retry : Nat) (s : State) : Host.Outcome State Fault Refusal :=
  mbRow s fn 0x0A05 (cmdFabBound fn p us retry)

/-- R386, R394 -/
def execFabRegulate (fn : Fun) (p : Part) (rate : Nat) (depth : Nat) (on : Bool) (s : State) : Host.Outcome State Fault Refusal :=
  mbRow s fn 0x0A06 (cmdFabRegulate fn p rate depth on)

/-- R352, R394 -/
def execFabLink (fn : Fun) (k : Link) (act : Nat) (s : State) : Host.Outcome State Fault Refusal :=
  mbRow s fn 0x0A07 (cmdFabLink fn k act)

/-- R373, R394 -/
def execFabRejoin (fn : Fun) (pkg : BitVec 12) (s : State) : Host.Outcome State Fault Refusal :=
  mbRow s fn 0x0A08 (cmdFabRejoin fn pkg.toNat)

/-- R392, R394 -/
def execFabInject (fn : Fun) (k : Link) (mode : Fin 4) (rate : Nat) (win : Nat) (s : State) : Host.Outcome State Fault Refusal :=
  mbRow s fn 0x0A09 (cmdFabInject fn k mode rate win)

/-- R394 -/
def execFabStats (fn : Fun) (p : Part) (clr : Bool) (s : State) : Host.Outcome State Fault Refusal :=
  mbRow s fn 0x0A0A (cmdFabStats fn p clr)

/-- R396 -/
def execFbCtlWrite (l : LDie) (value : Word32) (s : State) : Host.Outcome State Fault Refusal :=
  onLive s fun s => s.fbCtlWrite l value.toNat

/-- R397 -/
def execFbRtWrite (l : LDie) (n : BitVec 12) (value : Word64) (s : State) : Host.Outcome State Fault Refusal :=
  onLive s fun s => s.fbRtWrite l n.toNat value.toNat

/-- R392 -/
def execLnkInjWrite (k : Link) (value : Word64) (s : State) : Host.Outcome State Fault Refusal :=
  onLive s fun s => s.lnkInjWrite k value.toNat

/-- R340, R386 -/
def execTokenBucketFill (d : Fin 8) (fab : Bool) (p : Part) (ns : Nat) (s : State) : Host.Outcome State Fault Refusal :=
  onLive s fun s => if fab then (if 4 ≤ d.val ∧ d.val < 7 then s.linkBucket (d.val - 4) p ns else s) else s.bucketFill d false p ns

end Sys2Proof.Machine
end

