-- ==== Sys2Proof/Machine/MemRows.lean ====
section
/-! DEFINITION. The meanings of the gateway rows of chapter 6 and of the rows of chapter 9. -/

namespace Sys2Proof.Machine

/-- R216, R227, R229, R376, R378 -/
def execGatewayRequest (d : Fin 8) (port : Fin 4) (s : State) : Host.Outcome State Fault Refusal :=
  onLive s fun s => s.gatewayRequest d port

/-- R227, R229: data that a channel, link or host returns -/
def execGatewayDataReturn (d : Fin 8) (id : Nat) (units : List (SheafBits × Bool)) (s : State) : Host.Outcome State Fault Refusal :=
  onLive s fun s => (s.returnUnits d id (units.map fun u => ⟨u.1, u.2⟩)).settleReqs d

/-- R229, R315. At a link die the bound is the remote load bound (R382) -/
def execGatewayBoundExpiry (d : Fin 8) (id : Nat) (s : State) : Host.Outcome State Fault Refusal :=
  onLive s fun s => if 4 ≤ d.val ∧ d.val < 7 then s else (s.expire d id).settleReqs d

/-- R309 to R314 -/
def execMemoryRequest (d : Fin 8) (id : Nat) (s : State) : Host.Outcome State Fault Refusal :=
  onLive s fun s => s.memoryRequest d id

/-- R311 -/
def execMapEntryRead (d : Fin 8) (page : Nat) (s : State) : Host.Outcome State Fault Refusal :=
  onLive s fun s => s.mapRead d page

/-- R317 -/
def execMoveStart (m : MDie) (s : State) : Host.Outcome State Fault Refusal :=
  onLive s fun s => s.moverStart (24 + m.val)

/-- R318 -/
def execMoveComplete (page : Nat) (s : State) : Host.Outcome State Fault Refusal :=
  onLive s fun s => (s.moveComplete page).lostItems page

/-- R319 -/
def execMoveFail (page : Nat) (s : State) : Host.Outcome State Fault Refusal :=
  onLive s fun s => (s.moveFail page).lostItems page

/-- R320 -/
def execAccAge (s : State) : Host.Outcome State Fault Refusal :=
  onLive s fun s => s.accAge

/-- R326, R502 -/
def execChannelTrain (n : Chan) (dimm : Option Dimm) (fail1 : Bool) (fail2 : Bool) (s : State) : Host.Outcome State Fault Refusal :=
  onLive s fun s => s.chanTrain n dimm fail1 fail2

/-- R325 -/
def execModuleTempPoll (n : Chan) (temp : Byte) (s : State) : Host.Outcome State Fault Refusal :=
  onLive s fun s => s.tempPoll n temp.toNat

/-- R334 -/
def execBurstRead (d : Fin 8) (id : Nat) (u : Nat) (bad : Nat) (s : State) : Host.Outcome State Fault Refusal :=
  onLive s fun s => s.burstAccess d id u bad false

/-- R333 -/
def execPartialWrite (d : Fin 8) (id : Nat) (bad : Nat) (s : State) : Host.Outcome State Fault Refusal :=
  onLive s fun s => s.partialWrite d id bad

/-- R345 -/
def execMvCmdGo (m : MDie) (tgt : Fin 4) (s : State) : Host.Outcome State Fault Refusal :=
  onLive s fun s => s.mvGo m tgt

/-- R33, R344, R400 -/
def execMemRgnWrite (fn : Fun) (tab : RgnTab) (p : Part) (r : Fin 32) (upper : Word64) (s : State) : Host.Outcome State Fault Refusal :=
  onLive s fun s => if fn.val ≠ 0 ∧ fn.val ≠ p.val + 1 then s.decodeMiss fn.val (rgnAddr tab p r) else s.rgnWrite fn (rgnDie tab) (rgnAddr tab p r) upper.toNat

/-- R341 -/
def execMemRegion (fn : Fun) (p : Part) (base : Word64) (size : Word64) (kind : Fin 16) (home : Fin 8) (enc : Bool) (reserve : Bool) (s : State) : Host.Outcome State Fault Refusal :=
  mbRow s fn 0x0900 (cmdMemRegion fn p base.toNat size.toNat kind home enc reserve)

/-- R341 -/
def execMemFree (fn : Fun) (p : Part) (base : Word64) (s : State) : Host.Outcome State Fault Refusal :=
  mbRow s fn 0x0901 (cmdMemFree fn p base.toNat)

/-- R339, R341 -/
def execMemQuota (fn : Fun) (p : Part) (tier : Nat) (frames : List Nat) (s : State) : Host.Outcome State Fault Refusal :=
  mbRow s fn 0x0902 (cmdMemQuota fn p tier frames)

/-- R340, R341 -/
def execMemRegulate (fn : Fun) (p : Part) (tier : Nat) (rate : Nat) (depth : Nat) (on : Bool) (s : State) : Host.Outcome State Fault Refusal :=
  mbRow s fn 0x0903 (cmdMemRegulate fn p tier rate depth on)

/-- R315, R341 -/
def execMemBound (fn : Fun) (p : Part) (bay : Nat) (cellar : Nat) (s : State) : Host.Outcome State Fault Refusal :=
  mbRow s fn 0x0904 (cmdMemBound fn p bay cellar)

/-- R318, R341 -/
def execMemMove (fn : Fun) (p : Part) (addr : Word64) (pages : Nat) (tgt : Nat) (pkg : Nat) (hosts : List Word64) (s : State) : Host.Outcome State Fault Refusal :=
  mbRow s fn 0x0905 (cmdMemMove fn p addr.toNat pages tgt pkg (hosts.map (·.toNat)))

/-- R341 -/
def execMemQuery (fn : Fun) (addr : Word64) (s : State) : Host.Outcome State Fault Refusal :=
  mbRow s fn 0x0906 (cmdMemQuery fn addr.toNat)

/-- R321, R341 -/
def execStreamSet (fn : Fun) (p : Part) (w : Nat) (on : Bool) (s : State) : Host.Outcome State Fault Refusal :=
  mbRow s fn 0x0907 (cmdStreamSet fn p w on)

/-- R338, R341 -/
def execMemStats (fn : Fun) (p : Part) (clr : Bool) (s : State) : Host.Outcome State Fault Refusal :=
  mbRow s fn 0x0908 (cmdMemStats fn p clr)

/-- R337, R341 -/
def execMemRetired (fn : Fun) (m : MDie) (restore : Option (List Nat)) (s : State) : Host.Outcome State Fault Refusal :=
  mbRow s fn 0x0909 (cmdMemRetired fn m restore)

/-- R341 -/
def execMemChannels (fn : Fun) (s : State) : Host.Outcome State Fault Refusal :=
  mbRow s fn 0x090A cmdMemChannels

end Sys2Proof.Machine
end

