-- ==== Sys2Proof/Machine/PowerRows.lean ====
section
/-! DEFINITION. The meanings of the rows of chapter 12 that belong to power, heat and the mailbox. -/

namespace Sys2Proof.Machine

/-- R8, R441, R443 -/
def execMbDbGo (fn : Fun) (s : State) : Host.Outcome State Fault Refusal :=
  onLive s fun s => s.mbGo fn

/-- R444 -/
def execFwInfo (fn : Fun) (s : State) : Host.Outcome State Fault Refusal :=
  mbRow s fn 0x0001 cmdFwInfo

/-- R22, R444 -/
def execPkgLocate (fn : Fun) (rack : Nat) (s : State) : Host.Outcome State Fault Refusal :=
  mbRow s fn 0x0100 (cmdPkgLocate fn rack)

/-- R437 -/
def execEventQueueEntry (s : State) : Host.Outcome State Fault Refusal :=
  onLive s fun s => s.eventEntry

/-- R445 to R448, R451, R455, R458 to R460 -/
def execAllotmentPeriod (others : Nat) (draw : Nat) (meas : List TileMeas) (s : State) : Host.Outcome State Fault Refusal :=
  onLive s fun s => s.allotment others draw (meas.map fun m => (m.tile.val, m.level, m.act))

/-- R138, R450 -/
def execHintReport (s : State) : Host.Outcome State Fault Refusal :=
  onLive s fun s => s.hintTake

/-- R448, R453 -/
def execDroopFire (i : Island) (s : State) : Host.Outcome State Fault Refusal :=
  onLive s fun s => s.droopFire i

/-- R453 -/
def execDroopRecover (i : Island) (s : State) : Host.Outcome State Fault Refusal :=
  onLive s fun s => s.droopRecover i

/-- R454 -/
def execAgeingCheck (short : List Nat) (s : State) : Host.Outcome State Fault Refusal :=
  onLive s fun s => s.ageingCheck short

/-- R455, R456 -/
def execSensorSample (n : Fin 239) (temp : Byte) (s : State) : Host.Outcome State Fault Refusal :=
  onLive s fun s => s.sensorSample n temp.toNat

/-- R456, R499 -/
def execThermalTrip (n : Fin 239) (temp : Byte) (s : State) : Host.Outcome State Fault Refusal :=
  onLive s fun s => if 115 ≤ toSigned8 temp.toNat then (s.sensorRead n temp.toNat).trip else s

/-- R458, R459, R461 -/
def execCapWrite (tray : Bool) (watts : Nat) (rate : Nat) (s : State) : Host.Outcome State Fault Refusal :=
  onLive s fun s => s.capWrite tray watts rate

/-- R449, R461 -/
def execClkIslOnWrite (i : Island) (on : Bool) (s : State) : Host.Outcome State Fault Refusal :=
  onLive s fun s => s.onWrite i on

/-- R464 -/
def execPwrCntclrCnt (s : State) : Host.Outcome State Fault Refusal :=
  onLive s fun s => s.pwrCntClr

/-- R464 -/
def execPwrCntclrBale (s : State) : Host.Outcome State Fault Refusal :=
  onLive s fun s => s.pwrBaleClr

/-- R464 -/
def execPwrCntclrDroop (s : State) : Host.Outcome State Fault Refusal :=
  onLive s fun s => s.droopClr

/-- R460, R464 -/
def execPwrOvrptrClr (s : State) : Host.Outcome State Fault Refusal :=
  onLive s fun s => s.ovrClear

/-- R464 -/
def execPwrTsClr (n : Fin 239) (s : State) : Host.Outcome State Fault Refusal :=
  onLive s fun s => s.tsClr n

/-- R462, R464 -/
def execPowerStatus (fn : Fun) (clr : Bool) (s : State) : Host.Outcome State Fault Refusal :=
  mbRow s fn 0x0C00 (cmdPowerStatus fn clr)

/-- R458, R462 -/
def execPowerCap (fn : Fun) (watts : Nat) (rate : Nat) (s : State) : Host.Outcome State Fault Refusal :=
  mbRow s fn 0x0C01 (cmdPowerCap fn watts rate)

/-- R462 -/
def execPowerTarget (fn : Fun) (p : Part) (code : Nat) (s : State) : Host.Outcome State Fault Refusal :=
  mbRow s fn 0x0C02 (cmdPowerTarget fn p code)

/-- R462 -/
def execBallastSet (fn : Fun) (on : Bool) (us : Nat) (s : State) : Host.Outcome State Fault Refusal :=
  mbRow s fn 0x0C03 (cmdBallastSet fn on us)

/-- R462, R464 -/
def execThermalStatus (fn : Fun) (clr : Bool) (s : State) : Host.Outcome State Fault Refusal :=
  mbRow s fn 0x0C04 (cmdThermalStatus clr)

/-- R454, R462 -/
def execAgeLog (fn : Fun) (s : State) : Host.Outcome State Fault Refusal :=
  mbRow s fn 0x0C05 cmdAgeLog

/-- R460, R462, R464 -/
def execOverrunLog (fn : Fun) (clr : Bool) (s : State) : Host.Outcome State Fault Refusal :=
  mbRow s fn 0x0C06 (cmdOverrunLog clr)

/-- R449, R462 -/
def execIslandPower (fn : Fun) (i : Island) (on : Bool) (s : State) : Host.Outcome State Fault Refusal :=
  mbRow s fn 0x0C07 (cmdIslandPower fn i on)

/-- R453, R462 -/
def execDroopSet (fn : Fun) (mv : Nat) (factor : Nat) (s : State) : Host.Outcome State Fault Refusal :=
  mbRow s fn 0x0C08 (cmdDroopSet fn mv factor)

/-- R450, R462 -/
def execHintConfig (fn : Fun) (us : Nat) (s : State) : Host.Outcome State Fault Refusal :=
  mbRow s fn 0x0C09 (cmdHintConfig fn us)

end Sys2Proof.Machine
end

