-- ==== Sys2Proof/Machine/ResetRows.lean ====
section
/-! DEFINITION. The meanings of the rows of chapters 14 and 15. -/

namespace Sys2Proof.Machine

/-- R513 -/
def execNoticeStepAbort (k : Link) (s : State) : Host.Outcome State Fault Refusal :=
  onLive s fun s => s.noticeAbort k

/-- R497, R499, R524, R527, R529 -/
def execPowerOnReset (twoPorts : Bool) (sris : Bool) (s : State) : Host.Outcome State Fault Refusal :=
  .next (s.powerOn twoPorts sris)

/-- R498, R499 -/
def execPkgResetN (ns : Nat) (honoured : Bool) (s : State) : Host.Outcome State Fault Refusal :=
  .next (s.resetPin ns honoured)

/-- R499, R518 -/
def execWatchdogExpiry (s : State) : Host.Outcome State Fault Refusal :=
  onLive s fun s => s.watchdog

/-- R456, R499, R538 -/
def execThermalTripReset (ms : Nat) (temps : List Byte) (s : State) : Host.Outcome State Fault Refusal :=
  .next (s.tripEnd ms temps)

/-- R500, R530 -/
def execPerst (port : Fin 2) (s : State) : Host.Outcome State Fault Refusal :=
  onLive s fun s => s.portReset port

/-- R441, R499, R500, R530 -/
def execPfFlr (port : Fin 2) (s : State) : Host.Outcome State Fault Refusal :=
  onLive s fun s => s.portReset port

/-- R499, R501, R528 -/
def execRailDip (rail : Fin 8) (ns : Nat) (s : State) : Host.Outcome State Fault Refusal :=
  .next (s.railDip rail ns)

/-- R525 -/
def execRefclkLost (ns : Nat) (s : State) : Host.Outcome State Fault Refusal :=
  .next (s.refclkLost ns)

/-- R482 to R486, R501 to R504 -/
def execBringUp (boot : BootIn) (s : State) : Host.Outcome State Fault Refusal :=
  onLive s fun s => s.bringUp boot

/-- R470, R502 -/
def execBringupLinkStage (lanes : List Bool) (s : State) : Host.Outcome State Fault Refusal :=
  onLive s fun s => s.linkStage lanes

/-- R508, R509, R511, R515 -/
def execFaultReport (q : Fin 4) (s : State) : Host.Outcome State Fault Refusal :=
  onLive s fun s => s.faultTake q

/-- R510, R512 to R514 -/
def execRecoveryEpoch (e : Fin 8) (ok : Bool) (s : State) : Host.Outcome State Fault Refusal :=
  onLive s fun s => s.recover e ok

/-- R513, R514 -/
def execStepAbort (p : Part) (s : State) : Host.Outcome State Fault Refusal :=
  onLive s fun s => s.stepAbort p lcDomain s.pkgOwn

/-- R506, R521 -/
def execBnkMarchGo (fn : Fun) (g : Tile) (preserving : Bool) (s : State) : Host.Outcome State Fault Refusal :=
  onLive s fun s => s.marchGo fn g preserving

/-- R505, R506 -/
def execMarchComplete (g : Tile) (fails : List (Nat × Nat)) (s : State) : Host.Outcome State Fault Refusal :=
  onLive s fun s => s.marchComplete g fails

/-- R516 -/
def execResetStatus (fn : Fun) (s : State) : Host.Outcome State Fault Refusal :=
  mbRow s fn 0x0E00 cmdResetStatus

/-- R508, R516 -/
def execFaultLog (fn : Fun) (count : Nat) (clr : Bool) (s : State) : Host.Outcome State Fault Refusal :=
  mbRow s fn 0x0E01 (cmdFaultLog fn count clr)

/-- R510, R511, R516 -/
def execDieRecover (fn : Fun) (d : Die) (s : State) : Host.Outcome State Fault Refusal :=
  mbRow s fn 0x0E02 (cmdDieRecover fn d)

/-- R505, R506, R516 -/
def execLoftMarch (fn : Fun) (p : Part) (ts : TileSet) (preserving : Bool) (s : State) : Host.Outcome State Fault Refusal :=
  mbRow s fn 0x0E03 (cmdLoftMarch fn p ts preserving)

/-- R516, R518 -/
def execWatchdogSet (fn : Fun) (ms : Nat) (on : Bool) (s : State) : Host.Outcome State Fault Refusal :=
  mbRow s fn 0x0E04 (cmdWatchdogSet fn ms on)

/-- R501, R516 -/
def execLedgerKeep (fn : Fun) (p : Part) (clr : Bool) (s : State) : Host.Outcome State Fault Refusal :=
  mbRow s fn 0x0E05 (cmdLedgerKeep fn p clr)

/-- R518 -/
def execRstWdogKick (s : State) : Host.Outcome State Fault Refusal :=
  onLive s fun s => s.modRst fun x => { x with kickAt := s.now }

/-- R519. From a virtual function a decode miss (R33) -/
def execRstDieWrite (fn : Fun) (dies : BitVec 31) (s : State) : Host.Outcome State Fault Refusal :=
  onLive s fun s => if fn.val = 0 then s.each ((List.range 31).filter fun d => dies.toNat.testBit d) State.rstDie else s.decodeMiss fn.val R.RST_DIE

/-- R513, R520 -/
def execDieCtlPabort (d : Die) (p : Part) (s : State) : Host.Outcome State Fault Refusal :=
  onLive s fun s => (s.fset (R.DIE_CTL d) F.DIE_CTL_PART p).pabort d p

/-- R510, R520 -/
def execDieCtlCrst (d : CDie) (mask : BitVec 8) (s : State) : Host.Outcome State Fault Refusal :=
  onLive s fun s => s.clusterRst d mask.toNat

/-- R520 -/
def execDieCtlFence (d : Die) (on : Bool) (s : State) : Host.Outcome State Fault Refusal :=
  onLive s fun s => s.fset (R.DIE_CTL d) F.DIE_CTL_FENCE (bit on)

/-- R508 -/
def execStwFlogptrClr (s : State) : Host.Outcome State Fault Refusal :=
  onLive s fun s => s.flogClear

/-- R535, R536 -/
def execMpId (s : State) : Host.Outcome State Fault Refusal :=
  .next s.mpId

/-- R535, R537 -/
def execMpSlotWrite (slot : BitVec 5) (pecOk : Bool) (s : State) : Host.Outcome State Fault Refusal :=
  .next (s.mpSlot slot.toNat pecOk)

/-- R536, R537 -/
def execMpSlotRead (s : State) : Host.Outcome State Fault Refusal :=
  .next s.mpSlotRead

/-- R458, R535, R536 -/
def execMpCap (write : Option (BitVec 16 × BitVec 16)) (pecOk : Bool) (s : State) : Host.Outcome State Fault Refusal :=
  .next (match write with | some w => s.mpCapWrite w.1.toNat w.2.toNat pecOk | none => s.mpCapRead)

/-- R536 -/
def execMpPower (s : State) : Host.Outcome State Fault Refusal :=
  .next s.mpPower

/-- R536 -/
def execMpTemp (s : State) : Host.Outcome State Fault Refusal :=
  .next s.mpTemp

/-- R460, R536 -/
def execMpOvr (s : State) : Host.Outcome State Fault Refusal :=
  .next s.mpOvr

/-- R536 -/
def execMpBoot (s : State) : Host.Outcome State Fault Refusal :=
  .next s.mpBoot

/-- R525, R536 -/
def execMpEvent (s : State) : Host.Outcome State Fault Refusal :=
  .next s.mpEvent

/-- R527, R537 -/
def execVauxGood (s : State) : Host.Outcome State Fault Refusal :=
  .next s.vauxGood

/-- R498, R537 -/
def execPkgResetNRelease (s : State) : Host.Outcome State Fault Refusal :=
  .next s.resetPinHigh

/-- R525 -/
def execLinkRefclkReturn (l : LDie) (s : State) : Host.Outcome State Fault Refusal :=
  onLive s fun s => s.linkClock l

/-- R399, R500, R503, R530 -/
def execConfigurationRequest (port : Fin 2) (req : CfgReq) (s : State) : Host.Outcome State Fault Refusal :=
  onLive s fun s => s.cfgRequest port req

/-- R490, R539 -/
def execTapInstruction (op : TapOp) (s : State) : Host.Outcome State Fault Refusal :=
  .next (s.tapRun op)

end Sys2Proof.Machine
end

