-- ==== Sys2Proof/Machine/SecRows.lean ====
section
/-! DEFINITION. The meanings of the rows of chapter 13. -/

namespace Sys2Proof.Machine

/-- R473, R481, R494 -/
def execSecStatus (fn : Fun) (s : State) : Host.Outcome State Fault Refusal :=
  mbRow s fn 0x0D00 cmdSecStatus

/-- R482, R483, R494 -/
def execSecSelftest (fn : Fun) (failTest : Nat) (s : State) : Host.Outcome State Fault Refusal :=
  mbRow s fn 0x0D01 (cmdSecSelftest fn failTest)

/-- R468, R494 -/
def execSecIdentity (fn : Fun) (s : State) : Host.Outcome State Fault Refusal :=
  mbRow s fn 0x0D02 cmdSecIdentity

/-- R489, R494 -/
def execSecAttest (fn : Fun) (nonce : List Byte) (first : Nat) (s : State) : Host.Outcome State Fault Refusal :=
  mbRow s fn 0x0D03 (cmdSecAttest nonce first)

/-- R475 to R478, R494 -/
def execSecOpen (fn : Fun) (role : Nat) (key : List Byte) (ea : List Byte) (s : State) : Host.Outcome State Fault Refusal :=
  mbRow s fn 0x0D04 (cmdSecOpen fn role key ea)

/-- R476, R477, R494 -/
def execSecConfirm (fn : Fun) (sid : Nat) (sa : List Byte) (s : State) : Host.Outcome State Fault Refusal :=
  mbRow s fn 0x0D05 (cmdSecConfirm fn sid sa)

/-- R476, R477, R494 -/
def execSecClose (fn : Fun) (auth : SesAuth) (s : State) : Host.Outcome State Fault Refusal :=
  mbRow s fn 0x0D06 (cmdSecClose fn auth)

/-- R476, R493 -/
def execSessionIdleTimeout (sid : Nat) (s : State) : Host.Outcome State Fault Refusal :=
  onLive s fun s => s.sessionIdle sid

/-- R477 -/
def execAuthLockoutEnd (s : State) : Host.Outcome State Fault Refusal :=
  onLive s fun s => s.modSec fun y => { y with authRow := 0, lockout := false }

/-- R479, R487, R494 -/
def execKeyImport (fn : Fun) (auth : SesAuth) (p : Part) (keyid : Word32) (wrapped : List Byte) (s : State) : Host.Outcome State Fault Refusal :=
  mbRow s fn 0x0D07 (cmdKeyImport fn auth p keyid.toNat wrapped)

/-- R480, R494 -/
def execKeyDrop (fn : Fun) (auth : SesAuth) (p : Part) (keyid : Word32) (s : State) : Host.Outcome State Fault Refusal :=
  mbRow s fn 0x0D08 (cmdKeyDrop fn auth p keyid.toNat)

/-- R470, R479, R494 -/
def execDomainKey (fn : Fun) (auth : SesAuth) (wrapped : List Byte) (s : State) : Host.Outcome State Fault Refusal :=
  mbRow s fn 0x0D09 (cmdDomainKey fn auth wrapped)

/-- R474, R493, R494 -/
def execDomainId (fn : Fun) (auth : SesAuth) (id : BitVec 16) (s : State) : Host.Outcome State Fault Refusal :=
  mbRow s fn 0x0D0A (cmdDomainId fn auth id.toNat)

/-- R474, R486, R494 -/
def execSvnSet (fn : Fun) (auth : SesAuth) (svn : Byte) (s : State) : Host.Outcome State Fault Refusal :=
  mbRow s fn 0x0D0B (cmdSvnSet fn auth svn.toNat)

/-- R473, R474, R494 -/
def execOwnerRotate (fn : Fun) (auth : Option SesAuth) (key : List Byte) (s : State) : Host.Outcome State Fault Refusal :=
  mbRow s fn 0x0D0C (cmdOwnerRotate fn auth key)

/-- R473, R474, R490, R494 -/
def execLifecycle (fn : Fun) (auth : SesAuth) (next : Fin 4) (s : State) : Host.Outcome State Fault Refusal :=
  mbRow s fn 0x0D0D (cmdLifecycle fn auth next)

/-- R474, R494, R507 -/
def execRepairCommit (fn : Fun) (auth : SesAuth) (d : Die) (map : List Byte) (s : State) : Host.Outcome State Fault Refusal :=
  mbRow s fn 0x0D0E (cmdRepairCommit fn auth d map)

/-- R490, R494 -/
def execDebugGrant (fn : Fun) (auth : Option SesAuth) (scope : BitVec 2) (s : State) : Host.Outcome State Fault Refusal :=
  mbRow s fn 0x0D0F (cmdDebugGrant fn auth scope.toNat)

/-- R492, R494 -/
def execZeroise (fn : Fun) (auth : Option SesAuth) (s : State) : Host.Outcome State Fault Refusal :=
  mbRow s fn 0x0D10 (cmdZeroise fn auth)

/-- R491, R494, R496 -/
def execSecEvents (fn : Fun) (clr : Bool) (s : State) : Host.Outcome State Fault Refusal :=
  mbRow s fn 0x0D11 (cmdSecEvents fn clr)

/-- R491 -/
def execSecurityEvent (ev : SecEvt) (s : State) : Host.Outcome State Fault Refusal :=
  onLive s fun s => s.secEvent ev

/-- R482, R483 -/
def execEntropyTestFail (s : State) : Host.Outcome State Fault Refusal :=
  onLive s fun s => s.secFail 8

end Sys2Proof.Machine
end

