-- ==== Sys2Proof/Machine/ServeRows.lean ====
section
/-! DEFINITION. The meanings of the rows of chapter 11. -/

namespace Sys2Proof.Machine

/-- R400, R404 -/
def execRingProdWrite (fn : Fun) (p : Part) (r : Fin 4) (value : Word32) (s : State) : Host.Outcome State Fault Refusal :=
  onLive s fun s => s.prodWrite fn p r value.toNat

/-- R400, R404. Row 0 is OQ's, row 1 LQ's -/
def execRingConsWrite (fn : Fun) (p : Part) (r : Fin 2) (value : Word32) (s : State) : Host.Outcome State Fault Refusal :=
  onLive s fun s => s.consWrite fn p (4 + r.val) value.toNat

/-- R405, R412 to R414, R429, R430 -/
def execStepBoundary (p : Part) (s : State) : Host.Outcome State Fault Refusal :=
  onLive s fun s => s.stepBoundary p

/-- R410, R414, R422, R430 -/
def execStepRelease (p : Part) (s : State) : Host.Outcome State Fault Refusal :=
  onLive s fun s => s.stepRelease p

/-- R405, R408, R417, R428 -/
def execStartItem (p : Part) (r : Fin 4) (s : State) : Host.Outcome State Fault Refusal :=
  onLive s fun s => s.itemRow p r 0x01

/-- R405, R409, R428 -/
def execAppendItem (p : Part) (r : Fin 4) (s : State) : Host.Outcome State Fault Refusal :=
  onLive s fun s => s.itemRow p r 0x02

/-- R405, R415, R431 -/
def execPauseItem (p : Part) (r : Fin 4) (s : State) : Host.Outcome State Fault Refusal :=
  onLive s fun s => s.itemRow p r 0x03

/-- R415, R416 -/
def execPauseComplete (p : Part) (seqid : Word32) (s : State) : Host.Outcome State Fault Refusal :=
  onLive s fun s => s.pauseComplete p seqid.toNat

/-- R405, R416, R431 -/
def execResumeItem (p : Part) (r : Fin 4) (s : State) : Host.Outcome State Fault Refusal :=
  onLive s fun s => s.itemRow p r 0x04

/-- R405, R430, R431 -/
def execCancelItem (p : Part) (r : Fin 4) (s : State) : Host.Outcome State Fault Refusal :=
  onLive s fun s => s.itemRow p r 0x05

/-- R405, R407, R430 -/
def execItemEnd (p : Part) (r : Fin 4) (s : State) : Host.Outcome State Fault Refusal :=
  onLive s fun s => s.itemRow p r 0x06

/-- R406, R427 -/
def execStepItem (p : Part) (r : Fin 4) (s : State) : Host.Outcome State Fault Refusal :=
  onLive s fun s => s.itemRow p r 0x07

/-- R405, R406, R429 -/
def execItemCopy (p : Part) (r : Fin 4) (s : State) : Host.Outcome State Fault Refusal :=
  onLive s fun s => s.itemRow p r 0x10

/-- R418 to R421, R423 -/
def execWload (p : Part) (r : Fin 4) (s : State) : Host.Outcome State Fault Refusal :=
  onLive s fun s => s.itemRow p r 0x11

/-- R388, R405, R406, R429 -/
def execItemAtomic (p : Part) (r : Fin 4) (s : State) : Host.Outcome State Fault Refusal :=
  onLive s fun s => s.itemRow p r 0x12

/-- R419, R421 to R423 -/
def execStripeArrival (p : Part) (n : Nat) (data : List Byte) (s : State) : Host.Outcome State Fault Refusal :=
  onLive s fun s => s.stripeArrival p n data

/-- R416 -/
def execSequenceExpire (p : Part) (seqid : Word32) (s : State) : Host.Outcome State Fault Refusal :=
  onLive s fun s => s.seqExpire p seqid.toNat

/-- R416 -/
def execSeqidRetentionExpiry (p : Part) (seqid : Word32) (s : State) : Host.Outcome State Fault Refusal :=
  onLive s fun s => s.seqForget p seqid.toNat

/-- R203, R425, R426 -/
def execQuantumExpiry (grp : Fin 16) (s : State) : Host.Outcome State Fault Refusal :=
  onLive s fun s => s.quantumExpiry grp

/-- R426 -/
def execParkTimeout (p : Part) (s : State) : Host.Outcome State Fault Refusal :=
  onLive s fun s => s.parkTimeout p

/-- R425 -/
def execNoticeParking (k : Link) (s : State) : Host.Outcome State Fault Refusal :=
  onLive s fun s => s.noticeParking k

/-- R402, R498 -/
def execVfFlr (p : Part) (s : State) : Host.Outcome State Fault Refusal :=
  onLive s fun s => s.vfFlr p

/-- R20, R99, R432, R469, R487 -/
def execPartCreate (fn : Fun) (p : Part) (clusters : List (BitVec 8)) (s : State) : Host.Outcome State Fault Refusal :=
  mbRow s fn 0x0B00 (cmdPartCreate fn p clusters)

/-- R99, R399, R432 -/
def execPartDestroy (fn : Fun) (p : Part) (s : State) : Host.Outcome State Fault Refusal :=
  mbRow s fn 0x0B01 (cmdPartDestroy fn p)

/-- R403, R432 -/
def execPartRings (fn : Fun) (p : Part) (rings : List RingSet) (s : State) : Host.Outcome State Fault Refusal :=
  mbRow s fn 0x0B02 (cmdPartRings fn p rings)

/-- R432 -/
def execPartServe (fn : Fun) (p : Part) (auto : Bool) (admits : Nat) (pchunk : Nat) (layerch : Nat) (layeren : Bool) (inarea : Word64) (verdict : Word64) (save : Word64) (s : State) : Host.Outcome State Fault Refusal :=
  mbRow s fn 0x0B03 (cmdPartServe fn p auto admits pchunk layerch layeren inarea.toNat verdict.toNat save.toNat)

/-- R417, R432 -/
def execAdapterPut (fn : Fun) (p : Part) (aid : Nat) (addr : Word64) (bytes : Nat) (s : State) : Host.Outcome State Fault Refusal :=
  mbRow s fn 0x0B04 (cmdAdapterPut fn p aid addr.toNat bytes)

/-- R417, R432 -/
def execAdapterDrop (fn : Fun) (p : Part) (aid : Nat) (s : State) : Host.Outcome State Fault Refusal :=
  mbRow s fn 0x0B05 (cmdAdapterDrop fn p aid)

/-- R418, R432, R487 -/
def execWeightDir (fn : Fun) (p : Part) (addr : Word64) (s : State) : Host.Outcome State Fault Refusal :=
  mbRow s fn 0x0B06 (cmdWeightDir fn p addr.toNat)

/-- R426, R432 -/
def execSliceSet (fn : Fun) (p : Part) (grp : Nat) (quantum : Nat) (prio : Nat) (s : State) : Host.Outcome State Fault Refusal :=
  mbRow s fn 0x0B07 (cmdSliceSet fn p grp quantum prio)

/-- R432, R433 -/
def execServeStats (fn : Fun) (p : Part) (clr : Bool) (s : State) : Host.Outcome State Fault Refusal :=
  mbRow s fn 0x0B08 (cmdServeStats fn p clr)

end Sys2Proof.Machine
end

