-- ==== Sys2Proof/Machine/TileRows.lean ====
section
/-! DEFINITION. The meanings of the rows of chapters 2 to 5: arithmetic and Winnow, the tile and its engines, the tile instructions,
programs and synchronisation. -/

namespace Sys2Proof.Machine

/-! ## Chapter 2 -/

/-- R71 -/
def execArithSeed (fn : Fun) (p : Part) (seed : Word64) (s : State) : Host.Outcome State Fault Refusal :=
  mbRow s fn 0x0210 (cmdArithSeed fn p seed.toNat)

/-- R71 -/
def execWinnowSet (fn : Fun) (rate : Nat) (sample : Bool) (fault : Bool) (s : State) : Host.Outcome State Fault Refusal :=
  mbRow s fn 0x0211 (cmdWinnowSet fn rate sample fault)

/-- R71 -/
def execArithStats (fn : Fun) (p : Part) (clr : Bool) (s : State) : Host.Outcome State Fault Refusal :=
  mbRow s fn 0x0212 (cmdArithStats fn p clr)

/-- R68 to R70 -/
def execWinnowCompare (d : CDie) (s : State) : Host.Outcome State Fault Refusal :=
  onLive s fun s => s.winnowCompare d

/-- R73 -/
def execWnwLogptrCntclr (d : CDie) (s : State) : Host.Outcome State Fault Refusal :=
  onLive s fun s => s.winnowCntClear d

/-- R70, R73 -/
def execWnwLogptrLostclr (d : CDie) (s : State) : Host.Outcome State Fault Refusal :=
  onLive s fun s => s.fset (R.WNW_LOGPTR d) F.WNW_LOGPTR_LOST 0

/-- R74 -/
def execTilArstatCntclr (g : Tile) (s : State) : Host.Outcome State Fault Refusal :=
  onLive s fun s => s.arClear g

/-- R56: a write takes effect at a step boundary, and every meaning of the VE begins and ends on one -/
def execTilRngWrite (g : Tile) (v : Word64) (s : State) : Host.Outcome State Fault Refusal :=
  onLive s fun s => s.fset (R.TIL_RNG g) F.TIL_RNG_STATE v.toNat

/-! ## Chapter 3 -/

/-- R78, R131, R163; `i` is the number of the instruction in flight -/
def execInstructionComplete (g : Tile) (e : Eng) (i : Nat) (s : State) : Host.Outcome State Fault Refusal :=
  onLive s fun s => s.completeRec g e i

/-- R126, R127 -/
def execFetchPacketReturn (g : Tile) (e : Eng) (failed : Bool) (s : State) : Host.Outcome State Fault Refusal :=
  onLive s fun s => s.fetchReturn g e failed

/-- R127 -/
def execFetchPacketTimeout (g : Tile) (e : Eng) (s : State) : Host.Outcome State Fault Refusal :=
  onLive s fun s => s.fetchReturn g e true

/-- R91, R98, R159, R160, R191 to R193: one unit at the arrival port, with the bank requests of the cycle -/
def execArrivalUnit (g : Tile) (reqs : List BankReq) (s : State) : Host.Outcome State Fault Refusal :=
  onLive s fun s => 
    let c := s.contests g reqs
    if c.2.contains 0 then c.1 else c.1.arrive g

/-- R77, R105, R117 to R119, R162: one tile cycle of an engine -/
def execInstructionIssue (g : Tile) (e : Eng) (reqs : List BankReq) (s : State) : Host.Outcome State Fault Refusal :=
  onLive s fun s => s.issue g e reqs

/-- R95, R97 -/
def execBnkPwrWrite (g : Tile) (b : Fin 32) (code : Fin 4) (s : State) : Host.Outcome State Fault Refusal :=
  onLive s fun s => s.bankTarget g b code

/-- R96, R97 -/
def execBankTransitionEnd (g : Tile) (b : Fin 32) (s : State) : Host.Outcome State Fault Refusal :=
  onLive s fun s => s.bankOn g b

/-- R104 -/
def execTilCtlRun (g : Tile) (run : BitVec 6) (s : State) : Host.Outcome State Fault Refusal :=
  onLive s fun s => s.setRun g run.toNat

/-- R104 -/
def execTilCtlIlv (g : Tile) (v : Fin 8) (s : State) : Host.Outcome State Fault Refusal :=
  onLive s fun s => s.ilvWrite g v

/-- R101, R174, R208 -/
def execSrst (g : Tile) (s : State) : Host.Outcome State Fault Refusal :=
  onLive s fun s => s.tileReset g

/-- R106 -/
def execTilFaultClr (g : Tile) (s : State) : Host.Outcome State Fault Refusal :=
  onLive s fun s => s.faultClr g

/-- R115 -/
def execBnkDctlGo (g : Tile) (wr : Bool) (psn : BitVec 2) (s : State) : Host.Outcome State Fault Refusal :=
  onLive s fun s => s.debugGo g wr psn.toNat

/-- R98, R115 -/
def execDebugLineDone (g : Tile) (s : State) : Host.Outcome State Fault Refusal :=
  onLive s fun s => s.debugDone g

/-- R123, R208, R274 -/
def execTilCntctlClr (g : Tile) (s : State) : Host.Outcome State Fault Refusal :=
  onLive s fun s => s.cntClear g

/-- R102 -/
def execTileRun (fn : Fun) (p : Part) (ts : TileSet) (engs : BitVec 6) (run : Bool) (s : State) : Host.Outcome State Fault Refusal :=
  mbRow s fn 0x0300 (cmdTileRun fn p ts engs.toNat run)

/-- R102 -/
def execTileStatus (fn : Fun) (p : Part) (s : State) : Host.Outcome State Fault Refusal :=
  mbRow s fn 0x0301 (cmdTileStatus fn p)

/-- R102 -/
def execLoftPower (fn : Fun) (p : Part) (ts : TileSet) (banks : Word32) (pw : Pwr) (s : State) : Host.Outcome State Fault Refusal :=
  mbRow s fn 0x0302 (cmdLoftPower fn p ts banks.toNat pw)

/-- R102 -/
def execLoftRead (fn : Fun) (g : Tile) (addr : Nat) (n : Nat) (s : State) : Host.Outcome State Fault Refusal :=
  mbRow s fn 0x0303 (cmdLoftRead fn g addr n)

/-- R102 -/
def execLoftWrite (fn : Fun) (g : Tile) (addr : Nat) (data : List Byte) (psn : List Bool) (s : State) : Host.Outcome State Fault Refusal :=
  mbRow s fn 0x0304 (cmdLoftWrite fn g addr data psn)

/-- R102 -/
def execTileStats (fn : Fun) (p : Part) (clr : Bool) (s : State) : Host.Outcome State Fault Refusal :=
  mbRow s fn 0x0305 (cmdTileStats fn p clr)

/-- R102 -/
def execTileReset (fn : Fun) (p : Part) (ts : TileSet) (s : State) : Host.Outcome State Fault Refusal :=
  mbRow s fn 0x0306 (cmdTileReset fn p ts)

/-- R102 -/
def execTileConfig (fn : Fun) (p : Part) (ts : TileSet) (ilv : Nat) (s : State) : Host.Outcome State Fault Refusal :=
  mbRow s fn 0x0307 (cmdTileConfig fn p ts ilv)

/-! ## Chapter 4: the instructions, each past its wait and at its issue stage -/

/-- R133 -/
def execNop (g : Tile) (e : Eng) (h : Sig) (s : State) : Host.Outcome State Fault Refusal :=
  onLive s fun s => s.row g e h .nop

/-- R133 -/
def execFence (g : Tile) (e : Eng) (h : Sig) (s : State) : Host.Outcome State Fault Refusal :=
  onLive s fun s => s.row g e h .fence

/-- R133 -/
def execEndStream (g : Tile) (e : Eng) (h : Sig) (s : State) : Host.Outcome State Fault Refusal :=
  onLive s fun s => s.row g e h .endStream

/-- R134: the checks over the whole body come first -/
def execLoop (g : Tile) (e : Eng) (h : Sig) (k : Fin 4) (n : BitVec 16) (len : Nat) (s : State) : Host.Outcome State Fault Refusal :=
  onLive s fun s => s.loopRow g e h k n.toNat len

/-- R135 -/
def execJmp (g : Tile) (e : Eng) (h : Sig) (off : BitVec 30) (s : State) : Host.Outcome State Fault Refusal :=
  onLive s fun s => s.row g e h (.jmp (sext 30 off.toNat))

/-- R136, R543 -/
def execBrv (g : Tile) (e : Eng) (h : Sig) (point : BitVec 8) (v : Nat) (s : State) : Host.Outcome State Fault Refusal :=
  onLive s fun s => s.row g e h (.brv point.toNat v)

/-- R165 -/
def execYield (g : Tile) (e : Eng) (h : Sig) (yid : BitVec 16) (s : State) : Host.Outcome State Fault Refusal :=
  onLive s fun s => s.row g e h (.yield yid.toNat)

/-- R138 -/
def execHint (g : Tile) (e : Eng) (h : Sig) (cls : Nat) (lead : BitVec 12) (dur : BitVec 12) (level : Fin 4) (s : State) : Host.Outcome State Fault Refusal :=
  onLive s fun s => s.row g e h (.hint cls lead.toNat dur.toNat level)

/-- R150 -/
def execLd (g : Tile) (h : Sig) (da : Fin 64) (db : Fin 64) (s : State) : Host.Outcome State Fault Refusal :=
  onLive s fun s => s.row g .le h (.ld da db)

/-- R150, R254, R257 -/
def execLdq (g : Tile) (h : Sig) (n : Nat) (s : State) : Host.Outcome State Fault Refusal :=
  onLive s fun s => s.row g .le h (.ldq n)

/-- R150 -/
def execCpy (g : Tile) (h : Sig) (da : Fin 64) (db : Fin 64) (s : State) : Host.Outcome State Fault Refusal :=
  onLive s fun s => s.row g .le h (.cpy da db)

/-- R150, R151 -/
def execAcopy (g : Tile) (h : Sig) (da : Fin 64) (db : Fin 64) (s : State) : Host.Outcome State Fault Refusal :=
  onLive s fun s => s.row g .le h (.acopy da db)

/-- R150 -/
def execLdd (g : Tile) (h : Sig) (eng : Nat) (off : BitVec 27) (s : State) : Host.Outcome State Fault Refusal :=
  onLive s fun s => s.row g .le h (.ldd eng off.toNat)

/-- R83 to R86, R152, R153, R544 -/
def execMm (g : Tile) (h : Sig) (da : Fin 64) (db : Fin 64) (dc : Fin 64) (strip : Fin 4) (acc : Bool) (mq : Bool) (s : State) : Host.Outcome State Fault Refusal :=
  onLive s fun s => s.row g .me h (.mm da db dc strip acc mq)

/-- R50 to R56, R154 -/
def execRq (g : Tile) (h : Sig) (da : Fin 64) (db : Fin 64) (dc : Fin 64) (s : State) : Host.Outcome State Fault Refusal :=
  onLive s fun s => s.row g .ve h (.rq da db dc)

/-- R60, R154 -/
def execNorm (g : Tile) (h : Sig) (da : Fin 64) (db : Fin 64) (dc : Fin 64) (s : State) : Host.Outcome State Fault Refusal :=
  onLive s fun s => s.row g .ve h (.norm da db dc)

/-- R154 -/
def execEmul (g : Tile) (h : Sig) (da : Fin 64) (db : Fin 64) (dc : Fin 64) (relu : Bool) (s : State) : Host.Outcome State Fault Refusal :=
  onLive s fun s => s.row g .ve h (.emul da db dc relu)

/-- R154, R542 -/
def execLane (g : Tile) (h : Sig) (da : Fin 64) (db : Fin 64) (dc : Fin 64) (op : Nat) (s : State) : Host.Outcome State Fault Refusal :=
  onLive s fun s => s.row g .ve h (.lane da db dc op)

/-- R57 to R59, R154 -/
def execFn (g : Tile) (h : Sig) (da : Fin 64) (dc : Fin 64) (f : Nat) (s : State) : Host.Outcome State Fault Refusal :=
  onLive s fun s => s.row g .ve h (.fn da dc f)

/-- R154 -/
def execRed (g : Tile) (h : Sig) (da : Fin 64) (dc : Fin 64) (mx : Bool) (s : State) : Host.Outcome State Fault Refusal :=
  onLive s fun s => s.row g .ve h (.red da dc mx)

/-- R154, R257 -/
def execSmx (g : Tile) (h : Sig) (da : Fin 64) (db : Fin 64) (dc : Fin 64) (s : State) : Host.Outcome State Fault Refusal :=
  onLive s fun s => s.row g .ve h (.smx da db dc)

/-- R156, R243 to R258 -/
def execWalk (g : Tile) (h : Sig) (da : Fin 64) (s : State) : Host.Outcome State Fault Refusal :=
  onLive s fun s => s.row g .aw h (.walk da)

/-- R157 -/
def execSt (g : Tile) (h : Sig) (da : Fin 64) (db : Fin 64) (s : State) : Host.Outcome State Fault Refusal :=
  onLive s fun s => s.row g .se h (.st da db)

/-- R49, R157 -/
def execSta (g : Tile) (h : Sig) (da : Fin 64) (db : Fin 64) (s : State) : Host.Outcome State Fault Refusal :=
  onLive s fun s => s.row g .se h (.sta da db)

/-- R157 -/
def execAtom (g : Tile) (h : Sig) (da : Fin 64) (db : Fin 64) (op : Nat) (s : State) : Host.Outcome State Fault Refusal :=
  onLive s fun s => s.row g .se h (.atom da db op)

/-- R158 -/
def execSend (g : Tile) (h : Sig) (da : Fin 64) (seg : Bool) (empty : Bool) (s : State) : Host.Outcome State Fault Refusal :=
  onLive s fun s => s.row g .ne h (.send da seg empty)

/-- R158 -/
def execRecv (g : Tile) (h : Sig) (db : Fin 64) (seg : Bool) (s : State) : Host.Outcome State Fault Refusal :=
  onLive s fun s => s.row g .ne h (.recv db seg)

/-- R165 -/
def execTilePark (g : Tile) (s : State) : Host.Outcome State Fault Refusal :=
  onLive s fun s => s.park g

/-- R165 -/
def execTilYreqWrite (g : Tile) (req : Bool) (s : State) : Host.Outcome State Fault Refusal :=
  onLive s fun s => s.yreqWrite g req

/-- R128 -/
def execTilSpcWrite (g : Tile) (e : Eng) (off : Nat) (s : State) : Host.Outcome State Fault Refusal :=
  onLive s fun s => s.spcWrite g e off

/-- R167 -/
def execTilPbaseWrite (g : Tile) (addr : Word64) (s : State) : Host.Outcome State Fault Refusal :=
  onLive s fun s => s.pbaseWrite g addr.toNat

/-- R173 -/
def execTilDbaseWrite (g : Tile) (e : Eng) (base : Nat) (s : State) : Host.Outcome State Fault Refusal :=
  onLive s fun s => s.dbaseWrite g e base

/-- R136, R168 -/
def execTilVarWrite (g : Tile) (j : Fin 4) (point : BitVec 8) (variant : BitVec 6) (valid : Bool) (s : State) : Host.Outcome State Fault Refusal :=
  onLive s fun s => s.varWrite g j point.toNat variant.toNat valid

/-- R166 -/
def execProgLoad (fn : Fun) (p : Part) (addr : Word64) (ts : TileSet) (s : State) : Host.Outcome State Fault Refusal :=
  mbRow s fn 0x0400 (cmdProgLoad fn p addr.toNat ts)

/-- R166, R205 -/
def execProgStart (fn : Fun) (p : Part) (ts : TileSet) (k : Nat) (init : Bool) (s : State) : Host.Outcome State Fault Refusal :=
  mbRow s fn 0x0401 (cmdProgStart fn p ts k init)

/-- R166 -/
def execProgWhere (fn : Fun) (g : Tile) (s : State) : Host.Outcome State Fault Refusal :=
  mbRow s fn 0x0402 (cmdProgWhere fn g)

/-! ## Chapter 5 -/

/-- R181, R183, R185 -/
def execSemaphoreSignal (g : Tile) (e : Eng) (a : Fin 63) (inc : Nat) (iaddr : Word32) (s : State) : Host.Outcome State Fault Refusal :=
  onLive s fun s => s.applySignal g e a inc iaddr.toNat

/-- R183 to R185 -/
def execPoolBatch (g : Tile) (s : State) : Host.Outcome State Fault Refusal :=
  onLive s fun s => s.poolBatch g

/-- R188 to R190 -/
def execWaitTimerExpiry (g : Tile) (e : Eng) (s : State) : Host.Outcome State Fault Refusal :=
  onLive s fun s => s.timerExpiry g e

/-- R192, R193 -/
def execSegmentClose (g : Tile) (n : Fin 64) (s : State) : Host.Outcome State Fault Refusal :=
  onLive s fun s => s.syncDeliver (.segClose g n)

/-- R196, R197 -/
def execBarrierArrival (node : BNode) (ch : Fin 64) (child : Nat) (e : Eng) (iaddr : Word32) (s : State) : Host.Outcome State Fault Refusal :=
  onLive s fun s => s.barArrive node ch child (some e) iaddr.toNat

/-- R196 -/
def execBarrierRelease (node : BNode) (ch : Fin 64) (s : State) : Host.Outcome State Fault Refusal :=
  onLive s fun s => if s.releasable node ch then s.barRelease node ch else s

/-- R200 -/
def execPknSarr (ch : Fin 64) (s : State) : Host.Outcome State Fault Refusal :=
  onLive s fun s => s.sarr ch

/-- R180, R183 -/
def execSynSemWrite (d : CDie) (i : Fin 2048) (value : Word32) (s : State) : Host.Outcome State Fault Refusal :=
  onLive s fun s => s.semWrite d i value.toNat

/-- R206 -/
def execTilAliasWrite (g : Tile) (a : Fin 63) (value : Word32) (s : State) : Host.Outcome State Fault Refusal :=
  onLive s fun s => s.aliasWrite g a value.toNat

/-- R207 -/
def execTilArcWrite (g : Tile) (n : Fin 64) (value : Word64) (s : State) : Host.Outcome State Fault Refusal :=
  onLive s fun s => s.arcWrite g n value.toNat

/-- R200, R209 -/
def execNodeChannelWrite (node : BNode) (ch : Fin 64) (value : Word64) (s : State) : Host.Outcome State Fault Refusal :=
  onLive s fun s => s.nodeWrite node ch value.toNat

/-- R205 -/
def execSyncMap (fn : Fun) (p : Part) (g : Tile) (a : Nat) (type : Nat) (idx : Nat) (count : Nat) (quant : Nat) (mode : Nat) (s : State) : Host.Outcome State Fault Refusal :=
  mbRow s fn 0x0501 (cmdSyncMap fn p g a type idx count quant mode)

/-- R205 -/
def execSyncChannel (fn : Fun) (p : Part) (ch : Nat) (ts : TileSet) (scope : Nat) (schild : Bool) (s : State) : Host.Outcome State Fault Refusal :=
  mbRow s fn 0x0502 (cmdSyncChannel fn p ch ts scope schild)

/-- R205 -/
def execSyncTimeout (fn : Fun) (p : Part) (ts : TileSet) (j : Nat) (cycles : Word32) (s : State) : Host.Outcome State Fault Refusal :=
  mbRow s fn 0x0503 (cmdSyncTimeout fn p ts j cycles.toNat)

/-- R205 -/
def execSyncRearm (fn : Fun) (p : Part) (g : Tile) (n : Nat) (count : Nat) (s : State) : Host.Outcome State Fault Refusal :=
  mbRow s fn 0x0504 (cmdSyncRearm fn p g n count)

/-- R205 -/
def execSyncStatus (fn : Fun) (p : Part) (clr : Bool) (s : State) : Host.Outcome State Fault Refusal :=
  mbRow s fn 0x0505 (cmdSyncStatus fn p clr)

end Sys2Proof.Machine
end

