-- ==== Sys2Proof/Machine/Dispatch.lean ====
section
/-! DEFINITION. The dispatch of a command to its meaning: one arm per row of the opcode table. -/

namespace Sys2Proof.Machine

def exec (i : Instr) (s : State) : Host.Outcome State Fault Refusal :=
  match i with
  | .registerWrite fn addr bytes value => Sys2Proof.Machine.execRegisterWrite fn addr bytes value s
  | .mbDbGo fn => Sys2Proof.Machine.execMbDbGo fn s
  | .mailboxTakeUp => Sys2Proof.Machine.execMailboxTakeUp s
  | .fwInfo fn => Sys2Proof.Machine.execFwInfo fn s
  | .pkgLocate fn rack => Sys2Proof.Machine.execPkgLocate fn rack s
  | .stwLocWrite value => Sys2Proof.Machine.execStwLocWrite value s
  | .bridgeRetrainTimeout m => Sys2Proof.Machine.execBridgeRetrainTimeout m s
  | .adapterRetry m => Sys2Proof.Machine.execAdapterRetry m s
  | .islandHandshake src dst => Sys2Proof.Machine.execIslandHandshake src dst s
  | .arithSeed fn p seed => Sys2Proof.Machine.execArithSeed fn p seed s
  | .winnowSet fn rate sample fault => Sys2Proof.Machine.execWinnowSet fn rate sample fault s
  | .arithStats fn p clr => Sys2Proof.Machine.execArithStats fn p clr s
  | .winnowCompare d => Sys2Proof.Machine.execWinnowCompare d s
  | .wnwLogptrCntclr d => Sys2Proof.Machine.execWnwLogptrCntclr d s
  | .wnwLogptrLostclr d => Sys2Proof.Machine.execWnwLogptrLostclr d s
  | .tilArstatCntclr g => Sys2Proof.Machine.execTilArstatCntclr g s
  | .tilRngWrite g v => Sys2Proof.Machine.execTilRngWrite g v s
  | .instructionComplete g e k => Sys2Proof.Machine.execInstructionComplete g e k s
  | .fetchPacketReturn g e failed => Sys2Proof.Machine.execFetchPacketReturn g e failed s
  | .fetchPacketTimeout g e => Sys2Proof.Machine.execFetchPacketTimeout g e s
  | .arrivalUnit g reqs => Sys2Proof.Machine.execArrivalUnit g reqs s
  | .instructionIssue g e reqs => Sys2Proof.Machine.execInstructionIssue g e reqs s
  | .bnkPwrWrite g b code => Sys2Proof.Machine.execBnkPwrWrite g b code s
  | .bankTransitionEnd g b => Sys2Proof.Machine.execBankTransitionEnd g b s
  | .tilCtlRun g run => Sys2Proof.Machine.execTilCtlRun g run s
  | .tilCtlIlv g v => Sys2Proof.Machine.execTilCtlIlv g v s
  | .srst g => Sys2Proof.Machine.execSrst g s
  | .tilFaultClr g => Sys2Proof.Machine.execTilFaultClr g s
  | .bnkDctlGo g wr psn => Sys2Proof.Machine.execBnkDctlGo g wr psn s
  | .debugLineDone g => Sys2Proof.Machine.execDebugLineDone g s
  | .tilCntctlClr g => Sys2Proof.Machine.execTilCntctlClr g s
  | .tileRun fn p ts engs run => Sys2Proof.Machine.execTileRun fn p ts engs run s
  | .tileStatus fn p => Sys2Proof.Machine.execTileStatus fn p s
  | .loftPower fn p ts banks pw => Sys2Proof.Machine.execLoftPower fn p ts banks pw s
  | .loftRead fn g addr n => Sys2Proof.Machine.execLoftRead fn g addr n s
  | .loftWrite fn g addr data psn => Sys2Proof.Machine.execLoftWrite fn g addr data psn s
  | .tileStats fn p clr => Sys2Proof.Machine.execTileStats fn p clr s
  | .tileReset fn p ts => Sys2Proof.Machine.execTileReset fn p ts s
  | .tileConfig fn p ts ilv => Sys2Proof.Machine.execTileConfig fn p ts ilv s
  | .nop g e h => Sys2Proof.Machine.execNop g e h s
  | .fence g e h => Sys2Proof.Machine.execFence g e h s
  | .endStream g e h => Sys2Proof.Machine.execEndStream g e h s
  | .loop g e h k n len => Sys2Proof.Machine.execLoop g e h k n len s
  | .jmp g e h off => Sys2Proof.Machine.execJmp g e h off s
  | .brv g e h point v => Sys2Proof.Machine.execBrv g e h point v s
  | .yield g e h yid => Sys2Proof.Machine.execYield g e h yid s
  | .hint g e h cls lead dur level => Sys2Proof.Machine.execHint g e h cls lead dur level s
  | .ld g h da db => Sys2Proof.Machine.execLd g h da db s
  | .ldq g h n => Sys2Proof.Machine.execLdq g h n s
  | .cpy g h da db => Sys2Proof.Machine.execCpy g h da db s
  | .acopy g h da db => Sys2Proof.Machine.execAcopy g h da db s
  | .ldd g h eng off => Sys2Proof.Machine.execLdd g h eng off s
  | .mm g h da db dc strip acc mq => Sys2Proof.Machine.execMm g h da db dc strip acc mq s
  | .rq g h da db dc => Sys2Proof.Machine.execRq g h da db dc s
  | .norm g h da db dc => Sys2Proof.Machine.execNorm g h da db dc s
  | .emul g h da db dc relu => Sys2Proof.Machine.execEmul g h da db dc relu s
  | .lane g h da db dc op => Sys2Proof.Machine.execLane g h da db dc op s
  | .fn g h da dc f => Sys2Proof.Machine.execFn g h da dc f s
  | .red g h da dc mx => Sys2Proof.Machine.execRed g h da dc mx s
  | .smx g h da db dc => Sys2Proof.Machine.execSmx g h da db dc s
  | .walk g h da => Sys2Proof.Machine.execWalk g h da s
  | .st g h da db => Sys2Proof.Machine.execSt g h da db s
  | .sta g h da db => Sys2Proof.Machine.execSta g h da db s
  | .atom g h da db op => Sys2Proof.Machine.execAtom g h da db op s
  | .send g h da seg empty => Sys2Proof.Machine.execSend g h da seg empty s
  | .recv g h db seg => Sys2Proof.Machine.execRecv g h db seg s
  | .tilePark g => Sys2Proof.Machine.execTilePark g s
  | .tilYreqWrite g req => Sys2Proof.Machine.execTilYreqWrite g req s
  | .tilSpcWrite g e off => Sys2Proof.Machine.execTilSpcWrite g e off s
  | .tilPbaseWrite g addr => Sys2Proof.Machine.execTilPbaseWrite g addr s
  | .tilDbaseWrite g e base => Sys2Proof.Machine.execTilDbaseWrite g e base s
  | .tilVarWrite g j point variant valid => Sys2Proof.Machine.execTilVarWrite g j point variant valid s
  | .progLoad fn p addr ts => Sys2Proof.Machine.execProgLoad fn p addr ts s
  | .progStart fn p ts k init => Sys2Proof.Machine.execProgStart fn p ts k init s
  | .progWhere fn g => Sys2Proof.Machine.execProgWhere fn g s
  | .semaphoreSignal g e a inc iaddr => Sys2Proof.Machine.execSemaphoreSignal g e a inc iaddr s
  | .poolBatch g => Sys2Proof.Machine.execPoolBatch g s
  | .waitTimerExpiry g e => Sys2Proof.Machine.execWaitTimerExpiry g e s
  | .segmentClose g n => Sys2Proof.Machine.execSegmentClose g n s
  | .barrierArrival node ch child e iaddr => Sys2Proof.Machine.execBarrierArrival node ch child e iaddr s
  | .barrierRelease node ch => Sys2Proof.Machine.execBarrierRelease node ch s
  | .pknSarr ch => Sys2Proof.Machine.execPknSarr ch s
  | .synSemWrite d k value => Sys2Proof.Machine.execSynSemWrite d k value s
  | .tilAliasWrite g a value => Sys2Proof.Machine.execTilAliasWrite g a value s
  | .tilArcWrite g n value => Sys2Proof.Machine.execTilArcWrite g n value s
  | .nodeChannelWrite node ch value => Sys2Proof.Machine.execNodeChannelWrite node ch value s
  | .syncQuota fn p dies groups => Sys2Proof.Machine.execSyncQuota fn p dies groups s
  | .syncMap fn p g a type idx count quant mode => Sys2Proof.Machine.execSyncMap fn p g a type idx count quant mode s
  | .syncChannel fn p ch ts scope schild => Sys2Proof.Machine.execSyncChannel fn p ch ts scope schild s
  | .syncTimeout fn p ts j cycles => Sys2Proof.Machine.execSyncTimeout fn p ts j cycles s
  | .syncRearm fn p g n count => Sys2Proof.Machine.execSyncRearm fn p g n count s
  | .syncStatus fn p clr => Sys2Proof.Machine.execSyncStatus fn p clr s
  | .routeMove d r o => Sys2Proof.Machine.execRouteMove d r o s
  | .routeLoop d r o => Sys2Proof.Machine.execRouteLoop d r o s
  | .routeBrv d r o => Sys2Proof.Machine.execRouteBrv d r o s
  | .routeJump d r o => Sys2Proof.Machine.execRouteJump d r o s
  | .routeHalt d r o => Sys2Proof.Machine.execRouteHalt d r o s
  | .routestall d r o => Sys2Proof.Machine.execRoutestall d r o s
  | .bnetStart d p => Sys2Proof.Machine.execBnetStart d p s
  | .bnetVarWrite d j point variant valid => Sys2Proof.Machine.execBnetVarWrite d j point variant valid s
  | .bnetRpdataWrite d value => Sys2Proof.Machine.execBnetRpdataWrite d value s
  | .bnetFaultClr d => Sys2Proof.Machine.execBnetFaultClr d s
  | .gatewayRequest d port => Sys2Proof.Machine.execGatewayRequest d port s
  | .gatewayDataReturn d id units => Sys2Proof.Machine.execGatewayDataReturn d id units s
  | .gatewayBoundExpiry d id => Sys2Proof.Machine.execGatewayBoundExpiry d id s
  | .gwQcfgWrite fn d q value => Sys2Proof.Machine.execGwQcfgWrite fn d q value s
  | .controlPacket typ dst src srcId tag err addr payload => Sys2Proof.Machine.execControlPacket typ dst src srcId tag err addr payload s
  | .syncMessage src dst => Sys2Proof.Machine.execSyncMessage src dst s
  | .routePorts fn p d outs queues => Sys2Proof.Machine.execRoutePorts fn p d outs queues s
  | .routeLoad fn p d addr => Sys2Proof.Machine.execRouteLoad fn p d addr s
  | .routeStart fn p dies => Sys2Proof.Machine.execRouteStart fn p dies s
  | .netStatus fn p => Sys2Proof.Machine.execNetStatus fn p s
  | .netStats fn p clr => Sys2Proof.Machine.execNetStats fn p clr s
  | .dieCntctlClr d => Sys2Proof.Machine.execDieCntctlClr d s
  | .leFetchEntry g => Sys2Proof.Machine.execLeFetchEntry g s
  | .meTStrip g => Sys2Proof.Machine.execMeTStrip g s
  | .meSStrip g => Sys2Proof.Machine.execMeSStrip g s
  | .meOStrip g => Sys2Proof.Machine.execMeOStrip g s
  | .veQStep g => Sys2Proof.Machine.execVeQStep g s
  | .veXStep g => Sys2Proof.Machine.execVeXStep g s
  | .veFStep g => Sys2Proof.Machine.execVeFStep g s
  | .kvLayout fn kf hw blk nslot nrb => Sys2Proof.Machine.execKvLayout fn kf hw blk nslot nrb s
  | .walkCheck fn p daddr taddr => Sys2Proof.Machine.execWalkCheck fn p daddr taddr s
  | .attnStats fn p clr => Sys2Proof.Machine.execAttnStats fn p clr s
  | .scoreSegment d => Sys2Proof.Machine.execScoreSegment d s
  | .confidenceUnit d => Sys2Proof.Machine.execConfidenceUnit d s
  | .countReport p => Sys2Proof.Machine.execCountReport p s
  | .countRowTimeout p => Sys2Proof.Machine.execCountRowTimeout p s
  | .pointDecide p => Sys2Proof.Machine.execPointDecide p s
  | .exitPointDecide p => Sys2Proof.Machine.execExitPointDecide p s
  | .exchangeCopy l port => Sys2Proof.Machine.execExchangeCopy l port s
  | .runHeaderPresent l q => Sys2Proof.Machine.execRunHeaderPresent l q s
  | .copyTimeout p => Sys2Proof.Machine.execCopyTimeout p s
  | .planLoad fn p addr => Sys2Proof.Machine.execPlanLoad fn p addr s
  | .routeConfig fn p dies k nexp nsh gate npos => Sys2Proof.Machine.execRouteConfig fn p dies k nexp nsh gate npos s
  | .routeStats fn p clr => Sys2Proof.Machine.execRouteStats fn p clr s
  | .stepStatus fn p => Sys2Proof.Machine.execStepStatus fn p s
  | .stepSpillbuf fn p addr size => Sys2Proof.Machine.execStepSpillbuf fn p addr size s
  | .rteCfgWrite d second value => Sys2Proof.Machine.execRteCfgWrite d second value s
  | .rteCntctlClr d => Sys2Proof.Machine.execRteCntctlClr d s
  | .stepCntclr p => Sys2Proof.Machine.execStepCntclr p s
  | .memoryRequest d id => Sys2Proof.Machine.execMemoryRequest d id s
  | .mapEntryRead d page => Sys2Proof.Machine.execMapEntryRead d page s
  | .moveStart m => Sys2Proof.Machine.execMoveStart m s
  | .moveComplete page => Sys2Proof.Machine.execMoveComplete page s
  | .moveFail page => Sys2Proof.Machine.execMoveFail page s
  | .accAge => Sys2Proof.Machine.execAccAge s
  | .channelTrain n dimm fail1 fail2 => Sys2Proof.Machine.execChannelTrain n dimm fail1 fail2 s
  | .moduleTempPoll n temp => Sys2Proof.Machine.execModuleTempPoll n temp s
  | .burstRead d id u bad => Sys2Proof.Machine.execBurstRead d id u bad s
  | .partialWrite d id bad => Sys2Proof.Machine.execPartialWrite d id bad s
  | .mvCmdGo m tgt => Sys2Proof.Machine.execMvCmdGo m tgt s
  | .memRgnWrite fn tab p r upper => Sys2Proof.Machine.execMemRgnWrite fn tab p r upper s
  | .memRegion fn p base size kind home enc reserve => Sys2Proof.Machine.execMemRegion fn p base size kind home enc reserve s
  | .memFree fn p base => Sys2Proof.Machine.execMemFree fn p base s
  | .memQuota fn p tier frames => Sys2Proof.Machine.execMemQuota fn p tier frames s
  | .memRegulate fn p tier rate depth on => Sys2Proof.Machine.execMemRegulate fn p tier rate depth on s
  | .memBound fn p bay cellar => Sys2Proof.Machine.execMemBound fn p bay cellar s
  | .memMove fn p addr pages tgt pkg hosts => Sys2Proof.Machine.execMemMove fn p addr pages tgt pkg hosts s
  | .memQuery fn addr => Sys2Proof.Machine.execMemQuery fn addr s
  | .streamSet fn p w on => Sys2Proof.Machine.execStreamSet fn p w on s
  | .memStats fn p clr => Sys2Proof.Machine.execMemStats fn p clr s
  | .memRetired fn m restore => Sys2Proof.Machine.execMemRetired fn m restore s
  | .memChannels fn => Sys2Proof.Machine.execMemChannels fn s
  | .linkTrain k lanes ctrOk beacons => Sys2Proof.Machine.execLinkTrain k lanes ctrOk beacons s
  | .linkDown k why => Sys2Proof.Machine.execLinkDown k why s
  | .linkRetrain k lanes ctrOk beacons => Sys2Proof.Machine.execLinkRetrain k lanes ctrOk beacons s
  | .idleFlit k => Sys2Proof.Machine.execIdleFlit k s
  | .flitReceive k flit fecCorr fecUnc => Sys2Proof.Machine.execFlitReceive k flit fecCorr fecUnc s
  | .flitReplay k => Sys2Proof.Machine.execFlitReplay k s
  | .beacon k round payload => Sys2Proof.Machine.execBeacon k round payload s
  | .loadMsg k second => Sys2Proof.Machine.execLoadMsg k second s
  | .ldata k second => Sys2Proof.Machine.execLdata k second s
  | .storeMsg k second => Sys2Proof.Machine.execStoreMsg k second s
  | .accstore k second => Sys2Proof.Machine.execAccstore k second s
  | .placeMsg k second => Sys2Proof.Machine.execPlaceMsg k second s
  | .atomicMsg k second => Sys2Proof.Machine.execAtomicMsg k second s
  | .aresult k second => Sys2Proof.Machine.execAresult k second s
  | .doneMsg k second => Sys2Proof.Machine.execDoneMsg k second s
  | .copyMsg k second => Sys2Proof.Machine.execCopyMsg k second s
  | .countrow k second => Sys2Proof.Machine.execCountrow k second s
  | .pageMsg k rsp second => Sys2Proof.Machine.execPageMsg k rsp second s
  | .syncMsg k => Sys2Proof.Machine.execSyncMsg k s
  | .relayForward k cls => Sys2Proof.Machine.execRelayForward k cls s
  | .remoteBoundExpiry l tag => Sys2Proof.Machine.execRemoteBoundExpiry l tag s
  | .storeLost l tag => Sys2Proof.Machine.execStoreLost l tag s
  | .atomicRetry l tag => Sys2Proof.Machine.execAtomicRetry l tag s
  | .noticeProbe k => Sys2Proof.Machine.execNoticeProbe k s
  | .noticeProbeAnswer k => Sys2Proof.Machine.execNoticeProbeAnswer k s
  | .probeTimeout pkg => Sys2Proof.Machine.execProbeTimeout pkg s
  | .noticeLoss k => Sys2Proof.Machine.execNoticeLoss k s
  | .noticeStepAbort k => Sys2Proof.Machine.execNoticeStepAbort k s
  | .noticeParking k => Sys2Proof.Machine.execNoticeParking k s
  | .noticeRejoin k => Sys2Proof.Machine.execNoticeRejoin k s
  | .fabMap fn addr => Sys2Proof.Machine.execFabMap fn addr s
  | .fabStatus fn => Sys2Proof.Machine.execFabStatus fn s
  | .fabMode fn mode twin => Sys2Proof.Machine.execFabMode fn mode twin s
  | .fabJob fn p job => Sys2Proof.Machine.execFabJob fn p job s
  | .fabWindow fn p w lo hi base size perm on => Sys2Proof.Machine.execFabWindow fn p w lo hi base size perm on s
  | .fabBound fn p us retry => Sys2Proof.Machine.execFabBound fn p us retry s
  | .fabRegulate fn p rate depth on => Sys2Proof.Machine.execFabRegulate fn p rate depth on s
  | .fabLink fn k act => Sys2Proof.Machine.execFabLink fn k act s
  | .fabRejoin fn pkg => Sys2Proof.Machine.execFabRejoin fn pkg s
  | .fabInject fn k mode rate win => Sys2Proof.Machine.execFabInject fn k mode rate win s
  | .fabStats fn p clr => Sys2Proof.Machine.execFabStats fn p clr s
  | .fbCtlWrite l value => Sys2Proof.Machine.execFbCtlWrite l value s
  | .fbRtWrite l n value => Sys2Proof.Machine.execFbRtWrite l n value s
  | .lnkInjWrite k value => Sys2Proof.Machine.execLnkInjWrite k value s
  | .ringProdWrite fn p r value => Sys2Proof.Machine.execRingProdWrite fn p r value s
  | .ringConsWrite fn p r value => Sys2Proof.Machine.execRingConsWrite fn p r value s
  | .stepBoundary p => Sys2Proof.Machine.execStepBoundary p s
  | .stepRelease p => Sys2Proof.Machine.execStepRelease p s
  | .startItem p r => Sys2Proof.Machine.execStartItem p r s
  | .appendItem p r => Sys2Proof.Machine.execAppendItem p r s
  | .pauseItem p r => Sys2Proof.Machine.execPauseItem p r s
  | .pauseComplete p seqid => Sys2Proof.Machine.execPauseComplete p seqid s
  | .resumeItem p r => Sys2Proof.Machine.execResumeItem p r s
  | .cancelItem p r => Sys2Proof.Machine.execCancelItem p r s
  | .itemEnd p r => Sys2Proof.Machine.execItemEnd p r s
  | .stepItem p r => Sys2Proof.Machine.execStepItem p r s
  | .itemCopy p r => Sys2Proof.Machine.execItemCopy p r s
  | .wload p r => Sys2Proof.Machine.execWload p r s
  | .itemAtomic p r => Sys2Proof.Machine.execItemAtomic p r s
  | .stripeArrival p n data => Sys2Proof.Machine.execStripeArrival p n data s
  | .sequenceExpire p seqid => Sys2Proof.Machine.execSequenceExpire p seqid s
  | .quantumExpiry grp => Sys2Proof.Machine.execQuantumExpiry grp s
  | .parkTimeout p => Sys2Proof.Machine.execParkTimeout p s
  | .vfFlr p => Sys2Proof.Machine.execVfFlr p s
  | .partCreate fn p clusters => Sys2Proof.Machine.execPartCreate fn p clusters s
  | .partDestroy fn p => Sys2Proof.Machine.execPartDestroy fn p s
  | .partRings fn p rings => Sys2Proof.Machine.execPartRings fn p rings s
  | .partServe fn p auto admits pchunk layerch layeren inarea verdict save => Sys2Proof.Machine.execPartServe fn p auto admits pchunk layerch layeren inarea verdict save s
  | .adapterPut fn p aid addr bytes => Sys2Proof.Machine.execAdapterPut fn p aid addr bytes s
  | .adapterDrop fn p aid => Sys2Proof.Machine.execAdapterDrop fn p aid s
  | .weightDir fn p addr => Sys2Proof.Machine.execWeightDir fn p addr s
  | .sliceSet fn p grp quantum prio => Sys2Proof.Machine.execSliceSet fn p grp quantum prio s
  | .serveStats fn p clr => Sys2Proof.Machine.execServeStats fn p clr s
  | .clw c a b imm => Sys2Proof.Machine.execClw c a b imm s
  | .cld c a b imm => Sys2Proof.Machine.execCld c a b imm s
  | .csw c a b imm => Sys2Proof.Machine.execCsw c a b imm s
  | .csd c a b imm => Sys2Proof.Machine.execCsd c a b imm s
  | .cfn c => Sys2Proof.Machine.execCfn c s
  | .cpk c b imm => Sys2Proof.Machine.execCpk c b imm s
  | .evw c a b => Sys2Proof.Machine.execEvw c a b s
  | .tim c a => Sys2Proof.Machine.execTim c a s
  | .bce c imm => Sys2Proof.Machine.execBce c imm s
  | .bilhaCInstruction c op => Sys2Proof.Machine.execBilhaCInstruction c op s
  | .eventQueueEntry => Sys2Proof.Machine.execEventQueueEntry s
  | .allotmentPeriod others draw meas => Sys2Proof.Machine.execAllotmentPeriod others draw meas s
  | .hintReport => Sys2Proof.Machine.execHintReport s
  | .droopFire k => Sys2Proof.Machine.execDroopFire k s
  | .droopRecover k => Sys2Proof.Machine.execDroopRecover k s
  | .ageingCheck short => Sys2Proof.Machine.execAgeingCheck short s
  | .sensorSample n temp => Sys2Proof.Machine.execSensorSample n temp s
  | .thermalTrip n temp => Sys2Proof.Machine.execThermalTrip n temp s
  | .capWrite tray watts rate => Sys2Proof.Machine.execCapWrite tray watts rate s
  | .clkIslOnWrite k on => Sys2Proof.Machine.execClkIslOnWrite k on s
  | .pwrCntclrCnt => Sys2Proof.Machine.execPwrCntclrCnt s
  | .pwrCntclrBale => Sys2Proof.Machine.execPwrCntclrBale s
  | .pwrCntclrDroop => Sys2Proof.Machine.execPwrCntclrDroop s
  | .pwrOvrptrClr => Sys2Proof.Machine.execPwrOvrptrClr s
  | .pwrTsClr n => Sys2Proof.Machine.execPwrTsClr n s
  | .powerStatus fn clr => Sys2Proof.Machine.execPowerStatus fn clr s
  | .powerCap fn watts rate => Sys2Proof.Machine.execPowerCap fn watts rate s
  | .powerTarget fn p code => Sys2Proof.Machine.execPowerTarget fn p code s
  | .ballastSet fn on us => Sys2Proof.Machine.execBallastSet fn on us s
  | .thermalStatus fn clr => Sys2Proof.Machine.execThermalStatus fn clr s
  | .ageLog fn => Sys2Proof.Machine.execAgeLog fn s
  | .overrunLog fn clr => Sys2Proof.Machine.execOverrunLog fn clr s
  | .islandPower fn k on => Sys2Proof.Machine.execIslandPower fn k on s
  | .droopSet fn mv factor => Sys2Proof.Machine.execDroopSet fn mv factor s
  | .hintConfig fn us => Sys2Proof.Machine.execHintConfig fn us s
  | .secStatus fn => Sys2Proof.Machine.execSecStatus fn s
  | .secSelftest fn failTest => Sys2Proof.Machine.execSecSelftest fn failTest s
  | .secIdentity fn => Sys2Proof.Machine.execSecIdentity fn s
  | .secAttest fn nonce first => Sys2Proof.Machine.execSecAttest fn nonce first s
  | .secOpen fn role key ea => Sys2Proof.Machine.execSecOpen fn role key ea s
  | .secConfirm fn sid sa => Sys2Proof.Machine.execSecConfirm fn sid sa s
  | .secClose fn auth => Sys2Proof.Machine.execSecClose fn auth s
  | .sessionIdleTimeout sid => Sys2Proof.Machine.execSessionIdleTimeout sid s
  | .authLockoutEnd => Sys2Proof.Machine.execAuthLockoutEnd s
  | .keyImport fn auth p keyid wrapped => Sys2Proof.Machine.execKeyImport fn auth p keyid wrapped s
  | .keyDrop fn auth p keyid => Sys2Proof.Machine.execKeyDrop fn auth p keyid s
  | .domainKey fn auth wrapped => Sys2Proof.Machine.execDomainKey fn auth wrapped s
  | .domainId fn auth id => Sys2Proof.Machine.execDomainId fn auth id s
  | .svnSet fn auth svn => Sys2Proof.Machine.execSvnSet fn auth svn s
  | .ownerRotate fn auth key => Sys2Proof.Machine.execOwnerRotate fn auth key s
  | .lifecycle fn auth next => Sys2Proof.Machine.execLifecycle fn auth next s
  | .repairCommit fn auth d map => Sys2Proof.Machine.execRepairCommit fn auth d map s
  | .debugGrant fn auth scope => Sys2Proof.Machine.execDebugGrant fn auth scope s
  | .zeroise fn auth => Sys2Proof.Machine.execZeroise fn auth s
  | .secEvents fn clr => Sys2Proof.Machine.execSecEvents fn clr s
  | .securityEvent ev => Sys2Proof.Machine.execSecurityEvent ev s
  | .entropyTestFail => Sys2Proof.Machine.execEntropyTestFail s
  | .powerOnReset twoPorts sris => Sys2Proof.Machine.execPowerOnReset twoPorts sris s
  | .pkgResetN ns honoured => Sys2Proof.Machine.execPkgResetN ns honoured s
  | .watchdogExpiry => Sys2Proof.Machine.execWatchdogExpiry s
  | .thermalTripReset ms temps => Sys2Proof.Machine.execThermalTripReset ms temps s
  | .perst port => Sys2Proof.Machine.execPerst port s
  | .pfFlr port => Sys2Proof.Machine.execPfFlr port s
  | .railDip rail ns => Sys2Proof.Machine.execRailDip rail ns s
  | .refclkLost ns => Sys2Proof.Machine.execRefclkLost ns s
  | .bringUp boot => Sys2Proof.Machine.execBringUp boot s
  | .bringupLinkStage lanes => Sys2Proof.Machine.execBringupLinkStage lanes s
  | .faultReport q => Sys2Proof.Machine.execFaultReport q s
  | .recoveryEpoch e ok => Sys2Proof.Machine.execRecoveryEpoch e ok s
  | .stepAbort p => Sys2Proof.Machine.execStepAbort p s
  | .bnkMarchGo fn g preserving => Sys2Proof.Machine.execBnkMarchGo fn g preserving s
  | .marchComplete g fails => Sys2Proof.Machine.execMarchComplete g fails s
  | .resetStatus fn => Sys2Proof.Machine.execResetStatus fn s
  | .faultLog fn count clr => Sys2Proof.Machine.execFaultLog fn count clr s
  | .dieRecover fn d => Sys2Proof.Machine.execDieRecover fn d s
  | .loftMarch fn p ts preserving => Sys2Proof.Machine.execLoftMarch fn p ts preserving s
  | .watchdogSet fn ms on => Sys2Proof.Machine.execWatchdogSet fn ms on s
  | .ledgerKeep fn p clr => Sys2Proof.Machine.execLedgerKeep fn p clr s
  | .rstWdogKick => Sys2Proof.Machine.execRstWdogKick s
  | .rstDieWrite fn dies => Sys2Proof.Machine.execRstDieWrite fn dies s
  | .dieCtlPabort d p => Sys2Proof.Machine.execDieCtlPabort d p s
  | .dieCtlCrst d mask => Sys2Proof.Machine.execDieCtlCrst d mask s
  | .dieCtlFence d on => Sys2Proof.Machine.execDieCtlFence d on s
  | .stwFlogptrClr => Sys2Proof.Machine.execStwFlogptrClr s
  | .mpId => Sys2Proof.Machine.execMpId s
  | .mpSlotWrite slot pecOk => Sys2Proof.Machine.execMpSlotWrite slot pecOk s
  | .mpSlotRead => Sys2Proof.Machine.execMpSlotRead s
  | .mpCap write pecOk => Sys2Proof.Machine.execMpCap write pecOk s
  | .mpPower => Sys2Proof.Machine.execMpPower s
  | .mpTemp => Sys2Proof.Machine.execMpTemp s
  | .mpOvr => Sys2Proof.Machine.execMpOvr s
  | .mpBoot => Sys2Proof.Machine.execMpBoot s
  | .mpEvent => Sys2Proof.Machine.execMpEvent s
  | .vauxGood => Sys2Proof.Machine.execVauxGood s
  | .pkgResetNRelease => Sys2Proof.Machine.execPkgResetNRelease s
  | .linkRefclkReturn l => Sys2Proof.Machine.execLinkRefclkReturn l s
  | .configurationRequest port req => Sys2Proof.Machine.execConfigurationRequest port req s
  | .tapInstruction op => Sys2Proof.Machine.execTapInstruction op s
  | .seqidRetentionExpiry p seqid => Sys2Proof.Machine.execSeqidRetentionExpiry p seqid s
  | .tokenBucketFill d fab p ns => Sys2Proof.Machine.execTokenBucketFill d fab p ns s

end Sys2Proof.Machine
end

