-- ==== Sys2Proof/Safety.lean ====
section
/-! DEFINITION. The vocabulary of the claims: when the part runs, when a mailbox command is served, what an answered command leaves, what
a change of registers leaves alone, when an engine may issue, and the canonical form of everything that is held as a memory. -/

namespace Sys2Proof.Machine

/-! ## When a command has its effect -/

/-- Nothing holds the part: no reset source, no missing rail, no lost reference clock (R497, R499, R526). -/
abbrev State.Live (s : State) : Prop := s.rst.hold = .none_

/-- The steward's firmware runs, so mailbox commands are served (R8, R441). -/
abbrev State.Mail (s : State) : Prop := s.Live ∧ s.fwif ≠ 0

/-- The function may name the partition: the physical function any, a virtual function its own (R12). -/
abbrev OwnFn (fn : Fun) (p : Part) : Prop := fn.val = 0 ∨ fn.val = p.val + 1

/-- The function may name the tile (R12). -/
abbrev State.OwnTile (s : State) (fn : Fun) (g : Tile) : Prop := fn.val = 0 ∨ s.tilePart g = some (fn.val - 1)

/-- A tile set that the function may name for the partition: well formed, and of the partition's tiles only (R12, R440). -/
abbrev State.TilesOk (s : State) (fn : Fun) (p : Part) (ts : TileSet) : Prop :=
  OwnFn fn p ∧ tileSetBad ts = false ∧ s.foreignTiles p ts = false

/-- The partition exists. -/
abbrev State.Exists (s : State) (p : Part) : Prop := (s.part p).isSome = true

/-- The steward's firmware runs, and no check of R334 or R335 fails in the byte ranges (offset and length) that the steward reads. -/
abbrev State.SoundReads (s : State) (p : Nat) (l : List (Nat × Nat)) : Prop :=
  s.fwif ≠ 0 ∧ s.each l (fun s x => s.readTouch p x.1 x.2) = s

/-- The commands that have an effect while a reset source, a missing rail or a lost reference clock holds the part: the sources of reset
themselves, the rails, the management port and the test port (R497 to R499, R525 to R528, R535, R539). -/
def actsHeld (i : Instr) : Bool :=
  match i with
  | .powerOnReset _ _ => true
  | .pkgResetN _ _ => true
  | .thermalTripReset _ _ => true
  | .railDip _ _ => true
  | .refclkLost _ => true
  | .mpId => true
  | .mpSlotWrite _ _ => true
  | .mpSlotRead => true
  | .mpCap _ _ => true
  | .mpPower => true
  | .mpTemp => true
  | .mpOvr => true
  | .mpBoot => true
  | .mpEvent => true
  | .vauxGood => true
  | .pkgResetNRelease => true
  | .tapInstruction _ => true
  | _ => false

/-- The commands that the mailbox carries (R438, R443). -/
def isMailboxCmd (i : Instr) : Bool :=
  match i with
  | .fwInfo _ => true
  | .pkgLocate _ _ => true
  | .arithSeed _ _ _ => true
  | .winnowSet _ _ _ _ => true
  | .arithStats _ _ _ => true
  | .tileRun _ _ _ _ _ => true
  | .tileStatus _ _ => true
  | .loftPower _ _ _ _ _ => true
  | .loftRead _ _ _ _ => true
  | .loftWrite _ _ _ _ _ => true
  | .tileStats _ _ _ => true
  | .tileReset _ _ _ => true
  | .tileConfig _ _ _ _ => true
  | .progLoad _ _ _ _ => true
  | .progStart _ _ _ _ _ => true
  | .progWhere _ _ => true
  | .syncQuota _ _ _ _ => true
  | .syncMap _ _ _ _ _ _ _ _ _ => true
  | .syncChannel _ _ _ _ _ _ => true
  | .syncTimeout _ _ _ _ _ => true
  | .syncRearm _ _ _ _ _ => true
  | .syncStatus _ _ _ => true
  | .routePorts _ _ _ _ _ => true
  | .routeLoad _ _ _ _ => true
  | .routeStart _ _ _ => true
  | .netStatus _ _ => true
  | .netStats _ _ _ => true
  | .kvLayout _ _ _ _ _ _ => true
  | .walkCheck _ _ _ _ => true
  | .attnStats _ _ _ => true
  | .planLoad _ _ _ => true
  | .routeConfig _ _ _ _ _ _ _ _ => true
  | .routeStats _ _ _ => true
  | .stepStatus _ _ => true
  | .stepSpillbuf _ _ _ _ => true
  | .memRegion _ _ _ _ _ _ _ _ => true
  | .memFree _ _ _ => true
  | .memQuota _ _ _ _ => true
  | .memRegulate _ _ _ _ _ _ => true
  | .memBound _ _ _ _ => true
  | .memMove _ _ _ _ _ _ _ => true
  | .memQuery _ _ => true
  | .streamSet _ _ _ _ => true
  | .memStats _ _ _ => true
  | .memRetired _ _ _ => true
  | .memChannels _ => true
  | .fabMap _ _ => true
  | .fabStatus _ => true
  | .fabMode _ _ _ => true
  | .fabJob _ _ _ => true
  | .fabWindow _ _ _ _ _ _ _ _ _ => true
  | .fabBound _ _ _ _ => true
  | .fabRegulate _ _ _ _ _ => true
  | .fabLink _ _ _ => true
  | .fabRejoin _ _ => true
  | .fabInject _ _ _ _ _ => true
  | .fabStats _ _ _ => true
  | .partCreate _ _ _ => true
  | .partDestroy _ _ => true
  | .partRings _ _ _ => true
  | .partServe _ _ _ _ _ _ _ _ _ _ => true
  | .adapterPut _ _ _ _ _ => true
  | .adapterDrop _ _ _ => true
  | .weightDir _ _ _ => true
  | .sliceSet _ _ _ _ _ => true
  | .serveStats _ _ _ => true
  | .powerStatus _ _ => true
  | .powerCap _ _ _ => true
  | .powerTarget _ _ _ => true
  | .ballastSet _ _ _ => true
  | .thermalStatus _ _ => true
  | .ageLog _ => true
  | .overrunLog _ _ => true
  | .islandPower _ _ _ => true
  | .droopSet _ _ _ => true
  | .hintConfig _ _ => true
  | .secStatus _ => true
  | .secSelftest _ _ => true
  | .secIdentity _ => true
  | .secAttest _ _ _ => true
  | .secOpen _ _ _ _ => true
  | .secConfirm _ _ _ => true
  | .secClose _ _ => true
  | .keyImport _ _ _ _ _ => true
  | .keyDrop _ _ _ _ => true
  | .domainKey _ _ _ => true
  | .domainId _ _ _ => true
  | .svnSet _ _ _ => true
  | .ownerRotate _ _ _ => true
  | .lifecycle _ _ _ => true
  | .repairCommit _ _ _ _ => true
  | .debugGrant _ _ _ => true
  | .zeroise _ _ => true
  | .secEvents _ _ => true
  | .resetStatus _ => true
  | .faultLog _ _ _ => true
  | .dieRecover _ _ => true
  | .loftMarch _ _ _ _ => true
  | .watchdogSet _ _ _ => true
  | .ledgerKeep _ _ _ => true
  | _ => false

/-! ## What an answered command leaves -/

/-- The state `t` a command came to, with its response posted under the TOKEN that stood in MB_CMD before it; a command that ends in a
reset of the firmware gets no response (R8, R441, R492). -/
def State.reply (s t : State) (fn code : Nat) (r : Reply) : State :=
  if t.fwif = 0 then t else t.mbPost fn code (s.mbNum fn 4 4) r

/-- The command completes with STATUS OK: its effect is `t` and its result bytes are `out`. -/
def Answers (i : Instr) (fn code : Nat) (s : State) (P : State → List Byte → Prop) : Prop :=
  ∃ t out, exec i s = .next (s.reply t fn code (.ok out)) ∧ P t out

/-- The command or event takes its effect: the next state is `t`. -/
def Completes (i : Instr) (s : State) (P : State → Prop) : Prop := ∃ t, exec i s = .next t ∧ P t

/-! ## What stays as it was -/

/-- Of all the state only registers differ, and of those none outside `A`. -/
def State.OnlyRegs (s t : State) (A : Nat → Prop) : Prop := t = { s with regs := t.regs } ∧ ∀ a, ¬ A a → t.rd a = s.rd a

/-- Registers outside `A` read as before. -/
def State.KeepsRegs (s t : State) (A : Nat → Prop) : Prop := ∀ a, ¬ A a → t.rd a = s.rd a

/-! ## When an engine may issue -/

/-- The engine runs, stands at no yield point, has not ended, decodes the operation, and holds the credit it takes (R77, R81, R162). -/
structure State.CanIssue (s : State) (g : Tile) (e : Eng) (h : Sig) (op : TOp) : Prop where
  live : s.Live
  run : s.runBit g e = true
  sound : (s.eng g e).faulted = false
  going : (s.eng g e).over = false
  free : (s.eng g e).holdY = none
  legal : s.rowDecode g h op = none
  credit : s.hasCredit g e op = true

/-- What an operation past its issue checks leaves (R77, R78, R81): it is in flight behind what its engine already had, with the status,
the credit and the units of its execution; the engine's wait is over and it stands at the next instruction; the Loft, the networks and
memory are as the execution left them. -/
def Flies (i : Instr) (g : Tile) (e : Eng) (h : Sig) (op : TOp) : Prop :=
  ∀ (s : State) (ds : List Desc), s.CanIssue g e h op → s.opChk g e op = .ok ds →
    (s.perform g (s.iaddr g e) e op ds).x.stop = .go →
    Completes i s fun t =>
      let r := s.perform g (s.iaddr g e) e op ds
      (t.eng g e).infl = (r.x.s.eng g e).infl ++ [⟨(r.x.s.eng g e).nextUid, opCode op, s.iaddr g e, h, r.x.st, (creditPool op).map (·.1),
        r.need, r.x.s.laneLen g e - s.laneLen g e, if holdsTemplates op then ds.map (·.w) else [],
        if holdsTemplates op then (r.x.s.eng g e).loops else []⟩] ∧
      (t.eng g e).wait = .fresh ∧ (t.eng g e).stall = .active ∧
      t.spc g e = (nextPos (r.x.s.eng g e).loops (s.spc g e + 8)).2 % 2 ^ 40 ∧
      t.loft = r.x.s.loft ∧ t.loftPsn = r.x.s.loftPsn ∧ t.net = r.x.s.net ∧ t.mem = r.x.s.mem

/-! ## Posted tests -/

/-- An engine's posted test names counter `idx` of the tile's alias type `typ`. -/
def State.postedOn (s : State) (g : Nat) (e : Eng) (typ idx : Nat) : Bool :=
  match (s.eng g e).wf with
  | some w => (s.eng g e).isPosted && decide (s.aliasType g w.alias_ = typ) && decide (s.aliasIdx g w.alias_ = idx)
  | none => false

/-- No engine of die `d` has a test posted on a semaphore of group `k`. -/
abbrev State.NoPoolPost (s : State) (d k : Nat) : Prop := ∀ t < 64, ∀ e ∈ engsAll, s.postedOnGroup (d * 64 + t) e k = false

/-- No engine of the tile has a test posted on the counter. -/
abbrev State.NoTilePost (s : State) (g typ idx : Nat) : Prop := ∀ e ∈ engsAll, s.postedOn g e typ idx = false

/-! ## Messages of the fabric -/

/-- A message of TYPE `typ` for this package, from a package of the slice, stands at the front of a channel of link `k` (R359, R367). -/
structure State.Front (s : State) (k vc typ : Nat) (f : Flit) : Prop where
  front : s.rxFront k vc = some f
  typed : f.typ = typ
  ours : f.dst = s.pkgOwn
  known : s.srcOk f.src = true

/-- The flits of a message whose last one stands at the front: those gathered before it, then itself (R357). -/
def State.wholeMsg (s : State) (k : Nat) (f : Flit) : List Flit :=
  ((s.link k).parts.filter fun g => decide (g.src = f.src ∧ g.typ = f.typ ∧ g.tseq = f.tseq ∧ g.vc = f.vc)) ++ [f]

/-! ## Items of the submission rings -/

/-- A well-formed item `b` with OP `op` stands at the head of ring `r`, and items are consumed (R405, R406, R429). -/
structure State.ItemReady (s : State) (p r op : Nat) (b : List Byte) : Prop where
  live : s.Live
  takes : s.takesItems p = true
  head : s.itemHead p r = some b
  isOp : itemOp b = op
  sound : itemOk b = true

/-! ## Sessions of the security module -/

/-- What authenticating a session command leaves: the session's counter moves on, and failures in a row count from 0 again (R477). -/
def State.sessionUsed (s : State) (a : SesAuth) (x : Session) : State :=
  (s.setSession a.sid (some { x with ctr := a.ctr })).modSec fun y => { y with authRow := 0 }

/-- The service answers with the indicator word of the state it leaves, then `out` (R481, R494). -/
def Serves (i : Instr) (fn code : Nat) (s : State) (P : State → List Byte → Prop) : Prop :=
  Answers i fn code s fun t r => ∃ out, r = leBytes 4 (bit t.approved) ++ out ∧ P t out

/-! ## The canonical form of memories -/

/-- Everything held as a memory (registers, the Loft and its poison bits, DRAM bursts, guest frames, host memory, mailboxes, the cores' RAM and the
steward's logs) is in its canonical form: keys strictly rising, and nothing listed that an unlisted key would read as. -/
def Memory.wf (s : State) : Bool :=
  spWf resetOf s.regs && spWf loftDflt s.loft && spWf (fun _ => false) s.loftPsn && spWf (fun _ => none) s.mem.bursts &&
    spWf (fun _ => none) s.mem.away && spWf (fun _ => none) s.mem.guestData && spWf (fun _ => 0) s.mem.host && spWf (fun _ => 0) s.stw.ram && spWf (fun _ => 0) s.stw.mbox &&
    spWf (fun _ => 0) s.stw.flog && spWf (fun _ => 0) s.stw.ovr && spWf (fun _ => 0) s.stw.age

end Sys2Proof.Machine
end

