-- ==== Sys2Proof/Certificates/Slice0/Obligations.lean ====
section
/-! DEFINITION. The statements about the model, one definition each. -/

open Sys2Proof Sys2Proof.Machine

/-- For every state whose queue is the command c followed by a rest, the step is the execution of c on the same state with the rest as
its queue. Putting a word's command in front of the queue leaves the state as it is, because no row of the opcode table gives bits
(the model's choice, log entry 4). With nothing in the queue, the step of a part that nothing holds adds 1 to STW_TIME modulo 2^64
and leaves every other register and the rest of the state; the step of a part that is held changes nothing. That the empty queue
stands for a microsecond is the model's choice (log entry 3). -/
def Obligations.StepRunsFrontCommand : Prop :=
  (∀ (s : State) (c : Instr) (rest : List Instr), s.pending = c :: rest → step s = exec c { s with pending := rest }) ∧
  (∀ (s : State) (c : Instr), step { s with pending := c :: s.pending } = exec c s) ∧
  (∀ (s : State) (nbits w : Nat), s.withFetchWord nbits w = s) ∧
  (∀ s : State, s.pending = [] → s.Live → ∃ t, step s = .next t ∧ t.now = (s.now + 1) % 2 ^ 64 ∧ s.OnlyRegs t fun a => a = R.STW_TIME) ∧
  (∀ s : State, s.pending = [] → ¬ s.Live → step s = .next s)

/-- State.reset has an empty queue, holds nothing back, reads the reset value of its register table at every register half, with the
part code 0x0320, FWIF 0, an unlocked package id of 0 and stage 0; every tile's RUN bits read 0 and every bank reads OFF; every
Loft byte reads as part of a zero block (the model's choice where a bank was never cleared, named in the log); and it meets
Memory.wf. -/
def Obligations.ResetState : Prop :=
  State.reset.pending = [] ∧ State.reset.Live ∧ Memory.wf State.reset = true ∧
  (∀ a : Nat, State.reset.rd a = resetOf a) ∧
  State.reset.fget R.STW_IDENT F.STW_IDENT_PART = 0x0320 ∧ State.reset.fwif = 0 ∧ State.reset.pkgOwn = 0 ∧
  State.reset.flag R.STW_LOC F.STW_LOC_LOCK = false ∧ State.reset.fget R.RST_STAT F.RST_STAT_STAGE = 0 ∧
  (∀ g : Nat, (∀ a : Nat, State.reset.loftByte g a = loftDflt (loftKey (State.reset.ilv g) g a)) ∧ State.reset.loftPoison g 0 = false) ∧
  State.reset.fget (R.TIL_CTL 0) F.TIL_CTL_RUN = 0 ∧ State.reset.fget (R.TIL_CTL 1535) F.TIL_CTL_RUN = 0 ∧
  State.reset.fget (R.BNK_STAT 0) (F.BNK_STAT_CUR 31) = 0 ∧ State.reset.fget (R.BNK_STAT 1535) (F.BNK_STAT_CUR 0) = 0

/-- The manual's two words decode as it says: 0xFC00_7E00_4000_0000 is a NOP with no wait and no signal in every stream, and
0x0802_0C04_0418_8000 is its matrix instruction. One word of each other engine, its fields laid out by hand, decodes to its
instruction; a zero word, an all-ones word and the load's word in the attention walker's stream (a non-zero index in a slot that
WALK does not use) are illegal. -/
def Obligations.InstructionWords : Prop :=
  (∀ e : Eng, decodeInstr e 0xFC007E0040000000#64 = some ⟨⟨63, 1, false, 0⟩, ⟨63, 1⟩, .nop⟩) ∧
  decodeInstr .me 0x08020C0404188000#64 = some ⟨⟨2, 1, true, 0⟩, ⟨6, 1⟩, .mm 4 6 8 0 false false⟩ ∧
  decodeInstr .le 0x14068C0403100000#64 = some ⟨⟨5, 2, true, 1⟩, ⟨6, 1⟩, .ld 3 4⟩ ∧
  decodeInstr .ve 0xFC007E04C1083006#64 = some ⟨⟨63, 1, false, 0⟩, ⟨63, 1⟩, .lane 1 2 3 6⟩ ∧
  decodeInstr .aw 0xFC007E0405000000#64 = some ⟨⟨63, 1, false, 0⟩, ⟨63, 1⟩, .walk 5⟩ ∧
  decodeInstr .se 0xFC007E0481080004#64 = some ⟨⟨63, 1, false, 0⟩, ⟨63, 1⟩, .atom 1 2 4⟩ ∧
  decodeInstr .ne 0xFC007E0440080001#64 = some ⟨⟨63, 1, false, 0⟩, ⟨63, 1⟩, .recv 2 true⟩ ∧
  (∀ e : Eng, decodeInstr e 0 = none ∧ decodeInstr e (BitVec.allOnes 64) = none) ∧
  decodeInstr .aw 0x14068C0403100000#64 = none

/-- For every engine and word: with WSEM 63 and any of WTHR, WK and WTMO not zero, or with SSEM 63 and SINC not zero, the word does
not decode. OP 0x00 and 0x09 to 0x0F decode in no stream, and a word with OP 0x01 to 0x08 decodes alike in every stream. A word
that decodes has the fields that stand in its bits. -/
def Obligations.IllegalWordsRefused : Prop :=
  ∀ (e : Eng) (w : Word64), let v := w.toNat
    ((bitsOf v 63 58 = 63 ∧ (bitsOf v 57 50 ≠ 0 ∨ bitsOf v 49 49 ≠ 0 ∨ bitsOf v 48 47 ≠ 0)) → decodeInstr e w = none) ∧
    ((bitsOf v 46 41 = 63 ∧ bitsOf v 40 36 ≠ 0) → decodeInstr e w = none) ∧
    ((bitsOf v 35 30 = 0 ∨ (9 ≤ bitsOf v 35 30 ∧ bitsOf v 35 30 < 16)) → decodeInstr e w = none) ∧
    ((1 ≤ bitsOf v 35 30 ∧ bitsOf v 35 30 ≤ 8) → ∀ e', decodeInstr e' w = decodeInstr e w) ∧
    (∀ i, decodeInstr e w = some i →
      i.wait.alias_ = bitsOf v 63 58 ∧ i.wait.thr = bitsOf v 57 50 + 1 ∧ bit i.wait.consume = bitsOf v 49 49 ∧ i.wait.tmo = bitsOf v 48 47 ∧
      i.sig.alias_ = bitsOf v 46 41 ∧ i.sig.inc = bitsOf v 40 36 + 1 ∧ opCode i.op = bitsOf v 35 30)

/-- For every engine and every instruction that fits it (every operand at every value its field admits; a wait or signal through alias
63 with its other fields zero), the decoder reads the encoder's word as exactly that instruction. -/
def Obligations.DecodeOfEncode : Prop :=
  ∀ (e : Eng) (i : TInstr), instrFits e i = true → decodeInstr e (encInstr i) = some i

/-- For every engine and every 64-bit word that the engine's stream accepts, the decoded instruction fits the engine and its encoding
is the same word: no bit of a legal word is ignored, and two legal words of one engine never mean the same. -/
def Obligations.EncodeOfDecode : Prop :=
  ∀ (e : Eng) (w : Word64) (i : TInstr), decodeInstr e w = some i → instrFits e i = true ∧ encInstr i = w

/-- While a reset source, a missing rail or a lost reference clock holds the part, every command except the sources of reset, the
events of the rails and the reference clock, the management port's and the test port's leaves the whole state as it was. On every
state every command answers a next state. -/
def Obligations.HeldPartIgnoresCommands : Prop :=
  (∀ (s : State) (i : Instr), ¬ s.Live → actsHeld i = false → exec i s = .next s) ∧
  (∀ (s : State) (i : Instr), ∃ t, exec i s = .next t)

/-- On a live part whose STW_IDENT.FWIF reads 0x00, a write of MB_DB.GO by any function leaves the state as it was, and each of the
100 commands that the mailbox carries leaves the state as it was, so no response is written, DONE does not set and SEQ does not
move. -/
def Obligations.MailboxDeafBeforeFirmware : Prop :=
  ∀ s : State, s.Live → s.fget R.STW_IDENT F.STW_IDENT_FWIF = 0 →
    (∀ fn : Fun, exec (.mbDbGo fn) s = .next s) ∧ (∀ i : Instr, isMailboxCmd i = true → exec i s = .next s)

/-- Posting a response with STATUS, DETAIL and at most 16,368 result bytes writes bytes 0 to 15 of the function's MB_RSP with CODE,
STATUS, TOKEN, LEN, DETAIL and zero in the places of the manual's table and the results from byte 16 on; BUSY reads 0, DONE reads
1 and SEQ is one higher modulo 256. MB_CMD and every other function's mailbox read as before, no register but the function's MB_DB
changes, and the Loft, the tiles, memory and the networks stay. -/
def Obligations.MailboxResponse : Prop :=
  ∀ (s : State) (fn : Fun) (code tok : Nat) (r : Reply), code < 2 ^ 16 → tok < 2 ^ 32 → r.st < 2 ^ 16 → r.detail < 2 ^ 16 → r.out.length ≤ 16368 →
    let t := s.mbPost fn code tok r
    t.mbNum fn 0x4000 2 = code ∧ t.mbNum fn 0x4002 2 = r.st ∧ t.mbNum fn 0x4004 4 = tok ∧ t.mbNum fn 0x4008 4 = r.out.length ∧
    t.mbNum fn 0x400C 2 = r.detail ∧ t.mbNum fn 0x400E 2 = 0 ∧ t.mbBytes fn 0x4010 r.out.length = r.out ∧
    t.flag (State.mbDb fn) F.MB_DB_BUSY = false ∧ t.flag (State.mbDb fn) F.MB_DB_DONE = true ∧
    t.fget (State.mbDb fn) F.MB_DB_SEQ = (s.fget (State.mbDb fn) F.MB_DB_SEQ + 1) % 256 ∧
    (∀ o < 0x4000, t.mbBytes fn o 1 = s.mbBytes fn o 1) ∧ (∀ (f : Fun) (o : Nat), f ≠ fn → o < 0x8000 → t.mbBytes f o 1 = s.mbBytes f o 1) ∧
    s.KeepsRegs t (fun a => a = State.mbDb fn) ∧ t.loft = s.loft ∧ t.tiles = s.tiles ∧ t.engs = s.engs ∧ t.mem = s.mem ∧ t.net = s.net

/-- For every half of every register of the map, a field-by-field write of a value gives an RW field the written bits, clears in a W1C
field the bits written 1, sets in a W1S field the bits written 1, and leaves every other field; a bit that no field of the half
names stays as it was, and so does every other register. The fields of one half never overlap. A write of a security register by
the physical function is such a write. -/
def Obligations.FieldTypesOfAWrite : Prop :=
  (∀ (s : State) (a v : Nat) (x : RegSel), regAt a = some x → v < 2 ^ 64 →
    (∀ f ∈ x.row.fields, f.half = x.half →
      fldGet f ((s.rowWrite a v x).rd a) =
        match f.ty with
        | .rw => bitsOf v f.hi f.lo
        | .w1c => fldGet f (s.rd a) &&& (2 ^ (f.hi + 1 - f.lo) - 1 - bitsOf v f.hi f.lo)
        | .w1s => fldGet f (s.rd a) ||| bitsOf v f.hi f.lo
        | _ => fldGet f (s.rd a)) ∧
    (∀ n < 64, (∀ f ∈ x.row.fields, f.half = x.half → n < f.lo ∨ f.hi < n) → ((s.rowWrite a v x).rd a).getLsbD n = (s.rd a).getLsbD n) ∧
    s.OnlyRegs (s.rowWrite a v x) fun b => b = a) ∧
  (∀ (s : State) (a n : Nat) (v : Word64) (x : RegSel), s.Live → s.ctlTarget 0 a n = .reg x → x.kind = .sec →
    exec (.registerWrite 0 a n v) s = .next (s.rowWrite a v.toNat x))

/-- A write of the lower half of a 128-bit register changes no register and nothing else but the staging register of that function and
die, which holds the value. A write of the upper half of a fabric window applies both: the upper half takes the written fields,
the lower half those of the accessor's staged value, or of its own value where none is staged, and the staging register empties.
An access that no block decodes, or of a wrong width, has no effect but the decode miss in the reports. -/
def Obligations.WideRegisterWrites : Prop :=
  (∀ (s : State) (fn : Fun) (a : Nat) (v : Word64) (x : RegSel), s.Live → s.ctlTarget fn a 8 = .reg x → x.row.width = 128 → x.half = 0 →
    x.kind = .mem ∨ x.kind = .fab ∨ x.kind = .die ∨ x.kind = .hst →
    let d := (match x.kind with | .mem => 24 + x.idx | .fab => 28 + x.idx | .die => x.idx | _ => 31)
    Completes (.registerWrite fn a 8 v) s fun t => t = { s with staging := t.staging } ∧ t.staged fn d = some v ∧
      ∀ acc die : Nat, die < 32 → d < 32 → (acc ≠ fn.val ∨ die ≠ d) → t.staged acc die = s.staged acc die) ∧
  (∀ (s : State) (fn : Fun) (l i j : Nat) (v : Word64), l < 3 → i < 16 → j < 16 → s.Live → fn = 0 → s.fwif ≠ 0 →
    let a := R.FB_WIN l i j
    Completes (.registerWrite fn (a + 8) 8 v) s fun t =>
      t.staged fn (28 + l) = none ∧
      t.fget a F.FB_WIN_SIZE = fldGet F.FB_WIN_SIZE v ∧
      (∀ u, s.staged fn (28 + l) = some u → t.fget a F.FB_WIN_PKGLO = fldGet F.FB_WIN_PKGLO u ∧ t.fget a F.FB_WIN_PKGHI = fldGet F.FB_WIN_PKGHI u ∧
        t.fget a F.FB_WIN_PERM = fldGet F.FB_WIN_PERM u ∧ t.fget a F.FB_WIN_VALID = fldGet F.FB_WIN_VALID u ∧
        t.fget a F.FB_WIN_BASE = fldGet F.FB_WIN_BASE u) ∧
      (s.staged fn (28 + l) = none → t.rd a = s.rd a) ∧
      s.KeepsRegs t fun b => b = a ∨ b = a + 8) ∧
  (∀ (s : State) (fn : Fun) (a n : Nat) (v : Word64), s.Live → regAt a = none ∨ (∃ x, regAt a = some x ∧ 8 * n ≠ min 64 x.row.width) → winOf a = none →
    Completes (.registerWrite fn a n v) s fun t => ∃ r, t = { s with rpt := s.rpt ++ [r] })

/-- A register write by a virtual function of partition p at an address of a tile that p does not own, of another partition's serving
registers, or of the power, clock, reset, die, host, channel, link, Winnow, barrier or semaphore registers leaves every register,
the Loft and memory as they were; it adds at most a decode miss to the reports or counts one refused crossing. The same holds of
every address while its function is not enabled. With FWIF 0, a register write by any function has no effect: STW_IDENT takes no
write, and every other access is a decode miss, which is reported. -/
def Obligations.VirtualFunctionReach : Prop :=
  (∀ (s : State) (p : Part) (a n : Nat) (v : Word64) (fn : Fun) (x : RegSel), s.Live → fn.val = p.val + 1 → regAt a = some x → winOf a = none →
    a ≠ R.STW_IDENT → a ≠ R.STW_LOC → a ≠ R.MB_DB →
    (x.kind = .til ∧ s.tilePart x.idx ≠ some p.val) ∨ (x.kind = .pt ∧ x.idx ≠ p.val) ∨
      x.kind ∈ [BlkKind.pwr, .clk, .rst, .die, .hst, .ch, .lnk, .wnw, .syn] ∨ s.vfEnabled p = false →
    Completes (.registerWrite fn a n v) s fun t =>
      t.regs = s.regs ∧ t.staging = s.staging ∧ t.loft = s.loft ∧ t.mem = s.mem ∧ t.tiles = s.tiles ∧ t.engs = s.engs ∧ t.serve = s.serve ∧
      t.stw = s.stw ∧ ((∃ r, t.rpt = s.rpt ++ [r]) ∨ t.rpt = s.rpt)) ∧
  (∀ (s : State) (fn : Fun) (a n : Nat) (v : Word64), s.Live → s.fwif = 0 →
    Completes (.registerWrite fn a n v) s fun t =>
      t = { s with rpt := t.rpt } ∧ (a ≠ R.STW_IDENT → ∃ r, t.rpt = s.rpt ++ [r]))

/-- For a virtual function that is not the partition's own, ARITH_SEED, ARITH_STATS, TILE_STATUS, TILE_STATS, SYNC_STATUS, NET_STATUS,
NET_STATS, ATTN_STATS, ROUTE_STATS, STEP_STATUS, FAB_JOB, FAB_STATS and MEM_STATS answer NOTPERMITTED with nothing else changed.
For any virtual function so do ROUTE_START, FAB_MODE, FAB_REJOIN, LEDGER_KEEP, SEC_EVENTS and SEC_SELFTEST. -/
def Obligations.ForeignPartitionsRefused : Prop :=
  ∀ (s : State) (fn : Fun) (p : Part), s.Mail → fn.val ≠ 0 →
    (fn.val ≠ p.val + 1 → ∀ (seed : Word64) (clr : Bool) (job : Byte),
      ∀ x ∈ [(Instr.arithSeed fn p seed, 0x0210), (.arithStats fn p clr, 0x0212), (.tileStatus fn p, 0x0301), (.tileStats fn p clr, 0x0305),
        (.syncStatus fn p clr, 0x0505), (.netStatus fn p, 0x0603), (.netStats fn p clr, 0x0604), (.attnStats fn p clr, 0x0702),
        (.routeStats fn p clr, 0x0802), (.stepStatus fn p, 0x0803), (.fabJob fn p job, 0x0A03), (.fabStats fn p clr, 0x0A0A),
        (.memStats fn p clr, 0x0908)], exec x.1 s = .next (s.reply s fn x.2 .notPermitted)) ∧
    (∀ (dies : Word32) (mode twin clr : Bool) (pkg : BitVec 12) (f : Nat),
      ∀ x ∈ [(Instr.routeStart fn p dies, 0x0602), (.fabMode fn mode twin, 0x0A02), (.fabRejoin fn pkg, 0x0A08), (.ledgerKeep fn p clr, 0x0E05),
        (.secEvents fn clr, 0x0D11), (.secSelftest fn f, 0x0D01)], exec x.1 s = .next (s.reply s fn x.2 .notPermitted))

/-- For every integer n and exponent k, the rounded value q of t = n x 2^k is t itself where k is not negative; else, with P = 2^-k,
|n - q x P| x 2 is at most P, and where it equals P, q is even. -/
def Obligations.RoundingToNearestEven : Prop :=
  (∀ (n : Int) (k : Nat), roundRne n k = n * 2 ^ k) ∧
  (∀ (n : Int) (j : Nat), let q := roundRne n (-(j : Int))
    (2 * (n - q * 2 ^ j)).natAbs ≤ 2 ^ j ∧ ((2 * (n - q * 2 ^ j)).natAbs = 2 ^ j → 0 < j → q % 2 = 0) ∧
      ∀ z : Int, (n - q * 2 ^ j).natAbs ≤ (n - z * 2 ^ j).natAbs)

/-- For t = n / 2^j with floor l and fraction f, and a 16-bit draw u, the rounded value is l + 1 if u is below the least integer not
below f x 2^16, else l; an exact t stays. Summed over all 65,536 draws, the result exceeds 65,536 x t by at least 0 and less than
1 (an expected excess of at least 0 and less than 2^-16). The draw of a requantised sheaf is 16 bits of the tile's generator. -/
def Obligations.StochasticRounding : Prop :=
  (∀ (n : Int) (j u : Nat), u < 65536 → let q := roundSto n (-(j : Int)) u
    (n % 2 ^ j = 0 → q * 2 ^ j = n) ∧
    ∃ c : Nat, (n % 2 ^ j) * 65536 ≤ c * 2 ^ j ∧ c * 2 ^ j < (n % 2 ^ j) * 65536 + 2 ^ j ∧ q = if u < c then n / 2 ^ j + 1 else n / 2 ^ j) ∧
  (∀ (n : Int) (k u : Nat), roundSto n k u = n * 2 ^ k) ∧
  (∀ (n : Int) (j : Nat), let total := ((List.range 65536).map fun u => roundSto n (-(j : Int)) u).sum
    n * 65536 ≤ total * 2 ^ j ∧ total * 2 ^ j < n * 65536 + 2 ^ j) ∧
  (∀ r : Rng, (rngDraw r).1 < 65536) ∧
  (∀ (p : RqParam) (xs : List (Int × Int)) (r : Rng), p.sto = true →
    rqSheafRng p xs r = (rqSheaf p xs (rngDrawN xs.length r).1, (rngDrawN xs.length r).2) ∧ (rngDrawN xs.length r).1.length = xs.length)

/-- On a live part whose LOCK is 0, a write of STW_LOC with 1 in LOCK stores the written PKGID; LOCK then reads 1 exactly if TSVALID
is 1 and the new PKGID's low five bits equal TRAYSLOT. With TSVALID 0, LOCK stays 0 and NOSLOT sets; with TSVALID 1 and a
difference, LOCK stays 0 and MISMATCH sets. A write without a 1 in LOCK never locks. While LOCK reads 0, no link of a link die
trains or retrains: the command leaves the state. -/
def Obligations.PackageIdLock : Prop :=
  (∀ (s : State) (v : Word32), s.Live → s.flag R.STW_LOC F.STW_LOC_LOCK = false →
    let slot := s.fget R.STW_LOC F.STW_LOC_TRAYSLOT
    let known := s.flag R.STW_LOC F.STW_LOC_TSVALID
    Completes (.stwLocWrite v) s fun t =>
      t.fget R.STW_LOC F.STW_LOC_PKGID = v.toNat % 4096 ∧ t.fget R.STW_LOC F.STW_LOC_TRAYSLOT = slot ∧
      t.flag R.STW_LOC F.STW_LOC_TSVALID = known ∧
      (t.flag R.STW_LOC F.STW_LOC_LOCK = true ↔ v.toNat.testBit 31 = true ∧ known = true ∧ v.toNat % 32 = slot) ∧
      (v.toNat.testBit 31 = true → known = false → t.flag R.STW_LOC F.STW_LOC_NOSLOT = true) ∧
      (v.toNat.testBit 31 = true → known = true → v.toNat % 32 ≠ slot → t.flag R.STW_LOC F.STW_LOC_MISMATCH = true) ∧
      s.OnlyRegs t fun a => a = R.STW_LOC) ∧
  (∀ (s : State) (k : Link) (lanes ok : Bool) (b : List (Nat × List Byte)), s.flag R.STW_LOC F.STW_LOC_LOCK = false →
    exec (.linkTrain k lanes ok b) s = .next s ∧ exec (.linkRetrain k lanes ok b) s = .next s)

/-- A write of RET for a bank that is OFF and not in transition starts no transition and sets the bank's bit of REFUSED; the bank
stays OFF. A write for a bank in transition is held in place of any earlier held target and starts nothing. At the end of the
transition the bank takes the transition's target, and the held target is applied as a write at that moment: a held RET that meets
OFF is refused, and the bank stays OFF; any other target that differs starts a transition. A write of 0b10 leaves the state as it
was. -/
def Obligations.BankTargetsHeldAndRefused : Prop :=
  (∀ (s : State) (g : Tile) (b : Fin 32), s.Live → (s.tile g).transOf b = none → s.fget (R.BNK_STAT g) (F.BNK_STAT_CUR b) = 0 →
    Completes (.bnkPwrWrite g b 1) s fun t => (s.fget (R.BNK_STAT g) (F.BNK_STAT_CUR b) = t.fget (R.BNK_STAT g) (F.BNK_STAT_CUR b)) ∧
      (t.tile g).transOf b = none ∧ (t.fget (R.BNK_BUSY g) F.BNK_BUSY_REFUSED).testBit b = true ∧ t.tile g = s.tile g) ∧
  (∀ (s : State) (g : Tile) (b : Fin 32) (code : Fin 4) (tgt : Nat), s.Live → code ≠ 2 → (s.tile g).transOf b = some tgt →
    Completes (.bnkPwrWrite g b code) s fun t =>
      (t.tile g).trans = (s.tile g).trans ∧ (t.tile g).held = ((s.tile g).held.filter fun h => decide (h.1 ≠ b.val)) ++ [(b.val, code.val)] ∧
      t.fget (R.BNK_STAT g) (F.BNK_STAT_CUR b) = s.fget (R.BNK_STAT g) (F.BNK_STAT_CUR b) ∧
      t.fget (R.BNK_BUSY g) F.BNK_BUSY_REFUSED = s.fget (R.BNK_BUSY g) F.BNK_BUSY_REFUSED) ∧
  (∀ (s : State) (g : Tile) (b : Fin 32) (tgt : Nat), s.Live → tgt < 4 → (s.tile g).transOf b = some tgt →
    Completes (.bankTransitionEnd g b) s fun t =>
      t.fget (R.BNK_STAT g) (F.BNK_STAT_CUR b) = tgt ∧ ((t.tile g).held.find? fun h => decide (h.1 = b.val)) = none ∧
      (((s.tile g).held.find? fun h => decide (h.1 = b.val)) = none → (t.tile g).transOf b = none) ∧
      (∀ h, ((s.tile g).held.find? fun h => decide (h.1 = b.val)) = some h →
        (h.2 = tgt ∨ (tgt = 0 ∧ h.2 = 1) → (t.tile g).transOf b = none) ∧
        (tgt = 0 → h.2 = 1 → (t.fget (R.BNK_BUSY g) F.BNK_BUSY_REFUSED).testBit b = true) ∧
        (h.2 ≠ tgt → ¬ (tgt = 0 ∧ h.2 = 1) → (t.tile g).transOf b = some h.2))) ∧
  (∀ (s : State) (g : Tile) (b : Fin 32), exec (.bnkPwrWrite g b 2) s = .next s)

/-- From every state in which every memory of the model is in its canonical form (keys strictly rising, nothing listed that an
unlisted key would read as), a step whose front command is one of the named register, tile, bank, Loft and mailbox commands, or
that finds the queue empty, answers a state with that form again. The form is the model's own (its choice of how memories are
held). -/
def Obligations.CanonicalFormKept : Prop :=
  (∀ (s : State), Memory.wf s = true → s.pending = [] → ∃ t, step s = .next t ∧ Memory.wf t = true) ∧
  (∀ (s : State) (rest : List Instr) (i : Instr), Memory.wf s = true → s.pending = i :: rest →
    (∃ (d : CDie), i = .wnwLogptrCntclr d ∨ i = .wnwLogptrLostclr d) ∨
    (∃ (g : Tile) (v : Word64), i = .tilArstatCntclr g ∨ i = .tilRngWrite g v ∨ i = .tilFaultClr g ∨ i = .tilCntctlClr g) ∨
    (∃ (v : Word32), i = .stwLocWrite v) ∨
    (∃ (g : Tile) (b : Fin 32) (code : Fin 4), i = .bnkPwrWrite g b code ∨ i = .bankTransitionEnd g b) ∨
    (∃ (fn : Fun), i = .mbDbGo fn) ∨ (∃ (d : Die) (on : Bool), i = .dieCtlFence d on) ∨
    (∃ (fn : Fun) (g : Tile) (addr : Nat) (data : List Byte) (psn : List Bool), i = .loftWrite fn g addr data psn) ∨
    (∃ (fn : Fun) (p : Part), i = .tileStatus fn p ∨ i = .stepStatus fn p) →
    ∃ t, step s = .next t ∧ Memory.wf t = true)

/-- For a function that may name the partition, ARITH_SEED gives every tile of the partition the seed XOR (g + 1) x 0x100000001,
answers the seed and the number of tiles, and changes no other register. WINNOW_SET sets or clears, in each compute die's CLMASK
and FLTMASK, the bits of the clusters the function may set; from the physical function it also sets EN and a rate that is not 0;
other registers stay, and it answers those registers. ARITH_STATS answers the sums over the partition's tiles and the Winnow
units, and with CLR the arithmetic counters of those tiles read 0. WINNOW_COMPARE takes the captured block away, counts it as
sampled, and counts a mismatch exactly if some element mismatches. The clears of WNW_LOGPTR, TIL_ARSTAT and a write of TIL_RNG do
that and nothing else. -/
def Obligations.ArithmeticCommandsComplete : Prop :=
  (∀ (s : State) (fn : Fun) (p : Part) (seed : Word64), s.Mail → OwnFn fn p →
    Answers (.arithSeed fn p seed) fn 0x0210 s fun t out =>
      out = lay [(8, seed.toNat), (2, (s.tilesOf p).length)] ∧
      (∀ g ∈ s.tilesOf p, t.fget (R.TIL_RNG g) F.TIL_RNG_STATE = seed.toNat ^^^ ((g + 1) * 0x100000001 % 2 ^ 64)) ∧
      s.OnlyRegs t fun a => ∃ g ∈ s.tilesOf p, a = R.TIL_RNG g) ∧
  (∀ (s : State) (fn : Fun) (rate : Nat) (sample fault : Bool), s.Mail → rate = 0 ∨ (fn.val = 0 ∧ 6 ≤ rate ∧ rate ≤ 16) →
    Answers (.winnowSet fn rate sample fault) fn 0x0211 s fun t out =>
      out = t.toldBytes ((List.range 24).map R.WNW_CTL) ∧
      (∀ d : CDie, t.fget (R.WNW_CTL d) F.WNW_CTL_CLMASK =
        (if sample then s.fget (R.WNW_CTL d) F.WNW_CTL_CLMASK ||| s.fnClusters fn d
         else s.fget (R.WNW_CTL d) F.WNW_CTL_CLMASK - (s.fget (R.WNW_CTL d) F.WNW_CTL_CLMASK &&& s.fnClusters fn d))) ∧
      (∀ d : CDie, t.fget (R.WNW_CTL d) F.WNW_CTL_FLTMASK =
        (if fault then s.fget (R.WNW_CTL d) F.WNW_CTL_FLTMASK ||| s.fnClusters fn d
         else s.fget (R.WNW_CTL d) F.WNW_CTL_FLTMASK - (s.fget (R.WNW_CTL d) F.WNW_CTL_FLTMASK &&& s.fnClusters fn d))) ∧
      (∀ d : CDie, t.fget (R.WNW_CTL d) F.WNW_CTL_EN = if fn.val = 0 then bit sample else s.fget (R.WNW_CTL d) F.WNW_CTL_EN) ∧
      (∀ d : CDie, t.fget (R.WNW_CTL d) F.WNW_CTL_RATE = if rate = 0 then s.fget (R.WNW_CTL d) F.WNW_CTL_RATE else rate) ∧
      s.OnlyRegs t fun a => ∃ d : CDie, a = R.WNW_CTL d) ∧
  (∀ (s : State) (fn : Fun) (p : Part) (clr : Bool), s.Mail → OwnFn fn p →
    Answers (.arithStats fn p clr) fn 0x0212 s fun t out =>
      out = lay (s.tileSums (s.tilesOf p) [(R.TIL_ARCNT0, F.TIL_ARCNT0_SATELEM), (R.TIL_ARCNT0, F.TIL_ARCNT0_SATBLK),
          (R.TIL_ARCNT1, F.TIL_ARCNT1_ZEROBLK), (R.TIL_ARCNT1, F.TIL_ARCNT1_INEXACT), (R.TIL_ARCNT2, F.TIL_ARCNT2_FORMAT),
          (R.TIL_ARCNT2, F.TIL_ARCNT2_POISON), (R.TIL_ARCNT2, F.TIL_ARCNT2_WNWSTALL)] ++
        s.tileSums (List.range 24) [(R.WNW_CNT0, F.WNW_CNT0_SAMPLED), (R.WNW_CNT0, F.WNW_CNT0_MISMATCH),
          (R.WNW_CNT1, F.WNW_CNT1_SKIPPED), (R.WNW_CNT1, F.WNW_CNT1_ABANDONED)]) ∧
      (∀ a, t.rd a = if clr = true ∧ (∃ g ∈ s.tilesOf p, a = R.TIL_ARCNT0 g ∨ a = R.TIL_ARCNT1 g ∨ a = R.TIL_ARCNT2 g) then 0 else s.rd a) ∧
      s.OnlyRegs t fun a => ∃ g ∈ s.tilesOf p, a = R.TIL_ARCNT0 g ∨ a = R.TIL_ARCNT1 g ∨ a = R.TIL_ARCNT2 g) ∧
  (∀ (s : State) (d : CDie) (c : Capture), s.Live → spGet (fun _ => none) s.captures d = some c →
    Completes (.winnowCompare d) s fun t =>
      spGet (fun _ => none) t.captures d = none ∧
      t.fget (R.WNW_CNT0 d) F.WNW_CNT0_SAMPLED = min (fldTop F.WNW_CNT0_SAMPLED) (s.fget (R.WNW_CNT0 d) F.WNW_CNT0_SAMPLED + 1) ∧
      t.fget (R.WNW_CNT0 d) F.WNW_CNT0_MISMATCH =
        (if ((List.range 128).map c.elem).any (·.bad) then
          min (fldTop F.WNW_CNT0_MISMATCH) (s.fget (R.WNW_CNT0 d) F.WNW_CNT0_MISMATCH + 1)
         else s.fget (R.WNW_CNT0 d) F.WNW_CNT0_MISMATCH) ∧
      t.loft = s.loft ∧ t.tiles = s.tiles ∧ t.engs = s.engs) ∧
  (∀ (s : State) (d : CDie), s.Live →
    exec (.wnwLogptrCntclr d) s = .next ((s.wr (R.WNW_CNT0 d) 0).wr (R.WNW_CNT1 d) 0)) ∧
  (∀ (s : State) (d : CDie), s.Live →
    exec (.wnwLogptrLostclr d) s = .next (s.fset (R.WNW_LOGPTR d) F.WNW_LOGPTR_LOST 0)) ∧
  (∀ (s : State) (g : Tile), s.Live →
    exec (.tilArstatCntclr g) s = .next (((s.wr (R.TIL_ARCNT0 g) 0).wr (R.TIL_ARCNT1 g) 0).wr (R.TIL_ARCNT2 g) 0)) ∧
  (∀ (s : State) (g : Tile) (v : Word64), s.Live →
    Completes (.tilRngWrite g v) s fun t =>
      t.fget (R.TIL_RNG g) F.TIL_RNG_STATE = v.toNat ∧ s.OnlyRegs t fun a => a = R.TIL_RNG g)

/-- BNK_PWR_WRITE of the reserved code changes nothing. A target for a bank in transition is held, replacing the one held before. A
target RET for a bank that is OFF is refused and sets its REFUSED bit. Any other new target begins the transition. In each case
the target shows in BNK_PWR and no Loft byte changes. BANK_TRANSITION_END sets CUR to the target; a bank that goes to OFF, or
comes from it, then holds zero blocks without poison; the Loft of every other bank stays, and, where no walk of the tile goes on
with the bank, every register but BNK_STAT and BNK_BUSY of the tile and every engine. -/
def Obligations.BankPowerFollowsItsTable : Prop :=
  (∀ (s : State) (g : Tile) (b : Fin 32), s.Live → exec (.bnkPwrWrite g b 2) s = .next s) ∧
  (∀ (s : State) (g : Tile) (b : Fin 32) (code : Fin 4), s.Live → code ≠ 2 →
    Completes (.bnkPwrWrite g b code) s fun t =>
      t.fget (R.BNK_PWR g) (F.BNK_PWR_TGT b) = code ∧ t.loft = s.loft ∧ t.loftPsn = s.loftPsn ∧ t.engs = s.engs ∧
      (∀ a, a ≠ R.BNK_PWR g → a ≠ R.BNK_BUSY g → t.rd a = s.rd a) ∧
      (∀ tgt, (s.tile g).transOf b = some tgt →
        t.tile g = { s.tile g with held := ((s.tile g).held.filter fun h => decide (h.1 ≠ b.val)) ++ [(b.val, code.val)] } ∧
        t.rd (R.BNK_BUSY g) = s.rd (R.BNK_BUSY g)) ∧
      ((s.tile g).transOf b = none → s.fget (R.BNK_STAT g) (F.BNK_STAT_CUR b) = 0 → code = 1 →
        t.tile g = s.tile g ∧
        t.fget (R.BNK_BUSY g) F.BNK_BUSY_REFUSED = s.fget (R.BNK_BUSY g) F.BNK_BUSY_REFUSED ||| 2 ^ b.val) ∧
      ((s.tile g).transOf b = none → s.fget (R.BNK_STAT g) (F.BNK_STAT_CUR b) ≠ code →
        ¬ (s.fget (R.BNK_STAT g) (F.BNK_STAT_CUR b) = 0 ∧ code = 1) →
        t.tile g = { s.tile g with trans := (s.tile g).trans ++ [(b.val, code.val)] } ∧
        t.rd (R.BNK_BUSY g) = s.rd (R.BNK_BUSY g))) ∧
  (∀ (s : State) (g : Tile) (b : Fin 32) (tgt : Nat), s.Live → tgt < 4 → (s.tile g).transOf b = some tgt →
    Completes (.bankTransitionEnd g b) s fun t =>
      t.fget (R.BNK_STAT g) (F.BNK_STAT_CUR b) = tgt ∧
      (∀ a : Nat, a < 2 ^ 22 → s.bankOf g a = b.val → tgt = 0 ∨ s.fget (R.BNK_STAT g) (F.BNK_STAT_CUR b) = 0 →
        t.loftByte g a = (if a % 32 = 1 then 0x80 else 0) ∧ t.loftPoison g a = false) ∧
      (∀ a : Nat, s.bankOf g a < 32 → s.bankOf g a ≠ b.val ∨ (tgt ≠ 0 ∧ s.fget (R.BNK_STAT g) (F.BNK_STAT_CUR b) ≠ 0) →
        t.loftByte g a = s.loftByte g a ∧ t.loftPoison g a = s.loftPoison g a) ∧
      ((∀ h ∈ (s.tile g).held, h.1 ≠ b.val) → (t.tile g).transOf b = none) ∧
      ((s.tile g).walk = none → (∀ a, a ≠ R.BNK_STAT g → a ≠ R.BNK_BUSY g → t.rd a = s.rd a) ∧ t.engs = s.engs))

/-- A write of RUN stores it, withdraws the posted wait of each engine whose bit it clears, frees the credit reserved at its head, and
changes no other register. A write of ILV on a quiet tile stores it, 6 and 7 as 5. SRST leaves RUN, TIL_FAULT, TIL_FADDR at 0,
every engine idle (but for the model's own numbering of instructions, log entry 139), no armed receive and no walk, and keeps ILV,
the Loft, its poison bits and every register of the part but the tile's TIL_CTL, TIL_FAULT, TIL_FADDR, TIL_YREQ, TIL_LOOP and
TIL_ISTAT. The fault clear leaves TIL_FAULT and TIL_FADDR at 0 and no engine faulted. GO with DONE set starts the operation that
WR, PSN and the line address name. A read operation on an ON bank loads the line's bytes and poison bits, a write operation writes
them, and both end with DONE 1 and ERR 0. The counter clear resets the tile's counter sections and touches nothing else. -/
def Obligations.TileControlCommandsComplete : Prop :=
  (∀ (s : State) (g : Tile) (run : BitVec 6), s.Live →
    Completes (.tilCtlRun g run) s fun t =>
      t.fget (R.TIL_CTL g) F.TIL_CTL_RUN = run.toNat ∧ t.fget (R.TIL_CTL g) F.TIL_CTL_ILV = s.fget (R.TIL_CTL g) F.TIL_CTL_ILV ∧
      (∀ e : Eng, t.eng g e = if run.toNat.testBit (engIdx e) = false ∧ ((s.eng g e).wait = .posted ∨ (s.eng g e).wait = .fresh)
        then { s.eng g e with wait := .fresh, wf := none, timer := none, stall := .active, rsv := none } else s.eng g e) ∧
      (∀ a, a ≠ R.TIL_CTL g → t.rd a = s.rd a) ∧ t.loft = s.loft ∧ t.tiles = s.tiles) ∧
  (∀ (s : State) (g : Tile) (v : Fin 8), s.Live → s.quiet g = true →
    exec (.tilCtlIlv g v) s = .next (s.fset (R.TIL_CTL g) F.TIL_CTL_ILV (if v.val = 6 ∨ v.val = 7 then 5 else v.val))) ∧
  (∀ (s : State) (g : Tile), s.Live →
    Completes (.srst g) s fun t =>
      t.fget (R.TIL_CTL g) F.TIL_CTL_RUN = 0 ∧ t.fget (R.TIL_CTL g) F.TIL_CTL_ILV = s.fget (R.TIL_CTL g) F.TIL_CTL_ILV ∧
      t.rd (R.TIL_FAULT g) = 0 ∧ t.rd (R.TIL_FADDR g) = 0 ∧
      (∀ e : Eng, t.eng g e = { EngSt.idle with nextUid := (s.eng g e).nextUid }) ∧
      (t.tile g).loadQ = [] ∧ (t.tile g).recvQ = [] ∧ (t.tile g).walk = none ∧
      t.loft = s.loft ∧ t.loftPsn = s.loftPsn ∧
      (∀ a, a ≠ R.TIL_CTL g → a ≠ R.TIL_FAULT g → a ≠ R.TIL_FADDR g → a ≠ R.TIL_YREQ g →
        (∀ j < 6, a ≠ R.TIL_LOOP g j ∧ a ≠ R.TIL_ISTAT g j) → t.rd a = s.rd a)) ∧
  (∀ (s : State) (g : Tile), s.Live →
    Completes (.tilFaultClr g) s fun t =>
      t.rd (R.TIL_FAULT g) = 0 ∧ t.rd (R.TIL_FADDR g) = 0 ∧
      (∀ e : Eng, t.eng g e = { s.eng g e with faulted := false }) ∧
      (∀ a, a ≠ R.TIL_FAULT g → a ≠ R.TIL_FADDR g → t.rd a = s.rd a) ∧ t.loft = s.loft ∧ t.tiles = s.tiles) ∧
  (∀ (s : State) (g : Tile) (wr : Bool) (psn : BitVec 2), s.Live → s.flag (R.BNK_DCTL g) F.BNK_DCTL_DONE = true →
    Completes (.bnkDctlGo g wr psn) s fun t =>
      t.fget (R.BNK_DCTL g) F.BNK_DCTL_DONE = 0 ∧ t.fget (R.BNK_DCTL g) F.BNK_DCTL_WR = bit wr ∧
      t.fget (R.BNK_DCTL g) F.BNK_DCTL_PSN = psn.toNat ∧
      (t.tile g).dbg = some ⟨wr, psn.toNat, s.fget (R.BNK_DADDR g) F.BNK_DADDR_LINE⟩ ∧
      (∀ a, a ≠ R.BNK_DCTL g → t.rd a = s.rd a) ∧ t.loft = s.loft ∧ t.engs = s.engs) ∧
  (∀ (s : State) (g : Tile) (o : DbgOp), s.Live → (s.tile g).dbg = some o → s.bankAcc g (s.bankOf g (o.line * 64)) = .ok →
    Completes (.debugLineDone g) s fun t =>
      t.fget (R.BNK_DCTL g) F.BNK_DCTL_DONE = 1 ∧ t.fget (R.BNK_DCTL g) F.BNK_DCTL_ERR = 0 ∧ (t.tile g).dbg = none ∧
      (o.wr = false → t.loft = s.loft ∧ t.loftPsn = s.loftPsn ∧
        (∀ j < 8, (t.rd (R.BNK_DDATA g j)).toNat = s.loftNum g (o.line * 64 + 8 * j) 8) ∧
        t.fget (R.BNK_DCTL g) F.BNK_DCTL_PSN = bit (s.loftPoison g (o.line * 64)) + 2 * bit (s.loftPoison g (o.line * 64 + 32))) ∧
      (o.wr = true → (∀ j < 8, t.loftNum g (o.line * 64 + 8 * j) 8 = (s.rd (R.BNK_DDATA g j)).toNat) ∧
        t.loftPoison g (o.line * 64) = o.psn.testBit 0 ∧ t.loftPoison g (o.line * 64 + 32) = o.psn.testBit 1)) ∧
  (∀ (s : State) (g : Tile), s.Live →
    Completes (.tilCntctlClr g) s fun t =>
      (∀ a, R.TIL_ECNTA g 0 ≤ a ∧ a < R.TIL_ECNTA g 0 + 0xF8 ∨ R.TIL_SYNCNT0 g ≤ a ∧ a < R.TIL_SYNCNT0 g + 16 ∨
          R.AW_CNT0 g ≤ a ∧ a < R.AW_CNT0 g + 32 → t.rd a = resetOf a) ∧
      (∀ a, ¬ (R.TIL_ECNTA g 0 ≤ a ∧ a < R.TIL_ECNTA g 0 + 0xF8) → ¬ (R.TIL_SYNCNT0 g ≤ a ∧ a < R.TIL_SYNCNT0 g + 16) →
          ¬ (R.AW_CNT0 g ≤ a ∧ a < R.AW_CNT0 g + 32) → t.rd a = s.rd a) ∧
      t.loft = s.loft ∧ t.engs = s.engs)

/-- INSTRUCTION_COMPLETE of an instruction at its completion point takes it out of flight and completes it with its status, signal and
address; an END also ends the stream. FETCH_PACKET_RETURN of the packet the fetcher waits for puts the bytes of its resident pages
into the buffer; a failed or late packet puts gaps there. A unit that meets the arrival port, with no contest lost there and no
march test running, is taken by the oldest armed load or receive of its class, or by the placement it belongs to, and leaves the
port. A tile cycle of a running engine whose head is an instruction, that loses no contest, is held by no step of its queue and
stands at no yield point, runs its attempt to issue; with nothing in the buffer it counts a starved cycle. -/
def Obligations.EngineEventsComplete : Prop :=
  (∀ (s : State) (g : Tile) (e : Eng) (i : Nat) (r : InFlight), s.Live → (s.eng g e).rec_ i = some r → (s.eng g e).ready r = true →
    s.laneRead g e r = true →
    exec (.instructionComplete g e i) s = .next
      (let t := (s.setEng g e ((s.eng g e).dropRec i)).complete g e r.sig r.iaddr r.status
       if r.op = 0x03 then t.modEng g e fun x => { x with ended := true } else t)) ∧
  (∀ (s : State) (g : Tile) (e : Eng) (w : Nat × Bool) (u v : UnitLoc), s.Live → s.fetchWant g e = some w →
    let p := s.tileP g
    let o := s.pbase g % 2 ^ 48 + w.1
    let n := min 64 (s.soff g e + s.slen g e - w.1)
    s.locate p o = some u → s.locate p (o + n - 1) = some v → u.away = false → v.away = false →
    exec (.fetchPacketReturn g e false) s = .next
      ((s.readTouch p o n).landPacket g e w (!(s.localBlock p o n).2) (s.localBlock p o n).1)) ∧
  (∀ (s : State) (g : Tile) (e : Eng) (w : Nat × Bool), s.Live → s.fetchWant g e = some w →
    exec (.fetchPacketReturn g e true) s = .next (s.landPacket g e w false []) ∧
    exec (.fetchPacketTimeout g e) s = .next (s.landPacket g e w false [])) ∧
  (∀ (s : State) (g : Tile) (reqs : List BankReq) (c : State) (u : BUnit) (r : RecvRec) (rest : List RecvRec) (v : State)
    (q : Option RecvRec), s.Live → (s.contests g reqs).2.contains 0 = false → (s.contests g reqs).1 = c →
    (c.tile g).march.running = false → (c.tile g).presented = some u → c.recvTake g r u = some (v, q) →
    (u.cls = .load → (c.tile g).loadQ = r :: rest → exec (.arrivalUnit g reqs) s = .next
      ((v.modTile g fun t => { t with loadQ := q.toList ++ rest }).modTile g fun t => { t with presented := none })) ∧
    (u.cls = .recv → (c.tile g).recvQ = r :: rest → exec (.arrivalUnit g reqs) s = .next
      ((v.modTile g fun t => { t with recvQ := q.toList ++ rest }).modTile g fun t => { t with presented := none }))) ∧
  (∀ (s : State) (g : Tile) (reqs : List BankReq) (c : State) (u : BUnit) (v : State), s.Live →
    (s.contests g reqs).2.contains 0 = false → (s.contests g reqs).1 = c → (c.tile g).march.running = false →
    (c.tile g).presented = some u → u.cls = .place → c.placeTake g u = some v →
    exec (.arrivalUnit g reqs) s = .next (v.modTile g fun t => { t with presented := none })) ∧
  (∀ (s : State) (g : Tile) (e : Eng) (reqs : List BankReq) (c : State) (i : TInstr), s.Live →
    ((s.contests g reqs).2.any fun p => decide (portEng p = some e)) = false →
    c = (let u := (s.contests g reqs).1
         if (u.eng g e).infl.isEmpty then u else u.tilCnt g (R.TIL_ECNTA g (engIdx e)) F.TIL_ECNTA_BUSY 1) →
    c.runBit g e = true → (c.eng g e).faulted = false → c.stepHold g e = none → (e = .aw → c.ringWait g = false) →
    let d := c.stallAs g e .active
    (d.eng g e).over = false → (d.eng g e).holdY = none →
    (d.head g e = .instr i → exec (.instructionIssue g e reqs) s = .next (d.attempt g e i)) ∧
    (d.head g e = .starve → exec (.instructionIssue g e reqs) s = .next
      ((d.tilCnt g (R.TIL_ECNTC g (engIdx e)) F.TIL_ECNTC_STARVE 1).stallAs g e .starve)))

/-- For a function that may name the partition and the tiles. TILE_RUN sets or clears the masked RUN bits of every named tile, and a
stop lists the tiles not yet quiet. TILE_STATUS lists the tiles with an engine not idle or a recorded fault, up to 256, and the
number left out. LOFT_POWER ON or OFF leaves every masked bank of every named tile in that state; RET does so for banks that stand
still and are not OFF; where no walk goes on with a bank, no engine and no other register changes. LOFT_READ from banks that are
ON changes nothing and answers the bytes, the poison bits and no flag. LOFT_WRITE to ON banks of a tile with RUN 0 writes exactly
the named bytes and poison bits. TILE_STATS answers the sums, and with CLR those counters of the partition's tiles read their
reset values. TILE_RESET leaves every named tile stopped, without a recorded fault, its engines idle. TILE_CONFIG of quiet tiles
sets ILV and changes nothing else. -/
def Obligations.TileCommandsComplete : Prop :=
  (∀ (s : State) (fn : Fun) (p : Part) (ts : TileSet) (engs : BitVec 6), s.Mail → s.TilesOk fn p ts →
    Answers (.tileRun fn p ts engs true) fn 0x0300 s fun t out =>
      out = lay [(4, 0)] ∧
      (∀ g ∈ s.tilesIn p ts, t.fget (R.TIL_CTL g) F.TIL_CTL_RUN = s.fget (R.TIL_CTL g) F.TIL_CTL_RUN ||| engs.toNat) ∧
      t.loft = s.loft ∧ s.KeepsRegs t fun a => ∃ g ∈ s.tilesIn p ts, a = R.TIL_CTL g) ∧
  (∀ (s : State) (fn : Fun) (p : Part) (ts : TileSet) (engs : BitVec 6), s.Mail → s.TilesOk fn p ts →
    Answers (.tileRun fn p ts engs false) fn 0x0300 s fun t out =>
      out = lay (layList (((s.tilesIn p ts).filter fun g => !t.quiet g).map fun g => (2, g))) ∧
      (∀ g ∈ s.tilesIn p ts, t.fget (R.TIL_CTL g) F.TIL_CTL_RUN = s.fget (R.TIL_CTL g) F.TIL_CTL_RUN &&& (63 - engs.toNat)) ∧
      t.loft = s.loft ∧ s.KeepsRegs t fun a => ∃ g ∈ s.tilesIn p ts, a = R.TIL_CTL g) ∧
  (∀ (s : State) (fn : Fun) (p : Part), s.Mail → OwnFn fn p →
    Answers (.tileStatus fn p) fn 0x0301 s fun t out =>
      t = s ∧
      let l := (s.tilesOf p).filter fun g =>
        (engsAll.any fun e => decide (s.engState g e ≠ 0)) || s.flag (R.TIL_FAULT g) F.TIL_FAULT_VALID
      out = lay ((4, min 256 l.length) :: ((l.take 256).flatMap fun g =>
        [(2, g), (4, s.tilStat g), (4, (s.rd (R.TIL_FAULT g)).toNat), (8, (s.rd (R.TIL_FADDR g)).toNat)]) ++ [(4, l.length - 256)])) ∧
  (∀ (s : State) (fn : Fun) (p : Part) (ts : TileSet) (banks : Word32) (pw : Pwr), s.Mail → s.TilesOk fn p ts →
    (∀ g ∈ s.tilesIn p ts, wholeGroups (s.ilv g) banks.toNat = true) → (pw ≠ .on → ∀ g ∈ s.tilesIn p ts, s.stopped g = true) →
    Answers (.loftPower fn p ts banks pw) fn 0x0302 s fun t out =>
      out = t.toldBytes ((s.tilesIn p ts).map R.BNK_PWR) ∧
      (∀ g ∈ s.tilesIn p ts, ∀ b < 32, banks.toNat.testBit b = true →
        pw ≠ .ret ∨ ((s.tile g).transOf b = none ∧ s.fget (R.BNK_STAT g) (F.BNK_STAT_CUR b) ≠ 0) →
        t.fget (R.BNK_STAT g) (F.BNK_STAT_CUR b) = (match pw with | .on => 3 | .ret => 1 | .off => 0)) ∧
      ((∀ g ∈ s.tilesIn p ts, (s.tile g).walk = none) → t.engs = s.engs ∧
        s.KeepsRegs t fun a => ∃ g ∈ s.tilesIn p ts, a = R.BNK_PWR g ∨ a = R.BNK_STAT g ∨ a = R.BNK_BUSY g)) ∧
  (∀ (s : State) (fn : Fun) (g : Tile) (addr n : Nat), s.Mail → s.OwnTile fn g → 1 ≤ n → n ≤ 4096 → addr + n ≤ 2 ^ 22 →
    (∀ j < n, s.bankAcc g (s.bankOf g (addr + j)) = .ok) →
    Answers (.loftRead fn g addr n) fn 0x0303 s fun t out =>
      t = s ∧
      out = lay ((4, n) :: ((List.range n).map fun j => (1, (s.loftByte g (addr + j)).toNat)) ++
        (4, (sheavesOf addr n).length) :: ((sheavesOf addr n).map fun a => (1, bit (s.loftPoison g a))) ++
        (4, (sheavesOf addr n).length) :: ((sheavesOf addr n).map fun _ => (1, 0)))) ∧
  (∀ (s : State) (fn : Fun) (g : Tile) (addr : Nat) (data : List Byte) (psn : List Bool), s.Mail → s.OwnTile fn g →
    addr % 32 = 0 → data.length % 32 = 0 → 32 ≤ data.length → data.length ≤ 4096 → addr + data.length ≤ 2 ^ 22 →
    psn.length = data.length / 32 → s.fget (R.TIL_CTL g) F.TIL_CTL_RUN = 0 → s.ilv g ≤ 5 →
    (∀ j < data.length, s.bankAcc g (s.bankOf g (addr + j)) = .ok) →
    Answers (.loftWrite fn g addr data psn) fn 0x0304 s fun t out =>
      out = [] ∧
      (∀ j < data.length, t.loftByte g (addr + j) = data.getD j 0) ∧
      (∀ j < psn.length, t.loftPoison g (addr + 32 * j) = psn.getD j false) ∧
      (∀ a < 2 ^ 22, a < addr ∨ addr + data.length ≤ a → t.loftByte g a = s.loftByte g a ∧ t.loftPoison g a = s.loftPoison g a) ∧
      (∀ h : Tile, h ≠ g → s.ilv h ≤ 5 → ∀ a < 2 ^ 22, t.loftByte h a = s.loftByte h a ∧ t.loftPoison h a = s.loftPoison h a) ∧
      t = { s with loft := t.loft, loftPsn := t.loftPsn }) ∧
  (∀ (s : State) (fn : Fun) (p : Part) (clr : Bool), s.Mail → OwnFn fn p →
    Answers (.tileStats fn p clr) fn 0x0305 s fun t out =>
      out = lay ((4, 6) :: s.tileSums (s.tilesOf p) tileStatFields) ∧
      (clr = false → t = s) ∧
      (clr = true → ∀ g ∈ s.tilesOf p, ∀ a, R.TIL_ECNTA g 0 ≤ a → a < R.TIL_ECNTA g 0 + 0xF8 → t.rd a = resetOf a) ∧
      s.KeepsRegs t fun a => ∃ g ∈ s.tilesOf p, R.TIL_ECNTA g 0 ≤ a ∧ a < R.TIL_ECNTA g 0 + 0xF8) ∧
  (∀ (s : State) (fn : Fun) (p : Part) (ts : TileSet), s.Mail → s.TilesOk fn p ts →
    Answers (.tileReset fn p ts) fn 0x0306 s fun t _ =>
      t.loft = s.loft ∧ t.loftPsn = s.loftPsn ∧
      ∀ g ∈ s.tilesIn p ts, t.fget (R.TIL_CTL g) F.TIL_CTL_RUN = 0 ∧ t.rd (R.TIL_FAULT g) = 0 ∧ t.rd (R.TIL_FADDR g) = 0 ∧
        ∀ e : Eng, t.eng g e = { EngSt.idle with nextUid := (s.eng g e).nextUid }) ∧
  (∀ (s : State) (fn : Fun) (p : Part) (ts : TileSet) (ilv : Nat), s.Mail → s.TilesOk fn p ts → ilv ≤ 5 →
    (∀ g ∈ s.tilesIn p ts, s.quiet g = true) →
    Answers (.tileConfig fn p ts ilv) fn 0x0307 s fun t out =>
      out = t.toldBytes ((s.tilesIn p ts).map R.TIL_CTL) ∧ (∀ g ∈ s.tilesIn p ts, t.fget (R.TIL_CTL g) F.TIL_CTL_ILV = ilv ∧
        t.fget (R.TIL_CTL g) F.TIL_CTL_RUN = s.fget (R.TIL_CTL g) F.TIL_CTL_RUN) ∧
      s.OnlyRegs t fun a => ∃ g ∈ s.tilesIn p ts, a = R.TIL_CTL g)

/-- Past its wait, on an engine that can issue: NOP and HINT move on by one instruction, JMP to its target, LOOP with N = 0 past its
body, and each completes at once with status 0 and its signal; HINT also reports itself with the time of its issue. LOOP with N
above 0 whose body passes the checks enters the body with its counter at 0. BRV whose variable holds its point and a variant below
V moves to that slot. YIELD without a request moves on; under a request the engine holds at it, its signal kept for the release.
FENCE and END move on and are in flight. A NOP that signals nothing changes, of the registers, only the engine's position, its
status register and its count of retired instructions, which goes up by one unless the counters are frozen, and changes no Loft
byte and no other engine. -/
def Obligations.PlainInstructionsComplete : Prop :=
  (∀ (s : State) (g : Tile) (e : Eng) (h : Sig), s.CanIssue g e h .nop →
    exec (.nop g e h) s = .next ((s.advance g e (s.spc g e + 8) false).complete g e h (s.iaddr g e) 0)) ∧
  (∀ (s : State) (g : Tile) (e : Eng) (inc : Nat), s.CanIssue g e ⟨63, inc⟩ .nop →
    Completes (.nop g e ⟨63, inc⟩) s fun t =>
      t.spc g e = (nextPos (s.eng g e).loops (s.spc g e + 8)).2 % 2 ^ 40 ∧
      t.fget (R.TIL_ISTAT g (engIdx e)) F.TIL_ISTAT_LAST = 0 ∧
      t.fget (R.TIL_ISTAT g (engIdx e)) F.TIL_ISTAT_STICKY = s.fget (R.TIL_ISTAT g (engIdx e)) F.TIL_ISTAT_STICKY ∧
      t.fget (R.TIL_ECNTA g (engIdx e)) F.TIL_ECNTA_RETIRED =
        (if s.flag (R.TIL_CNTCTL g) F.TIL_CNTCTL_FREEZE then s.fget (R.TIL_ECNTA g (engIdx e)) F.TIL_ECNTA_RETIRED
         else min (fldTop F.TIL_ECNTA_RETIRED) (s.fget (R.TIL_ECNTA g (engIdx e)) F.TIL_ECNTA_RETIRED + 1)) ∧
      (s.KeepsRegs t fun a => a = R.TIL_SPC g (engIdx e) ∨ a = R.TIL_ISTAT g (engIdx e) ∨ a = R.TIL_ECNTA g (engIdx e)) ∧
      t.loft = s.loft ∧ t.loftPsn = s.loftPsn ∧ t.tiles = s.tiles ∧ t.net = s.net ∧
      (∀ e2 : Eng, e2 ≠ e → t.eng g e2 = s.eng g e2)) ∧
  (∀ (s : State) (g : Tile) (e : Eng) (h : Sig) (cls : Nat) (lead dur : BitVec 12) (level : Fin 4),
    s.CanIssue g e h (.hint cls lead.toNat dur.toNat level) →
    exec (.hint g e h cls lead dur level) s = .next
      (((s.advance g e (s.spc g e + 8) false).report (.hint g cls lead.toNat dur.toNat level s.now)).complete g e h (s.iaddr g e) 0)) ∧
  (∀ (s : State) (g : Tile) (e : Eng) (h : Sig) (off : BitVec 30), s.CanIssue g e h (.jmp (sext 30 off.toNat)) →
    exec (.jmp g e h off) s = .next
      ((s.advance g e (jmpTarget (s.spc g e) (sext 30 off.toNat)) true).complete g e h (s.iaddr g e) 0)) ∧
  (∀ (s : State) (g : Tile) (e : Eng) (h : Sig) (k : Fin 4) (n : BitVec 16) (len : Nat), s.CanIssue g e h (.loop k n.toNat len) → 0 < len →
    loopChk (cellAt (s.soff g e) (s.slen g e) (s.eng g e).buf) e (s.eng g e).loops (s.spc g e) k len = .ok →
    (n = 0 → exec (.loop g e h k n len) s = .next
      ((s.advance g e (s.spc g e + 8 + 8 * len) true).complete g e h (s.iaddr g e) 0)) ∧
    (n ≠ 0 → exec (.loop g e h k n len) s = .next
      (((s.advance g e (s.spc g e + 8) false).modEng g e fun x =>
        { x with loops := ⟨k, 0, n.toNat, s.spc g e + 8, len⟩ :: x.loops }).complete g e h (s.iaddr g e) 0))) ∧
  (∀ (s : State) (g : Tile) (e : Eng) (h : Sig) (point : BitVec 8) (v j : Nat), s.CanIssue g e h (.brv point.toNat v) →
    s.brvRead g point.toNat v = .slot j →
    exec (.brv g e h point v) s = .next
      (((s.modTile g fun t => { t with varUnread := if t.varUnread.testBit (point.toNat % 4)
        then t.varUnread - 2 ^ (point.toNat % 4) else t.varUnread }).advance g e (s.spc g e + 8 + 8 * j) false).complete g e h (s.iaddr g e) 0)) ∧
  (∀ (s : State) (g : Tile) (e : Eng) (h : Sig) (yid : BitVec 16), s.CanIssue g e h (.yield yid.toNat) →
    (s.flag (R.TIL_YREQ g) F.TIL_YREQ_REQ = false → exec (.yield g e h yid) s = .next
      ((s.advance g e (s.spc g e + 8) false).complete g e h (s.iaddr g e) 0)) ∧
    (s.flag (R.TIL_YREQ g) F.TIL_YREQ_REQ = true →
      Completes (.yield g e h yid) s fun t => (t.eng g e).holdY = some yid.toNat ∧ (t.eng g e).holdSig = h ∧ t.spc g e = s.spc g e ∧ t.loft = s.loft)) ∧
  (∀ (s : State) (g : Tile) (e : Eng) (h : Sig), s.CanIssue g e h .fence →
    Completes (.fence g e h) s fun t =>
      (t.eng g e).infl = (s.eng g e).infl ++ [⟨(s.eng g e).nextUid, 0x02, s.iaddr g e, h, 0, none, 0, 0, [], []⟩] ∧
      t.spc g e = (nextPos (s.eng g e).loops (s.spc g e + 8)).2 % 2 ^ 40 ∧ t.loft = s.loft ∧ t.tiles = s.tiles) ∧
  (∀ (s : State) (g : Tile) (e : Eng) (h : Sig), s.CanIssue g e h .endStream →
    Completes (.endStream g e h) s fun t =>
      (t.eng g e).infl = (s.eng g e).infl ++ [⟨(s.eng g e).nextUid, 0x03, s.iaddr g e, h, 0, none, 0, 0, [], []⟩] ∧
      (t.eng g e).over = true ∧ t.loft = s.loft ∧ t.tiles = s.tiles)

/-- For LD, LDQ, CPY, ACOPY, LDD, MM, RQ, NORM, EMUL, LANE, FN, RED, SMX, ST, STA, ATOM, SEND and RECV with any operands: on an engine
that can issue it, if the operation's issue checks pass with their descriptors and its execution meets no bank that waits and no
fault, the next state holds the operation in flight behind the engine's earlier ones, with its address, signal, status, credit,
open parts and units; the engine's wait is over, it is active, and it stands at the next instruction; the Loft, its poison bits,
the networks and memory are as the execution leaves them. WALK does the same, becomes the tile's walk, and begins to push. -/
def Obligations.OperationsGoInFlight : Prop :=
  (∀ (g : Tile) (h : Sig) (da db : Fin 64), Flies (.ld g h da db) g .le h (.ld da db)) ∧
  (∀ (g : Tile) (h : Sig) (n : Nat), Flies (.ldq g h n) g .le h (.ldq n)) ∧
  (∀ (g : Tile) (h : Sig) (da db : Fin 64), Flies (.cpy g h da db) g .le h (.cpy da db)) ∧
  (∀ (g : Tile) (h : Sig) (da db : Fin 64), Flies (.acopy g h da db) g .le h (.acopy da db)) ∧
  (∀ (g : Tile) (h : Sig) (eng : Nat) (off : BitVec 27), Flies (.ldd g h eng off) g .le h (.ldd eng off.toNat)) ∧
  (∀ (g : Tile) (h : Sig) (da db dc : Fin 64) (strip : Fin 4) (acc mq : Bool),
    Flies (.mm g h da db dc strip acc mq) g .me h (.mm da db dc strip acc mq)) ∧
  (∀ (g : Tile) (h : Sig) (da db dc : Fin 64), Flies (.rq g h da db dc) g .ve h (.rq da db dc)) ∧
  (∀ (g : Tile) (h : Sig) (da db dc : Fin 64), Flies (.norm g h da db dc) g .ve h (.norm da db dc)) ∧
  (∀ (g : Tile) (h : Sig) (da db dc : Fin 64) (relu : Bool), Flies (.emul g h da db dc relu) g .ve h (.emul da db dc relu)) ∧
  (∀ (g : Tile) (h : Sig) (da db dc : Fin 64) (op : Nat), Flies (.lane g h da db dc op) g .ve h (.lane da db dc op)) ∧
  (∀ (g : Tile) (h : Sig) (da dc : Fin 64) (f : Nat), Flies (.fn g h da dc f) g .ve h (.fn da dc f)) ∧
  (∀ (g : Tile) (h : Sig) (da dc : Fin 64) (mx : Bool), Flies (.red g h da dc mx) g .ve h (.red da dc mx)) ∧
  (∀ (g : Tile) (h : Sig) (da db dc : Fin 64), Flies (.smx g h da db dc) g .ve h (.smx da db dc)) ∧
  (∀ (g : Tile) (h : Sig) (da db : Fin 64), Flies (.st g h da db) g .se h (.st da db)) ∧
  (∀ (g : Tile) (h : Sig) (da db : Fin 64), Flies (.sta g h da db) g .se h (.sta da db)) ∧
  (∀ (g : Tile) (h : Sig) (da db : Fin 64) (op : Nat), Flies (.atom g h da db op) g .se h (.atom da db op)) ∧
  (∀ (g : Tile) (h : Sig) (da : Fin 64) (seg empty : Bool), Flies (.send g h da seg empty) g .ne h (.send da seg empty)) ∧
  (∀ (g : Tile) (h : Sig) (db : Fin 64) (seg : Bool), Flies (.recv g h db seg) g .ne h (.recv db seg)) ∧
  (∀ (s : State) (g : Tile) (h : Sig) (da : Fin 64) (ds : List Desc), s.CanIssue g .aw h (.walk da) → s.walkChk g da = .ok ds →
    (opWalk s g (ds.getD 0 ⟨0, 0⟩)).x.stop = .go →
    exec (.walk g h da) s = .next
      (let r := opWalk s g (ds.getD 0 ⟨0, 0⟩)
       (((r.x.s.launch g .aw 0x10 h (s.iaddr g .aw) r.x.st none r.need 0).arm g (r.x.s.eng g .aw).nextUid r.recv).advance g .aw
         (s.spc g .aw + 8) false).pump g))

/-- A quiet tile under a yield request whose engines have all ended parks with AT and ENDED; one whose engines have ended or hold at
yields of one ID, at least one holding, parks with AT and that ID. A request sets REQ alone; withdrawing it clears TIL_YREQ and
releases the engines held: one that is not faulted passes its YIELD, which completes with the signal kept for it; a faulted one
gives none. A write of TIL_SPC of an engine that is stopped with nothing in flight sets its position, a multiple of 8, empties its
buffers and loops, and keeps its wait. A write of TIL_PBASE with RUN 0, and of TIL_DBASE of a stopped engine with nothing in
flight, is taken. A write of TIL_VAR sets point, variant and valid. None changes another register or a Loft byte. -/
def Obligations.PositionRegistersComplete : Prop :=
  (∀ (s : State) (g : Tile), s.Live → s.flag (R.TIL_YREQ g) F.TIL_YREQ_REQ = true → s.flag (R.TIL_YREQ g) F.TIL_YREQ_AT = false →
    s.quiet g = true → (∀ e : Eng, (s.eng g e).ended = true ∧ (s.eng g e).holdY = none) →
    Completes (.tilePark g) s fun t =>
      t.fget (R.TIL_YREQ g) F.TIL_YREQ_AT = 1 ∧ t.fget (R.TIL_YREQ g) F.TIL_YREQ_ENDED = 1 ∧ s.OnlyRegs t fun a => a = R.TIL_YREQ g) ∧
  (∀ (s : State) (g : Tile) (y : Nat), s.Live → y < 65536 → s.flag (R.TIL_YREQ g) F.TIL_YREQ_REQ = true →
    s.flag (R.TIL_YREQ g) F.TIL_YREQ_AT = false → s.quiet g = true →
    (∀ e : Eng, ((s.eng g e).ended = true ∧ (s.eng g e).holdY = none) ∨ ((s.eng g e).holdY = some y ∧ (s.eng g e).faulted = false)) →
    (∃ e : Eng, (s.eng g e).holdY = some y) →
    Completes (.tilePark g) s fun t =>
      t.fget (R.TIL_YREQ g) F.TIL_YREQ_AT = 1 ∧ t.fget (R.TIL_YREQ g) F.TIL_YREQ_ID = y ∧ s.OnlyRegs t fun a => a = R.TIL_YREQ g) ∧
  (∀ (s : State) (g : Tile), s.Live →
    exec (.tilYreqWrite g true) s = .next (s.fset (R.TIL_YREQ g) F.TIL_YREQ_REQ 1) ∧
    exec (.tilYreqWrite g false) s = .next ((s.wr (R.TIL_YREQ g) 0).each engsAll fun s e => s.yieldRelease g e)) ∧
  (∀ (s : State) (g : Tile) (e : Eng),
    ((s.eng g e).holdY = none → s.yieldRelease g e = s) ∧
    ((s.eng g e).holdY ≠ none → (s.eng g e).faulted = true → s.yieldRelease g e = s.setEng g e { s.eng g e with holdY := none }) ∧
    ((s.eng g e).holdY ≠ none → (s.eng g e).faulted = false → s.yieldRelease g e =
      (((s.setEng g e { s.eng g e with holdY := none }).clearWait g e).moveTo g e (s.spc g e + 8) false).complete g e (s.eng g e).holdSig
        (s.iaddr g e) 0)) ∧
  (∀ (s : State) (g : Tile) (e : Eng) (off : Nat), s.Live → s.runBit g e = false → (s.eng g e).infl = [] →
    Completes (.tilSpcWrite g e off) s fun t =>
      t.spc g e = off / 8 * 8 % 2 ^ 40 ∧ (t.eng g e).wait = (s.eng g e).wait ∧ (t.eng g e).wf = (s.eng g e).wf ∧
      (t.eng g e).timer = (s.eng g e).timer ∧ (t.eng g e).buf = [] ∧ (t.eng g e).bbuf = [] ∧ (t.eng g e).loops = [] ∧
      (t.eng g e).ended = false ∧ (t.eng g e).faulted = (s.eng g e).faulted ∧
      (∀ a, a ≠ R.TIL_SPC g (engIdx e) → t.rd a = s.rd a) ∧ t.loft = s.loft ∧ t.tiles = s.tiles) ∧
  (∀ (s : State) (g : Tile) (addr : Word64), s.Live → s.fget (R.TIL_CTL g) F.TIL_CTL_RUN = 0 →
    Completes (.tilPbaseWrite g addr) s fun t =>
      t.fget (R.TIL_PBASE g) F.TIL_PBASE_ADDR = addr.toNat / 64 ∧ s.OnlyRegs t fun a => a = R.TIL_PBASE g) ∧
  (∀ (s : State) (g : Tile) (e : Eng) (base : Nat), s.Live → s.runBit g e = false → (s.eng g e).infl = [] →
    Completes (.tilDbaseWrite g e base) s fun t =>
      t.fget (R.TIL_DBASE g (engIdx e)) F.TIL_DBASE_BASE = base / 2048 % 2048 ∧ s.OnlyRegs t fun a => a = R.TIL_DBASE g (engIdx e)) ∧
  (∀ (s : State) (g : Tile) (j : Fin 4) (point : BitVec 8) (variant : BitVec 6) (valid : Bool), s.Live →
    Completes (.tilVarWrite g j point variant valid) s fun t =>
      t.fget (R.TIL_VAR g j) F.TIL_VAR_POINT = point.toNat ∧ t.fget (R.TIL_VAR g j) F.TIL_VAR_VARIANT = variant.toNat ∧
      t.fget (R.TIL_VAR g j) F.TIL_VAR_VALID = bit valid ∧ (t.tile g).varUnread.testBit j = true ∧
      (∀ a, a ≠ R.TIL_VAR g j → t.rd a = s.rd a) ∧ t.loft = s.loft ∧ t.engs = s.engs)

/-- PROG_LOAD of a 64-byte-aligned address whose bytes pass the checks of R334 and R335, and whose header has the magic number,
version 1, 1 to 16 entry points, legal streams that end in the program's region and the digest of its bytes, on tiles of the
partition that are quiet with RUN 0, points every named tile at the program, answers the digest and adds it to the measurement
log, and changes no Loft byte and no engine. PROG_START of such tiles at an entry point the program has, under the interleave the
program asks for, starts each named tile in turn, and a started tile has every RUN bit set; it answers each tile's TIL_SPC,
TIL_DBASE and TIL_CTL. PROG_WHERE of a tile the function may name changes nothing and answers each engine's position, loop
counters, status and state, then the tile's variables and its yield register. -/
def Obligations.ProgramCommandsComplete : Prop :=
  (∀ (s : State) (fn : Fun) (p : Part) (addr : Word64) (ts : TileSet), s.Mail → OwnFn fn p → tileSetBad ts = false →
    addr.toNat % 64 = 0 → addr.toNat < 2 ^ 48 →
    s.readTouch p addr.toNat (s.progLen p addr.toNat) = s →
    s.locNum p addr.toNat 4 = 0x484C4942 → s.locNum p (addr.toNat + 4) 2 = 1 →
    1 ≤ s.locNum p (addr.toNat + 6) 2 → s.locNum p (addr.toNat + 6) 2 ≤ 16 →
    (∀ e < 6, s.locNum p (addr.toNat + (0x10 + 8 * e)) 4 % 64 = 0 ∧ s.locNum p (addr.toNat + (0x14 + 8 * e)) 4 % 8 = 0 ∧
      (s.locNum p (addr.toNat + (0x14 + 8 * e)) 4 = 0 ∨ (0x400 ≤ s.locNum p (addr.toNat + (0x10 + 8 * e)) 4 ∧
        s.rgnOf p (addr.toNat + s.locNum p (addr.toNat + (0x10 + 8 * e)) 4 + s.locNum p (addr.toNat + (0x14 + 8 * e)) 4 - 1) =
          s.rgnOf p addr.toNat))) →
    s.progDigest p addr.toNat = (s.localBytes p (addr.toNat + 0x280) 32).1 →
    (∀ g ∈ s.tilesIn p ts, s.tilePart g = some p.val ∧ s.quiet g = true ∧ s.fget (R.TIL_CTL g) F.TIL_CTL_RUN = 0) →
    Answers (.progLoad fn p addr ts) fn 0x0400 s fun t out =>
      out = s.progDigest p addr.toNat ∧
      (∀ g ∈ s.tilesIn p ts, t.fget (R.TIL_PBASE g) F.TIL_PBASE_ADDR = addr.toNat / 64) ∧
      (s.sec.log.length < 4096 → t.sec.log = s.sec.log ++ [⟨16 + p.val, 5, s.now, s.progDigest p addr.toNat⟩]) ∧
      t.loft = s.loft ∧ t.engs = s.engs ∧ t.tiles = s.tiles ∧ t.mem = s.mem) ∧
  (∀ (s : State) (fn : Fun) (p : Part) (ts : TileSet) (k : Nat) (init : Bool), s.Mail → OwnFn fn p → tileSetBad ts = false → k ≤ 15 →
    (∀ g ∈ s.tilesIn p ts, s.tilePart g = some p.val ∧ s.quiet g = true ∧ s.fget (R.TIL_CTL g) F.TIL_CTL_RUN = 0 ∧
      s.progNum g 8 4 % 8 = s.ilv g ∧ k < s.progNum g 6 2) →
    Answers (.progStart fn p ts k init) fn 0x0401 s fun t out =>
      t = (s.each (s.tilesIn p ts) fun s g => s.startTile g k init) ∧
      out = t.toldBytes ((s.tilesIn p ts).flatMap fun g => (List.range 6).map (R.TIL_SPC g) ++ (List.range 6).map (R.TIL_DBASE g) ++ [R.TIL_CTL g])) ∧
  (∀ (s : State) (fn : Fun) (g : Tile), s.Mail → s.OwnTile fn g →
    Answers (.progWhere fn g) fn 0x0402 s fun t out =>
      t = s ∧ out = lay ((4, 6) :: (engsAll.flatMap fun e =>
        [(8, s.spc g e), (8, s.tilLoop g e), (4, (s.rd (R.TIL_ISTAT g (engIdx e))).toNat), (1, s.engState g e)]) ++
        (4, 4) :: ((List.range 4).map fun j => (4, (s.rd (R.TIL_VAR g j)).toNat)) ++ [(4, (s.rd (R.TIL_YREQ g)).toNat)])) ∧
  (∀ (s : State) (g : Tile) (k : Nat) (init : Bool), (s.startTile g k init).fget (R.TIL_CTL g) F.TIL_CTL_RUN = 63)

/-- A signal through a POOL or ARC alias on which no test is posted adds its increment; up to 65,535 it changes that register alone;
beyond, the count stays at 65,535 and the engine faults with SEMOVF. One through a BAR alias is the tile's arrival at the cluster
node. A batch of one signal is applied the same way and leaves the batch empty; a batch of one first test that the count covers
grants it, and a consuming test subtracts its threshold. Of two consuming tests posted on one ARC counter of which a signal covers
only the first in the fixed order, that one is granted and the other stays posted. When the timer of a wait ends: in the batch it
is marked; posted on POOL its withdrawal joins the batch; posted on ARC or BAR a covered final test is granted, and one that fails
times out: the wait is over, TIL_ISTAT.LAST is 0x80 and the engine faults. One whose grant is on its way ends with a close call. A
closed segment counts one. -/
def Obligations.SignalsAndWaitsComplete : Prop :=
  (∀ (s : State) (g : Tile) (e : Eng) (a : Fin 63) (inc : Nat) (ia : Word32), s.Live → s.aliasType g a = 1 →
    s.NoPoolPost (g.val / 64) (s.aliasIdx g a / 32) →
    Completes (.semaphoreSignal g e a inc ia) s fun t =>
      t.semCount (g.val / 64) (s.aliasIdx g a) = min 65535 (s.semCount (g.val / 64) (s.aliasIdx g a) + inc) ∧
      (s.semCount (g.val / 64) (s.aliasIdx g a) + inc ≤ 65535 →
        s.OnlyRegs t fun r => r = R.SYN_SEM (g.val / 64) (s.aliasIdx g a)) ∧
      (65535 < s.semCount (g.val / 64) (s.aliasIdx g a) + inc → t.runBit g e = false ∧ (t.eng g e).faulted = true ∧
        (s.flag (R.TIL_FAULT g) F.TIL_FAULT_VALID = false → t.fget (R.TIL_FAULT g) F.TIL_FAULT_CAUSE = 0x30 ∧
          t.fget (R.TIL_FAULT g) F.TIL_FAULT_SRC = engIdx e ∧ t.fget (R.TIL_FADDR g) F.TIL_FADDR_IADDR = ia.toNat))) ∧
  (∀ (s : State) (g : Tile) (e : Eng) (a : Fin 63) (inc : Nat) (ia : Word32), s.Live → s.aliasType g a = 2 → s.aliasIdx g a < 64 →
    s.NoTilePost g 2 (s.aliasIdx g a) → s.arcCount g (s.aliasIdx g a) + inc ≤ 65535 →
    Completes (.semaphoreSignal g e a inc ia) s fun t =>
      t.arcCount g (s.aliasIdx g a) = s.arcCount g (s.aliasIdx g a) + inc ∧
      s.OnlyRegs t fun r => r = R.TIL_ARC g (s.aliasIdx g a)) ∧
  (∀ (s : State) (g : Tile) (e : Eng) (a : Fin 63) (inc : Nat) (ia : Word32), s.Live → s.aliasType g a = 3 →
    exec (.semaphoreSignal g e a inc ia) s = .next
      (s.barArrive (.cluster (Fin.ofNat 24 (g.val / 64)) (Fin.ofNat 8 (g.val % 64 / 8))) (s.aliasIdx g a % 64) (g.val % 8) (some e) ia.toNat)) ∧
  (∀ (s : State) (g : Tile) (e : Eng) (a : Fin 63) (inc ia : Nat), s.Live → (s.tile g).batch = [.signal e a inc ia] → s.aliasType g a = 1 →
    s.NoPoolPost (g.val / 64) (s.aliasIdx g a / 32) → s.semCount (g.val / 64) (s.aliasIdx g a) + inc ≤ 65535 →
    Completes (.poolBatch g) s fun t =>
      t.semCount (g.val / 64) (s.aliasIdx g a) = s.semCount (g.val / 64) (s.aliasIdx g a) + inc ∧ (t.tile g).batch = [] ∧
      s.KeepsRegs t fun r => r = R.SYN_SEM (g.val / 64) (s.aliasIdx g a)) ∧
  (∀ (s : State) (g : Tile) (e : Eng) (a : Fin 63) (thr : Nat) (c : Bool), s.Live → (s.tile g).batch = [.test e a thr c false] →
    (s.eng g e).wait = .inBatch → s.aliasType g a = 1 → thr ≤ s.semCount (g.val / 64) (s.aliasIdx g a) →
    Completes (.poolBatch g) s fun t =>
      (t.eng g e).wait = .granted ∧ (t.tile g).batch = [] ∧
      t.semCount (g.val / 64) (s.aliasIdx g a) =
        (if c then s.semCount (g.val / 64) (s.aliasIdx g a) - thr else s.semCount (g.val / 64) (s.aliasIdx g a)) ∧
      s.KeepsRegs t fun r => r = R.SYN_SEM (g.val / 64) (s.aliasIdx g a)) ∧
  (∀ (s : State) (g : Tile) (e e1 e2 : Eng) (a : Fin 63) (inc : Nat) (ia : Word32) (w1 w2 : WaitF), s.Live →
    s.aliasType g a = 2 → s.aliasIdx g a < 64 → e1 ≠ e2 → engsTestOrder.idxOf e1 < engsTestOrder.idxOf e2 →
    (s.eng g e1).wait = .posted → (s.eng g e2).wait = .posted → (s.eng g e1).wf = some w1 → (s.eng g e2).wf = some w2 →
    w1.consume = true → w2.consume = true →
    s.aliasType g w1.alias_ = 2 → s.aliasIdx g w1.alias_ = s.aliasIdx g a →
    s.aliasType g w2.alias_ = 2 → s.aliasIdx g w2.alias_ = s.aliasIdx g a →
    (∀ e3 : Eng, e3 ≠ e1 → e3 ≠ e2 → (s.eng g e3).isPosted = false) →
    s.arcCount g (s.aliasIdx g a) + inc ≤ 65535 → w1.thr ≤ s.arcCount g (s.aliasIdx g a) + inc →
    s.arcCount g (s.aliasIdx g a) + inc < w1.thr + w2.thr →
    Completes (.semaphoreSignal g e a inc ia) s fun t =>
      (t.eng g e1).wait = .granted ∧ (t.eng g e2).wait = .posted ∧
      t.arcCount g (s.aliasIdx g a) = s.arcCount g (s.aliasIdx g a) + inc - w1.thr) ∧
  (∀ (s : State) (g : Tile) (e : Eng) (w : WaitF) (n : Nat), s.Live → (s.eng g e).wf = some w → (s.eng g e).timer = some n →
    (s.eng g e).wait = .inBatch →
    exec (.waitTimerExpiry g e) s = .next (s.modEng g e fun x => { x with timer := some 0 })) ∧
  (∀ (s : State) (g : Tile) (e : Eng) (w : WaitF) (n : Nat), s.Live → (s.eng g e).wf = some w → (s.eng g e).timer = some n →
    (s.eng g e).wait = .posted → s.aliasType g w.alias_ = 1 →
    Completes (.waitTimerExpiry g e) s fun t =>
      (t.eng g e).wait = .finaling ∧ (t.tile g).batch = (s.tile g).batch ++ [.test e w.alias_ w.thr w.consume true] ∧ t.regs = s.regs) ∧
  (∀ (s : State) (g : Tile) (e : Eng) (w : WaitF) (n : Nat), s.Live → (s.eng g e).wf = some w → (s.eng g e).timer = some n →
    (s.eng g e).wait = .posted → s.aliasType g w.alias_ = 2 ∨ s.aliasType g w.alias_ = 3 →
    Completes (.waitTimerExpiry g e) s fun t =>
      (w.thr ≤ s.aliasCount g w.alias_ → (t.eng g e).wait = .granted ∧
        (s.flag (R.TIL_CNTCTL g) F.TIL_CNTCTL_FREEZE = false → t.fget (R.TIL_SYNCNT0 g) F.TIL_SYNCNT0_CLOSECALL =
          min (fldTop F.TIL_SYNCNT0_CLOSECALL) (s.fget (R.TIL_SYNCNT0 g) F.TIL_SYNCNT0_CLOSECALL + 1))) ∧
      (s.aliasCount g w.alias_ < w.thr → s.runBit g e = true →
        (t.eng g e).wait = .fresh ∧ (t.eng g e).faulted = true ∧ t.runBit g e = false ∧
        t.fget (R.TIL_ISTAT g (engIdx e)) F.TIL_ISTAT_LAST = 0x80)) ∧
  (∀ (s : State) (g : Tile) (e : Eng) (w : WaitF) (n : Nat), s.Live → (s.eng g e).wf = some w → (s.eng g e).timer = some n →
    (s.eng g e).wait = .granted →
    Completes (.waitTimerExpiry g e) s fun t =>
      (t.eng g e).wait = .granted ∧ (t.eng g e).timer = none ∧
      (s.flag (R.TIL_CNTCTL g) F.TIL_CNTCTL_FREEZE = false → t.fget (R.TIL_SYNCNT0 g) F.TIL_SYNCNT0_CLOSECALL =
        min (fldTop F.TIL_SYNCNT0_CLOSECALL) (s.fget (R.TIL_SYNCNT0 g) F.TIL_SYNCNT0_CLOSECALL + 1)) ∧
      s.KeepsRegs t fun r => r = R.TIL_SYNCNT0 g) ∧
  (∀ (s : State) (g : Tile) (n : Fin 64), s.Live → s.flag (R.TIL_ARC g n) F.TIL_ARC_EXPIRED = false → s.arcCount g n < 65535 →
    s.NoTilePost g 2 n →
    Completes (.segmentClose g n) s fun t =>
      t.arcCount g n = s.arcCount g n + 1 ∧ s.OnlyRegs t fun r => r = R.TIL_ARC g n)

/-- At a cluster node an arrival of an expected tile on an enabled channel is recorded; if all have arrived and the node is not the
top it sends one arrival up and sets UP; an arrival of a tile already recorded is held as PENDING. At a die, package or fabric
node an arrival of an expected child that leaves another missing is recorded and changes nothing else. A release at a node whose
channel is not enabled changes nothing. At an enabled die node that has sent its arrival up it clears ARRIVED and UP and sends a
release to each expected cluster. At an enabled cluster node it clears UP, moves PENDING into ARRIVED and, with another child
still missing, sends a release to each expected tile. At the other nodes it is the node's release. The step controller's arrival
on an enabled channel with SCHILD that leaves a child missing sets SARR. A write of an idle node channel sets EXPECT, TOP, PART
and EN; of a busy one EN alone. -/
def Obligations.BarrierNodesComplete : Prop :=
  (∀ (s : State) (d : CDie) (c : Fin 8) (ch : Fin 64) (child : Fin 8) (e : Eng) (ia : Word32), s.Live →
    s.flag (R.SYN_CLN d c ch) F.SYN_CLN_EN = true → (s.fget (R.SYN_CLN d c ch) F.SYN_CLN_EXPECT).testBit child = true →
    (s.fget (R.SYN_CLN d c ch) F.SYN_CLN_ARRIVED).testBit child = false →
    Completes (.barrierArrival (.cluster d c) ch child e ia) s fun t =>
      let ar := s.fget (R.SYN_CLN d c ch) F.SYN_CLN_ARRIVED + 2 ^ child.val
      let full := covers ar (s.fget (R.SYN_CLN d c ch) F.SYN_CLN_EXPECT)
      (full = false → t.fget (R.SYN_CLN d c ch) F.SYN_CLN_ARRIVED = ar ∧ s.OnlyRegs t fun r => r = R.SYN_CLN d c ch) ∧
      (full = true → s.flag (R.SYN_CLN d c ch) F.SYN_CLN_TOP = false → s.flag (R.SYN_CLN d c ch) F.SYN_CLN_UP = false →
        t.fget (R.SYN_CLN d c ch) F.SYN_CLN_ARRIVED = ar ∧ t.fget (R.SYN_CLN d c ch) F.SYN_CLN_UP = 1 ∧
        t.net.sync = s.net.sync ++ [⟨d, d, .arrive (.die d) ch c none 0⟩] ∧ s.KeepsRegs t fun r => r = R.SYN_CLN d c ch)) ∧
  (∀ (s : State) (d : CDie) (c : Fin 8) (ch : Fin 64) (child : Fin 8) (e : Eng) (ia : Word32), s.Live →
    s.flag (R.SYN_CLN d c ch) F.SYN_CLN_EN = true → (s.fget (R.SYN_CLN d c ch) F.SYN_CLN_EXPECT).testBit child = true →
    (s.fget (R.SYN_CLN d c ch) F.SYN_CLN_ARRIVED).testBit child = true →
    (s.fget (R.SYN_CLN d c ch) F.SYN_CLN_PENDING).testBit child = false →
    exec (.barrierArrival (.cluster d c) ch child e ia) s = .next
      (s.fset (R.SYN_CLN d c ch) F.SYN_CLN_PENDING (s.fget (R.SYN_CLN d c ch) F.SYN_CLN_PENDING + 2 ^ child.val))) ∧
  (∀ (s : State) (d : CDie) (ch : Fin 64) (child : Fin 8) (e : Eng) (ia : Word32), s.Live →
    s.flag (R.SYN_DIE d ch) F.SYN_DIE_EN = true → (s.fget (R.SYN_DIE d ch) F.SYN_DIE_EXPECT).testBit child = true →
    covers (s.fget (R.SYN_DIE d ch) F.SYN_DIE_ARRIVED ||| 2 ^ child.val) (s.fget (R.SYN_DIE d ch) F.SYN_DIE_EXPECT) = false →
    exec (.barrierArrival (.die d) ch child e ia) s = .next
      (s.fset (R.SYN_DIE d ch) F.SYN_DIE_ARRIVED (s.fget (R.SYN_DIE d ch) F.SYN_DIE_ARRIVED ||| 2 ^ child.val))) ∧
  (∀ (s : State) (ch : Fin 64) (child : Fin 24) (e : Eng) (ia : Word32), s.Live →
    s.flag (R.PKN_CFG ch) F.PKN_CFG_EN = true → (s.fget (R.PKN_CFG ch) F.PKN_CFG_EXPECT).testBit child = true →
    covers (s.fget (R.PKN_ARR ch) F.PKN_ARR_ARRIVED ||| 2 ^ child.val) (s.fget (R.PKN_CFG ch) F.PKN_CFG_EXPECT) = false →
    exec (.barrierArrival .pkg ch child e ia) s = .next
      (s.fset (R.PKN_ARR ch) F.PKN_ARR_ARRIVED (s.fget (R.PKN_ARR ch) F.PKN_ARR_ARRIVED ||| 2 ^ child.val))) ∧
  (∀ (s : State) (ch : Fin 64) (child : Fin 36) (e : Eng) (ia : Word32), s.Live →
    s.flag (R.FBN_CFG 0 ch) F.FBN_CFG_EN = true → (s.fget (R.FBN_KIDS 0 ch) F.FBN_KIDS_LINKS).testBit child = true →
    covers (s.fget (R.FBN_ARR 0 ch) F.FBN_ARR_LINKS ||| 2 ^ child.val) (s.fget (R.FBN_KIDS 0 ch) F.FBN_KIDS_LINKS) = false →
    exec (.barrierArrival .fab ch child e ia) s = .next
      (s.fset (R.FBN_ARR 0 ch) F.FBN_ARR_LINKS (s.fget (R.FBN_ARR 0 ch) F.FBN_ARR_LINKS ||| 2 ^ child.val))) ∧
  (∀ (s : State) (node : BNode) (ch : Fin 64), s.Live → s.nodeEn node ch = false → exec (.barrierRelease node ch) s = .next s) ∧
  (∀ (s : State) (d : CDie) (ch : Fin 64), s.Live → s.flag (R.SYN_DIE d ch) F.SYN_DIE_EN = true → s.flag (R.SYN_DIE d ch) F.SYN_DIE_UP = true →
    Completes (.barrierRelease (.die d) ch) s fun t =>
      t.fget (R.SYN_DIE d ch) F.SYN_DIE_ARRIVED = 0 ∧ t.fget (R.SYN_DIE d ch) F.SYN_DIE_UP = 0 ∧
      t.net.sync = s.net.sync ++ (((List.range 8).filter fun c => (s.fget (R.SYN_DIE d ch) F.SYN_DIE_EXPECT).testBit c).map fun c =>
        ⟨d, d, .release (.cluster d (Fin.ofNat 8 c)) ch⟩) ∧
      (s.KeepsRegs t fun r => r = R.SYN_DIE d ch)) ∧
  (∀ (s : State) (d : CDie) (c : Fin 8) (ch : Fin 64), s.Live → s.flag (R.SYN_CLN d c ch) F.SYN_CLN_EN = true →
    s.flag (R.SYN_CLN d c ch) F.SYN_CLN_UP = true →
    covers (s.fget (R.SYN_CLN d c ch) F.SYN_CLN_PENDING) (s.fget (R.SYN_CLN d c ch) F.SYN_CLN_EXPECT) = false →
    Completes (.barrierRelease (.cluster d c) ch) s fun t =>
      t.fget (R.SYN_CLN d c ch) F.SYN_CLN_ARRIVED = s.fget (R.SYN_CLN d c ch) F.SYN_CLN_PENDING ∧
      t.fget (R.SYN_CLN d c ch) F.SYN_CLN_PENDING = 0 ∧ t.fget (R.SYN_CLN d c ch) F.SYN_CLN_UP = 0 ∧
      t.net.sync = s.net.sync ++ (((List.range 8).filter fun j => (s.fget (R.SYN_CLN d c ch) F.SYN_CLN_EXPECT).testBit j).map fun j =>
        ⟨d, d, .tileRelease (d.val * 64 + c.val * 8 + j) ch⟩) ∧
      (s.KeepsRegs t fun r => r = R.SYN_CLN d c ch)) ∧
  (∀ (s : State) (node : BNode) (ch : Fin 64), s.Live → s.releasable node ch = true →
    exec (.barrierRelease node ch) s = .next (s.barRelease node ch)) ∧
  (∀ (s : State) (ch : Fin 64), s.Live → s.flag (R.PKN_CFG ch) F.PKN_CFG_EN = true → s.flag (R.PKN_CFG ch) F.PKN_CFG_SCHILD = true →
    covers (s.fget (R.PKN_ARR ch) F.PKN_ARR_ARRIVED) (s.fget (R.PKN_CFG ch) F.PKN_CFG_EXPECT) = false →
    exec (.pknSarr ch) s = .next (s.fset (R.PKN_CFG ch) F.PKN_CFG_SARR 1)) ∧
  (∀ (s : State) (d : CDie) (c : Fin 8) (ch : Fin 64) (v : Word64), s.Live →
    (s.nodeBusy (.cluster d c) ch = false →
      Completes (.nodeChannelWrite (.cluster d c) ch v) s fun t =>
        t.fget (R.SYN_CLN d c ch) F.SYN_CLN_EXPECT = v.toNat % 256 ∧ t.flag (R.SYN_CLN d c ch) F.SYN_CLN_TOP = v.toNat.testBit 24 ∧
        t.flag (R.SYN_CLN d c ch) F.SYN_CLN_EN = v.toNat.testBit 25 ∧ t.fget (R.SYN_CLN d c ch) F.SYN_CLN_PART = v.toNat / 2 ^ 32 % 16 ∧
        s.OnlyRegs t fun r => r = R.SYN_CLN d c ch) ∧
    (s.nodeBusy (.cluster d c) ch = true → exec (.nodeChannelWrite (.cluster d c) ch v) s = .next
      (s.fset (R.SYN_CLN d c ch) F.SYN_CLN_EN (bit (v.toNat.testBit 25))))) ∧
  (∀ (s : State) (d : CDie) (ch : Fin 64) (v : Word64), s.Live → s.nodeBusy (.die d) ch = false →
    Completes (.nodeChannelWrite (.die d) ch v) s fun t =>
      t.fget (R.SYN_DIE d ch) F.SYN_DIE_EXPECT = v.toNat % 256 ∧ t.flag (R.SYN_DIE d ch) F.SYN_DIE_TOP = v.toNat.testBit 24 ∧
      t.flag (R.SYN_DIE d ch) F.SYN_DIE_EN = v.toNat.testBit 25 ∧ t.fget (R.SYN_DIE d ch) F.SYN_DIE_PART = v.toNat / 2 ^ 32 % 16 ∧
      s.OnlyRegs t fun r => r = R.SYN_DIE d ch) ∧
  (∀ (s : State) (ch : Fin 64) (v : Word64), s.Live → s.nodeBusy .pkg ch = false → v.toNat.testBit 28 = false →
    Completes (.nodeChannelWrite .pkg ch v) s fun t =>
      t.fget (R.PKN_CFG ch) F.PKN_CFG_EXPECT = v.toNat % 2 ^ 24 ∧ t.flag (R.PKN_CFG ch) F.PKN_CFG_TOP = v.toNat.testBit 24 ∧
      t.flag (R.PKN_CFG ch) F.PKN_CFG_EN = v.toNat.testBit 25 ∧ t.flag (R.PKN_CFG ch) F.PKN_CFG_SCHILD = v.toNat.testBit 27 ∧
      s.OnlyRegs t fun r => r = R.PKN_CFG ch) ∧
  (∀ (s : State) (ch : Fin 64) (v : Word64), s.Live → s.nodeBusy .fab ch = false →
    Completes (.nodeChannelWrite .fab ch v) s fun t =>
      t.fget (R.FBN_CFG 0 ch) F.FBN_CFG_PARENT = v.toNat % 4096 ∧ t.flag (R.FBN_CFG 0 ch) F.FBN_CFG_ROOT = v.toNat.testBit 12 ∧
      t.flag (R.FBN_CFG 0 ch) F.FBN_CFG_EN = v.toNat.testBit 13 ∧ t.fget (R.FBN_CFG 0 ch) F.FBN_CFG_PLINK = v.toNat / 2 ^ 32 % 64 ∧
      s.OnlyRegs t fun r => r = R.FBN_CFG 0 ch)

/-- A write of a semaphore without a posted test in its group sets COUNT, OWNER and OWNED. A write of an alias of a stopped tile that
R206 admits sets INDEX and TYPE; any other sets AREF alone. A write of an arrival counter without a posted test sets COUNT, PART,
QUANT (0 as 1) and MODE. SYNC_QUOTA gives the partition the number of groups on every named die and leaves the other dies and
partitions their groups. SYNC_MAP of a stopped tile of the partition without a posted test maps the alias, for POOL with the
semaphore's ownership and count, and answers the index. SYNC_CHANNEL enables exactly the nodes the tile set uses up to the scope,
expects exactly the tiles named, and marks the top. SYNC_TIMEOUT sets the timeout register of every named tile. SYNC_REARM sets
COUNT and clears PART and EXPIRED. These three answer the registers they set. SYNC_STATUS answers the sums of the counters and
with CLR resets them. -/
def Obligations.SyncWritesAndCommandsComplete : Prop :=
  (∀ (s : State) (d : CDie) (j : Fin 2048) (v : Word32), s.Live → s.NoPoolPost d (j.val / 32) →
    Completes (.synSemWrite d j v) s fun t =>
      t.semCount d j = v.toNat % 65536 ∧ t.ownerOf d j = v.toNat / 65536 % 64 ∧ t.owned d j = v.toNat.testBit 24 ∧
      (s.owned d j = false → s.OnlyRegs t fun r => r = R.SYN_SEM d j)) ∧
  (∀ (s : State) (g : Tile) (a : Fin 63) (v : Word32), s.Live → s.stopped g = true →
    s.aliasOk g a (v.toNat / 4096 % 4) (v.toNat % 2048) = true →
    Completes (.tilAliasWrite g a v) s fun t =>
      t.aliasType g a = v.toNat / 4096 % 4 ∧ t.aliasIdx g a = v.toNat % 2048 ∧
      t.fget (R.TIL_ALIAS g a) F.TIL_ALIAS_RELCNT = (if v.toNat / 4096 % 4 = 3 then v.toNat / 65536 else 0) ∧
      s.OnlyRegs t fun r => r = R.TIL_ALIAS g a) ∧
  (∀ (s : State) (g : Tile) (a : Fin 63) (v : Word32), s.Live →
    s.stopped g = false ∨ s.aliasOk g a (v.toNat / 4096 % 4) (v.toNat % 2048) = false →
    exec (.tilAliasWrite g a v) s = .next (s.fset (R.TIL_SYNSTAT g) F.TIL_SYNSTAT_AREF 1)) ∧
  (∀ (s : State) (g : Tile) (n : Fin 64) (v : Word64), s.Live → s.NoTilePost g 2 n →
    Completes (.tilArcWrite g n v) s fun t =>
      t.arcCount g n = v.toNat % 65536 ∧ t.fget (R.TIL_ARC g n) F.TIL_ARC_PART = v.toNat / 2 ^ 16 % 65536 ∧
      t.fget (R.TIL_ARC g n) F.TIL_ARC_QUANT = max 1 (v.toNat / 2 ^ 32 % 65536) ∧
      t.flag (R.TIL_ARC g n) F.TIL_ARC_MODE = v.toNat.testBit 48 ∧
      t.flag (R.TIL_ARC g n) F.TIL_ARC_EXPIRED = (s.flag (R.TIL_ARC g n) F.TIL_ARC_EXPIRED && !v.toNat.testBit 49) ∧
      s.OnlyRegs t fun r => r = R.TIL_ARC g n) ∧
  (∀ (s : State) (fn : Fun) (p : Part) (dies : BitVec 24) (n : Nat), s.Mail → fn.val = 0 → n ≤ 64 →
    (∀ d : CDie, dies.toNat.testBit d = true → n ≤ (s.groupsOf d p).length + (s.freeGroups d).length ∧
      (s.groupsOf d p).length ≤ ((s.groupsOf d p).filter (s.unowned d)).length + n) →
    Answers (.syncQuota fn p dies n) fn 0x0500 s fun t out =>
      (∀ d : CDie, dies.toNat.testBit d = true → (t.groupsOf d p).length = n) ∧
      (∀ d : CDie, dies.toNat.testBit d = false → t.groupsOf d p = s.groupsOf d p) ∧
      (∀ d : CDie, ∀ q : Part, q ≠ p → t.groupsOf d q = s.groupsOf d q) ∧
      out = lay (layList ((List.range 24).map fun d => (8, ((t.groupsOf d p).map fun k => 2 ^ k).foldl (· + ·) 0)))) ∧
  (∀ (s : State) (fn : Fun) (p : Part) (g : Tile) (a : Fin 63) (idx : Fin 2048) (count quant mode : Nat), s.Mail → OwnFn fn p →
    s.tilePart g = some p.val → s.stopped g = true → count ≤ 65535 → quant ≤ 65535 → mode ≤ 1 →
    s.grpPart (g.val / 64) (idx.val / 32) = some p.val →
    s.owned (g.val / 64) idx = false ∨ s.ownerOf (g.val / 64) idx = g.val % 64 → s.NoPoolPost (g.val / 64) (idx.val / 32) →
    (∀ e ∈ engsAll, (s.eng g e).isPosted = false) →
    Answers (.syncMap fn p g a 1 idx count quant mode) fn 0x0501 s fun t out =>
      out = lay [(2, idx.val)] ∧ t.aliasType g a = 1 ∧ t.aliasIdx g a = idx ∧ t.owned (g.val / 64) idx = true ∧
      t.ownerOf (g.val / 64) idx = g.val % 64 ∧ t.semCount (g.val / 64) idx = count ∧
      s.OnlyRegs t fun r => r = R.TIL_ALIAS g a ∨ r = R.SYN_SEM (g.val / 64) idx) ∧
  (∀ (s : State) (fn : Fun) (p : Part) (g : Tile) (a : Fin 63) (idx : Fin 64) (count quant mode : Nat), s.Mail → OwnFn fn p →
    s.tilePart g = some p.val → s.stopped g = true → count ≤ 65535 → quant ≤ 65535 → mode ≤ 1 → (∀ e ∈ engsAll, (s.eng g e).isPosted = false) →
    Answers (.syncMap fn p g a 2 idx count quant mode) fn 0x0501 s fun t out =>
      out = lay [(2, idx.val)] ∧ t.aliasType g a = 2 ∧ t.aliasIdx g a = idx ∧ t.arcCount g idx = count ∧
      t.fget (R.TIL_ARC g idx) F.TIL_ARC_QUANT = max 1 quant ∧ t.fget (R.TIL_ARC g idx) F.TIL_ARC_MODE = mode) ∧
  (∀ (s : State) (fn : Fun) (p : Part) (g : Tile) (a : Fin 63) (idx : Fin 64) (count quant mode : Nat), s.Mail → OwnFn fn p →
    s.tilePart g = some p.val → s.stopped g = true → count ≤ 65535 → quant ≤ 65535 → mode ≤ 1 → s.aliasOk g a 3 idx = true →
    Answers (.syncMap fn p g a 3 idx count quant mode) fn 0x0501 s fun t out =>
      out = lay [(2, idx.val)] ∧ t.aliasType g a = 3 ∧ t.aliasIdx g a = idx ∧
      t.fget (R.TIL_ALIAS g a) F.TIL_ALIAS_RELCNT = count ∧ s.OnlyRegs t fun r => r = R.TIL_ALIAS g a) ∧
  (∀ (s : State) (fn : Fun) (p : Part) (ch : Fin 64) (ts : TileSet) (scope : Fin 4) (schild : Bool), s.Mail → s.TilesOk fn p ts →
    (∀ n ∈ allNodes, s.nodePart n ch = p ∧ s.nodeBusy n ch = false) → (schild = true → 2 ≤ scope.val) →
    Answers (.syncChannel fn p ch ts scope schild) fn 0x0502 s fun t out =>
      out = t.toldBytes (allNodes.flatMap fun n => nodeRegs n ch) ∧
      (∀ (d : CDie) (c : Fin 8), (∀ k : Fin 8, (t.fget (R.SYN_CLN d c ch) F.SYN_CLN_EXPECT).testBit k =
          decide (d.val * 64 + c.val * 8 + k.val ∈ s.tilesIn p ts)) ∧
        t.flag (R.SYN_CLN d c ch) F.SYN_CLN_EN = decide (∃ g ∈ s.tilesIn p ts, g / 8 = d.val * 8 + c.val) ∧
        t.flag (R.SYN_CLN d c ch) F.SYN_CLN_TOP = decide (scope = 0 ∧ ∃ g ∈ s.tilesIn p ts, g / 8 = d.val * 8 + c.val)) ∧
      (∀ d : CDie, t.flag (R.SYN_DIE d ch) F.SYN_DIE_EN = decide (scope ≠ 0 ∧ ∃ g ∈ s.tilesIn p ts, g / 64 = d.val) ∧
        t.flag (R.SYN_DIE d ch) F.SYN_DIE_TOP = decide (scope = 1 ∧ ∃ g ∈ s.tilesIn p ts, g / 64 = d.val)) ∧
      t.flag (R.PKN_CFG ch) F.PKN_CFG_EN = decide (2 ≤ scope.val) ∧ t.flag (R.PKN_CFG ch) F.PKN_CFG_TOP = decide (scope = 2) ∧
      (2 ≤ scope.val → t.flag (R.PKN_CFG ch) F.PKN_CFG_SCHILD = schild) ∧ t.flag (R.FBN_CFG 0 ch) F.FBN_CFG_EN = decide (scope = 3)) ∧
  (∀ (s : State) (fn : Fun) (p : Part) (ts : TileSet) (j : Nat) (cycles : Word32), s.Mail → s.TilesOk fn p ts → 1 ≤ j → j ≤ 3 →
    Answers (.syncTimeout fn p ts j cycles) fn 0x0503 s fun t out =>
      out = t.toldBytes ((s.tilesIn p ts).map fun g => R.TIL_TMO g (j - 1)) ∧ (∀ g ∈ s.tilesIn p ts, t.tmoOf g j = cycles.toNat) ∧
      s.OnlyRegs t fun r => ∃ g ∈ s.tilesIn p ts, r = R.TIL_TMO g (j - 1)) ∧
  (∀ (s : State) (fn : Fun) (p : Part) (g : Tile) (n : Fin 64) (count : Nat), s.Mail → OwnFn fn p → s.tilePart g = some p.val →
    count ≤ 65535 → s.NoTilePost g 2 n →
    Answers (.syncRearm fn p g n count) fn 0x0504 s fun t out =>
      out = t.toldBytes [R.TIL_ARC g n] ∧ t.arcCount g n = count ∧ t.fget (R.TIL_ARC g n) F.TIL_ARC_PART = 0 ∧
      t.flag (R.TIL_ARC g n) F.TIL_ARC_EXPIRED = false ∧ s.OnlyRegs t fun r => r = R.TIL_ARC g n) ∧
  (∀ (s : State) (fn : Fun) (p : Part) (clr : Bool), s.Mail → OwnFn fn p →
    Answers (.syncStatus fn p clr) fn 0x0505 s fun t out =>
      (clr = false → t = s) ∧
      (clr = true → ∀ g ∈ s.tilesOf p, t.rd (R.TIL_SYNCNT0 g) = 0 ∧ t.rd (R.TIL_SYNCNT1 g) = 0) ∧
      (s.KeepsRegs t fun r => ∃ g ∈ s.tilesOf p, R.TIL_SYNCNT0 g ≤ r ∧ r < R.TIL_SYNCNT0 g + 16) ∧
      ∃ front, out = lay (front ++ s.tileSums (s.tilesOf p) [(R.TIL_SYNCNT0, F.TIL_SYNCNT0_CLOSECALL),
        (R.TIL_SYNCNT0, F.TIL_SYNCNT0_STALE), (R.TIL_SYNCNT1, F.TIL_SYNCNT1_TMOFIRED), (R.TIL_SYNCNT1, F.TIL_SYNCNT1_SPURIOUS)]))

/-- A write of STW_LOC that sets LOCK, unlocked, with a slot known and matching, stores the id and locks it; without a slot it sets
NOSLOT, with another slot MISMATCH, and neither locks; once locked the id stays. A bridge module that does not retrain in time is
out of service from then on, alone, and each die it joins reports it. An adapter retry counts once at each die the module joins. A
crossing to an island that is on counts one delivery between the two; to one that is off it counts one refusal at the sender's
die. Registers other than STW_LOC stay. -/
def Obligations.OrganisationCommandsComplete : Prop :=
  (∀ (s : State) (v : Word32), s.Live → s.flag R.STW_LOC F.STW_LOC_LOCK = false → v.toNat.testBit 31 = true →
    Completes (.stwLocWrite v) s fun t =>
      t.fget R.STW_LOC F.STW_LOC_PKGID = v.toNat % 4096 ∧
      t.fget R.STW_LOC F.STW_LOC_TRAYSLOT = s.fget R.STW_LOC F.STW_LOC_TRAYSLOT ∧
      (t.flag R.STW_LOC F.STW_LOC_LOCK = true ↔ s.flag R.STW_LOC F.STW_LOC_TSVALID = true ∧
        v.toNat % 32 = s.fget R.STW_LOC F.STW_LOC_TRAYSLOT) ∧
      (s.flag R.STW_LOC F.STW_LOC_TSVALID = false → t.flag R.STW_LOC F.STW_LOC_NOSLOT = true) ∧
      (s.flag R.STW_LOC F.STW_LOC_TSVALID = true → v.toNat % 32 ≠ s.fget R.STW_LOC F.STW_LOC_TRAYSLOT →
        t.flag R.STW_LOC F.STW_LOC_MISMATCH = true) ∧
      s.OnlyRegs t fun a => a = R.STW_LOC) ∧
  (∀ (s : State) (v : Word32), s.Live → s.flag R.STW_LOC F.STW_LOC_LOCK = true →
    Completes (.stwLocWrite v) s fun t =>
      t.pkgOwn = s.pkgOwn ∧ t.flag R.STW_LOC F.STW_LOC_LOCK = true ∧ s.OnlyRegs t fun a => a = R.STW_LOC) ∧
  (∀ (s : State) (m : Fin 230), s.Live → s.moduleIn m = true →
    Completes (.bridgeRetrainTimeout m) s fun t =>
      t.moduleIn m = false ∧ (∀ n : Nat, n ≠ m.val → t.moduleIn n = s.moduleIn n) ∧ t.regs = s.regs ∧
      t.rpt = s.rpt ++ (moduleDies m).map fun d =>
        .fault 3 (Config.plainCause 3 % 256) 3 none (dieIsland d) (islandDie (dieIsland d)) 0 m) ∧
  (∀ (s : State) (m : Fin 230), s.Live →
    Completes (.adapterRetry m) s fun t =>
      (∀ d, spGet (fun _ => 0) t.net.retries d = spGet (fun _ => 0) s.net.retries d + (moduleDies m).count d) ∧ t.regs = s.regs) ∧
  (∀ (s : State) (a b : Island), s.Live →
    Completes (.islandHandshake a b) s fun t =>
      t.regs = s.regs ∧
      (s.islandOn b = true → spGet (fun _ => 0) t.net.delivered (a.val * 2048 + b.val) =
        spGet (fun _ => 0) s.net.delivered (a.val * 2048 + b.val) + 1 ∧ t.net.refusedOff = s.net.refusedOff) ∧
      (s.islandOn b = false → spGet (fun _ => 0) t.net.refusedOff (islandDie a) =
        spGet (fun _ => 0) s.net.refusedOff (islandDie a) + 1 ∧ t.net.delivered = s.net.delivered))

/-- At an output that exists, runs, and stands at the entry, on a die that is not fenced: a legal MOVE whose gang is ready takes one
unit from the input and copies it to every output of the gang, and counts a slot at each bridge of it; where a bridge's slot goes
to a waiting SYNC or CTRL message instead the cycle counts as BLOCK; one that is held counts the cycle, and one of no units
completes. LOOP enters its body, or passes it when N is 0. BRV goes to the slot its variable names. JUMP goes to its target and
HALT halts, each leaving the other outputs and every register as they were. An output held at its entry that has not stalled since
a unit last moved is reported as ROUTESTALL once and goes on running. -/
def Obligations.RouteProgramsComplete : Prop :=
  (∀ (s : State) (d : Die) (r : Fin 8) (o : Fin 17) (m : MoveEnt), s.Live → outOk d r o = true →
    (s.out (outKey d r o)).run = .run → s.flag (R.DIE_CTL d) F.DIE_CTL_FENCE = false →
    s.entryAt (outKey d r o) (s.out (outKey d r o)).entry = .move m → moveLegal d r o (s.alien d r o) m = true →
    (∀ u left, s.moveStep d r o m = .take u left →
      ((∀ y ∈ maskOuts m.omask, s.yields d r y = false) →
        exec (.routeMove d r o) s = .next ((s.gangMove d r m u left).each (maskOuts m.omask) fun s y => s.bulkSlot d r y)) ∧
      ((∃ y ∈ maskOuts m.omask, s.yields d r y = true) → exec (.routeMove d r o) s = .next
        ((s.dieCnt d (R.BNET_OCNT d r o) F.BNET_OCNT_BLOCK 1).modOut (outKey d r o) fun x => { x with held := x.held + 1 }))) ∧
    (∀ c, s.moveStep d r o m = .hold c → exec (.routeMove d r o) s = .next
      ((s.dieCnt d (R.BNET_OCNT d r o) (if c = 5 then F.BNET_OCNT_BLOCK else F.BNET_OCNT_STARVE) 1).modOut (outKey d r o) fun x =>
        { x with held := x.held + 1 })) ∧
    (s.moveStep d r o m = .pass → exec (.routeMove d r o) s = .next (s.gangDone d r m))) ∧
  (∀ (s : State) (d : Nat) (r : Nat) (m : MoveEnt) (u : BUnit) (left : Nat), d < 24 → r < 8 → 0 < left → m.omask = 2 ^ 8 → 4 ≤ r →
    m.inp ≠ 34 → s.moveAt d r 8 = some m →
    let t := s.gangMove d r m u left
    t.inq (inKey d r m.inp) = (s.inq (inKey d r m.inp)).drop 1 ∧ t.inq (inKey d (r - 4) 34) = s.inq (inKey d (r - 4) 34) ++ [u] ∧
      (t.out (outKey d r 8)).left = some left ∧ t.regs = s.regs) ∧
  (∀ (s : State) (d : Die) (r : Fin 8) (o : Fin 17) (n len k : Nat), s.Live → outOk d r o = true →
    (s.out (outKey d r o)).run = .run → s.flag (R.DIE_CTL d) F.DIE_CTL_FENCE = false →
    s.entryAt (outKey d r o) (s.out (outKey d r o)).entry = .loop n len k → (∀ l ∈ (s.out (outKey d r o)).loops, l.k ≠ k) →
    (n = 0 → exec (.routeLoop d r o) s = .next
      (s.setOut (outKey d r o) ((s.out (outKey d r o)).goTo ((s.out (outKey d r o)).entry + 1 + len)))) ∧
    (n ≠ 0 → exec (.routeLoop d r o) s = .next
      (s.setOut (outKey d r o) { s.out (outKey d r o) with
        entry := (s.out (outKey d r o)).entry + 1,
        loops := ⟨k, 0, n, (s.out (outKey d r o)).entry + 1, len⟩ :: (s.out (outKey d r o)).loops, held := 0 }))) ∧
  (∀ (s : State) (d : Die) (r : Fin 8) (o : Fin 17) (point v j : Nat) (pstep : Bool), s.Live → outOk d r o = true →
    (s.out (outKey d r o)).run = .run → s.flag (R.DIE_CTL d) F.DIE_CTL_FENCE = false →
    s.entryAt (outKey d r o) (s.out (outKey d r o)).entry = .brv point v pstep →
    s.brvJumps (outKey d r o) (s.out (outKey d r o)).entry v = true →
    s.netVar d (brvPoint (s.out (outKey d r o)) point pstep) v = .slot j →
    exec (.routeBrv d r o) s = .next
      (s.setOut (outKey d r o) { s.out (outKey d r o) with entry := (s.out (outKey d r o)).entry + 1 + j, held := 0 })) ∧
  (∀ (s : State) (d : Die) (r : Fin 8) (o : Fin 17) (n : Nat), s.Live → outOk d r o = true →
    (s.out (outKey d r o)).run = .run → s.flag (R.DIE_CTL d) F.DIE_CTL_FENCE = false →
    s.entryAt (outKey d r o) (s.out (outKey d r o)).entry = .jump n →
    exec (.routeJump d r o) s = .next
      (s.setOut (outKey d r o) { s.out (outKey d r o) with
        entry := n, loops := jumpLoops (s.out (outKey d r o)).loops n, held := 0 })) ∧
  (∀ (s : State) (d : Die) (r : Fin 8) (o : Fin 17), s.Live → outOk d r o = true →
    (s.out (outKey d r o)).run = .run → s.flag (R.DIE_CTL d) F.DIE_CTL_FENCE = false →
    s.entryAt (outKey d r o) (s.out (outKey d r o)).entry = .halt →
    Completes (.routeHalt d r o) s fun t =>
      s.atHalt d r o = false ∧ t.atHalt d r o = true ∧ (∀ k, k ≠ outKey d r o → t.out k = s.out k) ∧ t.regs = s.regs) ∧
  (∀ (s : State) (d : Die) (r : Fin 8) (o : Fin 17), s.Live → s.fget (R.BNET_WDOG d) F.BNET_WDOG_CYCLES ≠ 0 →
    (s.out (outKey d r o)).stalled = false → 2 ≤ s.outState d r o →
    Completes (.routestall d r o) s fun t =>
      (t.out (outKey d r o)).stalled = true ∧ (t.out (outKey d r o)).run = (s.out (outKey d r o)).run ∧
      (s.flag (R.BNET_FAULT d) F.BNET_FAULT_VALID = false →
        t.fget (R.BNET_FAULT d) F.BNET_FAULT_CAUSE = 5 ∧ t.fget (R.BNET_FAULT d) F.BNET_FAULT_ROUTER = r ∧
        t.fget (R.BNET_FAULT d) F.BNET_FAULT_OUTPUT = o ∧ t.flag (R.BNET_FAULT d) F.BNET_FAULT_VALID = true) ∧
      s.KeepsRegs t fun a => a = R.BNET_FAULT d)

/-- START for a partition none of whose outputs on the die runs or stands faulted sets every one of them running. A write of BNET_VAR
sets point, variant and valid. A write of BNET_RPDATA for an output at HALT stores the entry and leaves every other table entry;
for one not at HALT it sets ERR. The fault clear leaves BNET_FAULT at 0 and lets stopped outputs resume at the next START. A write
of GW_QCFG by the physical function whose quota fits sets quota and assignment; one that does not fit sets ERR and leaves the
quota; one by a virtual function changes nothing at a queue of its partition and is a decode miss at any other. The oldest sync
message between two dies is delivered where every bridge of its way gives its lane a slot, and waits where one does not. CLR of
DIE_CNTCTL zeroes the die's counters and no other register. -/
def Obligations.NetworkWritesComplete : Prop :=
  (∀ (s : State) (d : Die) (p : Part), s.Live →
    (∀ x ∈ s.outsOf d p, (s.out (outKey d x.1 x.2)).run = .halt ∨ (s.out (outKey d x.1 x.2)).run = .cleared) →
    Completes (.bnetStart d p) s fun t =>
      t.fget (R.BNET_CTL d) F.BNET_CTL_PART = p ∧
      (∀ x ∈ s.outsOf d p, (t.out (outKey d x.1 x.2)).run = .run ∧
        ((s.out (outKey d x.1 x.2)).run = .halt → (t.out (outKey d x.1 x.2)).entry = 0 ∧ (t.out (outKey d x.1 x.2)).loops = [])) ∧
      (∀ k, (∀ x ∈ s.outsOf d p, k ≠ outKey d x.1 x.2) → t.out k = s.out k)) ∧
  (∀ (s : State) (d : Die) (j : Fin 4) (point : BitVec 8) (variant : BitVec 6) (valid : Bool), s.Live →
    Completes (.bnetVarWrite d j point variant valid) s fun t =>
      t.fget (R.BNET_VAR d j) F.BNET_VAR_POINT = point.toNat ∧ t.fget (R.BNET_VAR d j) F.BNET_VAR_VARIANT = variant.toNat ∧
      t.fget (R.BNET_VAR d j) F.BNET_VAR_VALID = bit valid ∧ s.OnlyRegs t fun a => a = R.BNET_VAR d j) ∧
  (∀ (s : State) (d : Die) (v : Word64), s.Live → outOk d (s.rpAddr d).1 (s.rpAddr d).2.1 = true →
    s.atHalt d (s.rpAddr d).1 (s.rpAddr d).2.1 = true →
    Completes (.bnetRpdataWrite d v) s fun t =>
      let k := outKey d (s.rpAddr d).1 (s.rpAddr d).2.1
      t.tableWord k (s.rpAddr d).2.2 = v.toNat ∧
      (∀ j n, tableKey j n ≠ tableKey k (s.rpAddr d).2.2 → t.tableWord j n = s.tableWord j n) ∧ t.net.outs = s.net.outs ∧
      s.KeepsRegs t fun a => a = R.BNET_RPADDR d) ∧
  (∀ (s : State) (d : Die) (v : Word64), s.Live → s.atHalt d (s.rpAddr d).1 (s.rpAddr d).2.1 = false →
    Completes (.bnetRpdataWrite d v) s fun t =>
      t.fget (R.BNET_CTL d) F.BNET_CTL_ERR = 1 ∧ t.net = s.net ∧ s.OnlyRegs t fun a => a = R.BNET_CTL d ∨ a = R.BNET_RPADDR d) ∧
  (∀ (s : State) (d : Die), s.Live →
    Completes (.bnetFaultClr d) s fun t =>
      t.rd (R.BNET_FAULT d) = 0 ∧
      (∀ x ∈ dieOuts d, (t.out (outKey d x.1 x.2)).run = if (s.out (outKey d x.1 x.2)).run = .fault then .cleared
        else (s.out (outKey d x.1 x.2)).run) ∧ s.KeepsRegs t fun a => a = R.BNET_FAULT d) ∧
  (∀ (s : State) (d : Fin 8) (q : Fin 32) (v : Word64), s.Live → v.toNat.testBit 63 = false →
    s.quotaSum d [(q.val, v.toNat % 65536)] ≤ gwStorage d → s.qUsed d q ≤ v.toNat % 65536 →
    Completes (.gwQcfgWrite 0 d q v) s fun t =>
      t.quotaOf d q = v.toNat % 65536 ∧
      t.queuePart d q = (if v.toNat.testBit 20 then some (v.toNat / 65536 % 16) else none) ∧ t.qUsed d q = s.qUsed d q ∧
      s.OnlyRegs t fun a => a = R.GW_QCFG (gwDie d) q ∨ a = R.GW_QCNT (gwDie d) q) ∧
  (∀ (s : State) (d : Fin 8) (q : Fin 32) (v : Word64), s.Live →
    gwStorage d < s.quotaSum d [(q.val, v.toNat % 65536)] ∨ v.toNat % 65536 < s.qUsed d q →
    Completes (.gwQcfgWrite 0 d q v) s fun t =>
      t.fget (R.GW_QCFG (gwDie d) q) F.GW_QCFG_ERR = 1 ∧ t.quotaOf d q = s.quotaOf d q ∧ t.queuePart d q = s.queuePart d q ∧
      s.OnlyRegs t fun a => a = R.GW_QCFG (gwDie d) q) ∧
  (∀ (s : State) (fn : Fun) (d : Fin 8) (q : Fin 32) (v : Word64), s.Live → fn.val ≠ 0 →
    (s.queuePart d q = some (fn.val - 1) → exec (.gwQcfgWrite fn d q v) s = .next s) ∧
    (s.queuePart d q ≠ some (fn.val - 1) → exec (.gwQcfgWrite fn d q v) s = .next (s.decodeMiss fn (R.GW_QCFG (gwDie d) q)))) ∧
  (∀ (s : State) (a b : Die) (front rest : List SyncMsg) (m : SyncMsg), s.Live → s.net.sync = front ++ m :: rest →
    (∀ x ∈ front, ¬ (x.src = a.val ∧ x.dst = b.val)) → m.src = a.val → m.dst = b.val →
    ((∀ e ∈ syncEdges a b, s.laneOpen e.1 e.2 = true) → exec (.syncMessage a b) s = .next
      (let t := s.each (syncEdges a b) fun s e => s.laneTake e.1 e.2
       { t with net := { t.net with sync := front ++ rest } }.syncDeliver m.body)) ∧
    ((∃ e ∈ syncEdges a b, s.laneOpen e.1 e.2 = false) → exec (.syncMessage a b) s = .next s)) ∧
  (∀ (s : State) (d : Die), s.Live →
    Completes (.dieCntctlClr d) s fun t => (∀ a ∈ dieCounters d, t.rd a = 0) ∧ s.OnlyRegs t fun a => a ∈ dieCounters d)

/-- ROUTE_PORTS from the physical function, for outputs that exist and stand at HALT and queues that hold no data and whose quotas
fit, gives each output and queue to the partition with its quota and answers their registers. ROUTE_LOAD of a good image whose
bytes pass the checks of R334 and R335 and whose entries are legal, for outputs of the partition at HALT, makes each named table
the image's entries and zeros after them, and adds the digest to the measurement log. ROUTE_START on dies none of whose outputs of
the partition runs or stands faulted sets all of them running and names no die. NET_STATUS changes nothing. NET_STATS answers the
sums and with CLR zeroes those counters and no other register. -/
def Obligations.NetworkCommandsComplete : Prop :=
  (∀ (s : State) (fn : Fun) (p : Part) (d : Die) (outs queues : List (Nat × Nat)), s.Mail → fn.val = 0 →
    (∀ x ∈ outs, outOk d x.1 x.2 = true ∧ s.atHalt d x.1 x.2 = true) →
    (∀ x ∈ queues, x.1 ≤ 31 ∧ x.2 ≤ 65535 ∧ s.queueBusy (d.val - 24) x.1 = false) → (queues.map (·.1)).Nodup →
    (if d.val < 24 then queues = [] else s.quotaSum (d.val - 24) queues ≤ gwStorage (d.val - 24)) →
    Answers (.routePorts fn p d outs queues) fn 0x0600 s fun t out =>
      out = t.toldBytes ((outs.map fun x => R.BNET_OCFG d x.1 x.2) ++ queues.map fun x => R.GW_QCFG d x.1) ∧ (∀ x ∈ outs, t.outPart d x.1 x.2 = some p.val) ∧
      (∀ x ∈ queues, t.queuePart (d.val - 24) x.1 = some p.val ∧ t.quotaOf (d.val - 24) x.1 = x.2) ∧ t.net = s.net ∧ t.gws = s.gws) ∧
  (∀ (s : State) (fn : Fun) (p : Part) (d : Die) (addr : Word64), s.Mail → fn.val = 0 → addr.toNat % 64 = 0 →
    s.readTouch p (addr.toNat % 2 ^ 48) (s.imageLen p (addr.toNat % 2 ^ 48)) = s → s.imageOk p d (addr.toNat % 2 ^ 48) = true →
    (∀ x ∈ s.routeTabs p (addr.toNat % 2 ^ 48), (∀ j < x.n, s.imageEntryOk p d x (s.imageEntry p (addr.toNat % 2 ^ 48) x j) = true) ∧
      s.nestedSame p (addr.toNat % 2 ^ 48) x = false ∧ s.outPart d x.r x.o = some p.val ∧ s.atHalt d x.r x.o = true) →
    ((s.routeTabs p (addr.toNat % 2 ^ 48)).map fun x => (x.r, x.o)).Nodup →
    Answers (.routeLoad fn p d addr) fn 0x0601 s fun t out =>
      out = [] ∧ (∀ x ∈ s.routeTabs p (addr.toNat % 2 ^ 48), ∀ j < 1024, t.tableWord (outKey d x.r x.o) j =
        if j < x.n then s.imageEntry p (addr.toNat % 2 ^ 48) x j else 0) ∧ t.net.outs = s.net.outs ∧ t.mem = s.mem) ∧
  (∀ (s : State) (fn : Fun) (p : Part) (dies : Word32), s.Mail → fn.val = 0 →
    (∀ d : Die, dies.toNat.testBit d = true →
      ∀ x ∈ s.outsOf d p, (s.out (outKey d x.1 x.2)).run = .halt ∨ (s.out (outKey d x.1 x.2)).run = .cleared) →
    Answers (.routeStart fn p dies) fn 0x0602 s fun t out =>
      out = lay [(4, 0)] ∧ ∀ d : Die, dies.toNat.testBit d = true → ∀ x ∈ s.outsOf d p, (t.out (outKey d x.1 x.2)).run = .run) ∧
  (∀ (s : State) (fn : Fun) (p : Part), s.Mail → OwnFn fn p →
    Answers (.netStatus fn p) fn 0x0603 s fun t out => t = s ∧
      ((∀ d : Die, s.outsOf d p = []) → (∀ (d : Fin 8) (q : Fin 32), s.queuePart d q ≠ some p.val) → out = lay [(4, 0), (4, 0), (4, 0)])) ∧
  (∀ (s : State) (fn : Fun) (p : Part) (clr : Bool), s.Mail → OwnFn fn p →
    Answers (.netStats fn p clr) fn 0x0604 s fun t out =>
      let outs := allDies.flatMap fun d => (s.outsOf d p).map fun x => R.BNET_OCNT d x.1 x.2
      let qs := (List.range 8).flatMap fun d =>
        ((List.range 32).filter fun q => decide (s.queuePart d q = some p.val)).map fun q => R.GW_QCNT (gwDie d) q
      let ic := (s.gwsOf p).map fun d => R.GW_ICNT (gwDie d)
      out = lay [(8, s.sumFld outs F.BNET_OCNT_STARVE), (8, s.sumFld outs F.BNET_OCNT_BLOCK), (8, s.sumFld qs F.GW_QCNT_FILLED),
        (8, s.sumFld qs F.GW_QCNT_LATE), (8, s.sumFld ic F.GW_ICNT_QFULL), (8, s.sumFld ic F.GW_ICNT_BADOP)] ∧
      (clr = true → ∀ a ∈ outs ++ qs ++ ic, t.rd a = 0) ∧ s.OnlyRegs t fun a => clr = true ∧ a ∈ outs ++ qs ++ ic)

/-- With a walk, the taking instruction at its engine and a well-formed entry at the head of the queue: a fetch entry of an address
the tile may read puts its requests on the LE's lane, arms the load of its slot and goes in flight under its LDQ; a T, S or O
strip whose interlocks allow it and whose Loft accesses succeed leaves its result and counts a strip; a Q, X or F step leaves its
result; and the walk pushes on. A fetch entry that does not suit its LDQ is taken, ends it with WALKFMT, and the walk pushes on.
KV_LAYOUT of a legal format, width and block answers the sizes and offsets of R239 and R253 and changes nothing. WALK_CHECK of
bytes that pass the checks of R334 and R335 answers no fault exactly if the walk has none, and changes nothing. ATTN_STATS answers
the sums and, with CLR, clears those counters alone. -/
def Obligations.AttentionStepsComplete : Prop :=
  (∀ (s : State) (g : Tile) (r : InFlight) (q : BitVec 128) (rest : List (BitVec 128)) (w : WalkSt), s.Live →
    (s.eng g .le).taker 0x11 = some r → (s.tile g).leQ = q :: rest → (s.tile g).walk = some w → (s.eng g .le).poolUsed 0 < 64 →
    leSuits (wgeo w.desc) q.toNat = true → bitsOf q.toNat 79 64 ≠ 0 → s.leFails g q.toNat = false →
    exec (.leFetchEntry g) s = .next
      (let n := bitsOf q.toNat 79 64
       let slot := bitsOf q.toNat 83 80
       let a := q.toNat % 2 ^ 64
       let u := s.modTile g fun t => { t with leQ := rest }
       let v := u.pushLane g 1 (reqUnits (u.viaNext g .le) (u.tileP g) 1 (fun _ x => x) 0 (cutUnits a 1024 n ++ cutUnits (a + 0x8000) 1024 n))
       let x := (v.launch g .le opEntry ⟨63, slot⟩ r.uid 0 (some 0) 1 0).modTile g fun t =>
         { t with loadQ := t.loadQ ++ [⟨.le, (v.eng g .le).nextUid, (wgeo w.desc).slotAddrs slot n, false, none, 32⟩] }
       (x.modEng g .le fun y => y.modRec r.uid fun j =>
         { j with status := j.status ||| 0, need := if q.toNat.testBit 89 then 0 else j.need - 1 }).pump g)) ∧
  (∀ (s : State) (g : Tile) (r : InFlight) (q : Word64) (rest : List Word64) (w : WalkSt) (kind : Fin 3), s.Live →
    (s.eng g .me).taker 0x10 = some r → (s.tile g).meQ = q :: rest → (s.tile g).walk = some w → q.toNat % 4 = kind.val →
    meReady w q.toNat = true → meSuits w r q.toNat = true → (s.stripRun g w r q.toNat).stop = .go →
    exec (match kind with | 0 => .meTStrip g | 1 => .meSStrip g | 2 => .meOStrip g) s = .next
      (let x := s.stripRun g w r q.toNat
       let t := (x.s.modTile g fun t => { t with meQ := rest }).tilCnt g (R.TIL_MECNT2 g) F.TIL_MECNT2_STRIPS 1
       let t := if q.toNat.testBit 3 then t.modTile g fun t => { t with walk := t.walk.map fun w => meStepped w q.toNat } else t
       (t.tookEntry g .me r.uid x.st (q.toNat.testBit 2)).pump g)) ∧
  (∀ (s : State) (g : Tile) (r : InFlight) (q : BitVec 256) (rest : List (BitVec 256)) (w : WalkSt) (kind : Fin 3) (x : Ex), s.Live →
    (s.eng g .ve).taker 0x16 = some r → (s.tile g).veQ = q :: rest → (s.tile g).walk = some w → q.toNat % 4 = kind.val →
    veReady w q.toNat = true → veSuits w r q.toNat = true →
    x = (match kind with | 0 => s.stepQ g w q.toNat | 1 => s.stepX g w r q.toNat | 2 => s.stepF g w r q.toNat) → x.stop = .go →
    exec (match kind with | 0 => .veQStep g | 1 => .veXStep g | 2 => .veFStep g) s = .next
      ((((x.s.modTile g fun t => { t with veQ := rest }).modTile g fun t =>
        { t with walk := t.walk.map fun w => veStepped w q.toNat }).tookEntry g .ve r.uid x.st (q.toNat.testBit 2)).pump g)) ∧
  (∀ (s : State) (g : Tile) (r : InFlight) (q : BitVec 128) (rest : List (BitVec 128)) (w : WalkSt), s.Live →
    (s.eng g .le).taker 0x11 = some r → (s.tile g).leQ = q :: rest → (s.tile g).walk = some w → (s.eng g .le).poolUsed 0 < 64 →
    leSuits (wgeo w.desc) q.toNat = false →
    exec (.leFetchEntry g) s = .next (((((s.modTile g fun t => { t with leQ := rest }).modEng g .le fun x => x.dropRec r.uid).tileFault g
      (engIdx .le) 0x19 r.iaddr none)).pump g)) ∧
  (∀ (s : State) (fn : Fun) (kf hw blk nslot nrb : Nat), s.Mail → kf ≤ 3 → fmtOf kf = .s4 ∨ fmtOf kf = .s8 → hw = 60 ∨ hw = 120 →
    1 ≤ nslot → nslot ≤ 15 → nrb ≤ 65536 → blkOk (fmtOf kf) hw blk = true →
    Answers (.kvLayout fn kf hw blk nslot nrb) fn 0x0700 s fun t out =>
      t = s ∧ out = lay ([(4, hshOf (fmtOf kf) hw), (4, ppbOf (fmtOf kf) hw), (4, npOf blk), (4, slotSize (fmtOf kf) hw blk), (4, 12)] ++
        (List.zip (workSizes hw blk nrb) (List.range 12)).flatMap fun x => [(4, x.1), (4, workOff hw blk nrb x.2)])) ∧
  (∀ (s : State) (fn : Fun) (p : Part) (daddr taddr : Word64), s.Mail → OwnFn fn p → daddr.toNat % 32 = 0 → taddr.toNat % 32 = 0 →
    s.readTouch p (daddr.toNat % 2 ^ 48) 32 = s →
    s.readTouch p (taddr.toNat % 2 ^ 48) (32 * (wgeo (BitVec.ofNat 256 (s.locNum p (daddr.toNat % 2 ^ 48) 32))).nent) = s →
    Answers (.walkCheck fn p daddr taddr) fn 0x0701 s fun t out =>
      t = s ∧
      let d : Desc := ⟨2 ^ 22, s.locNum p (daddr.toNat % 2 ^ 48) 32⟩
      let g := wgeo (BitVec.ofNat 256 d.w)
      (out = lay [(2, 0xFFFF), (1, 0), (1, 0)] ↔ walkBad d (g.lreads fun a n =>
        if g.ltab ≤ a then s.locNum p (taddr.toNat % 2 ^ 48 + (a - g.ltab)) n else 0) = none)) ∧
  (∀ (s : State) (fn : Fun) (p : Part) (clr : Bool), s.Mail → OwnFn fn p →
    Answers (.attnStats fn p clr) fn 0x0702 s fun t out =>
      (∃ mx, out = lay [(8, s.sumFld ((s.tilesOf p).map R.AW_CNT0) F.AW_CNT0_BLOCKS), (8, s.sumFld ((s.tilesOf p).map R.AW_CNT0) F.AW_CNT0_SEQS),
        (8, s.sumFld ((s.tilesOf p).map R.AW_CNT1) F.AW_CNT1_RINGWAIT), (8, s.sumFld ((s.tilesOf p).map R.AW_CNT1) F.AW_CNT1_PGFAIL),
        (8, s.sumFld ((s.tilesOf p).map R.AW_CNT1) F.AW_CNT1_GSKIP), (8, s.sumFld ((s.tilesOf p).map R.AW_CNT2) F.AW_CNT2_EMPTYROW),
        (8, s.sumFld ((s.tilesOf p).map R.AW_CNT2) F.AW_CNT2_RESCALE), (8, mx)]) ∧
      (clr = true → ∀ g ∈ s.tilesOf p, t.rd (R.AW_CNT0 g) = 0 ∧ t.rd (R.AW_CNT1 g) = 0 ∧ t.rd (R.AW_CNT2 g) = 0 ∧
        t.fget (R.AW_CNT3 g) F.AW_CNT3_RSMAX = 0) ∧
      s.OnlyRegs t fun a => clr = true ∧ ∃ g ∈ s.tilesOf p, a = R.AW_CNT0 g ∨ a = R.AW_CNT1 g ∨ a = R.AW_CNT2 g ∨ a = R.AW_CNT3 g)

/-- With a whole segment of its partition at the head of a routing engine's input, a clean position unit, and room for K units,
SCORE_SEGMENT takes the segment away and returns exactly K exchange units, RECV-class, without poison, the last alone marked last;
where a sheaf is poisoned or the slot's exit bit is set all of them have KIND NULL; the position is counted unless the counters
are frozen; the Loft stays. CONFIDENCE_UNIT at an exit point takes the unit away and reports its valid records. COUNT_REPORT takes
a poison report into the list of failed slots and a count report into the package's counts. COUNT_ROW_TIMEOUT takes as missing
exactly the packages without a row. POINT_DECIDE decides a point that is ready, and EXIT_POINT_DECIDE one whose exit groups hold
at their BRV with no walk of the partition in flight. A variant written at a decision is the group's slot in every tile it names.
EXCHANGE_COPY serves the copy at the port, or leaves it there while its placement waits or its queue is full. RUN_HEADER_PRESENT
presents a counted run's header first. COPY_TIMEOUT marks the partition's counted runs for PAD copies and no other run. -/
def Obligations.ExpertEventsComplete : Prop :=
  (∀ (s : State) (d : CDie) (u : BUnit) (scores rest : List BUnit), s.Live → (s.rte d).inq = u :: (scores ++ rest) →
    scores.length = s.fget (R.RTE_CFG2 d) F.RTE_CFG2_NSH → (∀ x ∈ (s.rte d).inq, s.rteForeign d x = false) →
    s.fget (R.RTE_CFG d) F.RTE_CFG_NEXP ≤ 4096 →
    (s.inq (inKey d 0 40)).length + s.fget (R.RTE_CFG d) F.RTE_CFG_K ≤ 32 → posZeros u.data = true →
    Completes (.scoreSegment d) s fun t =>
      (t.rte d).inq = rest ∧ t.loft = s.loft ∧
      (s.flag (R.RTE_CNTCTL d) F.RTE_CNTCTL_FREEZE = false → t.fget (R.RTE_CNT0 d) F.RTE_CNT0_POSITIONS =
        min (fldTop F.RTE_CNT0_POSITIONS) (s.fget (R.RTE_CNT0 d) F.RTE_CNT0_POSITIONS + 1)) ∧
      ∃ us : List BUnit, us.length = s.fget (R.RTE_CFG d) F.RTE_CFG_K ∧
        t.inq (inKey d 0 40) = s.inq (inKey d 0 40) ++ us ∧
        (∀ i < us.length, (us[i]?).map (fun x => (x.cls, x.psn, x.hdr, x.last)) =
          some (UClass.recv, false, false, decide (i + 1 = us.length))) ∧
        ((u :: scores).any (·.psn) = true ∨ s.xset d (posOf u.data).slot = true → ∀ x ∈ us, (xunitOf x.data).kind = 3)) ∧
  (∀ (s : State) (d : CDie) (u : BUnit) (rest : List BUnit) (r : PointRec), s.Live → (s.rte d).inq = u :: rest →
    (∀ x ∈ (s.rte d).inq, s.rteForeign d x = false) → s.nextPoint (s.rtePart d) = some r → r.kind = 2 →
    Completes (.confidenceUnit d) s fun t =>
      (t.rte d).inq = rest ∧ t.regs = s.regs ∧ t.loft = s.loft ∧
      t.rpt = s.rpt ++ if (confRecs u.data).isEmpty then [] else [.conf (s.rtePart d) r.point (confRecs u.data)]) ∧
  (∀ (s t : State) (p : Part) (q slot : Nat), s.Live → s.takeRpt (p.val % 4) (s.rptReady p) = some (.psn q slot, t) →
    Completes (.countReport p) s fun t => slot ∈ (t.stepSt p).gone ∧ (∀ x ∈ (s.stepSt p).gone, x ∈ (t.stepSt p).gone) ∧
      t.regs = s.regs ∧ t.loft = s.loft) ∧
  (∀ (s t : State) (p : Part) (q d pt idx : Nat) (bytes : List Byte), s.Live → s.planBase p ≠ 0 →
    s.takeRpt (p.val % 4) (s.rptReady p) = some (.count q d pt idx bytes, t) →
    exec (.countReport p) s = .next (((t.modStep p fun x =>
      { x with open_ := some pt, own := addCounts x.own idx bytes,
               from_ := spPut (fun _ => 0) x.from_ d (spGet (fun _ => 0) x.from_ d + 1) }).setPhase p 1).tryRow p pt)) ∧
  (∀ (s : State) (p : Part) (r : PointRec), s.Live → s.nextPoint p = some r →
    ((s.stepSt p).rows.any fun y => decide (y.1 = r.point)) = true →
    Completes (.countRowTimeout p) s fun t =>
      (∀ n, n ∈ (t.stepSt p).missing ↔ n ∈ (s.stepSt p).missing ∨ (n ∈ s.rowPkgs ∧ s.hasRow p r.point n = false)) ∧
      (t.stepSt p).rows = (s.stepSt p).rows ∧ t.loft = s.loft ∧ t.tiles = s.tiles) ∧
  (∀ (s : State) (p : Part) (r : PointRec), s.Live → s.nextPoint p = some r → r.kind = 1 →
    ((s.stepSt p).open_.any fun x => decide (x ≠ r.point)) = false →
    (s.rowPkgs.all fun n => s.hasRow p r.point n || (s.stepSt p).missing.contains n) = true →
    s.varsRead (s.groupsAt p r) (r.point % 4) = true →
    exec (.pointDecide p) s = .next
      (let cs := s.expCnts p r
       let gs := s.groupsAt p r
       let slots := gs.map fun g => groupSlot cs false g
       let x := (cs.map (·.x)).foldl (· + ·) 0
       let t := (((s.writeVars p r.point (List.zip gs slots)).writeRuns p r cs gs).spillTable p r.layer cs).fadd (R.STEP_SCNT p)
         F.STEP_SCNT_SPILLCOPY x
       let t := if 0 < x then t.fadd (R.STEP_SCNT p) F.STEP_SCNT_SPILLPT 1 else t
       ((t.fadd (R.STEP_XCNT p) F.STEP_XCNT_ZEROEXP (cs.filter fun c => decide (c.n = 0)).length).pointDone p r.point slots).showAll)) ∧
  (∀ (s : State) (p pt : Nat) (gs : List (GroupRec × Nat)), p < 16 → pt < 256 → (∀ x ∈ gs, x.1.die < 24 ∧ x.2 < 64) →
    (gs.flatMap fun x => x.1.tiles).Nodup → ∀ x ∈ gs, ∀ g ∈ x.1.tiles,
      let t := s.writeVars p pt gs
      t.fget (R.TIL_VAR g (pt % 4)) F.TIL_VAR_POINT = pt ∧ t.fget (R.TIL_VAR g (pt % 4)) F.TIL_VAR_VARIANT = x.2 ∧
        t.fget (R.TIL_VAR g (pt % 4)) F.TIL_VAR_VALID = 1) ∧
  (∀ (s : State) (p : Part) (r : PointRec), s.Live → s.nextPoint p = some r → r.kind = 2 →
    ((s.stepSt p).open_.any fun x => decide (x ≠ r.point)) = false → s.rptWaits p r.point = false →
    ((s.enginesOf p).all fun d => (s.rte d).inq.isEmpty) = true → s.varsRead (s.groupsAt p r) (r.point % 4) = true → s.walksDone p = true →
    (∀ g ∈ ((s.groupsAt p r).filter fun x => decide (x.exp = 0xFFFE)).flatMap GroupRec.tiles, s.holdsAt g r.point = true) →
    exec (.exitPointDecide p) s = .next
      (let gs := s.groupsAt p r
       let ex := exitSlots r.xthr (s.stepSt p).conf
       let t := s.each ex fun s i => (s.each (s.diesOf p) fun s d => s.setXset d i).writeXl p i r.layer
       let tiles := (gs.filter fun g => decide (g.exp = 0xFFFE)).flatMap GroupRec.tiles
       let t := if r.policy = 1 then t.each tiles fun s g => s.writeBitmap g r.fmap ex else t
       let t := t.fadd (R.STEP_XCNT p) F.STEP_XCNT_EXITED ex.length
       let t := t.modStep p fun x => { x with exited := x.exited ++ ex.map fun i => (i, r.layer, r.policy) }
       let slots := gs.map fun g => groupSlot [] (!ex.isEmpty) g
       (t.writeVars p r.point (List.zip gs slots)).pointDone p r.point slots)) ∧
  (∀ (s t : State) (l : LDie) (port : Fin 2) (p : Nat), s.Live → s.portPart l port = some p → s.cunits p ≠ 0 →
    let q := (s.ingress (4 + l.val) (2 + port.val)).dropWhile fun u => u.2.hdr
    s.cunits p ≤ q.length →
    (s.setIngress (4 + l.val) (2 + port.val) (q.drop (s.cunits p))).serveCopy l p ((q.take (s.cunits p)).map (·.2)) = some t →
    exec (.exchangeCopy l port) s = .next t) ∧
  (∀ (s : State) (l : LDie) (port : Fin 2) (p : Nat), s.Live → s.portPart l port = some p → s.cunits p ≠ 0 →
    let q := (s.ingress (4 + l.val) (2 + port.val)).dropWhile fun u => u.2.hdr
    s.cunits p ≤ q.length →
    (s.setIngress (4 + l.val) (2 + port.val) (q.drop (s.cunits p))).serveCopy l p ((q.take (s.cunits p)).map (·.2)) = none →
    exec (.exchangeCopy l port) s = .next s) ∧
  (∀ (s : State) (l : LDie) (q : Fin 32) (i n : Nat) (r : Run), s.Live →
    (s.moe.runs.findIdx? fun r => decide (r.ld = l.val ∧ r.q = q.val) && !r.finished (s.cunits r.part)) = some i →
    s.moe.runs[i]? = some r → r.total = some n → r.header = false → (s.inq (inKey (28 + l.val) 0 (16 + q.val))).length < 32 →
    Completes (.runHeaderPresent l q) s fun t =>
      (∃ more, t.inq (inKey (28 + l.val) 0 (16 + q.val)) = s.inq (inKey (28 + l.val) 0 (16 + q.val)) ++
        ⟨.recv, false, true, decide (n = 0), BitVec.ofNat 256 (n * s.cunits r.part), 28 + l.val⟩ :: more) ∧ t.regs = s.regs ∧ t.loft = s.loft) ∧
  (∀ (s : State) (p : Part), s.Live →
    exec (.copyTimeout p) s = .next
      ((s.setRuns (s.moe.runs.map fun r => if r.part = p.val ∧ r.total.isSome then { r with padAll := true } else r)).each [0, 1, 2]
        fun s l => s.each (List.range 32) fun s q => s.runShow l q 40))

/-- PLAN_LOAD of a plan whose bytes pass the checks of R334 and R335 and that passes those of R294, with no point open, points the
step controller at the plan, starts at its first point, gives every routing engine of the partition's dies the package of each
expert and each owned expert its queue. ROUTE_CONFIG by the physical function, or by the partition's own for dies it has tiles on
and engines no other partition holds, gives each named engine that is not returning units K, NEXP, the gate mode, NSH, NPOS, the
partition and EN, and leaves memory and networks. ROUTE_STATS with CLR clears the counters of the partition's engines and without
it changes nothing. STEP_STATUS changes nothing and answers the four registers and the last slots. STEP_SPILLBUF sets the buffer's
address. PLAN_LOAD, ROUTE_CONFIG and STEP_SPILLBUF answer the registers they set. A write of RTE_CFG or RTE_CFG2 of an engine that
returns no units takes K within 1 to 16, NEXP at least 1 and NSH at least what NEXP needs; of one that does, nothing. The clears
zero the counters and no other register. -/
def Obligations.ExpertCommandsComplete : Prop :=
  (∀ (s : State) (fn : Fun) (p : Part) (addr : Word64), s.Mail → OwnFn fn p → addr.toNat % 64 = 0 → addr.toNat < 2 ^ 48 →
    s.readTouch p addr.toNat (planEnd fun o n => s.locNum p (addr.toNat + o) n) = s → (∀ b ∈ s.planFaults p addr.toNat, b = false) → (s.stepSt p).open_ = none →
    Answers (.planLoad fn p addr) fn 0x0800 s fun t out =>
      let u := s.fset (R.STEP_PLAN p) F.STEP_PLAN_ADDR (addr.toNat / 64)
      out = t.toldBytes [R.STEP_PLAN p] ∧ t.planBase p = addr.toNat ∧ (t.stepSt p).decided = 0 ∧
      (∀ e < (u.planOf p).nexp, t.expertQueue p e =
        (let v := s.locNum p (addr.toNat + ((u.planOf p).eqoff + 2 * e)) 2; if v.testBit 15 then v else 0)) ∧ t.loft = s.loft ∧ t.mem = s.mem ∧ t.net = s.net ∧
      (∀ d ∈ s.diesOf p, ∀ e < (u.planOf p).nexp, t.fget (R.RTE_EMAP d e) F.RTE_EMAP_PKG = u.expertPkg p e)) ∧
  (∀ (s : State) (fn : Fun) (p : Part) (dies : BitVec 24) (k nexp nsh npos : Nat) (gate : Fin 4), s.Mail → OwnFn fn p →
    1 ≤ k → k ≤ 16 → 1 ≤ nexp → nexp ≤ 4096 → nsh ≤ 276 → nexp ≤ 15 * nsh → npos ≤ 65535 →
    (fn.val = 0 ∨ ∀ d < 24, dies.toNat.testBit d = true → d ∈ s.diesOf p ∧ (s.rteOn d = true → s.rtePart d = p)) →
    Answers (.routeConfig fn p dies k nexp nsh gate npos) fn 0x0801 s fun t out =>
      out = t.toldBytes (((List.range 24).filter fun d => dies.toNat.testBit d).flatMap fun d => [R.RTE_CFG d, R.RTE_CFG2 d]) ∧
      t.mem = s.mem ∧ t.net = s.net ∧ t.loft = s.loft ∧
      ∀ d < 24, dies.toNat.testBit d = true → s.rteBusy d = false →
        t.fget (R.RTE_CFG d) F.RTE_CFG_K = k ∧ t.fget (R.RTE_CFG d) F.RTE_CFG_NEXP = nexp ∧ t.fget (R.RTE_CFG d) F.RTE_CFG_GATE = gate ∧
        t.fget (R.RTE_CFG2 d) F.RTE_CFG2_NSH = nsh ∧ t.fget (R.RTE_CFG2 d) F.RTE_CFG2_NPOS = npos ∧ t.rtePart d = p ∧ t.rteOn d = true) ∧
  (∀ (s : State) (fn : Fun) (p : Part) (clr : Bool), s.Mail → OwnFn fn p →
    Answers (.routeStats fn p clr) fn 0x0802 s fun t _ =>
      (clr = false → t = s) ∧
      (clr = true → ∀ d ∈ s.enginesOf p, t.rd (R.RTE_CNT0 d) = 0 ∧ t.rd (R.RTE_CNT1 d) = 0 ∧
        ∀ e < 4096, t.fget (R.RTE_ECNT d e) F.RTE_ECNT_COPIES = 0) ∧
      s.OnlyRegs t fun a => ∃ d ∈ s.enginesOf p, a = R.RTE_CNT0 d ∨ a = R.RTE_CNT1 d ∨ (R.RTE_ECNT d 0 ≤ a ∧ a < R.RTE_ECNT d 4096)) ∧
  (∀ (s : State) (fn : Fun) (p : Part), s.Mail → OwnFn fn p →
    Answers (.stepStatus fn p) fn 0x0803 s fun t out =>
      t = s ∧ out = lay ([(4, (s.rd (R.STEP_STAT p)).toNat), (8, (s.rd (R.STEP_TIME p)).toNat), (8, (s.rd (R.STEP_SCNT p)).toNat),
        (8, (s.rd (R.STEP_XCNT p)).toNat)] ++ layList ((s.stepSt p).lastSlots.map fun v => (1, v)))) ∧
  (∀ (s : State) (fn : Fun) (p : Part) (addr : Word64) (size : Nat), s.Mail → OwnFn fn p → addr.toNat % 64 = 0 →
    64 * ((s.planOf p).nexp + 1) ≤ size →
    Answers (.stepSpillbuf fn p addr size) fn 0x0804 s fun t out =>
      out = t.toldBytes [R.STEP_SPILL p] ∧ t.fget (R.STEP_SPILL p) F.STEP_SPILL_ADDR * 64 = addr.toNat ∧ s.OnlyRegs t fun a => a = R.STEP_SPILL p) ∧
  (∀ (s : State) (d : CDie) (v : Word32), s.Live → s.rteBusy d = false →
    Completes (.rteCfgWrite d false v) s fun t =>
      t.fget (R.RTE_CFG d) F.RTE_CFG_K = max 1 (min 16 (bitsOf v.toNat 4 0)) ∧
      t.fget (R.RTE_CFG d) F.RTE_CFG_NEXP = max 1 (bitsOf v.toNat 20 8) ∧ t.fget (R.RTE_CFG d) F.RTE_CFG_GATE = bitsOf v.toNat 25 24 ∧
      t.fget (R.RTE_CFG d) F.RTE_CFG_EN = bitsOf v.toNat 26 26 ∧ t.rtePart d = bitsOf v.toNat 31 28 ∧
      s.OnlyRegs t fun a => a = R.RTE_CFG d) ∧
  (∀ (s : State) (d : CDie) (v : Word32), s.Live → s.rteBusy d = false → s.fget (R.RTE_CFG d) F.RTE_CFG_NEXP ≤ 4096 →
    Completes (.rteCfgWrite d true v) s fun t =>
      t.fget (R.RTE_CFG2 d) F.RTE_CFG2_NSH = max (bitsOf v.toNat 8 0) (ceilDiv (s.fget (R.RTE_CFG d) F.RTE_CFG_NEXP) 15) ∧
      t.fget (R.RTE_CFG2 d) F.RTE_CFG2_NPOS = bitsOf v.toNat 31 16 ∧ s.OnlyRegs t fun a => a = R.RTE_CFG2 d) ∧
  (∀ (s : State) (d : CDie) (second : Bool) (v : Word32), s.Live → s.rteBusy d = true →
    exec (.rteCfgWrite d second v) s = .next s) ∧
  (∀ (s : State) (d : CDie), s.Live →
    Completes (.rteCntctlClr d) s fun t => t.rd (R.RTE_CNT0 d) = 0 ∧ t.rd (R.RTE_CNT1 d) = 0 ∧
      (∀ e < 4096, t.fget (R.RTE_ECNT d e) F.RTE_ECNT_COPIES = 0) ∧
      s.OnlyRegs t fun a => a = R.RTE_CNT0 d ∨ a = R.RTE_CNT1 d ∨ (R.RTE_ECNT d 0 ≤ a ∧ a < R.RTE_ECNT d 4096)) ∧
  (∀ (s : State) (p : Part), s.Live →
    Completes (.stepCntclr p) s fun t => t.rd (R.STEP_SCNT p) = 0 ∧ t.rd (R.STEP_XCNT p) = 0 ∧
      t.fget (R.STEP_TIME p) F.STEP_TIME_MAX = 0 ∧ t.fget (R.STEP_TIME p) F.STEP_TIME_LAST = s.fget (R.STEP_TIME p) F.STEP_TIME_LAST ∧
      s.OnlyRegs t fun a => a = R.STEP_SCNT p ∨ a = R.STEP_XCNT p ∨ a = R.STEP_TIME p)

/-- A request that a gateway can accept leaves its ingress entry and is entered behind the earlier ones, at a link die by the rules of
the fabric, elsewhere by the home gateway; what its queue holds in order is presented and complete requests leave. Entering gives
the request the next number with its queue as remainder by 64 and appends it. Units that return are placed in a request's missing
places in order. A bound that expires on a load of a memory or steward gateway fills its missing units with poison, counts it, and
marks it expired; at a link die it does nothing. An accepted request at a memory or steward gateway tries every missing unit. A
burst read of a load, and a partial write of a store, try the unit they name with the stated number of failing reads. -/
def Obligations.GatewayEventsComplete : Prop :=
  (∀ (s : State) (d : Fin 8) (port : Fin 4) (r : ReqUnit) (q n via : Nat) (data : List BUnit), s.Live →
    s.acceptable d port = .take r q n via data →
    exec (.gatewayRequest d port) s = .next
      (let t := s.setIngress d port ((s.ingress d port).drop n)
       let t := if 4 ≤ d.val ∧ d.val < 7 then t.launchFab (d.val - 4) r q via data else (t.enter d r q via data).1
       ((t.acopyTaken r.op via).present d q 4096).settleReqs d)) ∧
  (∀ (s : State) (d q via : Nat) (r : ReqUnit) (data : List BUnit),
    (s.enter d r q via data).2 = (s.gw d).nextId * 64 + q ∧
    ∃ x : GwReq, ((s.enter d r q via data).1.gw d).reqs = (s.gw d).reqs ++ [x] ∧ x.id = (s.gw d).nextId * 64 + q ∧ x.queue = q ∧
      x.addr = r.addr ∧ x.op = r.op ∧ x.part = r.part ∧ x.units.length = r.marks ∧ x.shown = 0) ∧
  (∀ (s : State) (d : Fin 8) (id : Nat) (units : List (SheafBits × Bool)) (r : GwReq), s.Live → s.req d id = some r → r.expired = false →
    exec (.gatewayDataReturn d id units) s = .next
      (((s.putReq d { r with units := fillIn r.units (units.map fun u => ⟨u.1, u.2⟩) }).present d r.queue 4096).settleReqs d)) ∧
  (∀ (s : State) (d : Fin 8) (id : Nat) (r : GwReq), s.Live → (d.val < 4 ∨ d.val = 7) → s.req d id = some r → r.expired = false →
    r.op ≠ 2 → r.op ≠ 4 → r.units.all (·.isSome) = false →
    exec (.gatewayBoundExpiry d id) s = .next
      ((((s.filledCnt d r.queue).putReq d { r with units := fillPoison r.units, expired := true }).present d r.queue 4096).settleReqs d)) ∧
  (∀ (s : State) (d : Fin 8) (id : Nat), s.Live → 4 ≤ d.val → d.val < 7 → exec (.gatewayBoundExpiry d id) s = .next s) ∧
  (∀ (s : State) (d : Fin 8) (id : Nat), s.Live → (d.val < 4 ∨ d.val = 7) →
    exec (.memoryRequest d id) s = .next (((s.tryReq d id).present d (reqQueue id) 4096).settleReqs d)) ∧
  (∀ (s : State) (d : Fin 8) (id u bad : Nat) (r : GwReq), s.Live → (d.val < 4 ∨ d.val = 7) → s.req d id = some r → r.op ≠ 2 → r.op ≠ 4 →
    exec (.burstRead d id u bad) s = .next (let a := s.tryMark d id u bad
       ((a.1.countWait d r (s.heads d r) a.2).present d r.queue 4096).settleReqs d)) ∧
  (∀ (s : State) (d : Fin 8) (id u bad : Nat) (r : GwReq), s.Live → (d.val < 4 ∨ d.val = 7) → s.req d id = some r →
    (r.op = 2 ∨ r.op = 4) → (r.units.findIdx? (·.isNone)) = some u →
    exec (.partialWrite d id bad) s = .next (let a := s.tryMark d id u bad
       ((a.1.countWait d r (s.heads d r) a.2).present d r.queue 4096).settleReqs d))

/-- A map entry read at a memory die is in its cache afterwards. A waiting move that can start runs. A running move that ends with
sound data, and room on the retired list for a retirement, is gone: its page rests in Bay after a move-in or a re-fetch, in new
frames after a retirement, and away after a move-out. A running move-out that fails leaves its page in Bay; a move-in that fails
for the first time is tried again. Ageing halves the ACC of every page and writes no register. Training a channel while no region
exists records its module and gives every channel its state; while one exists it changes nothing. A poll sets TEMP, HOT and THR of
a channel with a module and no other register. MV_CMD of a page of no region answers RESULT 1, and of a move it can start is BUSY.
A write of a region register sets every field, takes the staged half, and touches no other register; of another partition's by a
virtual function it is a decode miss. -/
def Obligations.MemoryEventsComplete : Prop :=
  (∀ (s : State) (d : Fin 8) (page : Nat), s.Live → d.val < 4 →
    Completes (.mapEntryRead d page) s fun t => t.mem.cached.contains (gwDie d, page) = true ∧ t.regs = s.regs ∧ t.mem.map = s.mem.map) ∧
  (∀ (s t : State) (m : MDie) (x : Move), s.Live →
    let mine := s.mem.moves.filter fun y => decide (y.die = 24 + m.val)
    (mine.filter (·.running)).length < 4 →
    (((List.range 4).flatMap fun r => mine.filter fun y => !y.running && decide (whyRank y.why = r)).find? fun y =>
      s.refuseOut y || (s.tryMove y).isSome) = some x →
    s.refuseOut x = false → s.tryMove x = some t →
    exec (.moveStart m) s = .next t ∧ ∃ f, { x with running := true, frame := f } ∈ t.mem.moves) ∧
  (∀ (s : State) (pg : Nat) (m : Move) (u : UnitLoc), s.Live → s.moveOf pg = some m → m.running = true →
    s.locate m.part (m.page * 65536) = some u →
    (s.moveData m).moveSound m = true → (m.kind = .retire → s.retireRoom m.die (kindFrames u.rgn.kind) = true) →
    (s.mapEnt pg).st ≠ .lost → m.st ≠ .lost →
    Completes (.moveComplete pg) s fun t =>
      t.moveOf pg = none ∧ t.loft = s.loft ∧ t.tiles = s.tiles ∧ (t.mapEnt pg).gen = (s.mapEnt pg).gen ∧
      (match m.kind with
       | .moveIn | .refetch => (t.mapEnt pg).st = .bay ∧ (t.mapEnt pg).err = 0
       | .retire => (t.mapEnt pg).frame = m.frame ∧ (t.mapEnt pg).st = (s.mapEnt pg).st
       | .moveOut => (t.mapEnt pg).st = m.st ∧ (t.mapEnt pg).loc = m.loc)) ∧
  (∀ (s : State) (pg : Nat) (m : Move), s.Live → s.moveOf pg = some m → m.running = true → m.kind = .moveOut →
    Completes (.moveFail pg) s fun t => t.moveOf pg = none ∧ (t.mapEnt pg).st = .bay ∧ (t.mapEnt pg).frame = (s.mapEnt pg).frame) ∧
  (∀ (s : State) (pg : Nat) (m : Move), s.Live → s.moveOf pg = some m → m.running = true → m.kind = .moveIn → m.retried = false →
    (s.mapEnt pg).st ≠ .lost →
    Completes (.moveFail pg) s fun t => t.moveOf pg = some { m with retried := true } ∧ t.mem.map = s.mem.map ∧ t.regs = s.regs) ∧
  (∀ (s : State), s.Live → (s.mem.map.map (·.1)).Nodup →
    Completes .accAge s fun t => (∀ pg, (t.mapEnt pg).acc = (s.mapEnt pg).acc / 2 ∧ (t.mapEnt pg).st = (s.mapEnt pg).st ∧
      (t.mapEnt pg).frame = (s.mapEnt pg).frame) ∧ t.regs = s.regs) ∧
  (∀ (s : State) (n : Chan) (x : Option Dimm) (fail1 fail2 : Bool), s.Live → s.anyRegion = false →
    Completes (.channelTrain n x fail1 fail2) s fun t =>
      t.dimm n = x ∧ spGet (fun _ => false) t.mem.trained n = (x.isSome && !(fail1 && fail2)) ∧
      (∀ k < 96, t.fget (R.CH_STAT k) F.CH_STAT_STATE = t.chanState k) ∧
      (∀ k, k ≠ n.val → t.dimm k = s.dimm k) ∧
      s.KeepsRegs t fun a => (∃ k < 96, a = R.CH_STAT k) ∨ ∃ m < 4, a = R.MEM_CTL m) ∧
  (∀ (s : State) (n : Chan) (x : Option Dimm) (fail1 fail2 : Bool), s.Live → s.anyRegion = true →
    exec (.channelTrain n x fail1 fail2) s = .next s) ∧
  (∀ (s : State) (n : Chan) (temp : Byte), s.Live → s.fget (R.CH_STAT n) F.CH_STAT_STATE ≠ 0 →
    Completes (.moduleTempPoll n temp) s fun t =>
      t.fget (R.CH_STAT n) F.CH_STAT_TEMP = temp.toNat ∧ (t.flag (R.CH_STAT n) F.CH_STAT_HOT = true ↔ 85 ≤ temp.toNat) ∧
      (t.flag (R.CH_STAT n) F.CH_STAT_THR = true ↔ s.fget (R.MEM_CTL (n.val / 24)) F.MEM_CTL_TLIM ≤ temp.toNat) ∧
      s.OnlyRegs t fun a => a = R.CH_STAT n) ∧
  (∀ (s : State) (m : MDie) (tgt : Fin 4), s.Live → s.flag (R.MV_CMD m) F.MV_CMD_BUSY = false →
    s.partOf (s.fget (R.MV_ADDR m) F.MV_ADDR_PAGE * 65536) = none →
    Completes (.mvCmdGo m tgt) s fun t =>
      t.fget (R.MV_CMD m) F.MV_CMD_RESULT = 1 ∧ t.fget (R.MV_CMD m) F.MV_CMD_TGT = tgt ∧ s.OnlyRegs t fun a => a = R.MV_CMD m) ∧
  (∀ (s u : State) (m : MDie) (tgt : Fin 4) (p : Nat), s.Live → s.flag (R.MV_CMD m) F.MV_CMD_BUSY = false →
    s.partOf (s.fget (R.MV_ADDR m) F.MV_ADDR_PAGE * 65536) = some p →
    (s.fset (R.MV_CMD m) F.MV_CMD_TGT tgt).askMove p (24 + m.val) (s.fget (R.MV_ADDR m) F.MV_ADDR_PAGE) tgt
      (s.fget (R.MV_DEST m) F.MV_DEST_DEST) true = some (u, false) →
    Completes (.mvCmdGo m tgt) s fun t =>
      t.flag (R.MV_CMD m) F.MV_CMD_BUSY = true ∧ t.fget (R.MV_CMD m) F.MV_CMD_RESULT = 0 ∧ t.mem = u.mem ∧
      s.KeepsRegs t fun a => a = R.MV_CMD m) ∧
  (∀ (s : State) (fn : Fun) (tab : RgnTab) (p : Part) (r : Fin 32) (upper : Word64), s.Live → OwnFn fn p →
    s.rgnMoving (rgnAddr tab p r) = false → s.noEnc (s.lowerHalf fn (rgnDie tab) (rgnAddr tab p r)) = false →
    Completes (.memRgnWrite fn tab p r upper) s fun t =>
      let a := rgnAddr tab p r
      let lo := s.lowerHalf fn (rgnDie tab) a
      t.fget a F.MEM_RGN_KIND = lo % 16 ∧ t.fget a F.MEM_RGN_ENC = rgnEnc lo ∧ t.fget a F.MEM_RGN_HOME = bitsOf lo 10 8 ∧
      t.fget a F.MEM_RGN_VALID = bitsOf lo 15 15 ∧ t.fget a F.MEM_RGN_BASE = bitsOf lo 47 16 ∧
      t.fget a F.MEM_RGN_SIZE = bitsOf upper.toNat 47 16 ∧ t.staged fn (rgnDie tab) = none ∧ t.mem = s.mem ∧
      s.KeepsRegs t fun b => b = a ∨ b = a + 8) ∧
  (∀ (s : State) (fn : Fun) (tab : RgnTab) (p : Part) (r : Fin 32) (upper : Word64), s.Live → ¬ OwnFn fn p →
    exec (.memRgnWrite fn tab p r upper) s = .next (s.decodeMiss fn.val (rgnAddr tab p r)))

/-- MEM_REGION of an aligned range that overlaps no region, with a free entry, a home that has channels and enough quota and frames,
enters the region in every table and allocates or reserves its pages. MEM_FREE of a region clears it in every table. MEM_QUOTA,
MEM_REGULATE and MEM_BOUND set the quotas, rates and bounds of the partition at each block of the tier and no other register. The
commands that set registers answer what these hold. MEM_MOVE answers one result for each page. MEM_QUERY changes nothing and
answers the region and map entry. STREAM_SET with ON opens a window of W layers where the quota holds it, and without ON closes
it. MEM_STATS answers sums and with CLR zeroes the partition's tier counters. MEM_RETIRED lists the retired frames or enters the
given ones where no region exists. MEM_CHANNELS changes nothing and answers the channel and memory registers. -/
def Obligations.MemoryCommandsComplete : Prop :=
  (∀ (s t : State) (fn : Fun) (p : Part) (base size : Word64) (kind : Fin 16) (home : Fin 8) (enc reserve : Bool) (r : Nat), s.Mail → OwnFn fn p →
    base.toNat + size.toNat ≤ 2 ^ 48 → 0 < size.toNat → 1 ≤ kind.val → kind.val ≤ 4 → home.val ≤ 5 →
    (∀ x ∈ s.regions, ¬ (x.2.base < base.toNat + size.toNat ∧ base.toNat < x.2.base + x.2.size)) → s.rgnFree p = some r →
    base.toNat % pageSize kind = 0 → size.toNat % pageSize kind = 0 → s.homeOk kind home = true →
    let lo := kind.val + bit enc * 16 + bit ((s.streamOf p).isSome && decide (kind.val = 1)) * 32 + home.val * 256 + 2 ^ 15 +
      base.toNat / 65536 * 65536
    let u := s.putRegion p r lo (size.toNat / 65536 * 65536)
    s.noEnc lo = false →
    (if kind.val = 4 then u.hostPages p (u.rgnAt (R.HST_RGN p r) r) else if reserve then some u
      else u.allocAll p (u.rgnAt (R.HST_RGN p r) r)) = some t →
    Answers (.memRegion fn p base size kind home enc reserve) fn 0x0900 s fun v out => v = t ∧ out = t.toldBytes [R.HST_RGN p r, R.HST_RGN p r + 8]) ∧
  (∀ (s : State) (p lo hi : Nat) (r : Nat) (a : Nat), p < 16 → r < 32 → a ∈ s.rgnTables p r →
    let u := s.putRegion p r lo hi
    u.fget a F.MEM_RGN_KIND = lo % 16 ∧ u.fget a F.MEM_RGN_ENC = rgnEnc lo ∧ u.fget a F.MEM_RGN_HOME = bitsOf lo 10 8 ∧
      u.fget a F.MEM_RGN_VALID = bitsOf lo 15 15 ∧ u.fget a F.MEM_RGN_BASE = bitsOf lo 47 16 ∧ u.fget a F.MEM_RGN_SIZE = bitsOf hi 47 16) ∧
  (∀ (s : State) (fn : Fun) (p : Part) (base : Word64) (x : Nat × Rgn), s.Mail → OwnFn fn p →
    (s.regions.find? fun x => decide (x.1 = p.val ∧ x.2.base = base.toNat)) = some x →
    Answers (.memFree fn p base) fn 0x0901 s fun t out =>
      out = t.toldBytes [R.HST_RGN p x.2.idx, R.HST_RGN p x.2.idx + 8] ∧ t.loft = s.loft ∧ ∀ a ∈ s.rgnTables p x.2.idx, t.flag a F.MEM_RGN_VALID = false) ∧
  (∀ (s : State) (fn : Fun) (p : Part) (tier : Nat) (frames : List Nat), s.Mail → fn.val = 0 → 1 ≤ tier → tier ≤ 3 →
    frames.length = 1 ∨ (tier = 1 ∧ frames.length = 4) → (∀ f ∈ frames, f < 2 ^ 32) →
    (∀ x ∈ s.quotaShare tier frames, s.quotaUsed x.1 p ≤ x.2) →
    Answers (.memQuota fn p tier frames) fn 0x0902 s fun t out =>
      out = t.toldBytes ((s.quotaShare tier frames).map fun x => R.TQ_QUOTA x.1 p) ∧ (∀ x ∈ s.quotaShare tier frames, t.fget (R.TQ_QUOTA x.1 p) F.TQ_QUOTA_QUOTA = x.2 ∧ t.quotaUsed x.1 p = s.quotaUsed x.1 p) ∧
      s.OnlyRegs t fun a => ∃ x ∈ s.quotaShare tier frames, a = R.TQ_QUOTA x.1 p) ∧
  (∀ (s : State) (fn : Fun) (p : Part) (tier rate depth : Nat) (on : Bool), s.Mail → OwnFn fn p → 1 ≤ tier → tier ≤ 3 → rate ≤ 65535 →
    depth ≤ 65535 →
    Answers (.memRegulate fn p tier rate depth on) fn 0x0903 s fun t out =>
      out = t.toldBytes ((tierBlocks tier).map fun d => R.TQ_REG d p) ∧ (∀ d ∈ tierBlocks tier, t.fget (R.TQ_REG d p) F.TQ_REG_RATE = rate / (tierBlocks tier).length ∧
        t.fget (R.TQ_REG d p) F.TQ_REG_DEPTH = max 2 depth ∧ t.regOn d p = on) ∧
      s.OnlyRegs t fun a => ∃ d ∈ tierBlocks tier, a = R.TQ_REG d p) ∧
  (∀ (s : State) (fn : Fun) (p : Part) (bay cellar : Nat), s.Mail → OwnFn fn p → 2 ≤ bay → bay ≤ 2000 → 2 ≤ cellar → cellar ≤ 2000 →
    Answers (.memBound fn p bay cellar) fn 0x0904 s fun t out =>
      out = t.toldBytes ([24, 25, 26, 27, 31].map fun d => R.TQ_BOUND d p) ∧ (∀ d ∈ [24, 25, 26, 27], t.fget (R.TQ_BOUND d p) F.TQ_BOUND_US = bay) ∧ t.fget (R.TQ_BOUND 31 p) F.TQ_BOUND_US = cellar ∧
      s.OnlyRegs t fun a => ∃ d ∈ [24, 25, 26, 27, 31], a = R.TQ_BOUND d p) ∧
  (∀ (s : State) (fn : Fun) (p : Part) (addr : Word64) (pages tgt pkg : Nat) (hosts : List Word64), s.Mail → OwnFn fn p →
    addr.toNat % (match s.rgnOf p addr.toNat with | some r => pageSize r.kind | none => 65536) = 0 → addr.toNat < 2 ^ 48 →
    1 ≤ tgt → tgt ≤ 3 → pkg ≤ 4095 → (tgt = 3 → hosts.length = pages) →
    Answers (.memMove fn p addr pages tgt pkg hosts) fn 0x0905 s fun t out =>
      t.loft = s.loft ∧ ∃ rs : List Nat, rs.length = pages ∧ out = lay (layList ((rs.take 16364).map fun x => (1, x)))) ∧
  (∀ (s : State) (fn : Fun) (addr : Word64) (p : Nat) (u : UnitLoc), s.Mail → addr.toNat < 2 ^ 48 → s.partOf addr.toNat = some p →
    fn.val = 0 ∨ fn.val = p + 1 → s.locate p addr.toNat = some u →
    Answers (.memQuery fn addr) fn 0x0906 s fun t out =>
      t = s ∧ out = lay [(1, p), (1, u.rgn.kind), (1, u.rgn.home), (1, bit u.rgn.enc), (1, pgCode u.ent.st), (1, u.ent.acc), (1, u.ent.err),
        (2, u.ent.gen), (4, mapFrame u.ent), (8, u.rgn.base), (8, u.rgn.size), (8, mapLoc u.ent)]) ∧
  (∀ (s : State) (fn : Fun) (p : Part) (w : Nat), s.Mail → fn.val = 0 → 2 ≤ w → w ≤ 16 → w * s.largestLayer p ≤ s.bayQuota p →
    Answers (.streamSet fn p w true) fn 0x0907 s fun t out => out = t.toldBytes (s.weightRgns p) ∧ t.loft = s.loft ∧ (t.streamOf p).map (·.w) = some w) ∧
  (∀ (s : State) (fn : Fun) (p : Part) (w : Nat), s.Mail → fn.val = 0 →
    Answers (.streamSet fn p w false) fn 0x0907 s fun t out => out = t.toldBytes (s.weightRgns p) ∧ t.loft = s.loft ∧ t.streamOf p = none) ∧
  (∀ (s : State) (fn : Fun) (p : Part) (clr : Bool), s.Mail → OwnFn fn p →
    Answers (.memStats fn p clr) fn 0x0908 s fun t out =>
      out = lay ([(8, s.tqSum p R.TQ_STALL0 F.TQ_STALL0_REFRESH), (8, s.tqSum p R.TQ_STALL0 F.TQ_STALL0_REREAD),
        (8, s.tqSum p R.TQ_STALL1 F.TQ_STALL1_YARD), (8, s.tqSum p R.TQ_STALL1 F.TQ_STALL1_YARDFAIL),
        (8, s.tqSum p R.TQ_STALL2 F.TQ_STALL2_CELLAR), (8, s.tqSum p R.TQ_STALL2 F.TQ_STALL2_QUOTA),
        (8, s.tqSum p R.TQ_STALL3 F.TQ_STALL3_REGULATOR), (8, s.tqSum p R.TQ_STALL3 F.TQ_STALL3_MISROUTE)] ++
        (if fn.val = 0 then (List.range 96).map fun n => (8, (s.rd (R.CH_ERR n)).toNat) else [])) ∧
      (clr = true → ∀ a ∈ tqCounters p, t.rd a = 0) ∧ s.OnlyRegs t fun a => clr = true ∧ a ∈ tqCounters p) ∧
  (∀ (s : State) (fn : Fun) (m : MDie), s.Mail → fn.val = 0 →
    Answers (.memRetired fn m none) fn 0x0909 s fun t _ => t = s) ∧
  (∀ (s : State) (fn : Fun) (m : MDie) (l : List Nat), s.Mail → fn.val = 0 → l.length ≤ 4096 → (∀ f ∈ l, f < 2 ^ 28) → s.anyRegion = false →
    Answers (.memRetired fn m (some l)) fn 0x0909 s fun t out =>
      out = t.toldBytes [R.MEM_RET m] ∧ (∀ f, (24 + m.val, f) ∈ t.mem.retired ↔ f ∈ l) ∧ t.fget (R.MEM_RET m) F.MEM_RET_COUNT = l.eraseDups.length ∧
      (∀ x ∈ t.mem.retired, x.1 ≠ 24 + m.val → x ∈ s.mem.retired) ∧ s.KeepsRegs t fun a => a = R.MEM_RET m) ∧
  (∀ (s : State) (fn : Fun), s.Mail →
    Answers (.memChannels fn) fn 0x090A s fun t out =>
      t = s ∧ out = lay (((List.range 96).map fun n => (4, (s.rd (R.CH_STAT n)).toNat)) ++
        (List.range 4).map fun m => (4, (s.rd (R.MEM_CTL m)).toNat)))

/-- While DEAD is clear: a link that is OFF and may train enters TRAIN with no attempt counted, and a DOWN link with its clock and
fewer than three attempts enters TRAIN with one more; the attempt of a link in TRAIN ends in BEACON when its lanes and counters
come up, and otherwise in DOWN, or OFF when it was the third. A link in BEACON, HELD or UP that loses lock, falls silent or loses
its reference clock is DOWN, but OFF when its third attempt stood in BEACON. An idle transmitter puts one flit on the fibre. A
link that is OFF, in TRAIN or DOWN receives nothing. A flit whose CRC is wrong is counted in CRCFAIL and discarded; an IDLE flit
gives its acknowledgement and credits and lets waiting flits go; a numbered flit, with no injection authorised, is accepted in
order and discarded out of order, without its acknowledgement. A replay sends every unacknowledged flit again and counts each. A
beacon of round 1 is answered; one of round 2 that returns the own nonce and whose SM2 signature verifies is checked against the
map. A flit for another package goes on over the direct link, a REQ or RSP flit one channel higher, or is counted STALE where
there is no such link or a relay sent it here. -/
def Obligations.LinkEventsComplete : Prop :=
  (∀ (s : State) (k : Link), s.Live → s.flag R.RST_STAT F.RST_STAT_DEAD = false → s.mayTrain k = true →
    (s.linkState k = 0 → (s.link k).attempts < 3 → ∀ lanes ctrOk beacons, Completes (.linkTrain k lanes ctrOk beacons) s fun t =>
      t.linkState k = 1 ∧ (t.link k).attempts = 0 ∧ t.loft = s.loft ∧ s.KeepsRegs t fun a => a = R.LNK_STAT k) ∧
    (s.linkState k = 5 → (s.link k).refLost = false → (s.link k).attempts < 3 → ∀ lanes ctrOk beacons,
      Completes (.linkRetrain k lanes ctrOk beacons) s fun t =>
        t.linkState k = 1 ∧ (t.link k).attempts = (s.link k).attempts + 1 ∧ t.loft = s.loft ∧ s.KeepsRegs t fun a => a = R.LNK_STAT k) ∧
    (s.linkState k = 1 → ∀ i : Bool → Bool → List (Nat × List Byte) → Instr, i = .linkTrain k ∨ i = .linkRetrain k →
      Completes (i true true []) s (fun t => t.linkState k = 2 ∧ (t.link k).attempts = (s.link k).attempts ∧ t.loft = s.loft) ∧
      ∀ lanes ctrOk beacons, (lanes && ctrOk) = false → Completes (i lanes ctrOk beacons) s fun t =>
        t.linkState k = (if 3 ≤ (s.link k).attempts then 0 else 5) ∧ (t.link k).attempts = (s.link k).attempts ∧ t.loft = s.loft ∧
        s.KeepsRegs t fun a => a = R.LNK_STAT k ∨ a = R.LNK_CNT1 k)) ∧
  (∀ (s : State) (k : Link) (why : DownWhy), s.Live → s.flag R.RST_STAT F.RST_STAT_DEAD = false →
    s.linkState k = 2 ∨ s.linkState k = 3 ∨ s.linkState k = 4 → why = .lock ∨ why = .silent ∨ why = .refclk →
    Completes (.linkDown k why) s fun t =>
      t.linkState k = (if s.linkState k = 2 ∧ 3 ≤ (s.link k).attempts then 0 else 5) ∧ t.loft = s.loft ∧
      (t.link k).attempts = (s.link k).attempts ∧ (why = .refclk → (t.link k).refLost = true)) ∧
  (∀ (s : State) (k : Link), s.Live → s.linkState k = 2 ∨ s.linkState k = 3 ∨ s.linkState k = 4 → s.linkPick k = none →
    Completes (.idleFlit k) s fun t => (∃ b, (t.link k).out = (s.link k).out ++ [b]) ∧ t.regs = s.regs ∧
      (t.link k).sent = (s.link k).sent ∧ (t.link k).txF = (s.link k).txF) ∧
  (∀ (s : State) (k : Link) (b : FlitBytes) (corr unc : Nat), s.Live → s.linkState k = 0 ∨ s.linkState k = 1 ∨ s.linkState k = 5 →
    exec (.flitReceive k b corr unc) s = .next s) ∧
  (∀ (s : State) (k : Link) (b : FlitBytes) (corr unc : Nat), s.Live → s.linkState k = 2 ∨ s.linkState k = 3 ∨ s.linkState k = 4 →
    s.flag R.SEC_DEBUG F.SEC_DEBUG_INJECT = false →
    let u := (s.linkCnt k (R.LNK_CNT1 k) F.LNK_CNT1_FECCORR corr).linkCnt k (R.LNK_CNT1 k) F.LNK_CNT1_FECUNC unc
    let f := flitOf (b.take 280)
    (b ≠ flitSeal (b.take 280) → exec (.flitReceive k b corr unc) s = .next
      ((u.linkCnt k (R.LNK_CNT0 k) F.LNK_CNT0_CRCFAIL 1).rxDiscard k)) ∧
    (b.length = 288 → b = flitSeal (b.take 280) → f.typ = 0 → f.vc < 5 → exec (.flitReceive k b corr unc) s = .next
      ((u.setLink k ((u.link k).ackTake f)).linkFlush k)) ∧
    (b.length = 288 → b = flitSeal (b.take 280) → f.typ ≠ 0 → f.typ ≠ 15 → f.vc < 5 →
      let v := (u.setLink k ((u.link k).ackTake f)).linkFlush k
      (f.lseq = (u.link k).rxF % 2 ^ 16 → exec (.flitReceive k b corr unc) s = .next
        (let w := v.rxAccept k f 0
         if (w.link k).rxF % 64 = 0 then w.linkIdle k false else w)) ∧
      (f.lseq ≠ (u.link k).rxF % 2 ^ 16 → exec (.flitReceive k b corr unc) s = .next (u.rxDiscard k)))) ∧
  (∀ (s : State) (k : Link), s.Live → (s.link k).replayDue = true →
    Completes (.flitReplay k) s fun t =>
      (t.link k).out = (s.link k).out ++ (s.link k).sent.map (·.bytes) ∧ (t.link k).replayDue = false ∧
      (t.link k).sent = ((s.link k).sent.map fun x => { x with reps := x.reps + 1 }) ∧ s.KeepsRegs t fun a => a = R.LNK_CNT0 k) ∧
  (∀ (s : State) (k : Link) (b : List Byte), s.Live → s.linkState k = 2 → b.length = 256 → ofLeBytes (b.take 4) = beaconMagic →
    exec (.beacon k 1 b) s = .next ((s.setLink k { s.link k with peerNonce := (b.drop 16).take 16 }).sendBeacon k 2 ((b.drop 16).take 16)) ∧
    ((b.drop 32).take 16 = (s.link k).nonce →
      exec (.beacon k 2 b) s = .next
        (if sm2Verify ((b.drop 48).take 64) (b.take 112) ((b.drop 112).take 64) = true then
          (s.setLink k { s.link k with peerNonce := (b.drop 16).take 16, beacon := some b }).mapCheck k b
        else s)) ∧
    ((b.drop 32).take 16 ≠ (s.link k).nonce → exec (.beacon k 2 b) s = .next s)) ∧
  (∀ (s : State) (k : Link) (cls : Fin 3) (f : Flit), s.Live → s.rxFront k (if cls.val = 0 then 0 else 2 * cls.val - 1) = some f → f.dst ≠ s.pkgOwn →
    let u := s.rxPop k (if cls.val = 0 then 0 else 2 * cls.val - 1)
    (u.directUp f.dst = none ∨ f.hop = true → exec (.relayForward k cls) s = .next (u.stale (k.val / 12) 1)) ∧
    (∀ k2, u.directUp f.dst = some k2 → u.flag (R.FB_RT 0 f.dst) F.FB_RT_VALID = true → u.flag (R.FB_RT 0 f.src) F.FB_RT_VALID = true →
      f.hop = false → exec (.relayForward k cls) s = .next
        (u.linkQueue k2 [⟨{ f with hop := true, vc := if cls.val = 0 then 0 else f.vc + 1 }, none⟩])))

/-- With a message of its type, for this package and from a package of the slice, at the front of the channel: a LOAD of a mapped job
that its window admits and whose offset has a home is entered at the home gateway; a flit of a STORE that is not the last is kept,
and with the last the whole store is entered at the home gateway, as is an ACCSTORE, whose first unit gives the exponent's place;
a PLACE for a tile of its partition is written and answered; an ATOMIC goes to its receipt die; a COPY is served like one at the
exchange port; a COUNTROW reaches the step controller; PAGE data is written to guest frames; page data that returns belongs to the
move-in that asked; a SYNC does each of its barrier messages, four to a unit. LDATA and ARESULT of a gateway's request return
their units to it; a DONE drops the message it settles, and one that failed marks the tile instruction of an accumulate-store or
placement. An answer that matches nothing leaves its buffer with no other effect. -/
def Obligations.FabricMessagesComplete : Prop :=
  (∀ (s : State) (k : Link) (second : Bool) (f : Flit) (p d : Nat), s.Live → s.Front k (rxVc 1 second) 1 f →
    let u := s.rxPop k (rxVc 1 second)
    let n := f.aux % 128
    1 ≤ n → n ≤ 64 → u.jobPart (k.val / 12) f.job = some p → u.landOk (k.val / 12) p f.src f.offset (32 * n) 0 = true →
    u.homeGw p f.offset = some d →
    exec (.loadMsg k second) s = .next ((u.transit (k.val / 12) p 1).fabEnter (k.val / 12) p f.src f.tseq 1 d f.offset n 1 0 [])) ∧
  (∀ (s : State) (k : Link) (second : Bool) (f : Flit), s.Live → s.Front k (rxVc 3 second) 2 f →
    (s.fab.remotes.find? fun r => decide (r.tag = f.tseq ∧ r.kind = .load ∧ r.pkg = f.src)) = none →
    exec (.ldata k second) s = .next (s.rxPop k (rxVc 3 second))) ∧
  (∀ (s : State) (k : Link) (second : Bool) (f : Flit) (r : Remote), s.Live → s.Front k (rxVc 3 second) 2 f →
    (s.fab.remotes.find? fun r => decide (r.tag = f.tseq ∧ r.kind = .load ∧ r.pkg = f.src)) = some r → r.item = none →
    f.aux % 128 = 0 ∨ f.aux % 128 = 2 →
    exec (.ldata k second) s = .next
      (let u := (s.rxPop k (rxVc 3 second)).returnUnits (4 + r.ld) r.gid f.sheaves
       (if f.isLast then u.dropRemote r else u.putRemote r { r with got := r.got + f.sheaves.length }).settleReqs (4 + r.ld))) ∧
  (∀ (s : State) (k : Link) (second : Bool) (f : Flit), s.Live → s.Front k (rxVc 1 second) 3 f → f.isLast = false →
    exec (.storeMsg k second) s = .next
      ((s.setLink k { s.link k with parts := (s.link k).parts ++ [f] }).rxPop k (rxVc 1 second))) ∧
  (∀ (s : State) (k : Link) (second : Bool) (f : Flit) (p d : Nat), s.Live → s.Front k (rxVc 1 second) 3 f → f.isLast = true →
    let u := s.consume k (rxVc 1 second) f
    let us := msgUnits (s.wholeMsg k f)
    let off := msgOff (s.wholeMsg k f)
    u.jobPart (k.val / 12) f.job = some p → u.landOk (k.val / 12) p f.src off (32 * us.length) 1 = true → u.homeGw p off = some d →
    exec (.storeMsg k second) s = .next
      ((u.transit (k.val / 12) p (s.wholeMsg k f).length).fabEnter (k.val / 12) p f.src f.tseq 3 d off us.length 2 0 (dataOf us (28 + k.val / 12)))) ∧
  (∀ (s : State) (k : Link) (second : Bool) (f : Flit) (p d : Nat), s.Live → s.Front k (rxVc 1 second) 4 f → f.isLast = true →
    let u := s.consume k (rxVc 1 second) f
    let us := msgUnits (s.wholeMsg k f)
    let off := msgOff (s.wholeMsg k f)
    u.jobPart (k.val / 12) f.job = some p → u.landOk (k.val / 12) p f.src off (32 * (us.drop 1).length) 1 = true → u.homeGw p off = some d →
    exec (.accstore k second) s = .next
      ((u.transit (k.val / 12) p (s.wholeMsg k f).length).fabEnter (k.val / 12) p f.src f.tseq 4 d off (us.drop 1).length 4
        (accPlace (us.getD 0 zeroSheaf).bits.toNat) (dataOf (us.drop 1) (28 + k.val / 12)))) ∧
  (∀ (s t : State) (k : Link) (second : Bool) (f : Flit) (p : Nat), s.Live → s.Front k (rxVc 1 second) 5 f → f.isLast = true →
    s.jobPart (k.val / 12) f.job = some p → s.landOk (k.val / 12) p f.src 0 0 3 = true → f.offset % 2048 < 1536 →
    s.tilePart (f.offset % 2048) = some p →
    let us := msgUnits (s.wholeMsg k f)
    s.placeNow (f.offset % 2048) ((List.range us.length).map fun i =>
      ⟨.place, (us.getD i zeroSheaf).psn && decide (i ≠ 0), decide (i = 0), decide (i = us.length - 1) && !f.aux.testBit 0, (us.getD i zeroSheaf).bits,
        28 + k.val / 12⟩) = some t →
    exec (.placeMsg k second) s = .next
      (((t.transit (k.val / 12) p (s.wholeMsg k f).length).consume k (rxVc 1 second) f).answer (k.val / 12) f 8 0 [])) ∧
  (∀ (s : State) (k : Link) (second : Bool) (f : Flit) (p : Nat), s.Live → s.Front k (rxVc 1 second) 6 f →
    let u := s.rxPop k (rxVc 1 second)
    u.jobPart (k.val / 12) f.job = some p → u.landOk (k.val / 12) p f.src f.offset 8 2 = true →
    exec (.atomicMsg k second) s = .next (u.atomAt (k.val / 12) p f (atomOpnd f) (f.psn.testBit 0))) ∧
  (∀ (s : State) (k : Link) (second : Bool) (f : Flit), s.Live → s.Front k (rxVc 3 second) 7 f →
    let u := s.rxPop k (rxVc 3 second)
    (u.atomOf (k.val / 12) f = none → exec (.aresult k second) s = .next u) ∧
    (∀ r, u.atomOf (k.val / 12) f = some r → r.item = none → f.aux % 128 = 0 ∨ f.aux % 128 = 2 → exec (.aresult k second) s = .next
      ((u.dropRemote r).returnUnits (4 + r.ld) r.gid
        [⟨(f.sheaves.getD 0 poisonSheaf).bits, (f.sheaves.getD 0 poisonSheaf).psn || decide (f.aux % 128 = 2)⟩]))) ∧
  (∀ (s : State) (k : Link) (second : Bool) (f : Flit) (r : Remote), s.Live → s.Front k (rxVc 3 second) 8 f →
    (s.fab.remotes.find? fun r => decide (r.tag = f.tseq ∧ r.pkg = f.src ∧ r.kind ≠ .atomic ∧ r.kind ≠ .load)) = some r → r.item = none →
    exec (.doneMsg k second) s = .next (let u := (s.rxPop k (rxVc 3 second)).dropRemote r
      if f.aux % 128 = 0 ∨ r.kind = .store then u else u.lateStatus r.via .se stPsn)) ∧
  (∀ (s t : State) (k : Link) (second : Bool) (f : Flit) (p : Nat), s.Live → s.Front k (rxVc 1 second) 9 f → f.isLast = true →
    s.jobPart (k.val / 12) f.job = some p →
    s.serveCopy (k.val / 12) p ((msgUnits (s.wholeMsg k f)).map fun x => ⟨.recv, x.psn, false, false, x.bits, 28 + k.val / 12⟩) = some t →
    exec (.copyMsg k second) s = .next (t.consume k (rxVc 1 second) f)) ∧
  (∀ (s : State) (k : Link) (second : Bool) (f : Flit) (p : Nat), s.Live → s.Front k (rxVc 1 second) 10 f → f.isLast = true →
    let u := s.consume k (rxVc 1 second) f
    let us := msgUnits (s.wholeMsg k f)
    let h := (us.getD 0 zeroSheaf).bits.toNat
    let bytes := (us.drop 1).flatMap fun x => sheafBytes x.bits
    u.jobPart (k.val / 12) f.job = some p →
    exec (.countrow k second) s = .next ((u.transit (k.val / 12) p (s.wholeMsg k f).length).rowArrive p (h % 256) (bitsOf h 31 16)
      ((List.range (bitsOf h 47 32)).map fun e => ofLeBytes ((bytes.drop (2 * e)).take 2)))) ∧
  (∀ (s : State) (k : Link) (second : Bool) (f : Flit), s.Live → s.Front k (rxVc 1 second) 11 f → f.units ≠ [] →
    exec (.pageMsg k false second) s = .next ((s.rxPop k (rxVc 1 second)).guestPut f.offset f.units)) ∧
  (∀ (s : State) (k : Link) (second : Bool) (f : Flit), s.Live → s.Front k (rxVc 3 second) 11 f →
    exec (.pageMsg k true second) s = .next ((s.rxPop k (rxVc 3 second)).guestBack f.src f.offset f.units)) ∧
  (∀ (s : State) (k : Link) (f : Flit), s.Live → s.Front k 0 12 f →
    exec (.syncMsg k) s = .next ((s.rxPop k 0).each (f.units.flatMap fun u => (List.range 4).map fun i => u.toNat / 2 ^ (64 * i)) fun s m =>
      if m % 256 = 1 ∨ m % 256 = 2 then (if bitsOf m 15 8 < 64 then s.fabNodeRecv k (m % 256) (bitsOf m 15 8) else s) else s))

/-- A remote load's bound that expires counts and reports it, fills the gateway's request and takes what still comes as late; an
atomic's drops the atomic. A store whose answer never comes is dropped, counted as STORELOST and reported; an accumulate-store or
placement also marks its tile instruction. An atomic's retry sends its message again with RETRY set. A probe is answered to its
sender; an answer ends the probe and routes are computed again. A probed package that does not answer is lost and the slice is
told. A package lost is listed and no longer VALID at any link die. A NOTICE of loss makes the package it names lost; a NOTICE of
rejoining takes it off the list of lost packages. -/
def Obligations.FabricLossesComplete : Prop :=
  (∀ (s : State) (l : LDie) (tag : Nat) (r : Remote), s.Live →
    (s.fab.remotes.find? fun r => decide (r.ld = l.val ∧ r.tag = tag ∧ (r.kind = .load ∨ r.kind = .atomic)) && !r.dead) = some r → r.item = none →
    exec (.remoteBoundExpiry l tag) s = .next
      (((((if r.kind = .load then s.putRemote r { r with dead := true } else s.dropRemote r).remoteTmo r).expire (4 + l.val) r.gid).settleReqs
        (4 + l.val)))) ∧
  (∀ (s : State) (l : LDie) (tag : Nat) (r : Remote), s.Live →
    (s.fab.remotes.find? fun r => decide (r.ld = l.val ∧ r.tag = tag ∧ r.kind ≠ .load ∧ r.kind ≠ .atomic)) = some r → r.item = none →
    (r.kind = .store → Completes (.storeLost l tag) s fun t =>
      t.fab.remotes = s.fab.remotes.erase r ∧ t.loft = s.loft ∧ t.mem = s.mem ∧
      t.rpt = s.rpt ++ [.fault 6 (Config.plainCause 6 % 256) (classLevel 6 (dieIsland (28 + l.val))) (some r.part) (dieIsland (28 + l.val))
        (islandDie (dieIsland (28 + l.val))) r.tag r.pkg] ∧
      s.KeepsRegs t fun a => a = R.FBP_CNT1 l r.part) ∧
    (r.kind ≠ .store → exec (.storeLost l tag) s = .next
      ((((s.dropRemote r).dieCnt (28 + l.val) (R.FBP_CNT1 l r.part) F.FBP_CNT1_STORELOST 1).fabFault l (some r.part) r.tag r.pkg).lateStatus
        r.via .se stPsn))) ∧
  (∀ (s : State) (l : LDie) (tag : Nat) (r : Remote), s.Live →
    (s.fab.remotes.find? fun r => decide (r.ld = l.val ∧ r.tag = tag ∧ r.kind = .atomic)) = some r →
    exec (.atomicRetry l tag) s = .next (s.fabSend l (some r.part) (r.msg.map fun f => { f with retry := true })).1) ∧
  (∀ (s : State) (k : Link) (f : Flit), s.Live → s.Front k 0 14 f → f.aux = 1 →
    exec (.noticeProbe k) s = .next ((s.rxPop k 0).noticeTo f.src 2 (bitsOf (f.units.getD 0 0).toNat 11 0) 0xFFFF)) ∧
  (∀ (s : State) (k : Link) (f : Flit), s.Live → s.Front k 0 14 f → f.aux = 2 →
    let u := s.rxPop k 0
    exec (.noticeProbeAnswer k) s = .next (if u.fab.probes.contains f.src then
      ({ u with fab := { u.fab with probes := u.fab.probes.filter fun m => decide (m ≠ f.src) } }).reroute else u)) ∧
  (∀ (s : State) (n : BitVec 12), s.Live → s.fab.probes.contains n.toNat = true →
    exec (.probeTimeout n) s = .next (((s.losePkg n.toNat).noticeAll 3 n.toNat 0xFFFF).lostSince s)) ∧
  (∀ (s : State) (n : Nat), n < 4096 → n ≠ s.pkgOwn → s.fab.lost.contains n = false →
    n ∈ (s.losePkg n).fab.lost ∧ (∀ l < 3, (s.losePkg n).flag (R.FB_RT l n) F.FB_RT_VALID = false) ∧ n ∉ (s.losePkg n).slice) ∧
  (∀ (s : State) (k : Link) (f : Flit), s.Live → s.Front k 0 14 f → f.aux = 3 →
    exec (.noticeLoss k) s = .next (((s.rxPop k 0).losePkg (bitsOf (f.units.getD 0 0).toNat 11 0)).lostSince s)) ∧
  (∀ (s : State) (k : Link) (f : Flit), s.Live → s.Front k 0 14 f → f.aux = 6 →
    exec (.noticeRejoin k) s = .next ((s.rxPop k 0).rejoin (bitsOf (f.units.getD 0 0).toNat 11 0))) ∧
  (∀ (s : State) (n : Nat), n ≠ s.pkgOwn → n ∉ (s.rejoin n).fab.lost)

/-- FAB_MAP of a good map puts it in force and answers the links that are not UP. FAB_STATUS changes nothing. FAB_MODE on unlocked
dies sets MODE and TWIN and locks them. FAB_JOB of a free job id gives it to the partition at each link die. FAB_WINDOW writes the
window at each die, FAB_BOUND the bounds, FAB_REGULATE a third of the rate, and no other register. The commands that set registers
answer what these hold. While DEAD is clear FAB_LINK off leaves the link OFF, hold takes an UP link to HELD, retrain clears its
attempts. FAB_REJOIN of a package with a direct UP link brings it back. FAB_INJECT under debug authorisation sets the injector.
FAB_STATS answers sums and with CLR zeroes those counters. A write of FB_CTL sets MODE and TWIN only while unlocked; one of FB_RT
stores its fields; one of LNK_INJ takes effect only under debug authorisation, with WIN within 1 to 64. A memory regulator's
bucket fills by RATE x ns up to DEPTH; a fill named for the fabric fills the link regulator of a link die, and at another die does
nothing. -/
def Obligations.FabricCommandsComplete : Prop :=
  (∀ (s : State) (fn : Fun) (addr : Word64) (p : Nat) (m : FabMap), s.Mail → fn.val = 0 → s.partOf addr.toNat = some p →
    s.readTouch p addr.toNat (s.mapLen p addr.toNat) = s → s.readMap p addr.toNat = some m →
    Answers (.fabMap fn addr) fn 0x0A00 s fun t out =>
      t = (s.measure 5 4 (s.locBytes p (addr.toNat + 0x10) 32).1).useMap m ∧
      out = lay ((4, ((List.range 36).filter fun k => decide (t.linkState k ≠ 4)).length) ::
        ((List.range 36).filter fun k => decide (t.linkState k ≠ 4)).flatMap fun k => [(1, k), (1, t.fget (R.LNK_STAT k) F.LNK_STAT_HCAUSE)])) ∧
  (∀ (s : State) (fn : Fun), s.Mail →
    Answers (.fabStatus fn) fn 0x0A01 s fun t out =>
      t = s ∧ out = lay (((List.range 36).map fun k => (4, (s.rd (R.LNK_STAT k)).toNat)) ++ layList (s.slice.map fun n => (2, n)) ++
        layList (s.fab.lost.map fun n => (2, n)))) ∧
  (∀ (s : State) (fn : Fun) (mode twin : Bool), s.Mail → fn.val = 0 → (∀ l < 3, s.flag (R.FB_CTL l) F.FB_CTL_LOCK = false) →
    Answers (.fabMode fn mode twin) fn 0x0A02 s fun t out =>
      out = t.toldBytes ([0, 1, 2].map R.FB_CTL) ∧ (∀ l < 3, t.fabMode l = bit mode ∧ t.fget (R.FB_CTL l) F.FB_CTL_TWIN = bit twin ∧ t.flag (R.FB_CTL l) F.FB_CTL_LOCK = true) ∧
      s.OnlyRegs t fun a => ∃ l < 3, a = R.FB_CTL l) ∧
  (∀ (s : State) (fn : Fun) (p : Part) (job : Byte), s.Mail → OwnFn fn p →
    s.jobPart 0 job.toNat = none ∨ s.jobPart 0 job.toNat = some p.val →
    Answers (.fabJob fn p job) fn 0x0A03 s fun t out =>
      out = t.toldBytes ([0, 1, 2].flatMap fun l => [R.FBP_JOB l p, R.FB_JOB l job.toNat]) ∧ (∀ l < 3, t.jobOf l p = job.toNat ∧ t.jobPart l job.toNat = some p.val) ∧
      s.OnlyRegs t fun a => ∃ l < 3, a = R.FBP_JOB l p ∨ ∃ j < 256, a = R.FB_JOB l j) ∧
  (∀ (s : State) (fn : Fun) (p : Part) (w : Fin 16) (lo hi : BitVec 12) (base size : Word64) (perm : BitVec 4) (on : Bool), s.Mail → OwnFn fn p →
    lo.toNat ≤ hi.toNat → base.toNat % 65536 = 0 → base.toNat < 2 ^ 48 → size.toNat % 65536 = 0 → size.toNat < 2 ^ 48 →
    Answers (.fabWindow fn p w lo hi base size perm on) fn 0x0A04 s fun t out =>
      out = t.toldBytes ([0, 1, 2].flatMap fun l => [R.FB_WIN l p w, R.FB_WIN l p w + 8]) ∧ (∀ l < 3, let a := R.FB_WIN l p w
        t.fget a F.FB_WIN_PKGLO = lo.toNat ∧ t.fget a F.FB_WIN_PKGHI = hi.toNat ∧ t.fget a F.FB_WIN_PERM = perm.toNat ∧
        t.flag a F.FB_WIN_VALID = on ∧ t.fget a F.FB_WIN_BASE = base.toNat / 65536 ∧ t.fget a F.FB_WIN_SIZE = size.toNat / 65536) ∧
      s.OnlyRegs t fun a => ∃ l < 3, a = R.FB_WIN l p w ∨ a = R.FB_WIN l p w + 8) ∧
  (∀ (s : State) (fn : Fun) (p : Part) (us retry : Nat), s.Mail → OwnFn fn p → 2 ≤ us → us ≤ 500 → 1 ≤ retry → retry ≤ 100 →
    Answers (.fabBound fn p us retry) fn 0x0A05 s fun t out =>
      out = t.toldBytes ([0, 1, 2].map fun l => R.FBP_BOUND l p) ∧ (∀ l < 3, t.fget (R.FBP_BOUND l p) F.FBP_BOUND_US = us ∧ t.fget (R.FBP_BOUND l p) F.FBP_BOUND_ARETRY = retry) ∧
      s.OnlyRegs t fun a => ∃ l < 3, a = R.FBP_BOUND l p) ∧
  (∀ (s : State) (fn : Fun) (p : Part) (rate depth : Nat) (on : Bool), s.Mail → OwnFn fn p → rate ≤ 65535 → depth ≤ 65535 →
    Answers (.fabRegulate fn p rate depth on) fn 0x0A06 s fun t out =>
      out = t.toldBytes ([0, 1, 2].map fun l => R.FBP_LREG l p) ∧ (∀ l < 3, t.fget (R.FBP_LREG l p) F.FBP_LREG_RATE = rate / 3 ∧ t.fget (R.FBP_LREG l p) F.FBP_LREG_DEPTH = max 2 depth ∧
        t.flag (R.FBP_LREG l p) F.FBP_LREG_EN = on) ∧ s.OnlyRegs t fun a => ∃ l < 3, a = R.FBP_LREG l p) ∧
  (∀ (s : State) (fn : Fun) (k : Link), s.Mail → fn.val = 0 → s.flag R.RST_STAT F.RST_STAT_DEAD = false →
    Answers (.fabLink fn k 0) fn 0x0A07 s (fun t out => out = [] ∧ (t.link k).attempts = 0 ∧ t.loft = s.loft) ∧
    Answers (.fabLink fn k 1) fn 0x0A07 s (fun t out => out = [] ∧ t.linkState k = 0 ∧ (t.link k).attempts = 3 ∧ t.loft = s.loft) ∧
    (s.linkState k = 4 → Answers (.fabLink fn k 2) fn 0x0A07 s fun t out => out = [] ∧ t.linkState k = 3 ∧ t.loft = s.loft)) ∧
  (∀ (s : State) (fn : Fun) (n : BitVec 12) (k : Nat), s.Mail → fn.val = 0 → s.directUp n.toNat = some k →
    Answers (.fabRejoin fn n) fn 0x0A08 s fun t out => out = [] ∧ t = s.rejoin n.toNat) ∧
  (∀ (s : State) (fn : Fun) (k : Link) (mode : Fin 4) (rate win : Nat), s.Mail → fn.val = 0 → rate ≤ 15 → 1 ≤ win → win ≤ 64 →
    s.flag R.SEC_DEBUG F.SEC_DEBUG_INJECT = true →
    Answers (.fabInject fn k mode rate win) fn 0x0A09 s fun t out =>
      out = t.toldBytes [R.LNK_INJ k] ∧ t.fget (R.LNK_INJ k) F.LNK_INJ_MODE = mode ∧ t.fget (R.LNK_INJ k) F.LNK_INJ_RATE = rate ∧
      t.fget (R.LNK_INJ k) F.LNK_INJ_WIN = win ∧ s.OnlyRegs t fun a => a = R.LNK_INJ k) ∧
  (∀ (s : State) (fn : Fun) (p : Part) (clr : Bool), s.Mail → OwnFn fn p →
    Answers (.fabStats fn p clr) fn 0x0A0A s fun t out =>
      let sum (r : Nat → Nat → Nat) (f : Fld) : Nat × Nat := (8, s.sumFld ([0, 1, 2].map fun l => r l p) f)
      let cleared := fbpCounters p ++ (if fn.val = 0 then fabCounters else [])
      out = lay ([sum R.FBP_CNT0 F.FBP_CNT0_REMOTETMO, sum R.FBP_CNT0 F.FBP_CNT0_REFUSED, sum R.FBP_CNT1 F.FBP_CNT1_REGWAIT,
        sum R.FBP_CNT1 F.FBP_CNT1_STORELOST, sum R.FBP_CNT2 F.FBP_CNT2_TRANSIT] ++
        (if fn.val = 0 then fabCounters.map fun a => (8, (s.rd a).toNat) else [])) ∧
      (clr = true → ∀ a ∈ cleared, t.rd a = 0) ∧ s.OnlyRegs t fun a => clr = true ∧ a ∈ cleared) ∧
  (∀ (s : State) (l : LDie) (v : Word32), s.Live →
    Completes (.fbCtlWrite l v) s fun t =>
      t.fabMode l = (if s.flag (R.FB_CTL l) F.FB_CTL_LOCK then s.fabMode l else bitsOf v.toNat 16 16) ∧
      t.fget (R.FB_CTL l) F.FB_CTL_TWIN = (if s.flag (R.FB_CTL l) F.FB_CTL_LOCK then s.fget (R.FB_CTL l) F.FB_CTL_TWIN else bitsOf v.toNat 17 17) ∧
      (t.flag (R.FB_CTL l) F.FB_CTL_LOCK = true ↔ s.flag (R.FB_CTL l) F.FB_CTL_LOCK = true ∨ v.toNat.testBit 31 = true) ∧
      s.OnlyRegs t fun a => a = R.FB_CTL l) ∧
  (∀ (s : State) (l : LDie) (n : BitVec 12) (v : Word64), s.Live →
    Completes (.fbRtWrite l n v) s fun t => (t.rd (R.FB_RT l n.toNat)).toNat = v.toNat % 2 ^ 39 ∧ s.OnlyRegs t fun a => a = R.FB_RT l n.toNat) ∧
  (∀ (s : State) (k : Link) (v : Word64), s.Live →
    (s.flag R.SEC_DEBUG F.SEC_DEBUG_INJECT = false → exec (.lnkInjWrite k v) s = .next s) ∧
    (s.flag R.SEC_DEBUG F.SEC_DEBUG_INJECT = true → Completes (.lnkInjWrite k v) s fun t =>
      t.fget (R.LNK_INJ k) F.LNK_INJ_MODE = bitsOf v.toNat 1 0 ∧ t.fget (R.LNK_INJ k) F.LNK_INJ_WIN = max 1 (min 64 (bitsOf v.toNat 14 8)) ∧
      t.fget (R.LNK_INJ k) F.LNK_INJ_RATE = bitsOf v.toNat 19 16 ∧ s.OnlyRegs t fun a => a = R.LNK_INJ k)) ∧
  (∀ (s : State) (d : Fin 8) (p : Part) (ns : Nat), s.Live →
    Completes (.tokenBucketFill d false p ns) s fun t =>
      t.tokens (gwDie d) p = min (s.fget (R.TQ_REG (gwDie d) p) F.TQ_REG_DEPTH * 2048)
        (s.tokens (gwDie d) p + s.fget (R.TQ_REG (gwDie d) p) F.TQ_REG_RATE * ns) ∧ t.regs = s.regs ∧ t.loft = s.loft) ∧
  (∀ (s : State) (d : Fin 8) (p : Part) (ns : Nat), s.Live → ¬ (4 ≤ d.val ∧ d.val < 7) →
    exec (.tokenBucketFill d true p ns) s = .next s) ∧
  (∀ (s : State) (d : Fin 8) (p : Part) (ns : Nat), s.Live → 4 ≤ d.val → d.val < 7 →
    exec (.tokenBucketFill d true p ns) s = .next (s.linkBucket (d.val - 4) p ns))

/-- A write of a submission ring's PROD, or of OQ's or LQ's CONS, by the physical function or by the virtual function of the partition
that exists, which leaves PROD - CONS at most N, completes: the index is stored, and after one of LQ's CONS the held ledger
records that now fit are written. One that leaves more than N is ignored and sets ERR of the ring. One by another virtual function
is a decode miss. No other register, and no Loft byte, changes. -/
def Obligations.RingIndexWritesComplete : Prop :=
  (∀ (s : State) (fn : Fun) (p : Part) (r : Fin 4) (v : Word32), s.Live → fn.val = 0 ∨ (fn.val = p.val + 1 ∧ s.Exists p) →
    ((v.toNat + 2 ^ 32 - s.cons p r) % 2 ^ 32 ≤ s.ringN p r →
      Completes (.ringProdWrite fn p r v) s fun t => t.prod p r = v.toNat ∧ s.OnlyRegs t fun a => a = R.PT_RP p r) ∧
    (s.ringN p r < (v.toNat + 2 ^ 32 - s.cons p r) % 2 ^ 32 →
      Completes (.ringProdWrite fn p r v) s fun t => t.flag (R.PT_RC p r) F.PT_RC_ERR = true ∧ t.prod p r = s.prod p r ∧
        s.OnlyRegs t fun a => a = R.PT_RC p r)) ∧
  (∀ (s : State) (fn : Fun) (p : Part) (v : Word32), s.Live → fn.val = 0 ∨ (fn.val = p.val + 1 ∧ s.Exists p) →
    (s.prod p 4 + 2 ^ 32 - v.toNat) % 2 ^ 32 ≤ s.ringN p 4 →
      Completes (.ringConsWrite fn p 0 v) s fun t => t.cons p 4 = v.toNat ∧ s.OnlyRegs t fun a => a = R.PT_RK p 4) ∧
  (∀ (s : State) (fn : Fun) (p : Part) (v : Word32), s.Live → fn.val = 0 ∨ (fn.val = p.val + 1 ∧ s.Exists p) →
    (s.prod p 5 + 2 ^ 32 - v.toNat) % 2 ^ 32 ≤ s.ringN p 5 →
      Completes (.ringConsWrite fn p 1 v) s fun t => t.cons p 5 = v.toNat ∧ t.loft = s.loft ∧
        s.KeepsRegs t fun a => a = R.PT_RK p 5 ∨ a = R.PT_RP p 5) ∧
  (∀ (s : State) (fn : Fun) (p : Part) (r : Fin 2) (v : Word32), s.Live → fn.val = 0 ∨ (fn.val = p.val + 1 ∧ s.Exists p) →
    s.ringN p (4 + r.val) < (s.prod p (4 + r.val) + 2 ^ 32 - v.toNat) % 2 ^ 32 →
      Completes (.ringConsWrite fn p r v) s fun t => t.flag (R.PT_RC p (4 + r.val)) F.PT_RC_ERR = true ∧
        s.OnlyRegs t fun a => a = R.PT_RC p (4 + r.val)) ∧
  (∀ (s : State) (fn : Fun) (p : Part) (r : Fin 4) (v : Word32), s.Live → ¬ OwnFn fn p →
    exec (.ringProdWrite fn p r v) s = .next (s.decodeMiss fn.val (R.PT_RP p r))) ∧
  (∀ (s : State) (fn : Fun) (p : Part) (r : Fin 2) (v : Word32), s.Live → ¬ OwnFn fn p →
    exec (.ringConsWrite fn p r v) s = .next (s.decodeMiss fn.val (R.PT_RK p (4 + r.val))))

/-- With no walk of the partition in flight and sound verdict bytes, STEP_BOUNDARY completes: it commits the finished step, applies
pending adapters, begins a swap, reads the rings without admissions, then with them, and releases. STEP_RELEASE of a due step with
no walk in flight, sound prompt bytes and room for its record completes: the networks of the partition's dies are started and
their step variables written (their values are free, log entry 157), the packages taken as missing are forgotten, length tables
and input areas are written, and the step runs: state RUN, or SWAP for a swap step, at the present time, with the step
controller's arrival at a layer channel; without room for the record it counts OQWAIT. With a walk in flight either changes
nothing. A commit of a running step advances PT_STEP, leaves the partition not running, and ends state RUN or SWAP. A ledger
record takes the next LSN; it is written at PROD of LQ while the ring has room and the function masters the bus and nothing is
held, and held otherwise with LFULL set. -/
def Obligations.StepsComplete : Prop :=
  (∀ (s : State) (p : Part), s.Live →
    (s.walksDone p = true → s.SoundReads p (s.verdictReads p) → exec (.stepBoundary p) s = .next
      (let u := (((s.commitStep p).applyPuts p).modPart p PartSt.freeAdapters).beginSwap p
       let v := u.readRings p false (u.ringsUsed p + 1)
       (v.readRings p true (v.ringsUsed p + 1)).stepRelease p)) ∧
    (s.walksDone p = false → exec (.stepBoundary p) s = .next s ∧ exec (.stepRelease p) s = .next s)) ∧
  (∀ (s : State) (p : Part) (x : PartSt), s.part p = some x → x.running = true →
    let t := s.commitStep p
    t.fget (R.PT_STEP p) F.PT_STEP_STEP = (s.fget (R.PT_STEP p) F.PT_STEP_STEP + 1) % 2 ^ 64 ∧
      ((t.part p).map fun y => (y.running, y.stepSwap, y.stepItem)) = some (false, false, none) ∧
      (s.ptState p = 1 ∨ s.ptState p = 3 → t.ptState p = 0)) ∧
  (∀ (s : State) (p : Part) (x : PartSt), s.Live → s.part p = some x → s.stepDue p = true → s.walksDone p = true → s.recordFits p = true →
    s.SoundReads p (s.promptReads p) →
    exec (.stepRelease p) s = .next
      (let gen := if x.stepSwap then s.fget (R.PT_WGEN p) F.PT_WGEN_NEXT else s.fget (R.PT_WGEN p) F.PT_WGEN_CUR
       let w := (s.netStep p).clearMissing p
       let u := (w.each (w.diesOf p) fun s d => s.each (List.range 64) fun s i => s.wr (R.RTE_XSET d i) 0).stepSeqs p gen x.stepSwap
       let v := (u.modPart p fun y => { y with running := true, stepAt := u.now, stepGen := gen, admitted := 0, episode := 0 }).fset (R.PT_CTL p)
         F.PT_CTL_STATE (if x.stepSwap then 3 else 1)
       let ch := v.fget (R.PT_SERVE p) F.PT_SERVE_LAYERCH
       if v.isLayerCh p ch = true ∧ v.flag (R.PKN_CFG ch) F.PKN_CFG_SARR = false ∧ (x.stepSwap && swapHolds x 0) = false then v.sarr ch else v)) ∧
  (∀ (s : State) (p : Part), s.Live → s.stepDue p = true → s.walksDone p = true → s.recordFits p = false →
    exec (.stepRelease p) s = .next (s.dieCnt 31 (R.PT_CNT1 p) F.PT_CNT1_OQWAIT 1)) ∧
  (∀ (s : State) (p tag kind cause detail : Nat) (x : PartSt), p < 16 → s.part p = some x →
    let t := s.ledger p tag kind cause detail
    let r : LedRec := ⟨p, tag, kind, decide (cause ≠ 0), cause, detail, x.lsn + 1⟩
    (t.part p).map (·.lsn) = some (x.lsn + 1) ∧
    (x.held = [] → s.master (p + 1) = true → s.ringRoom p 5 1 = true →
      t.prod p 5 = (s.prod p 5 + 1) % 2 ^ 32 ∧ t.hostBytes (s.ringAddr p 5 (s.prod p 5)) 32 = r.bytes ∧ (t.part p).map (·.held) = some []) ∧
    (x.held ≠ [] ∨ s.master (p + 1) = false ∨ s.ringRoom p 5 1 = false →
      (t.part p).map (·.held) = some (x.held ++ [r]) ∧ t.flag (R.PT_CTL p) F.PT_CTL_LFULL = true ∧ t.mem = s.mem))

/-- With a well-formed item of its kind at the head of a ring that is read: START makes a sequence ACTIVE with length 0 in the lowest
free slot, with the present generation and its adapter pinned, and is counted; APPEND makes an IDLE sequence ACTIVE with its new
prompt and its length kept; PAUSE starts the moves of an IDLE sequence; RESUME gives a PAUSED one a slot, IDLE; CANCEL ends an
active turn as CANCELLED and records DONE; END removes the sequence; STEP waits for the next step; a COPY within the package
stores what it read and records DONE; a WLOAD with a good manifest waits for its stripes, and a swap shows its generation in NEXT;
an ATOMIC within the package stores the new value and records the old one. A malformed item, one that names no sequence, an
occupied SEQID, an unmapped adapter, a busy or expired sequence, too long a prompt, a STEP in AUTO mode, a bad manifest digest and
an unknown key each end with their cause. an item that depends on a LOST page ends with PKGLOST; what lies on an absent or moving
page makes its item wait. An item that cannot be admitted stays. -/
def Obligations.ItemsComplete : Prop :=
  (∀ (s : State) (p r op : Nat) (b : List Byte), s.takesItems p = true → s.itemHead p r = some b → itemOp b = op → itemOk b = false →
    s.itemRow p r op = s.failItem p r b 1) ∧
  (∀ (s : State) (p : Part) (r : Fin 4) (b : List Byte) (x : PartSt) (slot : Nat) (pin : Nat × Nat), s.ItemReady p r 1 b → s.part p = some x →
    s.mayAdmit p = true → ((x.seq (itemSeq b)).any fun q => decide (q.mode ≠ .expired)) = false →
    (if itemNum b 27 1 = 255 then some (0xFFFF, 0) else spGet (fun _ => none) x.ids (itemNum b 27 1)) = some pin → x.freeSlot = some slot →
    (Config.promptFrames p (itemNum b 12 4)).toNat ≤ s.kvRoom p →
    Completes (.startItem p r) s fun t =>
      (∃ q, t.seqOf p (itemSeq b) = some q ∧ (q.mode, q.slot, q.clen, q.plen, q.maxtok, q.tag) =
        (.active, slot, 0, itemNum b 12 4, itemNum b 24 2, itemTag b) ∧ (q.aslot, q.agen) = pin ∧
        q.wgen = s.fget (R.PT_WGEN p) F.PT_WGEN_CUR) ∧
      (t.part p).map (·.lsn) = some x.lsn ∧ t.cons p r = (s.cons p r + 1) % 2 ^ 32 ∧ t.mem = s.mem ∧
      s.KeepsRegs t fun a => a = R.PT_RK p r ∨ a = R.PT_CNT0 p) ∧
  (∀ (s : State) (p : Part) (r : Fin 4) (b : List Byte) (x : PartSt), s.ItemReady p r 1 b → s.part p = some x → s.mayAdmit p = true →
    (((x.seq (itemSeq b)).any fun q => decide (q.mode ≠ .expired)) = true → exec (.startItem p r) s = .next (s.failItem p r b 1)) ∧
    (((x.seq (itemSeq b)).any fun q => decide (q.mode ≠ .expired)) = false → itemNum b 27 1 ≠ 255 →
      spGet (fun _ => none) x.ids (itemNum b 27 1) = none → exec (.startItem p r) s = .next (s.failItem p r b 8))) ∧
  (∀ (s : State) (p : Part) (r : Fin 4) (b : List Byte), s.mayAdmit p = false →
    (s.ItemReady p r 1 b → exec (.startItem p r) s = .next s) ∧ (s.ItemReady p r 2 b → exec (.appendItem p r) s = .next s) ∧
    (s.ItemReady p r 4 b → exec (.resumeItem p r) s = .next s)) ∧
  (∀ (s : State) (p : Part) (r : Fin 4) (b : List Byte) (q : Seq), s.ItemReady p r 2 b → s.mayAdmit p = true →
    s.seqOf p (itemSeq b) = some q →
    (q.mode = .idle → q.clen + itemNum b 12 4 + 1 ≤ 2097152 → Completes (.appendItem p r) s fun t =>
      (∃ y, t.seqOf p (itemSeq b) = some y ∧ (y.mode, y.slot, y.clen, y.plen, y.fed, y.turn, y.append) =
        (.active, q.slot, q.clen, itemNum b 12 4, 0, 0, true)) ∧ t.cons p r = (s.cons p r + 1) % 2 ^ 32 ∧ t.mem = s.mem) ∧
    (q.mode = .idle → 2097152 < q.clen + itemNum b 12 4 + 1 → exec (.appendItem p r) s = .next (s.failItem p r b 17)) ∧
    (q.mode = .active → exec (.appendItem p r) s = .next (s.failItem p r b 16)) ∧
    (q.mode = .expired → exec (.appendItem p r) s = .next (s.failItem p r b 5))) ∧
  (∀ (s : State) (p : Part) (r : Fin 4) (b : List Byte) (q : Seq), s.ItemReady p r 3 b → s.seqOf p (itemSeq b) = some q →
    (q.mode = .idle → (∀ x, s.part p = some x → (x.seqs.filter fun y => decide (y.mode = .paused ∨ y.mode = .expired)).length < 65536) →
      Completes (.pauseItem p r) s fun t => ∃ y, t.seqOf p (itemSeq b) = some y ∧ (y.mode, y.ttl, y.tier, y.tag, y.pages) =
        (.pausing, itemNum b 40 4, itemNum b 44 1, itemTag b, s.seqPages p q.slot q.clen)) ∧
    (q.mode = .active → exec (.pauseItem p r) s = .next (s.failItem p r b 16))) ∧
  (∀ (s : State) (p : Part) (r : Fin 4) (b : List Byte) (x : PartSt) (q : Seq), s.ItemReady p r 4 b → s.mayAdmit p = true →
    s.part p = some x → s.seqOf p (itemSeq b) = some q →
    (∀ slot, q.mode = .paused → s.now < q.expiry → (∀ pg ∈ q.pages, (s.mapEnt pg).st ≠ .lost) → x.freeSlot = some slot →
      Completes (.resumeItem p r) s fun t => (∃ y, t.seqOf p (itemSeq b) = some y ∧ (y.mode, y.slot, y.clen) = (.idle, slot, q.clen)) ∧
        (t.part p).map (·.lsn) = some (x.lsn + 1) ∧ t.cons p r = (s.cons p r + 1) % 2 ^ 32) ∧
    (q.mode = .paused → q.expiry ≤ s.now → exec (.resumeItem p r) s = .next (s.failItem p r b 5)) ∧
    (q.mode = .paused → s.now < q.expiry → (∃ pg ∈ q.pages, (s.mapEnt pg).st = .lost) →
      exec (.resumeItem p r) s = .next ((s.failItem p r b 11).endSeq p q)) ∧
    (q.mode = .active ∨ q.mode = .idle ∨ q.mode = .pausing → exec (.resumeItem p r) s = .next (s.failItem p r b 16)) ∧
    (q.mode = .paused → s.now < q.expiry → (∀ pg ∈ q.pages, (s.mapEnt pg).st ≠ .lost) → x.freeSlot = none →
      exec (.resumeItem p r) s = .next (s.failItem p r b 2))) ∧
  (∀ (s : State) (p : Part) (r : Fin 4) (b : List Byte) (q : Seq), s.ItemReady p r 5 b → s.seqOf p (itemSeq b) = some q →
    exec (.cancelItem p r) s = .next
      (if q.mode = .active then
        (((s.consumeItem p r).putSeq p { q with mode := .idle, qcnt := 0, tlen := q.clen }).ledger p q.tag q.kind 6 0).ledger p (itemTag b) 5 0 0
       else (s.consumeItem p r).ledger p (itemTag b) 5 0 1)) ∧
  (∀ (s : State) (p : Part) (r : Fin 4) (b : List Byte) (q : Seq), s.ItemReady p r 6 b → s.seqOf p (itemSeq b) = some q →
    q.mode ≠ .pausing →
    Completes (.itemEnd p r) s fun t => t.seqOf p (itemSeq b) = none ∧
      ((t.part p).map (·.lsn)) = (s.part p).map fun x => x.lsn + 1 + bit (q.mode = .active)) ∧
  (∀ (s : State) (p : Part) (r : Fin 4) (b : List Byte), s.seqOf p (itemSeq b) = none →
    (s.ItemReady p r 2 b → s.mayAdmit p = true → exec (.appendItem p r) s = .next (s.failItem p r b 7)) ∧
    (s.ItemReady p r 3 b → exec (.pauseItem p r) s = .next (s.failItem p r b 7)) ∧
    (s.ItemReady p r 4 b → s.mayAdmit p = true → exec (.resumeItem p r) s = .next (s.failItem p r b 7)) ∧
    (s.ItemReady p r 5 b → exec (.cancelItem p r) s = .next (s.failItem p r b 7)) ∧
    (s.ItemReady p r 6 b → exec (.itemEnd p r) s = .next (s.failItem p r b 7))) ∧
  (∀ (s : State) (p : Part) (r : Fin 4) (b : List Byte) (x : PartSt), s.ItemReady p r 7 b → s.part p = some x →
    (s.flag (R.PT_CTL p) F.PT_CTL_AUTO = true → exec (.stepItem p r) s = .next (s.failItem p r b 16)) ∧
    (s.flag (R.PT_CTL p) F.PT_CTL_AUTO = false → x.stepItem = none → Completes (.stepItem p r) s fun t =>
      t.part p = some { x with stepItem := some (itemTag b) } ∧ t.cons p r = (s.cons p r + 1) % 2 ^ 32 ∧
      s.KeepsRegs t fun a => a = R.PT_RK p r)) ∧
  (∀ (s u : State) (p : Part) (r : Fin 4) (b : List Byte), s.ItemReady p r 0x10 b →
    let n := itemNum b 24 4 / 32
    let from_ := (List.range n).map fun i => itemNum b 8 8 % 2 ^ 48 + 32 * i
    let onto := (List.range n).map fun i => itemNum b 16 8 % 2 ^ 48 + 32 * i
    (n = 0 → exec (.itemCopy p r) s = .next ((s.consumeItem p r).ledger p (itemTag b) 0x10 0 0)) ∧
    (n ≠ 0 → addrPkg s.pkgOwn (itemNum b 8 8) = s.pkgOwn → s.readUnits p from_ = (u, none) → exec (.itemCopy p r) s = .next u) ∧
    (∀ us t, n ≠ 0 → addrPkg s.pkgOwn (itemNum b 8 8) = s.pkgOwn → s.readUnits p from_ = (u, some us) →
      addrPkg u.pkgOwn (itemNum b 16 8) = u.pkgOwn →
      (u.itemStore p 0 (itemNum b 16 8) us = (t, true) → exec (.itemCopy p r) s = .next ((t.consumeItem p r).ledger p (itemTag b) 0x10
        (if u.onLost p onto then 11 else if u.onLost p from_ then 11 else if us.any (·.psn) then 4 else 0) 0)) ∧
      (u.itemStore p 0 (itemNum b 16 8) us = (t, false) → exec (.itemCopy p r) s = .next t)) ∧
    (n ≠ 0 → addrPkg s.pkgOwn (itemNum b 8 8) ≠ s.pkgOwn → s.routeTo (addrPkg s.pkgOwn (itemNum b 8 8)) = none →
      exec (.itemCopy p r) s = .next (s.failItem p r b 11))) ∧
  (∀ (s : State) (p : Part) (r : Fin 4) (b : List Byte) (x : PartSt), s.ItemReady p r 0x11 b → s.part p = some x →
    s.SoundReads p [(itemNum b 8 8, s.manifestLen p (itemNum b 8 8))] →
    let m := itemNum b 8 8
    let mine := (List.range (s.locNum p (m + 0x10) 4)).filterMap fun n => (s.stripeAt p m n).dst.map fun d => (n, (s.stripeAt p m n).layer, d, (s.stripeAt p m n).len)
    (s.manifestOk p m = false → exec (.wload p r) s = .next (s.failItem p r b 1)) ∧
    (s.manifestOk p m = true → s.manifestDigest p m ≠ (s.locBytes p (m + 0x20) 32).1 → exec (.wload p r) s = .next (s.failItem p r b 10)) ∧
    (s.manifestOk p m = true → s.manifestDigest p m = (s.locBytes p (m + 0x20) 32).1 →
      (itemNum b 17 1 = 0 → s.wkSlot p (s.locNum p (m + 0xC) 4) = none → exec (.wload p r) s = .next (s.failItem p r b 7)) ∧
      (∀ u, itemNum b 17 1 = 0 → s.wkSlot p (s.locNum p (m + 0xC) 4) ≠ none → mine ≠ [] →
        s.openPages p (mine.flatMap fun t => stripePages t.2.2.1 t.2.2.2) = some u →
        exec (.wload p r) s = .next (((u.consumeItem p r).modPart p fun y => { y with wloads := y.wloads ++
          [⟨itemTag b, m, false, s.locNum p (m + 8) 2, s.locNum p (m + 0xC) 4, mine.map fun t => (t.1, t.2.1), [], decide (itemNum b 16 1 = 1)⟩] }).sendWeights p m (decide (itemNum b 16 1 = 1)))) ∧
      (itemNum b 17 1 = 1 → s.flag (R.PT_SERVE p) F.PT_SERVE_LAYEREN = true → x.wloads.any (·.swap) = false → s.streamOf p = none →
        s.locNum p (m + 8) 2 = (s.fget (R.PT_WGEN p) F.PT_WGEN_CUR + 1) % 65536 → s.wkSlot p (s.locNum p (m + 0xC) 4) ≠ none →
        s.ptState p ≠ 4 → s.ptState p ≠ 3 →
        Completes (.wload p r) s fun t => t.fget (R.PT_WGEN p) F.PT_WGEN_NEXT = s.locNum p (m + 8) 2 ∧
          t.part p = some { x with wloads := x.wloads ++
            [⟨itemTag b, m, true, s.locNum p (m + 8) 2, s.locNum p (m + 0xC) 4, mine.map fun t => (t.1, t.2.1), [], decide (itemNum b 16 1 = 1)⟩] } ∧
          t.mem = s.mem ∧ s.KeepsRegs t fun a => a = R.PT_RK p r ∨ a = R.PT_WGEN p))) ∧
  (∀ (s t : State) (p : Part) (r : Fin 4) (b : List Byte) (d : Nat), s.ItemReady p r 0x12 b →
    let a := itemNum b 8 8
    let o := a % 2 ^ 48 / 32 * 32
    let opnd : SheafBits := BitVec.ofNat 256 (itemNum b 24 8 + itemNum b 32 8 * 2 ^ 64 + itemNum b 16 1 * 2 ^ 128 + itemNum b 17 1 * 2 ^ 136)
    addrPkg s.pkgOwn a = s.pkgOwn → s.homeGw p (a % 2 ^ 48) = some d →
    (∀ v, s.serveUpdate (gwDie d) p 0 [o] (atomUpdate opnd (a % 2 ^ 48)) = (t, .got v) →
      exec (.itemAtomic p r) s = .next (((t.countAcc (t.pagesOf p [o])).consumeItem p r).ledger p (itemTag b) 0x12
        (if s.onLost p [o] then 11 else if v.psn then 4 else 0)
        (if (if s.onLost p [o] then 11 else if v.psn then 4 else 0) = 0 then v.bits.toNat % 2 ^ 64 else 0))) ∧
    (∀ w, s.serveUpdate (gwDie d) p 0 [o] (atomUpdate opnd (a % 2 ^ 48)) = (t, .wait w) → exec (.itemAtomic p r) s = .next t)) ∧
  (∀ (opnd : SheafBits) (o : Nat) (x : Sheaf), atomUpdate opnd o [x] =
    (let y := Sys2Proof.Machine.atomAt opnd x.bits (8 * (o % 32)); ([⟨y.2, x.psn⟩], ⟨y.1, x.psn⟩)))

/-- A pause whose moves are all done with every page out of Bay leaves its sequence PAUSED with its expiry TTL seconds on, and records
DONE. A stripe that this package passes on goes to the next of the chain. A stripe whose length and digest are right is written
and leaves its load's list, and with the last one the load is done; a wrong one is tried again, and a second time fails with
DIGEST. A paused sequence past its expiry is EXPIRED; an expired one 24 hours on is gone. When a slice ends, parking is asked for;
once all tiles are parked with no posted test and idle channels, the clusters go to the next partition; with a channel under way
tiles are released and asked again. A park request that is late is counted and made again. A parking NOTICE asks for parking
outside a swap step. A function-level reset fails every open item, frees the sequences, clears the rings, ends the step and closes
the function's sessions. -/
def Obligations.ServingEventsComplete : Prop :=
  (∀ (s : State) (p : Part) (id : Word32) (q : Seq), s.Live → s.seqOf p id.toNat = some q → q.mode = .pausing →
    (∀ pg ∈ q.pages, s.moveOf pg = none ∧ (s.mapEnt pg).st ≠ .bay ∧ (s.mapEnt pg).st ≠ .lost) →
    Completes (.pauseComplete p id) s fun t =>
      (∃ y, t.seqOf p id.toNat = some y ∧ (y.mode, y.expiry, y.pages) = (.paused, s.now + q.ttl * 1000000, q.pages)) ∧
      (t.part p).map (·.lsn) = (s.part p).map fun x => x.lsn + 1) ∧
  (∀ (s : State) (p : Part) (n : Nat) (data : List Byte) (x : PartSt) (w : WLoad), s.Live →
    let a := s.passArrival p n data
    a.part p = some x → (x.wloads.find? fun w => w.waiting.any fun y => decide (y.1 = n)) = some w → w.swap = false ∨ x.stepSwap = true →
    let t := a.stripeAt p w.addr n
    let w' := { w with waiting := w.waiting.filter fun y => decide (y.1 ≠ n) }
    (data.length = t.len → sm3 data = t.dig → exec (.stripeArrival p n data) s = .next
      (let u := (a.landStripe p n (t.dst.getD 0) w.keyid data).modPart p fun x => { x with wloads := x.wloads.map fun y => if y = w then w' else y }
       (if w'.waiting.isEmpty then u.wloadDone p w' else u).layerRetry p)) ∧
    (data.length ≠ t.len ∨ sm3 data ≠ t.dig → w.retried.contains n = false → Completes (.stripeArrival p n data) s fun u =>
      u.part p = some { x with wloads := x.wloads.map fun y => if y = w then { w with retried := n :: w.retried } else y } ∧
        u.regs = a.regs ∧ u.mem = a.mem) ∧
    (data.length ≠ t.len ∨ sm3 data ≠ t.dig → w.retried.contains n = true → Completes (.stripeArrival p n data) s fun u =>
      (u.part p).map (fun y => (y.wloads, y.lsn)) = some (x.wloads.filter fun y => decide (y ≠ w), x.lsn + 1) ∧
      (w.swap = true → u.ptState p = 4))) ∧
  (∀ (s : State) (p n : Nat) (data : List Byte) (x : PartSt), s.part p = some x →
    (∀ y ∈ x.passing, y.2 = n → data.length ≠ (s.stripeAt p y.1 n).len) → s.passArrival p n data = s) ∧
  (∀ (s : State) (p : Part) (id : Word32) (q : Seq), s.Live → s.seqOf p id.toNat = some q → q.mode = .paused → q.expiry ≤ s.now →
    Completes (.sequenceExpire p id) s fun t => ∃ y, t.seqOf p id.toNat = some y ∧ (y.mode, y.pages, y.expiry) = (.expired, [], q.expiry)) ∧
  (∀ (s : State) (p : Part) (id : Word32) (q : Seq), s.Live → s.seqOf p id.toNat = some q → q.mode = .expired →
    q.expiry + 86400000000 ≤ s.now →
    Completes (.seqidRetentionExpiry p id) s fun t => t.seqOf p id.toNat = none ∧ t.regs = s.regs ∧ t.mem = s.mem) ∧
  (∀ (s : State) (grp : Fin 16) (p q : Nat) (x : PartSt), s.Live →
    ((s.groupParts grp).find? fun p => decide (s.ptState p ≠ 2)) = some p → s.part p = some x →
    s.nextPart p ((s.groupParts grp).filter fun q => decide (q ≠ p)) = some q → x.stepSwap = false → s.ptState p < 3 →
    (x.parking = false → exec (.quantumExpiry grp) s = .next (s.askPark p)) ∧
    (x.parking = true → s.allParked p = true → s.noPosted p = true →
      exec (.quantumExpiry grp) s = .next (if s.chanBusy p then s.repark p else s.switchTo p q))) ∧
  (∀ (s : State) (p : Part) (x : PartSt), s.Live → s.part p = some x → x.parking = true → s.allParked p = false →
    exec (.parkTimeout p) s = .next ((s.dieCnt 31 (R.PT_CNT1 p) F.PT_CNT1_LATEPARK 1).repark p)) ∧
  (∀ (s : State) (k : Link) (f : Flit), s.Live → s.Front k 0 14 f → f.aux = 5 →
    let p := bitsOf (f.units.getD 0 0).toNat 31 16
    ((s.rxPop k 0).part p).isSome = true → p < 16 → ((s.part p).any (·.stepSwap)) = false → exec (.noticeParking k) s = .next ((s.rxPop k 0).requestPark p)) ∧
  (∀ (s : State) (p : Nat) (x : PartSt), s.part p = some x → (((s.requestPark p).part p).map (·.parking)) = some true) ∧
  (∀ (s : State) (p : Part) (x : PartSt), s.Live → s.part p = some x →
    Completes (.vfFlr p) s fun t =>
      (∃ y, t.part p = some y ∧ (y.seqs, y.open_, y.wloads, y.stepItem, y.running, y.parking) = ([], [], [], none, false, false) ∧
        y.lsn = x.lsn + x.unrecorded.length) ∧
      (∀ r < 6, t.ringOn p r = false ∧ t.prod p r = 0 ∧ t.cons p r = 0) ∧ t.loft = s.loft ∧
      (∀ i < 4, ∀ z, t.session i = some z → z.fn ≠ p.val + 1))

/-- PART_CREATE of a partition that does not exist, on clusters without faulty tiles, makes it with no sequences, items or records,
its rings off, and gives it every named tile that no partition holds; those tiles have their banks ON. The commands that set
registers answer what these hold. PART_DESTROY of one with no open item ends it: it exists no more and holds no tile. PART_RINGS
writes base, LOG2N and EN of each ring. PART_SERVE with areas in GEN regions sets EN, AUTO, ADMIT (0 as 1), PCHUNK, LAYERCH and
LAYEREN, and outside RUN and SWAP the three areas. ADAPTER_PUT takes a free slot and answers it with the next generation; the id
changes at the next boundary only. ADAPTER_DROP unmaps the id. WEIGHT_DIR writes PT_WDIR. SLICE_SET writes GROUP, QUANTUM and
PRIO. SERVE_STATS answers the counters, slots and indices, and with CLR zeroes the counters. -/
def Obligations.ServingCommandsComplete : Prop :=
  (∀ (s : State) (fn : Fun) (p : Part) (clusters : List (BitVec 8)), s.Mail → fn.val = 0 → clusters.length = 24 → s.part p = none →
    s.badClusters clusters = false → s.flag R.RST_STAT F.RST_STAT_UP = true →
    Answers (.partCreate fn p clusters) fn 0x0B00 s fun t out =>
      out = [] ∧ t.part p = some { PartSt.fresh with clusters := clusters } ∧ (∀ r < 6, t.ringOn p r = false) ∧
      t.ptState p = (if (maskTiles clusters).any fun g => (s.tilePart g).isSome then 2 else 0) ∧
      (∀ g ∈ maskTiles clusters, s.tilePart g = none → t.tilePart g = some p.val) ∧
      (∀ g < 1536, s.tilePart g ≠ none → t.tilePart g = s.tilePart g)) ∧
  (∀ (s : State) (p : Part) (g : Nat), g < 1536 → (s.tile g).trans = [] → (s.tile g).held = [] →
    ∀ b < 32, (s.giveTile p g).bankAcc g b = .ok) ∧
  (∀ (s : State) (fn : Fun) (p : Part) (x : PartSt), s.Mail → fn.val = 0 → s.part p = some x → x.unrecorded = [] →
    Answers (.partDestroy fn p) fn 0x0B01 s fun t out => out = [] ∧ t.part p = none ∧ (∀ g < 1536, t.tilePart g ≠ some p.val) ∧ ∀ k, t.wkSlot p k = none) ∧
  (∀ (s : State) (fn : Fun) (p : Part) (rings : List RingSet), s.Mail → OwnFn fn p → s.Exists p →
    (∀ r ∈ rings, r.base % 4096 = 0 ∧ r.base < 2 ^ 64 ∧ 6 ≤ r.log2n ∧ r.log2n ≤ 16 ∧ (s.ringOn p r.ring = true → s.ringUsed p r.ring = 0)) →
    (rings.map (·.ring)).Nodup →
    Answers (.partRings fn p rings) fn 0x0B02 s fun t out => out = t.toldBytes (rings.flatMap fun r => [R.PT_RB p r.ring, R.PT_RC p r.ring]) ∧
      ∀ r ∈ rings, t.ringBase p r.ring = r.base ∧ t.ringN p r.ring = 2 ^ r.log2n ∧ t.ringOn p r.ring = r.on) ∧
  (∀ (s : State) (fn : Fun) (p : Part) (auto : Bool) (admits pchunk layerch : Nat) (layeren : Bool) (inarea verdict save : Word64),
    s.Mail → OwnFn fn p → s.Exists p → admits ≤ 255 → 1 ≤ pchunk → pchunk ≤ 4096 → layerch ≤ 63 →
    (∀ a ∈ [inarea, verdict, save], a.toNat % 65536 = 0 ∧ a.toNat < 2 ^ 48) → s.inGen p inarea.toNat (4096 * 0x4000) = true →
    s.inGen p verdict.toNat (4096 * 128) = true → s.inGen p save.toNat (s.saveMin p) = true →
    Answers (.partServe fn p auto admits pchunk layerch layeren inarea verdict save) fn 0x0B03 s fun t out =>
      out = t.toldBytes [R.PT_CTL p, R.PT_SERVE p, R.PT_INAREA p, R.PT_VERDICT p, R.PT_SAVE p] ∧ t.flag (R.PT_CTL p) F.PT_CTL_EN = true ∧ t.flag (R.PT_CTL p) F.PT_CTL_AUTO = auto ∧
      t.fget (R.PT_SERVE p) F.PT_SERVE_ADMIT = max 1 admits ∧ t.fget (R.PT_SERVE p) F.PT_SERVE_PCHUNK = pchunk ∧
      t.fget (R.PT_SERVE p) F.PT_SERVE_LAYERCH = layerch ∧ t.flag (R.PT_SERVE p) F.PT_SERVE_LAYEREN = layeren ∧
      (s.ptState p ≠ 1 → s.ptState p ≠ 3 →
        t.area (R.PT_INAREA p) = inarea.toNat ∧ t.area (R.PT_VERDICT p) = verdict.toNat ∧ t.area (R.PT_SAVE p) = save.toNat) ∧
      s.OnlyRegs t fun a => a = R.PT_CTL p ∨ a = R.PT_SERVE p ∨ a = R.PT_INAREA p ∨ a = R.PT_VERDICT p ∨ a = R.PT_SAVE p) ∧
  (∀ (s : State) (fn : Fun) (p : Part) (aid bytes n : Nat) (addr : Word64) (x : PartSt) (r : Rgn), s.Mail → OwnFn fn p → s.part p = some x →
    aid ≤ 63 → addr.toNat < 2 ^ 48 → s.rgnOf p addr.toNat = some r → addr.toNat + bytes ≤ r.base + r.size → x.freeAdapter = some n →
    Answers (.adapterPut fn p aid addr bytes) fn 0x0B04 s fun t out =>
      (t.part p).map (fun y => (y.ids, y.puts)) = some (x.ids, x.puts ++ [(aid, n)]) ∧
      out = lay [(2, n), (2, (spGet (fun _ => 0) x.gens aid + (x.puts.filter fun a => decide (a.1 = aid)).length + 1) % 65536)] ∧
      t.regs = s.regs ∧ t.mem = s.mem) ∧
  (∀ (s : State) (fn : Fun) (p : Part) (aid : Nat), s.Mail → OwnFn fn p → s.Exists p → aid ≤ 63 →
    Answers (.adapterDrop fn p aid) fn 0x0B05 s fun t out => out = [] ∧ t.regs = s.regs ∧ t.mem = s.mem ∧
      ∃ y, t.part p = some y ∧ spGet (fun _ => none) y.ids aid = none) ∧
  (∀ (s : State) (fn : Fun) (p : Part) (addr : Word64) (x : PartSt), s.Mail → OwnFn fn p → s.part p = some x → x.running = false →
    addr.toNat % 65536 = 0 → addr.toNat < 2 ^ 48 → s.readTouch p (addr.toNat + 0x20) 32 = s →
    Answers (.weightDir fn p addr) fn 0x0B06 s fun t out => out = t.toldBytes [R.PT_WDIR p] ∧ t.area (R.PT_WDIR p) = addr.toNat ∧ t.mem = s.mem) ∧
  (∀ (s : State) (fn : Fun) (p : Part) (grp quantum prio : Nat), s.Mail → fn.val = 0 → s.Exists p → grp ≤ 15 → quantum ≤ 10000 → prio ≤ 15 →
    Answers (.sliceSet fn p grp quantum prio) fn 0x0B07 s fun t out =>
      out = t.toldBytes [R.PT_SLICE p] ∧ t.fget (R.PT_SLICE p) F.PT_SLICE_GROUP = grp ∧ t.fget (R.PT_SLICE p) F.PT_SLICE_QUANTUM = quantum ∧
      t.fget (R.PT_SLICE p) F.PT_SLICE_PRIO = prio ∧ s.OnlyRegs t fun a => a = R.PT_SLICE p) ∧
  (∀ (s : State) (fn : Fun) (p : Part) (clr : Bool) (x : PartSt), s.Mail → OwnFn fn p → s.part p = some x →
    Answers (.serveStats fn p clr) fn 0x0B08 s fun t out =>
      out = lay ([(8, (s.rd (R.PT_CNT0 p)).toNat), (8, (s.rd (R.PT_CNT1 p)).toNat), (4, (x.seqs.filter Seq.slotted).length),
        (4, (x.seqs.filter fun q => decide (q.mode = .paused)).length)] ++ (List.range 6).flatMap fun r => [(4, s.prod p r), (4, s.cons p r)]) ∧
      (clr = true → t.rd (R.PT_CNT0 p) = 0 ∧ t.rd (R.PT_CNT1 p) = 0) ∧
      s.OnlyRegs t fun a => clr = true ∧ (a = R.PT_CNT0 p ∨ a = R.PT_CNT1 p))

/-- REGISTER_WRITE of an address that the accessor may not reach, or of a wrong width, logs a decode miss and does nothing else; one
into an island that is off is counted as refused and does nothing else; one of the own MB_CMD stores the bytes; one of MB_RSP or a
log changes nothing; one of a register is that register's write. A control packet that its destination's router holds, with none
before it in its channel and none of a channel before its own waiting there, leaves the network: a completion, a command, a
fetch's answer, page data or transit has no other effect; a count, a fault and a hint become reports; a register read or write is
answered to its source. One that waits its turn there, has no credit to enter its first router, or may not cross to the next,
changes nothing; one that may cross takes its slot and goes on; one not yet in the network is handed over at its source. One of an
illegal TYPE is reported. MB_DB.GO sets BUSY, and OVERRUN where BUSY stands. Taking up serves the next pending function in turn
and answers it. An event entry moves the oldest report to its queue. -/
def Obligations.ControlSpaceAndMailboxComplete : Prop :=
  (∀ (s : State) (fn : Fun) (addr bytes : Nat) (v : Word64), s.Live →
    (s.ctlTarget fn addr bytes = .miss → exec (.registerWrite fn addr bytes v) s = .next (s.decodeMiss fn addr)) ∧
    (s.ctlTarget fn addr bytes = .off → Completes (.registerWrite fn addr bytes v) s fun t =>
      t = { s with net := { s.net with refusedOff := spPut (fun _ => 0) s.net.refusedOff 31 (spGet (fun _ => 0) s.net.refusedOff 31 + 1) } }) ∧
    (∀ o, s.ctlTarget fn addr bytes = .win 0 o → o + bytes ≤ 0x4000 → bytes ≤ 8 → Completes (.registerWrite fn addr bytes v) s fun t =>
      t.mbBytes fn o bytes = leBytes bytes v.toNat ∧ t.regs = s.regs ∧
      ∀ g n, mbKey g n < mbKey fn o ∨ mbKey fn o + bytes ≤ mbKey g n → t.mbBytes g n 1 = s.mbBytes g n 1) ∧
    (∀ w o, s.ctlTarget fn addr bytes = .win w o → w ≠ 0 ∨ 0x4000 ≤ o → exec (.registerWrite fn addr bytes v) s = .next s) ∧
    (∀ x, s.ctlTarget fn addr bytes = .reg x → exec (.registerWrite fn addr bytes v) s = .next (s.regWrite fn addr v.toNat x))) ∧
  (∀ (s : State) (typ : Fin 16) (dst src : Die) (sid : BitVec 11) (tag : Byte) (err : Bool) (addr : Word64) (pl : List Byte), s.Live →
    let x : CtlPkt := ⟨typ, dst, src, sid.toNat, tag.toNat, err, addr.toNat, pl⟩
    let at_ := (s.net.ctl.find? fun e => decide (e.pkt = x)).map (·.hop)
    let u := s.ctlGone x
    let e := exec (.controlPacket typ dst src sid tag err addr pl) s
    (12 ≤ typ.val → e = .next (s.plainRep 4 none (dieIsland src) addr.toNat typ)) ∧
    (typ.val < 12 → at_ = none → e = .next ((s.ctlSend x).ctlRun x 16)) ∧
    (typ.val < 12 → at_ = some none → s.ctlAdmits x = false → e = .next s) ∧
    (typ.val < 12 → at_ = some (some dst.val) → s.ctlServed x = false → e = .next s) ∧
    (∀ a, typ.val < 12 → at_ = some (some a) → a ≠ dst.val →
      (s.ctlCrosses a (ctlNext a dst) x = false → e = .next s) ∧
      (s.ctlCrosses a (ctlNext a dst) x = true → e = .next (((s.laneTake a (ctlNext a dst)).ctlEnter x (ctlNext a dst)).ctlRun x 15))) ∧
    (at_ = some (some dst.val) → s.ctlServed x = true →
      (typ = 0 → e = .next (u.pktReg x false)) ∧ (typ = 1 → e = .next (u.pktReg x true)) ∧ (typ = 3 → e = .next (u.pktFetch x)) ∧
      (typ = 2 ∨ typ = 4 ∨ typ = 5 ∨ typ = 6 ∨ typ = 10 ∨ typ = 11 → e = .next u) ∧
      (typ = 7 → e = .next { u with rpt := u.rpt ++ [.count (u.rtePart (src.val % 24)) src (u.fget (R.RTE_STAT (src.val % 24)) F.RTE_STAT_POINT) tag.toNat pl] }) ∧
      (typ = 8 → e = .next { u with rpt := u.rpt ++ [pktFault pl] }) ∧
      (typ = 9 → ∃ c l d v, e = .next { u with rpt := u.rpt ++ [.hint (src.val * 64 + sid.toNat % 64) c l d v u.now] }))) ∧
  (∀ (s : State) (x : CtlPkt),
    (ctlDie x.addr ≠ x.dst ∨ s.ctlTarget (pktAcc x.src) x.addr (ctlWidth x.addr) = .miss →
      (s.pktReg x true).net.ctl = s.net.ctl ++ [⟨none, 5, x.src, x.dst, 0x7FF, x.tag, true, x.addr, []⟩] ∧
      (s.pktReg x false).net.ctl = s.net.ctl ++ [⟨none, 4, x.src, x.dst, 0x7FF, x.tag, true, x.addr, leBytes 8 0⟩])) ∧
  (∀ (s : State) (fn : Fun), s.Live → s.fwif ≠ 0 →
    (s.flag (State.mbDb fn) F.MB_DB_BUSY = false → Completes (.mbDbGo fn) s fun t =>
      t.flag (State.mbDb fn) F.MB_DB_BUSY = true ∧ s.OnlyRegs t fun a => a = State.mbDb fn) ∧
    (s.flag (State.mbDb fn) F.MB_DB_BUSY = true → Completes (.mbDbGo fn) s fun t =>
      t.flag (State.mbDb fn) F.MB_DB_OVERRUN = true ∧ t.flag (State.mbDb fn) F.MB_DB_BUSY = true ∧ s.OnlyRegs t fun a => a = State.mbDb fn)) ∧
  (∀ (s : State) (fn : Nat), s.Mail → s.mbNext = some fn →
    let u : State := { s with stw := { s.stw with turn := fn } }
    let r := u.mbCmd fn
    exec .mailboxTakeUp s = .next (if r.1.fwif = 0 then r.1 else r.1.mbPost fn (u.mbNum fn 0 2) (u.mbNum fn 4 4) r.2)) ∧
  (∀ (s : State) (r : Rpt) (q : Nat), s.Live → (s.rpt.find? fun r => (rptQueue r).isSome) = some r → rptQueue r = some q →
    (s.evq q).length < 4096 →
    Completes .eventQueueEntry s fun t => t.evq q = s.evq q ++ [r] ∧ t.rpt = s.rpt.erase r ∧ (∀ q' ≠ q, t.evq q' = s.evq q') ∧
      t.regs = s.regs ∧ t.loft = s.loft)

/-- On a core that runs: CLW and CLD read 4 or 8 bytes of the control space at g_B + imm into g_A (and the next register), set CE
where the access fails, and go on; CSW and CSD write g_A; CFN goes on; CPK sends the command packet that stands in RAM; EVW gives
the lowest selected queue with an entry, and waits without one; TIM reads the time into a pair; BCE branches and clears CE where
CE is set; an ordinary operation writes its result, loads and stores RAM, and branches. An odd register of a pair, a misaligned
address, a CPK of another TYPE or length than R232 gives, or a word of no class stops the core, which is reported. A stopped core
runs nothing. Register 0 stays zero. -/
def Obligations.CoresComplete : Prop :=
  (∀ (s : State) (c : CoreNo) (a b : Fin 32) (imm : BitVec 16), s.Live → (s.core c).stopped = false →
    let ad := (s.coreAddr c b imm).toNat
    (ad % 4 = 0 → let r := s.ctlRead (17 + c) ad 4
      Completes (.clw c a b imm) s fun t => t.greg c a = (if a = 0 then 0 else BitVec.ofNat 32 r.1.1) ∧
        (t.core c).pc = (s.core c).pc + 4 ∧ (t.core c).ce = ((s.core c).ce || r.1.2) ∧ ∀ x, x ≠ a.val → t.greg c x = s.greg c x) ∧
    (ad % 4 ≠ 0 → exec (.clw c a b imm) s = .next (s.coreIllegal c)) ∧
    (ad % 8 = 0 → a.val % 2 = 0 → let r := s.ctlRead (17 + c) ad 8
      Completes (.cld c a b imm) s fun t => t.greg c a = (if a = 0 then 0 else BitVec.ofNat 32 r.1.1) ∧
        t.greg c (a + 1) = BitVec.ofNat 32 (r.1.1 / 2 ^ 32) ∧
        (t.core c).pc = (s.core c).pc + 4 ∧ (t.core c).ce = ((s.core c).ce || r.1.2)) ∧
    (ad % 8 ≠ 0 ∨ a.val % 2 = 1 → exec (.cld c a b imm) s = .next (s.coreIllegal c)) ∧
    (ad % 4 = 0 → exec (.csw c a b imm) s = .next ((s.ctlWrite (17 + c) ad 4 (s.greg c a).toNat).2.coreNext c)) ∧
    (ad % 8 = 0 → a.val % 2 = 0 → exec (.csd c a b imm) s = .next
      ((s.ctlWrite (17 + c) ad 8 ((s.greg c a).toNat + (s.greg c (a + 1)).toNat * 2 ^ 32)).2.coreNext c)) ∧
    (Completes (.cfn c) s fun t => (t.core c).pc = (s.core c).pc + 4 ∧ t.regs = s.regs ∧ ∀ x, t.greg c x = s.greg c x)) ∧
  (∀ (s : State) (c : CoreNo) (b : Fin 32) (imm : BitVec 16), s.Live → (s.core c).stopped = false →
    let a := s.coreAddr c b imm
    let l := s.ramBytes c a 16
    let len := bitsOf (ofLeBytes (l.take 8)) 46 40
    (a.toNat % 8 = 0 → ofLeBytes (l.take 8) % 16 = 2 → len ≤ 64 → len % 8 = 0 →
      Completes (.cpk c b imm) s fun t =>
        t.net.ctl = s.net.ctl ++ [⟨none, ramPkt l (s.ramBytes c (a + 16) len)⟩] ∧ (t.core c).pc = (s.core c).pc + 4 ∧ t.regs = s.regs) ∧
    (a.toNat % 8 ≠ 0 ∨ ofLeBytes (l.take 8) % 16 ≠ 2 ∨ 64 < len ∨ len % 8 ≠ 0 → exec (.cpk c b imm) s = .next (s.coreIllegal c))) ∧
  (∀ (s : State) (c : CoreNo) (a b : Fin 32), s.Live → (s.core c).stopped = false →
    (∀ q, (List.range 8).find? (fun q => decide (c.val < 4) && (s.greg c b).toNat.testBit q && !(s.evq q).isEmpty) = some q →
      Completes (.evw c a b) s fun t => (a.val ≠ 0 → (t.greg c a).toNat / 2 ^ 24 = q) ∧ (t.core c).pc = (s.core c).pc + 4 ∧
        t.stw.queues = s.stw.queues) ∧
    ((∀ q < 8, c.val < 4 → (s.greg c b).toNat.testBit q = true → s.evq q = []) → exec (.evw c a b) s = .next s)) ∧
  (∀ (s : State) (c : CoreNo) (a : Fin 32), s.Live → (s.core c).stopped = false → a.val % 2 = 0 →
    Completes (.tim c a) s fun t => (a.val ≠ 0 → t.greg c a = BitVec.ofNat 32 s.now) ∧ t.greg c (a + 1) = BitVec.ofNat 32 (s.now / 2 ^ 32) ∧
      (t.core c).pc = (s.core c).pc + 4 ∧ t.regs = s.regs) ∧
  (∀ (s : State) (c : CoreNo) (imm : BitVec 16), s.Live → (s.core c).stopped = false →
    Completes (.bce c imm) s fun t => (t.core c).ce = false ∧ (t.core c).pc = (if (s.core c).ce then
      (s.core c).pc + BitVec.ofNat 32 Config.branchBase + imm.signExtend 32 * 4 else (s.core c).pc + 4)) ∧
  (∀ (s : State) (c : CoreNo), s.Live → (s.core c).stopped = false →
    (∀ op (a b d : Fin 32) v, aluOp op (s.greg c b) (s.greg c d) = some v → Completes (.bilhaCInstruction c (.alu op a b d)) s fun t =>
      t.greg c a = (if a = 0 then 0 else v) ∧ (t.core c).pc = (s.core c).pc + 4 ∧ ∀ x, x ≠ a.val → t.greg c x = s.greg c x) ∧
    (∀ op (a b d : Fin 32), aluOp op (s.greg c b) (s.greg c d) = none → Completes (.bilhaCInstruction c (.alu op a b d)) s fun t =>
      (t.core c).pc = (s.core c).pc + 4 ∧ ∀ x, x ≠ a.val → t.greg c x = s.greg c x) ∧
    (∀ op (a b : Fin 32) (imm : BitVec 16) v, aluOp op (s.greg c b) (imm.signExtend 32) = some v →
      Completes (.bilhaCInstruction c (.alui op a b imm)) s fun t =>
        t.greg c a = (if a = 0 then 0 else v) ∧ (t.core c).pc = (s.core c).pc + 4 ∧ ∀ x, x ≠ a.val → t.greg c x = s.greg c x) ∧
    (∀ (n : Nat) sg (a b : Fin 32) (imm : BitVec 16), n = 1 ∨ n = 2 ∨ n = 4 → (s.coreAddr c b imm).toNat % n = 0 →
      Completes (.bilhaCInstruction c (.load n sg a b imm)) s fun t =>
        t.greg c a = (if a = 0 then 0 else loadExt n sg (ofLeBytes (s.ramBytes c (s.coreAddr c b imm) n))) ∧
        (t.core c).pc = (s.core c).pc + 4 ∧ t.stw.ram = s.stw.ram) ∧
    (∀ (n : Nat) (a b : Fin 32) (imm : BitVec 16), n = 1 ∨ n = 2 ∨ n = 4 → (s.coreAddr c b imm).toNat % n = 0 →
      Completes (.bilhaCInstruction c (.store n a b imm)) s fun t =>
        t.ramBytes c (s.coreAddr c b imm) n = leBytes n (s.greg c a).toNat ∧ (t.core c).pc = (s.core c).pc + 4 ∧
        ∀ k, k < ramKey c (s.coreAddr c b imm) ∨ ramKey c (s.coreAddr c b imm) + n ≤ k →
          spGet (fun _ => 0) t.stw.ram k = spGet (fun _ => 0) s.stw.ram k) ∧
    (∀ op (a b : Fin 32) (imm : BitVec 16), Completes (.bilhaCInstruction c (.branch op a b imm)) s fun t =>
      (t.core c).pc = (if brOp op (s.greg c a) (s.greg c b) then (s.core c).pc + BitVec.ofNat 32 Config.branchBase + imm.signExtend 32 * 4
        else (s.core c).pc + 4) ∧ ∀ x, t.greg c x = s.greg c x) ∧
    (∀ off : BitVec 26, Completes (.bilhaCInstruction c (.jump off)) s fun t =>
      (t.core c).pc = (s.core c).pc + BitVec.ofNat 32 Config.branchBase + off.signExtend 32 * 4) ∧
    (∀ off : BitVec 26, Completes (.bilhaCInstruction c (.jumpLink off)) s fun t =>
      (t.core c).pc = (s.core c).pc + BitVec.ofNat 32 Config.branchBase + off.signExtend 32 * 4 ∧ t.greg c 31 = (s.core c).pc + 4) ∧
    (∀ b : Fin 32, Completes (.bilhaCInstruction c (.jumpReg b)) s fun t => (t.core c).pc = s.greg c b) ∧
    (∀ w : Word32, Completes (.bilhaCInstruction c (.illegal w)) s fun t => (t.core c).stopped = true ∧ (t.core c).pc = (s.core c).pc ∧
      t.regs = s.regs ∧ ∃ f, t.rpt = s.rpt ++ [f])) ∧
  (∀ (s : State) (c : CoreNo) (a b : Fin 32) (imm : BitVec 16) (op : BcOp), s.Live → (s.core c).stopped = true →
    ∀ i ∈ [Instr.clw c a b imm, .cld c a b imm, .csw c a b imm, .csd c a b imm, .cfn c, .cpk c b imm, .evw c a b, .tim c a, .bce c imm,
      .bilhaCInstruction c op], exec i s = .next s) ∧
  (∀ (s : State) (c : CoreNo) (a b : Fin 32) (imm : BitVec 16) (op : BcOp), s.Live →
    ∀ i ∈ [Instr.cfn c, .cpk c b imm, .evw c a b, .tim c a, .bce c imm, .bilhaCInstruction c op],
      Completes i s fun t => (∀ k, k ≠ c.val → t.core k = s.core k) ∧ t.greg c 0 = 0 ∧ t.regs = s.regs ∧ t.tiles = s.tiles)

/-- In an allotment period the grants add up to at most the bushels of the ceiling, less what the other islands drew and the reserve,
or where code 16 for all islands exceeds that, to at most what code 16 takes; FCODE shows the largest code whose sum fits, else
16; no running clock rises by more than four codes; DRAW shows the draw. A hint is counted, counted late where its lead is below
PRELEAD or its phase has begun, and kept from its issue on. A droop counts and undoes the island's raise of the period. An ageing
check raises VOFF by one below 12, and else lowers FMAX, never below 16, and sets AGELIM. A sample sets TEMP, keeps MAX and sets
LIM at TJMAX; at 115 or more the thermal-trip reset starts. A cap within 2,000 to 4,000 W is stored; a lower target without a
rate, or faster than 400 W/ms, stretches every running clock to code 16 at once. An island turned off while unused has no grant;
one in use or always on sets REF. The clears zero their counters. -/
def Obligations.PowerEventsComplete : Prop :=
  (∀ (s : State) (others draw : Nat) (meas : List TileMeas), s.Live →
    Completes (.allotmentPeriod others draw meas) s fun t =>
      let l := t.demands (meas.map fun m => (m.tile.val, m.level, m.act)) 0
      let budget : Int := (4 * t.ceil : Nat) - (others : Int) - 400
      ((((List.range 1536).map fun g => t.fget (R.PWR_ISL g) F.PWR_ISL_GRANT).sum : Nat) : Int) ≤ max budget (sumAt l 16 : Nat) ∧
      t.fget R.PWR_STAT F.PWR_STAT_FCODE = (bestCode l budget 72).getD 16 ∧ t.fget R.PWR_STAT F.PWR_STAT_DRAW = draw % 2 ^ 13 ∧
      (∀ g < 1536, s.fget (R.TIL_CLK g) F.TIL_CLK_FREQ ≠ 0 →
        t.fget (R.TIL_CLK g) F.TIL_CLK_FREQ ≤ s.fget (R.TIL_CLK g) F.TIL_CLK_FREQ + 4) ∧
      (∀ g < 1536, s.tilePart g = none ∨ s.flag (R.CLK_ISL g) F.CLK_ISL_ON = false → t.fget (R.PWR_ISL g) F.PWR_ISL_GRANT = 0)) ∧
  (∀ (s : State) (pre post : List Rpt) (g cls lead dur level issued : Nat), s.Live → s.rpt = pre ++ .hint g cls lead dur level issued :: post →
    (∀ r ∈ pre, ∀ a b c d e f, r ≠ .hint a b c d e f) →
    Completes .hintReport s fun t => t.rpt = pre ++ post ∧ t.tileHint g = some ⟨issued, lead, dur, level + 1, cls⟩ ∧
      t.fget R.PWR_CNT F.PWR_CNT_HINTS = min (2 ^ 32 - 1) (s.fget R.PWR_CNT F.PWR_CNT_HINTS + 1) ∧
      t.fget R.PWR_CNT F.PWR_CNT_LATEHINT = (if lead < s.fget R.PWR_CTL F.PWR_CTL_PRELEAD ∨ issued + lead ≤ s.now then
        min (2 ^ 16 - 1) (s.fget R.PWR_CNT F.PWR_CNT_LATEHINT + 1) else s.fget R.PWR_CNT F.PWR_CNT_LATEHINT) ∧
      s.KeepsRegs t fun a => a = R.PWR_CNT) ∧
  (∀ (s : State) (i : Island), s.Live →
    (Completes (.droopFire i) s fun t =>
      t.fget (R.CLK_ISL i) F.CLK_ISL_DROOP = min (2 ^ 16 - 1) (s.fget (R.CLK_ISL i) F.CLK_ISL_DROOP + 1) ∧ i.val ∈ t.pwr.drooped ∧
      (∀ x, (s.pwr.raised.find? fun x => decide (x / 128 = i.val)) = some x → t.fget (R.TIL_CLK i) F.TIL_CLK_FREQ = x % 128) ∧
      s.KeepsRegs t fun a => a = R.CLK_ISL i ∨ a = R.TIL_CLK i) ∧
    Completes (.droopRecover i) s fun t => t.pwr.drooped = s.pwr.drooped.erase i.val ∧ t.regs = s.regs ∧ t.loft = s.loft) ∧
  (∀ (s : State) (short : List Nat), s.Live →
    exec (.ageingCheck short) s = .next ((short.filter fun i => decide (i < 1701)).foldl State.ageIsland s)) ∧
  (∀ (s : State) (i : Nat), i < 1701 →
    (s.fget (R.CLK_ISL i) F.CLK_ISL_VOFF < 12 →
      (s.ageIsland i).fget (R.CLK_ISL i) F.CLK_ISL_VOFF = s.fget (R.CLK_ISL i) F.CLK_ISL_VOFF + 1 ∧
      (s.ageIsland i).fget (R.PWR_ISL i) F.PWR_ISL_FMAX = s.fget (R.PWR_ISL i) F.PWR_ISL_FMAX) ∧
    (12 ≤ s.fget (R.CLK_ISL i) F.CLK_ISL_VOFF →
      (s.ageIsland i).fget (R.PWR_ISL i) F.PWR_ISL_FMAX = max 16 (s.fget (R.PWR_ISL i) F.PWR_ISL_FMAX - 1) ∧
      (s.ageIsland i).flag R.PWR_STAT F.PWR_STAT_AGELIM = true ∧
      (s.ageIsland i).fget (R.CLK_ISL i) F.CLK_ISL_VOFF = s.fget (R.CLK_ISL i) F.CLK_ISL_VOFF)) ∧
  (∀ (s : State) (n : Fin 239) (temp : Byte), s.Live →
    (toSigned8 temp.toNat < 115 → Completes (.sensorSample n temp) s fun t => t.temp n = toSigned8 temp.toNat ∧
      toSigned8 (t.fget (R.PWR_TS n) F.PWR_TS_MAX) = max (toSigned8 (s.fget (R.PWR_TS n) F.PWR_TS_MAX)) (toSigned8 temp.toNat) ∧
      (t.flag (R.PWR_TS n) F.PWR_TS_LIM = true ↔ (s.tjmax : Int) ≤ toSigned8 temp.toNat) ∧ s.OnlyRegs t fun a => a = R.PWR_TS n) ∧
    (115 ≤ toSigned8 temp.toNat → ∀ i ∈ [Instr.sensorSample n temp, .thermalTrip n temp], Completes i s fun t =>
      t.rst.hold = .trip ∧ t.rst.tripLow = true ∧ t.flag R.PWR_STAT F.PWR_STAT_TRIPPED = true ∧
      t.fget R.RST_CAUSE F.RST_CAUSE_LAST = 3 ∧ t.fwif = 0)) ∧
  (∀ (s : State) (tray : Bool) (watts rate : Nat), s.Live →
    Completes (.capWrite tray watts rate) s fun t =>
      t.fget R.PWR_CAP (if tray then F.PWR_CAP_TRAY else F.PWR_CAP_HOST) = min 4000 (max 2000 watts) ∧
      t.fget R.PWR_CAP (if tray then F.PWR_CAP_TRATE else F.PWR_CAP_HRATE) = rate % 2 ^ 12 ∧
      (watts < 2000 → t.flag R.PWR_STAT F.PWR_STAT_CAPCLAMP = true) ∧
      (let w := min 4000 (max 2000 watts)
       (if tray then w ≤ s.fget R.PWR_CAP F.PWR_CAP_HOST else w < s.fget R.PWR_CAP F.PWR_CAP_TRAY) → w < s.ceil →
        rate % 2 ^ 12 = 0 ∨ 400 < rate % 2 ^ 12 → t.ceil = w ∧ t.flag R.PWR_STAT F.PWR_STAT_FASTSTR = true ∧
        ∀ g < 1536, t.islFloor g = 0 ∧ t.fget (R.TIL_CLK g) F.TIL_CLK_FREQ = (if s.fget (R.TIL_CLK g) F.TIL_CLK_FREQ = 0 then 0 else 16)) ∧
      t.loft = s.loft ∧ t.mem = s.mem) ∧
  (∀ (s : State) (i : Island), s.Live →
    (Completes (.clkIslOnWrite i true) s fun t => t.flag (R.CLK_ISL i) F.CLK_ISL_ON = true ∧ s.OnlyRegs t fun a => a = R.CLK_ISL i) ∧
    (alwaysOn i = true ∨ s.flag (R.CLK_ISL i) F.CLK_ISL_USED = true → Completes (.clkIslOnWrite i false) s fun t =>
      t.flag (R.CLK_ISL i) F.CLK_ISL_REF = true ∧ t.flag (R.CLK_ISL i) F.CLK_ISL_ON = s.flag (R.CLK_ISL i) F.CLK_ISL_ON ∧
      s.OnlyRegs t fun a => a = R.CLK_ISL i) ∧
    (alwaysOn i = false → s.flag (R.CLK_ISL i) F.CLK_ISL_USED = false → Completes (.clkIslOnWrite i false) s fun t =>
      t.flag (R.CLK_ISL i) F.CLK_ISL_ON = false ∧ t.fget (R.PWR_ISL i) F.PWR_ISL_GRANT = 0 ∧ t.fget (R.PWR_ISL i) F.PWR_ISL_FREQ = 0 ∧
      (i.val < 1536 → t.fget (R.TIL_CLK i) F.TIL_CLK_FREQ = 0))) ∧
  (∀ (s : State), s.Live →
    (Completes .pwrCntclrCnt s fun t => t.rd R.PWR_CNT = 0 ∧ s.OnlyRegs t fun a => a = R.PWR_CNT) ∧
    (Completes .pwrCntclrBale s fun t => t.rd R.PWR_BALE = 0 ∧ s.OnlyRegs t fun a => a = R.PWR_BALE) ∧
    (Completes .pwrCntclrDroop s fun t => (∀ i < 1701, t.fget (R.CLK_ISL i) F.CLK_ISL_DROOP = 0 ∧
      t.fget (R.CLK_ISL i) F.CLK_ISL_VOFF = s.fget (R.CLK_ISL i) F.CLK_ISL_VOFF) ∧ s.OnlyRegs t fun a => ∃ i < 1701, a = R.CLK_ISL i) ∧
    (Completes .pwrOvrptrClr s fun t => t.fget R.PWR_OVRPTR F.PWR_OVRPTR_NEXT = 0 ∧ t.fget R.PWR_OVRPTR F.PWR_OVRPTR_COUNT = 0 ∧
      t.fget R.PWR_OVRPTR F.PWR_OVRPTR_LOST = 0 ∧ s.OnlyRegs t fun a => a = R.PWR_OVRPTR) ∧
    ∀ n, Completes (.pwrTsClr n) s fun t => t.fget (R.PWR_TS n) F.PWR_TS_MAX = 0 ∧
      t.fget (R.PWR_TS n) F.PWR_TS_TEMP = s.fget (R.PWR_TS n) F.PWR_TS_TEMP ∧ s.OnlyRegs t fun a => a = R.PWR_TS n)

/-- FW_INFO answers STW_IDENT, the version and the digest, and changes nothing. PKG_LOCATE with the rack of an unlocked part whose
slot is valid locks the id rack x 32 + slot and answers STW_LOC; on a locked part it answers where the id is the same.
POWER_STATUS answers the registers and with CLR zeroes the counters. POWER_CAP writes the host's cap. POWER_TARGET sets FMAX of
the partition's tiles and no other register. BALLAST_SET sets BALEN and BRAMP. THERMAL_STATUS, AGE_LOG and OVERRUN_LOG answer and
change nothing without CLR. ISLAND_POWER of an island in use is not done; else it turns it. DROOP_SET sets DTH, at least 10, and
STR, at most 2. HINT_CONFIG sets PRELEAD. The commands that set registers answer what these hold. -/
def Obligations.PowerCommandsComplete : Prop :=
  (∀ (s : State) (fn : Fun), s.Mail →
    Answers (.fwInfo fn) fn 0x0001 s fun t out => t = s ∧
      out = lay [(4, (s.rd R.STW_IDENT).toNat), (4, Config.fwVersion)] ++ (s.sec.fwDigest ++ List.replicate 32 0).take 32) ∧
  (∀ (s : State) (fn : Fun) (rack : Nat), s.Mail → fn.val = 0 → rack ≤ 127 → s.flag R.STW_LOC F.STW_LOC_TSVALID = true →
    (s.flag R.STW_LOC F.STW_LOC_LOCK = false → Answers (.pkgLocate fn rack) fn 0x0100 s fun t out =>
      t.pkgOwn = rack * 32 + s.fget R.STW_LOC F.STW_LOC_TRAYSLOT ∧ t.flag R.STW_LOC F.STW_LOC_LOCK = true ∧
      out = leBytes 4 (t.rd R.STW_LOC).toNat ∧ s.OnlyRegs t fun a => a = R.STW_LOC) ∧
    (s.flag R.STW_LOC F.STW_LOC_LOCK = true → s.pkgOwn = rack * 32 + s.fget R.STW_LOC F.STW_LOC_TRAYSLOT →
      Answers (.pkgLocate fn rack) fn 0x0100 s fun t _ => t = s)) ∧
  (∀ (s : State) (fn : Fun) (clr : Bool), s.Mail → fn.val = 0 ∨ clr = false →
    Answers (.powerStatus fn clr) fn 0x0C00 s fun t out =>
      out.take 32 = lay [(8, (s.rd R.PWR_CAP).toNat), (8, s.pwrStat), (8, (s.rd R.PWR_CNT).toNat), (8, (s.rd R.PWR_BALE).toNat)] ∧
      (clr = false → t = s) ∧ (clr = true → t.rd R.PWR_CNT = 0 ∧ t.rd R.PWR_BALE = 0 ∧
        ∀ i < 1701, t.fget (R.CLK_ISL i) F.CLK_ISL_DROOP = 0)) ∧
  (∀ (s : State) (fn : Fun) (watts rate : Nat), s.Mail → fn.val = 0 → watts ≤ 65535 → rate ≤ 4095 →
    Answers (.powerCap fn watts rate) fn 0x0C01 s fun t out => out = t.toldBytes [R.PWR_CAP] ∧ t = s.capWrite false watts rate) ∧
  (∀ (s : State) (fn : Fun) (p : Part) (code : Nat), s.Mail → OwnFn fn p → 16 ≤ code → code ≤ 72 →
    Answers (.powerTarget fn p code) fn 0x0C02 s fun t out =>
      out = t.toldBytes ((s.tilesOf p).map R.PWR_ISL) ∧ (∀ g ∈ s.tilesOf p, t.fget (R.PWR_ISL g) F.PWR_ISL_FMAX = code) ∧
      s.OnlyRegs t fun a => ∃ g ∈ s.tilesOf p, a = R.PWR_ISL g) ∧
  (∀ (s : State) (fn : Fun) (on : Bool) (us : Nat), s.Mail → fn.val = 0 → 50 ≤ us → us ≤ 2000 →
    Answers (.ballastSet fn on us) fn 0x0C03 s fun t out =>
      out = t.toldBytes [R.PWR_CTL] ∧ t.flag R.PWR_CTL F.PWR_CTL_BALEN = on ∧ t.fget R.PWR_CTL F.PWR_CTL_BRAMP = us / 10 ∧ s.OnlyRegs t fun a => a = R.PWR_CTL) ∧
  (∀ (s : State) (fn : Fun) (clr : Bool), s.Mail →
    Answers (.thermalStatus fn clr) fn 0x0C04 s (fun t out =>
      out.take 956 = lay ((List.range 239).map fun n => (4, (s.rd (R.PWR_TS n)).toNat)) ∧ (clr = false → t = s) ∧
      (clr = true → ∀ n < 239, t.fget (R.PWR_TS n) F.PWR_TS_MAX = 0)) ∧
    Answers (.ageLog fn) fn 0x0C05 s (fun t _ => t = s) ∧
    Answers (.overrunLog fn clr) fn 0x0C06 s (fun t _ => (clr = false → t = s) ∧
      (clr = true → t.fget R.PWR_OVRPTR F.PWR_OVRPTR_COUNT = 0 ∧ t.flag R.PWR_STAT F.PWR_STAT_OVR = false))) ∧
  (∀ (s : State) (fn : Fun) (i : Nat) (on : Bool) (h : i < 1701), s.Mail → fn.val = 0 → alwaysOn i = false →
    on = true ∨ s.flag (R.CLK_ISL i) F.CLK_ISL_USED = false →
    Answers (.islandPower fn ⟨i, h⟩ on) fn 0x0C07 s fun t out => out = t.toldBytes [R.CLK_ISL i] ∧ t.flag (R.CLK_ISL i) F.CLK_ISL_ON = on) ∧
  (∀ (s : State) (fn : Fun) (mv factor : Nat), s.Mail → fn.val = 0 → mv ≤ 255 → factor ≤ 3 →
    Answers (.droopSet fn mv factor) fn 0x0C08 s fun t out =>
      out = t.toldBytes [R.CLK_DCFG] ∧ t.fget R.CLK_DCFG F.CLK_DCFG_DTH = max 10 mv ∧ t.fget R.CLK_DCFG F.CLK_DCFG_STR = min 2 factor ∧
      s.OnlyRegs t fun a => a = R.CLK_DCFG) ∧
  (∀ (s : State) (fn : Fun) (us : Nat), s.Mail → fn.val = 0 → us ≤ 255 →
    Answers (.hintConfig fn us) fn 0x0C09 s fun t out =>
      out = t.toldBytes [R.PWR_CTL] ∧ t.fget R.PWR_CTL F.PWR_CTL_PRELEAD = us ∧ s.OnlyRegs t fun a => a = R.PWR_CTL)

/-- SEC_STATUS, SEC_IDENTITY and SEC_ATTEST change no register and answer what they should. A self-test that passes clears ERROR and
FAILTEST; one that fails, or an entropy failure, sets them and holds every link that is UP. SEC_OPEN with the owner's key, or with
a certificate that the owner signed, answers the key exchange and fills a free session that is not granted yet; a key point that
is not on the curve (the model's refusal position 4, entry 120) and a certificate that the owner did not sign are refused;
SEC_CONFIRM with the expected value grants it, and with another value closes it and counts a failure. SEC_CLOSE and the idle
timeout close a session. A session command without a granted session of its function is refused; one whose counter or MAC is wrong
closes the session and counts a failure. The end of a lockout clears it. A security event is counted and logged; a STALE count
that reaches ZTHR zeroises. -/
def Obligations.SecuritySessionsComplete : Prop :=
  (∀ (s : State) (fn : Fun), s.Mail →
    Serves (.secStatus fn) fn 0x0D00 s fun t out => t = s ∧ out = layFrom 4 ([s.secStat, (s.rd R.SEC_LIFE).toNat, (s.rd R.SEC_SVN).toNat,
      (s.rd R.SEC_OWNER).toNat, (s.rd R.SEC_DOMAIN).toNat, (s.rd R.SEC_DEBUG).toNat].map (fun v => (4, v)) ++ [(8, (s.rd R.SEC_EVT).toNat)])) ∧
  (∀ (s : State) (fn : Fun), s.Mail → s.secShut 2 = false →
    Serves (.secIdentity fn) fn 0x0D02 s fun t out => t = s ∧ out = s.sec.identity) ∧
  (∀ (s : State) (fn : Fun) (nonce : List Byte) (first : Nat), s.Mail → s.secShut 3 = false → nonce.length = 32 → first ≤ 65535 →
    Serves (.secAttest fn nonce first) fn 0x0D03 s fun t out => t = s.fresh.2 ∧
      out = s.report489 nonce first ++ s.dikSign s.fresh.1 (s.report489 nonce first)) ∧
  (∀ (s : State) (fn : Fun) (n : Nat), s.Mail → fn.val = 0 → s.secShut 1 = false → n ≤ 255 →
    Serves (.secSelftest fn n) fn 0x0D01 s fun t out => out = [] ∧ t.secErr = decide (n ≠ 0) ∧
      t.fget R.SEC_STAT F.SEC_STAT_FAILTEST = n ∧ (n ≠ 0 → ∀ k < 36, s.linkState k = 4 → t.linkState k = 3)) ∧
  (∀ (s : State), s.Live → Completes .entropyTestFail s fun t =>
    t.secErr = true ∧ t.fget R.SEC_STAT F.SEC_STAT_FAILTEST = 8 ∧ (∀ k < 36, s.linkState k = 4 → t.linkState k = 3) ∧
    ∃ pre, t.rpt = pre ++ [.fault 11 8 4 none 1700 31 0 0]) ∧
  (∀ (s : State) (fn : Fun) (key ea : List Byte) (i : Nat), s.Mail → s.secShut 4 = false → s.sec.lockout = false → ea.length = 64 →
    (List.range 4).find? (fun i => (s.session i).isNone) = some i →
    (fn.val = 0 → key.length = 64 → s.ownerSet = true → sm3 key = s.ownerDigest →
      match sm2Respond dwkPriv s.fresh.1 key ea with
      | some e => Serves (.secOpen fn 1 key ea) fn 0x0D04 s fun t out =>
        out = BitVec.ofNat 8 i :: e.eb ++ e.sb ∧ t.session i =
          some { fn := 0, role := 1, mask := 0, granted := false, kenc := e.key.take 16, kmac := e.key.drop 16, sa := e.sa, ctr := 0 }
      | none => exec (.secOpen fn 1 key ea) s = .next (s.reply s.fresh.2 fn 0x0D04 (.refused 4))) ∧
    (key.length = 160 → fn.val = 0 ∨ (ofLeBytes ((key.drop 64).take 2)).testBit (fn.val - 1) = true →
      if s.certOk key = true then
        match sm2Respond dwkPriv s.fresh.1 (key.take 64) ea with
        | some e => Serves (.secOpen fn 2 key ea) fn 0x0D04 s fun t out => out = BitVec.ofNat 8 i :: e.eb ++ e.sb ∧
          t.session i =
          some ⟨fn.val, 2, if fn.val = 0 then ofLeBytes ((key.drop 64).take 2) else 2 ^ (fn.val - 1), false, e.key.take 16, e.key.drop 16, e.sa, 0⟩
        | none => exec (.secOpen fn 2 key ea) s = .next (s.reply s.fresh.2 fn 0x0D04 (.refused 4))
      else exec (.secOpen fn 2 key ea) s = .next (s.reply s fn 0x0D04 (.refused 3)))) ∧
  (∀ (s : State) (fn : Fun) (sid : Nat) (sa : List Byte) (x : Session), s.Mail → sid ≤ 3 → sa.length = 32 → s.secShut 5 = false →
    s.session sid = some x → x.fn = fn.val → x.granted = false →
    (sa = x.sa → Serves (.secConfirm fn sid sa) fn 0x0D05 s fun t out => out = [] ∧ t.session sid = some { x with granted := true } ∧
      t.sec.authRow = 0) ∧
    (sa ≠ x.sa → ∃ t, exec (.secConfirm fn sid sa) s = .next (s.reply t fn 0x0D05 (.refused 0)) ∧ t = s.authFail sid)) ∧
  (∀ (s : State) (sid : Nat), (s.authFail sid).session sid = none ∧ (s.authFail sid).sec.authRow = s.sec.authRow + 1 ∧
    (8 ≤ s.sec.authRow + 1 → (s.authFail sid).sec.lockout = true)) ∧
  (∀ (s : State) (fn : Fun) (a : SesAuth) (x : Session), s.Mail → s.secShut 6 = false → s.authOf fn 0x0D06 a [] = .ok x →
    Serves (.secClose fn a) fn 0x0D06 s fun t out => out = [] ∧ t.session a.sid = none ∧
      ∀ j, j ≠ a.sid → t.session j = s.session j) ∧
  (∀ (s : State) (fn code : Nat) (a : SesAuth) (params : List Byte) (role : Session → Bool) (f : Session → State → State × Reply),
    (s.authOf fn code a params = .none_ → s.sesCmd fn code a params role f = (s, .refused 0)) ∧
    (s.authOf fn code a params = .bad → s.sesCmd fn code a params role f = (s.authFail a.sid, .refused 0)) ∧
    (∀ x, s.authOf fn code a params = .ok x → x.granted = true ∧ x.fn = fn ∧ a.ctr = x.ctr + 1 ∧
      a.mac = (hmacSm3 x.kmac (leBytes 2 code ++ leBytes 4 a.ctr ++ params)).take 16 ∧
      s.sesCmd fn code a params role f = if role x then f x (s.sessionUsed a x) else (s.sessionUsed a x, .notPermitted))) ∧
  (∀ (s : State) (sid : Nat), s.Live → sid < 4 → Completes (.sessionIdleTimeout sid) s fun t => t.session sid = none ∧
    (∀ j, j ≠ sid → t.session j = s.session j) ∧ s.KeepsRegs t fun a => a = R.SEC_STAT) ∧
  (∀ (s : State), s.Live → Completes .authLockoutEnd s fun t => t.sec.lockout = false ∧ t.sec.authRow = 0 ∧ t.regs = s.regs) ∧
  (∀ (s : State), s.Live →
    (Completes (.securityEvent .authFail) s fun t => t.fget R.SEC_EVT F.SEC_EVT_AUTHFAIL = min 65535 (s.fget R.SEC_EVT F.SEC_EVT_AUTHFAIL + 1) ∧
      t.sec.events.getLast? = some (.authFail, s.now)) ∧
    (Completes (.securityEvent .heldKey) s fun t => t.fget R.SEC_EVT F.SEC_EVT_HELDKEY = min 65535 (s.fget R.SEC_EVT F.SEC_EVT_HELDKEY + 1) ∧
      t.sec.events.getLast? = some (.heldKey, s.now)) ∧
    (let z := s.fget R.SEC_EVT F.SEC_EVT_ZTHR
     let n := min 65535 (s.fget R.SEC_EVT F.SEC_EVT_STALE + 1)
     (z = 0 ∨ n < z → Completes (.securityEvent .stale) s fun t => t.fget R.SEC_EVT F.SEC_EVT_STALE = n ∧
       t.sec.events.getLast? = some (.stale, s.now)) ∧
     (z ≠ 0 → z ≤ n → Completes (.securityEvent .stale) s fun t => t.flag R.SEC_STAT F.SEC_STAT_ZEROISED = true ∧ t.fwif = 0 ∧
       t.sec.kd = none ∧ t.sec.blob = none ∧ t.sec.wkeys = [] ∧ ∀ i, t.session i = none)))

/-- With the session authenticated and its role right: KEY_IMPORT of a key that unwraps to its partition and KEYID, not yet held,
fills a free slot with it. KEY_DROP of a key that no load uses empties its slot. DOMAIN_KEY of a key under the part's domain id
holds and seals it. DOMAIN_ID with a new id writes the fuse, takes one write, and drops KD and its blob. SVN_SET of a higher
number that the running firmware carries writes it. OWNER_ROTATE writes the next digest and slot, and in MANUFACTURED enters
PROVISIONED. LIFECYCLE to the next state writes it, and into DECOMMISSIONED zeroises. REPAIR_COMMIT of a newer map stores it with
its version. DEBUG_GRANT sets the scope, and EVER for a scope that is not empty; without INJECT every injector stops. ZEROISE
leaves no key, no session and no firmware. SEC_EVENTS answers the log and with CLR empties it. -/
def Obligations.SecurityServicesComplete : Prop :=
  (∀ (s : State) (fn : Fun) (a : SesAuth) (x : Session) (p : Part) (keyid : Word32) (wrapped m : List Byte) (i : Nat), s.Mail → s.secShut 7 = false →
    wrapped.length = 48 → s.authOf fn 0x0D07 a (u8 [(1, p), (4, keyid.toNat)] ++ wrapped) = .ok x → mayServe p x = true →
    kwUnwrap x.kenc wrapped = some m → ofLeBytes ((m.drop 36).take 1) = p.val → ofLeBytes ((m.drop 32).take 4) = keyid.toNat →
    s.keySlot p keyid.toNat = none → s.keyFree p = some i →
    Serves (.keyImport fn a p keyid wrapped) fn 0x0D07 s fun t out => out = [] ∧ t.fget (R.SEC_WKEY p i) F.SEC_WKEY_KEYID = keyid.toNat ∧
      t.flag (R.SEC_WKEY p i) F.SEC_WKEY_VALID = true ∧ spGet (fun _ => none) t.sec.wkeys (p.val * 16 + i) = some (m.take 32) ∧
      t.loft = s.loft ∧ t.mem = s.mem) ∧
  (∀ (s : State) (fn : Fun) (a : SesAuth) (x : Session) (p : Part) (keyid : Word32) (i : Nat), s.Mail → s.secShut 8 = false →
    s.authOf fn 0x0D08 a (u8 [(1, p), (4, keyid.toNat)]) = .ok x → mayServe p x = true →
    (∀ y, s.part p = some y → ∀ w ∈ y.wloads, w.keyid ≠ keyid.toNat) → s.keySlot p keyid.toNat = some i →
    Serves (.keyDrop fn a p keyid) fn 0x0D08 s fun t out => out = [] ∧ t.rd (R.SEC_WKEY p i) = 0 ∧
      spGet (fun _ => none) t.sec.wkeys (p.val * 16 + i) = none) ∧
  (∀ (s : State) (fn : Fun) (a : SesAuth) (x : Session) (wrapped m : List Byte), s.Mail → s.secShut 9 = false → wrapped.length = 48 →
    s.authOf fn 0x0D09 a wrapped = .ok x → x.role = 1 → kwUnwrap x.kenc wrapped = some m →
    ofLeBytes ((m.drop 32).take 2) = s.fget R.SEC_DOMAIN F.SEC_DOMAIN_ID →
    Serves (.domainKey fn a wrapped) fn 0x0D09 s fun t out => out = [] ∧ t.sec.kd = some (m.take 32) ∧
      t.sec.blob = some (kwWrap sealKey (m.take 32 ++ leBytes 2 (s.fget R.SEC_DOMAIN F.SEC_DOMAIN_ID) ++ List.replicate 6 0)) ∧
      t.flag R.SEC_STAT F.SEC_STAT_KDVALID = true) ∧
  (∀ (s : State) (fn : Fun) (a : SesAuth) (x : Session) (id : BitVec 16), s.Mail → s.secShut 10 = false →
    s.authOf fn 0x0D0A a (u8 [(2, id.toNat)]) = .ok x → x.role = 1 →
    (s.fget R.SEC_DOMAIN F.SEC_DOMAIN_ID = id.toNat → Serves (.domainId fn a id) fn 0x0D0A s fun t out => out = [] ∧ t = s.sessionUsed a x) ∧
    (s.fget R.SEC_DOMAIN F.SEC_DOMAIN_ID ≠ id.toNat → s.fget R.SEC_DOMAIN F.SEC_DOMAIN_REMAIN ≠ 0 →
      Serves (.domainId fn a id) fn 0x0D0A s fun t out => out = [] ∧ t.fget R.SEC_DOMAIN F.SEC_DOMAIN_ID = id.toNat ∧
        t.fget R.SEC_DOMAIN F.SEC_DOMAIN_REMAIN = s.fget R.SEC_DOMAIN F.SEC_DOMAIN_REMAIN - 1 ∧ t.sec.kd = none ∧ t.sec.blob = none ∧
        t.flag R.SEC_STAT F.SEC_STAT_KDVALID = false)) ∧
  (∀ (s : State) (fn : Fun) (a : SesAuth) (x : Session) (svn : Byte), s.Mail → s.secShut 11 = false →
    s.authOf fn 0x0D0B a (u8 [(1, svn.toNat)]) = .ok x → x.role = 1 → s.fget R.SEC_SVN F.SEC_SVN_SVN < svn.toNat →
    s.fget R.SEC_SVN F.SEC_SVN_REMAIN ≠ 0 → svn.toNat ≤ s.sec.fwSvn →
    Serves (.svnSet fn a svn) fn 0x0D0B s fun t out => out = [] ∧ t.fget R.SEC_SVN F.SEC_SVN_SVN = svn.toNat ∧
      t.fget R.SEC_SVN F.SEC_SVN_REMAIN = s.fget R.SEC_SVN F.SEC_SVN_REMAIN - 1) ∧
  (∀ (s : State) (fn : Fun) (auth : Option SesAuth) (key : List Byte), s.Mail → s.secShut 12 = false → key.length = 64 →
    (match auth with
     | none => fn.val = 0 ∧ s.life = 0
     | some a => ∃ x, s.authOf fn 0x0D0C a key = .ok x ∧ x.role = 1) →
    let slot := if s.ownerSet then s.fget R.SEC_OWNER F.SEC_OWNER_SLOT + 1 else 0
    s.fget R.SEC_OWNER F.SEC_OWNER_REMAIN ≠ 0 → slot ≤ 7 → s.life ≠ 0 ∨ s.fget R.SEC_LIFE F.SEC_LIFE_REMAIN ≠ 0 →
    Serves (.ownerRotate fn auth key) fn 0x0D0C s fun t out => out = [] ∧ t.ownerSet = true ∧
      t.fget R.SEC_OWNER F.SEC_OWNER_SLOT = slot ∧ t.ownerDigest = sm3 key ∧
      t.fget R.SEC_OWNER F.SEC_OWNER_REMAIN = s.fget R.SEC_OWNER F.SEC_OWNER_REMAIN - 1 ∧ t.life = (if s.life = 0 then 1 else s.life)) ∧
  (∀ (s : State) (fn : Fun) (a : SesAuth) (x : Session) (next : Fin 4), s.Mail → s.secShut 13 = false →
    s.authOf fn 0x0D0D a (u8 [(1, next.val)]) = .ok x → x.role = 1 → next.val = s.life + 1 → s.granted = false →
    s.fget R.SEC_LIFE F.SEC_LIFE_REMAIN ≠ 0 →
    (next.val ≠ 3 → Serves (.lifecycle fn a next) fn 0x0D0D s fun t out => out = [] ∧ t.life = next.val ∧
      t.fget R.SEC_LIFE F.SEC_LIFE_REMAIN = s.fget R.SEC_LIFE F.SEC_LIFE_REMAIN - 1) ∧
    (next.val = 3 → Completes (.lifecycle fn a next) s fun t => t.life = 3 ∧ t.fwif = 0 ∧ t.sec.kd = none ∧ t.sec.wkeys = [] ∧
      t.flag R.SEC_STAT F.SEC_STAT_ZEROISED = true)) ∧
  (∀ (s : State) (fn : Fun) (a : SesAuth) (x : Session) (d : Die) (map : List Byte), s.Mail → s.secShut 14 = false → repairBad d map = false →
    let v := ofLeBytes ((map.drop 5).take 1)
    s.authOf fn 0x0D0E a (u8 ((1, d.val) :: (4, map.length) :: map.map fun b => (1, b.toNat))) = .ok x → x.role = 1 → v ≤ 31 →
    s.fget (R.SEC_REPAIR d) F.SEC_REPAIR_VERSION < v → s.fget (R.SEC_REPAIR d) F.SEC_REPAIR_REMAIN ≠ 0 →
    Serves (.repairCommit fn a d map) fn 0x0D0E s fun t out => out = [] ∧ t.fget (R.SEC_REPAIR d) F.SEC_REPAIR_VERSION = v ∧
      spGet (fun _ => []) t.sec.repair d = map) ∧
  (∀ (s : State) (fn : Fun) (auth : Option SesAuth) (scope : BitVec 2), s.Mail → s.secShut 15 = false →
    (match auth with
     | none => fn.val = 0 ∧ s.life = 0
     | some a => ∃ x, s.authOf fn 0x0D0F a (u8 [(1, scope.toNat)]) = .ok x ∧ x.role = 1) →
    Serves (.debugGrant fn auth scope) fn 0x0D0F s fun t out => out = [] ∧ t.flag R.SEC_DEBUG F.SEC_DEBUG_INJECT = scope.getLsbD 0 ∧
      t.flag R.SEC_DEBUG F.SEC_DEBUG_TEST = scope.getLsbD 1 ∧
      (t.flag R.SEC_DEBUG F.SEC_DEBUG_EVER = true ↔ scope ≠ 0 ∨ s.flag R.SEC_DEBUG F.SEC_DEBUG_EVER = true) ∧
      (scope.getLsbD 0 = false → ∀ k < 36, t.fget (R.LNK_INJ k) F.LNK_INJ_MODE = 0)) ∧
  (∀ (s : State) (fn : Fun) (auth : Option SesAuth), s.Mail → s.secShut 16 = false →
    (match auth with
     | none => fn.val = 0
     | some a => ∃ x, s.authOf fn 0x0D10 a [] = .ok x ∧ x.role = 1) →
    Completes (.zeroise fn auth) s fun t => t.sec.kd = none ∧ t.sec.wkeys = [] ∧ t.sec.mrk = 0 ∧ t.sec.alive = false ∧ t.sec.blob = none ∧
      (∀ i, t.session i = none) ∧ t.fwif = 0 ∧ t.flag R.SEC_STAT F.SEC_STAT_ZEROISED = true ∧ t.fget R.RST_CAUSE F.RST_CAUSE_LAST = 4 ∧
      t.life = s.life ∧ t.mem.bursts = s.mem.bursts ∧ t.mem.host = s.mem.host) ∧
  (∀ (s : State) (fn : Fun) (clr : Bool), s.Mail → fn.val = 0 → s.secShut 17 = false →
    Serves (.secEvents fn clr) fn 0x0D11 s fun t out =>
      out = layFrom 4 ((4, s.sec.events.length) :: (s.sec.events.flatMap fun e => [(1, evtCode e.1), (8, e.2)]) ++ [(8, (s.rd R.SEC_EVT).toNat)]) ∧
      (clr = false → t = s) ∧ (clr = true → t.sec.events = [] ∧ t.fget R.SEC_EVT F.SEC_EVT_STALE = 0 ∧
        t.fget R.SEC_EVT F.SEC_EVT_AUTHFAIL = 0 ∧ t.fget R.SEC_EVT F.SEC_EVT_HELDKEY = 0 ∧
        t.fget R.SEC_EVT F.SEC_EVT_ZTHR = s.fget R.SEC_EVT F.SEC_EVT_ZTHR))

/-- A FULL reset empties the Loft, the tiles, engines, partitions and mailboxes, and keeps DRAM cells, host memory, fuses and the
queue; RST_CAUSE counts and names it but at a power-on, which clears it and the keep. POWER_ON_RESET with VAUX good samples the
straps and releases the part unless PKG_RESET_N is low. A pulse of PKG_RESET_N of 10 us, or a shorter one of 1 us that is
honoured, holds the part; its release latches the slot. The watchdog resets once MS have passed since its kick. A trip ends after
a second with every sensor at 105 or less. PERST and a reset of a physical function take VF Enable and bus mastering from the port
and reset its partitions' rings. A rail dip of 10 us ends in power-off, and of VAUX clears the tray's state. A lost clock holds
the part. A link's clock returns. A configuration request and a TAP instruction have their effect. -/
def Obligations.ResetSourcesComplete : Prop :=
  (∀ (s : State) (c : Nat), c < 8 →
    let t := s.fullReset c
    (t.loft, t.loftPsn, t.tiles, t.engs, t.serve, t.stw.mbox, t.rpt) = ([], [], [], [], [], [], []) ∧ t.mem.bursts = s.mem.bursts ∧
      t.mem.host = s.mem.host ∧ t.pending = s.pending ∧ t.fwif = 0 ∧ t.life = s.life ∧ t.ownerDigest = s.ownerDigest ∧
      t.fget R.SEC_SVN F.SEC_SVN_SVN = s.fget R.SEC_SVN F.SEC_SVN_SVN ∧ t.fget R.SEC_DOMAIN F.SEC_DOMAIN_ID = s.fget R.SEC_DOMAIN F.SEC_DOMAIN_ID ∧
      t.flag R.STW_LOC F.STW_LOC_TSVALID = s.rst.slotValid ∧ t.flag R.STW_LOC F.STW_LOC_LOCK = false ∧
      (c = 0 → t.rst.keep = [] ∧ t.fget R.RST_CAUSE F.RST_CAUSE_LAST = 0 ∧ t.fget R.RST_CAUSE F.RST_CAUSE_FULLCNT = 0) ∧
      (c ≠ 0 → t.rst.keep = s.rst.keep ++ s.keepEntries ∧ t.fget R.RST_CAUSE F.RST_CAUSE_LAST = c ∧
        t.fget R.RST_CAUSE F.RST_CAUSE_FULLCNT = min 255 (s.fget R.RST_CAUSE F.RST_CAUSE_FULLCNT + 1))) ∧
  (∀ (s : State) (two sris : Bool), s.rst.vaux = true → Completes (.powerOnReset two sris) s fun t =>
    t.rst.twoPorts = two ∧ t.rst.sris = sris ∧ t.rst.hold = (if s.rst.hold = .pin then .pin else .none_) ∧
      t.regs = (s.fullReset 0).regs ∧ t.mem = (s.fullReset 0).mem ∧ t.loft = []) ∧
  (∀ (s : State) (ns : Nat) (honoured : Bool), s.rst.hold = .none_ →
    (ns < 1000 → exec (.pkgResetN ns honoured) s = .next s) ∧
    (10000 ≤ ns ∨ (1000 ≤ ns ∧ honoured = true) → Completes (.pkgResetN ns honoured) s fun t => t.rst.hold = .pin ∧
      t.regs = (s.fullReset 1).regs ∧ t.loft = [] ∧ t.mem.bursts = s.mem.bursts)) ∧
  (∀ (s : State), s.rst.hold = .pin → s.rst.slot < 32 → Completes .pkgResetNRelease s fun t => t.rst.hold = .none_ ∧
    t.fget R.STW_LOC F.STW_LOC_TRAYSLOT = (if s.rst.slotValid then s.rst.slot else 0) ∧
    t.flag R.STW_LOC F.STW_LOC_TSVALID = s.rst.slotValid ∧ s.KeepsRegs t fun a => a = R.STW_LOC) ∧
  (∀ (s : State), s.Live → s.flag R.RST_WDOG F.RST_WDOG_EN = true → s.rst.kickAt + 1000 * s.fget R.RST_WDOG F.RST_WDOG_MS ≤ s.now →
    exec .watchdogExpiry s = .next (s.fullReset 2)) ∧
  (∀ (s : State) (ms : Nat) (temps : List Byte), s.rst.hold = .trip → 1000 ≤ ms → temps.length = 239 →
    (∀ t ∈ temps, toSigned8 t.toNat ≤ 105) → Completes (.thermalTripReset ms temps) s fun t => t.rst.hold = .none_ ∧ t.rst.tripLow = false ∧
      ∀ n < 239, t.temp n = toSigned8 (temps.getD n 0).toNat) ∧
  (∀ (s : State) (port : Fin 2), s.Live → port.val = 0 ∨ s.rst.twoPorts = true →
    ∀ i ∈ [Instr.perst port, .pfFlr port], Completes i s fun t =>
      spGet (fun _ => false) t.rst.vfEn port.val = false ∧ t.master 0 = false ∧
      ∀ p < 16, s.onPort port p = true → t.master (p + 1) = false ∧ ((s.part p).isSome = true → ∀ r < 6, t.ringOn p r = false)) ∧
  (∀ (s : State) (rail : Fin 8) (ns : Nat), (ns < 10000 → exec (.railDip rail ns) s = .next s) ∧
    (10000 ≤ ns → Completes (.railDip rail ns) s fun t => t.rst.hold = .unpowered ∧ t.regs = (s.fullReset 0).regs ∧ t.loft = [] ∧
      t.rst.vaux = (s.rst.vaux && decide (rail.val ≠ 7)) ∧ (rail.val = 7 → t.rst.slotValid = false ∧ t.rst.slotErr = false ∧ t.rst.capTray = 4000))) ∧
  (∀ (s : State) (ns : Nat), 10000 < ns → s.rst.hold ≠ .unpowered →
    Completes (.refclkLost ns) s fun t => t = { s with rst := { s.rst with hold := .refLost } }) ∧
  (∀ (s : State), s.rst.vaux = false → Completes .vauxGood s fun t => t.rst.vaux = true ∧ t.rst.slotValid = false ∧ t.regs = s.regs ∧
    t.rst.hold = s.rst.hold) ∧
  (∀ (s : State) (l : LDie), s.Live → Completes (.linkRefclkReturn l) s fun t =>
    (∀ i < 12, (t.link (12 * l.val + i)).refLost = false) ∧ t.regs = s.regs ∧
      ∀ k, k < 12 * l.val ∨ 12 * l.val + 12 ≤ k → t.link k = s.link k) ∧
  (∀ (s : State) (port : Fin 2), s.Live → port.val = 0 ∨ s.rst.twoPorts = true →
    exec (.configurationRequest port .other) s = .next s ∧
    (∀ on, Completes (.configurationRequest port (.vfEnable on)) s fun t => spGet (fun _ => false) t.rst.vfEn port.val = on ∧ t.regs = s.regs) ∧
    (∀ on, Completes (.configurationRequest port (.busMaster 0 on)) s fun t => t.master 0 = on ∧ t.regs = s.regs ∧
      ∀ fn, fn ≠ 0 → t.master fn = s.master fn) ∧
    (∀ (fn : Fun) on, fn.val ≠ 0 → s.onPort port (fn.val - 1) = true →
      Completes (.configurationRequest port (.busMaster fn on)) s fun t => t.master fn = on)) ∧
  (∀ (s : State),
    (s.rst.hold = .pin → ∀ x ∈ [(TapOp.idcode, 1), (.sample, 2), (.extest, 3)], Completes (.tapInstruction x.1) s fun t =>
      t.rst.tap = x.2 ∧ t.rst.tapBypass = false ∧ t.regs = s.regs) ∧
    (s.rst.hold ≠ .pin → ∀ op ∈ [TapOp.idcode, .sample, .extest], Completes (.tapInstruction op) s fun t => t.rst.tapBypass = true ∧ t.regs = s.regs) ∧
    (Completes (.tapInstruction .bypass) s fun t => t.rst.tap = 0 ∧ t.rst.tapBypass = true ∧ t.regs = s.regs) ∧
    ∀ c, Completes (.tapInstruction (.other c)) s fun t => t.rst.tapBypass = !s.flag R.SEC_DEBUG F.SEC_DEBUG_TEST ∧ t.regs = s.regs)

/-- BRING_UP on a part that has not started, with every test passed and images that pass their checks: with the id locked it runs
stages 1 to 8, so STAGE is 8, UP is 1 and FWIF is 1; without LOCK it waits before stage 6 with LINKWAIT and FWIF 1. A loader that
fails in every copy leaves BOOTERR and no firmware. A failed self-test leaves ERROR with its number, and FWIF 1. Once started,
BRING_UP does nothing more. BRINGUP_LINK_STAGE with LINKWAIT and LOCK completes bring-up. An image passes only with the right
magic, version, stage, an SVN not below the fuses', a digest that matches and a signature that verifies. -/
def Obligations.BringUpComplete : Prop :=
  (∀ (s : State) (b : BootIn), s.Live → s.fget R.RST_STAT F.RST_STAT_STAGE = 0 → s.fget R.SEC_STAT F.SEC_STAT_BOOTERR = 0 → s.fwif = 0 →
    (b.failTest = 1 ∨ b.failTest = 2 → Completes (.bringUp b) s fun t => t.secErr = true ∧ t.fget R.SEC_STAT F.SEC_STAT_FAILTEST = b.failTest ∧
      t.fwif = 1 ∧ t.fget R.RST_STAT F.RST_STAT_STAGE = 7) ∧
    (b.failTest = 0 → ∀ e, s.pickImage 1 b.loader 1 = (none, e) → e < 16 → Completes (.bringUp b) s fun t =>
      t.fget R.SEC_STAT F.SEC_STAT_BOOTERR = e ∧ t.fwif = 0 ∧ t.fget R.RST_STAT F.RST_STAT_STAGE = 0 ∧ t.loft = s.loft) ∧
    (b.failTest = 0 → Completes (.bringUp b) s fun t =>
      if (s.stage1 b).2 = true ∧ ((s.stage1 b).1.stage2 b).2 = true then
        t.fwif = 1 ∧
        (let u := (((((s.stage1 b).1.stage2 b).1).stage3 b).stage4 b).stage5 b
         if u.flag R.STW_LOC F.STW_LOC_LOCK = true then t.fget R.RST_STAT F.RST_STAT_STAGE = 8 ∧ t.flag R.RST_STAT F.RST_STAT_UP = true ∧
           t.flag R.RST_STAT F.RST_STAT_LINKWAIT = false
         else t.fget R.RST_STAT F.RST_STAT_STAGE = 7 ∧ t.flag R.RST_STAT F.RST_STAT_LINKWAIT = true)
      else t.fwif = 0 ∧ t.fget R.SEC_STAT F.SEC_STAT_BOOTERR ≠ 0 ∧ t.fget R.RST_STAT F.RST_STAT_STAGE ≤ 1)) ∧
  (∀ (s : State) (b : BootIn), s.Live →
    s.fget R.RST_STAT F.RST_STAT_STAGE ≠ 0 ∨ s.fget R.SEC_STAT F.SEC_STAT_BOOTERR ≠ 0 ∨ s.fwif ≠ 0 → exec (.bringUp b) s = .next s) ∧
  (∀ (s : State) (lanes : List Bool), s.Live → s.flag R.RST_STAT F.RST_STAT_LINKWAIT = true → s.flag R.STW_LOC F.STW_LOC_LOCK = true →
    Completes (.bringupLinkStage lanes) s fun t => t.fget R.RST_STAT F.RST_STAT_STAGE = 8 ∧ t.flag R.RST_STAT F.RST_STAT_UP = true ∧
      t.flag R.RST_STAT F.RST_STAT_LINKWAIT = false) ∧
  (∀ (s : State) (stage : Nat) (img : List Byte), img.length < 128 ∨ ofLeBytes (img.take 4) ≠ 0x544F4F42 ∨ ofLeBytes ((img.drop 4).take 2) ≠ 1 ∨
      (img.getD 6 0).toNat ≠ stage ∨ img.length < 128 + ofLeBytes ((img.drop 8).take 4) ∨
      (img.getD 7 0).toNat < s.fget R.SEC_SVN F.SEC_SVN_SVN ∨
      sm3 ((img.drop 128).take (ofLeBytes ((img.drop 8).take 4))) ≠ (img.drop 16).take 32 ∨
      sm2Verify Config.fwKey (img.take 48) ((img.drop 48).take 64) = false → s.imageErr stage img ≠ 0) ∧
  (∀ (s : State) (stage : Nat) (l : List (List Byte)) (img : List Byte) (e : Nat), img ∉ l ∨ s.imageErr stage img ≠ 0 →
    (s.pickImage stage l e).1 ≠ some img)

/-- A fault report of level 0 taken from its queue is logged and does no more; a SLICE fault is logged and its step aborts follow; any
other opens the epoch of its domain and is logged under its number. Logging writes the record at NEXT and advances NEXT and COUNT,
or LOST once the log is full. With no epoch open, a domain's epoch opens at step 1. A recovery that passes closes its epoch with
its dies back in service and their fences down; a package whose recovery fails is DEAD, its links held but the ones OFF. A step
abort is done here and told to the slice; the aborted step has a record, and its partition no longer runs. A NOTICE of an abort
does it here. RST_DIE resets fenced dies alone, keeps what training gave a memory die's channels, and from a virtual function is a
decode miss. PABORT clears the partition's arrivals on the die, CRST resets the clusters of its mask, FENCE and CLR write what
they name. -/
def Obligations.FaultsAndRecoveryComplete : Prop :=
  (∀ (s : State) (q : Fin 4) (rest : List Rpt) (cls cause level island die d1 d2 : Nat) (part : Option Nat), s.Live →
    s.evq (4 + q.val) = .fault cls cause level part island die d1 d2 :: rest →
    let u := s.setEvq (4 + q.val) rest
    let r (fl ep : Nat) : FRec := ⟨cls, cause, level, part, island, die, fl, d1, d2, ep⟩
    (level = 0 → exec (.faultReport q) s = .next (u.flogPut (r 0 0))) ∧
    (level = 5 → exec (.faultReport q) s = .next ((u.flogPut (r 0 0)).sliceFault part d2)) ∧
    (1 ≤ level → level ≤ 4 → ¬ (cls = 10 ∧ d2 = 3) → s.flag R.RST_STAT F.RST_STAT_DEAD = false →
      exec (.faultReport q) s = .next (let e := u.openEpoch 8 (domOf level island die) 0; e.1.flogPut (r e.2.1 e.2.2)))) ∧
  (∀ (s : State) (r : FRec),
    let n := s.fget R.STW_FLOGPTR F.STW_FLOGPTR_NEXT
    let t := s.flogPut r
    spGetN (fun _ => 0) t.stw.flog (32 * n) 32 = r.bytes s.now ∧ t.fget R.STW_FLOGPTR F.STW_FLOGPTR_NEXT = (n + 1) % 1024 ∧
      (s.fget R.STW_FLOGPTR F.STW_FLOGPTR_COUNT < 1024 →
        t.fget R.STW_FLOGPTR F.STW_FLOGPTR_COUNT = s.fget R.STW_FLOGPTR F.STW_FLOGPTR_COUNT + 1) ∧
      (s.fget R.STW_FLOGPTR F.STW_FLOGPTR_COUNT = 1024 →
        t.fget R.STW_FLOGPTR F.STW_FLOGPTR_LOST = min 1023 (s.fget R.STW_FLOGPTR F.STW_FLOGPTR_LOST + 1)) ∧
      s.KeepsRegs t fun a => a = R.STW_FLOGPTR) ∧
  (∀ (s : State) (d : Dom) (fl : Nat), (∀ k < 8, s.epochOpen k = false) → 1 ≤ d.level → d.level ≤ 4 → d.die < 256 → d.unit < 64 →
    let e := s.openEpoch 8 d fl
    e.2.1 = fl ∧ e.1.epochOpen 0 = true ∧ e.1.epochDom 0 = d ∧ e.1.fget (R.RST_EPOCH 0) F.RST_EPOCH_STEP = 1 ∧
      e.1.fget (R.RST_EPOCH 0) F.RST_EPOCH_RESTARTS = 0 ∧ s.KeepsRegs e.1 fun a => a = R.RST_EPOCH 0) ∧
  (∀ (s : State) (k : Fin 8), s.Live → s.epochOpen k = true → (s.epochDom k).die < 31 ∨ (s.epochDom k).level = 4 →
    (Completes (.recoveryEpoch k true) s fun t => t.epochOpen k = false ∧
      ∀ x ∈ (s.epochDom k).dies, t.flag (R.DIE_CTL x) F.DIE_CTL_FENCE = false ∧ t.flag (R.DIE_STAT x) F.DIE_STAT_INSERVICE = true) ∧
    (Completes (.recoveryEpoch k false) s fun t => t.epochOpen k = false ∧
      ((s.epochDom k).level = 4 → t.flag R.RST_STAT F.RST_STAT_DEAD = true) ∧
      ((s.epochDom k).level = 3 → t.flag (R.DIE_STAT (s.epochDom k).die) F.DIE_STAT_INSERVICE = false))) ∧
  (∀ (s : State) (p : Part), s.Live → s.Exists p →
    exec (.stepAbort p) s = .next ((s.abortHere p 14).noticeAll 4 s.pkgOwn p)) ∧
  (∀ (s : State) (p : Part) (cause : Nat) (x : PartSt), s.part p = some x → x.running = true →
    let t := s.gleanStep p cause
    t.fget (R.PT_STEP p) F.PT_STEP_STEP = (s.fget (R.PT_STEP p) F.PT_STEP_STEP + 1) % 2 ^ 64 ∧
      ((t.part p).map fun y => (y.running, y.stepSwap, y.stepItem)) = some (false, x.stepSwap, none) ∧ (s.ptState p = 1 → t.ptState p = 0) ∧
      ∀ y, t.part p = some y → y.seqs.length = x.seqs.length) ∧
  (∀ (s : State) (k : Link) (f : Flit), s.Live → s.Front k 0 14 f → f.aux = 4 →
    let u := (f.units.getD 0 0).toNat
    bitsOf u 31 16 < 16 →
    exec (.noticeStepAbort k) s = .next ((s.rxPop k 0).abortHere (bitsOf u 31 16) (if bitsOf u 11 0 = f.src then 14 else 11))) ∧
  (∀ (s : State) (fn : Fun) (dies : BitVec 31), s.Live →
    (fn.val = 0 → exec (.rstDieWrite fn dies) s = .next (((List.range 31).filter fun d => dies.toNat.testBit d).foldl State.rstDie s)) ∧
    (fn.val ≠ 0 → exec (.rstDieWrite fn dies) s = .next (s.decodeMiss fn R.RST_DIE))) ∧
  (∀ (s : State) (d : Nat), d < 31 →
    (s.flag (R.DIE_CTL d) F.DIE_CTL_FENCE = false → s.rstDie d = s) ∧
    (s.flag (R.DIE_CTL d) F.DIE_CTL_FENCE = true → (s.rstDie d).flag (R.DIE_CTL d) F.DIE_CTL_FENCE = true ∧
      ∀ g ∈ Dom.tiles ⟨3, d, 0⟩, (s.rstDie d).fget (R.TIL_CTL g) F.TIL_CTL_RUN = 0)) ∧
  (∀ (s : State) (m n : Nat), m < 4 → n < 24 → (s.rstDie (24 + m)).fget (R.CH_STAT (24 * m + n)) F.CH_STAT_STATE =
    s.fget (R.CH_STAT (24 * m + n)) F.CH_STAT_STATE) ∧
  (∀ (s : State) (k : Nat), k < 36 → s.setDead.linkState k = (if s.linkState k = 0 then 0 else 3)) ∧
  (∀ (s : State) (d : Die) (p : Part), s.Live →
    exec (.dieCtlPabort d p) s = .next ((s.fset (R.DIE_CTL d) F.DIE_CTL_PART p).pabort d p)) ∧
  (∀ (s : State) (d : CDie) (p ch : Nat), p < 16 → ch < 64 → s.fget (R.SYN_DIE d ch) F.SYN_DIE_PART = p →
    (s.pabort d p).fget (R.SYN_DIE d ch) F.SYN_DIE_ARRIVED = 0 ∧ (s.pabort d p).flag (R.SYN_DIE d ch) F.SYN_DIE_UP = false) ∧
  (∀ (s : State) (d : CDie) (mask : BitVec 8), s.Live →
    exec (.dieCtlCrst d mask) s = .next (((List.range 8).filter fun c => mask.toNat.testBit c).foldl
      (fun s c => (clusterTiles d c).foldl (fun s g => ((s.resetTile g).allBanks g 0).marchRun g false) s) s)) ∧
  (∀ (s : State) (d : Die) (on : Bool), s.Live → Completes (.dieCtlFence d on) s fun t =>
    t.flag (R.DIE_CTL d) F.DIE_CTL_FENCE = on ∧ s.OnlyRegs t fun a => a = R.DIE_CTL d) ∧
  (∀ (s : State), s.Live → Completes .stwFlogptrClr s fun t => t.fget R.STW_FLOGPTR F.STW_FLOGPTR_NEXT = 0 ∧
    t.fget R.STW_FLOGPTR F.STW_FLOGPTR_COUNT = 0 ∧ t.fget R.STW_FLOGPTR F.STW_FLOGPTR_LOST = 0 ∧ s.OnlyRegs t fun a => a = R.STW_FLOGPTR)

/-- BNK_MARCH.GO on a stopped tile whose function may test it begins a test with the mode; elsewhere it does nothing. A test that ends
is DONE and not BUSY, shows the number of failing lines, makes the tile FAULTY where an uncovered line failed, and leaves a
destructively tested Loft zero and a preserved one as it was but for poison in the failing lines. RESET_STATUS and FAULT_LOG
answer and change nothing without CLR; with CLR the log is empty. DIE_RECOVER opens the die's epoch. LOFT_MARCH tests every tile
of its set and answers one result for each, up to 2,000. WATCHDOG_SET writes MS and EN and reports the register, and a kick
restarts the time. LEDGER_KEEP answers the partition's records and with CLR releases exactly those. -/
def Obligations.TestAndStatusCommandsComplete : Prop :=
  (∀ (s : State) (fn : Fun) (g : Tile) (preserving : Bool), s.Live →
    (s.mayMarch fn g = true → Completes (.bnkMarchGo fn g preserving) s fun t => t.flag (R.BNK_MARCH g) F.BNK_MARCH_BUSY = true ∧
      t.flag (R.BNK_MARCH g) F.BNK_MARCH_MODE = preserving ∧ (t.tile g).march = ⟨true, preserving⟩ ∧ t.loft = s.loft ∧
      s.KeepsRegs t fun a => a = R.BNK_MARCH g) ∧
    (s.mayMarch fn g = false → exec (.bnkMarchGo fn g preserving) s = .next s)) ∧
  (∀ (s : State) (g : Tile) (fails : List (Nat × Nat)), s.Live → (s.tile g).march.running = true →
    (∀ x ∈ fails, x.1 < 32 ∧ x.2 < 2064) → fails.length < 65536 →
    Completes (.marchComplete g fails) s fun t => t.flag (R.BNK_MARCH g) F.BNK_MARCH_BUSY = false ∧
      t.flag (R.BNK_MARCH g) F.BNK_MARCH_DONE = true ∧ (t.tile g).march.running = false ∧
      t.fget (R.BNK_MRES g) F.BNK_MRES_FAILS = fails.length ∧
      (t.flag (R.BNK_MARCH g) F.BNK_MARCH_FAULTY = true ↔ ∃ x ∈ fails, x ∉ s.repaired g) ∧
      ((s.tile g).march.preserving = true → t.loft = s.loft) ∧
      ((s.tile g).march.preserving = false → ∀ k, g.val * 2 ^ 22 ≤ k → k < (g.val + 1) * 2 ^ 22 → spGet loftDflt t.loft k = loftDflt k)) ∧
  (∀ (s : State) (fn : Fun), s.Mail →
    Answers (.resetStatus fn) fn 0x0E00 s fun t out => t = s ∧
      out = lay ([(4, (s.rd R.RST_CAUSE).toNat), (4, s.rstStat)] ++ layList ((List.range 8).map fun i => (8, s.rst.times.getD i 0)))) ∧
  (∀ (s : State) (fn : Fun) (count : Nat) (clr : Bool), s.Mail → count ≤ 65535 → fn.val = 0 ∨ clr = false →
    Answers (.faultLog fn count clr) fn 0x0E01 s fun t out =>
      (let mine := s.flogEntries.filter fun e => decide (fn.val = 0) || decide ((e.getD 11 0).toNat = fn.val - 1 + 128)
       let l := mine.take (min count 511)
       out = leBytes 4 l.length ++ l.flatten) ∧
      (clr = false → t = s) ∧ (clr = true → t.fget R.STW_FLOGPTR F.STW_FLOGPTR_COUNT = 0 ∧ s.OnlyRegs t fun a => a = R.STW_FLOGPTR)) ∧
  (∀ (s : State) (fn : Fun) (d : Die), s.Mail → fn.val = 0 → d.val < 31 →
    Answers (.dieRecover fn d) fn 0x0E02 s fun t out => out = [] ∧ t = (s.openEpoch 8 ⟨3, d, 0⟩ 0).1) ∧
  (∀ (s : State) (fn : Fun) (p : Part) (ts : TileSet) (preserving : Bool), s.Mail → s.TilesOk fn p ts →
    (∀ g ∈ s.tilesIn p ts, s.mayMarch fn g = true) →
    Answers (.loftMarch fn p ts preserving) fn 0x0E03 s fun t out =>
      t = s.each (s.tilesIn p ts) (fun s g => s.marchRun g preserving) ∧
      out = lay (layList (((s.tilesIn p ts).take 2000).map fun g => (8, (t.rd (R.BNK_MRES g)).toNat)) ++ [(4, (s.tilesIn p ts).length - 2000)])) ∧
  (∀ (s : State) (fn : Fun) (ms : Nat) (on : Bool), s.Mail → fn.val = 0 → 100 ≤ ms → ms ≤ 60000 →
    Answers (.watchdogSet fn ms on) fn 0x0E04 s fun t out => out = t.toldBytes [R.RST_WDOG] ∧ t.fget R.RST_WDOG F.RST_WDOG_MS = ms ∧
      t.flag R.RST_WDOG F.RST_WDOG_EN = on ∧ s.OnlyRegs t fun a => a = R.RST_WDOG) ∧
  (∀ (s : State), s.Live → Completes .rstWdogKick s fun t => t.rst.kickAt = s.now ∧ t.regs = s.regs) ∧
  (∀ (s : State) (fn : Fun) (p : Part) (clr : Bool), s.Mail → fn.val = 0 →
    Answers (.ledgerKeep fn p clr) fn 0x0E05 s fun t out =>
      let l := (s.rst.keepRecs.filter fun e => decide (e.2.2.1 = p.val)).take 511
      out = leBytes 4 l.length ++ (l.flatMap fun e => LedRec.bytes ⟨p, e.1, e.2.1, true, 15, 0, e.2.2.2⟩) ∧ (clr = false → t = s) ∧
      (clr = true → t.regs = s.regs ∧ ∀ e, e ∈ t.rst.keepRecs ↔ e ∈ s.rst.keepRecs ∧ e ∉ l))

/-- With VAUX good, each read places its block in the port's output and changes nothing else: the identity, the slot with its valid
bit, the cap pending in reset or in force, PWR_STAT, the sensors and the newest overrun, which read zero in reset, the boot
registers and the events. A slot written with a good PEC in reset waits for the release; out of reset the first one is taken at
once and shown in STW_LOC, and a second sets the error bit. A cap written in reset waits; out of reset it applies as a tray's cap.
A bad PEC changes nothing. Without VAUX the port does nothing. -/
def Obligations.ManagementPortComplete : Prop :=
  (∀ (s : State), s.rst.vaux = true →
    (Completes .mpId s fun t => t = { s with rst := { s.rst with mpOut := leBytes 2 0x320 ++ leBytes 1 (s.fget R.STW_IDENT F.STW_IDENT_STEPPING) ++ [1] } }) ∧
    (Completes .mpSlotRead s fun t => t = { s with rst := { s.rst with mpOut := leBytes 1 (s.rst.slot + 128 * bit s.rst.slotValid) } }) ∧
    (Completes (.mpCap none true) s fun t => t = { s with rst := { s.rst with mpOut :=
      (if s.inReset then leBytes 2 s.rst.capTray ++ leBytes 2 s.rst.rateTray
       else leBytes 2 (s.fget R.PWR_CAP F.PWR_CAP_TRAY) ++ leBytes 2 (s.fget R.PWR_CAP F.PWR_CAP_TRATE)) } }) ∧
    (Completes .mpPower s fun t => t = { s with rst := { s.rst with mpOut := if s.inReset then List.replicate 8 0 else leBytes 8 s.pwrStat } }) ∧
    (Completes .mpTemp s fun t => t = { s with rst := { s.rst with mpOut := (if s.inReset then List.replicate 239 0
      else (List.range 239).map fun n => BitVec.ofNat 8 (s.fget (R.PWR_TS n) F.PWR_TS_TEMP)) } }) ∧
    (Completes .mpOvr s fun t => t.rst.mpOut.length = 36 ∧ (s.inReset = true → t.rst.mpOut = List.replicate 36 0) ∧
      (s.inReset = false → t.rst.mpOut.take 4 = leBytes 4 (s.rd R.PWR_OVRPTR).toNat) ∧ t.regs = s.regs ∧ t.stw = s.stw) ∧
    (Completes .mpBoot s fun t => t = { s with rst := { s.rst with mpOut := (leBytes 4 s.rstStat ++ leBytes 4 (s.rd R.RST_CAUSE).toNat ++
      leBytes 1 (s.fget R.SEC_STAT F.SEC_STAT_BOOTERR) ++ leBytes 1 s.life) } }) ∧
    (Completes .mpEvent s fun t => t = { s with rst := { s.rst with mpOut := (leBytes 2 (bit (s.rst.hold = .refLost) + 2 * bit s.rst.tripLow +
      4 * bit (s.flag R.RST_STAT F.RST_STAT_DEAD) + 8 * bit s.rst.slotErr)) } })) ∧
  (∀ (s : State) (slot : BitVec 5), s.rst.vaux = true →
    (s.inReset = true → Completes (.mpSlotWrite slot true) s fun t => t.rst.slot = slot.toNat ∧ t.rst.slotValid = true ∧ t.regs = s.regs) ∧
    (s.inReset = false → s.rst.slotValid = false → Completes (.mpSlotWrite slot true) s fun t => t.rst.slotValid = true ∧
      t.fget R.STW_LOC F.STW_LOC_TRAYSLOT = slot.toNat ∧ t.flag R.STW_LOC F.STW_LOC_TSVALID = true ∧ s.KeepsRegs t fun a => a = R.STW_LOC) ∧
    (s.inReset = false → s.rst.slotValid = true → Completes (.mpSlotWrite slot true) s fun t => t.rst.slotErr = true ∧ t.rst.slot = s.rst.slot ∧
      t.regs = s.regs) ∧
    exec (.mpSlotWrite slot false) s = .next s) ∧
  (∀ (s : State) (w r : BitVec 16), s.rst.vaux = true →
    (s.inReset = true → Completes (.mpCap (some (w, r)) true) s fun t => t.rst.capTray = w.toNat ∧ t.rst.rateTray = r.toNat % 4096 ∧ t.regs = s.regs) ∧
    (s.inReset = false → exec (.mpCap (some (w, r)) true) s = .next (s.capWrite true w.toNat r.toNat)) ∧
    exec (.mpCap (some (w, r)) false) s = .next s) ∧
  (∀ (s : State) (slot : BitVec 5) (w r : BitVec 16) (pec : Bool), s.rst.vaux = false →
    ∀ i ∈ [Instr.mpId, .mpSlotRead, .mpSlotWrite slot pec, .mpCap none pec, .mpCap (some (w, r)) pec, .mpPower, .mpTemp, .mpOvr, .mpBoot, .mpEvent],
      exec i s = .next s)
end

