-- ==== Sys2Proof/Laws/State.lean ====
section
/-! SUPPORT. What each named update leaves alone: one lemma for each field of the state that it does not write. -/

namespace Sys2Proof.Machine

@[simp] theorem State.wr_staging (s : State) (a : Nat) (v : Word64) : (s.wr a v).staging = s.staging := by cases s; simp only [State.wr]
@[simp] theorem State.wr_loft (s : State) (a : Nat) (v : Word64) : (s.wr a v).loft = s.loft := by cases s; simp only [State.wr]
@[simp] theorem State.wr_loftPsn (s : State) (a : Nat) (v : Word64) : (s.wr a v).loftPsn = s.loftPsn := by cases s; simp only [State.wr]
@[simp] theorem State.wr_tiles (s : State) (a : Nat) (v : Word64) : (s.wr a v).tiles = s.tiles := by cases s; simp only [State.wr]
@[simp] theorem State.wr_engs (s : State) (a : Nat) (v : Word64) : (s.wr a v).engs = s.engs := by cases s; simp only [State.wr]
@[simp] theorem State.wr_captures (s : State) (a : Nat) (v : Word64) : (s.wr a v).captures = s.captures := by cases s; simp only [State.wr]
@[simp] theorem State.wr_net (s : State) (a : Nat) (v : Word64) : (s.wr a v).net = s.net := by cases s; simp only [State.wr]
@[simp] theorem State.wr_gws (s : State) (a : Nat) (v : Word64) : (s.wr a v).gws = s.gws := by cases s; simp only [State.wr]
@[simp] theorem State.wr_rpt (s : State) (a : Nat) (v : Word64) : (s.wr a v).rpt = s.rpt := by cases s; simp only [State.wr]
@[simp] theorem State.wr_mem (s : State) (a : Nat) (v : Word64) : (s.wr a v).mem = s.mem := by cases s; simp only [State.wr]
@[simp] theorem State.wr_fab (s : State) (a : Nat) (v : Word64) : (s.wr a v).fab = s.fab := by cases s; simp only [State.wr]
@[simp] theorem State.wr_moe (s : State) (a : Nat) (v : Word64) : (s.wr a v).moe = s.moe := by cases s; simp only [State.wr]
@[simp] theorem State.wr_serve (s : State) (a : Nat) (v : Word64) : (s.wr a v).serve = s.serve := by cases s; simp only [State.wr]
@[simp] theorem State.wr_sec (s : State) (a : Nat) (v : Word64) : (s.wr a v).sec = s.sec := by cases s; simp only [State.wr]
@[simp] theorem State.wr_stw (s : State) (a : Nat) (v : Word64) : (s.wr a v).stw = s.stw := by cases s; simp only [State.wr]
@[simp] theorem State.wr_pwr (s : State) (a : Nat) (v : Word64) : (s.wr a v).pwr = s.pwr := by cases s; simp only [State.wr]
@[simp] theorem State.wr_rst (s : State) (a : Nat) (v : Word64) : (s.wr a v).rst = s.rst := by cases s; simp only [State.wr]
@[simp] theorem State.wr_freeCtr (s : State) (a : Nat) (v : Word64) : (s.wr a v).freeCtr = s.freeCtr := by cases s; simp only [State.wr]
@[simp] theorem State.wr_pending (s : State) (a : Nat) (v : Word64) : (s.wr a v).pending = s.pending := by cases s; simp only [State.wr]

@[simp] theorem State.clearRegs_staging (s : State) (a n : Nat) : (s.clearRegs a n).staging = s.staging := by cases s; simp only [State.clearRegs]
@[simp] theorem State.clearRegs_loft (s : State) (a n : Nat) : (s.clearRegs a n).loft = s.loft := by cases s; simp only [State.clearRegs]
@[simp] theorem State.clearRegs_loftPsn (s : State) (a n : Nat) : (s.clearRegs a n).loftPsn = s.loftPsn := by cases s; simp only [State.clearRegs]
@[simp] theorem State.clearRegs_tiles (s : State) (a n : Nat) : (s.clearRegs a n).tiles = s.tiles := by cases s; simp only [State.clearRegs]
@[simp] theorem State.clearRegs_engs (s : State) (a n : Nat) : (s.clearRegs a n).engs = s.engs := by cases s; simp only [State.clearRegs]
@[simp] theorem State.clearRegs_captures (s : State) (a n : Nat) : (s.clearRegs a n).captures = s.captures := by cases s; simp only [State.clearRegs]
@[simp] theorem State.clearRegs_net (s : State) (a n : Nat) : (s.clearRegs a n).net = s.net := by cases s; simp only [State.clearRegs]
@[simp] theorem State.clearRegs_gws (s : State) (a n : Nat) : (s.clearRegs a n).gws = s.gws := by cases s; simp only [State.clearRegs]
@[simp] theorem State.clearRegs_rpt (s : State) (a n : Nat) : (s.clearRegs a n).rpt = s.rpt := by cases s; simp only [State.clearRegs]
@[simp] theorem State.clearRegs_mem (s : State) (a n : Nat) : (s.clearRegs a n).mem = s.mem := by cases s; simp only [State.clearRegs]
@[simp] theorem State.clearRegs_fab (s : State) (a n : Nat) : (s.clearRegs a n).fab = s.fab := by cases s; simp only [State.clearRegs]
@[simp] theorem State.clearRegs_moe (s : State) (a n : Nat) : (s.clearRegs a n).moe = s.moe := by cases s; simp only [State.clearRegs]
@[simp] theorem State.clearRegs_serve (s : State) (a n : Nat) : (s.clearRegs a n).serve = s.serve := by cases s; simp only [State.clearRegs]
@[simp] theorem State.clearRegs_sec (s : State) (a n : Nat) : (s.clearRegs a n).sec = s.sec := by cases s; simp only [State.clearRegs]
@[simp] theorem State.clearRegs_stw (s : State) (a n : Nat) : (s.clearRegs a n).stw = s.stw := by cases s; simp only [State.clearRegs]
@[simp] theorem State.clearRegs_pwr (s : State) (a n : Nat) : (s.clearRegs a n).pwr = s.pwr := by cases s; simp only [State.clearRegs]
@[simp] theorem State.clearRegs_rst (s : State) (a n : Nat) : (s.clearRegs a n).rst = s.rst := by cases s; simp only [State.clearRegs]
@[simp] theorem State.clearRegs_freeCtr (s : State) (a n : Nat) : (s.clearRegs a n).freeCtr = s.freeCtr := by cases s; simp only [State.clearRegs]
@[simp] theorem State.clearRegs_pending (s : State) (a n : Nat) : (s.clearRegs a n).pending = s.pending := by cases s; simp only [State.clearRegs]

@[simp] theorem State.fset_staging (s : State) (a : Nat) (f : Fld) (n : Nat) : (s.fset a f n).staging = s.staging := by simp only [State.fset, State.wr_staging]
@[simp] theorem State.fset_loft (s : State) (a : Nat) (f : Fld) (n : Nat) : (s.fset a f n).loft = s.loft := by simp only [State.fset, State.wr_loft]
@[simp] theorem State.fset_loftPsn (s : State) (a : Nat) (f : Fld) (n : Nat) : (s.fset a f n).loftPsn = s.loftPsn := by simp only [State.fset, State.wr_loftPsn]
@[simp] theorem State.fset_tiles (s : State) (a : Nat) (f : Fld) (n : Nat) : (s.fset a f n).tiles = s.tiles := by simp only [State.fset, State.wr_tiles]
@[simp] theorem State.fset_engs (s : State) (a : Nat) (f : Fld) (n : Nat) : (s.fset a f n).engs = s.engs := by simp only [State.fset, State.wr_engs]
@[simp] theorem State.fset_captures (s : State) (a : Nat) (f : Fld) (n : Nat) : (s.fset a f n).captures = s.captures := by simp only [State.fset, State.wr_captures]
@[simp] theorem State.fset_net (s : State) (a : Nat) (f : Fld) (n : Nat) : (s.fset a f n).net = s.net := by simp only [State.fset, State.wr_net]
@[simp] theorem State.fset_gws (s : State) (a : Nat) (f : Fld) (n : Nat) : (s.fset a f n).gws = s.gws := by simp only [State.fset, State.wr_gws]
@[simp] theorem State.fset_rpt (s : State) (a : Nat) (f : Fld) (n : Nat) : (s.fset a f n).rpt = s.rpt := by simp only [State.fset, State.wr_rpt]
@[simp] theorem State.fset_mem (s : State) (a : Nat) (f : Fld) (n : Nat) : (s.fset a f n).mem = s.mem := by simp only [State.fset, State.wr_mem]
@[simp] theorem State.fset_fab (s : State) (a : Nat) (f : Fld) (n : Nat) : (s.fset a f n).fab = s.fab := by simp only [State.fset, State.wr_fab]
@[simp] theorem State.fset_moe (s : State) (a : Nat) (f : Fld) (n : Nat) : (s.fset a f n).moe = s.moe := by simp only [State.fset, State.wr_moe]
@[simp] theorem State.fset_serve (s : State) (a : Nat) (f : Fld) (n : Nat) : (s.fset a f n).serve = s.serve := by simp only [State.fset, State.wr_serve]
@[simp] theorem State.fset_sec (s : State) (a : Nat) (f : Fld) (n : Nat) : (s.fset a f n).sec = s.sec := by simp only [State.fset, State.wr_sec]
@[simp] theorem State.fset_stw (s : State) (a : Nat) (f : Fld) (n : Nat) : (s.fset a f n).stw = s.stw := by simp only [State.fset, State.wr_stw]
@[simp] theorem State.fset_pwr (s : State) (a : Nat) (f : Fld) (n : Nat) : (s.fset a f n).pwr = s.pwr := by simp only [State.fset, State.wr_pwr]
@[simp] theorem State.fset_rst (s : State) (a : Nat) (f : Fld) (n : Nat) : (s.fset a f n).rst = s.rst := by simp only [State.fset, State.wr_rst]
@[simp] theorem State.fset_freeCtr (s : State) (a : Nat) (f : Fld) (n : Nat) : (s.fset a f n).freeCtr = s.freeCtr := by simp only [State.fset, State.wr_freeCtr]
@[simp] theorem State.fset_pending (s : State) (a : Nat) (f : Fld) (n : Nat) : (s.fset a f n).pending = s.pending := by simp only [State.fset, State.wr_pending]

@[simp] theorem State.fadd_staging (s : State) (a : Nat) (f : Fld) (n : Nat) : (s.fadd a f n).staging = s.staging := by simp only [State.fadd, State.fset_staging]
@[simp] theorem State.fadd_loft (s : State) (a : Nat) (f : Fld) (n : Nat) : (s.fadd a f n).loft = s.loft := by simp only [State.fadd, State.fset_loft]
@[simp] theorem State.fadd_loftPsn (s : State) (a : Nat) (f : Fld) (n : Nat) : (s.fadd a f n).loftPsn = s.loftPsn := by simp only [State.fadd, State.fset_loftPsn]
@[simp] theorem State.fadd_tiles (s : State) (a : Nat) (f : Fld) (n : Nat) : (s.fadd a f n).tiles = s.tiles := by simp only [State.fadd, State.fset_tiles]
@[simp] theorem State.fadd_engs (s : State) (a : Nat) (f : Fld) (n : Nat) : (s.fadd a f n).engs = s.engs := by simp only [State.fadd, State.fset_engs]
@[simp] theorem State.fadd_captures (s : State) (a : Nat) (f : Fld) (n : Nat) : (s.fadd a f n).captures = s.captures := by simp only [State.fadd, State.fset_captures]
@[simp] theorem State.fadd_net (s : State) (a : Nat) (f : Fld) (n : Nat) : (s.fadd a f n).net = s.net := by simp only [State.fadd, State.fset_net]
@[simp] theorem State.fadd_gws (s : State) (a : Nat) (f : Fld) (n : Nat) : (s.fadd a f n).gws = s.gws := by simp only [State.fadd, State.fset_gws]
@[simp] theorem State.fadd_rpt (s : State) (a : Nat) (f : Fld) (n : Nat) : (s.fadd a f n).rpt = s.rpt := by simp only [State.fadd, State.fset_rpt]
@[simp] theorem State.fadd_mem (s : State) (a : Nat) (f : Fld) (n : Nat) : (s.fadd a f n).mem = s.mem := by simp only [State.fadd, State.fset_mem]
@[simp] theorem State.fadd_fab (s : State) (a : Nat) (f : Fld) (n : Nat) : (s.fadd a f n).fab = s.fab := by simp only [State.fadd, State.fset_fab]
@[simp] theorem State.fadd_moe (s : State) (a : Nat) (f : Fld) (n : Nat) : (s.fadd a f n).moe = s.moe := by simp only [State.fadd, State.fset_moe]
@[simp] theorem State.fadd_serve (s : State) (a : Nat) (f : Fld) (n : Nat) : (s.fadd a f n).serve = s.serve := by simp only [State.fadd, State.fset_serve]
@[simp] theorem State.fadd_sec (s : State) (a : Nat) (f : Fld) (n : Nat) : (s.fadd a f n).sec = s.sec := by simp only [State.fadd, State.fset_sec]
@[simp] theorem State.fadd_stw (s : State) (a : Nat) (f : Fld) (n : Nat) : (s.fadd a f n).stw = s.stw := by simp only [State.fadd, State.fset_stw]
@[simp] theorem State.fadd_pwr (s : State) (a : Nat) (f : Fld) (n : Nat) : (s.fadd a f n).pwr = s.pwr := by simp only [State.fadd, State.fset_pwr]
@[simp] theorem State.fadd_rst (s : State) (a : Nat) (f : Fld) (n : Nat) : (s.fadd a f n).rst = s.rst := by simp only [State.fadd, State.fset_rst]
@[simp] theorem State.fadd_freeCtr (s : State) (a : Nat) (f : Fld) (n : Nat) : (s.fadd a f n).freeCtr = s.freeCtr := by simp only [State.fadd, State.fset_freeCtr]
@[simp] theorem State.fadd_pending (s : State) (a : Nat) (f : Fld) (n : Nat) : (s.fadd a f n).pending = s.pending := by simp only [State.fadd, State.fset_pending]

@[simp] theorem State.setTile_regs (s : State) (g : Nat) (t : TileSt) : (s.setTile g t).regs = s.regs := by cases s; simp only [State.setTile]
@[simp] theorem State.setTile_staging (s : State) (g : Nat) (t : TileSt) : (s.setTile g t).staging = s.staging := by cases s; simp only [State.setTile]
@[simp] theorem State.setTile_loft (s : State) (g : Nat) (t : TileSt) : (s.setTile g t).loft = s.loft := by cases s; simp only [State.setTile]
@[simp] theorem State.setTile_loftPsn (s : State) (g : Nat) (t : TileSt) : (s.setTile g t).loftPsn = s.loftPsn := by cases s; simp only [State.setTile]
@[simp] theorem State.setTile_engs (s : State) (g : Nat) (t : TileSt) : (s.setTile g t).engs = s.engs := by cases s; simp only [State.setTile]
@[simp] theorem State.setTile_captures (s : State) (g : Nat) (t : TileSt) : (s.setTile g t).captures = s.captures := by cases s; simp only [State.setTile]
@[simp] theorem State.setTile_net (s : State) (g : Nat) (t : TileSt) : (s.setTile g t).net = s.net := by cases s; simp only [State.setTile]
@[simp] theorem State.setTile_gws (s : State) (g : Nat) (t : TileSt) : (s.setTile g t).gws = s.gws := by cases s; simp only [State.setTile]
@[simp] theorem State.setTile_rpt (s : State) (g : Nat) (t : TileSt) : (s.setTile g t).rpt = s.rpt := by cases s; simp only [State.setTile]
@[simp] theorem State.setTile_mem (s : State) (g : Nat) (t : TileSt) : (s.setTile g t).mem = s.mem := by cases s; simp only [State.setTile]
@[simp] theorem State.setTile_fab (s : State) (g : Nat) (t : TileSt) : (s.setTile g t).fab = s.fab := by cases s; simp only [State.setTile]
@[simp] theorem State.setTile_moe (s : State) (g : Nat) (t : TileSt) : (s.setTile g t).moe = s.moe := by cases s; simp only [State.setTile]
@[simp] theorem State.setTile_serve (s : State) (g : Nat) (t : TileSt) : (s.setTile g t).serve = s.serve := by cases s; simp only [State.setTile]
@[simp] theorem State.setTile_sec (s : State) (g : Nat) (t : TileSt) : (s.setTile g t).sec = s.sec := by cases s; simp only [State.setTile]
@[simp] theorem State.setTile_stw (s : State) (g : Nat) (t : TileSt) : (s.setTile g t).stw = s.stw := by cases s; simp only [State.setTile]
@[simp] theorem State.setTile_pwr (s : State) (g : Nat) (t : TileSt) : (s.setTile g t).pwr = s.pwr := by cases s; simp only [State.setTile]
@[simp] theorem State.setTile_rst (s : State) (g : Nat) (t : TileSt) : (s.setTile g t).rst = s.rst := by cases s; simp only [State.setTile]
@[simp] theorem State.setTile_freeCtr (s : State) (g : Nat) (t : TileSt) : (s.setTile g t).freeCtr = s.freeCtr := by cases s; simp only [State.setTile]
@[simp] theorem State.setTile_pending (s : State) (g : Nat) (t : TileSt) : (s.setTile g t).pending = s.pending := by cases s; simp only [State.setTile]

@[simp] theorem State.modTile_regs (s : State) (g : Nat) (f : TileSt → TileSt) : (s.modTile g f).regs = s.regs := by simp only [State.modTile, State.setTile_regs]
@[simp] theorem State.modTile_staging (s : State) (g : Nat) (f : TileSt → TileSt) : (s.modTile g f).staging = s.staging := by simp only [State.modTile, State.setTile_staging]
@[simp] theorem State.modTile_loft (s : State) (g : Nat) (f : TileSt → TileSt) : (s.modTile g f).loft = s.loft := by simp only [State.modTile, State.setTile_loft]
@[simp] theorem State.modTile_loftPsn (s : State) (g : Nat) (f : TileSt → TileSt) : (s.modTile g f).loftPsn = s.loftPsn := by simp only [State.modTile, State.setTile_loftPsn]
@[simp] theorem State.modTile_engs (s : State) (g : Nat) (f : TileSt → TileSt) : (s.modTile g f).engs = s.engs := by simp only [State.modTile, State.setTile_engs]
@[simp] theorem State.modTile_captures (s : State) (g : Nat) (f : TileSt → TileSt) : (s.modTile g f).captures = s.captures := by simp only [State.modTile, State.setTile_captures]
@[simp] theorem State.modTile_net (s : State) (g : Nat) (f : TileSt → TileSt) : (s.modTile g f).net = s.net := by simp only [State.modTile, State.setTile_net]
@[simp] theorem State.modTile_gws (s : State) (g : Nat) (f : TileSt → TileSt) : (s.modTile g f).gws = s.gws := by simp only [State.modTile, State.setTile_gws]
@[simp] theorem State.modTile_rpt (s : State) (g : Nat) (f : TileSt → TileSt) : (s.modTile g f).rpt = s.rpt := by simp only [State.modTile, State.setTile_rpt]
@[simp] theorem State.modTile_mem (s : State) (g : Nat) (f : TileSt → TileSt) : (s.modTile g f).mem = s.mem := by simp only [State.modTile, State.setTile_mem]
@[simp] theorem State.modTile_fab (s : State) (g : Nat) (f : TileSt → TileSt) : (s.modTile g f).fab = s.fab := by simp only [State.modTile, State.setTile_fab]
@[simp] theorem State.modTile_moe (s : State) (g : Nat) (f : TileSt → TileSt) : (s.modTile g f).moe = s.moe := by simp only [State.modTile, State.setTile_moe]
@[simp] theorem State.modTile_serve (s : State) (g : Nat) (f : TileSt → TileSt) : (s.modTile g f).serve = s.serve := by simp only [State.modTile, State.setTile_serve]
@[simp] theorem State.modTile_sec (s : State) (g : Nat) (f : TileSt → TileSt) : (s.modTile g f).sec = s.sec := by simp only [State.modTile, State.setTile_sec]
@[simp] theorem State.modTile_stw (s : State) (g : Nat) (f : TileSt → TileSt) : (s.modTile g f).stw = s.stw := by simp only [State.modTile, State.setTile_stw]
@[simp] theorem State.modTile_pwr (s : State) (g : Nat) (f : TileSt → TileSt) : (s.modTile g f).pwr = s.pwr := by simp only [State.modTile, State.setTile_pwr]
@[simp] theorem State.modTile_rst (s : State) (g : Nat) (f : TileSt → TileSt) : (s.modTile g f).rst = s.rst := by simp only [State.modTile, State.setTile_rst]
@[simp] theorem State.modTile_freeCtr (s : State) (g : Nat) (f : TileSt → TileSt) : (s.modTile g f).freeCtr = s.freeCtr := by simp only [State.modTile, State.setTile_freeCtr]
@[simp] theorem State.modTile_pending (s : State) (g : Nat) (f : TileSt → TileSt) : (s.modTile g f).pending = s.pending := by simp only [State.modTile, State.setTile_pending]

@[simp] theorem State.setEng_regs (s : State) (g : Nat) (e : Eng) (x : EngSt) : (s.setEng g e x).regs = s.regs := by cases s; simp only [State.setEng]
@[simp] theorem State.setEng_staging (s : State) (g : Nat) (e : Eng) (x : EngSt) : (s.setEng g e x).staging = s.staging := by cases s; simp only [State.setEng]
@[simp] theorem State.setEng_loft (s : State) (g : Nat) (e : Eng) (x : EngSt) : (s.setEng g e x).loft = s.loft := by cases s; simp only [State.setEng]
@[simp] theorem State.setEng_loftPsn (s : State) (g : Nat) (e : Eng) (x : EngSt) : (s.setEng g e x).loftPsn = s.loftPsn := by cases s; simp only [State.setEng]
@[simp] theorem State.setEng_tiles (s : State) (g : Nat) (e : Eng) (x : EngSt) : (s.setEng g e x).tiles = s.tiles := by cases s; simp only [State.setEng]
@[simp] theorem State.setEng_captures (s : State) (g : Nat) (e : Eng) (x : EngSt) : (s.setEng g e x).captures = s.captures := by cases s; simp only [State.setEng]
@[simp] theorem State.setEng_net (s : State) (g : Nat) (e : Eng) (x : EngSt) : (s.setEng g e x).net = s.net := by cases s; simp only [State.setEng]
@[simp] theorem State.setEng_gws (s : State) (g : Nat) (e : Eng) (x : EngSt) : (s.setEng g e x).gws = s.gws := by cases s; simp only [State.setEng]
@[simp] theorem State.setEng_rpt (s : State) (g : Nat) (e : Eng) (x : EngSt) : (s.setEng g e x).rpt = s.rpt := by cases s; simp only [State.setEng]
@[simp] theorem State.setEng_mem (s : State) (g : Nat) (e : Eng) (x : EngSt) : (s.setEng g e x).mem = s.mem := by cases s; simp only [State.setEng]
@[simp] theorem State.setEng_fab (s : State) (g : Nat) (e : Eng) (x : EngSt) : (s.setEng g e x).fab = s.fab := by cases s; simp only [State.setEng]
@[simp] theorem State.setEng_moe (s : State) (g : Nat) (e : Eng) (x : EngSt) : (s.setEng g e x).moe = s.moe := by cases s; simp only [State.setEng]
@[simp] theorem State.setEng_serve (s : State) (g : Nat) (e : Eng) (x : EngSt) : (s.setEng g e x).serve = s.serve := by cases s; simp only [State.setEng]
@[simp] theorem State.setEng_sec (s : State) (g : Nat) (e : Eng) (x : EngSt) : (s.setEng g e x).sec = s.sec := by cases s; simp only [State.setEng]
@[simp] theorem State.setEng_stw (s : State) (g : Nat) (e : Eng) (x : EngSt) : (s.setEng g e x).stw = s.stw := by cases s; simp only [State.setEng]
@[simp] theorem State.setEng_pwr (s : State) (g : Nat) (e : Eng) (x : EngSt) : (s.setEng g e x).pwr = s.pwr := by cases s; simp only [State.setEng]
@[simp] theorem State.setEng_rst (s : State) (g : Nat) (e : Eng) (x : EngSt) : (s.setEng g e x).rst = s.rst := by cases s; simp only [State.setEng]
@[simp] theorem State.setEng_freeCtr (s : State) (g : Nat) (e : Eng) (x : EngSt) : (s.setEng g e x).freeCtr = s.freeCtr := by cases s; simp only [State.setEng]
@[simp] theorem State.setEng_pending (s : State) (g : Nat) (e : Eng) (x : EngSt) : (s.setEng g e x).pending = s.pending := by cases s; simp only [State.setEng]

@[simp] theorem State.modEng_regs (s : State) (g : Nat) (e : Eng) (f : EngSt → EngSt) : (s.modEng g e f).regs = s.regs := by simp only [State.modEng, State.setEng_regs]
@[simp] theorem State.modEng_staging (s : State) (g : Nat) (e : Eng) (f : EngSt → EngSt) : (s.modEng g e f).staging = s.staging := by simp only [State.modEng, State.setEng_staging]
@[simp] theorem State.modEng_loft (s : State) (g : Nat) (e : Eng) (f : EngSt → EngSt) : (s.modEng g e f).loft = s.loft := by simp only [State.modEng, State.setEng_loft]
@[simp] theorem State.modEng_loftPsn (s : State) (g : Nat) (e : Eng) (f : EngSt → EngSt) : (s.modEng g e f).loftPsn = s.loftPsn := by simp only [State.modEng, State.setEng_loftPsn]
@[simp] theorem State.modEng_tiles (s : State) (g : Nat) (e : Eng) (f : EngSt → EngSt) : (s.modEng g e f).tiles = s.tiles := by simp only [State.modEng, State.setEng_tiles]
@[simp] theorem State.modEng_captures (s : State) (g : Nat) (e : Eng) (f : EngSt → EngSt) : (s.modEng g e f).captures = s.captures := by simp only [State.modEng, State.setEng_captures]
@[simp] theorem State.modEng_net (s : State) (g : Nat) (e : Eng) (f : EngSt → EngSt) : (s.modEng g e f).net = s.net := by simp only [State.modEng, State.setEng_net]
@[simp] theorem State.modEng_gws (s : State) (g : Nat) (e : Eng) (f : EngSt → EngSt) : (s.modEng g e f).gws = s.gws := by simp only [State.modEng, State.setEng_gws]
@[simp] theorem State.modEng_rpt (s : State) (g : Nat) (e : Eng) (f : EngSt → EngSt) : (s.modEng g e f).rpt = s.rpt := by simp only [State.modEng, State.setEng_rpt]
@[simp] theorem State.modEng_mem (s : State) (g : Nat) (e : Eng) (f : EngSt → EngSt) : (s.modEng g e f).mem = s.mem := by simp only [State.modEng, State.setEng_mem]
@[simp] theorem State.modEng_fab (s : State) (g : Nat) (e : Eng) (f : EngSt → EngSt) : (s.modEng g e f).fab = s.fab := by simp only [State.modEng, State.setEng_fab]
@[simp] theorem State.modEng_moe (s : State) (g : Nat) (e : Eng) (f : EngSt → EngSt) : (s.modEng g e f).moe = s.moe := by simp only [State.modEng, State.setEng_moe]
@[simp] theorem State.modEng_serve (s : State) (g : Nat) (e : Eng) (f : EngSt → EngSt) : (s.modEng g e f).serve = s.serve := by simp only [State.modEng, State.setEng_serve]
@[simp] theorem State.modEng_sec (s : State) (g : Nat) (e : Eng) (f : EngSt → EngSt) : (s.modEng g e f).sec = s.sec := by simp only [State.modEng, State.setEng_sec]
@[simp] theorem State.modEng_stw (s : State) (g : Nat) (e : Eng) (f : EngSt → EngSt) : (s.modEng g e f).stw = s.stw := by simp only [State.modEng, State.setEng_stw]
@[simp] theorem State.modEng_pwr (s : State) (g : Nat) (e : Eng) (f : EngSt → EngSt) : (s.modEng g e f).pwr = s.pwr := by simp only [State.modEng, State.setEng_pwr]
@[simp] theorem State.modEng_rst (s : State) (g : Nat) (e : Eng) (f : EngSt → EngSt) : (s.modEng g e f).rst = s.rst := by simp only [State.modEng, State.setEng_rst]
@[simp] theorem State.modEng_freeCtr (s : State) (g : Nat) (e : Eng) (f : EngSt → EngSt) : (s.modEng g e f).freeCtr = s.freeCtr := by simp only [State.modEng, State.setEng_freeCtr]
@[simp] theorem State.modEng_pending (s : State) (g : Nat) (e : Eng) (f : EngSt → EngSt) : (s.modEng g e f).pending = s.pending := by simp only [State.modEng, State.setEng_pending]

@[simp] theorem State.setLoftByte_regs (s : State) (g a : Nat) (b : Byte) : (s.setLoftByte g a b).regs = s.regs := by cases s; simp only [State.setLoftByte]
@[simp] theorem State.setLoftByte_staging (s : State) (g a : Nat) (b : Byte) : (s.setLoftByte g a b).staging = s.staging := by cases s; simp only [State.setLoftByte]
@[simp] theorem State.setLoftByte_loftPsn (s : State) (g a : Nat) (b : Byte) : (s.setLoftByte g a b).loftPsn = s.loftPsn := by cases s; simp only [State.setLoftByte]
@[simp] theorem State.setLoftByte_tiles (s : State) (g a : Nat) (b : Byte) : (s.setLoftByte g a b).tiles = s.tiles := by cases s; simp only [State.setLoftByte]
@[simp] theorem State.setLoftByte_engs (s : State) (g a : Nat) (b : Byte) : (s.setLoftByte g a b).engs = s.engs := by cases s; simp only [State.setLoftByte]
@[simp] theorem State.setLoftByte_captures (s : State) (g a : Nat) (b : Byte) : (s.setLoftByte g a b).captures = s.captures := by cases s; simp only [State.setLoftByte]
@[simp] theorem State.setLoftByte_net (s : State) (g a : Nat) (b : Byte) : (s.setLoftByte g a b).net = s.net := by cases s; simp only [State.setLoftByte]
@[simp] theorem State.setLoftByte_gws (s : State) (g a : Nat) (b : Byte) : (s.setLoftByte g a b).gws = s.gws := by cases s; simp only [State.setLoftByte]
@[simp] theorem State.setLoftByte_rpt (s : State) (g a : Nat) (b : Byte) : (s.setLoftByte g a b).rpt = s.rpt := by cases s; simp only [State.setLoftByte]
@[simp] theorem State.setLoftByte_mem (s : State) (g a : Nat) (b : Byte) : (s.setLoftByte g a b).mem = s.mem := by cases s; simp only [State.setLoftByte]
@[simp] theorem State.setLoftByte_fab (s : State) (g a : Nat) (b : Byte) : (s.setLoftByte g a b).fab = s.fab := by cases s; simp only [State.setLoftByte]
@[simp] theorem State.setLoftByte_moe (s : State) (g a : Nat) (b : Byte) : (s.setLoftByte g a b).moe = s.moe := by cases s; simp only [State.setLoftByte]
@[simp] theorem State.setLoftByte_serve (s : State) (g a : Nat) (b : Byte) : (s.setLoftByte g a b).serve = s.serve := by cases s; simp only [State.setLoftByte]
@[simp] theorem State.setLoftByte_sec (s : State) (g a : Nat) (b : Byte) : (s.setLoftByte g a b).sec = s.sec := by cases s; simp only [State.setLoftByte]
@[simp] theorem State.setLoftByte_stw (s : State) (g a : Nat) (b : Byte) : (s.setLoftByte g a b).stw = s.stw := by cases s; simp only [State.setLoftByte]
@[simp] theorem State.setLoftByte_pwr (s : State) (g a : Nat) (b : Byte) : (s.setLoftByte g a b).pwr = s.pwr := by cases s; simp only [State.setLoftByte]
@[simp] theorem State.setLoftByte_rst (s : State) (g a : Nat) (b : Byte) : (s.setLoftByte g a b).rst = s.rst := by cases s; simp only [State.setLoftByte]
@[simp] theorem State.setLoftByte_freeCtr (s : State) (g a : Nat) (b : Byte) : (s.setLoftByte g a b).freeCtr = s.freeCtr := by cases s; simp only [State.setLoftByte]
@[simp] theorem State.setLoftByte_pending (s : State) (g a : Nat) (b : Byte) : (s.setLoftByte g a b).pending = s.pending := by cases s; simp only [State.setLoftByte]

@[simp] theorem State.setLoftPoison_regs (s : State) (g a : Nat) (p : Bool) : (s.setLoftPoison g a p).regs = s.regs := by cases s; simp only [State.setLoftPoison]
@[simp] theorem State.setLoftPoison_staging (s : State) (g a : Nat) (p : Bool) : (s.setLoftPoison g a p).staging = s.staging := by cases s; simp only [State.setLoftPoison]
@[simp] theorem State.setLoftPoison_loft (s : State) (g a : Nat) (p : Bool) : (s.setLoftPoison g a p).loft = s.loft := by cases s; simp only [State.setLoftPoison]
@[simp] theorem State.setLoftPoison_tiles (s : State) (g a : Nat) (p : Bool) : (s.setLoftPoison g a p).tiles = s.tiles := by cases s; simp only [State.setLoftPoison]
@[simp] theorem State.setLoftPoison_engs (s : State) (g a : Nat) (p : Bool) : (s.setLoftPoison g a p).engs = s.engs := by cases s; simp only [State.setLoftPoison]
@[simp] theorem State.setLoftPoison_captures (s : State) (g a : Nat) (p : Bool) : (s.setLoftPoison g a p).captures = s.captures := by cases s; simp only [State.setLoftPoison]
@[simp] theorem State.setLoftPoison_net (s : State) (g a : Nat) (p : Bool) : (s.setLoftPoison g a p).net = s.net := by cases s; simp only [State.setLoftPoison]
@[simp] theorem State.setLoftPoison_gws (s : State) (g a : Nat) (p : Bool) : (s.setLoftPoison g a p).gws = s.gws := by cases s; simp only [State.setLoftPoison]
@[simp] theorem State.setLoftPoison_rpt (s : State) (g a : Nat) (p : Bool) : (s.setLoftPoison g a p).rpt = s.rpt := by cases s; simp only [State.setLoftPoison]
@[simp] theorem State.setLoftPoison_mem (s : State) (g a : Nat) (p : Bool) : (s.setLoftPoison g a p).mem = s.mem := by cases s; simp only [State.setLoftPoison]
@[simp] theorem State.setLoftPoison_fab (s : State) (g a : Nat) (p : Bool) : (s.setLoftPoison g a p).fab = s.fab := by cases s; simp only [State.setLoftPoison]
@[simp] theorem State.setLoftPoison_moe (s : State) (g a : Nat) (p : Bool) : (s.setLoftPoison g a p).moe = s.moe := by cases s; simp only [State.setLoftPoison]
@[simp] theorem State.setLoftPoison_serve (s : State) (g a : Nat) (p : Bool) : (s.setLoftPoison g a p).serve = s.serve := by cases s; simp only [State.setLoftPoison]
@[simp] theorem State.setLoftPoison_sec (s : State) (g a : Nat) (p : Bool) : (s.setLoftPoison g a p).sec = s.sec := by cases s; simp only [State.setLoftPoison]
@[simp] theorem State.setLoftPoison_stw (s : State) (g a : Nat) (p : Bool) : (s.setLoftPoison g a p).stw = s.stw := by cases s; simp only [State.setLoftPoison]
@[simp] theorem State.setLoftPoison_pwr (s : State) (g a : Nat) (p : Bool) : (s.setLoftPoison g a p).pwr = s.pwr := by cases s; simp only [State.setLoftPoison]
@[simp] theorem State.setLoftPoison_rst (s : State) (g a : Nat) (p : Bool) : (s.setLoftPoison g a p).rst = s.rst := by cases s; simp only [State.setLoftPoison]
@[simp] theorem State.setLoftPoison_freeCtr (s : State) (g a : Nat) (p : Bool) : (s.setLoftPoison g a p).freeCtr = s.freeCtr := by cases s; simp only [State.setLoftPoison]
@[simp] theorem State.setLoftPoison_pending (s : State) (g a : Nat) (p : Bool) : (s.setLoftPoison g a p).pending = s.pending := by cases s; simp only [State.setLoftPoison]

@[simp] theorem State.report_regs (s : State) (r : Rpt) : (s.report r).regs = s.regs := by cases s; simp only [State.report]
@[simp] theorem State.report_staging (s : State) (r : Rpt) : (s.report r).staging = s.staging := by cases s; simp only [State.report]
@[simp] theorem State.report_loft (s : State) (r : Rpt) : (s.report r).loft = s.loft := by cases s; simp only [State.report]
@[simp] theorem State.report_loftPsn (s : State) (r : Rpt) : (s.report r).loftPsn = s.loftPsn := by cases s; simp only [State.report]
@[simp] theorem State.report_tiles (s : State) (r : Rpt) : (s.report r).tiles = s.tiles := by cases s; simp only [State.report]
@[simp] theorem State.report_engs (s : State) (r : Rpt) : (s.report r).engs = s.engs := by cases s; simp only [State.report]
@[simp] theorem State.report_captures (s : State) (r : Rpt) : (s.report r).captures = s.captures := by cases s; simp only [State.report]
@[simp] theorem State.report_net (s : State) (r : Rpt) : (s.report r).net = s.net := by cases s; simp only [State.report]
@[simp] theorem State.report_gws (s : State) (r : Rpt) : (s.report r).gws = s.gws := by cases s; simp only [State.report]
@[simp] theorem State.report_mem (s : State) (r : Rpt) : (s.report r).mem = s.mem := by cases s; simp only [State.report]
@[simp] theorem State.report_fab (s : State) (r : Rpt) : (s.report r).fab = s.fab := by cases s; simp only [State.report]
@[simp] theorem State.report_moe (s : State) (r : Rpt) : (s.report r).moe = s.moe := by cases s; simp only [State.report]
@[simp] theorem State.report_serve (s : State) (r : Rpt) : (s.report r).serve = s.serve := by cases s; simp only [State.report]
@[simp] theorem State.report_sec (s : State) (r : Rpt) : (s.report r).sec = s.sec := by cases s; simp only [State.report]
@[simp] theorem State.report_stw (s : State) (r : Rpt) : (s.report r).stw = s.stw := by cases s; simp only [State.report]
@[simp] theorem State.report_pwr (s : State) (r : Rpt) : (s.report r).pwr = s.pwr := by cases s; simp only [State.report]
@[simp] theorem State.report_rst (s : State) (r : Rpt) : (s.report r).rst = s.rst := by cases s; simp only [State.report]
@[simp] theorem State.report_freeCtr (s : State) (r : Rpt) : (s.report r).freeCtr = s.freeCtr := by cases s; simp only [State.report]
@[simp] theorem State.report_pending (s : State) (r : Rpt) : (s.report r).pending = s.pending := by cases s; simp only [State.report]

@[simp] theorem State.faultRep_regs (s : State) (c k : Nat) (p : Option Nat) (i d1 d2 : Nat) : (s.faultRep c k p i d1 d2).regs = s.regs := by simp only [State.faultRep, State.report_regs]
@[simp] theorem State.faultRep_staging (s : State) (c k : Nat) (p : Option Nat) (i d1 d2 : Nat) : (s.faultRep c k p i d1 d2).staging = s.staging := by simp only [State.faultRep, State.report_staging]
@[simp] theorem State.faultRep_loft (s : State) (c k : Nat) (p : Option Nat) (i d1 d2 : Nat) : (s.faultRep c k p i d1 d2).loft = s.loft := by simp only [State.faultRep, State.report_loft]
@[simp] theorem State.faultRep_loftPsn (s : State) (c k : Nat) (p : Option Nat) (i d1 d2 : Nat) : (s.faultRep c k p i d1 d2).loftPsn = s.loftPsn := by simp only [State.faultRep, State.report_loftPsn]
@[simp] theorem State.faultRep_tiles (s : State) (c k : Nat) (p : Option Nat) (i d1 d2 : Nat) : (s.faultRep c k p i d1 d2).tiles = s.tiles := by simp only [State.faultRep, State.report_tiles]
@[simp] theorem State.faultRep_engs (s : State) (c k : Nat) (p : Option Nat) (i d1 d2 : Nat) : (s.faultRep c k p i d1 d2).engs = s.engs := by simp only [State.faultRep, State.report_engs]
@[simp] theorem State.faultRep_captures (s : State) (c k : Nat) (p : Option Nat) (i d1 d2 : Nat) : (s.faultRep c k p i d1 d2).captures = s.captures := by simp only [State.faultRep, State.report_captures]
@[simp] theorem State.faultRep_net (s : State) (c k : Nat) (p : Option Nat) (i d1 d2 : Nat) : (s.faultRep c k p i d1 d2).net = s.net := by simp only [State.faultRep, State.report_net]
@[simp] theorem State.faultRep_gws (s : State) (c k : Nat) (p : Option Nat) (i d1 d2 : Nat) : (s.faultRep c k p i d1 d2).gws = s.gws := by simp only [State.faultRep, State.report_gws]
@[simp] theorem State.faultRep_mem (s : State) (c k : Nat) (p : Option Nat) (i d1 d2 : Nat) : (s.faultRep c k p i d1 d2).mem = s.mem := by simp only [State.faultRep, State.report_mem]
@[simp] theorem State.faultRep_fab (s : State) (c k : Nat) (p : Option Nat) (i d1 d2 : Nat) : (s.faultRep c k p i d1 d2).fab = s.fab := by simp only [State.faultRep, State.report_fab]
@[simp] theorem State.faultRep_moe (s : State) (c k : Nat) (p : Option Nat) (i d1 d2 : Nat) : (s.faultRep c k p i d1 d2).moe = s.moe := by simp only [State.faultRep, State.report_moe]
@[simp] theorem State.faultRep_serve (s : State) (c k : Nat) (p : Option Nat) (i d1 d2 : Nat) : (s.faultRep c k p i d1 d2).serve = s.serve := by simp only [State.faultRep, State.report_serve]
@[simp] theorem State.faultRep_sec (s : State) (c k : Nat) (p : Option Nat) (i d1 d2 : Nat) : (s.faultRep c k p i d1 d2).sec = s.sec := by simp only [State.faultRep, State.report_sec]
@[simp] theorem State.faultRep_stw (s : State) (c k : Nat) (p : Option Nat) (i d1 d2 : Nat) : (s.faultRep c k p i d1 d2).stw = s.stw := by simp only [State.faultRep, State.report_stw]
@[simp] theorem State.faultRep_pwr (s : State) (c k : Nat) (p : Option Nat) (i d1 d2 : Nat) : (s.faultRep c k p i d1 d2).pwr = s.pwr := by simp only [State.faultRep, State.report_pwr]
@[simp] theorem State.faultRep_rst (s : State) (c k : Nat) (p : Option Nat) (i d1 d2 : Nat) : (s.faultRep c k p i d1 d2).rst = s.rst := by simp only [State.faultRep, State.report_rst]
@[simp] theorem State.faultRep_freeCtr (s : State) (c k : Nat) (p : Option Nat) (i d1 d2 : Nat) : (s.faultRep c k p i d1 d2).freeCtr = s.freeCtr := by simp only [State.faultRep, State.report_freeCtr]
@[simp] theorem State.faultRep_pending (s : State) (c k : Nat) (p : Option Nat) (i d1 d2 : Nat) : (s.faultRep c k p i d1 d2).pending = s.pending := by simp only [State.faultRep, State.report_pending]

@[simp] theorem State.plainRep_regs (s : State) (c : Nat) (p : Option Nat) (i d1 d2 : Nat) : (s.plainRep c p i d1 d2).regs = s.regs := by simp only [State.plainRep, State.faultRep_regs]
@[simp] theorem State.plainRep_staging (s : State) (c : Nat) (p : Option Nat) (i d1 d2 : Nat) : (s.plainRep c p i d1 d2).staging = s.staging := by simp only [State.plainRep, State.faultRep_staging]
@[simp] theorem State.plainRep_loft (s : State) (c : Nat) (p : Option Nat) (i d1 d2 : Nat) : (s.plainRep c p i d1 d2).loft = s.loft := by simp only [State.plainRep, State.faultRep_loft]
@[simp] theorem State.plainRep_loftPsn (s : State) (c : Nat) (p : Option Nat) (i d1 d2 : Nat) : (s.plainRep c p i d1 d2).loftPsn = s.loftPsn := by simp only [State.plainRep, State.faultRep_loftPsn]
@[simp] theorem State.plainRep_tiles (s : State) (c : Nat) (p : Option Nat) (i d1 d2 : Nat) : (s.plainRep c p i d1 d2).tiles = s.tiles := by simp only [State.plainRep, State.faultRep_tiles]
@[simp] theorem State.plainRep_engs (s : State) (c : Nat) (p : Option Nat) (i d1 d2 : Nat) : (s.plainRep c p i d1 d2).engs = s.engs := by simp only [State.plainRep, State.faultRep_engs]
@[simp] theorem State.plainRep_captures (s : State) (c : Nat) (p : Option Nat) (i d1 d2 : Nat) : (s.plainRep c p i d1 d2).captures = s.captures := by simp only [State.plainRep, State.faultRep_captures]
@[simp] theorem State.plainRep_net (s : State) (c : Nat) (p : Option Nat) (i d1 d2 : Nat) : (s.plainRep c p i d1 d2).net = s.net := by simp only [State.plainRep, State.faultRep_net]
@[simp] theorem State.plainRep_gws (s : State) (c : Nat) (p : Option Nat) (i d1 d2 : Nat) : (s.plainRep c p i d1 d2).gws = s.gws := by simp only [State.plainRep, State.faultRep_gws]
@[simp] theorem State.plainRep_mem (s : State) (c : Nat) (p : Option Nat) (i d1 d2 : Nat) : (s.plainRep c p i d1 d2).mem = s.mem := by simp only [State.plainRep, State.faultRep_mem]
@[simp] theorem State.plainRep_fab (s : State) (c : Nat) (p : Option Nat) (i d1 d2 : Nat) : (s.plainRep c p i d1 d2).fab = s.fab := by simp only [State.plainRep, State.faultRep_fab]
@[simp] theorem State.plainRep_moe (s : State) (c : Nat) (p : Option Nat) (i d1 d2 : Nat) : (s.plainRep c p i d1 d2).moe = s.moe := by simp only [State.plainRep, State.faultRep_moe]
@[simp] theorem State.plainRep_serve (s : State) (c : Nat) (p : Option Nat) (i d1 d2 : Nat) : (s.plainRep c p i d1 d2).serve = s.serve := by simp only [State.plainRep, State.faultRep_serve]
@[simp] theorem State.plainRep_sec (s : State) (c : Nat) (p : Option Nat) (i d1 d2 : Nat) : (s.plainRep c p i d1 d2).sec = s.sec := by simp only [State.plainRep, State.faultRep_sec]
@[simp] theorem State.plainRep_stw (s : State) (c : Nat) (p : Option Nat) (i d1 d2 : Nat) : (s.plainRep c p i d1 d2).stw = s.stw := by simp only [State.plainRep, State.faultRep_stw]
@[simp] theorem State.plainRep_pwr (s : State) (c : Nat) (p : Option Nat) (i d1 d2 : Nat) : (s.plainRep c p i d1 d2).pwr = s.pwr := by simp only [State.plainRep, State.faultRep_pwr]
@[simp] theorem State.plainRep_rst (s : State) (c : Nat) (p : Option Nat) (i d1 d2 : Nat) : (s.plainRep c p i d1 d2).rst = s.rst := by simp only [State.plainRep, State.faultRep_rst]
@[simp] theorem State.plainRep_freeCtr (s : State) (c : Nat) (p : Option Nat) (i d1 d2 : Nat) : (s.plainRep c p i d1 d2).freeCtr = s.freeCtr := by simp only [State.plainRep, State.faultRep_freeCtr]
@[simp] theorem State.plainRep_pending (s : State) (c : Nat) (p : Option Nat) (i d1 d2 : Nat) : (s.plainRep c p i d1 d2).pending = s.pending := by simp only [State.plainRep, State.faultRep_pending]

@[simp] theorem State.decodeMiss_regs (s : State) (acc a : Nat) : (s.decodeMiss acc a).regs = s.regs := by simp only [State.decodeMiss, State.plainRep_regs]
@[simp] theorem State.decodeMiss_staging (s : State) (acc a : Nat) : (s.decodeMiss acc a).staging = s.staging := by simp only [State.decodeMiss, State.plainRep_staging]
@[simp] theorem State.decodeMiss_loft (s : State) (acc a : Nat) : (s.decodeMiss acc a).loft = s.loft := by simp only [State.decodeMiss, State.plainRep_loft]
@[simp] theorem State.decodeMiss_loftPsn (s : State) (acc a : Nat) : (s.decodeMiss acc a).loftPsn = s.loftPsn := by simp only [State.decodeMiss, State.plainRep_loftPsn]
@[simp] theorem State.decodeMiss_tiles (s : State) (acc a : Nat) : (s.decodeMiss acc a).tiles = s.tiles := by simp only [State.decodeMiss, State.plainRep_tiles]
@[simp] theorem State.decodeMiss_engs (s : State) (acc a : Nat) : (s.decodeMiss acc a).engs = s.engs := by simp only [State.decodeMiss, State.plainRep_engs]
@[simp] theorem State.decodeMiss_captures (s : State) (acc a : Nat) : (s.decodeMiss acc a).captures = s.captures := by simp only [State.decodeMiss, State.plainRep_captures]
@[simp] theorem State.decodeMiss_net (s : State) (acc a : Nat) : (s.decodeMiss acc a).net = s.net := by simp only [State.decodeMiss, State.plainRep_net]
@[simp] theorem State.decodeMiss_gws (s : State) (acc a : Nat) : (s.decodeMiss acc a).gws = s.gws := by simp only [State.decodeMiss, State.plainRep_gws]
@[simp] theorem State.decodeMiss_mem (s : State) (acc a : Nat) : (s.decodeMiss acc a).mem = s.mem := by simp only [State.decodeMiss, State.plainRep_mem]
@[simp] theorem State.decodeMiss_fab (s : State) (acc a : Nat) : (s.decodeMiss acc a).fab = s.fab := by simp only [State.decodeMiss, State.plainRep_fab]
@[simp] theorem State.decodeMiss_moe (s : State) (acc a : Nat) : (s.decodeMiss acc a).moe = s.moe := by simp only [State.decodeMiss, State.plainRep_moe]
@[simp] theorem State.decodeMiss_serve (s : State) (acc a : Nat) : (s.decodeMiss acc a).serve = s.serve := by simp only [State.decodeMiss, State.plainRep_serve]
@[simp] theorem State.decodeMiss_sec (s : State) (acc a : Nat) : (s.decodeMiss acc a).sec = s.sec := by simp only [State.decodeMiss, State.plainRep_sec]
@[simp] theorem State.decodeMiss_stw (s : State) (acc a : Nat) : (s.decodeMiss acc a).stw = s.stw := by simp only [State.decodeMiss, State.plainRep_stw]
@[simp] theorem State.decodeMiss_pwr (s : State) (acc a : Nat) : (s.decodeMiss acc a).pwr = s.pwr := by simp only [State.decodeMiss, State.plainRep_pwr]
@[simp] theorem State.decodeMiss_rst (s : State) (acc a : Nat) : (s.decodeMiss acc a).rst = s.rst := by simp only [State.decodeMiss, State.plainRep_rst]
@[simp] theorem State.decodeMiss_freeCtr (s : State) (acc a : Nat) : (s.decodeMiss acc a).freeCtr = s.freeCtr := by simp only [State.decodeMiss, State.plainRep_freeCtr]
@[simp] theorem State.decodeMiss_pending (s : State) (acc a : Nat) : (s.decodeMiss acc a).pending = s.pending := by simp only [State.decodeMiss, State.plainRep_pending]

@[simp] theorem State.stage_regs (s : State) (acc die : Nat) (v : Option Word64) : (s.stage acc die v).regs = s.regs := by cases s; simp only [State.stage]
@[simp] theorem State.stage_loft (s : State) (acc die : Nat) (v : Option Word64) : (s.stage acc die v).loft = s.loft := by cases s; simp only [State.stage]
@[simp] theorem State.stage_loftPsn (s : State) (acc die : Nat) (v : Option Word64) : (s.stage acc die v).loftPsn = s.loftPsn := by cases s; simp only [State.stage]
@[simp] theorem State.stage_tiles (s : State) (acc die : Nat) (v : Option Word64) : (s.stage acc die v).tiles = s.tiles := by cases s; simp only [State.stage]
@[simp] theorem State.stage_engs (s : State) (acc die : Nat) (v : Option Word64) : (s.stage acc die v).engs = s.engs := by cases s; simp only [State.stage]
@[simp] theorem State.stage_captures (s : State) (acc die : Nat) (v : Option Word64) : (s.stage acc die v).captures = s.captures := by cases s; simp only [State.stage]
@[simp] theorem State.stage_net (s : State) (acc die : Nat) (v : Option Word64) : (s.stage acc die v).net = s.net := by cases s; simp only [State.stage]
@[simp] theorem State.stage_gws (s : State) (acc die : Nat) (v : Option Word64) : (s.stage acc die v).gws = s.gws := by cases s; simp only [State.stage]
@[simp] theorem State.stage_rpt (s : State) (acc die : Nat) (v : Option Word64) : (s.stage acc die v).rpt = s.rpt := by cases s; simp only [State.stage]
@[simp] theorem State.stage_mem (s : State) (acc die : Nat) (v : Option Word64) : (s.stage acc die v).mem = s.mem := by cases s; simp only [State.stage]
@[simp] theorem State.stage_fab (s : State) (acc die : Nat) (v : Option Word64) : (s.stage acc die v).fab = s.fab := by cases s; simp only [State.stage]
@[simp] theorem State.stage_moe (s : State) (acc die : Nat) (v : Option Word64) : (s.stage acc die v).moe = s.moe := by cases s; simp only [State.stage]
@[simp] theorem State.stage_serve (s : State) (acc die : Nat) (v : Option Word64) : (s.stage acc die v).serve = s.serve := by cases s; simp only [State.stage]
@[simp] theorem State.stage_sec (s : State) (acc die : Nat) (v : Option Word64) : (s.stage acc die v).sec = s.sec := by cases s; simp only [State.stage]
@[simp] theorem State.stage_stw (s : State) (acc die : Nat) (v : Option Word64) : (s.stage acc die v).stw = s.stw := by cases s; simp only [State.stage]
@[simp] theorem State.stage_pwr (s : State) (acc die : Nat) (v : Option Word64) : (s.stage acc die v).pwr = s.pwr := by cases s; simp only [State.stage]
@[simp] theorem State.stage_rst (s : State) (acc die : Nat) (v : Option Word64) : (s.stage acc die v).rst = s.rst := by cases s; simp only [State.stage]
@[simp] theorem State.stage_freeCtr (s : State) (acc die : Nat) (v : Option Word64) : (s.stage acc die v).freeCtr = s.freeCtr := by cases s; simp only [State.stage]
@[simp] theorem State.stage_pending (s : State) (acc die : Nat) (v : Option Word64) : (s.stage acc die v).pending = s.pending := by cases s; simp only [State.stage]

@[simp] theorem State.setPart_regs (s : State) (p : Nat) (x : Option PartSt) : (s.setPart p x).regs = s.regs := by cases s; simp only [State.setPart]
@[simp] theorem State.setPart_staging (s : State) (p : Nat) (x : Option PartSt) : (s.setPart p x).staging = s.staging := by cases s; simp only [State.setPart]
@[simp] theorem State.setPart_loft (s : State) (p : Nat) (x : Option PartSt) : (s.setPart p x).loft = s.loft := by cases s; simp only [State.setPart]
@[simp] theorem State.setPart_loftPsn (s : State) (p : Nat) (x : Option PartSt) : (s.setPart p x).loftPsn = s.loftPsn := by cases s; simp only [State.setPart]
@[simp] theorem State.setPart_tiles (s : State) (p : Nat) (x : Option PartSt) : (s.setPart p x).tiles = s.tiles := by cases s; simp only [State.setPart]
@[simp] theorem State.setPart_engs (s : State) (p : Nat) (x : Option PartSt) : (s.setPart p x).engs = s.engs := by cases s; simp only [State.setPart]
@[simp] theorem State.setPart_captures (s : State) (p : Nat) (x : Option PartSt) : (s.setPart p x).captures = s.captures := by cases s; simp only [State.setPart]
@[simp] theorem State.setPart_net (s : State) (p : Nat) (x : Option PartSt) : (s.setPart p x).net = s.net := by cases s; simp only [State.setPart]
@[simp] theorem State.setPart_gws (s : State) (p : Nat) (x : Option PartSt) : (s.setPart p x).gws = s.gws := by cases s; simp only [State.setPart]
@[simp] theorem State.setPart_rpt (s : State) (p : Nat) (x : Option PartSt) : (s.setPart p x).rpt = s.rpt := by cases s; simp only [State.setPart]
@[simp] theorem State.setPart_mem (s : State) (p : Nat) (x : Option PartSt) : (s.setPart p x).mem = s.mem := by cases s; simp only [State.setPart]
@[simp] theorem State.setPart_fab (s : State) (p : Nat) (x : Option PartSt) : (s.setPart p x).fab = s.fab := by cases s; simp only [State.setPart]
@[simp] theorem State.setPart_moe (s : State) (p : Nat) (x : Option PartSt) : (s.setPart p x).moe = s.moe := by cases s; simp only [State.setPart]
@[simp] theorem State.setPart_sec (s : State) (p : Nat) (x : Option PartSt) : (s.setPart p x).sec = s.sec := by cases s; simp only [State.setPart]
@[simp] theorem State.setPart_stw (s : State) (p : Nat) (x : Option PartSt) : (s.setPart p x).stw = s.stw := by cases s; simp only [State.setPart]
@[simp] theorem State.setPart_pwr (s : State) (p : Nat) (x : Option PartSt) : (s.setPart p x).pwr = s.pwr := by cases s; simp only [State.setPart]
@[simp] theorem State.setPart_rst (s : State) (p : Nat) (x : Option PartSt) : (s.setPart p x).rst = s.rst := by cases s; simp only [State.setPart]
@[simp] theorem State.setPart_freeCtr (s : State) (p : Nat) (x : Option PartSt) : (s.setPart p x).freeCtr = s.freeCtr := by cases s; simp only [State.setPart]
@[simp] theorem State.setPart_pending (s : State) (p : Nat) (x : Option PartSt) : (s.setPart p x).pending = s.pending := by cases s; simp only [State.setPart]

@[simp] theorem State.modSec_regs (s : State) (f : SecSt → SecSt) : (s.modSec f).regs = s.regs := by cases s; simp only [State.modSec]
@[simp] theorem State.modSec_staging (s : State) (f : SecSt → SecSt) : (s.modSec f).staging = s.staging := by cases s; simp only [State.modSec]
@[simp] theorem State.modSec_loft (s : State) (f : SecSt → SecSt) : (s.modSec f).loft = s.loft := by cases s; simp only [State.modSec]
@[simp] theorem State.modSec_loftPsn (s : State) (f : SecSt → SecSt) : (s.modSec f).loftPsn = s.loftPsn := by cases s; simp only [State.modSec]
@[simp] theorem State.modSec_tiles (s : State) (f : SecSt → SecSt) : (s.modSec f).tiles = s.tiles := by cases s; simp only [State.modSec]
@[simp] theorem State.modSec_engs (s : State) (f : SecSt → SecSt) : (s.modSec f).engs = s.engs := by cases s; simp only [State.modSec]
@[simp] theorem State.modSec_captures (s : State) (f : SecSt → SecSt) : (s.modSec f).captures = s.captures := by cases s; simp only [State.modSec]
@[simp] theorem State.modSec_net (s : State) (f : SecSt → SecSt) : (s.modSec f).net = s.net := by cases s; simp only [State.modSec]
@[simp] theorem State.modSec_gws (s : State) (f : SecSt → SecSt) : (s.modSec f).gws = s.gws := by cases s; simp only [State.modSec]
@[simp] theorem State.modSec_rpt (s : State) (f : SecSt → SecSt) : (s.modSec f).rpt = s.rpt := by cases s; simp only [State.modSec]
@[simp] theorem State.modSec_mem (s : State) (f : SecSt → SecSt) : (s.modSec f).mem = s.mem := by cases s; simp only [State.modSec]
@[simp] theorem State.modSec_fab (s : State) (f : SecSt → SecSt) : (s.modSec f).fab = s.fab := by cases s; simp only [State.modSec]
@[simp] theorem State.modSec_moe (s : State) (f : SecSt → SecSt) : (s.modSec f).moe = s.moe := by cases s; simp only [State.modSec]
@[simp] theorem State.modSec_serve (s : State) (f : SecSt → SecSt) : (s.modSec f).serve = s.serve := by cases s; simp only [State.modSec]
@[simp] theorem State.modSec_stw (s : State) (f : SecSt → SecSt) : (s.modSec f).stw = s.stw := by cases s; simp only [State.modSec]
@[simp] theorem State.modSec_pwr (s : State) (f : SecSt → SecSt) : (s.modSec f).pwr = s.pwr := by cases s; simp only [State.modSec]
@[simp] theorem State.modSec_rst (s : State) (f : SecSt → SecSt) : (s.modSec f).rst = s.rst := by cases s; simp only [State.modSec]
@[simp] theorem State.modSec_freeCtr (s : State) (f : SecSt → SecSt) : (s.modSec f).freeCtr = s.freeCtr := by cases s; simp only [State.modSec]
@[simp] theorem State.modSec_pending (s : State) (f : SecSt → SecSt) : (s.modSec f).pending = s.pending := by cases s; simp only [State.modSec]

@[simp] theorem State.putMb_regs (s : State) (fn o : Nat) (l : List Byte) : (s.putMb fn o l).regs = s.regs := by cases s; simp only [State.putMb]
@[simp] theorem State.putMb_staging (s : State) (fn o : Nat) (l : List Byte) : (s.putMb fn o l).staging = s.staging := by cases s; simp only [State.putMb]
@[simp] theorem State.putMb_loft (s : State) (fn o : Nat) (l : List Byte) : (s.putMb fn o l).loft = s.loft := by cases s; simp only [State.putMb]
@[simp] theorem State.putMb_loftPsn (s : State) (fn o : Nat) (l : List Byte) : (s.putMb fn o l).loftPsn = s.loftPsn := by cases s; simp only [State.putMb]
@[simp] theorem State.putMb_tiles (s : State) (fn o : Nat) (l : List Byte) : (s.putMb fn o l).tiles = s.tiles := by cases s; simp only [State.putMb]
@[simp] theorem State.putMb_engs (s : State) (fn o : Nat) (l : List Byte) : (s.putMb fn o l).engs = s.engs := by cases s; simp only [State.putMb]
@[simp] theorem State.putMb_captures (s : State) (fn o : Nat) (l : List Byte) : (s.putMb fn o l).captures = s.captures := by cases s; simp only [State.putMb]
@[simp] theorem State.putMb_net (s : State) (fn o : Nat) (l : List Byte) : (s.putMb fn o l).net = s.net := by cases s; simp only [State.putMb]
@[simp] theorem State.putMb_gws (s : State) (fn o : Nat) (l : List Byte) : (s.putMb fn o l).gws = s.gws := by cases s; simp only [State.putMb]
@[simp] theorem State.putMb_rpt (s : State) (fn o : Nat) (l : List Byte) : (s.putMb fn o l).rpt = s.rpt := by cases s; simp only [State.putMb]
@[simp] theorem State.putMb_mem (s : State) (fn o : Nat) (l : List Byte) : (s.putMb fn o l).mem = s.mem := by cases s; simp only [State.putMb]
@[simp] theorem State.putMb_fab (s : State) (fn o : Nat) (l : List Byte) : (s.putMb fn o l).fab = s.fab := by cases s; simp only [State.putMb]
@[simp] theorem State.putMb_moe (s : State) (fn o : Nat) (l : List Byte) : (s.putMb fn o l).moe = s.moe := by cases s; simp only [State.putMb]
@[simp] theorem State.putMb_serve (s : State) (fn o : Nat) (l : List Byte) : (s.putMb fn o l).serve = s.serve := by cases s; simp only [State.putMb]
@[simp] theorem State.putMb_sec (s : State) (fn o : Nat) (l : List Byte) : (s.putMb fn o l).sec = s.sec := by cases s; simp only [State.putMb]
@[simp] theorem State.putMb_pwr (s : State) (fn o : Nat) (l : List Byte) : (s.putMb fn o l).pwr = s.pwr := by cases s; simp only [State.putMb]
@[simp] theorem State.putMb_rst (s : State) (fn o : Nat) (l : List Byte) : (s.putMb fn o l).rst = s.rst := by cases s; simp only [State.putMb]
@[simp] theorem State.putMb_freeCtr (s : State) (fn o : Nat) (l : List Byte) : (s.putMb fn o l).freeCtr = s.freeCtr := by cases s; simp only [State.putMb]
@[simp] theorem State.putMb_pending (s : State) (fn o : Nat) (l : List Byte) : (s.putMb fn o l).pending = s.pending := by cases s; simp only [State.putMb]

@[simp] theorem State.modRst_regs (s : State) (f : RstSt → RstSt) : (s.modRst f).regs = s.regs := by cases s; simp only [State.modRst]
@[simp] theorem State.modRst_staging (s : State) (f : RstSt → RstSt) : (s.modRst f).staging = s.staging := by cases s; simp only [State.modRst]
@[simp] theorem State.modRst_loft (s : State) (f : RstSt → RstSt) : (s.modRst f).loft = s.loft := by cases s; simp only [State.modRst]
@[simp] theorem State.modRst_loftPsn (s : State) (f : RstSt → RstSt) : (s.modRst f).loftPsn = s.loftPsn := by cases s; simp only [State.modRst]
@[simp] theorem State.modRst_tiles (s : State) (f : RstSt → RstSt) : (s.modRst f).tiles = s.tiles := by cases s; simp only [State.modRst]
@[simp] theorem State.modRst_engs (s : State) (f : RstSt → RstSt) : (s.modRst f).engs = s.engs := by cases s; simp only [State.modRst]
@[simp] theorem State.modRst_captures (s : State) (f : RstSt → RstSt) : (s.modRst f).captures = s.captures := by cases s; simp only [State.modRst]
@[simp] theorem State.modRst_net (s : State) (f : RstSt → RstSt) : (s.modRst f).net = s.net := by cases s; simp only [State.modRst]
@[simp] theorem State.modRst_gws (s : State) (f : RstSt → RstSt) : (s.modRst f).gws = s.gws := by cases s; simp only [State.modRst]
@[simp] theorem State.modRst_rpt (s : State) (f : RstSt → RstSt) : (s.modRst f).rpt = s.rpt := by cases s; simp only [State.modRst]
@[simp] theorem State.modRst_mem (s : State) (f : RstSt → RstSt) : (s.modRst f).mem = s.mem := by cases s; simp only [State.modRst]
@[simp] theorem State.modRst_fab (s : State) (f : RstSt → RstSt) : (s.modRst f).fab = s.fab := by cases s; simp only [State.modRst]
@[simp] theorem State.modRst_moe (s : State) (f : RstSt → RstSt) : (s.modRst f).moe = s.moe := by cases s; simp only [State.modRst]
@[simp] theorem State.modRst_serve (s : State) (f : RstSt → RstSt) : (s.modRst f).serve = s.serve := by cases s; simp only [State.modRst]
@[simp] theorem State.modRst_sec (s : State) (f : RstSt → RstSt) : (s.modRst f).sec = s.sec := by cases s; simp only [State.modRst]
@[simp] theorem State.modRst_stw (s : State) (f : RstSt → RstSt) : (s.modRst f).stw = s.stw := by cases s; simp only [State.modRst]
@[simp] theorem State.modRst_pwr (s : State) (f : RstSt → RstSt) : (s.modRst f).pwr = s.pwr := by cases s; simp only [State.modRst]
@[simp] theorem State.modRst_freeCtr (s : State) (f : RstSt → RstSt) : (s.modRst f).freeCtr = s.freeCtr := by cases s; simp only [State.modRst]
@[simp] theorem State.modRst_pending (s : State) (f : RstSt → RstSt) : (s.modRst f).pending = s.pending := by cases s; simp only [State.modRst]

@[simp] theorem State.modPwr_regs (s : State) (f : PwrSt → PwrSt) : (s.modPwr f).regs = s.regs := by cases s; simp only [State.modPwr]
@[simp] theorem State.modPwr_staging (s : State) (f : PwrSt → PwrSt) : (s.modPwr f).staging = s.staging := by cases s; simp only [State.modPwr]
@[simp] theorem State.modPwr_loft (s : State) (f : PwrSt → PwrSt) : (s.modPwr f).loft = s.loft := by cases s; simp only [State.modPwr]
@[simp] theorem State.modPwr_loftPsn (s : State) (f : PwrSt → PwrSt) : (s.modPwr f).loftPsn = s.loftPsn := by cases s; simp only [State.modPwr]
@[simp] theorem State.modPwr_tiles (s : State) (f : PwrSt → PwrSt) : (s.modPwr f).tiles = s.tiles := by cases s; simp only [State.modPwr]
@[simp] theorem State.modPwr_engs (s : State) (f : PwrSt → PwrSt) : (s.modPwr f).engs = s.engs := by cases s; simp only [State.modPwr]
@[simp] theorem State.modPwr_captures (s : State) (f : PwrSt → PwrSt) : (s.modPwr f).captures = s.captures := by cases s; simp only [State.modPwr]
@[simp] theorem State.modPwr_net (s : State) (f : PwrSt → PwrSt) : (s.modPwr f).net = s.net := by cases s; simp only [State.modPwr]
@[simp] theorem State.modPwr_gws (s : State) (f : PwrSt → PwrSt) : (s.modPwr f).gws = s.gws := by cases s; simp only [State.modPwr]
@[simp] theorem State.modPwr_rpt (s : State) (f : PwrSt → PwrSt) : (s.modPwr f).rpt = s.rpt := by cases s; simp only [State.modPwr]
@[simp] theorem State.modPwr_mem (s : State) (f : PwrSt → PwrSt) : (s.modPwr f).mem = s.mem := by cases s; simp only [State.modPwr]
@[simp] theorem State.modPwr_fab (s : State) (f : PwrSt → PwrSt) : (s.modPwr f).fab = s.fab := by cases s; simp only [State.modPwr]
@[simp] theorem State.modPwr_moe (s : State) (f : PwrSt → PwrSt) : (s.modPwr f).moe = s.moe := by cases s; simp only [State.modPwr]
@[simp] theorem State.modPwr_serve (s : State) (f : PwrSt → PwrSt) : (s.modPwr f).serve = s.serve := by cases s; simp only [State.modPwr]
@[simp] theorem State.modPwr_sec (s : State) (f : PwrSt → PwrSt) : (s.modPwr f).sec = s.sec := by cases s; simp only [State.modPwr]
@[simp] theorem State.modPwr_stw (s : State) (f : PwrSt → PwrSt) : (s.modPwr f).stw = s.stw := by cases s; simp only [State.modPwr]
@[simp] theorem State.modPwr_rst (s : State) (f : PwrSt → PwrSt) : (s.modPwr f).rst = s.rst := by cases s; simp only [State.modPwr]
@[simp] theorem State.modPwr_freeCtr (s : State) (f : PwrSt → PwrSt) : (s.modPwr f).freeCtr = s.freeCtr := by cases s; simp only [State.modPwr]
@[simp] theorem State.modPwr_pending (s : State) (f : PwrSt → PwrSt) : (s.modPwr f).pending = s.pending := by cases s; simp only [State.modPwr]

@[simp] theorem State.setEvq_regs (s : State) (q : Nat) (l : List Rpt) : (s.setEvq q l).regs = s.regs := by cases s; simp only [State.setEvq]
@[simp] theorem State.setEvq_staging (s : State) (q : Nat) (l : List Rpt) : (s.setEvq q l).staging = s.staging := by cases s; simp only [State.setEvq]
@[simp] theorem State.setEvq_loft (s : State) (q : Nat) (l : List Rpt) : (s.setEvq q l).loft = s.loft := by cases s; simp only [State.setEvq]
@[simp] theorem State.setEvq_loftPsn (s : State) (q : Nat) (l : List Rpt) : (s.setEvq q l).loftPsn = s.loftPsn := by cases s; simp only [State.setEvq]
@[simp] theorem State.setEvq_tiles (s : State) (q : Nat) (l : List Rpt) : (s.setEvq q l).tiles = s.tiles := by cases s; simp only [State.setEvq]
@[simp] theorem State.setEvq_engs (s : State) (q : Nat) (l : List Rpt) : (s.setEvq q l).engs = s.engs := by cases s; simp only [State.setEvq]
@[simp] theorem State.setEvq_captures (s : State) (q : Nat) (l : List Rpt) : (s.setEvq q l).captures = s.captures := by cases s; simp only [State.setEvq]
@[simp] theorem State.setEvq_net (s : State) (q : Nat) (l : List Rpt) : (s.setEvq q l).net = s.net := by cases s; simp only [State.setEvq]
@[simp] theorem State.setEvq_gws (s : State) (q : Nat) (l : List Rpt) : (s.setEvq q l).gws = s.gws := by cases s; simp only [State.setEvq]
@[simp] theorem State.setEvq_rpt (s : State) (q : Nat) (l : List Rpt) : (s.setEvq q l).rpt = s.rpt := by cases s; simp only [State.setEvq]
@[simp] theorem State.setEvq_mem (s : State) (q : Nat) (l : List Rpt) : (s.setEvq q l).mem = s.mem := by cases s; simp only [State.setEvq]
@[simp] theorem State.setEvq_fab (s : State) (q : Nat) (l : List Rpt) : (s.setEvq q l).fab = s.fab := by cases s; simp only [State.setEvq]
@[simp] theorem State.setEvq_moe (s : State) (q : Nat) (l : List Rpt) : (s.setEvq q l).moe = s.moe := by cases s; simp only [State.setEvq]
@[simp] theorem State.setEvq_serve (s : State) (q : Nat) (l : List Rpt) : (s.setEvq q l).serve = s.serve := by cases s; simp only [State.setEvq]
@[simp] theorem State.setEvq_sec (s : State) (q : Nat) (l : List Rpt) : (s.setEvq q l).sec = s.sec := by cases s; simp only [State.setEvq]
@[simp] theorem State.setEvq_pwr (s : State) (q : Nat) (l : List Rpt) : (s.setEvq q l).pwr = s.pwr := by cases s; simp only [State.setEvq]
@[simp] theorem State.setEvq_rst (s : State) (q : Nat) (l : List Rpt) : (s.setEvq q l).rst = s.rst := by cases s; simp only [State.setEvq]
@[simp] theorem State.setEvq_freeCtr (s : State) (q : Nat) (l : List Rpt) : (s.setEvq q l).freeCtr = s.freeCtr := by cases s; simp only [State.setEvq]
@[simp] theorem State.setEvq_pending (s : State) (q : Nat) (l : List Rpt) : (s.setEvq q l).pending = s.pending := by cases s; simp only [State.setEvq]

@[simp] theorem State.setCtl_regs (s : State) (l : List CtlHop) : (s.setCtl l).regs = s.regs := by cases s; simp only [State.setCtl]
@[simp] theorem State.setCtl_staging (s : State) (l : List CtlHop) : (s.setCtl l).staging = s.staging := by cases s; simp only [State.setCtl]
@[simp] theorem State.setCtl_loft (s : State) (l : List CtlHop) : (s.setCtl l).loft = s.loft := by cases s; simp only [State.setCtl]
@[simp] theorem State.setCtl_loftPsn (s : State) (l : List CtlHop) : (s.setCtl l).loftPsn = s.loftPsn := by cases s; simp only [State.setCtl]
@[simp] theorem State.setCtl_tiles (s : State) (l : List CtlHop) : (s.setCtl l).tiles = s.tiles := by cases s; simp only [State.setCtl]
@[simp] theorem State.setCtl_engs (s : State) (l : List CtlHop) : (s.setCtl l).engs = s.engs := by cases s; simp only [State.setCtl]
@[simp] theorem State.setCtl_captures (s : State) (l : List CtlHop) : (s.setCtl l).captures = s.captures := by cases s; simp only [State.setCtl]
@[simp] theorem State.setCtl_gws (s : State) (l : List CtlHop) : (s.setCtl l).gws = s.gws := by cases s; simp only [State.setCtl]
@[simp] theorem State.setCtl_rpt (s : State) (l : List CtlHop) : (s.setCtl l).rpt = s.rpt := by cases s; simp only [State.setCtl]
@[simp] theorem State.setCtl_mem (s : State) (l : List CtlHop) : (s.setCtl l).mem = s.mem := by cases s; simp only [State.setCtl]
@[simp] theorem State.setCtl_fab (s : State) (l : List CtlHop) : (s.setCtl l).fab = s.fab := by cases s; simp only [State.setCtl]
@[simp] theorem State.setCtl_moe (s : State) (l : List CtlHop) : (s.setCtl l).moe = s.moe := by cases s; simp only [State.setCtl]
@[simp] theorem State.setCtl_serve (s : State) (l : List CtlHop) : (s.setCtl l).serve = s.serve := by cases s; simp only [State.setCtl]
@[simp] theorem State.setCtl_sec (s : State) (l : List CtlHop) : (s.setCtl l).sec = s.sec := by cases s; simp only [State.setCtl]
@[simp] theorem State.setCtl_stw (s : State) (l : List CtlHop) : (s.setCtl l).stw = s.stw := by cases s; simp only [State.setCtl]
@[simp] theorem State.setCtl_pwr (s : State) (l : List CtlHop) : (s.setCtl l).pwr = s.pwr := by cases s; simp only [State.setCtl]
@[simp] theorem State.setCtl_rst (s : State) (l : List CtlHop) : (s.setCtl l).rst = s.rst := by cases s; simp only [State.setCtl]
@[simp] theorem State.setCtl_freeCtr (s : State) (l : List CtlHop) : (s.setCtl l).freeCtr = s.freeCtr := by cases s; simp only [State.setCtl]
@[simp] theorem State.setCtl_pending (s : State) (l : List CtlHop) : (s.setCtl l).pending = s.pending := by cases s; simp only [State.setCtl]

@[simp] theorem State.ctlSend_regs (s : State) (x : CtlPkt) : (s.ctlSend x).regs = s.regs := by simp only [State.ctlSend, State.setCtl_regs]
@[simp] theorem State.ctlSend_staging (s : State) (x : CtlPkt) : (s.ctlSend x).staging = s.staging := by simp only [State.ctlSend, State.setCtl_staging]
@[simp] theorem State.ctlSend_loft (s : State) (x : CtlPkt) : (s.ctlSend x).loft = s.loft := by simp only [State.ctlSend, State.setCtl_loft]
@[simp] theorem State.ctlSend_loftPsn (s : State) (x : CtlPkt) : (s.ctlSend x).loftPsn = s.loftPsn := by simp only [State.ctlSend, State.setCtl_loftPsn]
@[simp] theorem State.ctlSend_tiles (s : State) (x : CtlPkt) : (s.ctlSend x).tiles = s.tiles := by simp only [State.ctlSend, State.setCtl_tiles]
@[simp] theorem State.ctlSend_engs (s : State) (x : CtlPkt) : (s.ctlSend x).engs = s.engs := by simp only [State.ctlSend, State.setCtl_engs]
@[simp] theorem State.ctlSend_captures (s : State) (x : CtlPkt) : (s.ctlSend x).captures = s.captures := by simp only [State.ctlSend, State.setCtl_captures]
@[simp] theorem State.ctlSend_gws (s : State) (x : CtlPkt) : (s.ctlSend x).gws = s.gws := by simp only [State.ctlSend, State.setCtl_gws]
@[simp] theorem State.ctlSend_rpt (s : State) (x : CtlPkt) : (s.ctlSend x).rpt = s.rpt := by simp only [State.ctlSend, State.setCtl_rpt]
@[simp] theorem State.ctlSend_mem (s : State) (x : CtlPkt) : (s.ctlSend x).mem = s.mem := by simp only [State.ctlSend, State.setCtl_mem]
@[simp] theorem State.ctlSend_fab (s : State) (x : CtlPkt) : (s.ctlSend x).fab = s.fab := by simp only [State.ctlSend, State.setCtl_fab]
@[simp] theorem State.ctlSend_moe (s : State) (x : CtlPkt) : (s.ctlSend x).moe = s.moe := by simp only [State.ctlSend, State.setCtl_moe]
@[simp] theorem State.ctlSend_serve (s : State) (x : CtlPkt) : (s.ctlSend x).serve = s.serve := by simp only [State.ctlSend, State.setCtl_serve]
@[simp] theorem State.ctlSend_sec (s : State) (x : CtlPkt) : (s.ctlSend x).sec = s.sec := by simp only [State.ctlSend, State.setCtl_sec]
@[simp] theorem State.ctlSend_stw (s : State) (x : CtlPkt) : (s.ctlSend x).stw = s.stw := by simp only [State.ctlSend, State.setCtl_stw]
@[simp] theorem State.ctlSend_pwr (s : State) (x : CtlPkt) : (s.ctlSend x).pwr = s.pwr := by simp only [State.ctlSend, State.setCtl_pwr]
@[simp] theorem State.ctlSend_rst (s : State) (x : CtlPkt) : (s.ctlSend x).rst = s.rst := by simp only [State.ctlSend, State.setCtl_rst]
@[simp] theorem State.ctlSend_freeCtr (s : State) (x : CtlPkt) : (s.ctlSend x).freeCtr = s.freeCtr := by simp only [State.ctlSend, State.setCtl_freeCtr]
@[simp] theorem State.ctlSend_pending (s : State) (x : CtlPkt) : (s.ctlSend x).pending = s.pending := by simp only [State.ctlSend, State.setCtl_pending]

@[simp] theorem State.ctlGone_regs (s : State) (x : CtlPkt) : (s.ctlGone x).regs = s.regs := by simp only [State.ctlGone, State.setCtl_regs]
@[simp] theorem State.ctlGone_staging (s : State) (x : CtlPkt) : (s.ctlGone x).staging = s.staging := by simp only [State.ctlGone, State.setCtl_staging]
@[simp] theorem State.ctlGone_loft (s : State) (x : CtlPkt) : (s.ctlGone x).loft = s.loft := by simp only [State.ctlGone, State.setCtl_loft]
@[simp] theorem State.ctlGone_loftPsn (s : State) (x : CtlPkt) : (s.ctlGone x).loftPsn = s.loftPsn := by simp only [State.ctlGone, State.setCtl_loftPsn]
@[simp] theorem State.ctlGone_tiles (s : State) (x : CtlPkt) : (s.ctlGone x).tiles = s.tiles := by simp only [State.ctlGone, State.setCtl_tiles]
@[simp] theorem State.ctlGone_engs (s : State) (x : CtlPkt) : (s.ctlGone x).engs = s.engs := by simp only [State.ctlGone, State.setCtl_engs]
@[simp] theorem State.ctlGone_captures (s : State) (x : CtlPkt) : (s.ctlGone x).captures = s.captures := by simp only [State.ctlGone, State.setCtl_captures]
@[simp] theorem State.ctlGone_gws (s : State) (x : CtlPkt) : (s.ctlGone x).gws = s.gws := by simp only [State.ctlGone, State.setCtl_gws]
@[simp] theorem State.ctlGone_rpt (s : State) (x : CtlPkt) : (s.ctlGone x).rpt = s.rpt := by simp only [State.ctlGone, State.setCtl_rpt]
@[simp] theorem State.ctlGone_mem (s : State) (x : CtlPkt) : (s.ctlGone x).mem = s.mem := by simp only [State.ctlGone, State.setCtl_mem]
@[simp] theorem State.ctlGone_fab (s : State) (x : CtlPkt) : (s.ctlGone x).fab = s.fab := by simp only [State.ctlGone, State.setCtl_fab]
@[simp] theorem State.ctlGone_moe (s : State) (x : CtlPkt) : (s.ctlGone x).moe = s.moe := by simp only [State.ctlGone, State.setCtl_moe]
@[simp] theorem State.ctlGone_serve (s : State) (x : CtlPkt) : (s.ctlGone x).serve = s.serve := by simp only [State.ctlGone, State.setCtl_serve]
@[simp] theorem State.ctlGone_sec (s : State) (x : CtlPkt) : (s.ctlGone x).sec = s.sec := by simp only [State.ctlGone, State.setCtl_sec]
@[simp] theorem State.ctlGone_stw (s : State) (x : CtlPkt) : (s.ctlGone x).stw = s.stw := by simp only [State.ctlGone, State.setCtl_stw]
@[simp] theorem State.ctlGone_pwr (s : State) (x : CtlPkt) : (s.ctlGone x).pwr = s.pwr := by simp only [State.ctlGone, State.setCtl_pwr]
@[simp] theorem State.ctlGone_rst (s : State) (x : CtlPkt) : (s.ctlGone x).rst = s.rst := by simp only [State.ctlGone, State.setCtl_rst]
@[simp] theorem State.ctlGone_freeCtr (s : State) (x : CtlPkt) : (s.ctlGone x).freeCtr = s.freeCtr := by simp only [State.ctlGone, State.setCtl_freeCtr]
@[simp] theorem State.ctlGone_pending (s : State) (x : CtlPkt) : (s.ctlGone x).pending = s.pending := by simp only [State.ctlGone, State.setCtl_pending]

@[simp] theorem State.setOut_regs (s : State) (k : Nat) (x : OutSt) : (s.setOut k x).regs = s.regs := by cases s; simp only [State.setOut]
@[simp] theorem State.setOut_staging (s : State) (k : Nat) (x : OutSt) : (s.setOut k x).staging = s.staging := by cases s; simp only [State.setOut]
@[simp] theorem State.setOut_loft (s : State) (k : Nat) (x : OutSt) : (s.setOut k x).loft = s.loft := by cases s; simp only [State.setOut]
@[simp] theorem State.setOut_loftPsn (s : State) (k : Nat) (x : OutSt) : (s.setOut k x).loftPsn = s.loftPsn := by cases s; simp only [State.setOut]
@[simp] theorem State.setOut_tiles (s : State) (k : Nat) (x : OutSt) : (s.setOut k x).tiles = s.tiles := by cases s; simp only [State.setOut]
@[simp] theorem State.setOut_engs (s : State) (k : Nat) (x : OutSt) : (s.setOut k x).engs = s.engs := by cases s; simp only [State.setOut]
@[simp] theorem State.setOut_captures (s : State) (k : Nat) (x : OutSt) : (s.setOut k x).captures = s.captures := by cases s; simp only [State.setOut]
@[simp] theorem State.setOut_gws (s : State) (k : Nat) (x : OutSt) : (s.setOut k x).gws = s.gws := by cases s; simp only [State.setOut]
@[simp] theorem State.setOut_rpt (s : State) (k : Nat) (x : OutSt) : (s.setOut k x).rpt = s.rpt := by cases s; simp only [State.setOut]
@[simp] theorem State.setOut_mem (s : State) (k : Nat) (x : OutSt) : (s.setOut k x).mem = s.mem := by cases s; simp only [State.setOut]
@[simp] theorem State.setOut_fab (s : State) (k : Nat) (x : OutSt) : (s.setOut k x).fab = s.fab := by cases s; simp only [State.setOut]
@[simp] theorem State.setOut_moe (s : State) (k : Nat) (x : OutSt) : (s.setOut k x).moe = s.moe := by cases s; simp only [State.setOut]
@[simp] theorem State.setOut_serve (s : State) (k : Nat) (x : OutSt) : (s.setOut k x).serve = s.serve := by cases s; simp only [State.setOut]
@[simp] theorem State.setOut_sec (s : State) (k : Nat) (x : OutSt) : (s.setOut k x).sec = s.sec := by cases s; simp only [State.setOut]
@[simp] theorem State.setOut_stw (s : State) (k : Nat) (x : OutSt) : (s.setOut k x).stw = s.stw := by cases s; simp only [State.setOut]
@[simp] theorem State.setOut_pwr (s : State) (k : Nat) (x : OutSt) : (s.setOut k x).pwr = s.pwr := by cases s; simp only [State.setOut]
@[simp] theorem State.setOut_rst (s : State) (k : Nat) (x : OutSt) : (s.setOut k x).rst = s.rst := by cases s; simp only [State.setOut]
@[simp] theorem State.setOut_freeCtr (s : State) (k : Nat) (x : OutSt) : (s.setOut k x).freeCtr = s.freeCtr := by cases s; simp only [State.setOut]
@[simp] theorem State.setOut_pending (s : State) (k : Nat) (x : OutSt) : (s.setOut k x).pending = s.pending := by cases s; simp only [State.setOut]

@[simp] theorem State.setInq_regs (s : State) (k : Nat) (l : List BUnit) : (s.setInq k l).regs = s.regs := by cases s; simp only [State.setInq]
@[simp] theorem State.setInq_staging (s : State) (k : Nat) (l : List BUnit) : (s.setInq k l).staging = s.staging := by cases s; simp only [State.setInq]
@[simp] theorem State.setInq_loft (s : State) (k : Nat) (l : List BUnit) : (s.setInq k l).loft = s.loft := by cases s; simp only [State.setInq]
@[simp] theorem State.setInq_loftPsn (s : State) (k : Nat) (l : List BUnit) : (s.setInq k l).loftPsn = s.loftPsn := by cases s; simp only [State.setInq]
@[simp] theorem State.setInq_tiles (s : State) (k : Nat) (l : List BUnit) : (s.setInq k l).tiles = s.tiles := by cases s; simp only [State.setInq]
@[simp] theorem State.setInq_engs (s : State) (k : Nat) (l : List BUnit) : (s.setInq k l).engs = s.engs := by cases s; simp only [State.setInq]
@[simp] theorem State.setInq_captures (s : State) (k : Nat) (l : List BUnit) : (s.setInq k l).captures = s.captures := by cases s; simp only [State.setInq]
@[simp] theorem State.setInq_gws (s : State) (k : Nat) (l : List BUnit) : (s.setInq k l).gws = s.gws := by cases s; simp only [State.setInq]
@[simp] theorem State.setInq_rpt (s : State) (k : Nat) (l : List BUnit) : (s.setInq k l).rpt = s.rpt := by cases s; simp only [State.setInq]
@[simp] theorem State.setInq_mem (s : State) (k : Nat) (l : List BUnit) : (s.setInq k l).mem = s.mem := by cases s; simp only [State.setInq]
@[simp] theorem State.setInq_fab (s : State) (k : Nat) (l : List BUnit) : (s.setInq k l).fab = s.fab := by cases s; simp only [State.setInq]
@[simp] theorem State.setInq_moe (s : State) (k : Nat) (l : List BUnit) : (s.setInq k l).moe = s.moe := by cases s; simp only [State.setInq]
@[simp] theorem State.setInq_serve (s : State) (k : Nat) (l : List BUnit) : (s.setInq k l).serve = s.serve := by cases s; simp only [State.setInq]
@[simp] theorem State.setInq_sec (s : State) (k : Nat) (l : List BUnit) : (s.setInq k l).sec = s.sec := by cases s; simp only [State.setInq]
@[simp] theorem State.setInq_stw (s : State) (k : Nat) (l : List BUnit) : (s.setInq k l).stw = s.stw := by cases s; simp only [State.setInq]
@[simp] theorem State.setInq_pwr (s : State) (k : Nat) (l : List BUnit) : (s.setInq k l).pwr = s.pwr := by cases s; simp only [State.setInq]
@[simp] theorem State.setInq_rst (s : State) (k : Nat) (l : List BUnit) : (s.setInq k l).rst = s.rst := by cases s; simp only [State.setInq]
@[simp] theorem State.setInq_freeCtr (s : State) (k : Nat) (l : List BUnit) : (s.setInq k l).freeCtr = s.freeCtr := by cases s; simp only [State.setInq]
@[simp] theorem State.setInq_pending (s : State) (k : Nat) (l : List BUnit) : (s.setInq k l).pending = s.pending := by cases s; simp only [State.setInq]

@[simp] theorem State.setGw_regs (s : State) (d : Nat) (x : GwSt) : (s.setGw d x).regs = s.regs := by cases s; simp only [State.setGw]
@[simp] theorem State.setGw_staging (s : State) (d : Nat) (x : GwSt) : (s.setGw d x).staging = s.staging := by cases s; simp only [State.setGw]
@[simp] theorem State.setGw_loft (s : State) (d : Nat) (x : GwSt) : (s.setGw d x).loft = s.loft := by cases s; simp only [State.setGw]
@[simp] theorem State.setGw_loftPsn (s : State) (d : Nat) (x : GwSt) : (s.setGw d x).loftPsn = s.loftPsn := by cases s; simp only [State.setGw]
@[simp] theorem State.setGw_tiles (s : State) (d : Nat) (x : GwSt) : (s.setGw d x).tiles = s.tiles := by cases s; simp only [State.setGw]
@[simp] theorem State.setGw_engs (s : State) (d : Nat) (x : GwSt) : (s.setGw d x).engs = s.engs := by cases s; simp only [State.setGw]
@[simp] theorem State.setGw_captures (s : State) (d : Nat) (x : GwSt) : (s.setGw d x).captures = s.captures := by cases s; simp only [State.setGw]
@[simp] theorem State.setGw_net (s : State) (d : Nat) (x : GwSt) : (s.setGw d x).net = s.net := by cases s; simp only [State.setGw]
@[simp] theorem State.setGw_rpt (s : State) (d : Nat) (x : GwSt) : (s.setGw d x).rpt = s.rpt := by cases s; simp only [State.setGw]
@[simp] theorem State.setGw_mem (s : State) (d : Nat) (x : GwSt) : (s.setGw d x).mem = s.mem := by cases s; simp only [State.setGw]
@[simp] theorem State.setGw_fab (s : State) (d : Nat) (x : GwSt) : (s.setGw d x).fab = s.fab := by cases s; simp only [State.setGw]
@[simp] theorem State.setGw_moe (s : State) (d : Nat) (x : GwSt) : (s.setGw d x).moe = s.moe := by cases s; simp only [State.setGw]
@[simp] theorem State.setGw_serve (s : State) (d : Nat) (x : GwSt) : (s.setGw d x).serve = s.serve := by cases s; simp only [State.setGw]
@[simp] theorem State.setGw_sec (s : State) (d : Nat) (x : GwSt) : (s.setGw d x).sec = s.sec := by cases s; simp only [State.setGw]
@[simp] theorem State.setGw_stw (s : State) (d : Nat) (x : GwSt) : (s.setGw d x).stw = s.stw := by cases s; simp only [State.setGw]
@[simp] theorem State.setGw_pwr (s : State) (d : Nat) (x : GwSt) : (s.setGw d x).pwr = s.pwr := by cases s; simp only [State.setGw]
@[simp] theorem State.setGw_rst (s : State) (d : Nat) (x : GwSt) : (s.setGw d x).rst = s.rst := by cases s; simp only [State.setGw]
@[simp] theorem State.setGw_freeCtr (s : State) (d : Nat) (x : GwSt) : (s.setGw d x).freeCtr = s.freeCtr := by cases s; simp only [State.setGw]
@[simp] theorem State.setGw_pending (s : State) (d : Nat) (x : GwSt) : (s.setGw d x).pending = s.pending := by cases s; simp only [State.setGw]

@[simp] theorem State.setMapEnt_regs (s : State) (pg : Nat) (e : MapEnt) : (s.setMapEnt pg e).regs = s.regs := by cases s; simp only [State.setMapEnt]
@[simp] theorem State.setMapEnt_staging (s : State) (pg : Nat) (e : MapEnt) : (s.setMapEnt pg e).staging = s.staging := by cases s; simp only [State.setMapEnt]
@[simp] theorem State.setMapEnt_loft (s : State) (pg : Nat) (e : MapEnt) : (s.setMapEnt pg e).loft = s.loft := by cases s; simp only [State.setMapEnt]
@[simp] theorem State.setMapEnt_loftPsn (s : State) (pg : Nat) (e : MapEnt) : (s.setMapEnt pg e).loftPsn = s.loftPsn := by cases s; simp only [State.setMapEnt]
@[simp] theorem State.setMapEnt_tiles (s : State) (pg : Nat) (e : MapEnt) : (s.setMapEnt pg e).tiles = s.tiles := by cases s; simp only [State.setMapEnt]
@[simp] theorem State.setMapEnt_engs (s : State) (pg : Nat) (e : MapEnt) : (s.setMapEnt pg e).engs = s.engs := by cases s; simp only [State.setMapEnt]
@[simp] theorem State.setMapEnt_captures (s : State) (pg : Nat) (e : MapEnt) : (s.setMapEnt pg e).captures = s.captures := by cases s; simp only [State.setMapEnt]
@[simp] theorem State.setMapEnt_net (s : State) (pg : Nat) (e : MapEnt) : (s.setMapEnt pg e).net = s.net := by cases s; simp only [State.setMapEnt]
@[simp] theorem State.setMapEnt_gws (s : State) (pg : Nat) (e : MapEnt) : (s.setMapEnt pg e).gws = s.gws := by cases s; simp only [State.setMapEnt]
@[simp] theorem State.setMapEnt_rpt (s : State) (pg : Nat) (e : MapEnt) : (s.setMapEnt pg e).rpt = s.rpt := by cases s; simp only [State.setMapEnt]
@[simp] theorem State.setMapEnt_fab (s : State) (pg : Nat) (e : MapEnt) : (s.setMapEnt pg e).fab = s.fab := by cases s; simp only [State.setMapEnt]
@[simp] theorem State.setMapEnt_moe (s : State) (pg : Nat) (e : MapEnt) : (s.setMapEnt pg e).moe = s.moe := by cases s; simp only [State.setMapEnt]
@[simp] theorem State.setMapEnt_serve (s : State) (pg : Nat) (e : MapEnt) : (s.setMapEnt pg e).serve = s.serve := by cases s; simp only [State.setMapEnt]
@[simp] theorem State.setMapEnt_sec (s : State) (pg : Nat) (e : MapEnt) : (s.setMapEnt pg e).sec = s.sec := by cases s; simp only [State.setMapEnt]
@[simp] theorem State.setMapEnt_stw (s : State) (pg : Nat) (e : MapEnt) : (s.setMapEnt pg e).stw = s.stw := by cases s; simp only [State.setMapEnt]
@[simp] theorem State.setMapEnt_pwr (s : State) (pg : Nat) (e : MapEnt) : (s.setMapEnt pg e).pwr = s.pwr := by cases s; simp only [State.setMapEnt]
@[simp] theorem State.setMapEnt_rst (s : State) (pg : Nat) (e : MapEnt) : (s.setMapEnt pg e).rst = s.rst := by cases s; simp only [State.setMapEnt]
@[simp] theorem State.setMapEnt_freeCtr (s : State) (pg : Nat) (e : MapEnt) : (s.setMapEnt pg e).freeCtr = s.freeCtr := by cases s; simp only [State.setMapEnt]
@[simp] theorem State.setMapEnt_pending (s : State) (pg : Nat) (e : MapEnt) : (s.setMapEnt pg e).pending = s.pending := by cases s; simp only [State.setMapEnt]

@[simp] theorem State.setBurst_regs (s : State) (k : Nat) (b : Option Burst) : (s.setBurst k b).regs = s.regs := by cases s; simp only [State.setBurst]
@[simp] theorem State.setBurst_staging (s : State) (k : Nat) (b : Option Burst) : (s.setBurst k b).staging = s.staging := by cases s; simp only [State.setBurst]
@[simp] theorem State.setBurst_loft (s : State) (k : Nat) (b : Option Burst) : (s.setBurst k b).loft = s.loft := by cases s; simp only [State.setBurst]
@[simp] theorem State.setBurst_loftPsn (s : State) (k : Nat) (b : Option Burst) : (s.setBurst k b).loftPsn = s.loftPsn := by cases s; simp only [State.setBurst]
@[simp] theorem State.setBurst_tiles (s : State) (k : Nat) (b : Option Burst) : (s.setBurst k b).tiles = s.tiles := by cases s; simp only [State.setBurst]
@[simp] theorem State.setBurst_engs (s : State) (k : Nat) (b : Option Burst) : (s.setBurst k b).engs = s.engs := by cases s; simp only [State.setBurst]
@[simp] theorem State.setBurst_captures (s : State) (k : Nat) (b : Option Burst) : (s.setBurst k b).captures = s.captures := by cases s; simp only [State.setBurst]
@[simp] theorem State.setBurst_net (s : State) (k : Nat) (b : Option Burst) : (s.setBurst k b).net = s.net := by cases s; simp only [State.setBurst]
@[simp] theorem State.setBurst_gws (s : State) (k : Nat) (b : Option Burst) : (s.setBurst k b).gws = s.gws := by cases s; simp only [State.setBurst]
@[simp] theorem State.setBurst_rpt (s : State) (k : Nat) (b : Option Burst) : (s.setBurst k b).rpt = s.rpt := by cases s; simp only [State.setBurst]
@[simp] theorem State.setBurst_fab (s : State) (k : Nat) (b : Option Burst) : (s.setBurst k b).fab = s.fab := by cases s; simp only [State.setBurst]
@[simp] theorem State.setBurst_moe (s : State) (k : Nat) (b : Option Burst) : (s.setBurst k b).moe = s.moe := by cases s; simp only [State.setBurst]
@[simp] theorem State.setBurst_serve (s : State) (k : Nat) (b : Option Burst) : (s.setBurst k b).serve = s.serve := by cases s; simp only [State.setBurst]
@[simp] theorem State.setBurst_sec (s : State) (k : Nat) (b : Option Burst) : (s.setBurst k b).sec = s.sec := by cases s; simp only [State.setBurst]
@[simp] theorem State.setBurst_stw (s : State) (k : Nat) (b : Option Burst) : (s.setBurst k b).stw = s.stw := by cases s; simp only [State.setBurst]
@[simp] theorem State.setBurst_pwr (s : State) (k : Nat) (b : Option Burst) : (s.setBurst k b).pwr = s.pwr := by cases s; simp only [State.setBurst]
@[simp] theorem State.setBurst_rst (s : State) (k : Nat) (b : Option Burst) : (s.setBurst k b).rst = s.rst := by cases s; simp only [State.setBurst]
@[simp] theorem State.setBurst_freeCtr (s : State) (k : Nat) (b : Option Burst) : (s.setBurst k b).freeCtr = s.freeCtr := by cases s; simp only [State.setBurst]
@[simp] theorem State.setBurst_pending (s : State) (k : Nat) (b : Option Burst) : (s.setBurst k b).pending = s.pending := by cases s; simp only [State.setBurst]

@[simp] theorem State.setLink_regs (s : State) (k : Nat) (x : LinkSt) : (s.setLink k x).regs = s.regs := by cases s; simp only [State.setLink]
@[simp] theorem State.setLink_staging (s : State) (k : Nat) (x : LinkSt) : (s.setLink k x).staging = s.staging := by cases s; simp only [State.setLink]
@[simp] theorem State.setLink_loft (s : State) (k : Nat) (x : LinkSt) : (s.setLink k x).loft = s.loft := by cases s; simp only [State.setLink]
@[simp] theorem State.setLink_loftPsn (s : State) (k : Nat) (x : LinkSt) : (s.setLink k x).loftPsn = s.loftPsn := by cases s; simp only [State.setLink]
@[simp] theorem State.setLink_tiles (s : State) (k : Nat) (x : LinkSt) : (s.setLink k x).tiles = s.tiles := by cases s; simp only [State.setLink]
@[simp] theorem State.setLink_engs (s : State) (k : Nat) (x : LinkSt) : (s.setLink k x).engs = s.engs := by cases s; simp only [State.setLink]
@[simp] theorem State.setLink_captures (s : State) (k : Nat) (x : LinkSt) : (s.setLink k x).captures = s.captures := by cases s; simp only [State.setLink]
@[simp] theorem State.setLink_net (s : State) (k : Nat) (x : LinkSt) : (s.setLink k x).net = s.net := by cases s; simp only [State.setLink]
@[simp] theorem State.setLink_gws (s : State) (k : Nat) (x : LinkSt) : (s.setLink k x).gws = s.gws := by cases s; simp only [State.setLink]
@[simp] theorem State.setLink_rpt (s : State) (k : Nat) (x : LinkSt) : (s.setLink k x).rpt = s.rpt := by cases s; simp only [State.setLink]
@[simp] theorem State.setLink_mem (s : State) (k : Nat) (x : LinkSt) : (s.setLink k x).mem = s.mem := by cases s; simp only [State.setLink]
@[simp] theorem State.setLink_moe (s : State) (k : Nat) (x : LinkSt) : (s.setLink k x).moe = s.moe := by cases s; simp only [State.setLink]
@[simp] theorem State.setLink_serve (s : State) (k : Nat) (x : LinkSt) : (s.setLink k x).serve = s.serve := by cases s; simp only [State.setLink]
@[simp] theorem State.setLink_sec (s : State) (k : Nat) (x : LinkSt) : (s.setLink k x).sec = s.sec := by cases s; simp only [State.setLink]
@[simp] theorem State.setLink_stw (s : State) (k : Nat) (x : LinkSt) : (s.setLink k x).stw = s.stw := by cases s; simp only [State.setLink]
@[simp] theorem State.setLink_pwr (s : State) (k : Nat) (x : LinkSt) : (s.setLink k x).pwr = s.pwr := by cases s; simp only [State.setLink]
@[simp] theorem State.setLink_rst (s : State) (k : Nat) (x : LinkSt) : (s.setLink k x).rst = s.rst := by cases s; simp only [State.setLink]
@[simp] theorem State.setLink_freeCtr (s : State) (k : Nat) (x : LinkSt) : (s.setLink k x).freeCtr = s.freeCtr := by cases s; simp only [State.setLink]
@[simp] theorem State.setLink_pending (s : State) (k : Nat) (x : LinkSt) : (s.setLink k x).pending = s.pending := by cases s; simp only [State.setLink]

@[simp] theorem State.setRemotes_regs (s : State) (l : List Remote) : (s.setRemotes l).regs = s.regs := by cases s; simp only [State.setRemotes]
@[simp] theorem State.setRemotes_staging (s : State) (l : List Remote) : (s.setRemotes l).staging = s.staging := by cases s; simp only [State.setRemotes]
@[simp] theorem State.setRemotes_loft (s : State) (l : List Remote) : (s.setRemotes l).loft = s.loft := by cases s; simp only [State.setRemotes]
@[simp] theorem State.setRemotes_loftPsn (s : State) (l : List Remote) : (s.setRemotes l).loftPsn = s.loftPsn := by cases s; simp only [State.setRemotes]
@[simp] theorem State.setRemotes_tiles (s : State) (l : List Remote) : (s.setRemotes l).tiles = s.tiles := by cases s; simp only [State.setRemotes]
@[simp] theorem State.setRemotes_engs (s : State) (l : List Remote) : (s.setRemotes l).engs = s.engs := by cases s; simp only [State.setRemotes]
@[simp] theorem State.setRemotes_captures (s : State) (l : List Remote) : (s.setRemotes l).captures = s.captures := by cases s; simp only [State.setRemotes]
@[simp] theorem State.setRemotes_net (s : State) (l : List Remote) : (s.setRemotes l).net = s.net := by cases s; simp only [State.setRemotes]
@[simp] theorem State.setRemotes_gws (s : State) (l : List Remote) : (s.setRemotes l).gws = s.gws := by cases s; simp only [State.setRemotes]
@[simp] theorem State.setRemotes_rpt (s : State) (l : List Remote) : (s.setRemotes l).rpt = s.rpt := by cases s; simp only [State.setRemotes]
@[simp] theorem State.setRemotes_mem (s : State) (l : List Remote) : (s.setRemotes l).mem = s.mem := by cases s; simp only [State.setRemotes]
@[simp] theorem State.setRemotes_moe (s : State) (l : List Remote) : (s.setRemotes l).moe = s.moe := by cases s; simp only [State.setRemotes]
@[simp] theorem State.setRemotes_serve (s : State) (l : List Remote) : (s.setRemotes l).serve = s.serve := by cases s; simp only [State.setRemotes]
@[simp] theorem State.setRemotes_sec (s : State) (l : List Remote) : (s.setRemotes l).sec = s.sec := by cases s; simp only [State.setRemotes]
@[simp] theorem State.setRemotes_stw (s : State) (l : List Remote) : (s.setRemotes l).stw = s.stw := by cases s; simp only [State.setRemotes]
@[simp] theorem State.setRemotes_pwr (s : State) (l : List Remote) : (s.setRemotes l).pwr = s.pwr := by cases s; simp only [State.setRemotes]
@[simp] theorem State.setRemotes_rst (s : State) (l : List Remote) : (s.setRemotes l).rst = s.rst := by cases s; simp only [State.setRemotes]
@[simp] theorem State.setRemotes_freeCtr (s : State) (l : List Remote) : (s.setRemotes l).freeCtr = s.freeCtr := by cases s; simp only [State.setRemotes]
@[simp] theorem State.setRemotes_pending (s : State) (l : List Remote) : (s.setRemotes l).pending = s.pending := by cases s; simp only [State.setRemotes]

@[simp] theorem State.setRuns_regs (s : State) (l : List Run) : (s.setRuns l).regs = s.regs := by cases s; simp only [State.setRuns]
@[simp] theorem State.setRuns_staging (s : State) (l : List Run) : (s.setRuns l).staging = s.staging := by cases s; simp only [State.setRuns]
@[simp] theorem State.setRuns_loft (s : State) (l : List Run) : (s.setRuns l).loft = s.loft := by cases s; simp only [State.setRuns]
@[simp] theorem State.setRuns_loftPsn (s : State) (l : List Run) : (s.setRuns l).loftPsn = s.loftPsn := by cases s; simp only [State.setRuns]
@[simp] theorem State.setRuns_tiles (s : State) (l : List Run) : (s.setRuns l).tiles = s.tiles := by cases s; simp only [State.setRuns]
@[simp] theorem State.setRuns_engs (s : State) (l : List Run) : (s.setRuns l).engs = s.engs := by cases s; simp only [State.setRuns]
@[simp] theorem State.setRuns_captures (s : State) (l : List Run) : (s.setRuns l).captures = s.captures := by cases s; simp only [State.setRuns]
@[simp] theorem State.setRuns_net (s : State) (l : List Run) : (s.setRuns l).net = s.net := by cases s; simp only [State.setRuns]
@[simp] theorem State.setRuns_gws (s : State) (l : List Run) : (s.setRuns l).gws = s.gws := by cases s; simp only [State.setRuns]
@[simp] theorem State.setRuns_rpt (s : State) (l : List Run) : (s.setRuns l).rpt = s.rpt := by cases s; simp only [State.setRuns]
@[simp] theorem State.setRuns_mem (s : State) (l : List Run) : (s.setRuns l).mem = s.mem := by cases s; simp only [State.setRuns]
@[simp] theorem State.setRuns_fab (s : State) (l : List Run) : (s.setRuns l).fab = s.fab := by cases s; simp only [State.setRuns]
@[simp] theorem State.setRuns_serve (s : State) (l : List Run) : (s.setRuns l).serve = s.serve := by cases s; simp only [State.setRuns]
@[simp] theorem State.setRuns_sec (s : State) (l : List Run) : (s.setRuns l).sec = s.sec := by cases s; simp only [State.setRuns]
@[simp] theorem State.setRuns_stw (s : State) (l : List Run) : (s.setRuns l).stw = s.stw := by cases s; simp only [State.setRuns]
@[simp] theorem State.setRuns_pwr (s : State) (l : List Run) : (s.setRuns l).pwr = s.pwr := by cases s; simp only [State.setRuns]
@[simp] theorem State.setRuns_rst (s : State) (l : List Run) : (s.setRuns l).rst = s.rst := by cases s; simp only [State.setRuns]
@[simp] theorem State.setRuns_freeCtr (s : State) (l : List Run) : (s.setRuns l).freeCtr = s.freeCtr := by cases s; simp only [State.setRuns]
@[simp] theorem State.setRuns_pending (s : State) (l : List Run) : (s.setRuns l).pending = s.pending := by cases s; simp only [State.setRuns]

@[simp] theorem State.modStep_regs (s : State) (p : Nat) (f : StepSt → StepSt) : (s.modStep p f).regs = s.regs := by cases s; simp only [State.modStep]
@[simp] theorem State.modStep_staging (s : State) (p : Nat) (f : StepSt → StepSt) : (s.modStep p f).staging = s.staging := by cases s; simp only [State.modStep]
@[simp] theorem State.modStep_loft (s : State) (p : Nat) (f : StepSt → StepSt) : (s.modStep p f).loft = s.loft := by cases s; simp only [State.modStep]
@[simp] theorem State.modStep_loftPsn (s : State) (p : Nat) (f : StepSt → StepSt) : (s.modStep p f).loftPsn = s.loftPsn := by cases s; simp only [State.modStep]
@[simp] theorem State.modStep_tiles (s : State) (p : Nat) (f : StepSt → StepSt) : (s.modStep p f).tiles = s.tiles := by cases s; simp only [State.modStep]
@[simp] theorem State.modStep_engs (s : State) (p : Nat) (f : StepSt → StepSt) : (s.modStep p f).engs = s.engs := by cases s; simp only [State.modStep]
@[simp] theorem State.modStep_captures (s : State) (p : Nat) (f : StepSt → StepSt) : (s.modStep p f).captures = s.captures := by cases s; simp only [State.modStep]
@[simp] theorem State.modStep_net (s : State) (p : Nat) (f : StepSt → StepSt) : (s.modStep p f).net = s.net := by cases s; simp only [State.modStep]
@[simp] theorem State.modStep_gws (s : State) (p : Nat) (f : StepSt → StepSt) : (s.modStep p f).gws = s.gws := by cases s; simp only [State.modStep]
@[simp] theorem State.modStep_rpt (s : State) (p : Nat) (f : StepSt → StepSt) : (s.modStep p f).rpt = s.rpt := by cases s; simp only [State.modStep]
@[simp] theorem State.modStep_mem (s : State) (p : Nat) (f : StepSt → StepSt) : (s.modStep p f).mem = s.mem := by cases s; simp only [State.modStep]
@[simp] theorem State.modStep_fab (s : State) (p : Nat) (f : StepSt → StepSt) : (s.modStep p f).fab = s.fab := by cases s; simp only [State.modStep]
@[simp] theorem State.modStep_serve (s : State) (p : Nat) (f : StepSt → StepSt) : (s.modStep p f).serve = s.serve := by cases s; simp only [State.modStep]
@[simp] theorem State.modStep_sec (s : State) (p : Nat) (f : StepSt → StepSt) : (s.modStep p f).sec = s.sec := by cases s; simp only [State.modStep]
@[simp] theorem State.modStep_stw (s : State) (p : Nat) (f : StepSt → StepSt) : (s.modStep p f).stw = s.stw := by cases s; simp only [State.modStep]
@[simp] theorem State.modStep_pwr (s : State) (p : Nat) (f : StepSt → StepSt) : (s.modStep p f).pwr = s.pwr := by cases s; simp only [State.modStep]
@[simp] theorem State.modStep_rst (s : State) (p : Nat) (f : StepSt → StepSt) : (s.modStep p f).rst = s.rst := by cases s; simp only [State.modStep]
@[simp] theorem State.modStep_freeCtr (s : State) (p : Nat) (f : StepSt → StepSt) : (s.modStep p f).freeCtr = s.freeCtr := by cases s; simp only [State.modStep]
@[simp] theorem State.modStep_pending (s : State) (p : Nat) (f : StepSt → StepSt) : (s.modStep p f).pending = s.pending := by cases s; simp only [State.modStep]

@[simp] theorem State.modRte_regs (s : State) (d : Nat) (f : RteSt → RteSt) : (s.modRte d f).regs = s.regs := by cases s; simp only [State.modRte]
@[simp] theorem State.modRte_staging (s : State) (d : Nat) (f : RteSt → RteSt) : (s.modRte d f).staging = s.staging := by cases s; simp only [State.modRte]
@[simp] theorem State.modRte_loft (s : State) (d : Nat) (f : RteSt → RteSt) : (s.modRte d f).loft = s.loft := by cases s; simp only [State.modRte]
@[simp] theorem State.modRte_loftPsn (s : State) (d : Nat) (f : RteSt → RteSt) : (s.modRte d f).loftPsn = s.loftPsn := by cases s; simp only [State.modRte]
@[simp] theorem State.modRte_tiles (s : State) (d : Nat) (f : RteSt → RteSt) : (s.modRte d f).tiles = s.tiles := by cases s; simp only [State.modRte]
@[simp] theorem State.modRte_engs (s : State) (d : Nat) (f : RteSt → RteSt) : (s.modRte d f).engs = s.engs := by cases s; simp only [State.modRte]
@[simp] theorem State.modRte_captures (s : State) (d : Nat) (f : RteSt → RteSt) : (s.modRte d f).captures = s.captures := by cases s; simp only [State.modRte]
@[simp] theorem State.modRte_net (s : State) (d : Nat) (f : RteSt → RteSt) : (s.modRte d f).net = s.net := by cases s; simp only [State.modRte]
@[simp] theorem State.modRte_gws (s : State) (d : Nat) (f : RteSt → RteSt) : (s.modRte d f).gws = s.gws := by cases s; simp only [State.modRte]
@[simp] theorem State.modRte_rpt (s : State) (d : Nat) (f : RteSt → RteSt) : (s.modRte d f).rpt = s.rpt := by cases s; simp only [State.modRte]
@[simp] theorem State.modRte_mem (s : State) (d : Nat) (f : RteSt → RteSt) : (s.modRte d f).mem = s.mem := by cases s; simp only [State.modRte]
@[simp] theorem State.modRte_fab (s : State) (d : Nat) (f : RteSt → RteSt) : (s.modRte d f).fab = s.fab := by cases s; simp only [State.modRte]
@[simp] theorem State.modRte_serve (s : State) (d : Nat) (f : RteSt → RteSt) : (s.modRte d f).serve = s.serve := by cases s; simp only [State.modRte]
@[simp] theorem State.modRte_sec (s : State) (d : Nat) (f : RteSt → RteSt) : (s.modRte d f).sec = s.sec := by cases s; simp only [State.modRte]
@[simp] theorem State.modRte_stw (s : State) (d : Nat) (f : RteSt → RteSt) : (s.modRte d f).stw = s.stw := by cases s; simp only [State.modRte]
@[simp] theorem State.modRte_pwr (s : State) (d : Nat) (f : RteSt → RteSt) : (s.modRte d f).pwr = s.pwr := by cases s; simp only [State.modRte]
@[simp] theorem State.modRte_rst (s : State) (d : Nat) (f : RteSt → RteSt) : (s.modRte d f).rst = s.rst := by cases s; simp only [State.modRte]
@[simp] theorem State.modRte_freeCtr (s : State) (d : Nat) (f : RteSt → RteSt) : (s.modRte d f).freeCtr = s.freeCtr := by cases s; simp only [State.modRte]
@[simp] theorem State.modRte_pending (s : State) (d : Nat) (f : RteSt → RteSt) : (s.modRte d f).pending = s.pending := by cases s; simp only [State.modRte]

@[simp] theorem State.setCore_regs (s : State) (c : Nat) (x : CoreSt) : (s.setCore c x).regs = s.regs := by cases s; simp only [State.setCore]
@[simp] theorem State.setCore_staging (s : State) (c : Nat) (x : CoreSt) : (s.setCore c x).staging = s.staging := by cases s; simp only [State.setCore]
@[simp] theorem State.setCore_loft (s : State) (c : Nat) (x : CoreSt) : (s.setCore c x).loft = s.loft := by cases s; simp only [State.setCore]
@[simp] theorem State.setCore_loftPsn (s : State) (c : Nat) (x : CoreSt) : (s.setCore c x).loftPsn = s.loftPsn := by cases s; simp only [State.setCore]
@[simp] theorem State.setCore_tiles (s : State) (c : Nat) (x : CoreSt) : (s.setCore c x).tiles = s.tiles := by cases s; simp only [State.setCore]
@[simp] theorem State.setCore_engs (s : State) (c : Nat) (x : CoreSt) : (s.setCore c x).engs = s.engs := by cases s; simp only [State.setCore]
@[simp] theorem State.setCore_captures (s : State) (c : Nat) (x : CoreSt) : (s.setCore c x).captures = s.captures := by cases s; simp only [State.setCore]
@[simp] theorem State.setCore_net (s : State) (c : Nat) (x : CoreSt) : (s.setCore c x).net = s.net := by cases s; simp only [State.setCore]
@[simp] theorem State.setCore_gws (s : State) (c : Nat) (x : CoreSt) : (s.setCore c x).gws = s.gws := by cases s; simp only [State.setCore]
@[simp] theorem State.setCore_rpt (s : State) (c : Nat) (x : CoreSt) : (s.setCore c x).rpt = s.rpt := by cases s; simp only [State.setCore]
@[simp] theorem State.setCore_mem (s : State) (c : Nat) (x : CoreSt) : (s.setCore c x).mem = s.mem := by cases s; simp only [State.setCore]
@[simp] theorem State.setCore_fab (s : State) (c : Nat) (x : CoreSt) : (s.setCore c x).fab = s.fab := by cases s; simp only [State.setCore]
@[simp] theorem State.setCore_moe (s : State) (c : Nat) (x : CoreSt) : (s.setCore c x).moe = s.moe := by cases s; simp only [State.setCore]
@[simp] theorem State.setCore_serve (s : State) (c : Nat) (x : CoreSt) : (s.setCore c x).serve = s.serve := by cases s; simp only [State.setCore]
@[simp] theorem State.setCore_sec (s : State) (c : Nat) (x : CoreSt) : (s.setCore c x).sec = s.sec := by cases s; simp only [State.setCore]
@[simp] theorem State.setCore_pwr (s : State) (c : Nat) (x : CoreSt) : (s.setCore c x).pwr = s.pwr := by cases s; simp only [State.setCore]
@[simp] theorem State.setCore_rst (s : State) (c : Nat) (x : CoreSt) : (s.setCore c x).rst = s.rst := by cases s; simp only [State.setCore]
@[simp] theorem State.setCore_freeCtr (s : State) (c : Nat) (x : CoreSt) : (s.setCore c x).freeCtr = s.freeCtr := by cases s; simp only [State.setCore]
@[simp] theorem State.setCore_pending (s : State) (c : Nat) (x : CoreSt) : (s.setCore c x).pending = s.pending := by cases s; simp only [State.setCore]

@[simp] theorem State.putRam_regs (s : State) (c : Nat) (a : Word32) (l : List Byte) : (s.putRam c a l).regs = s.regs := by cases s; simp only [State.putRam]
@[simp] theorem State.putRam_staging (s : State) (c : Nat) (a : Word32) (l : List Byte) : (s.putRam c a l).staging = s.staging := by cases s; simp only [State.putRam]
@[simp] theorem State.putRam_loft (s : State) (c : Nat) (a : Word32) (l : List Byte) : (s.putRam c a l).loft = s.loft := by cases s; simp only [State.putRam]
@[simp] theorem State.putRam_loftPsn (s : State) (c : Nat) (a : Word32) (l : List Byte) : (s.putRam c a l).loftPsn = s.loftPsn := by cases s; simp only [State.putRam]
@[simp] theorem State.putRam_tiles (s : State) (c : Nat) (a : Word32) (l : List Byte) : (s.putRam c a l).tiles = s.tiles := by cases s; simp only [State.putRam]
@[simp] theorem State.putRam_engs (s : State) (c : Nat) (a : Word32) (l : List Byte) : (s.putRam c a l).engs = s.engs := by cases s; simp only [State.putRam]
@[simp] theorem State.putRam_captures (s : State) (c : Nat) (a : Word32) (l : List Byte) : (s.putRam c a l).captures = s.captures := by cases s; simp only [State.putRam]
@[simp] theorem State.putRam_net (s : State) (c : Nat) (a : Word32) (l : List Byte) : (s.putRam c a l).net = s.net := by cases s; simp only [State.putRam]
@[simp] theorem State.putRam_gws (s : State) (c : Nat) (a : Word32) (l : List Byte) : (s.putRam c a l).gws = s.gws := by cases s; simp only [State.putRam]
@[simp] theorem State.putRam_rpt (s : State) (c : Nat) (a : Word32) (l : List Byte) : (s.putRam c a l).rpt = s.rpt := by cases s; simp only [State.putRam]
@[simp] theorem State.putRam_mem (s : State) (c : Nat) (a : Word32) (l : List Byte) : (s.putRam c a l).mem = s.mem := by cases s; simp only [State.putRam]
@[simp] theorem State.putRam_fab (s : State) (c : Nat) (a : Word32) (l : List Byte) : (s.putRam c a l).fab = s.fab := by cases s; simp only [State.putRam]
@[simp] theorem State.putRam_moe (s : State) (c : Nat) (a : Word32) (l : List Byte) : (s.putRam c a l).moe = s.moe := by cases s; simp only [State.putRam]
@[simp] theorem State.putRam_serve (s : State) (c : Nat) (a : Word32) (l : List Byte) : (s.putRam c a l).serve = s.serve := by cases s; simp only [State.putRam]
@[simp] theorem State.putRam_sec (s : State) (c : Nat) (a : Word32) (l : List Byte) : (s.putRam c a l).sec = s.sec := by cases s; simp only [State.putRam]
@[simp] theorem State.putRam_pwr (s : State) (c : Nat) (a : Word32) (l : List Byte) : (s.putRam c a l).pwr = s.pwr := by cases s; simp only [State.putRam]
@[simp] theorem State.putRam_rst (s : State) (c : Nat) (a : Word32) (l : List Byte) : (s.putRam c a l).rst = s.rst := by cases s; simp only [State.putRam]
@[simp] theorem State.putRam_freeCtr (s : State) (c : Nat) (a : Word32) (l : List Byte) : (s.putRam c a l).freeCtr = s.freeCtr := by cases s; simp only [State.putRam]
@[simp] theorem State.putRam_pending (s : State) (c : Nat) (a : Word32) (l : List Byte) : (s.putRam c a l).pending = s.pending := by cases s; simp only [State.putRam]

end Sys2Proof.Machine
end

