-- ==== Sys2Proof/Laws/Exec.lean ====
section
/-! SUPPORT. Executions of tile operations: what a bank answers depends on the registers and the tiles alone, and an operation whose every
part touches only banks that are ON runs to its end. -/

namespace Sys2Proof.Machine

/-- What a run of Loft bytes meets is told by the registers and the tile. -/
theorem State.loftAcc_congr {s t : State} (h1 : t.regs = s.regs) (h2 : t.tiles = s.tiles) (g a n : Nat) : t.loftAcc g a n = s.loftAcc g a n := by
  have o : ∀ b, t.bankOf g b = s.bankOf g b := fun b => by simp only [State.bankOf, State.ilv, State.fget, State.rd, h1]
  have k : ∀ b, t.bankAcc g b = s.bankAcc g b := fun b => by
    have f : t.fget = s.fget := by funext; simp only [State.fget, State.rd, h1]
    have u : t.tile = s.tile := by funext; simp only [State.tile, h2]
    unfold State.bankAcc
    rw [f, u]
  unfold State.loftAcc
  simp only [o, k]

theorem State.firstBadAcc_congr {s t : State} (h1 : t.regs = s.regs) (h2 : t.tiles = s.tiles) (g : Nat) (l : List (Nat × Nat)) :
    t.firstBadAcc g l = s.firstBadAcc g l := by
  induction l with
  | nil => rfl
  | cons x r ih => simp only [State.firstBadAcc, State.loftAcc_congr h1 h2, ih]

/-- The registers and the tiles are as they were. -/
def State.SameBanks (s t : State) : Prop := t.regs = s.regs ∧ t.tiles = s.tiles

theorem State.SameBanks.trans {s t u : State} (h : s.SameBanks t) (k : t.SameBanks u) : s.SameBanks u :=
  ⟨k.1.trans h.1, k.2.trans h.2⟩

theorem State.sameBanks_setLoftByte (s : State) (g a : Nat) (b : Byte) : s.SameBanks (s.setLoftByte g a b) := ⟨by simp, by simp⟩
theorem State.sameBanks_setLoftPoison (s : State) (g a : Nat) (p : Bool) : s.SameBanks (s.setLoftPoison g a p) := ⟨by simp, by simp⟩

theorem State.sameBanks_putLoftBytes (g : Nat) (l : List Byte) : ∀ (s : State) (a : Nat), s.SameBanks (s.putLoftBytes g a l) := by
  induction l with
  | nil => intro s a; exact ⟨rfl, rfl⟩
  | cons b r ih => intro s a; exact (s.sameBanks_setLoftByte g a b).trans (ih _ _)

theorem State.sameBanks_fold {α : Type} (f : State → α → State) (h : ∀ (s : State) (x : α), s.SameBanks (f s x)) (l : List α) (s : State) :
    s.SameBanks (l.foldl f s) := by
  induction l generalizing s with
  | nil => exact ⟨rfl, rfl⟩
  | cons x r ih => exact (h s x).trans (ih _)

theorem State.sameBanks_putLoftNum (s : State) (g a n v : Nat) : s.SameBanks (s.putLoftNum g a n v) := by
  refine (s.sameBanks_putLoftBytes g _ a).trans (State.sameBanks_fold _ (fun s i => ?_) _ _)
  split
  · exact s.sameBanks_setLoftPoison _ _ _
  · exact ⟨rfl, rfl⟩

theorem State.sameBanks_fitExp (s : State) (x : Int) : s.SameBanks (s.fitExp x).1 := by
  unfold State.fitExp
  split <;> exact ⟨rfl, rfl⟩

theorem State.sameBanks_clearPsn (s : State) (g a n : Nat) : s.SameBanks (s.clearPsn g a n) := by
  refine State.sameBanks_fold _ (fun s i => ?_) _ _
  split
  · exact s.sameBanks_setLoftPoison _ _ _
  · exact ⟨rfl, rfl⟩

theorem State.sameBanks_putAcc (s : State) (g a e : Nat) (b : AccBlock) : s.SameBanks (s.putAcc g a e b) :=
  (((s.sameBanks_fitExp b.x).trans (State.sameBanks_putLoftBytes g _ _ a)).trans (State.sameBanks_clearPsn _ g a _)).trans
    (State.sameBanks_putLoftNum _ _ _ _ _)

/-- One part whose lines lie in banks that are ON is done. -/
theorem Ex.part_go {x : Ex} {g : Nat} {l : List (Nat × Nat)} {f : State → State × Nat} (h : x.stop = .go) (k : x.s.firstBadAcc g l = none) :
    x.part g l f = ⟨(f x.s).1, .go, x.st ||| (f x.s).2⟩ := by
  simp [Ex.part, h, k]

/-- An execution that runs, with the banks as `s` has them. -/
def Ex.Runs (s : State) (x : Ex) : Prop := x.stop = .go ∧ s.SameBanks x.s

theorem Ex.runs_start (s : State) (n : Nat) : (Ex.mk s .go n).Runs s := ⟨rfl, rfl, rfl⟩

/-- Steps that keep an execution running keep it running one after another. -/
theorem Ex.each_runs {α : Type} {s : State} {f : Ex → α → Ex} (l : List α) (h : ∀ a ∈ l, ∀ x : Ex, x.Runs s → (f x a).Runs s) :
    ∀ x : Ex, x.Runs s → (x.each l f).Runs s := by
  unfold Ex.each
  induction l with
  | nil => exact fun _ k => k
  | cons a r ih => exact fun x k => ih (fun c hc => h c (by simp [hc])) _ (h a (by simp) x k)

/-- A part that touches only banks that are ON and leaves the banks alone keeps the execution running. -/
theorem Ex.part_runs {s : State} {x : Ex} {g : Nat} {l : List (Nat × Nat)} {f : State → State × Nat} (hl : s.firstBadAcc g l = none)
    (hf : ∀ s : State, s.SameBanks (f s).1) (k : x.Runs s) : (x.part g l f).Runs s := by
  rw [Ex.part_go k.1 ((State.firstBadAcc_congr k.2.1 k.2.2 g l).trans hl)]
  exact ⟨rfl, k.2.trans (hf _)⟩

theorem opEmul_go (s : State) (g : Nat) (a b : TLoft) (c : TAcc) (relu : Bool)
    (h : ∀ k ∈ List.range c.count, s.firstBadAcc g (tensorAccs a (k / c.nb2) (k % c.nb2) ++ tensorAccs b (k / c.nb2) (k % c.nb2) ++
      [(c.block k, accBytes c.a48), (c.exp k, 4)]) = none) : (opEmul s g a b c relu).x.stop = .go :=
  (Ex.each_runs _ (fun k hk _ => Ex.part_runs (h k hk) fun s => s.sameBanks_putAcc _ _ _ _) _ (Ex.runs_start s 0)).1

theorem opNorm_go (s : State) (g : Nat) (a b : TLoft) (c : TAcc) (rlen eps : Nat)
    (hr : ∀ rb ∈ List.range c.nb1, s.firstBadAcc g (((List.range 16).map fun i => 16 * rb + i).flatMap (vecAccs a)) = none)
    (hb : ∀ rb ∈ List.range c.nb1, ∀ cb ∈ List.range c.nb2,
      s.firstBadAcc g ((((List.range 8).map fun j => 8 * cb + j).map fun j => (b.at_ 0 (j / fmtCount a.fmt), 32)) ++
        [(c.block (rb * c.nb2 + cb), accBytes c.a48), (c.exp (rb * c.nb2 + cb), 4)]) = none) :
    (opNorm s g a b c rlen eps).x.stop = .go :=
  (Ex.each_runs _ (fun rb hrb _ k => Ex.each_runs _ (fun cb hcb _ => Ex.part_runs (hb rb hrb cb hcb) fun s => s.sameBanks_putAcc _ _ _ _) _
    (Ex.part_runs (hr rb hrb) (fun _ => ⟨rfl, rfl⟩) k)) _ (Ex.runs_start s 0)).1

end Sys2Proof.Machine
end

