-- ==== Sys2Proof/Laws/Sparse.lean ====
section
/-! SUPPORT. What a sparse map answers after a write, and that every operation on one keeps its canonical form. -/

namespace Sys2Proof.Machine

variable {β : Type}

theorem spGet_spDel_same (d : Nat → β) (m : Sparse β) (k : Nat) : spGet d (spDel k m) k = d k := by
  induction m with
  | nil => rfl
  | cons e r ih => by_cases h : e.1 = k <;> simp [spDel, h, spGet, ih]

theorem spGet_spDel_other (d : Nat → β) (m : Sparse β) {k j : Nat} (h : j ≠ k) : spGet d (spDel k m) j = spGet d m j := by
  induction m with
  | nil => rfl
  | cons e r ih =>
    by_cases h1 : e.1 = k
    · have : e.1 ≠ j := fun h2 => h (h2.symm.trans h1)
      simp [spDel, h1, spGet, ih, Ne.symm h]
    · by_cases h2 : e.1 = j <;> simp [spDel, h1, spGet, h2, ih, h]

/-- The keys of a map. -/
def spKeys (m : Sparse β) : List Nat := m.map (·.1)

theorem spKeys_spDel (m : Sparse β) (k : Nat) : k ∉ spKeys (spDel k m) := by
  induction m with
  | nil => simp [spDel, spKeys]
  | cons e r ih =>
    by_cases h : e.1 = k
    · simpa [spDel, h] using ih
    · simp only [spDel, h, if_false, spKeys, List.map_cons, List.mem_cons, not_or]
      exact ⟨Ne.symm h, ih⟩

theorem spGet_spIns_same (d : Nat → β) (m : Sparse β) (k : Nat) (v : β) (h : k ∉ spKeys m) : spGet d (spIns k v m) k = v := by
  induction m with
  | nil => simp [spIns, spGet]
  | cons e r ih =>
    simp only [spKeys, List.map_cons, List.mem_cons, not_or] at h
    by_cases h1 : k < e.1
    · simp [spIns, h1, spGet]
    · simp [spIns, h1, spGet, Ne.symm h.1, ih h.2]

theorem spGet_spIns_other (d : Nat → β) (m : Sparse β) {k j : Nat} (v : β) (h : j ≠ k) : spGet d (spIns k v m) j = spGet d m j := by
  induction m with
  | nil => simp [spIns, spGet, Ne.symm h]
  | cons e r ih =>
    by_cases h1 : k < e.1
    · simp [spIns, h1, spGet, Ne.symm h]
    · simp only [spIns, h1, if_false, spGet, ih]

/-- A read after a write: the value written at its key, and every other key as before. -/
theorem spGet_spPut [DecidableEq β] (d : Nat → β) (m : Sparse β) (k j : Nat) (v : β) :
    spGet d (spPut d m k v) j = if j = k then v else spGet d m j := by
  unfold spPut
  by_cases hj : j = k
  · subst hj
    by_cases hv : v = d j
    · simp [hv, spGet_spDel_same]
    · simp [hv, spGet_spIns_same d _ _ _ (spKeys_spDel m j)]
  · by_cases hv : v = d k
    · simp [hv, hj, spGet_spDel_other d m hj]
    · simp [hv, hj, spGet_spIns_other d _ v hj, spGet_spDel_other d m hj]

@[simp] theorem spGet_spPut_same [DecidableEq β] (d : Nat → β) (m : Sparse β) (k : Nat) (v : β) :
    spGet d (spPut d m k v) k = v := by simp [spGet_spPut]

theorem spGet_spPut_other [DecidableEq β] (d : Nat → β) (m : Sparse β) {k j : Nat} (v : β) (h : j ≠ k) :
    spGet d (spPut d m k v) j = spGet d m j := by simp [spGet_spPut, h]

/-- A range set back to the default reads as the default, and every other key as before. -/
theorem spGet_spClearRange (d : Nat → β) (m : Sparse β) (a n j : Nat) :
    spGet d (spClearRange a n m) j = if a ≤ j ∧ j < a + n then d j else spGet d m j := by
  induction m with
  | nil => simp [spClearRange, spGet]
  | cons e r ih =>
    by_cases h : a ≤ e.1 ∧ e.1 < a + n
    · simp only [spClearRange, h, and_self, if_true, ih, spGet]
      by_cases h2 : e.1 = j
      · subst h2; simp [h]
      · simp [h2]
    · simp only [spClearRange, h, if_false, spGet, ih]
      by_cases h2 : e.1 = j
      · subst h2; simp [h]
      · simp [h2]

/-! ## The canonical form -/

theorem spWfFrom_mono [DecidableEq β] (d : Nat → β) (m : Sparse β) {lo lo' : Nat} (h : lo' ≤ lo) (w : spWfFrom d lo m = true) :
    spWfFrom d lo' m = true := by
  cases m with
  | nil => rfl
  | cons e r =>
    simp only [spWfFrom, Bool.and_eq_true, decide_eq_true_eq] at w ⊢
    exact ⟨⟨le_trans h w.1.1, w.1.2⟩, w.2⟩

theorem spWfFrom_spDel [DecidableEq β] (d : Nat → β) (m : Sparse β) (k lo : Nat) (w : spWfFrom d lo m = true) :
    spWfFrom d lo (spDel k m) = true := by
  induction m generalizing lo with
  | nil => rfl
  | cons e r ih =>
    simp only [spWfFrom, Bool.and_eq_true, decide_eq_true_eq] at w
    by_cases h : e.1 = k
    · simp only [spDel, h, if_true]
      exact spWfFrom_mono d _ (by omega) (ih _ w.2)
    · simp only [spDel, h, if_false, spWfFrom, Bool.and_eq_true, decide_eq_true_eq]
      exact ⟨w.1, ih _ w.2⟩

theorem spWfFrom_spClearRange [DecidableEq β] (d : Nat → β) (m : Sparse β) (a n lo : Nat) (w : spWfFrom d lo m = true) :
    spWfFrom d lo (spClearRange a n m) = true := by
  induction m generalizing lo with
  | nil => rfl
  | cons e r ih =>
    simp only [spWfFrom, Bool.and_eq_true, decide_eq_true_eq] at w
    by_cases h : a ≤ e.1 ∧ e.1 < a + n
    · simp only [spClearRange, h, and_self, if_true]
      exact spWfFrom_mono d _ (by omega) (ih _ w.2)
    · simp only [spClearRange, h, if_false, spWfFrom, Bool.and_eq_true, decide_eq_true_eq]
      exact ⟨w.1, ih _ w.2⟩

theorem spWfFrom_spIns [DecidableEq β] (d : Nat → β) (m : Sparse β) (k lo : Nat) (v : β) (hk : k ∉ spKeys m) (hlo : lo ≤ k)
    (hv : v ≠ d k) (w : spWfFrom d lo m = true) : spWfFrom d lo (spIns k v m) = true := by
  induction m generalizing lo with
  | nil => simp [spIns, spWfFrom, hlo, hv]
  | cons e r ih =>
    simp only [spKeys, List.map_cons, List.mem_cons, not_or] at hk
    simp only [spWfFrom, Bool.and_eq_true, decide_eq_true_eq] at w
    by_cases h : k < e.1
    · simp only [spIns, h, if_true, spWfFrom, Bool.and_eq_true, decide_eq_true_eq]
      exact ⟨⟨hlo, hv⟩, ⟨by omega, w.1.2⟩, w.2⟩
    · simp only [spIns, h, if_false, spWfFrom, Bool.and_eq_true, decide_eq_true_eq]
      exact ⟨w.1, ih (e.1 + 1) hk.2 (by omega) w.2⟩

/-- A write keeps the canonical form. -/
theorem spWf_spPut [DecidableEq β] (d : Nat → β) (m : Sparse β) (k : Nat) (v : β) (w : spWf d m = true) :
    spWf d (spPut d m k v) = true := by
  unfold spPut spWf
  by_cases hv : v = d k
  · simpa [hv] using spWfFrom_spDel d m k 0 w
  · simpa [hv] using spWfFrom_spIns d _ k 0 v (spKeys_spDel m k) (Nat.zero_le _) hv (spWfFrom_spDel d m k 0 w)

theorem spWf_spPutL [DecidableEq β] (d : Nat → β) (l : List β) (m : Sparse β) (a : Nat) (w : spWf d m = true) :
    spWf d (spPutL d m a l) = true := by
  induction l generalizing m a with
  | nil => exact w
  | cons v r ih => exact ih _ _ (spWf_spPut d m a v w)

theorem spWf_spClearRange [DecidableEq β] (d : Nat → β) (m : Sparse β) (a n : Nat) (w : spWf d m = true) :
    spWf d (spClearRange a n m) = true := spWfFrom_spClearRange d m a n 0 w

/-- Consecutive values written read back, and every key outside them as before. -/
theorem spGet_spPutL_other [DecidableEq β] (d : Nat → β) (l : List β) (m : Sparse β) (a j : Nat) (h : j < a ∨ a + l.length ≤ j) :
    spGet d (spPutL d m a l) j = spGet d m j := by
  induction l generalizing m a with
  | nil => rfl
  | cons v r ih =>
    simp only [List.length_cons] at h
    rw [spPutL, ih _ _ (by omega), spGet_spPut_other d m v (by omega)]

theorem spGet_spPutL_at [DecidableEq β] (d : Nat → β) (l : List β) (m : Sparse β) (a i : Nat) (h : i < l.length) :
    spGet d (spPutL d m a l) (a + i) = l[i] := by
  induction l generalizing m a i with
  | nil => simp at h
  | cons v r ih =>
    cases i with
    | zero => simp [spPutL, spGet_spPutL_other d r _ (a + 1) a (by omega)]
    | succ n =>
      simp only [List.length_cons] at h
      have := ih (spPut d m a v) (a + 1) n (by omega)
      simpa [spPutL, Nat.add_assoc, Nat.add_comm 1 n] using this

end Sys2Proof.Machine
end

