-- ==== Sys2Proof/Laws/Registers.lean ====
section
/-! SUPPORT. Registers and their fields: what a field reads as after a write of it or of another field, and that register and Loft writes
keep the canonical form and touch nothing else. -/

namespace Sys2Proof.Machine

/-! ## Fields of a 64-bit half -/

/-- A field that lies in a half. -/
abbrev Fld.ok (f : Fld) : Prop := f.lo ≤ f.hi ∧ f.hi < 64

theorem fldMask_bit (f : Fld) (h : f.ok) (i : Nat) : (fldMask f).getLsbD i = (decide (f.lo ≤ i) && decide (i ≤ f.hi)) := by
  obtain ⟨h1, h2⟩ := h
  unfold fldMask
  rw [BitVec.getLsbD_shiftLeft, BitVec.getLsbD_ofNat, Nat.testBit_two_pow_sub_one]
  by_cases a : f.lo ≤ i <;> by_cases b : i ≤ f.hi <;> simp [a, b] <;> omega

theorem fldPut_bit (f : Fld) (h : f.ok) (v : Word64) (n i : Nat) :
    (fldPut f v n).getLsbD i = if f.lo ≤ i ∧ i ≤ f.hi then n.testBit (i - f.lo) else v.getLsbD i := by
  unfold fldPut
  rw [BitVec.getLsbD_or, BitVec.getLsbD_and, BitVec.getLsbD_and, BitVec.getLsbD_not, fldMask_bit f h, BitVec.getLsbD_shiftLeft,
    BitVec.getLsbD_ofNat]
  obtain ⟨h1, h2⟩ := h
  by_cases a : f.lo ≤ i <;> by_cases b : i ≤ f.hi
  · have c : i < 64 := by omega
    have c2 : i - f.lo < 64 := by omega
    have c3 : ¬ i < f.lo := by omega
    simp [a, b, c, c2, c3]
  all_goals
    by_cases c : i < 64
    · simp [a, b, c]
    · have : v.getLsbD i = false := BitVec.getLsbD_of_ge v i (by omega)
      simp [a, b, c, this]

theorem fldGet_bit (f : Fld) (v : Word64) (i : Nat) :
    (fldGet f v).testBit i = (decide (i < f.hi + 1 - f.lo) && v.getLsbD (f.lo + i)) := by
  unfold fldGet bitsOf
  rw [Nat.testBit_mod_two_pow, Nat.testBit_shiftRight]
  rfl

/-- A field read after a write of it. -/
theorem fldGet_fldPut (f : Fld) (h : f.ok) (v : Word64) (n : Nat) : fldGet f (fldPut f v n) = n % 2 ^ (f.hi + 1 - f.lo) := by
  apply Nat.eq_of_testBit_eq
  intro i
  rw [fldGet_bit, fldPut_bit f h, Nat.testBit_mod_two_pow]
  obtain ⟨h1, h2⟩ := h
  by_cases a : i < f.hi + 1 - f.lo
  · have : f.lo ≤ f.lo + i ∧ f.lo + i ≤ f.hi := by omega
    simp [a, this]
  · simp [a]

/-- A field that shares no bit with the one written reads as before. -/
theorem fldGet_fldPut_other (f g : Fld) (hf : f.ok) (d : g.hi < f.lo ∨ f.hi < g.lo) (v : Word64) (n : Nat) :
    fldGet g (fldPut f v n) = fldGet g v := by
  apply Nat.eq_of_testBit_eq
  intro i
  rw [fldGet_bit, fldGet_bit, fldPut_bit f hf]
  by_cases a : i < g.hi + 1 - g.lo
  · have : ¬ (f.lo ≤ g.lo + i ∧ g.lo + i ≤ f.hi) := by omega
    simp [this]
  · simp [a]

/-- A field is smaller than its width allows. -/
theorem fldGet_lt (f : Fld) (v : Word64) : fldGet f v < 2 ^ (f.hi + 1 - f.lo) := Nat.mod_lt _ (Nat.two_pow_pos _)

/-! ## Registers -/

theorem State.rd_wr (s : State) (a b : Nat) (v : Word64) : (s.wr a v).rd b = if b = a then v else s.rd b := by
  simp [State.rd, State.wr, spGet_spPut]

@[simp] theorem State.rd_wr_same (s : State) (a : Nat) (v : Word64) : (s.wr a v).rd a = v := by simp [State.rd_wr]

theorem State.rd_wr_other (s : State) {a b : Nat} (v : Word64) (h : b ≠ a) : (s.wr a v).rd b = s.rd b := by simp [State.rd_wr, h]

/-- A field of a register read after a write of it. -/
theorem State.fget_fset (s : State) (a : Nat) (f : Fld) (h : f.ok) (n : Nat) :
    (s.fset a f n).fget a f = n % 2 ^ (f.hi + 1 - f.lo) := by
  simp [State.fget, State.fset, fldGet_fldPut f h]

/-- Another field of the same half reads as before. -/
theorem State.fget_fset_field (s : State) (a : Nat) (f g : Fld) (hf : f.ok) (e : f.half = g.half)
    (d : g.hi < f.lo ∨ f.hi < g.lo) (n : Nat) : (s.fset a f n).fget a g = s.fget a g := by
  simp [State.fget, State.fset, e, fldGet_fldPut_other f g hf d]

/-- A field write leaves every other register half as it stood. -/
theorem State.rd_fset_other (s : State) {a b : Nat} (f : Fld) (n : Nat) (h : b ≠ a + 8 * f.half) : (s.fset a f n).rd b = s.rd b :=
  State.rd_wr_other s _ h

theorem State.fget_fset_other (s : State) {a b : Nat} (f g : Fld) (n : Nat) (h : b + 8 * g.half ≠ a + 8 * f.half) :
    (s.fset a f n).fget b g = s.fget b g := by
  simp [State.fget, State.rd_fset_other s f n h]

theorem State.rd_clearRegs (s : State) (a n b : Nat) :
    (s.clearRegs a n).rd b = if a ≤ b ∧ b < a + n then resetOf b else s.rd b := by
  simp [State.rd, State.clearRegs, spGet_spClearRange]

/-- Registers keep their canonical form under a write and under a clear. -/
theorem State.wr_wf (s : State) (a : Nat) (v : Word64) (w : spWf resetOf s.regs = true) : spWf resetOf (s.wr a v).regs = true :=
  spWf_spPut resetOf _ a v w
theorem State.fset_wf (s : State) (a : Nat) (f : Fld) (n : Nat) (w : spWf resetOf s.regs = true) :
    spWf resetOf (s.fset a f n).regs = true := State.wr_wf s _ _ w
theorem State.clearRegs_wf (s : State) (a n : Nat) (w : spWf resetOf s.regs = true) : spWf resetOf (s.clearRegs a n).regs = true :=
  spWf_spClearRange resetOf _ a n w

/-! ## The Loft -/

theorem State.loft_set_wf (s : State) (g a : Nat) (b : Byte) (w : spWf loftDflt s.loft = true) :
    spWf loftDflt (s.setLoftByte g a b).loft = true := spWf_spPut loftDflt _ _ b w

theorem State.loft_put_wf (g : Nat) (l : List Byte) (s : State) (a : Nat) (w : spWf loftDflt s.loft = true) :
    spWf loftDflt (s.putLoftBytes g a l).loft = true := by
  induction l generalizing s a with
  | nil => exact w
  | cons b r ih => exact ih _ _ (State.loft_set_wf s g a b w)

theorem State.loft_psn_wf (s : State) (g a : Nat) (p : Bool) (w : spWf (fun _ => false) s.loftPsn = true) :
    spWf (fun _ => false) (s.setLoftPoison g a p).loftPsn = true := spWf_spPut _ _ _ p w

@[simp] theorem State.ilv_setLoftByte (s : State) (g a h : Nat) (b : Byte) : (s.setLoftByte g a b).ilv h = s.ilv h := by
  have e : (s.setLoftByte g a b).regs = s.regs := by cases s; simp only [State.setLoftByte]
  simp only [State.ilv, State.fget, State.rd, e]

/-- A Loft byte read after a write of any byte. -/
theorem State.loftByte_set (s : State) (g a h c : Nat) (b : Byte) :
    (s.setLoftByte g a b).loftByte h c = if loftKey (s.ilv h) h c = loftKey (s.ilv g) g a then b else s.loftByte h c := by
  unfold State.loftByte
  rw [State.ilv_setLoftByte]
  unfold State.setLoftByte
  exact spGet_spPut loftDflt s.loft _ _ b

@[simp] theorem State.loftByte_set_same (s : State) (g a : Nat) (b : Byte) : (s.setLoftByte g a b).loftByte g a = b := by
  rw [State.loftByte_set, if_pos rfl]

/-! ## Folds -/

/-- What every change of a fold keeps, the fold keeps. -/
theorem State.each_keeps {α : Type} (P : State → Prop) (f : State → α → State) (h : ∀ s x, P s → P (f s x)) (l : List α) (s : State)
    (w : P s) : P (s.each l f) := by
  induction l generalizing s with
  | nil => exact w
  | cons x r ih => exact ih _ (h s x w)

end Sys2Proof.Machine
end

