-- ==== Sys2Proof/Laws/Memory.lean ====
section
/-! SUPPORT. Every operation over a memory keeps the canonical form of every memory, and the state after reset has it. -/

namespace Sys2Proof.Machine

/-- The canonical form, memory by memory. -/
theorem Memory.wf_iff (s : State) : Memory.wf s = true ↔
    spWf resetOf s.regs = true ∧ spWf loftDflt s.loft = true ∧ spWf (fun _ => false) s.loftPsn = true ∧
    spWf (fun _ => none) s.mem.bursts = true ∧ spWf (fun _ => none) s.mem.away = true ∧ spWf (fun _ => none) s.mem.guestData = true ∧
    spWf (fun _ => 0) s.mem.host = true ∧ spWf (fun _ => 0) s.stw.ram = true ∧ spWf (fun _ => 0) s.stw.mbox = true ∧
    spWf (fun _ => 0) s.stw.flog = true ∧ spWf (fun _ => 0) s.stw.ovr = true ∧ spWf (fun _ => 0) s.stw.age = true := by
  simp only [Memory.wf, Bool.and_eq_true, and_assoc]

theorem Memory.wf_reset : Memory.wf State.reset = true := rfl

/-- A state that differs from a canonical one in no memory is canonical. -/
theorem Memory.wf_congr {s t : State} (w : Memory.wf s = true) (h1 : t.regs = s.regs) (h2 : t.loft = s.loft) (h3 : t.loftPsn = s.loftPsn)
    (h4 : t.mem = s.mem) (h5 : t.stw = s.stw) : Memory.wf t = true := by
  unfold Memory.wf at *; rw [h1, h2, h3, h4, h5]; exact w

/-! ## Registers -/

theorem Memory.wf_regs {s : State} (w : Memory.wf s = true) {r : Sparse Word64} (h : spWf resetOf r = true) :
    Memory.wf { s with regs := r } = true := by
  rw [Memory.wf_iff] at w ⊢; exact ⟨h, w.2⟩

theorem Memory.wf_wr {s : State} (w : Memory.wf s = true) (a : Nat) (v : Word64) : Memory.wf (s.wr a v) = true :=
  Memory.wf_regs w (spWf_spPut _ _ _ _ ((Memory.wf_iff s).mp w).1)

theorem Memory.wf_fset {s : State} (w : Memory.wf s = true) (a : Nat) (f : Fld) (n : Nat) : Memory.wf (s.fset a f n) = true :=
  Memory.wf_wr w _ _

theorem Memory.wf_fadd {s : State} (w : Memory.wf s = true) (a : Nat) (f : Fld) (n : Nat) : Memory.wf (s.fadd a f n) = true :=
  Memory.wf_fset w _ _ _

theorem Memory.wf_clearRegs {s : State} (w : Memory.wf s = true) (a n : Nat) : Memory.wf (s.clearRegs a n) = true :=
  Memory.wf_regs w (spWf_spClearRange _ _ _ _ ((Memory.wf_iff s).mp w).1)

theorem Memory.wf_tilCnt {s : State} (w : Memory.wf s = true) (g a : Nat) (f : Fld) (n : Nat) : Memory.wf (s.tilCnt g a f n) = true := by
  unfold State.tilCnt; split
  · exact w
  · exact Memory.wf_fadd w _ _ _

theorem Memory.wf_dieCnt {s : State} (w : Memory.wf s = true) (d a : Nat) (f : Fld) (n : Nat) : Memory.wf (s.dieCnt d a f n) = true := by
  unfold State.dieCnt; split
  · exact w
  · exact Memory.wf_fadd w _ _ _

theorem Memory.wf_tick {s : State} (w : Memory.wf s = true) : Memory.wf s.tick = true := by
  unfold State.tick; split
  · exact Memory.wf_fset w _ _ _
  · exact w

/-- A fold of changes that keep the form keeps it. -/
theorem Memory.wf_each {α : Type} (f : State → α → State) (h : ∀ s x, Memory.wf s = true → Memory.wf (f s x) = true) (l : List α) {s : State}
    (w : Memory.wf s = true) : Memory.wf (s.each l f) = true := State.each_keeps (fun s => Memory.wf s = true) f h l s w

/-! ## Tiles, engines, reports -/

theorem Memory.wf_modTile {s : State} (w : Memory.wf s = true) (g : Nat) (f : TileSt → TileSt) : Memory.wf (s.modTile g f) = true :=
  Memory.wf_congr w rfl rfl rfl rfl rfl

theorem Memory.wf_modEng {s : State} (w : Memory.wf s = true) (g : Nat) (e : Eng) (f : EngSt → EngSt) : Memory.wf (s.modEng g e f) = true :=
  Memory.wf_congr w rfl rfl rfl rfl rfl

theorem Memory.wf_report {s : State} (w : Memory.wf s = true) (r : Rpt) : Memory.wf (s.report r) = true :=
  Memory.wf_congr w rfl rfl rfl rfl rfl

/-! ## The Loft -/

theorem Memory.wf_loft {s : State} (w : Memory.wf s = true) {l : List Host.Cell} {p : Sparse Bool} (h1 : spWf loftDflt l = true)
    (h2 : spWf (fun _ => false) p = true) : Memory.wf { s with loft := l, loftPsn := p } = true := by
  rw [Memory.wf_iff] at w ⊢; exact ⟨w.1, h1, h2, w.2.2.2⟩

theorem Memory.wf_setLoftByte {s : State} (w : Memory.wf s = true) (g a : Nat) (b : Byte) : Memory.wf (s.setLoftByte g a b) = true :=
  Memory.wf_loft w (spWf_spPut _ _ _ _ ((Memory.wf_iff s).mp w).2.1) ((Memory.wf_iff s).mp w).2.2.1

theorem Memory.wf_setLoftPoison {s : State} (w : Memory.wf s = true) (g a : Nat) (p : Bool) : Memory.wf (s.setLoftPoison g a p) = true :=
  Memory.wf_loft w ((Memory.wf_iff s).mp w).2.1 (spWf_spPut _ _ _ _ ((Memory.wf_iff s).mp w).2.2.1)

theorem Memory.wf_putLoftBytes (g : Nat) (l : List Byte) : ∀ {s : State} (a : Nat), Memory.wf s = true → Memory.wf (s.putLoftBytes g a l) = true := by
  induction l with
  | nil => intro s a w; exact w
  | cons b r ih => intro s a w; exact ih _ (Memory.wf_setLoftByte w g a b)

theorem Memory.wf_putLoftNum {s : State} (w : Memory.wf s = true) (g a n v : Nat) : Memory.wf (s.putLoftNum g a n v) = true := by
  apply Memory.wf_each _ _ _ (Memory.wf_putLoftBytes g _ a w)
  intro s i h
  split
  · exact Memory.wf_setLoftPoison h _ _ _
  · exact h

theorem Memory.wf_putLoftSheaf {s : State} (w : Memory.wf s = true) (g a : Nat) (x : Sheaf) : Memory.wf (s.putLoftSheaf g a x) = true :=
  Memory.wf_setLoftPoison (Memory.wf_putLoftBytes g _ a w) _ _ _

theorem Memory.wf_bankClear {s : State} (w : Memory.wf s = true) (g b : Nat) : Memory.wf (s.bankClear g b) = true :=
  Memory.wf_loft w (spWf_spClearRange _ _ _ _ ((Memory.wf_iff s).mp w).2.1) (spWf_spClearRange _ _ _ _ ((Memory.wf_iff s).mp w).2.2.1)

theorem Memory.wf_loftZero {s : State} (w : Memory.wf s = true) (g : Nat) : Memory.wf (s.loftZero g) = true :=
  Memory.wf_loft w (spWf_spClearRange _ _ _ _ ((Memory.wf_iff s).mp w).2.1) (spWf_spClearRange _ _ _ _ ((Memory.wf_iff s).mp w).2.2.1)

/-! ## DRAM, guest frames and host memory -/

theorem Memory.wf_setBurst {s : State} (w : Memory.wf s = true) (k : Nat) (b : Option Burst) : Memory.wf (s.setBurst k b) = true := by
  rw [Memory.wf_iff] at w ⊢; exact ⟨w.1, w.2.1, w.2.2.1, spWf_spPut _ _ _ _ w.2.2.2.1, w.2.2.2.2⟩

/-- Values put one after another at computed keys keep the form. -/
theorem spWf_foldPut {α β : Type} [DecidableEq β] (d : Nat → β) (k : α → Nat) (v : α → β) (l : List α) (m : Sparse β) (w : spWf d m = true) :
    spWf d (l.foldl (fun m e => spPut d m (k e) (v e)) m) = true := by
  induction l generalizing m with
  | nil => exact w
  | cons x r ih => exact ih _ (spWf_spPut _ _ _ _ w)

theorem Memory.wf_copyOut {s : State} (w : Memory.wf s = true) (pg die f n : Nat) : Memory.wf (s.copyOut pg die f n) = true := by
  rw [Memory.wf_iff] at w ⊢
  exact ⟨w.1, w.2.1, w.2.2.1, w.2.2.2.1, spWf_foldPut _ _ _ _ _ (spWf_spClearRange _ _ _ _ w.2.2.2.2.1), w.2.2.2.2.2⟩

theorem Memory.wf_copyIn {s : State} (w : Memory.wf s = true) (pg die f n : Nat) : Memory.wf (s.copyIn pg die f n) = true := by
  rw [Memory.wf_iff] at w ⊢
  exact ⟨w.1, w.2.1, w.2.2.1, spWf_foldPut _ _ _ _ _ (spWf_spClearRange _ _ _ _ w.2.2.2.1), w.2.2.2.2⟩

theorem Memory.wf_clearFrames {s : State} (w : Memory.wf s = true) (die f n : Nat) : Memory.wf (s.clearFrames die f n) = true := by
  rw [Memory.wf_iff] at w ⊢; exact ⟨w.1, w.2.1, w.2.2.1, spWf_spClearRange _ _ _ _ w.2.2.2.1, w.2.2.2.2⟩

theorem Memory.wf_guestPut {s : State} (w : Memory.wf s = true) (a : Nat) (us : List SheafBits) : Memory.wf (s.guestPut a us) = true := by
  unfold State.guestPut
  simp only
  split
  · exact Memory.wf_report w _
  · have h : Memory.wf (if s.frameHeld (a / 65536) = true then s else s.fset (R.MEM_GUEST (s.guestDie (a / 65536))) F.MEM_GUEST_USED
        (s.fget (R.MEM_GUEST (s.guestDie (a / 65536))) F.MEM_GUEST_USED + 1)) = true := by
      split
      · exact w
      · exact Memory.wf_fset w _ _ _
    rw [Memory.wf_iff] at h ⊢
    exact ⟨h.1, h.2.1, h.2.2.1, h.2.2.2.1, h.2.2.2.2.1, spWf_spPutL _ _ _ _ h.2.2.2.2.2.1, h.2.2.2.2.2.2⟩

theorem Memory.wf_putHost {s : State} (w : Memory.wf s = true) (a : Nat) (l : List Byte) : Memory.wf (s.putHost a l) = true := by
  rw [Memory.wf_iff] at w ⊢
  exact ⟨w.1, w.2.1, w.2.2.1, w.2.2.2.1, w.2.2.2.2.1, w.2.2.2.2.2.1, spWf_spPutL _ _ _ _ w.2.2.2.2.2.2.1, w.2.2.2.2.2.2.2⟩

/-! ## The steward's memories -/

theorem Memory.wf_putRam {s : State} (w : Memory.wf s = true) (c : Nat) (a : Word32) (l : List Byte) : Memory.wf (s.putRam c a l) = true := by
  simp only [Memory.wf_iff] at w ⊢
  obtain ⟨h1, h2, h3, h4, h5, h6, h7, h8, h9⟩ := w
  exact ⟨h1, h2, h3, h4, h5, h6, h7, spWf_spPutL _ _ _ _ h8, h9⟩

theorem Memory.wf_putMb {s : State} (w : Memory.wf s = true) (fn o : Nat) (l : List Byte) : Memory.wf (s.putMb fn o l) = true := by
  simp only [Memory.wf_iff] at w ⊢
  obtain ⟨h1, h2, h3, h4, h5, h6, h7, h8, h9, h⟩ := w
  exact ⟨h1, h2, h3, h4, h5, h6, h7, h8, spWf_spPutL _ _ _ _ h9, h⟩

theorem Memory.wf_mbPost {s : State} (w : Memory.wf s = true) (fn code tok : Nat) (r : Reply) : Memory.wf (s.mbPost fn code tok r) = true :=
  Memory.wf_fset (Memory.wf_fset (Memory.wf_fset (Memory.wf_putMb w _ _ _) _ _ _) _ _ _) _ _ _

theorem Memory.wf_reply {s t : State} (w : Memory.wf t = true) (fn code : Nat) (r : Reply) : Memory.wf (s.reply t fn code r) = true := by
  unfold State.reply; split
  · exact w
  · exact Memory.wf_mbPost w _ _ _ _

theorem Memory.wf_flogPut {s : State} (w : Memory.wf s = true) (r : FRec) : Memory.wf (s.flogPut r) = true := by
  have h : Memory.wf { s with stw := { s.stw with flog := spPutL (fun _ => 0) s.stw.flog (32 * s.fget R.STW_FLOGPTR F.STW_FLOGPTR_NEXT) (r.bytes s.now) } } = true := by
    simp only [Memory.wf_iff] at w ⊢
    obtain ⟨h1, h2, h3, h4, h5, h6, h7, h8, h9, h10, h⟩ := w
    exact ⟨h1, h2, h3, h4, h5, h6, h7, h8, h9, spWf_spPutL _ _ _ _ h10, h⟩
  unfold State.flogPut
  simp only
  apply Memory.wf_fset
  split <;> exact Memory.wf_fadd h _ _ _

theorem Memory.wf_overLog {s : State} (w : Memory.wf s = true) (o : OverSt) : Memory.wf (s.overLog o) = true := by
  have h : Memory.wf { s with stw := { s.stw with ovr := spPutL (fun _ => 0) s.stw.ovr (32 * s.fget R.PWR_OVRPTR F.PWR_OVRPTR_NEXT) o.bytes } } = true := by
    simp only [Memory.wf_iff] at w ⊢
    obtain ⟨h1, h2, h3, h4, h5, h6, h7, h8, h9, h10, h11, h⟩ := w
    exact ⟨h1, h2, h3, h4, h5, h6, h7, h8, h9, h10, spWf_spPutL _ _ _ _ h11, h⟩
  unfold State.overLog
  simp only
  apply Memory.wf_fset; apply Memory.wf_fset
  split <;> exact Memory.wf_fadd h _ _ _

theorem Memory.wf_ageLog {s : State} (w : Memory.wf s = true) (i vo vn kind fm : Nat) : Memory.wf (s.ageLog i vo vn kind fm) = true := by
  unfold State.ageLog
  simp only
  apply Memory.wf_fset
  split <;>
  · apply Memory.wf_fadd
    simp only [Memory.wf_iff] at w ⊢
    obtain ⟨h1, h2, h3, h4, h5, h6, h7, h8, h9, h10, h11, h⟩ := w
    exact ⟨h1, h2, h3, h4, h5, h6, h7, h8, h9, h10, h11, spWf_spPutL _ _ _ _ h⟩

/-! ## The steward's reads of local space (R334, R335) -/

/-- Sound bytes are read without any effect. -/
theorem State.readThen_sound {s : State} {p : Nat} {l : List (Nat × Nat)} (h : s.SoundReads p l) (f : State → State) :
    s.readThen p l f = f s := by
  simp [State.readThen, h.1, h.2]

/-- What a read can do: the part was zeroised while it read, or what follows is done on the state that the reads left. -/
theorem State.readThen_cases (s : State) (p : Nat) (l : List (Nat × Nat)) (f : State → State) :
    ∃ t, t = s.each l (fun s x => s.readTouch p x.1 x.2) ∧ (t.fwif = 0 ∧ s.readThen p l f = t ∨ t.fwif ≠ 0 ∧ s.readThen p l f = f t) := by
  refine ⟨_, rfl, ?_⟩
  unfold State.readThen
  by_cases h : (s.each l fun s x => s.readTouch p x.1 x.2).fwif = 0 <;> simp [h]

/-- The same for a command that reads. -/
theorem State.cmdRead_sound {s : State} {p o n : Nat} (hf : s.fwif ≠ 0) (h : s.readTouch p o n = s) (gs rs : List (Bool × Reply))
    (f : State → State × Reply) : s.cmdRead gs p o n rs f = s.cmd gs fun s => s.cmd rs f := by
  unfold State.cmdRead State.cmd
  split <;> simp [h, hf]

end Sys2Proof.Machine
end

