-- ==== Sys2Proof/Laws/Rows.lean ====
section
/-! SUPPORT. What a row does once its conditions hold: a live part, a served mailbox command whose checks pass, and the step. -/

namespace Sys2Proof.Machine

/-- On a live part a row is its effect. -/
theorem onLive_live {s : State} (h : s.Live) (f : State → State) : onLive s f = .next (f s) := if_pos h

/-- A part that is held stays as it is. -/
theorem onLive_held {s : State} (h : ¬ s.Live) (f : State → State) : onLive s f = .next s := if_neg h

/-- A mailbox command on a part that serves it: its effect, with its response posted. -/
theorem mbRow_mail {s : State} (h : s.Mail) (fn code : Nat) (f : State → State × Reply) :
    mbRow s fn code f = .next (s.reply (f s).1 fn code (f s).2) := by
  rw [mbRow, onLive_live h.1, State.mbRun, if_neg h.2]
  rfl

/-- A mailbox row whose command ends with STATUS OK. -/
theorem mbRow_ok {s t : State} {out : List Byte} (h : s.Mail) (fn code : Nat) (f : State → State × Reply) (e : f s = (t, .ok out)) :
    mbRow s fn code f = .next (s.reply t fn code (.ok out)) := by
  rw [mbRow_mail h, e]

/-- Before the firmware runs, a mailbox command has no effect (R8). -/
theorem mbRow_noFw {s : State} (h : s.Live) (w : s.fwif = 0) (fn code : Nat) (f : State → State × Reply) :
    mbRow s fn code f = .next s := by
  rw [mbRow, onLive_live h, State.mbRun, if_pos w]

@[simp] theorem firstBad_nil : firstBad [] = none := rfl
theorem firstBad_cons (b : Bool) (r : Reply) (l : List (Bool × Reply)) : firstBad ((b, r) :: l) = if b then some r else firstBad l := rfl

/-- Checks that all pass. -/
theorem firstBad_none_iff (l : List (Bool × Reply)) : firstBad l = none ↔ ∀ x ∈ l, x.1 = false := by
  induction l with
  | nil => simp
  | cons x r ih => cases x with | mk b y => cases b <;> simp [firstBad, ih]

/-- A command whose checks pass is its body. -/
theorem State.cmd_ok {s : State} {gs : List (Bool × Reply)} {f : State → State × Reply} (h : firstBad gs = none) : s.cmd gs f = f s := by
  rw [State.cmd, h]

/-- A command that fails a check changes nothing. -/
theorem State.cmd_bad {s : State} {gs : List (Bool × Reply)} {f : State → State × Reply} {r : Reply} (h : firstBad gs = some r) :
    s.cmd gs f = (s, r) := by
  rw [State.cmd, h]

theorem ownPart_false {fn : Fun} {p : Part} (h : OwnFn fn p) : (ownPart fn p).1 = false := by
  simp only [ownPart, decide_eq_false_iff_not]
  unfold OwnFn at h
  omega

theorem pfOnly_false {fn : Fun} (h : fn.val = 0) : (pfOnly fn).1 = false := by simp [pfOnly, h]
theorem badAt_false {o : Nat} {b : Bool} (h : b = false) : (badAt o b).1 = false := h
theorem refuse_false {k : Nat} {b : Bool} (h : b = false) : (refuse k b).1 = false := h

theorem tileChecks_none {s : State} {fn : Fun} {p : Part} {ts : TileSet} (o : Nat) (h : s.TilesOk fn p ts) :
    ∀ x ∈ s.tileChecks fn p o ts, x.1 = false := by
  obtain ⟨h1, h2, h3⟩ := h
  intro x hx
  simp only [State.tileChecks, List.mem_cons, List.not_mem_nil, or_false] at hx
  rcases hx with rfl | rfl | rfl
  · exact h2
  · exact ownPart_false h1
  · exact h3

theorem ownTile_false {s : State} {fn : Fun} {g : Tile} (h : s.OwnTile fn g) : (s.ownTile fn g).1 = false := by
  unfold State.OwnTile at h
  simp only [State.ownTile, decide_eq_false_iff_not, not_and_or, not_not]
  exact h

/-! ## Changes of registers only -/

theorem State.OnlyRegs.refl (s : State) (A : Nat → Prop) : s.OnlyRegs s A := ⟨rfl, fun _ _ => rfl⟩

theorem State.OnlyRegs.trans {s t u : State} {A : Nat → Prop} (h : s.OnlyRegs t A) (k : t.OnlyRegs u A) : s.OnlyRegs u A := by
  refine ⟨?_, fun a ha => (k.2 a ha).trans (h.2 a ha)⟩
  rw [k.1, h.1]

theorem State.OnlyRegs.mono {s t : State} {A B : Nat → Prop} (h : s.OnlyRegs t A) (m : ∀ a, A a → B a) : s.OnlyRegs t B :=
  ⟨h.1, fun a ha => h.2 a fun x => ha (m a x)⟩

/-- A register write changes that register only. -/
theorem State.onlyRegs_wr (s : State) (a : Nat) (v : Word64) (A : Nat → Prop) (h : A a) : s.OnlyRegs (s.wr a v) A :=
  ⟨rfl, fun _ hb => State.rd_wr_other s v fun e => hb (e ▸ h)⟩

theorem State.onlyRegs_fset (s : State) (a : Nat) (f : Fld) (n : Nat) (A : Nat → Prop) (h : A (a + 8 * f.half)) :
    s.OnlyRegs (s.fset a f n) A := State.onlyRegs_wr s _ _ A h

/-- A fold of changes of registers in `A` changes registers in `A` only. -/
theorem State.onlyRegs_each {α : Type} (A : Nat → Prop) (f : State → α → State) (l : List α) (h : ∀ s : State, ∀ x ∈ l, s.OnlyRegs (f s x) A)
    (s : State) : s.OnlyRegs (s.each l f) A := by
  unfold State.each
  induction l generalizing s with
  | nil => exact .refl s A
  | cons x r ih =>
    exact (h s x (by simp)).trans (ih (fun s y hy => h s y (by simp [hy])) (f s x))

/-- A fold that writes the same field of a register of its own for each element gives each the value written for it. -/
theorem State.fget_each {α : Type} (f : State → α → State) (a : α → Nat) (F : Fld) (v : α → Nat) (l : List α)
    (h1 : ∀ s, ∀ x ∈ l, (f s x).fget (a x) F = v x)
    (h2 : ∀ s, ∀ x ∈ l, ∀ y ∈ l, a x ≠ a y → (f s x).fget (a y) F = s.fget (a y) F)
    (hv : ∀ x ∈ l, ∀ y ∈ l, a x = a y → v x = v y) (s : State) : ∀ x ∈ l, (s.each l f).fget (a x) F = v x := by
  have key : ∀ (m : List α), (∀ x ∈ m, x ∈ l) → ∀ s : State, ∀ x ∈ l, (x ∈ m ∨ s.fget (a x) F = v x) →
      (m.foldl f s).fget (a x) F = v x := by
    intro m
    induction m with
    | nil => intro _ s x _ hx; simpa using hx
    | cons y r ih =>
      intro hm s x hx hor
      apply ih (fun z hz => hm z (by simp [hz])) (f s y) x hx
      by_cases e : a y = a x
      · exact .inr (by rw [← e, h1 s y (hm y (by simp)), hv y (hm y (by simp)) x hx e])
      · rcases hor with h | h
        · rcases List.mem_cons.mp h with rfl | h
          · exact absurd rfl e
          · exact .inl h
        · exact .inr (by rw [h2 s y (hm y (by simp)) x hx e, h])
  intro x hx
  exact key l (fun _ h => h) s x hx (.inl hx)

/-! ## The step -/

theorem step_cons {s : State} {i : Instr} {r : List Instr} (h : s.pending = i :: r) : step s = exec i { s with pending := r } := by
  rw [step, h]

theorem step_nil {s : State} (h : s.pending = []) : step s = .next s.tick := by
  rw [step, h]

end Sys2Proof.Machine
end

