-- ==== Sys2Proof/WellFormed.lean ====
section
/-! DEFINITION. Well-formed commands: what the types of their operands do not already say of a range or a length. -/

namespace Sys2Proof

/-- A number that one, two or four bytes hold (R440). -/
def u8ok (n : Nat) : Bool := decide (n < 2 ^ 8)
def u16ok (n : Nat) : Bool := decide (n < 2 ^ 16)
def u32ok (n : Nat) : Bool := decide (n < 2 ^ 32)

/-- The signal field: an alias 0 to 62 with an increment of 1 to 32, or 63, no signal, with the increment field zero (R129). -/
def sigOk (h : Sig) : Bool := decide (h.alias_ ≤ 63) && decide (1 ≤ h.inc) && decide (h.inc ≤ 32) && (h.alias_ != 63 || h.inc == 1)

/-- A tile set: 24 cluster masks, or a tile number in two bytes (R440). -/
def tsOk (ts : TileSet) : Bool :=
  match ts with
  | .all => true
  | .clusters m => decide (m.length = 24)
  | .one g => u16ok g

/-- Bank requests: eight ports, 32 banks (R91). -/
def reqsOk (l : List BankReq) : Bool := l.all fun r => decide (r.port < 8) && decide (r.bank < 32)

/-- The frame of a session command: one of four sessions, a 4-byte counter, 16 bytes of MAC (R477). -/
def authOk (a : SesAuth) : Bool := decide (a.sid < 4) && u32ok a.ctr && decide (a.mac.length = 16)

/-- Loads and stores are of 8, 16 or 32 bits (R435). -/
def bcOk (op : BcOp) : Bool :=
  match op with
  | .load n _ _ _ _ => n == 1 || n == 2 || n == 4
  | .store n _ _ _ => n == 1 || n == 2 || n == 4
  | .alu _ _ _ _ => true
  | .alui _ _ _ _ => true
  | .branch _ _ _ _ => true
  | .jump _ => true
  | .jumpLink _ => true
  | .jumpReg _ => true
  | .illegal _ => true

/-- A well-formed command. -/
def wf (i : Instr) : Bool :=
  match i with
  | .registerWrite _ addr bytes value => decide (addr < 2 ^ 30) && (bytes == 1 || bytes == 2 || bytes == 4 || bytes == 8) && decide (value.toNat < 2 ^ (8 * bytes))
  | .mbDbGo _ => true
  | .mailboxTakeUp => true
  | .fwInfo _ => true
  | .pkgLocate _ rack => u8ok rack
  | .stwLocWrite _ => true
  | .bridgeRetrainTimeout _ => true
  | .adapterRetry _ => true
  | .islandHandshake _ _ => true
  | .arithSeed _ _ _ => true
  | .winnowSet _ rate _ _ => u8ok rate
  | .arithStats _ _ _ => true
  | .winnowCompare _ => true
  | .wnwLogptrCntclr _ => true
  | .wnwLogptrLostclr _ => true
  | .tilArstatCntclr _ => true
  | .tilRngWrite _ _ => true
  | .instructionComplete _ _ _ => true
  | .fetchPacketReturn _ _ _ => true
  | .fetchPacketTimeout _ _ => true
  | .arrivalUnit _ reqs => reqsOk reqs
  | .instructionIssue _ _ reqs => reqsOk reqs
  | .bnkPwrWrite _ _ _ => true
  | .bankTransitionEnd _ _ => true
  | .tilCtlRun _ _ => true
  | .tilCtlIlv _ _ => true
  | .srst _ => true
  | .tilFaultClr _ => true
  | .bnkDctlGo _ _ _ => true
  | .debugLineDone _ => true
  | .tilCntctlClr _ => true
  | .tileRun _ _ ts _ _ => tsOk ts
  | .tileStatus _ _ => true
  | .loftPower _ _ ts _ _ => tsOk ts
  | .loftRead _ _ addr n => u32ok addr && u16ok n
  | .loftWrite _ _ addr data psn => u32ok addr && decide (data.length + psn.length ≤ 16352)
  | .tileStats _ _ _ => true
  | .tileReset _ _ ts => tsOk ts
  | .tileConfig _ _ ts ilv => tsOk ts && u8ok ilv
  | .nop _ _ h => sigOk h
  | .fence _ _ h => sigOk h
  | .endStream _ _ h => sigOk h
  | .loop _ _ h _ _ len => sigOk h && decide (1 ≤ len) && decide (len < 4096)
  | .jmp _ _ h _ => sigOk h
  | .brv _ _ h _ v => sigOk h && decide (1 ≤ v) && decide (v ≤ 63)
  | .yield _ _ h _ => sigOk h
  | .hint _ _ h cls _ _ _ => sigOk h && decide (cls ≤ 4)
  | .ld _ h _ _ => sigOk h
  | .ldq _ h n => sigOk h && decide (1 ≤ n) && decide (n < 4096)
  | .cpy _ h _ _ => sigOk h
  | .acopy _ h _ _ => sigOk h
  | .ldd _ h eng _ => sigOk h && decide (eng < 8) && eng != 6
  | .mm _ h _ _ _ _ _ _ => sigOk h
  | .rq _ h _ _ _ => sigOk h
  | .norm _ h _ _ _ => sigOk h
  | .emul _ h _ _ _ _ => sigOk h
  | .lane _ h _ _ _ op => sigOk h && decide (op < 11)
  | .fn _ h _ _ f => sigOk h && decide (f < 3)
  | .red _ h _ _ _ => sigOk h
  | .smx _ h _ _ _ => sigOk h
  | .walk _ h _ => sigOk h
  | .st _ h _ _ => sigOk h
  | .sta _ h _ _ => sigOk h
  | .atom _ h _ _ op => sigOk h && decide (op < 5)
  | .send _ h da seg empty => sigOk h && (!empty || (seg && decide (da = 0)))
  | .recv _ h _ _ => sigOk h
  | .tilePark _ => true
  | .tilYreqWrite _ _ => true
  | .tilSpcWrite _ _ off => decide (off < 2 ^ 40)
  | .tilPbaseWrite _ _ => true
  | .tilDbaseWrite _ _ base => decide (base < 2 ^ 22)
  | .tilVarWrite _ _ _ _ _ => true
  | .progLoad _ _ _ ts => tsOk ts
  | .progStart _ _ ts k _ => tsOk ts && u8ok k
  | .progWhere _ _ => true
  | .semaphoreSignal _ _ _ inc _ => decide (1 ≤ inc) && decide (inc ≤ 32)
  | .poolBatch _ => true
  | .waitTimerExpiry _ _ => true
  | .segmentClose _ _ => true
  | .barrierArrival _ _ child _ _ => decide (child < 37)
  | .barrierRelease _ _ => true
  | .pknSarr _ => true
  | .synSemWrite _ _ _ => true
  | .tilAliasWrite _ _ _ => true
  | .tilArcWrite _ _ _ => true
  | .nodeChannelWrite _ _ _ => true
  | .syncQuota _ _ _ groups => u8ok groups
  | .syncMap _ _ _ a type idx count quant mode => u8ok a && u8ok type && u16ok idx && u16ok count && u16ok quant && u8ok mode
  | .syncChannel _ _ ch ts scope _ => u8ok ch && tsOk ts && u8ok scope
  | .syncTimeout _ _ ts j _ => tsOk ts && u8ok j
  | .syncRearm _ _ _ n count => u8ok n && u16ok count
  | .syncStatus _ _ _ => true
  | .routeMove _ _ _ => true
  | .routeLoop _ _ _ => true
  | .routeBrv _ _ _ => true
  | .routeJump _ _ _ => true
  | .routeHalt _ _ _ => true
  | .routestall _ _ _ => true
  | .bnetStart _ _ => true
  | .bnetVarWrite _ _ _ _ _ => true
  | .bnetRpdataWrite _ _ => true
  | .bnetFaultClr _ => true
  | .gatewayRequest _ _ => true
  | .gatewayDataReturn _ _ units => decide (units.length ≤ 64)
  | .gatewayBoundExpiry _ _ => true
  | .gwQcfgWrite _ _ _ _ => true
  | .controlPacket _ _ _ _ _ _ _ payload => payload.length % 8 == 0 && decide (payload.length ≤ 64)
  | .syncMessage _ _ => true
  | .routePorts _ _ _ outs queues => outs.all (fun x => u8ok x.1 && u8ok x.2) && queues.all (fun x => decide (x.1 < 32) && u16ok x.2)
  | .routeLoad _ _ _ _ => true
  | .routeStart _ _ _ => true
  | .netStatus _ _ => true
  | .netStats _ _ _ => true
  | .dieCntctlClr _ => true
  | .leFetchEntry _ => true
  | .meTStrip _ => true
  | .meSStrip _ => true
  | .meOStrip _ => true
  | .veQStep _ => true
  | .veXStep _ => true
  | .veFStep _ => true
  | .kvLayout _ kf hw blk nslot nrb => u8ok kf && u8ok hw && u16ok blk && u8ok nslot && u32ok nrb
  | .walkCheck _ _ _ _ => true
  | .attnStats _ _ _ => true
  | .scoreSegment _ => true
  | .confidenceUnit _ => true
  | .countReport _ => true
  | .countRowTimeout _ => true
  | .pointDecide _ => true
  | .exitPointDecide _ => true
  | .exchangeCopy _ _ => true
  | .runHeaderPresent _ _ => true
  | .copyTimeout _ => true
  | .planLoad _ _ _ => true
  | .routeConfig _ _ _ k nexp nsh _ npos => u8ok k && u16ok nexp && u16ok nsh && u16ok npos
  | .routeStats _ _ _ => true
  | .stepStatus _ _ => true
  | .stepSpillbuf _ _ _ size => u32ok size
  | .rteCfgWrite _ _ _ => true
  | .rteCntctlClr _ => true
  | .stepCntclr _ => true
  | .memoryRequest _ _ => true
  | .mapEntryRead _ _ => true
  | .moveStart _ => true
  | .moveComplete _ => true
  | .moveFail _ => true
  | .accAge => true
  | .channelTrain _ _ _ _ => true
  | .moduleTempPoll _ _ => true
  | .burstRead _ _ _ _ => true
  | .partialWrite _ _ _ => true
  | .mvCmdGo _ _ => true
  | .memRgnWrite _ _ _ _ _ => true
  | .memRegion _ _ _ _ _ _ _ _ => true
  | .memFree _ _ _ => true
  | .memQuota _ _ tier frames => u8ok tier && frames.all u32ok
  | .memRegulate _ _ tier rate depth _ => u8ok tier && u16ok rate && u16ok depth
  | .memBound _ _ bay cellar => u16ok bay && u16ok cellar
  | .memMove _ _ _ pages tgt pkg _ => u32ok pages && u8ok tgt && u16ok pkg
  | .memQuery _ _ => true
  | .streamSet _ _ w _ => u8ok w
  | .memStats _ _ _ => true
  | .memRetired _ _ restore => (restore.getD []).all u32ok
  | .memChannels _ => true
  | .linkTrain _ _ _ _ => true
  | .linkDown _ _ => true
  | .linkRetrain _ _ _ _ => true
  | .idleFlit _ => true
  | .flitReceive _ flit _ _ => decide (flit.length = 288)
  | .flitReplay _ => true
  | .beacon _ _ _ => true
  | .loadMsg _ _ => true
  | .ldata _ _ => true
  | .storeMsg _ _ => true
  | .accstore _ _ => true
  | .placeMsg _ _ => true
  | .atomicMsg _ _ => true
  | .aresult _ _ => true
  | .doneMsg _ _ => true
  | .copyMsg _ _ => true
  | .countrow _ _ => true
  | .pageMsg _ _ _ => true
  | .syncMsg _ => true
  | .relayForward _ _ => true
  | .remoteBoundExpiry _ _ => true
  | .storeLost _ _ => true
  | .atomicRetry _ _ => true
  | .noticeProbe _ => true
  | .noticeProbeAnswer _ => true
  | .probeTimeout _ => true
  | .noticeLoss _ => true
  | .noticeStepAbort _ => true
  | .noticeParking _ => true
  | .noticeRejoin _ => true
  | .fabMap _ _ => true
  | .fabStatus _ => true
  | .fabMode _ _ _ => true
  | .fabJob _ _ _ => true
  | .fabWindow _ _ _ _ _ _ _ _ _ => true
  | .fabBound _ _ us retry => u16ok us && u8ok retry
  | .fabRegulate _ _ rate depth _ => u16ok rate && u16ok depth
  | .fabLink _ _ act => u8ok act
  | .fabRejoin _ _ => true
  | .fabInject _ _ _ rate win => u8ok rate && u8ok win
  | .fabStats _ _ _ => true
  | .fbCtlWrite _ _ => true
  | .fbRtWrite _ _ _ => true
  | .lnkInjWrite _ _ => true
  | .ringProdWrite _ _ _ _ => true
  | .ringConsWrite _ _ _ _ => true
  | .stepBoundary _ => true
  | .stepRelease _ => true
  | .startItem _ _ => true
  | .appendItem _ _ => true
  | .pauseItem _ _ => true
  | .pauseComplete _ _ => true
  | .resumeItem _ _ => true
  | .cancelItem _ _ => true
  | .itemEnd _ _ => true
  | .stepItem _ _ => true
  | .itemCopy _ _ => true
  | .wload _ _ => true
  | .itemAtomic _ _ => true
  | .stripeArrival _ _ _ => true
  | .sequenceExpire _ _ => true
  | .quantumExpiry _ => true
  | .parkTimeout _ => true
  | .vfFlr _ => true
  | .partCreate _ _ clusters => decide (clusters.length = 24)
  | .partDestroy _ _ => true
  | .partRings _ _ rings => rings.all fun r => decide (r.base < 2 ^ 64) && u8ok r.log2n
  | .partServe _ _ _ admits pchunk layerch _ _ _ _ => u8ok admits && u16ok pchunk && u8ok layerch
  | .adapterPut _ _ aid _ bytes => u8ok aid && u32ok bytes
  | .adapterDrop _ _ aid => u8ok aid
  | .weightDir _ _ _ => true
  | .sliceSet _ _ grp quantum prio => u8ok grp && u16ok quantum && u8ok prio
  | .serveStats _ _ _ => true
  | .clw _ _ _ _ => true
  | .cld _ _ _ _ => true
  | .csw _ _ _ _ => true
  | .csd _ _ _ _ => true
  | .cfn _ => true
  | .cpk _ _ _ => true
  | .evw _ _ _ => true
  | .tim _ _ => true
  | .bce _ _ => true
  | .bilhaCInstruction _ op => bcOk op
  | .eventQueueEntry => true
  | .allotmentPeriod _ _ _ => true
  | .hintReport => true
  | .droopFire _ => true
  | .droopRecover _ => true
  | .ageingCheck short => short.all fun i => decide (i < 1701)
  | .sensorSample _ _ => true
  | .thermalTrip _ _ => true
  | .capWrite _ watts rate => u16ok watts && u16ok rate
  | .clkIslOnWrite _ _ => true
  | .pwrCntclrCnt => true
  | .pwrCntclrBale => true
  | .pwrCntclrDroop => true
  | .pwrOvrptrClr => true
  | .pwrTsClr _ => true
  | .powerStatus _ _ => true
  | .powerCap _ watts rate => u16ok watts && u16ok rate
  | .powerTarget _ _ code => u8ok code
  | .ballastSet _ _ us => u16ok us
  | .thermalStatus _ _ => true
  | .ageLog _ => true
  | .overrunLog _ _ => true
  | .islandPower _ _ _ => true
  | .droopSet _ mv factor => u8ok mv && u8ok factor
  | .hintConfig _ us => u8ok us
  | .secStatus _ => true
  | .secSelftest _ failTest => decide (failTest ≤ 10)
  | .secIdentity _ => true
  | .secAttest _ nonce first => decide (nonce.length = 32) && u16ok first
  | .secOpen _ role _ _ => u8ok role
  | .secConfirm _ sid _ => decide (sid < 4)
  | .secClose _ auth => authOk auth
  | .sessionIdleTimeout sid => decide (sid < 4)
  | .authLockoutEnd => true
  | .keyImport _ auth _ _ _ => authOk auth
  | .keyDrop _ auth _ _ => authOk auth
  | .domainKey _ auth _ => authOk auth
  | .domainId _ auth _ => authOk auth
  | .svnSet _ auth _ => authOk auth
  | .ownerRotate _ auth _ => auth.all authOk
  | .lifecycle _ auth _ => authOk auth
  | .repairCommit _ auth _ _ => authOk auth
  | .debugGrant _ auth _ => auth.all authOk
  | .zeroise _ auth => auth.all authOk
  | .secEvents _ _ => true
  | .securityEvent _ => true
  | .entropyTestFail => true
  | .powerOnReset _ _ => true
  | .pkgResetN _ _ => true
  | .watchdogExpiry => true
  | .thermalTripReset _ temps => decide (temps.length = 239)
  | .perst _ => true
  | .pfFlr _ => true
  | .railDip _ _ => true
  | .refclkLost _ => true
  | .bringUp boot => decide (boot.failTest ≤ 10)
  | .bringupLinkStage lanes => decide (lanes.length = 36)
  | .faultReport _ => true
  | .recoveryEpoch _ _ => true
  | .stepAbort _ => true
  | .bnkMarchGo _ _ _ => true
  | .marchComplete _ fails => fails.all fun x => decide (x.1 < 32) && decide (x.2 < 2064)
  | .resetStatus _ => true
  | .faultLog _ count _ => u16ok count
  | .dieRecover _ _ => true
  | .loftMarch _ _ ts _ => tsOk ts
  | .watchdogSet _ ms _ => u16ok ms
  | .ledgerKeep _ _ _ => true
  | .rstWdogKick => true
  | .rstDieWrite _ _ => true
  | .dieCtlPabort _ _ => true
  | .dieCtlCrst _ _ => true
  | .dieCtlFence _ _ => true
  | .stwFlogptrClr => true
  | .mpId => true
  | .mpSlotWrite _ _ => true
  | .mpSlotRead => true
  | .mpCap _ _ => true
  | .mpPower => true
  | .mpTemp => true
  | .mpOvr => true
  | .mpBoot => true
  | .mpEvent => true
  | .vauxGood => true
  | .pkgResetNRelease => true
  | .linkRefclkReturn _ => true
  | .configurationRequest _ _ => true
  | .tapInstruction _ => true
  | .seqidRetentionExpiry _ _ => true
  | .tokenBucketFill _ _ _ _ => true

end Sys2Proof
end

