-- ==== Sys2Proof/Tests/Slice0.lean ====
section
/-! SUPPORT. Tests: ill-formed commands refused, words decoded, worked examples, single steps, and for every obligation with hypotheses a state
and operands that meet them (wit_<obligation>). -/

namespace Sys2Proof.Tests

open Sys2Proof Sys2Proof.Machine

set_option Elab.async false
/-! ## Small states -/

/-- A part whose firmware runs. -/
def up : State := State.reset.fset R.STW_IDENT F.STW_IDENT_FWIF 1

/-- A tile given to a partition. -/
def own (s : State) (g p : Nat) : State :=
  (s.fset (R.TIL_OWNER g) F.TIL_OWNER_ASSIGNED 1).fset (R.TIL_OWNER g) F.TIL_OWNER_PART p

/-- A bank of a tile that is ON. -/
def bankOn (s : State) (g b : Nat) : State := s.fset (R.BNK_STAT g) (F.BNK_STAT_CUR b) 3

/-- A part that serves partition 0, which has tile 0 with bank 0 ON. -/
def one : State := bankOn (own up 0 0) 0 0

/-- A part held by its reset pin. -/
def held : State := { State.reset with rst := { State.reset.rst with hold := .pin } }

/-- Partition 0 with one HOST region over its first 64 KiB, whose bytes stand in host memory at the same addresses. -/
def hosted (s : State) : State :=
  (((s.fset (R.HST_RGN 0 0) F.MEM_RGN_KIND 4).fset (R.HST_RGN 0 0) F.MEM_RGN_HOME 5).fset (R.HST_RGN 0 0) F.MEM_RGN_VALID 1).fset
    (R.HST_RGN 0 0) F.MEM_RGN_SIZE 1

/-- A byte string of the region: a little-endian number of `n` bytes. -/
def put (s : State) (a n v : Nat) : State := s.putHost a (leBytes n v)

/-- A program at offset 0 whose stream of engine `e` is 8 instructions at 0x400, with `w` in the engine's buffer at its start. -/
def running (s : State) (g : Nat) (e : Eng) (w : Word64) : State :=
  let s := put (put (hosted s) (0x10 + 8 * engIdx e) 4 0x400) (0x14 + 8 * engIdx e) 4 64
  let s := s.fset (R.TIL_SPC g (engIdx e)) F.TIL_SPC_OFF 0x400
  let s := s.fset (R.TIL_CTL g) F.TIL_CTL_RUN 63
  s.modEng g e fun x => { x with buf := [(0x400, .word w)] }

/-! ## The general statements -/

/-- The register that an access reaches. -/
def tgtReg : CtlTgt → Option RegSel
  | .reg x => some x
  | _ => none

theorem tgtReg_any {t : CtlTgt} {p : RegSel → Bool} (h : (tgtReg t).any p = true) : ∃ x, t = .reg x ∧ p x = true := by
  cases t with
  | reg x => exact ⟨x, rfl, h⟩
  | _ => simp [tgtReg] at h

theorem regAt_any {o : Option RegSel} {p : RegSel → Bool} (h : o.any p = true) : ∃ x, o = some x ∧ p x = true := by
  cases o with
  | some x => exact ⟨x, rfl, h⟩
  | none => simp at h

theorem wit_StepRunsFrontCommand : ({ State.reset with pending := [Instr.mpId] } : State).pending = Instr.mpId :: [] := rfl

theorem wit_StepRunsFrontCommand_empty : State.reset.pending = [] ∧ State.reset.Live ∧ held.pending = [] ∧ ¬ held.Live := by decide +kernel

theorem wit_IllegalWordsRefused :
    (bitsOf (0xFC007E0040000000#64 ||| 2 ^ 50).toNat 63 58 = 63 ∧ bitsOf (0xFC007E0040000000#64 ||| 2 ^ 50).toNat 57 50 ≠ 0) ∧
    (bitsOf (0xFC007E0040000000#64 ||| 2 ^ 47).toNat 63 58 = 63 ∧ bitsOf (0xFC007E0040000000#64 ||| 2 ^ 47).toNat 48 47 ≠ 0) ∧
    (bitsOf (0xFC007E0040000000#64 ||| 2 ^ 36).toNat 46 41 = 63 ∧ bitsOf (0xFC007E0040000000#64 ||| 2 ^ 36).toNat 40 36 ≠ 0) ∧
    bitsOf (0#64).toNat 35 30 = 0 ∧ bitsOf (0x3C0000000#64).toNat 35 30 = 15 ∧
    bitsOf (0xFC007E0040000000#64).toNat 35 30 = 1 ∧ bitsOf (0xFC007E0200000000#64).toNat 35 30 = 8 := by decide +kernel

theorem wit_DecodeOfEncode : instrFits .me ⟨⟨2, 1, true, 0⟩, ⟨6, 1⟩, .mm 4 6 8 0 false false⟩ = true ∧
    instrFits .se ⟨⟨63, 1, false, 0⟩, ⟨62, 32⟩, .nop⟩ = true ∧ instrFits .me ⟨⟨63, 2, false, 0⟩, ⟨63, 1⟩, .nop⟩ = false := by decide +kernel

theorem wit_EncodeOfDecode : decodeInstr .me 0x08020C0404188000#64 = some ⟨⟨2, 1, true, 0⟩, ⟨6, 1⟩, .mm 4 6 8 0 false false⟩ := by decide +kernel

theorem wit_HeldPartIgnoresCommands : ¬ held.Live ∧ actsHeld (.mbDbGo 0) = false := by decide +kernel

theorem wit_MailboxDeafBeforeFirmware : State.reset.Live ∧ State.reset.fget R.STW_IDENT F.STW_IDENT_FWIF = 0 ∧
    isMailboxCmd (.tileStatus 16 15) = true := by decide +kernel

theorem wit_MailboxResponse : 0xFFFF < 2 ^ 16 ∧ (Reply.ok (List.replicate 16368 0)).st < 2 ^ 16 ∧ (Reply.ok (List.replicate 16368 0)).detail < 2 ^ 16 ∧
    (Reply.ok (List.replicate 16368 0)).out.length ≤ 16368 := by decide +kernel

theorem wit_FieldTypesOfAWrite : (∃ x, regAt (R.FB_WIN 2 15 15 + 8) = some x ∧ decide (x.half = 1 ∧ x.row.fields ≠ []) = true) ∧
    up.Live ∧ ∃ x, up.ctlTarget 0 R.SEC_EVT 8 = .reg x ∧ decide (x.kind = .sec) = true := by
  exact ⟨regAt_any (by decide +kernel), by decide +kernel, tgtReg_any (by decide +kernel)⟩

theorem wit_WideRegisterWrites :
    (∃ x, up.ctlTarget 0 (R.HST_RGN 15 0) 8 = .reg x ∧ decide (x.row.width = 128 ∧ x.half = 0 ∧ x.kind = .hst) = true) ∧
    (∃ x, up.ctlTarget 0 (R.FB_WIN 0 0 0) 8 = .reg x ∧ decide (x.row.width = 128 ∧ x.half = 0 ∧ x.kind = .fab) = true) ∧
    up.fwif ≠ 0 ∧ (up.staged 0 30 = none) ∧ (({ up with staging := spPut (fun _ => none) [] (stageKey 0 30) (some 7) } : State).staged 0 30 = some 7) ∧
    (regAt 0x3FFFFFF8 = none ∧ winOf 0x3FFFFFF8 = none) ∧
    ((∃ x, regAt R.STW_IDENT = some x ∧ decide (8 * 8 ≠ min 64 x.row.width) = true) ∧ winOf R.STW_IDENT = none) := by
  refine ⟨tgtReg_any (by decide +kernel), tgtReg_any (by decide +kernel), by decide +kernel, by decide +kernel, by decide +kernel, ⟨rfl, rfl⟩,
    regAt_any (by decide +kernel), rfl⟩

theorem wit_VirtualFunctionReach :
    (∃ x, regAt (R.TIL_CTL 1535) = some x ∧ decide (x.kind = .til ∧ up.tilePart x.idx ≠ some (15 : Part).val) = true) ∧
    (∃ x, regAt (R.PT_CTL 15) = some x ∧ decide (x.kind = .pt ∧ x.idx ≠ (14 : Part).val) = true) ∧
    (∃ x, regAt R.PWR_CAP = some x ∧ decide (x.kind ∈ [BlkKind.pwr, .clk, .rst, .die, .hst, .ch, .lnk, .wnw, .syn]) = true) ∧
    (∃ x, regAt R.SEC_EVT = some x ∧ up.vfEnabled 0 = false) ∧
    (winOf (R.TIL_CTL 1535) = none ∧ winOf (R.PT_CTL 15) = none ∧ winOf R.PWR_CAP = none ∧ winOf R.SEC_EVT = none ∧ (16 : Fun).val = (15 : Part).val + 1) ∧
    State.reset.Live ∧ State.reset.fwif = 0 := by
  refine ⟨regAt_any (by decide +kernel), regAt_any (by decide +kernel), regAt_any (by decide +kernel), ?_, ⟨rfl, rfl, rfl, rfl, rfl⟩,
    by decide +kernel, by decide +kernel⟩
  obtain ⟨x, h, _⟩ := regAt_any (o := regAt R.SEC_EVT) (p := fun _ => true) (by decide +kernel)
  exact ⟨x, h, by decide +kernel⟩

theorem wit_ForeignPartitionsRefused : up.Mail ∧ (16 : Fun).val ≠ 0 ∧ (16 : Fun).val ≠ (14 : Part).val + 1 := by decide +kernel

theorem wit_StochasticRounding : (65535 : Nat) < 65536 ∧ (3 : Int) % 2 ^ 0 = 0 ∧ (⟨.s8, 16, none, true⟩ : RqParam).sto = true := by
  decide +kernel

theorem wit_RoundingToNearestEven : (2 * ((3 : Int) - roundRne 3 (-((1 : Nat) : Int)) * 2 ^ 1)).natAbs = 2 ^ 1 ∧ 0 < 1 := by decide +kernel

theorem wit_PackageIdLock :
    up.Live ∧ up.flag R.STW_LOC F.STW_LOC_LOCK = false ∧ (0x8000001F#32).toNat.testBit 31 = true ∧ up.flag R.STW_LOC F.STW_LOC_TSVALID = false ∧
    (let s := up.fset R.STW_LOC F.STW_LOC_TSVALID 1
     s.Live ∧ s.flag R.STW_LOC F.STW_LOC_TSVALID = true ∧ s.flag R.STW_LOC F.STW_LOC_LOCK = false ∧
      (0x8000001F#32).toNat % 32 ≠ s.fget R.STW_LOC F.STW_LOC_TRAYSLOT ∧ (0x80000020#32).toNat % 32 = s.fget R.STW_LOC F.STW_LOC_TRAYSLOT) := by
  decide +kernel

theorem wit_CanonicalFormKept : Memory.wf State.reset = true ∧
    Memory.wf ({ State.reset with pending := [.mbDbGo 16] } : State) = true ∧ Memory.wf { up with pending := [.stwLocWrite 0xFFFFFFFF] } = true := by
  decide +kernel
/-! ## Chapter 2 -/

theorem wit_ArithmeticCommandsComplete :
    up.Mail ∧ OwnFn 0 15 ∧ OwnFn 16 15 ∧
    (spGet (fun _ => none) ({ up with captures := [(23, some ⟨0, 0, 0, .s8, .s8, [], [], 0, ⟨[], 0, false, false, false, false⟩⟩)] }).captures 23).isSome ∧
    up.flag R.STW_LOC F.STW_LOC_LOCK = false := by
  decide +kernel
/-! ## Chapter 3 -/

def bankMoving (g b tgt : Nat) (held : List (Nat × Nat)) : State := up.modTile g fun t => { t with trans := [(b, tgt)], held := held }

theorem wit_BankPowerFollowsItsTable :
    up.Live ∧ (up.tile 1535).transOf 31 = none ∧ up.fget (R.BNK_STAT 1535) (F.BNK_STAT_CUR 31) = 0 ∧
    ((bankMoving 0 31 1 []).tile 0).transOf 31 = some 1 ∧ (bankMoving 0 31 1 []).Live ∧
    ((bankMoving 1535 0 3 [(0, 1)]).tile 1535).transOf 0 = some 3 ∧ (up.tile 1535).walk = none ∧
    up.fget (R.BNK_STAT 0) (F.BNK_STAT_CUR 0) ≠ 3 ∧ (∀ h ∈ ((bankMoving 0 31 1 []).tile 0).held, h.1 ≠ 31) := by
  decide +kernel

theorem wit_BankTargetsHeldAndRefused :
    (up.tile 0).transOf 0 = none ∧ up.fget (R.BNK_STAT 0) (F.BNK_STAT_CUR 0) = 0 ∧
    ((bankMoving 0 31 0 []).tile 0).transOf 31 = some 0 ∧ (bankMoving 0 31 0 []).Live ∧
    (((bankMoving 1535 0 0 [(0, 1)]).tile 1535).held.find? fun h => decide (h.1 = 0)) = some (0, 1) ∧
    (((bankMoving 1535 0 3 [(0, 1)]).tile 1535).held.find? fun h => decide (h.1 = 0)) = some (0, 1) := by
  decide +kernel

theorem wit_TileControlCommandsComplete :
    up.Live ∧ up.quiet 1535 = true ∧ up.flag (R.BNK_DCTL 0) F.BNK_DCTL_DONE = true ∧
    (let s := one.modTile 0 fun t => { t with dbg := some ⟨true, 3, 0⟩ }
     s.Live ∧ (s.tile 0).dbg = some ⟨true, 3, 0⟩ ∧ s.bankAcc 0 (s.bankOf 0 (0 * 64)) = .ok) ∧
    (let s := one.modTile 0 fun t => { t with dbg := some ⟨false, 0, 2044⟩ }
     (s.tile 0).dbg = some ⟨false, 0, 2044⟩ ∧ s.bankAcc 0 (s.bankOf 0 (2044 * 64)) = .ok) := by
  decide +kernel

/-- A NOP that waits on nothing and signals nothing. -/
def nopWord : Word64 := 0xFC007E0040000000#64

def flying : State :=
  (own up 0 0).modEng 0 .ve fun x => { x with infl := [⟨7, 0x13, 0x400, ⟨63, 1⟩, 0, none, 0, 0, [], []⟩], nextUid := 8 }
def ended : State := (own up 0 0).modEng 0 .aw fun x => { x with infl := [⟨7, 0x03, 0x400, ⟨63, 1⟩, 0, none, 0, 0, [], []⟩], nextUid := 8 }
def fetching : State :=
  let s := put (put (hosted (own up 0 0)) 0x10 4 0x400) 0x14 4 64
  (s.fset (R.TIL_SPC 0 0) F.TIL_SPC_OFF 0x400).fset (R.TIL_CTL 0) F.TIL_CTL_RUN 63
def arriving (c : UClass) : State :=
  one.modTile 0 fun t => { t with
    presented := some ⟨c, false, false, true, zeroBits, 0⟩, loadQ := [⟨.le, 1, [0], false, none, 32⟩], recvQ := [⟨.ne, 2, [32, 64], false, none, 32⟩] }

theorem wit_EngineEventsComplete :
    (flying.Live ∧ ((flying.eng 0 .ve).rec_ 7).isSome ∧
      (∀ r, (flying.eng 0 .ve).rec_ 7 = some r → (flying.eng 0 .ve).ready r = true ∧ flying.laneRead 0 .ve r = true)) ∧
    (ended.Live ∧ (ended.eng 0 .aw).rec_ 7 = some ⟨7, 0x03, 0x400, ⟨63, 1⟩, 0, none, 0, 0, [], []⟩ ∧
      (ended.eng 0 .aw).ready ⟨7, 0x03, 0x400, ⟨63, 1⟩, 0, none, 0, 0, [], []⟩ = true) ∧
    (fetching.Live ∧ fetching.fetchWant 0 .le = some (0x400, false) ∧
      fetching.soff 0 .le + fetching.slen 0 .le - 0x400 = 64 ∧
      (∃ u v, fetching.locate (fetching.tileP 0) (fetching.pbase 0 % 2 ^ 48 + 0x400) = some u ∧
        fetching.locate (fetching.tileP 0) (fetching.pbase 0 % 2 ^ 48 + 0x400 + min 64 64 - 1) = some v ∧ u.away = false ∧ v.away = false)) ∧
    (let s := arriving .load
     s.Live ∧ (s.contests 0 []).2.contains 0 = false ∧ ((s.contests 0 []).1.tile 0).march.running = false ∧
      ((s.contests 0 []).1.recvTake 0 ⟨.le, 1, [0], false, none, 32⟩ ⟨.load, false, false, true, zeroBits, 0⟩).isSome = true) ∧
    (let s := arriving .recv
     ((s.contests 0 []).1.tile 0).recvQ = [⟨.ne, 2, [32, 64], false, none, 32⟩] ∧
      ((s.contests 0 []).1.recvTake 0 ⟨.ne, 2, [32, 64], false, none, 32⟩ ⟨.recv, false, false, true, zeroBits, 0⟩).isSome = true) ∧
    (let s := arriving .place
     ((s.contests 0 []).1.tile 0).presented = some ⟨.place, false, false, true, zeroBits, 0⟩ ∧
      ((s.contests 0 []).1.placeTake 0 ⟨.place, false, false, true, zeroBits, 0⟩).isSome = true) ∧
    (let s := running (own up 0 0) 0 .ve nopWord
     s.Live ∧ ((s.contests 0 []).2.any fun p => decide (portEng p = some .ve)) = false ∧ ((s.contests 0 []).1.eng 0 .ve).infl.isEmpty = true ∧
      (let c := (s.contests 0 []).1
       let d := c.stallAs 0 .ve .active
       c.runBit 0 .ve = true ∧ (c.eng 0 .ve).faulted = false ∧ c.stepHold 0 .ve = none ∧ (d.eng 0 .ve).over = false ∧
        (d.eng 0 .ve).holdY = none ∧ d.head 0 .ve = .instr ⟨⟨63, 1, false, 0⟩, ⟨63, 1⟩, .nop⟩)) ∧
    (let s := (running (own up 0 0) 0 .ve nopWord).modEng 0 .ve fun x => { x with buf := [] }
     ((s.contests 0 []).1.stallAs 0 .ve .active).head 0 .ve = .starve) := by
  refine ⟨by decide +kernel, by decide +kernel, ⟨by decide +kernel, by decide +kernel, by decide +kernel, ?_⟩, by decide +kernel, by decide +kernel,
    by decide +kernel, by decide +kernel, by decide +kernel⟩
  refine ⟨(fetching.locate (fetching.tileP 0) (fetching.pbase 0 % 2 ^ 48 + 0x400)).getD ⟨fetching.rgnAt (R.HST_RGN 0 0) 0, 0, 31, fetching.mapEnt 0⟩,
    (fetching.locate (fetching.tileP 0) (fetching.pbase 0 % 2 ^ 48 + 0x400 + min 64 64 - 1)).getD
      ⟨fetching.rgnAt (R.HST_RGN 0 0) 0, 0, 31, fetching.mapEnt 0⟩, ?_⟩
  decide +kernel

theorem wit_TileCommandsComplete :
    one.Mail ∧ one.TilesOk 0 0 (.one 0) ∧ one.TilesOk 1 0 .all ∧ OwnFn 1 0 ∧ OwnFn 0 15 ∧
    (∀ g ∈ one.tilesIn 0 (.one 0), wholeGroups (one.ilv g) 0xFFFFFFFF = true ∧ one.stopped g = true ∧ one.quiet g = true) ∧
    one.OwnTile 1 0 ∧ (∀ j < 64, one.bankAcc 0 (one.bankOf 0 (0 + j)) = .ok) ∧
    one.fget (R.TIL_CTL 0) F.TIL_CTL_RUN = 0 ∧ one.ilv 0 ≤ 5 ∧ (∀ g ∈ one.tilesIn 0 (.one 0), (one.tile g).walk = none) := by
  decide +kernel
/-! ## Chapter 4 -/

def dLoft (fmt base n1 ns : Nat) : Nat := 1 + fmt * 16 + base * 256 + n1 * 2 ^ 32 + ns * 2 ^ 48
def dMem (addr count : Nat) : Nat := 2 + count * 256 + addr * 2 ^ 64
def dAcc (base nb1 nb2 expw : Nat) : Nat := 3 + base * 256 + nb1 * 2 ^ 32 + nb2 * 2 ^ 48 + expw * 2 ^ 64
def dVec (base count : Nat) : Nat := 8 + base * 256 + count * 2 ^ 32
def dWalk : Nat :=
  7 + 0x10000 * 2 ^ 8 + 2 ^ 32 + 2 ^ 56 + 2 ^ 64 * (128 + 7 * 2 ^ 20) +
    2 ^ 128 * (0x20000 + 2 ^ 24 + 2 ^ 28 + 2 ^ 31 + 0x12000 * 2 ^ 32) + 2 ^ 192 * (0x40000 + 0x14000 * 2 ^ 32 + 2 ^ 56)

def withDesc (s : State) (k w : Nat) : State := s.putLoftBytes 0 (32 * k) (leBytes 32 w)

/-- Every engine of tile 0 runs; banks 0 to 3 are ON; descriptors of every kind stand in the table at 0 that all engines share. -/
def ready : State :=
  let s := [0, 1, 2, 3].foldl (fun s b => bankOn s 0 b) (hosted (own up 0 0))
  let s := ((s.fset (R.DIE_RGN 0 0 0) F.MEM_RGN_KIND 4).fset (R.DIE_RGN 0 0 0) F.MEM_RGN_VALID 1).fset (R.DIE_RGN 0 0 0) F.MEM_RGN_SIZE 1
  let s := s.fset (R.TIL_CTL 0) F.TIL_CTL_RUN 63
  let s := [(1, dLoft 1 0x4000 1 1), (2, dLoft 1 0x4020 1 1), (3, dMem 0x8000 1), (4, dLoft 1 0x5000 8 1), (5, dLoft 1 0x5100 16 1),
    (6, dAcc 0x6000 1 1 0x7000), (7, 4 + 16 + 64 + 32768 * 256), (8, dLoft 3 0x8000 16 8), (9, dLoft 3 0xA000 1 8),
    (10, dAcc 0xB000 1 15 0xD000), (11, 5 + 10 * 16), (12, dLoft 1 0xE000 16 2), (13, dVec 0xF000 1), (14, dVec 0xF000 2),
    (15, 6 + 0x4000 * 2 ^ 64), (16, dWalk), (17, dLoft 1 0xF100 16 1)].foldl (fun s x => withDesc s x.1 x.2) s
  (s.putLoftBytes 0 0x10008 [1]).putLoftBytes 0 0x10014 [0x50, 1]

theorem canIssue {s : State} {e : Eng} {op : TOp} {h : Sig}
    (c : s.Live ∧ s.runBit 0 e = true ∧ (s.eng 0 e).faulted = false ∧ (s.eng 0 e).over = false ∧ (s.eng 0 e).holdY = none ∧
      s.rowDecode 0 h op = none ∧ s.hasCredit 0 e op = true) : s.CanIssue (0 : Tile) e h op :=
  ⟨c.1, c.2.1, c.2.2.1, c.2.2.2.1, c.2.2.2.2.1, c.2.2.2.2.2.1, c.2.2.2.2.2.2⟩

def noSig : Sig := ⟨63, 1⟩

/-- The issue checks pass and the execution runs to its end. -/
def flies (e : Eng) (op : TOp) : Bool :=
  match ready.opChk 0 e op with
  | .ok ds => decide ((ready.perform 0 (ready.iaddr 0 e) e op ds).x.stop = .go)
  | _ => false

def looping : State :=
  let s := running (own up 0 0) 0 .ve nopWord
  s.modEng 0 .ve fun x => { x with buf := [(0x400, .word nopWord), (0x408, .word nopWord)] }
def branching : State := ((looping.fset (R.TIL_VAR 0 3) F.TIL_VAR_POINT 255).fset (R.TIL_VAR 0 3) F.TIL_VAR_VARIANT 1).fset (R.TIL_VAR 0 3) F.TIL_VAR_VALID 1
def yielding : State := looping.fset (R.TIL_YREQ 0) F.TIL_YREQ_REQ 1

theorem wit_PlainInstructionsComplete :
    looping.CanIssue (0 : Tile) .ve noSig .nop ∧
    looping.CanIssue (0 : Tile) .ve noSig (.hint 4 (0xFFF#12).toNat (0#12).toNat (3 : Fin 4)) ∧
    looping.CanIssue (0 : Tile) .ve noSig (.jmp (sext 30 (0x3FFFFFFF#30).toNat)) ∧
    (looping.CanIssue (0 : Tile) .ve noSig (.loop (3 : Fin 4) (0#16).toNat 1) ∧ looping.CanIssue (0 : Tile) .ve noSig (.loop (3 : Fin 4) (65535#16).toNat 1) ∧
      loopChk (cellAt (looping.soff 0 .ve) (looping.slen 0 .ve) (looping.eng 0 .ve).buf) .ve (looping.eng 0 .ve).loops (looping.spc 0 .ve) 3 1 = .ok) ∧
    (branching.CanIssue (0 : Tile) .ve noSig (.brv (255#8).toNat 2) ∧ branching.brvRead 0 (255#8).toNat 2 = .slot 1) ∧
    (looping.CanIssue (0 : Tile) .ve noSig (.yield (7#16).toNat) ∧ looping.flag (R.TIL_YREQ 0) F.TIL_YREQ_REQ = false) ∧
    (yielding.CanIssue (0 : Tile) .ve noSig (.yield (0xFFFF#16).toNat) ∧ yielding.flag (R.TIL_YREQ 0) F.TIL_YREQ_REQ = true) ∧
    looping.CanIssue (0 : Tile) .ve noSig .fence ∧ looping.CanIssue (0 : Tile) .ve noSig .endStream := by
  refine ⟨?_, ?_, ?_, ⟨?_, ?_, by decide +kernel⟩, ⟨?_, by decide +kernel⟩, ⟨?_, by decide +kernel⟩, ⟨?_, by decide +kernel⟩, ?_, ?_⟩ <;>
    exact canIssue (by decide +kernel)

/-- Engine operations with the descriptors of `ready`: those whose evaluation is short. -/
def readyOps : List (Eng × TOp) :=
  [(.le, .ld 3 1), (.le, .ldq 1), (.le, .cpy 1 2), (.le, .acopy 3 15), (.le, .ldd 7 0), (.ve, .lane 13 13 13 0), (.ve, .fn 13 13 0),
   (.ve, .red 13 13 true), (.ve, .smx 6 1 13), (.se, .st 1 3), (.se, .sta 6 6), (.se, .atom 14 3 0), (.ne, .send 1 true false),
   (.ne, .recv 2 true)]

/-- The matrix product and the requantisation. -/
def readyLong : List (Eng × TOp) := [(.me, .mm 4 5 6 0 false false), (.ve, .rq 6 17 7)]

/-- The descriptors that the issue checks answer. -/
def checked (e : Eng) (op : TOp) : List Desc :=
  match ready.opChk 0 e op with
  | .ok ds => ds
  | _ => []
def emulDs : List Desc := checked .ve (.emul 12 12 10 false)
def normDs : List Desc := checked .ve (.norm 8 9 11)

theorem ready_base : ∀ e ∈ engsAll, ready.Live ∧ ready.runBit 0 e = true ∧ (ready.eng 0 e).faulted = false ∧
    (ready.eng 0 e).over = false ∧ (ready.eng 0 e).holdY = none := by decide +kernel

theorem ready_issue {e : Eng} {op : TOp} (h : ready.rowDecode 0 noSig op = none ∧ ready.hasCredit 0 e op = true) :
    ready.CanIssue (0 : Tile) e noSig op :=
  have b := ready_base e (by cases e <;> decide)
  canIssue ⟨b.1, b.2.1, b.2.2.1, b.2.2.2.1, b.2.2.2.2, h.1, h.2⟩

theorem ready_flies {e : Eng} {op : TOp} (h : ready.rowDecode 0 noSig op = none ∧ ready.hasCredit 0 e op = true ∧ flies e op = true) :
    ready.CanIssue (0 : Tile) e noSig op ∧
      ∃ ds, ready.opChk 0 e op = .ok ds ∧ (ready.perform 0 (ready.iaddr 0 e) e op ds).x.stop = .go := by
  refine ⟨ready_issue ⟨h.1, h.2.1⟩, ?_⟩
  have f := h.2.2
  unfold flies at f
  split at f
  · exact ⟨_, by assumption, of_decide_eq_true f⟩
  · simp at f

theorem ready_ops : ∀ x ∈ readyOps, ready.rowDecode 0 noSig x.2 = none ∧ ready.hasCredit 0 x.1 x.2 = true ∧ flies x.1 x.2 = true := by
  decide +kernel
theorem ready_mm : ready.rowDecode 0 noSig (.mm 4 5 6 0 false false) = none ∧ ready.hasCredit 0 .me (.mm 4 5 6 0 false false) = true ∧
    flies .me (.mm 4 5 6 0 false false) = true := by decide +kernel
theorem ready_rq : ready.rowDecode 0 noSig (.rq 6 17 7) = none ∧ ready.hasCredit 0 .ve (.rq 6 17 7) = true ∧
    flies .ve (.rq 6 17 7) = true := by decide +kernel

theorem ready_emul : ready.CanIssue (0 : Tile) .ve noSig (.emul 12 12 10 false) ∧
    ∃ ds, ready.opChk 0 .ve (.emul 12 12 10 false) = .ok ds ∧
      (ready.perform 0 (ready.iaddr 0 .ve) .ve (.emul 12 12 10 false) ds).x.stop = .go := by
  refine ⟨ready_issue (by decide +kernel), emulDs, by decide +kernel, ?_⟩
  simp only [State.perform]
  exact opEmul_go _ _ _ _ _ _ (by decide +kernel)

theorem ready_norm : ready.CanIssue (0 : Tile) .ve noSig (.norm 8 9 11) ∧
    ∃ ds, ready.opChk 0 .ve (.norm 8 9 11) = .ok ds ∧ (ready.perform 0 (ready.iaddr 0 .ve) .ve (.norm 8 9 11) ds).x.stop = .go := by
  refine ⟨ready_issue (by decide +kernel), normDs, by decide +kernel, ?_⟩
  simp only [State.perform]
  exact opNorm_go _ _ _ _ _ _ _ (by decide +kernel) (by decide +kernel)

theorem ready_walk : ready.CanIssue (0 : Tile) .aw noSig (.walk (16 : Fin 64)) ∧
    ∃ ds, ready.walkChk 0 (16 : Fin 64) = .ok ds ∧ (opWalk ready 0 (ds.getD 0 ⟨0, 0⟩)).x.stop = .go :=
  ⟨ready_issue (by decide +kernel), [ready.descRead 0 .aw 16], by decide +kernel, by decide +kernel⟩

theorem wit_OperationsGoInFlight :
    (∀ x ∈ readyOps ++ readyLong ++ [(.ve, .emul 12 12 10 false), (.ve, .norm 8 9 11)], ready.CanIssue (0 : Tile) x.1 noSig x.2 ∧
      ∃ ds, ready.opChk 0 x.1 x.2 = .ok ds ∧ (ready.perform 0 (ready.iaddr 0 x.1) x.1 x.2 ds).x.stop = .go) ∧
    (ready.CanIssue (0 : Tile) .aw noSig (.walk (16 : Fin 64)) ∧
      ∃ ds, ready.walkChk 0 (16 : Fin 64) = .ok ds ∧ (opWalk ready 0 (ds.getD 0 ⟨0, 0⟩)).x.stop = .go) := by
  refine ⟨fun x hx => ?_, ready_walk⟩
  rcases List.mem_append.1 hx with hx | hx
  · rcases List.mem_append.1 hx with hx | hx
    · exact ready_flies (ready_ops x hx)
    · rcases List.mem_cons.1 hx with rfl | hx
      · exact ready_flies ready_mm
      · rw [List.mem_singleton] at hx
        subst hx
        exact ready_flies ready_rq
  · rcases List.mem_cons.1 hx with rfl | hx
    · exact ready_emul
    · rw [List.mem_singleton] at hx
      subst hx
      exact ready_norm

def parking : State := (up.fset (R.TIL_YREQ 0) F.TIL_YREQ_REQ 1).each engsAll fun s e => s.modEng 0 e fun x => { x with ended := true }
def parkingAt : State := parking.modEng 0 .ne fun x => { x with ended := false, holdY := some 65535 }

theorem wit_PositionRegistersComplete :
    (parking.Live ∧ parking.flag (R.TIL_YREQ 0) F.TIL_YREQ_REQ = true ∧ parking.flag (R.TIL_YREQ 0) F.TIL_YREQ_AT = false ∧
      parking.quiet 0 = true ∧ ∀ e ∈ engsAll, (parking.eng 0 e).ended = true ∧ (parking.eng 0 e).holdY = none) ∧
    (parkingAt.Live ∧ parkingAt.flag (R.TIL_YREQ 0) F.TIL_YREQ_REQ = true ∧ parkingAt.flag (R.TIL_YREQ 0) F.TIL_YREQ_AT = false ∧
      parkingAt.quiet 0 = true ∧ (∀ e ∈ engsAll, ((parkingAt.eng 0 e).ended = true ∧ (parkingAt.eng 0 e).holdY = none) ∨
        ((parkingAt.eng 0 e).holdY = some 65535 ∧ (parkingAt.eng 0 e).faulted = false)) ∧ (parkingAt.eng 0 .ne).holdY = some 65535) ∧
    ((up.eng 0 .ne).holdY = none ∧ (parkingAt.eng 0 .ne).holdY ≠ none ∧ (parkingAt.eng 0 .ne).faulted = false ∧
      ((parkingAt.modEng 0 .ne fun x => { x with faulted := true }).eng 0 .ne).holdY ≠ none ∧
      ((parkingAt.modEng 0 .ne fun x => { x with faulted := true }).eng 0 .ne).faulted = true) ∧
    up.Live ∧ up.runBit 1535 .se = false ∧ (up.eng 1535 .se).infl = [] ∧ up.fget (R.TIL_CTL 1535) F.TIL_CTL_RUN = 0 := by
  decide +kernel

/-- The SM3 digest of `image` with its DIGEST field as zero. -/
def imageDigest : List Byte :=
  [172, 149, 121, 19, 244, 159, 135, 118, 122, 142, 230, 105, 95, 79, 20, 64, 251, 152, 185, 5, 69, 188, 81, 145, 23, 218, 183, 11, 244, 148,
   168, 115]

/-- A program image at offset 0: magic, version, one entry point, no streams, and its own digest. -/
def image : State :=
  (put (put (put (put (hosted (own up 0 0)) 0 4 0x484C4942) 4 2 1) 6 2 1) 8 4 2).putHost 0x280 imageDigest

theorem localBytes_map (s : State) (p : Nat) (n : Nat) : ∀ o, (s.localBytes p o n).1 = (List.range n).map fun j =>
    (sheafBytes (s.localUnit p ((o + j) / 32 * 32)).bits).getD ((o + j) % 32) 0 := by
  induction n with
  | zero => intro o; rfl
  | succ n ih =>
    intro o
    rw [State.localBytes, List.range_succ_eq_map, List.map_cons, List.map_map]
    simp only [ih, Nat.add_zero]
    congr 1
    refine List.map_congr_left fun j _ => ?_
    simp only [Function.comp, Nat.succ_eq_add_one, Nat.add_assoc, Nat.add_comm 1 j]

theorem localBytes_units (s : State) (p : Nat) (m : Nat) : (s.localBytes p 0 (32 * m)).1 = (List.range m).flatMap fun i =>
    (List.range 32).map fun j => (sheafBytes (s.localUnit p (32 * i)).bits).getD j 0 := by
  induction m with
  | zero => rfl
  | succ m ih =>
    rw [localBytes_map] at ih ⊢
    rw [Nat.mul_succ, List.range_add, List.map_append, ih, List.range_succ (n := m), List.flatMap_append, List.flatMap_singleton, List.map_map]
    congr 1
    refine List.map_congr_left fun j hj => ?_
    rw [List.mem_range] at hj
    have h1 : (0 + (32 * m + j)) / 32 * 32 = 32 * m := by omega
    have h2 : (0 + (32 * m + j)) % 32 = j := by omega
    simp only [Function.comp, h1, h2]

theorem image_bytes : (image.localBytes 0 0 (32 * 32)).1 =
    [0x42, 0x49, 0x4C, 0x48, 1, 0, 1, 0, 2] ++ List.replicate 631 0 ++ imageDigest ++ List.replicate 352 0 := by
  rw [localBytes_units]
  decide +kernel

theorem image_sm3 : sm3 ([0x42, 0x49, 0x4C, 0x48, 1, 0, 1, 0, 2] ++ List.replicate 1015 0) = imageDigest := by decide +kernel

theorem image_digest : image.progDigest 0 0 = imageDigest := by
  have h : image.progLen 0 0 = 32 * 32 := by decide +kernel
  have k : ([0x42, 0x49, 0x4C, 0x48, 1, 0, 1, 0, 2] ++ List.replicate 631 0 ++ imageDigest ++ List.replicate 352 (0 : Byte)).take 0x280 ++
      List.replicate 32 0 ++ ([0x42, 0x49, 0x4C, 0x48, 1, 0, 1, 0, 2] ++ List.replicate 631 0 ++ imageDigest ++ List.replicate 352 0).drop 0x2A0 =
      [0x42, 0x49, 0x4C, 0x48, 1, 0, 1, 0, 2] ++ List.replicate 1015 0 := by decide +kernel
  rw [State.progDigest, h, image_bytes]
  exact (congrArg sm3 k).trans image_sm3

theorem image_digest_at : imageDigest = (image.localBytes 0 (0 + 0x280) 32).1 := by decide +kernel
theorem image_tiles : image.tilesIn 0 .all = [0] := by decide +kernel
theorem image_head : image.locNum 0 0 4 = 0x484C4942 ∧ image.locNum 0 4 2 = 1 ∧ image.locNum 0 6 2 = 1 ∧
    (∀ e < 6, image.locNum 0 (0x10 + 8 * e) 4 % 64 = 0 ∧ image.locNum 0 (0x14 + 8 * e) 4 % 8 = 0 ∧ image.locNum 0 (0x14 + 8 * e) 4 = 0) := by
  decide +kernel

theorem image_touch : image.readTouch 0 0 (image.progLen 0 0) = image := by decide +kernel

theorem wit_ProgramCommandsComplete :
    (image.Mail ∧ OwnFn 1 0 ∧ tileSetBad .all = false ∧
      (image.locNum 0 0 4 = 0x484C4942 ∧ image.locNum 0 4 2 = 1 ∧ image.locNum 0 6 2 = 1 ∧
        (∀ e < 6, image.locNum 0 (0x10 + 8 * e) 4 % 64 = 0 ∧ image.locNum 0 (0x14 + 8 * e) 4 % 8 = 0 ∧ image.locNum 0 (0x14 + 8 * e) 4 = 0)) ∧
      image.progDigest 0 0 = (image.localBytes 0 (0 + 0x280) 32).1 ∧
      (∀ g ∈ image.tilesIn 0 .all, image.tilePart g = some 0 ∧ image.quiet g = true ∧ image.fget (R.TIL_CTL g) F.TIL_CTL_RUN = 0 ∧
        image.progNum g 8 4 % 8 = image.ilv g ∧ 0 < image.progNum g 6 2)) ∧
    image.readTouch 0 0 (image.progLen 0 0) = image ∧
    (fetching.locNum 0 0x10 4 = 0x400 ∧ fetching.locNum 0 0x14 4 = 64 ∧ fetching.rgnOf 0 (0 + 0x400 + 64 - 1) = fetching.rgnOf 0 0) ∧
    image.tilesIn 0 .all = [0] ∧ image.sec.log.length < 4096 ∧ image.OwnTile 1 0 := by
  refine ⟨⟨by decide +kernel, by decide +kernel, by decide +kernel, image_head, image_digest.trans image_digest_at, ?_⟩, image_touch, by decide +kernel, image_tiles,
    by decide +kernel, by decide +kernel⟩
  rw [image_tiles]
  decide +kernel
/-! ## Chapter 5 -/

/-- Alias `a` of tile `g` names counter `idx` of type `typ`. -/
def named (s : State) (g a typ idx : Nat) : State :=
  (s.fset (R.TIL_ALIAS g a) F.TIL_ALIAS_TYPE typ).fset (R.TIL_ALIAS g a) F.TIL_ALIAS_INDEX idx

/-- Engine `e` of tile `g` has its test of alias `a` against `thr` in the state `w`. -/
def testing (s : State) (g : Nat) (e : Eng) (a thr : Nat) (w : WaitSt) : State :=
  s.modEng g e fun x => { x with wf := some ⟨a, thr, true, 1⟩, timer := some 1, wait := w }

def semTile : State := named up 1535 62 1 2047
def arcTile : State := named up 1535 62 2 63
def posted : State := testing (testing (named arcTile 1535 0 2 63) 1535 .le 0 2 .posted) 1535 .ne 62 2 .posted

theorem wit_SignalsAndWaitsComplete :
    (semTile.Live ∧ semTile.aliasType 1535 62 = 1 ∧ semTile.NoPoolPost (1535 / 64) (semTile.aliasIdx 1535 62 / 32) ∧
      semTile.semCount 23 2047 + 1 ≤ 65535 ∧ 65535 < (semTile.fset (R.SYN_SEM 23 2047) F.SYN_SEM_COUNT 65535).semCount 23 2047 + 1) ∧
    (arcTile.aliasType 1535 62 = 2 ∧ arcTile.aliasIdx 1535 62 = 63 ∧ arcTile.NoTilePost 1535 2 63 ∧ arcTile.arcCount 1535 63 + 32 ≤ 65535) ∧
    (named up 0 0 3 63).aliasType 0 0 = 3 ∧
    (let s := semTile.modTile 1535 fun t => { t with batch := [.signal .ne 62 32 7] }
     (s.tile 1535).batch = [.signal .ne 62 32 7] ∧ s.aliasType 1535 62 = 1) ∧
    (let s := (testing (semTile.fset (R.SYN_SEM 23 2047) F.SYN_SEM_COUNT 256) 1535 .ne 62 256 .inBatch).modTile 1535
        fun t => { t with batch := [.test .ne 62 256 true false] }
     (s.tile 1535).batch = [.test .ne 62 256 true false] ∧ (s.eng 1535 .ne).wait = .inBatch ∧ s.aliasType 1535 62 = 1 ∧ 256 ≤ s.semCount 23 2047) ∧
    (posted.Live ∧ engsTestOrder.idxOf Eng.le < engsTestOrder.idxOf Eng.ne ∧ (posted.eng 1535 .le).wait = .posted ∧
      (posted.eng 1535 .ne).wait = .posted ∧ (posted.eng 1535 .le).wf = some ⟨0, 2, true, 1⟩ ∧ (posted.eng 1535 .ne).wf = some ⟨62, 2, true, 1⟩ ∧
      posted.aliasType 1535 0 = 2 ∧ posted.aliasIdx 1535 0 = 63 ∧
      (∀ e ∈ engsAll, e ≠ .le → e ≠ .ne → (posted.eng 1535 e).isPosted = false) ∧ 2 ≤ posted.arcCount 1535 63 + 3 ∧
      posted.arcCount 1535 63 + 3 < 2 + 2) ∧
    (let s := testing semTile 1535 .ne 62 1 .inBatch
     s.Live ∧ (s.eng 1535 .ne).timer = some 1 ∧ (s.eng 1535 .ne).wait = .inBatch) ∧
    (let s := testing semTile 1535 .ne 62 1 .posted
     (s.eng 1535 .ne).wait = .posted ∧ s.aliasType 1535 62 = 1) ∧
    (let s := testing semTile 1535 .ne 62 1 .granted
     s.Live ∧ (s.eng 1535 .ne).wf = some ⟨62, 1, true, 1⟩ ∧ (s.eng 1535 .ne).timer = some 1 ∧ (s.eng 1535 .ne).wait = .granted ∧
       s.flag (R.TIL_CNTCTL 1535) F.TIL_CNTCTL_FREEZE = false) ∧
    (let s := (testing arcTile 1535 .ne 62 1 .posted).fset (R.TIL_CTL 1535) F.TIL_CTL_RUN 63
     s.aliasType 1535 62 = 2 ∧ s.aliasCount 1535 62 < 1 ∧ s.runBit 1535 .ne = true ∧
       1 ≤ (s.fset (R.TIL_ARC 1535 63) F.TIL_ARC_COUNT 1).aliasCount 1535 62) ∧
    (up.flag (R.TIL_ARC 0 0) F.TIL_ARC_EXPIRED = false ∧ up.arcCount 0 0 < 65535 ∧ up.NoTilePost 0 2 0) := by
  decide +kernel

/-- A node's channel with an EXPECT and EN set. -/
def clnode (ex ar pe : Nat) : State :=
  (((up.fset (R.SYN_CLN 23 7 63) F.SYN_CLN_EXPECT ex).fset (R.SYN_CLN 23 7 63) F.SYN_CLN_EN 1).fset (R.SYN_CLN 23 7 63) F.SYN_CLN_ARRIVED ar).fset
    (R.SYN_CLN 23 7 63) F.SYN_CLN_PENDING pe

theorem wit_BarrierNodesComplete :
    (let s := clnode 0xFF 0x7F 0
     s.Live ∧ s.flag (R.SYN_CLN 23 7 63) F.SYN_CLN_EN = true ∧ (s.fget (R.SYN_CLN 23 7 63) F.SYN_CLN_EXPECT).testBit 7 = true ∧
      (s.fget (R.SYN_CLN 23 7 63) F.SYN_CLN_ARRIVED).testBit 7 = false ∧ s.flag (R.SYN_CLN 23 7 63) F.SYN_CLN_TOP = false ∧
      s.flag (R.SYN_CLN 23 7 63) F.SYN_CLN_UP = false ∧ covers (0x7F + 2 ^ 7) 0xFF = true ∧ covers (0x3F + 2 ^ 7) 0xFF = false) ∧
    (let s := clnode 0xFF 0xFF 0
     (s.fget (R.SYN_CLN 23 7 63) F.SYN_CLN_ARRIVED).testBit 7 = true ∧ (s.fget (R.SYN_CLN 23 7 63) F.SYN_CLN_PENDING).testBit 7 = false) ∧
    (let s := (up.fset (R.SYN_DIE 23 63) F.SYN_DIE_EXPECT 0x81).fset (R.SYN_DIE 23 63) F.SYN_DIE_EN 1
     s.flag (R.SYN_DIE 23 63) F.SYN_DIE_EN = true ∧ (s.fget (R.SYN_DIE 23 63) F.SYN_DIE_EXPECT).testBit 7 = true ∧
      covers (s.fget (R.SYN_DIE 23 63) F.SYN_DIE_ARRIVED ||| 2 ^ 7) (s.fget (R.SYN_DIE 23 63) F.SYN_DIE_EXPECT) = false ∧
      (s.fset (R.SYN_DIE 23 63) F.SYN_DIE_UP 1).flag (R.SYN_DIE 23 63) F.SYN_DIE_UP = true ∧
      (s.fset (R.SYN_DIE 23 63) F.SYN_DIE_UP 1).flag (R.SYN_DIE 23 63) F.SYN_DIE_EN = true) ∧
    (up.nodeEn (.die 23) 63 = false ∧ up.nodeEn .fab 0 = false) ∧
    (let s := ((up.fset (R.PKN_CFG 63) F.PKN_CFG_EXPECT 0x800001).fset (R.PKN_CFG 63) F.PKN_CFG_EN 1).fset (R.PKN_CFG 63) F.PKN_CFG_SCHILD 1
     s.flag (R.PKN_CFG 63) F.PKN_CFG_EN = true ∧ (s.fget (R.PKN_CFG 63) F.PKN_CFG_EXPECT).testBit 23 = true ∧
      s.flag (R.PKN_CFG 63) F.PKN_CFG_SCHILD = true ∧ covers (s.fget (R.PKN_ARR 63) F.PKN_ARR_ARRIVED) (s.fget (R.PKN_CFG 63) F.PKN_CFG_EXPECT) = false ∧
      covers (s.fget (R.PKN_ARR 63) F.PKN_ARR_ARRIVED ||| 2 ^ 23) (s.fget (R.PKN_CFG 63) F.PKN_CFG_EXPECT) = false) ∧
    (let s := (up.fset (R.FBN_KIDS 0 63) F.FBN_KIDS_LINKS (2 ^ 35 + 1)).fset (R.FBN_CFG 0 63) F.FBN_CFG_EN 1
     s.flag (R.FBN_CFG 0 63) F.FBN_CFG_EN = true ∧ (s.fget (R.FBN_KIDS 0 63) F.FBN_KIDS_LINKS).testBit 35 = true ∧
      covers (s.fget (R.FBN_ARR 0 63) F.FBN_ARR_LINKS ||| 2 ^ 35) (s.fget (R.FBN_KIDS 0 63) F.FBN_KIDS_LINKS) = false) ∧
    (let s := (clnode 0xFF 0xFF 0x7F).fset (R.SYN_CLN 23 7 63) F.SYN_CLN_UP 1
     s.flag (R.SYN_CLN 23 7 63) F.SYN_CLN_EN = true ∧ s.flag (R.SYN_CLN 23 7 63) F.SYN_CLN_UP = true ∧
      covers (s.fget (R.SYN_CLN 23 7 63) F.SYN_CLN_PENDING) (s.fget (R.SYN_CLN 23 7 63) F.SYN_CLN_EXPECT) = false ∧
      s.releasable (.cluster 23 7) 63 = true ∧ s.nodeBusy (.cluster 23 7) 63 = true) ∧
    up.nodeBusy (.cluster 23 7) 63 = false ∧ up.nodeBusy (.die 23) 63 = false ∧ up.nodeBusy .pkg 63 = false ∧ up.nodeBusy .fab 63 = false := by
  decide +kernel

/-- Tile 0 of partition 0 in a part whose partition holds no semaphore group; then with group 63 of die 0. -/
def syncOwn : State := own up 0 0
def syncGrp : State := (syncOwn.fset (R.SYN_GRP 0 63) F.SYN_GRP_ASSIGNED 1).fset (R.SYN_GRP 0 63) F.SYN_GRP_PART 0

theorem wit_SyncWritesAndCommandsComplete :
    (up.Live ∧ up.NoPoolPost 23 63 ∧ up.owned 23 2047 = false ∧ up.stopped 1535 = true ∧ up.aliasOk 1535 62 0 0 = true ∧ up.aliasOk 1535 62 2 63 = true ∧
      up.aliasOk 1535 62 2 64 = false ∧ (up.fset (R.TIL_CTL 1535) F.TIL_CTL_RUN 1).stopped 1535 = false ∧ up.NoTilePost 1535 2 63) ∧
    (syncGrp.Mail ∧ (syncGrp.groupsOf 0 0).length = 1 ∧ ((syncGrp.groupsOf 0 0).filter (syncGrp.unowned 0)).length = 1 ∧
      64 ≤ (syncGrp.groupsOf 0 0).length + (syncGrp.freeGroups 0).length) ∧
    (OwnFn 1 0 ∧ syncGrp.tilePart 0 = some 0 ∧ syncGrp.stopped 0 = true ∧ syncGrp.grpPart (0 / 64) (2047 / 32) = some 0 ∧
      syncGrp.owned (0 / 64) 2047 = false ∧ syncGrp.NoPoolPost (0 / 64) (2047 / 32) ∧ (∀ e ∈ engsAll, (syncGrp.eng 0 e).isPosted = false) ∧
      syncGrp.aliasOk 0 62 3 63 = true) ∧
    syncOwn.TilesOk 1 0 .all ∧ (∀ n ∈ allNodes, syncOwn.nodePart n 0 = 0 ∧ syncOwn.nodeBusy n 0 = false) ∧
    (∀ j ∈ [1, 3], 1 ≤ j ∧ j ≤ 3) ∧ OwnFn 0 15 := by
  decide +kernel
/-! ## Chapter 6 -/

/-- A part whose location register is written before its lock. -/
def located (tsv slot : Nat) : State := (up.fset R.STW_LOC F.STW_LOC_TSVALID tsv).fset R.STW_LOC F.STW_LOC_TRAYSLOT slot

theorem wit_OrganisationCommandsComplete :
    (let s := located 1 31
     s.Live ∧ s.flag R.STW_LOC F.STW_LOC_LOCK = false ∧ s.flag R.STW_LOC F.STW_LOC_TSVALID = true ∧
      (0x80000FFF#32).toNat.testBit 31 = true ∧ (0x80000FFF#32).toNat % 32 = s.fget R.STW_LOC F.STW_LOC_TRAYSLOT ∧
      (0x80000FE0#32).toNat % 32 ≠ s.fget R.STW_LOC F.STW_LOC_TRAYSLOT) ∧
    (located 0 0).flag R.STW_LOC F.STW_LOC_TSVALID = false ∧
    ((located 1 31).fset R.STW_LOC F.STW_LOC_LOCK 1).flag R.STW_LOC F.STW_LOC_LOCK = true ∧
    up.moduleIn 0 = true ∧ up.moduleIn 229 = true ∧ up.islandOn 1699 = true ∧
    (∃ i : Island, (up.fset R.STW_IDENT F.STW_IDENT_FWIF 1).islandOn i = true) := by
  refine ⟨by decide +kernel, by decide +kernel, by decide +kernel, by decide +kernel, by decide +kernel, by decide +kernel,
    ⟨0, by decide +kernel⟩⟩

/-- Output `o` of router `r` of die `d` runs a program whose first entries are `ws`. -/
def routing (s : State) (d r o : Nat) (ws : List Nat) : State :=
  ((List.range ws.length).foldl (fun s i => s.setTable (outKey d r o) i (ws.getD i 0)) s).modOut (outKey d r o)
    fun x => { x with run := .run, entry := 0 }

/-- A MOVE of one unit of input 0 to output 8. -/
def moveWord : Nat := 1 * 2 ^ 11 + 2 ^ 8 * 2 ^ 27
def moveEnt : MoveEnt := ⟨false, false, 0, 1, 256, 0, 0, 0⟩
def aUnit : BUnit := ⟨.place, false, false, true, zeroBits, 0⟩
def moving : State := (routing up 0 4 8 [moveWord]).setInq (inKey 0 4 0) [aUnit]
def moving2 : State := (routing up 0 4 8 [2 * 2 ^ 11 + 2 ^ 8 * 2 ^ 27]).setInq (inKey 0 4 0) [aUnit]

/-- A MOVE over the bridge from die 0 to die 1 while a SYNC message waits there, after `n` BULK slots. -/
def crossEnt : MoveEnt := ⟨false, false, 0, 1, 2 ^ 13, 0, 0, 0⟩
def crossing (n : Nat) : State :=
  let s := ((routing up 0 3 13 [1 * 2 ^ 11 + 2 ^ 13 * 2 ^ 27]).setInq (inKey 0 3 0) [aUnit]).setSlots 0 0 n
  { s with net := { s.net with sync := [⟨0, 1, .tileRelease 64 0⟩] } }

theorem wit_RouteProgramsComplete :
    (moving.Live ∧ outOk 0 4 8 = true ∧ (moving.out (outKey 0 4 8)).run = .run ∧ moving.flag (R.DIE_CTL 0) F.DIE_CTL_FENCE = false ∧
      moving.entryAt (outKey 0 4 8) (moving.out (outKey 0 4 8)).entry = .move moveEnt ∧ moveLegal 0 4 8 (moving.alien 0 4 8) moveEnt = true ∧
      moving.moveStep 0 4 8 moveEnt = .take aUnit 0 ∧ ∀ y ∈ maskOuts moveEnt.omask, moving.yields 0 4 y = false) ∧
    (let s := crossing 15
     s.Live ∧ outOk 0 3 13 = true ∧ (s.out (outKey 0 3 13)).run = .run ∧ s.flag (R.DIE_CTL 0) F.DIE_CTL_FENCE = false ∧
      s.entryAt (outKey 0 3 13) (s.out (outKey 0 3 13)).entry = .move crossEnt ∧ moveLegal 0 3 13 (s.alien 0 3 13) crossEnt = true ∧
      s.moveStep 0 3 13 crossEnt = .take aUnit 0 ∧ 13 ∈ maskOuts crossEnt.omask ∧ s.yields 0 3 13 = true) ∧
    (moving2.moveAt 0 4 8 = some ⟨false, false, 0, 2, 256, 0, 0, 0⟩ ∧
      moving2.moveStep 0 4 8 ⟨false, false, 0, 2, 256, 0, 0, 0⟩ = .take aUnit 1) ∧
    (routing up 0 4 8 [moveWord]).moveStep 0 4 8 moveEnt = .hold 2 ∧
    (routing up 0 4 8 [2 ^ 8 * 2 ^ 27]).moveStep 0 4 8 ⟨false, false, 0, 0, 256, 0, 0, 0⟩ = .pass ∧
    (let s := routing up 31 0 12 [1 + 65535 * 2 ^ 5 + 1023 * 2 ^ 21]
     outOk 31 0 12 = true ∧ s.entryAt (outKey 31 0 12) (s.out (outKey 31 0 12)).entry = .loop 65535 1023 0 ∧
      (s.out (outKey 31 0 12)).loops = []) ∧
    (let s := routing up 31 0 12 [1 + 2 ^ 21 + 2 ^ 31]
     s.entryAt (outKey 31 0 12) (s.out (outKey 31 0 12)).entry = .loop 0 1 1) ∧
    (let s := (((routing up 31 0 12 [2 + 255 * 2 ^ 5 + 2 * 2 ^ 13, 3, 3]).fset (R.BNET_VAR 31 3) F.BNET_VAR_POINT 255).fset
        (R.BNET_VAR 31 3) F.BNET_VAR_VARIANT 1).fset (R.BNET_VAR 31 3) F.BNET_VAR_VALID 1
     s.entryAt (outKey 31 0 12) (s.out (outKey 31 0 12)).entry = .brv 255 2 false ∧ s.brvJumps (outKey 31 0 12) 0 2 = true ∧
      s.netVar 31 (brvPoint (s.out (outKey 31 0 12)) 255 false) 2 = .slot 1) ∧
    (let s := routing up 31 0 12 [3 + 1023 * 2 ^ 5]
     s.entryAt (outKey 31 0 12) (s.out (outKey 31 0 12)).entry = .jump 1023) ∧
    (let s := routing up 31 0 12 [4]
     s.entryAt (outKey 31 0 12) (s.out (outKey 31 0 12)).entry = .halt) ∧
    (let s := routing up 0 4 8 [moveWord]
     s.fget (R.BNET_WDOG 0) F.BNET_WDOG_CYCLES ≠ 0 ∧ (s.out (outKey 0 4 8)).stalled = false ∧ 2 ≤ s.outState 0 4 8 ∧
      s.flag (R.BNET_FAULT 0) F.BNET_FAULT_VALID = false) := by
  decide +kernel

def syncQueued : State :=
  { up with net := { up.net with sync := [⟨0, 1, .tileRelease 64 0⟩, ⟨31, 0, .tileRelease 0 63⟩] } }

theorem wit_NetworkWritesComplete :
    (let s := (up.fset (R.BNET_OCFG 0 4 8) F.BNET_OCFG_ASSIGNED 1).fset (R.BNET_OCFG 0 4 8) F.BNET_OCFG_PART 15
     s.Live ∧ s.outsOf 0 15 = [(4, 8)] ∧ (s.out (outKey 0 4 8)).run = .halt) ∧
    (outOk 0 (up.rpAddr 0).1 (up.rpAddr 0).2.1 = true ∧ up.atHalt 0 (up.rpAddr 0).1 (up.rpAddr 0).2.1 = true) ∧
    (routing up 0 0 0 [4]).atHalt 0 ((routing up 0 0 0 [4]).rpAddr 0).1 ((routing up 0 0 0 [4]).rpAddr 0).2.1 = false ∧
    ((0x00130000#64).toNat.testBit 63 = false ∧ up.quotaSum 7 [(31, (0x001F0010#64).toNat % 65536)] ≤ gwStorage 7 ∧
      up.qUsed 7 31 ≤ (0x001F0010#64).toNat % 65536) ∧
    gwStorage 0 < up.quotaSum 0 [(0, (0xFFFF#64).toNat % 65536)] ∧
    ((2#64).toNat % 65536 < (up.fset (R.GW_QCFG (gwDie 0) 0) F.GW_QCFG_USED 3).qUsed 0 0) ∧
    (syncQueued.Live ∧ syncQueued.net.sync = [⟨0, 1, .tileRelease 64 0⟩] ++ ⟨31, 0, .tileRelease 0 63⟩ :: [] ∧
      (∀ x ∈ [(⟨0, 1, .tileRelease 64 0⟩ : SyncMsg)], ¬ (x.src = 31 ∧ x.dst = 0)) ∧
      ∀ e ∈ syncEdges 31 0, syncQueued.laneOpen e.1 e.2 = true) ∧
    ((crossing 0).Live ∧ (crossing 0).net.sync = [⟨0, 1, .tileRelease 64 0⟩] ∧ (0, 1) ∈ syncEdges 0 1 ∧ (crossing 0).laneOpen 0 1 = false) ∧
    ((up.fset (R.GW_QCFG (gwDie 0) 0) F.GW_QCFG_ASSIGNED 1).queuePart 0 0 = some ((1 : Fun).val - 1) ∧ up.queuePart 0 0 ≠ some ((1 : Fun).val - 1)) := by
  decide +kernel

/-- A route image of one table of one HALT entry at offset 0, for output 0 of router 0 of die 0, which partition 0 owns. -/
def routeImage0 : State :=
  let s := put (put (put (put (hosted (own up 0 0)) 0 4 0x544F5552) 4 2 1) 6 2 0x100) 0x40 8 (2 ^ 16 + 0x48 * 2 ^ 32)
  ((put s 0x48 8 4).fset (R.BNET_OCFG 0 0 0) F.BNET_OCFG_ASSIGNED 1).fset (R.BNET_OCFG 0 0 0) F.BNET_OCFG_PART 0

/-- Its SM3 digest, with the digest's own field as zero. -/
def routeDigest : List Byte :=
  [43, 191, 142, 9, 175, 37, 111, 215, 63, 150, 230, 25, 145, 202, 91, 46, 61, 20, 101, 135, 203, 90, 114, 13, 103, 56, 2, 254, 148, 105, 124, 14]
def routeImage : State := routeImage0.putHost 8 routeDigest

theorem wit_NetworkCommandsComplete :
    (up.Mail ∧ outOk 31 0 12 = true ∧ up.atHalt 31 0 12 = true ∧ up.queueBusy (31 - 24) 31 = false ∧
      up.quotaSum (31 - 24) [(31, 16)] ≤ gwStorage (31 - 24)) ∧
    (routeImage.Mail ∧ routeImage.readTouch 0 0 (routeImage.imageLen 0 0) = routeImage ∧ routeImage.imageOk 0 0 0 = true ∧ routeImage.routeTabs 0 0 = [⟨0, 0, 1, 0x48, true⟩] ∧
      routeImage.imageEntryOk 0 0 ⟨0, 0, 1, 0x48, true⟩ (routeImage.imageEntry 0 0 ⟨0, 0, 1, 0x48, true⟩ 0) = true ∧
      routeImage.nestedSame 0 0 ⟨0, 0, 1, 0x48, true⟩ = false ∧ routeImage.outPart 0 0 0 = some 0 ∧ routeImage.atHalt 0 0 0 = true) ∧
    (routeImage.outsOf 0 0 = [(0, 0)] ∧ OwnFn 1 0) ∧
    ((∀ d : Die, up.outsOf d 15 = []) ∧ ∀ (d : Fin 8) (q : Fin 32), up.queuePart d q ≠ some 15) := by
  decide +kernel

/-- A walk of one row block, with its steps' counts. -/
def walkAt (tD qD sD xD oD : Nat) (pairs : List WalkPair) : WalkSt :=
  ⟨BitVec.ofNat 256 dWalk, 1, 0, [], 1, 1, tD, qD, sD, xD, oD, 1, pairs, [], [], 1, 1, 1, 7⟩

/-- An instruction that takes queue entries: an MM's or an SMX's templates stand in it. -/
def taker (op : Nat) : InFlight :=
  ⟨0, op, 0x400, ⟨63, 1⟩, 0, none, 1, 0, [dLoft 1 0x4000 16 1, dLoft 1 0x5000 16 1, dAcc 0x6000 2 2 0x7000], []⟩

/-- The engine has an instruction in flight that takes queue entries. -/
def taking (s : State) (e : Eng) (op : Nat) : State :=
  s.modEng 0 e fun x => { x with infl := [taker op], nextUid := 1 }

def fetchEnt : BitVec 128 := BitVec.ofNat 128 (2 ^ 64 * 1)
def leWalk : State := (taking ready .le 0x11).modTile 0 fun t => { t with walk := some (walkAt 0 0 0 0 0 []), leQ := [fetchEnt] }
def meWalk (v : Word64) : State :=
  (taking ready .me 0x10).modTile 0 fun t => { t with walk := some (walkAt 1 1 1 1 0 [⟨0, 0⟩]), meQ := [v] }
def veWalk (tD sD : Nat) (v : BitVec 256) : State :=
  (taking ready .ve 0x16).modTile 0 fun t => { t with walk := some (walkAt tD 1 sD 0 0 []), veQ := [v] }

theorem wit_AttentionStepsComplete_fetch :
    leWalk.Live ∧ (leWalk.eng 0 .le).taker 0x11 = some (taker 0x11) ∧ (leWalk.tile 0).leQ = [fetchEnt] ∧
      (leWalk.tile 0).walk = some (walkAt 0 0 0 0 0 []) ∧ (leWalk.eng 0 .le).poolUsed 0 < 64 ∧
      leSuits (wgeo (walkAt 0 0 0 0 0 []).desc) fetchEnt.toNat = true ∧ bitsOf fetchEnt.toNat 79 64 ≠ 0 ∧
      leWalk.leFails 0 fetchEnt.toNat = false ∧ leSuits (wgeo (walkAt 0 0 0 0 0 []).desc) (2 ^ 84 * 1) = false := by
  decide +kernel

theorem wit_AttentionStepsComplete_strip : ∀ kind : Fin 3, let v : Word64 := BitVec.ofNat 64 kind.val
    let s := meWalk v
    s.Live ∧ (s.eng 0 .me).taker 0x10 = some (taker 0x10) ∧ (s.tile 0).meQ = [v] ∧ (s.tile 0).walk = some (walkAt 1 1 1 1 0 [⟨0, 0⟩]) ∧
      v.toNat % 4 = kind.val ∧ meReady (walkAt 1 1 1 1 0 [⟨0, 0⟩]) v.toNat = true ∧ meSuits (walkAt 1 1 1 1 0 [⟨0, 0⟩]) (taker 0x10) v.toNat = true ∧
      (s.stripRun 0 (walkAt 1 1 1 1 0 [⟨0, 0⟩]) (taker 0x10) v.toNat).stop = .go := by
  decide +kernel

theorem wit_AttentionStepsComplete_q :
    (veWalk 2 0 0).Live ∧ ((veWalk 2 0 0).eng 0 .ve).taker 0x16 = some (taker 0x16) ∧ ((veWalk 2 0 0).tile 0).veQ = [0] ∧
      ((veWalk 2 0 0).tile 0).walk = some (walkAt 2 1 0 0 0 []) ∧ veReady (walkAt 2 1 0 0 0 []) 0 = true ∧
      veSuits (walkAt 2 1 0 0 0 []) (taker 0x16) 0 = true ∧ ((veWalk 2 0 0).stepQ 0 (walkAt 2 1 0 0 0 []) 0).stop = .go := by
  refine ⟨by decide +kernel, by decide +kernel, by decide +kernel, by decide +kernel, by decide +kernel, by decide +kernel, ?_⟩
  rw [State.stepQ, Ex.part_go rfl (by decide +kernel)]

theorem wit_AttentionStepsComplete_x :
    ((veWalk 1 1 1).tile 0).veQ = [1] ∧ ((veWalk 1 1 1).tile 0).walk = some (walkAt 1 1 1 0 0 []) ∧
      veReady (walkAt 1 1 1 0 0 []) 1 = true ∧ veSuits (walkAt 1 1 1 0 0 []) (taker 0x16) 1 = true ∧
      ((veWalk 1 1 1).stepX 0 (walkAt 1 1 1 0 0 []) (taker 0x16) 1).stop = .go := by
  refine ⟨by decide +kernel, by decide +kernel, by decide +kernel, by decide +kernel, ?_⟩
  rw [State.stepX, Ex.part_go rfl (by decide +kernel)]

theorem wit_AttentionStepsComplete_f :
    ((veWalk 1 1 2).tile 0).veQ = [2] ∧ ((veWalk 1 1 2).tile 0).walk = some (walkAt 1 1 1 0 0 []) ∧
      veReady (walkAt 1 1 1 0 0 []) 2 = true ∧ veSuits (walkAt 1 1 1 0 0 []) (taker 0x16) 2 = true ∧
      ((veWalk 1 1 2).stepF 0 (walkAt 1 1 1 0 0 []) (taker 0x16) 2).stop = .go := by
  refine ⟨by decide +kernel, by decide +kernel, by decide +kernel, by decide +kernel, ?_⟩
  rw [State.stepF, Ex.part_go rfl (by decide +kernel)]

theorem wit_AttentionStepsComplete_commands :
    up.Mail ∧ OwnFn 16 15 ∧ fmtOf 1 = .s4 ∧ fmtOf 2 = .s8 ∧ blkOk (fmtOf 1) 120 512 = true ∧ blkOk (fmtOf 2) 120 256 = true ∧
      blkOk (fmtOf 2) 60 512 = true ∧ up.readTouch 15 0 32 = up ∧
      up.readTouch 15 0 (32 * (wgeo (BitVec.ofNat 256 (up.locNum 15 0 32))).nent) = up := by
  decide +kernel
/-! ## Chapter 8 -/

/-- A plan at offset 0x1000 of one point of kind `kind` with one group of experts `exp`, on tile 0; without its digest. -/
def plan0 (kind exp : Nat) : State :=
  let s := (hosted (own up 0 0)).putHost 0x1000 ([0x50, 0x4C, 0x41, 0x4E, 1, 0, 1, 0, 1, 0, 1, 0, 2, 0, 1, 0, 0x40, 0, 0, 0, 0x60, 0, 0, 0,
    0x62, 0, 0, 0, 0x64, 0, 0, 0])
  let s := s.putHost 0x1040 ([255, BitVec.ofNat 8 kind, 0, 0, if kind = 1 then 16 else 0, 0, 1, 0, 0x70, 0, 0, 0])
  let s := (s.putHost 0x1056 [if kind = 1 then 1 else 0]).putHost 0x1063 [0x80]
  let s := ((put (put s 0x1070 2 exp) 0x1072 2 0x200).putHost 0x1074 [1]).putHost 0x107C [0x80]
  (s.putHost 0x1082 [16]).fset (R.STEP_PLAN 0) F.STEP_PLAN_ADDR 0x40
/-- The count plan with its SM3 digest. -/
def plan : State :=
  (plan0 1 0).putHost 0x1020 [176, 213, 195, 47, 166, 163, 80, 99, 174, 245, 133, 141, 12, 150, 140, 229, 7, 206, 60, 204, 31, 88, 208, 12, 241,
    189, 114, 137, 245, 131, 16, 96]
def countPt : PointRec := ⟨255, 1, 0, 0, 16, 1, 0x70, 0, 0, 0, 0, 1, true⟩
def exitPt : PointRec := ⟨255, 2, 0, 0, 0, 1, 0x70, 0, 0, 0, 0, 0, true⟩
def bUnit (d : Nat) : BUnit := ⟨.recv, false, false, true, BitVec.ofNat 256 d, 0⟩

/-- The routing engine of die 23 serves partition 0 and has `us` in its input. -/
def scoring (us : List BUnit) : State :=
  (up.fset (R.RTE_CFG 23) F.RTE_CFG_EN 1).modRte 23 fun x => { x with inq := us }
def exitRte : State :=
  ((plan0 2 0xFFFE).fset (R.RTE_CFG 23) F.RTE_CFG_EN 1).modRte 23 fun x => { x with inq := [bUnit 0] }
def reporting (s : State) (r : Rpt) : State := { s with rpt := [r] }
def rowed : State := plan.modStep 0 fun x => { x with rows := [(255, 0, [0])] }
def runs : State := up.setRuns [newRun 2 31 0 0 .spill [] 0 []]
def port : State :=
  (plan.fset (R.BNET_OCFG 30 0 15) F.BNET_OCFG_ASSIGNED 1).setIngress 6 3 [(0, { bUnit 0 with hdr := true }), (0, bUnit 1), (0, bUnit 0)]

/-- The exit plan with tile 0's VE at the BRV of point 255. -/
def exitHeld : State :=
  (running (plan0 2 0xFFFE) 0 .ve 0).modEng 0 .ve fun x =>
    { x with buf := [(0x400, .word (encInstr ⟨⟨63, 1, false, 0⟩, ⟨63, 1⟩, .brv 255 1⟩)), (0x408, .word (encInstr ⟨⟨63, 1, false, 0⟩, ⟨63, 1⟩, .jmp 0⟩))] }
/-- A copy for the home tile, whose bank 0 is turning ON. -/
def portWaits : State :=
  (plan.fset (R.BNET_OCFG 30 0 15) F.BNET_OCFG_ASSIGNED 1).modTile 0 (fun t => { t with trans := [(0, 3)] }) |>.setIngress 6 3
    [(0, bUnit 1), (0, bUnit 0x2000)]

theorem wit_ExpertEventsComplete :
    (let s := scoring [bUnit 0, bUnit 1]
     s.Live ∧ (s.rte 23).inq = bUnit 0 :: ([bUnit 1] ++ []) ∧ [bUnit 1].length = s.fget (R.RTE_CFG2 23) F.RTE_CFG2_NSH ∧
      (∀ x ∈ (s.rte 23).inq, s.rteForeign 23 x = false) ∧ s.fget (R.RTE_CFG 23) F.RTE_CFG_NEXP ≤ 4096 ∧
      (s.inq (inKey 23 0 40)).length + s.fget (R.RTE_CFG 23) F.RTE_CFG_K ≤ 32 ∧ posZeros (bUnit 0).data = true) ∧
    (exitRte.Live ∧ (exitRte.rte 23).inq = bUnit 0 :: [] ∧ (∀ x ∈ (exitRte.rte 23).inq, exitRte.rteForeign 23 x = false) ∧
      exitRte.nextPoint (exitRte.rtePart 23) = some exitPt) ∧
    (reporting up (.psn 15 4095)).takeRpt (15 % 4) ((reporting up (.psn 15 4095)).rptReady 15) = some (.psn 15 4095, up) ∧
    (plan.planBase 0 ≠ 0 ∧ (reporting plan (.count 0 23 255 0 [1])).takeRpt (0 % 4) ((reporting plan (.count 0 23 255 0 [1])).rptReady 0) =
      some (.count 0 23 255 0 [1], plan)) ∧
    (rowed.Live ∧ rowed.nextPoint 0 = some countPt ∧ ((rowed.stepSt 0).rows.any fun y => decide (y.1 = countPt.point)) = true ∧
      ((rowed.stepSt 0).open_.any fun x => decide (x ≠ countPt.point)) = false ∧
      (rowed.rowPkgs.all fun n => rowed.hasRow 0 countPt.point n || (rowed.stepSt 0).missing.contains n) = true ∧
      rowed.varsRead (rowed.groupsAt 0 countPt) (countPt.point % 4) = true) ∧
    ((∀ x ∈ [((⟨0, 23, 2, 2 ^ 63 + 1, [0, 16]⟩ : GroupRec), 63)], x.1.die < 24 ∧ x.2 < 64) ∧
      ([((⟨0, 23, 2, 2 ^ 63 + 1, [0, 16]⟩ : GroupRec), 63)].flatMap fun x => x.1.tiles) = [1472, 1535]) ∧
    (let s := exitHeld
     s.Live ∧ s.nextPoint 0 = some exitPt ∧ ((s.stepSt 0).open_.any fun x => decide (x ≠ exitPt.point)) = false ∧ s.rptWaits 0 exitPt.point = false ∧
      ((s.enginesOf 0).all fun d => (s.rte d).inq.isEmpty) = true ∧ s.varsRead (s.groupsAt 0 exitPt) (exitPt.point % 4) = true ∧
      s.walksDone 0 = true ∧ ((s.groupsAt 0 exitPt).filter fun x => decide (x.exp = 0xFFFE)).flatMap GroupRec.tiles = [0] ∧
      s.holdsAt 0 exitPt.point = true) ∧
    (let q := (portWaits.ingress (4 + 2) (2 + 1)).dropWhile fun u => u.2.hdr
     portWaits.Live ∧ portWaits.portPart 2 1 = some 0 ∧ portWaits.cunits 0 = 2 ∧ q = [(0, bUnit 1), (0, bUnit 0x2000)] ∧
      ((portWaits.setIngress (4 + 2) (2 + 1) (q.drop (portWaits.cunits 0))).serveCopy 2 0 ((q.take (portWaits.cunits 0)).map (·.2))).isNone = true) ∧
    (let q := (port.ingress (4 + 2) (2 + 1)).dropWhile fun u => u.2.hdr
     port.portPart 2 1 = some 0 ∧ port.cunits 0 = 2 ∧ q = [(0, bUnit 1), (0, bUnit 0)] ∧
      ((port.setIngress (4 + 2) (2 + 1) (q.drop (port.cunits 0))).serveCopy 2 0 ((q.take (port.cunits 0)).map (·.2))).isSome = true) ∧
    ((runs.moe.runs.findIdx? fun r => decide (r.ld = 2 ∧ r.q = 31) && !r.finished (runs.cunits r.part)) = some 0 ∧
      runs.moe.runs[0]? = some (newRun 2 31 0 0 .spill [] 0 []) ∧ (newRun 2 31 0 0 .spill [] 0 []).total = some 0 ∧
      (newRun 2 31 0 0 .spill [] 0 []).header = false ∧ (runs.inq (inKey (28 + 2) 0 (16 + 31))).length < 32) := by
  decide +kernel

theorem wit_ExpertCommandsComplete :
    (plan.Mail ∧ OwnFn 1 0 ∧ plan.readTouch 0 0x1000 (planEnd fun o n => plan.locNum 0 (0x1000 + o) n) = plan ∧ (∀ b ∈ plan.planFaults 0 0x1000, b = false) ∧ (plan.stepSt 0).open_ = none) ∧
    (plan.diesOf 0 = [0] ∧ 4096 ≤ 15 * 274 ∧ plan.rteBusy 0 = false ∧ plan.rteOn 0 = false) ∧
    (64 * ((plan.planOf 0).nexp + 1) ≤ 128) ∧
    (let s := up.setInq (inKey 23 0 40) [bUnit 0]
     s.Live ∧ s.rteBusy 23 = true ∧ up.rteBusy 23 = false ∧ up.fget (R.RTE_CFG 23) F.RTE_CFG_NEXP ≤ 4096) := by
  decide +kernel
/-! ## Chapter 9 -/

/-- A request of two units for local address `a` with operation `op`, and a gateway that holds it as number 31 of queue 31. -/
def reqU (op : Nat) : ReqUnit := ⟨2 ^ 63, 2, op, true, 0, 0, 0, 0⟩
def gwReq (op : Nat) : GwReq := ⟨31, 31, 2 ^ 63, 2, op, true, 0, 0, 0, 0, [], [none, none], 0, false, 0⟩
def gwHas (d op : Nat) : State := up.setGw d { up.gw d with reqs := [gwReq op] }
def gwAsked (d : Nat) : State :=
  (up.fset (R.GW_QCFG (gwDie d) 31) F.GW_QCFG_QUOTA 2).setIngress d 3 [(31, ⟨.recv, false, false, true, reqBits (reqU 1), 0⟩)]

theorem wit_GatewayEventsComplete :
    (∀ d ∈ [0, 4, 7], (gwAsked d).acceptable d 3 = .take (reqU 1) 31 1 0 []) ∧
    (∀ d ∈ [0, 3, 7], (gwHas d 1).Live ∧ (gwHas d 1).req d 31 = some (gwReq 1) ∧ (gwReq 1).expired = false ∧
      (gwReq 1).units.all (·.isSome) = false) ∧
    (∀ d ∈ [0, 3, 7], (gwHas d 2).req d 31 = some (gwReq 2) ∧ ((gwReq 2).units.findIdx? (·.isNone)) = some 0) := by
  decide +kernel

/-- Partition 0 with a region of kind `kind` at offset 0 over 32 pages of 64 KiB whose home is memory die 0; its first page is in Bay. -/
def regioned (kind : Nat) (pg : PgSt) : State :=
  ((up.rgnPut (R.HST_RGN 0 0) (kind + 2 ^ 15) (2 ^ 21)).setMapEnt 0 ⟨pg, 0, 1, 7, 0, 0, 0⟩).fset (R.TQ_QUOTA 28 0) F.TQ_QUOTA_QUOTA 32
def aMove (kind : MvKind) (run : Bool) : Move := ⟨0, 24, 0, .demand, kind, .yard, 0, 0, run, false, false⟩
def moves (m : Move) : State := (regioned 3 .bay).addMove m

theorem wit_MemoryEventsComplete :
    (let s := moves (aMove .moveOut false)
     s.Live ∧ ((s.mem.moves.filter fun y => decide (y.die = 24 + 0)).filter (·.running)).length < 4 ∧
      (((List.range 4).flatMap fun r => (s.mem.moves.filter fun y => decide (y.die = 24 + 0)).filter
        fun y => !y.running && decide (whyRank y.why = r)).find? fun y => s.refuseOut y || (s.tryMove y).isSome) = some (aMove .moveOut false) ∧
      s.refuseOut (aMove .moveOut false) = false ∧ (s.tryMove (aMove .moveOut false)).isSome = true) ∧
    (∀ k ∈ [MvKind.moveIn, .refetch, .retire, .moveOut], (moves (aMove k true)).moveOf 0 = some (aMove k true) ∧
      ((moves (aMove k true)).locate 0 (0 * 65536)).isSome = true ∧ (aMove k true).running = true ∧ (aMove k true).retried = false ∧
      ((moves (aMove k true)).moveData (aMove k true)).moveSound (aMove k true) = true ∧
      ((moves (aMove k true)).locate 0 (0 * 65536)).any (fun u => (moves (aMove k true)).retireRoom 24 (kindFrames u.rgn.kind)) = true ∧
      ((moves (aMove k true)).mapEnt 0).st ≠ .lost ∧ (aMove k true).st ≠ .lost) ∧
    (((regioned 3 .bay).mem.map.map (·.1)).Nodup ∧ up.anyRegion = false ∧ (regioned 3 .bay).anyRegion = true) ∧
    ((up.fset (R.CH_STAT 95) F.CH_STAT_STATE 2).fget (R.CH_STAT 95) F.CH_STAT_STATE ≠ 0 ∧
      up.flag (R.MV_CMD 3) F.MV_CMD_BUSY = false ∧ up.partOf (up.fget (R.MV_ADDR 3) F.MV_ADDR_PAGE * 65536) = none) ∧
    (let s := regioned 3 .bay
     s.flag (R.MV_CMD 0) F.MV_CMD_BUSY = false ∧ s.partOf (s.fget (R.MV_ADDR 0) F.MV_ADDR_PAGE * 65536) = some 0 ∧
      ((s.fset (R.MV_CMD 0) F.MV_CMD_TGT 3).askMove 0 (24 + 0) (s.fget (R.MV_ADDR 0) F.MV_ADDR_PAGE) 3
        (s.fget (R.MV_DEST 0) F.MV_DEST_DEST) true).map (·.2) = some false) ∧
    (OwnFn 16 15 ∧ up.rgnMoving (rgnAddr (.die 23) 15 31) = false ∧
      up.noEnc (up.lowerHalf 16 (rgnDie (.die 23)) (rgnAddr (.die 23) 15 31)) = false ∧ ¬ OwnFn 1 15) := by
  decide +kernel

/-- Partition 0 may place 64 pages in Cellar. -/
def cellared : State := up.fset (R.TQ_QUOTA 31 0) F.TQ_QUOTA_QUOTA 64

theorem wit_MemoryCommandsComplete :
    (cellared.Mail ∧ OwnFn 1 0 ∧ (∀ x ∈ cellared.regions, ¬ (x.2.base < 2 ^ 48 ∧ 2 ^ 48 - 0x10000 < x.2.base + x.2.size)) ∧
      cellared.rgnFree 0 = some 0 ∧ (2 ^ 48 - 0x10000) % pageSize 4 = 0 ∧ cellared.homeOk 4 5 = true ∧
      (let lo := 4 + bit false * 16 + bit ((cellared.streamOf 0).isSome && decide (4 = 1)) * 32 + 5 * 256 + 2 ^ 15 + (2 ^ 48 - 0x10000) / 65536 * 65536
       let u := cellared.putRegion 0 0 lo (0x10000 / 65536 * 65536)
       cellared.noEnc lo = false ∧ (u.hostPages 0 (u.rgnAt (R.HST_RGN 0 0) 0)).isSome = true)) ∧
    R.HST_RGN 0 0 ∈ up.rgnTables 0 0 ∧
    (let s := regioned 3 .bay
     (s.regions.find? fun x => decide (x.1 = 0 ∧ x.2.base = 0)) = some (0, s.rgnAt (R.HST_RGN 0 0) 0) ∧ s.partOf (2 ^ 21 - 1) = some 0 ∧
      (s.locate 0 (2 ^ 21 - 1)).isSome = true ∧ (s.rgnOf 0 0).map (fun r => pageSize r.kind) = some 65536) ∧
    (∀ x ∈ up.quotaShare 1 [0, 0, 0, 2 ^ 32 - 1], up.quotaUsed x.1 15 ≤ x.2) ∧ (∀ x ∈ up.quotaShare 3 [0], up.quotaUsed x.1 15 ≤ x.2) ∧
    16 * up.largestLayer 15 ≤ up.bayQuota 15 ∧ up.anyRegion = false := by
  decide +kernel
/-! ## Chapter 10 -/

/-- A link in a state; the package id locked. -/
def linkAt (k st : Nat) : State := (up.fset (R.LNK_STAT k) F.LNK_STAT_STATE st).fset R.STW_LOC F.STW_LOC_LOCK 1

/-- Flits at the front of a link's receiver. -/
def rxHas (s : State) (k : Nat) (fs : List Flit) : State := s.setLink k { s.link k with rx := fs }

/-- 280 clear bytes of a flit of TYPE `typ`, and their 288 bytes on the fibre. -/
def clear280 (typ : Byte) : List Byte := [0, 0, 0, 0, 0, typ] ++ List.replicate 274 0
def wire (typ : Byte) : List Byte := flitSeal (clear280 typ)

theorem wire_len : (wire 0).length = 288 ∧ (wire 1).length = 288 ∧ (wire 0).take 280 = clear280 0 ∧ (wire 1).take 280 = clear280 1 := by
  decide +kernel

def beacon1 : List Byte := [0x42, 0x45, 0x43, 0x4E] ++ List.replicate 252 0
def relayed : Flit := { Flit.blank with vc := 1, typ := 1, src := 1, dst := 2 }
def relaying : State :=
  (((rxHas up 0 [relayed]).fset (R.LNK_STAT 25) F.LNK_STAT_STATE 4).fset (R.FB_RT 0 2) F.FB_RT_VALID 1).fset (R.FB_RT 0 1) F.FB_RT_VALID 1

theorem wit_LinkEventsComplete :
    (∀ k ∈ [0, 35], (linkAt k 0).Live ∧ (linkAt k 0).flag R.RST_STAT F.RST_STAT_DEAD = false ∧ (linkAt k 0).linkState k = 0 ∧
      (linkAt k 0).mayTrain k = true ∧ ((linkAt k 0).link k).attempts < 3) ∧
    (∀ st ∈ [2, 3, 4], (linkAt 35 st).linkState 35 = st ∧ (linkAt 35 st).linkPick 35 = none) ∧
    (∀ st ∈ [0, 1, 5], (linkAt 35 st).linkState 35 = st) ∧
    (∀ a ∈ [0, 2], let s := (linkAt 35 5).setLink 35 { (linkAt 35 5).link 35 with attempts := a }
      s.linkState 35 = 5 ∧ (s.link 35).refLost = false ∧ s.mayTrain 35 = true ∧ (s.link 35).attempts = a) ∧
    (∀ a ∈ [2, 3], ∀ st ∈ [1, 2], let s := (linkAt 35 st).setLink 35 { (linkAt 35 st).link 35 with attempts := a }
      s.linkState 35 = st ∧ s.mayTrain 35 = true ∧ (s.link 35).attempts = a) ∧
    (linkAt 35 4).flag R.SEC_DEBUG F.SEC_DEBUG_INJECT = false ∧
    ([] : List Byte) ≠ flitSeal (([] : List Byte).take 280) ∧
    ((flitOf (clear280 0)).typ = 0 ∧ (flitOf (clear280 0)).vc < 5) ∧
    ((flitOf (clear280 1)).typ = 1 ∧ (flitOf (clear280 1)).vc < 5 ∧
      (let u := ((linkAt 35 4).linkCnt 35 (R.LNK_CNT1 35) F.LNK_CNT1_FECCORR 0).linkCnt 35 (R.LNK_CNT1 35) F.LNK_CNT1_FECUNC 0
       (flitOf (clear280 1)).lseq = (u.link 35).rxF % 2 ^ 16 ∧
         (flitOf (clear280 1)).lseq ≠ ((u.setLink 35 { u.link 35 with rxF := 1 }).link 35).rxF % 2 ^ 16)) ∧
    (let s := up.setLink 35 { up.link 35 with replayDue := true }
     s.Live ∧ (s.link 35).replayDue = true) ∧
    (let s := (linkAt 35 2).setLink 35 { (linkAt 35 2).link 35 with nonce := List.replicate 16 0 }
     s.linkState 35 = 2 ∧ beacon1.length = 256 ∧ ofLeBytes (beacon1.take 4) = beaconMagic ∧ (beacon1.drop 32).take 16 = (s.link 35).nonce ∧
      (beacon1.drop 32).take 16 ≠ ((linkAt 35 2).link 35).nonce) ∧
    (relaying.rxFront 0 1 = some relayed ∧ relayed.dst ≠ relaying.pkgOwn ∧ (relaying.rxPop 0 1).directUp 2 = some 25 ∧
      (relaying.rxPop 0 1).flag (R.FB_RT 0 2) F.FB_RT_VALID = true ∧ (relaying.rxPop 0 1).flag (R.FB_RT 0 1) F.FB_RT_VALID = true ∧
      relayed.hop = false) ∧
    ((rxHas up 0 [{ relayed with vc := 0, hop := true }]).rxFront 0 0 = some { relayed with vc := 0, hop := true }) ∧
    ((rxHas up 0 [relayed]).rxPop 0 1).directUp 2 = none := by
  decide +kernel

/-- Job 0 is partition 0's, and its window 0 lets every package use all of the region. -/
def landing : State :=
  [0, 1, 2].foldl (fun (s : State) (l : Nat) =>
    let w := R.FB_WIN l 0 0
    ((((s.fset (R.FB_JOB l 0) F.FB_JOB_VALID 1).fset w F.FB_WIN_PKGHI 4095).fset w F.FB_WIN_PERM 15).fset w F.FB_WIN_VALID 1).fset
      w F.FB_WIN_SIZE 1) (hosted (own up 0 0))

/-- A flit of TYPE `typ` on virtual channel `vc` from the own package, at the front of link `k`. -/
def aFlit (typ vc aux : Nat) (us : List SheafBits) : Flit := { Flit.blank with typ := typ, vc := vc, aux := aux, units := us }
def front (k typ vc aux : Nat) (us : List SheafBits) : State := rxHas landing k [aFlit typ vc aux us]

theorem isFront {s : State} {k vc typ : Nat} {f : Flit} (h : s.rxFront k vc = some f ∧ f.typ = typ ∧ f.dst = s.pkgOwn ∧ s.srcOk f.src = true) :
    s.Front k vc typ f := ⟨h.1, h.2.1, h.2.2.1, h.2.2.2⟩

theorem wit_fronts : ∀ x ∈ [(1, 2, 1), (2, 4, 0), (3, 2, 0), (4, 1, 128), (5, 1, 128), (6, 1, 0), (7, 3, 0), (8, 4, 0), (9, 1, 128), (10, 1, 128),
    (11, 2, 0), (12, 0, 0), (14, 0, 1), (14, 0, 2), (14, 0, 3), (14, 0, 6)], (front 35 x.1 x.2.1 x.2.2 [0]).Live ∧
      (front 35 x.1 x.2.1 x.2.2 [0]).Front 35 x.2.1 x.1 (aFlit x.1 x.2.1 x.2.2 [0]) := by
  intro x hx
  have h : ∀ x ∈ [(1, 2, 1), (2, 4, 0), (3, 2, 0), (4, 1, 128), (5, 1, 128), (6, 1, 0), (7, 3, 0), (8, 4, 0), (9, 1, 128), (10, 1, 128),
    (11, 2, 0), (12, 0, 0), (14, 0, 1), (14, 0, 2), (14, 0, 3), (14, 0, 6)], (front 35 x.1 x.2.1 x.2.2 [0]).Live ∧
      (front 35 x.1 x.2.1 x.2.2 [0]).rxFront 35 x.2.1 = some (aFlit x.1 x.2.1 x.2.2 [0]) ∧ (aFlit x.1 x.2.1 x.2.2 [0]).typ = x.1 ∧
      (aFlit x.1 x.2.1 x.2.2 [0]).dst = (front 35 x.1 x.2.1 x.2.2 [0]).pkgOwn ∧
      (front 35 x.1 x.2.1 x.2.2 [0]).srcOk (aFlit x.1 x.2.1 x.2.2 [0]).src = true := by decide +kernel
  exact ⟨(h x hx).1, isFront (h x hx).2⟩

def remote (k : RemKind) : Remote := ⟨2, 0, k, 31, 0, 0, none, 0, [], 0, 32, false⟩
def asked (k : RemKind) (typ vc : Nat) : State :=
  let s := front 35 typ vc 0 [0]
  { s with fab := { s.fab with remotes := [remote k] } }

theorem wit_FabricMessagesComplete :
    (let u := (front 35 1 2 1 [0]).rxPop 35 (rxVc 1 true)
     1 ≤ 1 % 128 ∧ u.jobPart (35 / 12) 0 = some 0 ∧ u.landOk (35 / 12) 0 0 0 32 0 = true ∧ u.homeGw 0 0 = some 7) ∧
    ((front 35 2 4 0 [0]).fab.remotes.find? fun r => decide (r.tag = 0 ∧ r.kind = .load ∧ r.pkg = 0)) = none ∧
    ((asked .load 2 4).fab.remotes.find? fun r => decide (r.tag = 0 ∧ r.kind = .load ∧ r.pkg = 0)) = some (remote .load) ∧
    (aFlit 3 2 0 [0]).isLast = false ∧ (aFlit 3 1 128 [0]).isLast = true ∧
    (∀ x ∈ [(3, 1), (4, 0)], let s := front 35 x.1 1 128 [0]
      let u := s.consume 35 (rxVc 1 false) (aFlit x.1 1 128 [0])
      let us := msgUnits (s.wholeMsg 35 (aFlit x.1 1 128 [0]))
      us.length = 1 ∧ msgOff (s.wholeMsg 35 (aFlit x.1 1 128 [0])) = 0 ∧ u.jobPart (35 / 12) 0 = some 0 ∧
      u.landOk (35 / 12) 0 0 0 (32 * x.2) 1 = true ∧ u.homeGw 0 0 = some 7) ∧
    (let s := front 35 5 1 128 [0]
     let us := msgUnits (s.wholeMsg 35 (aFlit 5 1 128 [0]))
     s.jobPart (35 / 12) 0 = some 0 ∧ s.landOk (35 / 12) 0 0 0 0 3 = true ∧ s.tilePart (0 % 2048) = some 0 ∧
      (s.placeNow (0 % 2048) ((List.range us.length).map fun i =>
        ⟨.place, (us.getD i zeroSheaf).psn && decide (i ≠ 0), decide (i = 0), decide (i = us.length - 1) && !(aFlit 5 1 128 [0]).aux.testBit 0, (us.getD i zeroSheaf).bits,
          28 + 35 / 12⟩)).isSome = true) ∧
    (let u := (front 35 6 1 0 [0]).rxPop 35 (rxVc 1 false)
     u.jobPart (35 / 12) 0 = some 0 ∧ u.landOk (35 / 12) 0 0 0 8 2 = true) ∧
    ((front 35 7 3 0 [0]).rxPop 35 (rxVc 3 false)).atomOf (35 / 12) (aFlit 7 3 0 [0]) = none ∧
    ((asked .atomic 7 3).rxPop 35 (rxVc 3 false)).atomOf (35 / 12) (aFlit 7 3 0 [0]) = some (remote .atomic) ∧
    ((asked .store 8 4).fab.remotes.find? fun r => decide (r.tag = 0 ∧ r.pkg = 0 ∧ r.kind ≠ .atomic ∧ r.kind ≠ .load)) = some (remote .store) ∧
    (let s := front 35 9 1 128 [0]
     (s.serveCopy (35 / 12) 0 ((msgUnits (s.wholeMsg 35 (aFlit 9 1 128 [0]))).map fun x => ⟨.recv, x.psn, false, false, x.bits, 28 + 35 / 12⟩)).isSome =
      true) ∧
    ((front 35 10 1 128 [0]).consume 35 (rxVc 1 false) (aFlit 10 1 128 [0])).jobPart (35 / 12) 0 = some 0 := by
  decide +kernel

theorem wit_FabricLossesComplete :
    (∀ k ∈ [RemKind.load, .atomic], ((asked k 2 4).fab.remotes.find? fun r => decide (r.ld = 2 ∧ r.tag = 0 ∧ (r.kind = .load ∨ r.kind = .atomic)) && !r.dead) =
      some (remote k) ∧ (remote k).item = none) ∧
    (∀ k ∈ [RemKind.store, .accstore, .place], ((asked k 2 4).fab.remotes.find?
      fun r => decide (r.ld = 2 ∧ r.tag = 0 ∧ r.kind ≠ .load ∧ r.kind ≠ .atomic)) = some (remote k)) ∧
    ((asked .atomic 2 4).fab.remotes.find? fun r => decide (r.ld = 2 ∧ r.tag = 0 ∧ r.kind = .atomic)) = some (remote .atomic) ∧
    ({ up with fab := { up.fab with probes := [4095] } }.fab.probes.contains 4095 = true) ∧
    (4095 ≠ up.pkgOwn ∧ up.fab.lost.contains 4095 = false) := by
  decide +kernel

/-- A fabric map of one package at offset 0, without and with its SM3 digest. -/
def map0 : State := put (put (hosted (own up 0 0)) 0 4 0x50414D46) 4 8 (1 + 2 ^ 16 + 2 ^ 32)
def fabMapState : State :=
  map0.putHost 0x10 [37, 109, 171, 149, 218, 11, 57, 88, 142, 43, 3, 31, 194, 58, 122, 231, 65, 30, 163, 121, 169, 88, 18, 20, 55, 211, 108, 107,
    176, 94, 249, 98]

theorem wit_FabricCommandsComplete :
    (fabMapState.Mail ∧ fabMapState.partOf 0 = some 0 ∧ fabMapState.readTouch 0 0 (fabMapState.mapLen 0 0) = fabMapState ∧ (fabMapState.readMap 0 0).isSome = true) ∧
    (∀ l < 3, up.flag (R.FB_CTL l) F.FB_CTL_LOCK = false) ∧ (∀ l < 3, (up.fset (R.FB_CTL l) F.FB_CTL_LOCK 1).flag (R.FB_CTL l) F.FB_CTL_LOCK =
      true) ∧
    up.jobPart 0 255 = none ∧ landing.jobPart 0 0 = some 0 ∧ (linkAt 35 4).linkState 35 = 4 ∧ relaying.directUp 2 = some 25 ∧
    (up.fset R.SEC_DEBUG F.SEC_DEBUG_INJECT 1).flag R.SEC_DEBUG F.SEC_DEBUG_INJECT = true ∧ up.flag R.SEC_DEBUG F.SEC_DEBUG_INJECT = false ∧ up.flag R.RST_STAT F.RST_STAT_DEAD = false := by
  refine ⟨⟨by decide +kernel, by decide +kernel, by decide +kernel, by decide +kernel⟩, by decide +kernel, ?_, by decide +kernel, by decide +kernel,
    by decide +kernel, by decide +kernel, by decide +kernel, by decide +kernel, by decide +kernel⟩
  intro l h
  rcases l with _ | _ | _ | l
  all_goals first | decide +kernel | omega
/-! ## Chapter 11 -/

/-- Partition 0 is served with `x`: its rings 0, 4 and 5 are on, and ring 0 at host address 0x100000 holds one item. -/
def served (x : PartSt) (it : List Byte) : State :=
  let s := ((hosted (own up 0 0)).setPart 0 (some x)).fset (R.PT_CTL 0) F.PT_CTL_EN 1
  let s := [0, 4, 5].foldl (fun (s : State) (r : Nat) => (s.fset (R.PT_RC 0 r) F.PT_RC_EN 1).fset (R.PT_RB 0 r) F.PT_RB_BASE (0x100 + 0x10 * r)) s
  (s.fset (R.PT_RP 0 0) F.PT_RP_PROD 1).putHost 0x100000 it

/-- An item as a number of 64 bytes. -/
def item (v : Nat) : List Byte := leBytes 64 v
def startIt (aid : Nat) : List Byte := item (1 + 7 * 2 ^ 32 + 5 * 2 ^ 64 + 2 ^ 96 + 2 ^ 192 + aid * 2 ^ 216)
def appendIt (plen : Nat) : List Byte := item (2 + 7 * 2 ^ 32 + 5 * 2 ^ 64 + plen * 2 ^ 96 + 2 ^ 192)
def pauseIt : List Byte := item (3 + 7 * 2 ^ 32 + 5 * 2 ^ 64 + 86400 * 2 ^ 320 + 3 * 2 ^ 352)
def simpleIt (op : Nat) : List Byte := item (op + 7 * 2 ^ 32 + 5 * 2 ^ 64)
def stepIt : List Byte := item (7 + 7 * 2 ^ 32)
def copyIt (src dst n : Nat) : List Byte := item (0x10 + 7 * 2 ^ 32 + src * 2 ^ 64 + dst * 2 ^ 128 + n * 2 ^ 192)
def wloadIt (swap : Nat) : List Byte := item (0x11 + 7 * 2 ^ 32 + 0x1000 * 2 ^ 64 + swap * 2 ^ 136)
def atomicIt (a : Nat) : List Byte := item (0x12 + 7 * 2 ^ 32 + a * 2 ^ 64 + 2 ^ 192)

/-- A sequence 5. -/
def seq5 (m : SeqMode) (clen expiry : Nat) : Seq :=
  { seqid := 5, mode := m, slot := 4095, clen := clen, tlen := 0, wgen := 0, agen := 0, aslot := 0xFFFF, strict := false, vmode := false,
    append := false, plen := 0, paddr := 0, fed := 0, maxtok := 1, ndraft := 0, stop := [], lastTok := 0, turn := 0, tag := 3, kind := 1, qcnt := 0,
    pages := [], expiry := expiry, ttl := 0, tier := 2 }
def has5 (m : SeqMode) (clen expiry : Nat) : PartSt := { PartSt.fresh with seqs := [seq5 m clen expiry] }

theorem isReady {s : State} {p r op : Nat} {b : List Byte}
    (h : s.Live ∧ s.takesItems p = true ∧ s.itemHead p r = some b ∧ itemOp b = op ∧ itemOk b = true) : s.ItemReady p r op b :=
  ⟨h.1, h.2.1, h.2.2.1, h.2.2.2.1, h.2.2.2.2⟩

theorem wit_RingIndexWritesComplete :
    let s := served PartSt.fresh stepIt
    s.Live ∧ s.Exists 0 ∧ (64 + 2 ^ 32 - s.cons 0 0) % 2 ^ 32 ≤ s.ringN 0 0 ∧ s.ringN 0 0 < (65 + 2 ^ 32 - s.cons 0 0) % 2 ^ 32 ∧
      (s.prod 0 4 + 2 ^ 32 - 0) % 2 ^ 32 ≤ s.ringN 0 4 ∧ s.ringN 0 (4 + 0) < (s.prod 0 (4 + 0) + 2 ^ 32 - 1) % 2 ^ 32 ∧
      (s.prod 0 5 + 2 ^ 32 - (2 ^ 32 - 64)) % 2 ^ 32 ≤ s.ringN 0 5 ∧ s.ringN 0 (4 + 1) < (s.prod 0 (4 + 1) + 2 ^ 32 - 1) % 2 ^ 32 ∧
      ¬ OwnFn 1 15 := by
  decide +kernel

/-- A prompt of four tokens, none of them fed. -/
def prompted (x : PartSt) : PartSt := { x with seqs := [{ seq5 .active 0 0 with plen := 4, paddr := 0x2000, slot := 0 }] }
/-- A walk of partition 0 that is not done. -/
def walks (s : State) : State := s.modTile 0 fun t => { t with walk := some (walkAt 1 1 1 1 0 []) }

theorem wit_StepsComplete_boundary :
    ∀ s ∈ [served PartSt.fresh stepIt, served (prompted { PartSt.fresh with running := true, stepSwap := true }) stepIt],
      s.Live ∧ s.walksDone 0 = true ∧ s.SoundReads 0 (s.verdictReads 0) ∧ (walks s).walksDone 0 = false := by
  decide +kernel

theorem wit_StepsComplete :
    ((served { PartSt.fresh with running := true } stepIt).part 0 = some { PartSt.fresh with running := true }) ∧
    (∀ sw ∈ [false, true],
      let s := (served (prompted { PartSt.fresh with stepItem := some 7, stepSwap := sw }) stepIt).fset (R.PT_CTL 0) F.PT_CTL_STATE (if sw then 3 else 0)
      s.Live ∧ (s.part 0).isSome = true ∧ s.stepDue 0 = true ∧ s.walksDone 0 = true ∧ s.recordFits 0 = true ∧ s.SoundReads 0 (s.promptReads 0) ∧
        (s.fset (R.PT_RC 0 4) F.PT_RC_EN 0).stepDue 0 = true ∧ (s.fset (R.PT_RC 0 4) F.PT_RC_EN 0).walksDone 0 = true ∧
        (s.fset (R.PT_RC 0 4) F.PT_RC_EN 0).recordFits 0 = false) ∧
    (let s := served PartSt.fresh stepIt
     s.part 0 = some PartSt.fresh ∧ PartSt.fresh.held = [] ∧ s.master (0 + 1) = false ∧ s.ringRoom 0 5 1 = true ∧
      (s.setMaster 1 true).master (0 + 1) = true ∧ (s.setMaster 1 true).ringRoom 0 5 1 = true) := by
  decide +kernel

theorem wit_items_ready : ∀ it ∈ [(1, startIt 255), (1, startIt 63), (2, appendIt 1), (3, pauseIt), (4, simpleIt 4), (5, simpleIt 5), (6, simpleIt 6),
    (7, stepIt), (0x10, copyIt 0x200000 0x200020 0), (0x10, copyIt 0x200000 0x200020 32), (0x11, wloadIt 0), (0x11, wloadIt 1), (0x12, atomicIt 0x200000)],
    ∀ x ∈ [PartSt.fresh, has5 .idle 0 0, has5 .active 0 0, has5 .paused 0 1, has5 .expired 0 0], (served x it.2).ItemReady 0 0 it.1 it.2 := by
  intro it hi x hx
  have h : ∀ it ∈ [(1, startIt 255), (1, startIt 63), (2, appendIt 1), (3, pauseIt), (4, simpleIt 4), (5, simpleIt 5), (6, simpleIt 6), (7, stepIt),
    (0x10, copyIt 0x200000 0x200020 0), (0x10, copyIt 0x200000 0x200020 32), (0x11, wloadIt 0), (0x11, wloadIt 1), (0x12, atomicIt 0x200000)],
    ∀ x ∈ [PartSt.fresh, has5 .idle 0 0, has5 .active 0 0, has5 .paused 0 1, has5 .expired 0 0],
      (served x it.2).Live ∧ (served x it.2).takesItems 0 = true ∧ (served x it.2).itemHead 0 0 = some it.2 ∧ itemOp it.2 = it.1 ∧
        itemOk it.2 = true := by decide +kernel
  exact isReady (h it hi x hx)

theorem part_served (x : PartSt) (it : List Byte) : (served x it).part 0 = some x := rfl

/-- A START with room for every prompt: one memory die, and all of its frames are the partition's. -/
def roomy : State :=
  ((served PartSt.fresh (startIt 255)).fset (R.MEM_CTL 0) F.MEM_CTL_NCH 1).fset (R.TQ_QUOTA 24 0) F.TQ_QUOTA_QUOTA (2 ^ 32 - 1)

theorem wit_start : roomy.part 0 = some PartSt.fresh ∧ roomy.mayAdmit 0 = true ∧
    ((PartSt.fresh.seq (itemSeq (startIt 255))).any fun q => decide (q.mode ≠ .expired)) = false ∧ itemNum (startIt 255) 27 1 = 255 ∧
    PartSt.fresh.freeSlot = some 0 ∧ roomy.itemHead 0 0 = some (startIt 255) ∧ roomy.takesItems 0 = true ∧
    (Config.promptFrames 0 (itemNum (startIt 255) 12 4)).toNat ≤ roomy.kvRoom 0 := by
  refine ⟨rfl, by decide +kernel, by decide +kernel, by decide +kernel, by decide +kernel, by decide +kernel, by decide +kernel, ?_⟩
  have h : roomy.kvRoom 0 = 2 ^ 32 - 1 := by decide +kernel
  rw [h]
  have := (Config.promptFrames 0 (itemNum (startIt 255) 12 4)).isLt
  omega

/-- Every slot is taken. -/
def fullOf (q : Seq) : PartSt := { PartSt.fresh with seqs := q :: (List.range 4096).map fun n => { seq5 .idle 0 0 with seqid := n + 6, slot := n } }

theorem full_slots (q : Seq) : (fullOf q).freeSlot = none := by
  rw [PartSt.freeSlot, List.find?_eq_none]
  intro n hn h
  rw [Bool.not_eq_true', List.any_eq_false] at h
  refine h { seq5 .idle 0 0 with seqid := n + 6, slot := n } ?_ (by simp [Seq.slotted, seq5])
  exact List.mem_cons_of_mem _ (List.mem_map.2 ⟨n, hn, rfl⟩)

/-- A manifest at 0x1000 of one stripe of layer 0 with no bytes, held by the own package at address 0; without its digest. -/
def mani0 (swap : Nat) : State :=
  let s := (served PartSt.fresh (wloadIt swap)).putHost 0x1000 ([0x57, 0x44, 0x49, 0x52, 1, 0, 1, 0, 1, 0, 0, 0, 9, 0, 0, 0, 1])
  ((((put s 0x1052 2 1).putHost 0x1054 [0x80]).fset (R.SEC_WKEY 0 0) F.SEC_WKEY_VALID 1).fset (R.SEC_WKEY 0 0) F.SEC_WKEY_KEYID 9).fset
    (R.PT_SERVE 0) F.PT_SERVE_LAYEREN 1
def mani (swap : Nat) : State :=
  (mani0 swap).putHost 0x1020 [60, 120, 139, 203, 154, 115, 233, 139, 209, 143, 31, 154, 204, 26, 130, 162, 238, 40, 159, 170, 146, 133, 104, 190,
    24, 95, 90, 54, 33, 211, 102, 106]

theorem wit_ItemsComplete :
    (let s := served PartSt.fresh (item 0)
     s.takesItems 0 = true ∧ s.itemHead 0 0 = some (item 0) ∧ itemOk (item 0) = false) ∧
    ((served (has5 .idle 0 0) (startIt 63)).mayAdmit 0 = true ∧
      (((has5 .idle 0 0).seq (itemSeq (startIt 63))).any fun q => decide (q.mode ≠ .expired)) = true ∧
      (((has5 .expired 0 0).seq (itemSeq (startIt 63))).any fun q => decide (q.mode ≠ .expired)) = false ∧ itemNum (startIt 63) 27 1 = 63 ∧
      spGet (fun _ => none) (has5 .expired 0 0).ids (itemNum (startIt 63) 27 1) = none) ∧
    (∀ b ∈ [startIt 255, appendIt 1, simpleIt 4], ((served PartSt.fresh b).fset (R.PT_CTL 0) F.PT_CTL_STATE 5).mayAdmit 0 = false) ∧
    (∀ m ∈ [SeqMode.idle, .active, .paused, .expired], (served (has5 m 0 1) (appendIt 1)).seqOf 0 (itemSeq (appendIt 1)) = some (seq5 m 0 1) ∧
      (served (has5 m 0 1) pauseIt).seqOf 0 (itemSeq pauseIt) = some (seq5 m 0 1) ∧
      (served (has5 m 0 1) (simpleIt 5)).seqOf 0 (itemSeq (simpleIt 5)) = some (seq5 m 0 1)) ∧
    (0 + itemNum (appendIt 1) 12 4 + 1 ≤ 2097152 ∧ 2097152 < 2097151 + itemNum (appendIt 1) 12 4 + 1 ∧
      (∀ x ∈ [has5 .idle 0 0], (x.seqs.filter fun y => decide (y.mode = .paused ∨ y.mode = .expired)).length < 65536)) ∧
    ((served (has5 .paused 0 1) (simpleIt 4)).now < 1 ∧ (has5 .paused 0 1).freeSlot = some 0 ∧ 0 ≤ (served (has5 .paused 0 0) (simpleIt 4)).now) ∧
    (∀ b ∈ [appendIt 1, pauseIt, simpleIt 4, simpleIt 5, simpleIt 6], (served PartSt.fresh b).seqOf 0 (itemSeq b) = none) ∧
    ((served PartSt.fresh stepIt).flag (R.PT_CTL 0) F.PT_CTL_AUTO = false ∧
      ((served PartSt.fresh stepIt).fset (R.PT_CTL 0) F.PT_CTL_AUTO 1).flag (R.PT_CTL 0) F.PT_CTL_AUTO = true) := by
  decide +kernel

/-- Partition 0 with a page in Bay at 0x200000, whose map entry the home die has read, and an absent one after it. -/
def bayed (x : PartSt) (it : List Byte) : State :=
  let s := ((served x it).rgnPut (R.HST_RGN 0 1) (3 + 2 ^ 15 + 2 ^ 21) (2 ^ 21)).rgnPut (R.MEM_RGN 0 0 1) (3 + 2 ^ 15 + 2 ^ 21) (2 ^ 21)
  let s := s.setMapEnt 32 ⟨.bay, 0, 1, 7, 0, 0, 0⟩
  { s with mem := { s.mem with cached := [(24, 32)] } }

theorem wit_ItemsComplete_resume :
    (let q := { seq5 .paused 0 1 with pages := [32] }
     let s := bayed { PartSt.fresh with seqs := [q] } (simpleIt 4)
     s.ItemReady 0 0 4 (simpleIt 4) ∧ s.mayAdmit 0 = true ∧ s.seqOf 0 (itemSeq (simpleIt 4)) = some q ∧ s.now < q.expiry ∧
      (∀ pg ∈ q.pages, (s.mapEnt pg).st ≠ .lost) ∧
      ∃ pg ∈ q.pages, ((s.setMapEnt 32 ⟨.lost, 0, 1, 7, 0, 0, 0⟩).mapEnt pg).st = .lost) := by
  exact ⟨isReady (by decide +kernel), by decide +kernel⟩

theorem wit_ItemsComplete_copy :
    (itemNum (copyIt 0x200000 0x200020 0) 24 4 / 32 = 0) ∧
    (∀ dst ∈ [0x200020, 0x210000],
      let b := copyIt 0x200000 dst 32
      let s := bayed PartSt.fresh b
      let r := s.readUnits 0 [itemNum b 8 8 % 2 ^ 48 + 32 * 0]
      itemNum b 24 4 / 32 = 1 ∧ addrPkg s.pkgOwn (itemNum b 8 8) = s.pkgOwn ∧ r.2 = some [zeroSheaf] ∧
        addrPkg r.1.pkgOwn (itemNum b 16 8) = r.1.pkgOwn ∧ (r.1.itemStore 0 0 (itemNum b 16 8) [zeroSheaf]).2 = decide (dst = 0x200020)) ∧
    (let b := copyIt 0x210000 0x200000 32
     ((bayed PartSt.fresh b).readUnits 0 [itemNum b 8 8 % 2 ^ 48 + 32 * 0]).2 = none) ∧
    (let b := copyIt (2 ^ 62 + 2 ^ 50) 0 32
     let s := served PartSt.fresh b
     addrPkg s.pkgOwn (itemNum b 8 8) ≠ s.pkgOwn ∧ s.routeTo (addrPkg s.pkgOwn (itemNum b 8 8)) = none) := by
  decide +kernel

theorem wit_wload :
    (∀ s ∈ [served PartSt.fresh (wloadIt 0), mani0 0], s.SoundReads 0 [(0x1000, s.manifestLen 0 0x1000)]) ∧
    ((served PartSt.fresh (wloadIt 0)).manifestOk 0 0x1000 = false ∧ itemNum (wloadIt 0) 8 8 = 0x1000) ∧
    ((mani0 0).manifestOk 0 0x1000 = true ∧ (mani0 0).manifestDigest 0 0x1000 ≠ ((mani0 0).locBytes 0 (0x1000 + 0x20) 32).1) := by
  decide +kernel

theorem wit_wload_good : ∀ swap ∈ [0, 1], let s := mani swap
    s.SoundReads 0 [(0x1000, s.manifestLen 0 0x1000)] ∧ s.manifestOk 0 0x1000 = true ∧ s.manifestDigest 0 0x1000 = (s.locBytes 0 (0x1000 + 0x20) 32).1 ∧ itemNum (wloadIt swap) 17 1 = swap ∧
      s.wkSlot 0 (s.locNum 0 (0x1000 + 0xC) 4) ≠ none ∧ s.streamOf 0 = none ∧
      (s.fset (R.SEC_WKEY 0 0) F.SEC_WKEY_KEYID 8).wkSlot 0 (s.locNum 0 (0x1000 + 0xC) 4) = none ∧
      (List.range (s.locNum 0 (0x1000 + 0x10) 4)).filterMap (fun n => (s.stripeAt 0 0x1000 n).dst.map fun d =>
        (n, (s.stripeAt 0 0x1000 n).layer, d, (s.stripeAt 0 0x1000 n).len)) = [(0, 0, 0, 0)] ∧
      (s.openPages 0 (stripePages 0 0)).isSome = true ∧ s.flag (R.PT_SERVE 0) F.PT_SERVE_LAYEREN = true ∧
      s.locNum 0 (0x1000 + 8) 2 = (s.fget (R.PT_WGEN 0) F.PT_WGEN_CUR + 1) % 65536 ∧ s.ptState 0 ≠ 4 ∧ s.ptState 0 ≠ 3 := by
  decide +kernel

theorem wit_ItemsComplete_atomic : ∀ a ∈ [0x200008, 0x210000],
    let s := bayed PartSt.fresh (atomicIt a)
    addrPkg s.pkgOwn (itemNum (atomicIt a) 8 8) = s.pkgOwn ∧ s.homeGw 0 (itemNum (atomicIt a) 8 8 % 2 ^ 48) = some 0 ∧
      (match (s.serveUpdate (gwDie 0) 0 0 [itemNum (atomicIt a) 8 8 % 2 ^ 48 / 32 * 32] (atomUpdate 1 (itemNum (atomicIt a) 8 8 % 2 ^ 48))).2 with
        | .got v => decide (a = 0x200008 ∧ v.psn = false)
        | .wait w => decide (a = 0x210000 ∧ w = .mapRead)) = true := by
  decide +kernel

def loads (w : WLoad) : State := { served { PartSt.fresh with wloads := [w], stepSwap := w.swap } stepIt with fab := up.fab }
def aLoad (swap : Bool) (retried : List Nat) : WLoad := ⟨3, 0x1000, swap, 1, 9, [(0, 0)], retried, false⟩
def striped (w : WLoad) : State :=
  (loads w).putHost 0x1060 [0x1a, 0xb2, 0x1d, 0x83, 0x55, 0xcf, 0xa1, 0x7f, 0x8e, 0x61, 0x19, 0x48, 0x31, 0xe8, 0x1a, 0x8f, 0x22, 0xbe, 0xc8, 0xc7,
    0x28, 0xfe, 0xfb, 0x74, 0x7e, 0xd0, 0x35, 0xeb, 0x50, 0x82, 0xaa, 0x2b]
def slices (s : State) : State :=
  [0, 1].foldl (fun (s : State) (p : Nat) => (s.fset (R.PT_SLICE p) F.PT_SLICE_GROUP 15).fset (R.PT_SLICE p) F.PT_SLICE_QUANTUM 10000)
    ((s.setPart 1 (some PartSt.fresh)).fset (R.PT_CTL 1) F.PT_CTL_STATE 2)

/-- The same load, with stripe 0 still to be passed on: bytes of another length are no such stripe. -/
theorem wit_ServingEventsComplete_pass :
    let w := aLoad false []
    let s := (striped w).modPart 0 fun x => { x with passing := [(w.addr, 0)] }
    (s.part 0).map (·.passing) = some [(w.addr, 0)] ∧ ∀ y ∈ [(w.addr, 0)], y.2 = 0 → [(0 : Byte)].length ≠ (s.stripeAt 0 y.1 0).len := by
  decide +kernel

theorem wit_ServingEventsComplete :
    ((served (has5 .pausing 0 0) stepIt).seqOf 0 5 = some (seq5 .pausing 0 0) ∧ (seq5 .pausing 0 0).pages = []) ∧
    (∀ w ∈ [aLoad false [], aLoad true [], aLoad false [0], aLoad true [0]],
      let a := (striped w).passArrival 0 0 []
      a.part 0 = some { PartSt.fresh with wloads := [w], stepSwap := w.swap } ∧ (∀ y ∈ ([] : List (Nat × Nat)), y.2 = 0 → False) ∧
      ([w].find? fun w => w.waiting.any fun y => decide (y.1 = 0)) = some w ∧ ([] : List Byte).length = (a.stripeAt 0 w.addr 0).len ∧
      sm3 [] = (a.stripeAt 0 w.addr 0).dig ∧ [(0 : Byte)].length ≠ (a.stripeAt 0 w.addr 0).len) ∧
    ((seq5 .paused 0 0).expiry ≤ (served (has5 .paused 0 0) stepIt).now ∧
      (seq5 .expired 0 0).expiry + 86400000000 ≤ ((served (has5 .expired 0 0) stepIt).wr R.STW_TIME 86400000000).now) ∧
    (let s := slices (served PartSt.fresh stepIt)
     ((s.groupParts 15).find? fun p => decide (s.ptState p ≠ 2)) = some 0 ∧ s.part 0 = some PartSt.fresh ∧
      s.nextPart 0 ((s.groupParts 15).filter fun q => decide (q ≠ 0)) = some 1 ∧ s.ptState 0 < 3) ∧
    (let s := (slices (served { PartSt.fresh with parking := true } stepIt)).fset (R.TIL_YREQ 0) F.TIL_YREQ_AT 1
     s.allParked 0 = true ∧ s.noPosted 0 = true ∧ (slices (served { PartSt.fresh with parking := true } stepIt)).allParked 0 = false ∧
      s.part 0 = some { PartSt.fresh with parking := true }) ∧
    (let s := (front 35 14 0 5 [0]).setPart 0 (some PartSt.fresh)
     (s.rxPop 35 0).part 0 = some PartSt.fresh ∧ (s.part 0).any (·.stepSwap) = false) := by
  decide +kernel

/-- A general region over the first 128 MiB of partition 0. -/
def genned : State := ((up.rgnPut (R.HST_RGN 0 0) (3 + 2 ^ 15) (2 ^ 27))).setPart 0 (some PartSt.fresh)

theorem wit_ServingCommandsComplete :
    (let s := up.fset R.RST_STAT F.RST_STAT_UP 1
     s.Mail ∧ s.part 15 = none ∧ s.badClusters (List.replicate 24 0xFF) = false ∧ (List.replicate 24 (0xFF : BitVec 8)).length = 24 ∧
      s.flag R.RST_STAT F.RST_STAT_UP = true ∧ (s.tile 1535).trans = [] ∧ (s.tile 1535).held = []) ∧
    (genned.Mail ∧ genned.part 0 = some PartSt.fresh ∧ PartSt.fresh.unrecorded = [] ∧ genned.ringOn 0 0 = false ∧
      genned.inGen 0 0 (4096 * 0x4000) = true ∧ genned.inGen 0 0x4000000 (4096 * 128) = true ∧ genned.inGen 0 0x4080000 (genned.saveMin 0) = true ∧
      (genned.rgnOf 0 0x7FFFFFF).isSome = true ∧ PartSt.fresh.freeAdapter = some 0 ∧ PartSt.fresh.running = false ∧
      genned.readTouch 0 (0 + 0x20) 32 = genned) := by
  decide +kernel

/-! ## Chapter 12 -/

/-- Which case of an access's target a value is. -/
def tgtIs : CtlTgt → Nat
  | .miss => 0
  | .off => 1
  | .win 0 _ => 2
  | .win _ _ => 3
  | .reg _ => 4

theorem tgt_miss {x : CtlTgt} (h : tgtIs x = 0) : x = .miss := by
  rcases x with _ | _ | ⟨_ | w, o⟩ | x <;> simp_all [tgtIs]

theorem tgt_off {x : CtlTgt} (h : tgtIs x = 1) : x = .off := by
  rcases x with _ | _ | ⟨_ | w, o⟩ | x <;> simp_all [tgtIs]

theorem tgt_reg {x : CtlTgt} (h : tgtIs x = 4) : ∃ r, x = .reg r := by
  rcases x with _ | _ | ⟨_ | w, o⟩ | x <;> simp_all [tgtIs]

/-- A mailbox command stands ready, as function `fn`'s. -/
def knocked (fn : Fun) : State := up.fset (State.mbDb fn) F.MB_DB_BUSY 1

/-- Partition 0's count report, the oldest of the steward's. -/
def counted : State := { up with rpt := [.count 0 0 0 0 []] }

theorem wit_targets :
    up.ctlTarget 0 (2 ^ 30) 8 = .miss ∧ (up.fset (R.CLK_ISL 1535) F.CLK_ISL_ON 0).ctlTarget 0 (R.TIL_STAT 1535) 4 = .off ∧ State.reset.ctlTarget 0 R.MB_DB 4 = .miss ∧
    (∃ r, up.ctlTarget 0 R.MB_DB 4 = .reg r) ∧ up.ctlTarget 16 R.STW_IDENT 4 = .miss :=
  ⟨tgt_miss (by decide +kernel), tgt_off (by decide +kernel), tgt_miss (by decide +kernel), tgt_reg (by decide +kernel),
    tgt_miss (by decide +kernel)⟩

theorem wit_windows : up.ctlTarget 0 0x10000 8 = .win 0 0 ∧ up.ctlTarget 0 0x13FF8 8 = .win 0 0x3FF8 ∧
    up.ctlTarget 0 0x14000 8 = .win 0 0x4000 ∧ up.ctlTarget 0 0x40000 1 = .win 1 0 ∧ up.ctlTarget 0 0x100100 1 = .win 2 0 ∧
    up.ctlTarget 0 0x140FFF 1 = .win 3 0xFFF := by
  refine ⟨?_, ?_, ?_, ?_, ?_, ?_⟩ <;> rfl

theorem wit_ControlSpaceAndMailboxComplete :
    up.Live ∧ up.fwif ≠ 0 ∧ up.flag (State.mbDb 0) F.MB_DB_BUSY = false ∧ (knocked 16).flag (State.mbDb 16) F.MB_DB_BUSY = true ∧
    (knocked 16).Live ∧ (knocked 16).fwif ≠ 0 ∧ (knocked 16).Mail ∧ (knocked 16).mbNext = some 16 ∧ (knocked 0).mbNext = some 0 ∧
    ctlDie 0x30000000 = 24 ∧ ctlDie 0 = 31 ∧ tgtIs (up.ctlTarget (pktAcc 24) 0x30FFFFFF (ctlWidth 0x30FFFFFF)) = 0 ∧ ctlDie 0x30FFFFFF = 24 ∧
    counted.Live ∧ (counted.rpt.find? fun r => (rptQueue r).isSome) = some (.count 0 0 0 0 []) ∧ rptQueue (.count 0 0 0 0 []) = some 0 ∧
    (counted.evq 0).length < 4096 := by
  decide +kernel

/-- A control packet of die 0, and the control network with packets under way. -/
def pkt (typ dst tag : Nat) : CtlPkt := ⟨typ, dst, 0, 7, tag, false, 0, []⟩
def hops (l : List CtlHop) : State := { up with net := { up.net with ctl := l } }
def hopOf (s : State) (x : CtlPkt) : Option (Option Nat) := (s.net.ctl.find? fun e => decide (e.pkt = x)).map (·.hop)

theorem wit_ControlSpaceAndMailboxComplete_packets :
    (hops []).Live ∧ hopOf (hops []) (pkt 11 1 3) = none ∧
    (let s := hops (List.replicate 8 ⟨some 0, pkt 2 1 4⟩ ++ [⟨none, pkt 0 1 3⟩])
     hopOf s (pkt 0 1 3) = some none ∧ s.ctlAdmits (pkt 0 1 3) = false) ∧
    (∀ typ < 12, hopOf (hops [⟨some 1, pkt typ 1 3⟩]) (pkt typ 1 3) = some (some 1) ∧ (hops [⟨some 1, pkt typ 1 3⟩]).ctlServed (pkt typ 1 3) = true) ∧
    (∀ typ ∈ [4, 5, 6, 7, 8, 9, 0, 1, 2, 3, 10, 11], let s := hops [⟨some 1, pkt 5 1 4⟩, ⟨some 1, pkt typ 1 3⟩]
     hopOf s (pkt typ 1 3) = some (some 1) ∧ s.ctlServed (pkt typ 1 3) = false) ∧
    (let s := hops [⟨some 0, pkt 2 2 4⟩, ⟨some 0, pkt 0 2 3⟩]
     hopOf s (pkt 0 2 3) = some (some 0) ∧ s.ctlCrosses 0 (ctlNext 0 2) (pkt 0 2 3) = false ∧ s.ctlCrosses 0 (ctlNext 0 2) (pkt 2 2 4) = true) := by
  decide +kernel

/-- Core 0's RAM starts with a command packet's header whose payload is `n` bytes. -/
def packets (n : Byte) : State := { up with stw := { up.stw with ram := [(ramKey 0 0, 2), (ramKey 0 5, n)] } }

/-- Core 0 with general register 1 = `b` and register 2 = `v`. -/
def coreWith (b v : Word32) : State := (up.setGreg 0 1 b).setGreg 0 2 v

theorem wit_CoresComplete :
    (∀ c : CoreNo, up.Live ∧ (up.core c).stopped = false ∧ (up.coreAddr c 0 0).toNat % 8 = 0 ∧ (up.coreAddr c 0 4).toNat % 4 = 0 ∧
      (up.coreAddr c 0 4).toNat % 8 ≠ 0 ∧ (up.coreAddr c 0 1).toNat % 4 ≠ 0) ∧
    (∀ n ∈ [1, 8, 64, 72], let l := (packets n).ramBytes 0 ((packets n).coreAddr 0 0 0) 16
     (packets n).Live ∧ ((packets n).core 0).stopped = false ∧ ((packets n).coreAddr 0 0 0).toNat % 8 = 0 ∧ ofLeBytes (l.take 8) % 16 = 2 ∧
      bitsOf (ofLeBytes (l.take 8)) 46 40 = n.toNat) ∧
    (let s : State := { (coreWith 0xFF 0) with stw := { (coreWith 0xFF 0).stw with queues := [(7, [.count 3 0 0 0 []])] } }
     s.Live ∧ (s.core 0).stopped = false ∧
      (List.range 8).find? (fun q => decide ((0 : CoreNo).val < 4) && (s.greg 0 1).toNat.testBit q && !(s.evq q).isEmpty) = some 7) ∧
    (∀ q < 8, (0 : CoreNo).val < 4 → ((coreWith 0xFF 0).greg 0 1).toNat.testBit q = true → (coreWith 0xFF 0).evq q = []) ∧
    (aluOp .div ((coreWith 7 0).greg 0 1) ((coreWith 7 0).greg 0 2) = none ∧ aluOp .add ((coreWith 7 0).greg 0 1) ((coreWith 7 0).greg 0 2) = some 7) ∧
    ((up.modCore 0 fun x => { x with stopped := true }).Live ∧ ((up.modCore 0 fun x => { x with stopped := true }).core 0).stopped = true) := by
  decide +kernel

/-- A hint of tile 1535 behind a count report. -/
def hinting : State := { up with rpt := [.count 0 0 0 0 [], .hint 1535 3 0 0 0 0] }

theorem wit_PowerEventsComplete :
    up.Live ∧ (hinting.Live ∧ hinting.rpt = [Rpt.count 0 0 0 0 []] ++ .hint 1535 3 0 0 0 0 :: []) ∧
    ((State.reset.fset (R.TIL_CLK 0) F.TIL_CLK_FREQ 72).fget (R.TIL_CLK 0) F.TIL_CLK_FREQ ≠ 0) ∧
    up.tilePart 0 = none ∧ ((up.fset (R.CLK_ISL 0) F.CLK_ISL_ON 0).flag (R.CLK_ISL 0) F.CLK_ISL_ON = false) ∧
    ((up.modPwr fun x => { x with raised := [5 * 128 + 20] }).pwr.raised.find? fun x => decide (x / 128 = 5)) = some (5 * 128 + 20) ∧
    up.fget (R.CLK_ISL 1700) F.CLK_ISL_VOFF < 12 ∧ 12 ≤ (up.fset (R.CLK_ISL 1700) F.CLK_ISL_VOFF 12).fget (R.CLK_ISL 1700) F.CLK_ISL_VOFF ∧
    (toSigned8 (114 : Byte).toNat < 115 ∧ 115 ≤ toSigned8 (115 : Byte).toNat ∧ toSigned8 (255 : Byte).toNat < 115) ∧
    (alwaysOn 1536 = true ∧ alwaysOn 1567 = true ∧ alwaysOn 1700 = true ∧ alwaysOn 1568 = false ∧
      up.flag (R.CLK_ISL 1568) F.CLK_ISL_USED = false ∧ (up.fset (R.CLK_ISL 0) F.CLK_ISL_USED 1).flag (R.CLK_ISL 0) F.CLK_ISL_USED = true) := by
  decide +kernel

/-- A part whose ceiling stands at 4,000 W and whose tray allows as much. -/
def ceil4k : State := (up.fset R.PWR_STAT F.PWR_STAT_CEIL 4000).fset R.PWR_CAP F.PWR_CAP_TRAY 4000

theorem wit_capWrite : ceil4k.Live ∧ (3999 < ceil4k.fget R.PWR_CAP F.PWR_CAP_TRAY ∧ 3999 < ceil4k.ceil ∧ (0 % 2 ^ 12 = 0 ∨ 400 < 401 % 2 ^ 12)) ∧
    (let s := ceil4k.fset R.PWR_CAP F.PWR_CAP_HOST 2000
     min 4000 (max 2000 0) ≤ s.fget R.PWR_CAP F.PWR_CAP_HOST ∧ min 4000 (max 2000 0) < s.ceil) := by
  decide +kernel

theorem wit_PowerCommandsComplete :
    (∀ fn : Fun, up.Mail ∧ (fn.val = 0 ∨ false = false)) ∧
    (let s := up.fset R.STW_LOC F.STW_LOC_TSVALID 1
     let t := s.fset R.STW_LOC F.STW_LOC_LOCK 1
     s.Mail ∧ s.flag R.STW_LOC F.STW_LOC_TSVALID = true ∧ s.flag R.STW_LOC F.STW_LOC_LOCK = false ∧
      t.Mail ∧ t.flag R.STW_LOC F.STW_LOC_TSVALID = true ∧ t.flag R.STW_LOC F.STW_LOC_LOCK = true ∧
      t.pkgOwn = 0 * 32 + t.fget R.STW_LOC F.STW_LOC_TRAYSLOT) ∧
    OwnFn 0 0 ∧ OwnFn 16 15 ∧ (own up 1535 15).Mail ∧ 1535 ∈ (own up 1535 15).tilesOf 15 ∧
    alwaysOn 0 = false ∧ up.flag (R.CLK_ISL 0) F.CLK_ISL_USED = false := by
  decide +kernel

/-! ## Chapter 13 -/

/-- A session of function `fn`, with keys of zeros. -/
def ses (fn role mask : Nat) (granted : Bool) : Session :=
  { fn := fn, role := role, mask := mask, granted := granted, kenc := List.replicate 16 0, kmac := List.replicate 32 0, sa := List.replicate 32 1, ctr := 0 }

/-- A part of LIFE `n` with that session as number 3. -/
def inSes (n : Nat) (x : Session) : State := (up.fset R.SEC_LIFE F.SEC_LIFE_STATE n).setSession 3 (some x)

/-- The authentication of that session's first command. -/
def au (x : Session) (code : Nat) (params : List Byte) : SesAuth := ⟨3, 1, sesMac x code 1 params⟩

/-- An authentication as the session expects it is accepted. -/
theorem authOf_au (s : State) (x : Session) (fn code : Nat) (params : List Byte) (h : s.session 3 = some x) (f : x.fn = fn)
    (g : x.granted = true) (c : x.ctr = 0) : s.authOf fn code (au x code params) params = .ok x := by
  simp [State.authOf, au, h, f, g, c]

def owner : Session := ses 0 1 0 true
def oper (p : Nat) : Session := ses (p + 1) 2 (2 ^ p) true

theorem auth_owner (n : Nat) (code : Nat) (params : List Byte) : (inSes n owner).authOf 0 code (au owner code params) params = .ok owner :=
  authOf_au _ _ _ _ _ rfl rfl rfl rfl
theorem auth_oper (n p : Nat) (code : Nat) (params : List Byte) :
    (inSes n (oper p)).authOf (p + 1) code (au (oper p) code params) params = .ok (oper p) :=
  authOf_au _ _ _ _ _ rfl rfl rfl rfl

/-- The certificate of an operator of every partition, its signature of zeros. -/
def cert : List Byte := List.replicate 64 0 ++ [0xFF, 0xFF, 1] ++ List.replicate 93 0

/-- The owner whose key is 64 zeros. -/
def keyDig : List Byte := sm3 (List.replicate 64 0)
def owned : State :=
  (List.range 4).foldl (fun s i => s.wr (R.SEC_OWNDIG 0 0 + 8 * i) (BitVec.ofNat 64 (ofLeBytes ((keyDig.drop (8 * i)).take 8))))
    (up.fset R.SEC_OWNER F.SEC_OWNER_SET 1)

theorem wit_secOpen_owner : owned.Mail ∧ owned.secShut 4 = false ∧ owned.sec.lockout = false ∧
    (List.range 4).find? (fun i => (owned.session i).isNone) = some 0 ∧ owned.ownerSet = true ∧ sm3 (List.replicate 64 0) = owned.ownerDigest := by
  decide +kernel

theorem wit_SecuritySessionsComplete :
    (up.Mail ∧ up.secShut 2 = false ∧ up.secShut 3 = false ∧ up.secShut 1 = false) ∧
    (let s := (up.fset (R.LNK_STAT 35) F.LNK_STAT_STATE 4)
     s.Mail ∧ s.linkState 35 = 4 ∧ (255 : Nat) ≠ 0 ∧ (List.replicate 32 (0 : Byte)).length = 32) ∧
    (up.secShut 4 = false ∧ up.sec.lockout = false ∧ (List.replicate 64 (0 : Byte)).length = 64 ∧
      (List.range 4).find? (fun i => (up.session i).isNone) = some 0 ∧ cert.length = 160 ∧
      (ofLeBytes ((cert.drop 64).take 2)).testBit ((16 : Fun).val - 1) = true) ∧
    (let x := ses 16 2 0 false
     let s := inSes 1 x
     s.Mail ∧ s.secShut 5 = false ∧ s.session 3 = some x ∧ x.fn = (16 : Fun).val ∧ x.granted = false ∧ x.sa.length = 32 ∧
      List.replicate 32 (0 : Byte) ≠ x.sa) ∧
    (inSes 1 owner).secShut 6 = false ∧ 8 ≤ (up.modSec fun y => { y with authRow := 7 }).sec.authRow + 1 ∧
    (inSes 1 owner).authOf 0 0x0D06 ⟨2, 1, []⟩ [] = .none_ ∧ (inSes 1 owner).authOf 0 0x0D06 ⟨3, 2, []⟩ [] = .bad ∧
    (up.fget R.SEC_EVT F.SEC_EVT_ZTHR = 0 ∧ (let s := up.fset R.SEC_EVT F.SEC_EVT_ZTHR 1
      s.fget R.SEC_EVT F.SEC_EVT_ZTHR ≠ 0 ∧ s.fget R.SEC_EVT F.SEC_EVT_ZTHR ≤ min 65535 (s.fget R.SEC_EVT F.SEC_EVT_STALE + 1)) ∧
      (let s := up.fset R.SEC_EVT F.SEC_EVT_ZTHR 2
       min 65535 (s.fget R.SEC_EVT F.SEC_EVT_STALE + 1) < s.fget R.SEC_EVT F.SEC_EVT_ZTHR)) := by
  decide +kernel

/-- A key of zeros for partition 15, number 7, as the owner's session wraps it; and a domain key for domain 0. -/
def wkey : List Byte := List.replicate 32 0 ++ [7, 0, 0, 0, 15, 0, 0, 0]
def wrappedKey : List Byte := kwWrap owner.kenc wkey

theorem wit_unwrap : wrappedKey.length = 48 ∧ kwUnwrap owner.kenc wrappedKey = some wkey := by decide +kernel

theorem wit_SecurityServicesComplete :
    (let s := inSes 1 owner
     s.Mail ∧ s.secShut 7 = false ∧ mayServe 15 owner = true ∧ ofLeBytes ((wkey.drop 36).take 1) = (15 : Part).val ∧
      ofLeBytes ((wkey.drop 32).take 4) = (7 : Word32).toNat ∧ s.keySlot 15 7 = none ∧ s.keyFree 15 = some 0 ∧ mayServe 3 (oper 3) = true) ∧
    (let s := ((inSes 1 owner).fset (R.SEC_WKEY 15 15) F.SEC_WKEY_VALID 1).fset (R.SEC_WKEY 15 15) F.SEC_WKEY_KEYID 7
     s.Mail ∧ s.secShut 8 = false ∧ s.keySlot 15 7 = some 15 ∧ s.part 15 = none ∧ s.session 3 = some owner) ∧
    (let s := (inSes 1 owner).fset R.SEC_DOMAIN F.SEC_DOMAIN_ID 7
     s.secShut 9 = false ∧ owner.role = 1 ∧ ofLeBytes ((wkey.drop 32).take 2) = s.fget R.SEC_DOMAIN F.SEC_DOMAIN_ID ∧ s.session 3 = some owner) ∧
    (let s := (inSes 1 owner).fset R.SEC_DOMAIN F.SEC_DOMAIN_REMAIN 1
     s.secShut 10 = false ∧ s.fget R.SEC_DOMAIN F.SEC_DOMAIN_ID = (0 : BitVec 16).toNat ∧
      s.fget R.SEC_DOMAIN F.SEC_DOMAIN_ID ≠ (0xFFFF : BitVec 16).toNat ∧ s.fget R.SEC_DOMAIN F.SEC_DOMAIN_REMAIN ≠ 0 ∧ s.session 3 = some owner) ∧
    (let s := ((inSes 1 owner).fset R.SEC_SVN F.SEC_SVN_REMAIN 1).modSec fun y => { y with fwSvn := 1 }
     s.Mail ∧ s.secShut 11 = false ∧ s.fget R.SEC_SVN F.SEC_SVN_SVN < (1 : Byte).toNat ∧ s.fget R.SEC_SVN F.SEC_SVN_REMAIN ≠ 0 ∧
      (1 : Byte).toNat ≤ s.sec.fwSvn ∧ s.session 3 = some owner) := by
  decide +kernel

theorem wit_SecurityServicesComplete_fuses :
    (let s := (up.fset R.SEC_OWNER F.SEC_OWNER_REMAIN 1).fset R.SEC_LIFE F.SEC_LIFE_REMAIN 1
     s.Mail ∧ s.secShut 12 = false ∧ s.life = 0 ∧ s.ownerSet = false ∧ s.fget R.SEC_OWNER F.SEC_OWNER_REMAIN ≠ 0 ∧
      s.fget R.SEC_LIFE F.SEC_LIFE_REMAIN ≠ 0 ∧ s.secShut 15 = false ∧ s.secShut 16 = false) ∧
    (let s := (((inSes 1 owner).fset R.SEC_OWNER F.SEC_OWNER_REMAIN 1).fset R.SEC_OWNER F.SEC_OWNER_SLOT 6).fset R.SEC_OWNER F.SEC_OWNER_SET 1
     s.Mail ∧ s.secShut 12 = false ∧ s.life ≠ 0 ∧ s.ownerSet = true ∧ s.fget R.SEC_OWNER F.SEC_OWNER_SLOT + 1 ≤ 7 ∧
      s.fget R.SEC_OWNER F.SEC_OWNER_REMAIN ≠ 0 ∧ s.session 3 = some owner) ∧
    (∀ n ∈ [1, 2], let s := (inSes n owner).fset R.SEC_LIFE F.SEC_LIFE_REMAIN 1
     s.Mail ∧ s.secShut 13 = false ∧ (Fin.ofNat 4 (n + 1)).val = s.life + 1 ∧ s.granted = false ∧ s.fget R.SEC_LIFE F.SEC_LIFE_REMAIN ≠ 0 ∧
      s.session 3 = some owner) ∧
    (let m : List Byte := [0x52, 0x45, 0x52, 0x50, 31, 31, 0, 0] ++ List.replicate 8 0
     let s := (inSes 1 owner).fset (R.SEC_REPAIR 31) F.SEC_REPAIR_REMAIN 1
     s.Mail ∧ s.secShut 14 = false ∧ repairBad 31 m = false ∧ ofLeBytes ((m.drop 5).take 1) ≤ 31 ∧
      s.fget (R.SEC_REPAIR 31) F.SEC_REPAIR_VERSION < ofLeBytes ((m.drop 5).take 1) ∧ s.fget (R.SEC_REPAIR 31) F.SEC_REPAIR_REMAIN ≠ 0 ∧
      s.session 3 = some owner) ∧
    (up.secShut 17 = false ∧ (inSes 1 owner).secShut 15 = false ∧ (inSes 1 owner).secShut 16 = false) := by
  decide +kernel

/-! ## Chapter 14 -/

/-- A part in a hold. -/
def holding (h : Hold) : State := { State.reset with rst := { State.reset.rst with hold := h } }

theorem wit_ResetSourcesComplete :
    (State.reset.rst.vaux = true ∧ State.reset.rst.hold = .none_ ∧ (holding .pin).rst.hold = .pin ∧ (holding .pin).rst.slot < 32) ∧
    (let s := (up.fset R.RST_WDOG F.RST_WDOG_EN 1).fset R.RST_WDOG F.RST_WDOG_MS 0
     s.Live ∧ s.flag R.RST_WDOG F.RST_WDOG_EN = true ∧ s.rst.kickAt + 1000 * s.fget R.RST_WDOG F.RST_WDOG_MS ≤ s.now) ∧
    ((holding .trip).rst.hold = .trip ∧ (List.replicate 239 (105 : Byte)).length = 239 ∧
      ∀ t ∈ List.replicate 239 (105 : Byte), toSigned8 t.toNat ≤ 105) ∧
    (let s := (own up 0 15).setPart 15 (some PartSt.fresh)
     s.Live ∧ s.onPort 0 15 = true ∧ (s.part 15).isSome = true) ∧
    (let u := up.fset R.HST_PORTMAP F.HST_PORTMAP_PORT 0xFFFF
     let s := { u with rst := { u.rst with twoPorts := true } }
     s.Live ∧ s.rst.twoPorts = true ∧ (16 : Fun).val ≠ 0 ∧ s.onPort 1 ((16 : Fun).val - 1) = true) ∧
    (State.reset.rst.hold ≠ .unpowered ∧ State.reset.rst.hold ≠ .pin ∧
      ({ State.reset with rst := { State.reset.rst with vaux := false } } : State).rst.vaux = false) := by
  decide +kernel

/-- Inputs of bring-up with no copy of any image. -/
def noImages (n : Nat) : BootIn := ⟨[], [], [], n, [], [], [], [], []⟩

/-- A header that names stage 2 where stage 1 loads it. -/
def wrongStage : List Byte := [0x42, 0x4F, 0x4F, 0x54, 1, 0, 2, 0] ++ List.replicate 120 0

theorem wit_BringUpComplete :
    (State.reset.Live ∧ State.reset.fget R.RST_STAT F.RST_STAT_STAGE = 0 ∧ State.reset.fget R.SEC_STAT F.SEC_STAT_BOOTERR = 0 ∧
      State.reset.fwif = 0 ∧ (noImages 1).failTest = 1 ∧ (noImages 0).failTest = 0 ∧ State.reset.pickImage 1 (noImages 0).loader 1 = (none, 1)) ∧
    (up.Live ∧ up.fwif ≠ 0) ∧
    (let s := (up.fset R.RST_STAT F.RST_STAT_LINKWAIT 1).fset R.STW_LOC F.STW_LOC_LOCK 1
     s.Live ∧ s.flag R.RST_STAT F.RST_STAT_LINKWAIT = true ∧ s.flag R.STW_LOC F.STW_LOC_LOCK = true) ∧
    (ofLeBytes (wrongStage.take 4) = 0x544F4F42 ∧ ofLeBytes ((wrongStage.drop 4).take 2) = 1 ∧ (wrongStage.getD 6 0).toNat ≠ 1 ∧
      State.reset.imageErr 1 wrongStage ≠ 0 ∧ wrongStage ∉ ([] : List (List Byte))) := by
  decide +kernel

/-- A report of class 1 at the front of queue 5. -/
def faulted (level d2 : Nat) : State := up.setEvq 5 [.fault 1 1 level (some 0) 0 0 0 d2]

/-- Epoch 7 open over domain `d`. -/
def inEpoch (d : Dom) : State :=
  (((up.fset (R.RST_EPOCH 7) F.RST_EPOCH_OPEN 1).fset (R.RST_EPOCH 7) F.RST_EPOCH_LEVEL d.level).fset (R.RST_EPOCH 7) F.RST_EPOCH_DIE d.die).fset
    (R.RST_EPOCH 7) F.RST_EPOCH_UNIT d.unit

theorem wit_FaultsAndRecoveryComplete :
    (∀ lv ∈ [0, 1, 4, 5], (faulted lv 0).Live ∧ (faulted lv 0).evq (4 + (1 : Fin 4).val) = .fault 1 1 lv (some 0) 0 0 0 0 :: [] ∧
      (faulted lv 0).flag R.RST_STAT F.RST_STAT_DEAD = false ∧ ¬ (1 = 10 ∧ 0 = 3)) ∧
    (up.fget R.STW_FLOGPTR F.STW_FLOGPTR_COUNT < 1024 ∧
      (up.fset R.STW_FLOGPTR F.STW_FLOGPTR_COUNT 1024).fget R.STW_FLOGPTR F.STW_FLOGPTR_COUNT = 1024) ∧
    ((∀ k < 8, up.epochOpen k = false) ∧ 1 ≤ (⟨1, 255, 63⟩ : Dom).level ∧ (⟨1, 255, 63⟩ : Dom).level ≤ 4) ∧
    (∀ d ∈ [Dom.mk 3 0 0, ⟨3, 30, 0⟩, ⟨4, 255, 0⟩], (inEpoch d).Live ∧ (inEpoch d).epochOpen 7 = true ∧ (inEpoch d).epochDom 7 = d ∧
      (d.die < 31 ∨ d.level = 4)) ∧
    (let s := up.setPart 15 (some { PartSt.fresh with running := true })
     let t := s.fset (R.PT_CTL 15) F.PT_CTL_STATE 1
     s.Live ∧ s.Exists 15 ∧ ((s.part 15).map (·.running)) = some true ∧ s.ptState 15 ≠ 1 ∧ t.ptState 15 = 1 ∧ ((t.part 15).map (·.running)) = some true) ∧
    (let s := front 35 14 0 4 [15 * 2 ^ 16]
     s.Live ∧ s.rxFront 35 0 = some (aFlit 14 0 4 [15 * 2 ^ 16]) ∧ bitsOf (BitVec.toNat (15 * 2 ^ 16 : SheafBits)) 31 16 < 16) ∧
    (let s := up.fset (R.DIE_CTL 30) F.DIE_CTL_FENCE 1
     s.flag (R.DIE_CTL 30) F.DIE_CTL_FENCE = true ∧ up.flag (R.DIE_CTL 30) F.DIE_CTL_FENCE = false ∧ 1535 ∈ Dom.tiles ⟨3, 23, 0⟩) ∧
    ((up.fset (R.SYN_DIE 23 63) F.SYN_DIE_PART 15).fget (R.SYN_DIE 23 63) F.SYN_DIE_PART = 15) := by
  decide +kernel

/-- Tile `g` under test. -/
def marching (g : Nat) (pres : Bool) : State := up.modTile g fun t => { t with march := ⟨true, pres⟩ }

theorem wit_TestAndStatusCommandsComplete :
    (up.mayMarch 0 1535 = true ∧ (own up 1535 15).mayMarch 16 1535 = true ∧ (own up 1535 15).mayMarch 15 1535 = false) ∧
    (∀ pres, (marching 1535 pres).Live ∧ ((marching 1535 pres).tile 1535).march.running = true ∧
      ((marching 1535 pres).tile 1535).march.preserving = pres ∧ (∀ x ∈ [(31, 2063)], x.1 < 32 ∧ x.2 < 2064) ∧ (31, 2063) ∉ up.repaired 1535) ∧
    (up.Mail ∧ ((0 : Fun).val = 0 ∨ true = false) ∧ ((16 : Fun).val = 0 ∨ false = false) ∧ (30 : Die).val < 31) ∧
    (let ts : TileSet := .one 0
     (own up 0 0).Mail ∧ (own up 0 0).TilesOk 0 0 ts ∧ (∀ g ∈ (own up 0 0).tilesIn 0 ts, (own up 0 0).mayMarch 0 g = true)) := by
  decide +kernel

theorem wit_ManagementPortComplete :
    (State.reset.rst.vaux = true ∧ State.reset.inReset = false ∧ State.reset.rst.slotValid = false) ∧
    ((holding .pin).rst.vaux = true ∧ (holding .pin).inReset = true) ∧
    (let s := { State.reset with rst := { State.reset.rst with slotValid := true } }
     s.rst.vaux = true ∧ s.inReset = false ∧ s.rst.slotValid = true) := by
  decide +kernel

/-! ## Ill-formed commands: one for each check of each row, which the check refuses -/

def mac0 : List Byte := List.replicate 16 0
def au0 : SesAuth := ⟨0, 1, mac0⟩
def sg : Sig := ⟨63, 1⟩

theorem test_wf_refuses_1 : ∀ i ∈ ([.registerWrite 0 0x40000000 8 0,
    .registerWrite 0 0 3 0,
    .registerWrite 0 0 4 0x100000000,
    .pkgLocate 0 256,
    .winnowSet 0 256 false false,
    .arrivalUnit 0 [⟨8, 0⟩],
    .arrivalUnit 0 [⟨0, 32⟩],
    .instructionIssue 0 .me [⟨8, 0⟩],
    .instructionIssue 0 .me [⟨0, 32⟩],
    .tileRun 0 0 (.clusters (List.replicate 23 0)) 0 false,
    .tileRun 0 0 (.one 65536) 0 false,
    .loftPower 0 0 (.clusters (List.replicate 23 0)) 0 .off,
    .loftRead 0 0 4294967296 0,
    .loftRead 0 0 0 65536,
    .loftWrite 0 0 4294967296 [] [],
    .loftWrite 0 0 0 (List.replicate 16353 0) [],
    .loftWrite 0 0 0 [] (List.replicate 16353 false),
    .tileReset 0 0 (.clusters (List.replicate 23 0)),
    .tileConfig 0 0 (.clusters (List.replicate 23 0)) 0,
    .tileConfig 0 0 .all 256,
    .nop 0 .me ⟨64, 1⟩,
    .nop 0 .me ⟨0, 0⟩,
    .nop 0 .me ⟨0, 33⟩,
    .nop 0 .me ⟨63, 2⟩] : List Instr), wf i = false := by decide +kernel

theorem test_wf_refuses_2 : ∀ i ∈ ([.fence 0 .me ⟨63, 2⟩,
    .endStream 0 .me ⟨63, 2⟩,
    .loop 0 .me sg 0 0 0,
    .loop 0 .me sg 0 0 4096,
    .loop 0 .me ⟨63, 2⟩ 0 0 0,
    .jmp 0 .me ⟨63, 2⟩ 0,
    .brv 0 .me sg 0 0,
    .brv 0 .me sg 0 64,
    .brv 0 .me ⟨63, 2⟩ 0 0,
    .yield 0 .me ⟨63, 2⟩ 0,
    .hint 0 .me sg 5 0 0 0,
    .hint 0 .me ⟨63, 2⟩ 0 0 0 0,
    .ld 0 ⟨63, 2⟩ 0 0,
    .ldq 0 sg 0,
    .ldq 0 sg 4096,
    .ldq 0 ⟨63, 2⟩ 0,
    .cpy 0 ⟨63, 2⟩ 0 0,
    .acopy 0 ⟨63, 2⟩ 0 0,
    .ldd 0 sg 6 0,
    .ldd 0 sg 8 0,
    .ldd 0 ⟨63, 2⟩ 0 0,
    .mm 0 ⟨63, 2⟩ 0 0 0 0 false false,
    .rq 0 ⟨63, 2⟩ 0 0 0,
    .norm 0 ⟨63, 2⟩ 0 0 0] : List Instr), wf i = false := by decide +kernel

theorem test_wf_refuses_3 : ∀ i ∈ ([.emul 0 ⟨63, 2⟩ 0 0 0 false,
    .lane 0 sg 0 0 0 11,
    .lane 0 ⟨63, 2⟩ 0 0 0 0,
    .fn 0 sg 0 0 3,
    .fn 0 ⟨63, 2⟩ 0 0 0,
    .red 0 ⟨63, 2⟩ 0 0 false,
    .smx 0 ⟨63, 2⟩ 0 0 0,
    .walk 0 ⟨63, 2⟩ 0,
    .st 0 ⟨63, 2⟩ 0 0,
    .sta 0 ⟨63, 2⟩ 0 0,
    .atom 0 sg 0 0 5,
    .atom 0 ⟨63, 2⟩ 0 0 0,
    .send 0 sg 0 false true,
    .send 0 sg 1 true true,
    .send 0 ⟨63, 2⟩ 0 false false,
    .recv 0 ⟨63, 2⟩ 0 false,
    .tilSpcWrite 0 .me 0x10000000000,
    .tilDbaseWrite 0 .me 0x400000,
    .progLoad 0 0 0 (.clusters (List.replicate 23 0)),
    .progStart 0 0 (.clusters (List.replicate 23 0)) 0 false,
    .progStart 0 0 .all 256 false,
    .semaphoreSignal 0 .me 0 0 0,
    .semaphoreSignal 0 .me 0 33 0,
    .barrierArrival .pkg 0 37 .me 0] : List Instr), wf i = false := by decide +kernel

theorem test_wf_refuses_4 : ∀ i ∈ ([.syncQuota 0 0 0 256,
    .syncMap 0 0 0 256 0 0 0 0 0,
    .syncMap 0 0 0 0 256 0 0 0 0,
    .syncMap 0 0 0 0 0 65536 0 0 0,
    .syncMap 0 0 0 0 0 0 65536 0 0,
    .syncMap 0 0 0 0 0 0 0 65536 0,
    .syncMap 0 0 0 0 0 0 0 0 256,
    .syncChannel 0 0 256 .all 0 false,
    .syncChannel 0 0 0 (.clusters (List.replicate 23 0)) 0 false,
    .syncChannel 0 0 0 .all 256 false,
    .syncTimeout 0 0 (.clusters (List.replicate 23 0)) 0 0,
    .syncTimeout 0 0 .all 256 0,
    .syncRearm 0 0 0 256 0,
    .syncRearm 0 0 0 0 65536,
    .gatewayDataReturn 0 0 (List.replicate 65 (0, false)),
    .controlPacket 0 0 0 0 0 false 0 [0],
    .controlPacket 0 0 0 0 0 false 0 (List.replicate 72 0),
    .routePorts 0 0 0 [(256, 0)] [],
    .routePorts 0 0 0 [(0, 256)] [],
    .routePorts 0 0 0 [] [(32, 0)],
    .routePorts 0 0 0 [] [(0, 65536)],
    .kvLayout 0 256 0 0 0 0,
    .kvLayout 0 0 256 0 0 0,
    .kvLayout 0 0 0 65536 0 0] : List Instr), wf i = false := by decide +kernel

theorem test_wf_refuses_5 : ∀ i ∈ ([.kvLayout 0 0 0 0 256 0,
    .kvLayout 0 0 0 0 0 4294967296,
    .routeConfig 0 0 0 256 0 0 0 0,
    .routeConfig 0 0 0 0 65536 0 0 0,
    .routeConfig 0 0 0 0 0 65536 0 0,
    .routeConfig 0 0 0 0 0 0 0 65536,
    .stepSpillbuf 0 0 0 4294967296,
    .memQuota 0 0 256 [],
    .memQuota 0 0 0 [4294967296],
    .memRegulate 0 0 256 0 0 false,
    .memRegulate 0 0 0 65536 0 false,
    .memRegulate 0 0 0 0 65536 false,
    .memBound 0 0 65536 0,
    .memBound 0 0 0 65536,
    .memMove 0 0 0 4294967296 0 0 [],
    .memMove 0 0 0 0 256 0 [],
    .memMove 0 0 0 0 0 65536 [],
    .streamSet 0 0 256 false,
    .memRetired 0 0 (some [4294967296]),
    .flitReceive 0 (List.replicate 287 0) 0 0,
    .fabBound 0 0 65536 0,
    .fabBound 0 0 0 256,
    .fabRegulate 0 0 65536 0 false,
    .fabRegulate 0 0 0 65536 false] : List Instr), wf i = false := by decide +kernel

theorem test_wf_refuses_6 : ∀ i ∈ ([.fabLink 0 0 256,
    .fabInject 0 0 0 256 0,
    .fabInject 0 0 0 0 256,
    .partCreate 0 0 (List.replicate 25 0),
    .partRings 0 0 [⟨0, 0x10000000000000000, 0, false⟩],
    .partRings 0 0 [⟨0, 0, 256, false⟩],
    .partServe 0 0 false 256 0 0 false 0 0 0,
    .partServe 0 0 false 0 65536 0 false 0 0 0,
    .partServe 0 0 false 0 0 256 false 0 0 0,
    .adapterPut 0 0 256 0 0,
    .adapterPut 0 0 0 0 4294967296,
    .adapterDrop 0 0 256,
    .sliceSet 0 0 256 0 0,
    .sliceSet 0 0 0 65536 0,
    .sliceSet 0 0 0 0 256,
    .bilhaCInstruction 0 (.load 3 false 0 0 0),
    .bilhaCInstruction 0 (.store 8 0 0 0),
    .ageingCheck [1701],
    .capWrite false 65536 0,
    .capWrite false 0 65536,
    .powerCap 0 65536 0,
    .powerCap 0 0 65536,
    .powerTarget 0 0 256,
    .ballastSet 0 false 65536] : List Instr), wf i = false := by decide +kernel

theorem test_wf_refuses_7 : ∀ i ∈ ([.droopSet 0 256 0,
    .droopSet 0 0 256,
    .hintConfig 0 256,
    .secSelftest 0 11,
    .secAttest 0 [] 0,
    .secAttest 0 (List.replicate 32 0) 65536,
    .secOpen 0 256 [] [],
    .secConfirm 0 4 [],
    .secClose 0 ⟨4, 1, mac0⟩,
    .secClose 0 ⟨0, 4294967296, mac0⟩,
    .secClose 0 ⟨0, 1, []⟩,
    .sessionIdleTimeout 4,
    .keyImport 0 ⟨4, 1, mac0⟩ 0 0 [],
    .keyDrop 0 ⟨4, 1, mac0⟩ 0 0,
    .domainKey 0 ⟨4, 1, mac0⟩ [],
    .domainId 0 ⟨4, 1, mac0⟩ 0,
    .svnSet 0 ⟨4, 1, mac0⟩ 0,
    .ownerRotate 0 (some ⟨4, 1, mac0⟩) [],
    .lifecycle 0 ⟨4, 1, mac0⟩ 0,
    .repairCommit 0 ⟨4, 1, mac0⟩ 0 [],
    .debugGrant 0 (some ⟨4, 1, mac0⟩) 0,
    .zeroise 0 (some ⟨4, 1, mac0⟩),
    .thermalTripReset 0 (List.replicate 238 0),
    .bringUp ⟨[], [], [], 11, [], [], [], [], []⟩] : List Instr), wf i = false := by decide +kernel

theorem test_wf_refuses_8 : ∀ i ∈ ([.bringupLinkStage [],
    .marchComplete 0 [(32, 0)],
    .marchComplete 0 [(0, 2064)],
    .faultLog 0 65536 false,
    .loftMarch 0 0 (.clusters (List.replicate 23 0)) false,
    .watchdogSet 0 65536 false] : List Instr), wf i = false := by decide +kernel

/-! ## Decoding words written out from the encodings of chapter 4 -/

/-- The manual's own two words, and one word of each engine laid out by hand (R128, R129, R133). -/
theorem test_decode_nop : decodeInstr .le 0xFC007E0040000000#64 = some ⟨⟨63, 1, false, 0⟩, ⟨63, 1⟩, .nop⟩ := by decide +kernel
theorem test_decode_mm : decodeInstr .me 0x08020C0404188000#64 = some ⟨⟨2, 1, true, 0⟩, ⟨6, 1⟩, .mm 4 6 8 0 false false⟩ := by decide +kernel
theorem test_decode_ld : decodeInstr .le 0x14068C0403100000#64 = some ⟨⟨5, 2, true, 1⟩, ⟨6, 1⟩, .ld 3 4⟩ := by decide +kernel
theorem test_decode_lane : decodeInstr .ve 0xFC007E04C1083006#64 = some ⟨⟨63, 1, false, 0⟩, ⟨63, 1⟩, .lane 1 2 3 6⟩ := by decide +kernel
theorem test_decode_walk : decodeInstr .aw 0xFC007E0405000000#64 = some ⟨⟨63, 1, false, 0⟩, ⟨63, 1⟩, .walk 5⟩ := by decide +kernel
theorem test_decode_atom : decodeInstr .se 0xFC007E0481080004#64 = some ⟨⟨63, 1, false, 0⟩, ⟨63, 1⟩, .atom 1 2 4⟩ := by decide +kernel
theorem test_decode_recv : decodeInstr .ne 0xFC007E0440080001#64 = some ⟨⟨63, 1, false, 0⟩, ⟨63, 1⟩, .recv 2 true⟩ := by decide +kernel

/-! ## Worked examples of the manual -/

/-- Chapter 2: the first granule of an expert's matrix folds 316,032,000 at e = -30, and the wide sum starts at xw = -62. -/
theorem test_fold_example : foldWide wideEmpty 316032000 (-30) = ⟨true, 316032000 * 2 ^ 32, -62, false⟩ ∧
    foldWide (foldWide wideEmpty 1 (-30)) 1 (-31) = ⟨true, 2 ^ 32 + 2 ^ 31, -62, false⟩ := by decide +kernel

/-- Chapter 2: the output sheaf with X = -20 and K = 32,768 has E = -7, scale word 0x7980, and rounds to nearest even as the table says. -/
theorem test_requantise_example : dynExp 127 32768 [(-300000, -20), (20480, -20), (3000, -20), (1000000, -20)] 127 (-64) = -7 ∧
    scaleWordOf 128 (-7) = 0x7980 ∧
    rqRound 32768 false (-7) [(-300000, -20), (20480, -20), (3000, -20)] [] = [-37, 2, 0] ∧
    rqRound 32768 true (-7) [(-300000, -20), (20480, -20), (3000, -20)] [24831, 32767, 23999] = [-36, 3, 1] ∧
    rqRound 32768 true (-7) [(-300000, -20), (20480, -20), (3000, -20)] [24832, 32768, 24000] = [-37, 2, 0] := by decide +kernel

/-- Chapter 3: with k = 3, address 0x12_3456 lies in bank 9 at line 282; with k = 0, in bank 9 at line 209. -/
theorem test_bank_example : bankOfLine 3 (0x123456 / 64) = 9 ∧ lineInBank 3 (0x123456 / 64) = 282 ∧
    bankOfLine 0 (0x123456 / 64) = 9 ∧ lineInBank 0 (0x123456 / 64) = 209 := by decide +kernel

/-- Chapter 4: the listing's weight descriptor, and where its column 37 stands at reduction sheaf 9. -/
theorem test_descriptor_example : (let d : Desc := ⟨0, 0x0028007800000051⟩
    d.kind = 1 ∧ fmtOf (d.f 0 5 4) = .s4 ∧ d.f 0 7 6 = 1 ∧ d.f 0 29 8 = 0 ∧ d.f 0 47 32 = 120 ∧ d.f 0 63 48 = 40) ∧
    TLoft.at_ { fmt := .s4, layout := 1, base := 0, n1 := 120, ns := 40, rstride := 0, extra := 0, xcount := 0 } 37 9 = 0x8BA0 := by decide +kernel

/-- Chapter 1: the counters of tile 37 of CD5, global tile 357, begin at 0x15A5_8000. -/
theorem test_address_example : R.TIL_ECNTA 357 0 = 0x15A58000 := by decide +kernel

/-- Chapter 10: package 17 reaches 20 over link 26, 12 over link 19, and 41 over link 34; and the links lead back. -/
theorem test_links_example : directLink 17 20 = some 26 ∧ directLink 17 12 = some 19 ∧ directLink 17 41 = some 34 ∧
    linkPeer 17 26 = some 20 ∧ linkPeer 17 19 = some 12 ∧ linkPeer 17 34 = some 41 ∧ firstHop 17 44 = some 41 ∧ directLink 41 44 = some 26 ∧
    firstHop 44 17 = some 12 ∧ directLink 44 12 = some 31 ∧ directLink 12 17 = some 28 := by decide +kernel

/-! ## Published vectors of the algorithms that the manual names -/

/-- SM3 of the three bytes "abc" (the standard's first example). -/
theorem test_sm3_abc : ofBeBytes (sm3 [0x61, 0x62, 0x63]) = 0x66c7f0f462eeedd9d1f2d46bdc10e4e24167c4875cf2f7a2297da02b8f4ba8e0 := by decide +kernel

/-- SM4 of the standard's first example. -/
theorem test_sm4 : ofBeBytes (sm4Enc (beBytes 16 0x0123456789abcdeffedcba9876543210) (beBytes 16 0x0123456789abcdeffedcba9876543210)) =
    0x681edf34d206965e86b3e94f536e4246 := by decide +kernel

/-- CRC-32C of "123456789" (its published check value). -/
theorem test_crc32c : crc32c [0x31, 0x32, 0x33, 0x34, 0x35, 0x36, 0x37, 0x38, 0x39] = 0xE3069283 := by decide +kernel

/-- SM2: the signature of the standard's example over its message verifies, and one of another message does not. -/
theorem test_sm2_verify :
    (let key := beBytes 32 0x09F9DF311E5421A150DD7D161E4BC5C672179FAD1833FC076BB08FF356F35020 ++
      beBytes 32 0xCCEA490CE26775A52DC6EA718CC1AA600AED05FBF35E084A6632F6072DA9AD13
     let sig := beBytes 32 0xF5A03B0648D2C4630EEAC513E1BB81A15944DA3827D5B74143AC7EACEEE720B3 ++
      beBytes 32 0xB1B6AA29DF212FD8763182BC0D421CA1BB9038FD1F7F42D4840B69C485BBC1AA
     sm2Verify key [0x6D, 0x65, 0x73, 0x73, 0x61, 0x67, 0x65, 0x20, 0x64, 0x69, 0x67, 0x65, 0x73, 0x74] sig = true ∧ sm2Verify key [0x6D] sig = false) := by
  decide +kernel

/-- SM2: the public key and the signature of the standard's example, by its private key and random number. -/
theorem test_sm2_sign : sm2Pub 0x3945208F7B2144B13F36E38AC6D39F95889393692860B51A42FB81EF4DF7C5B8 =
      beBytes 32 0x09F9DF311E5421A150DD7D161E4BC5C672179FAD1833FC076BB08FF356F35020 ++
        beBytes 32 0xCCEA490CE26775A52DC6EA718CC1AA600AED05FBF35E084A6632F6072DA9AD13 ∧
    sm2Try 0x3945208F7B2144B13F36E38AC6D39F95889393692860B51A42FB81EF4DF7C5B8
      0x59276E27D506861A16680F3AD9C02DCCEF3CC1FA3CDBE4CE6D54B80DEAC1BC21
      0xF0B43E94BA45ACCAACE692ED534382EB17E6AB5A19CE7B31F4486FDFC0D28640 =
      some (0xF5A03B0648D2C4630EEAC513E1BB81A15944DA3827D5B74143AC7EACEEE720B3,
        0xB1B6AA29DF212FD8763182BC0D421CA1BB9038FD1F7F42D4840B69C485BBC1AA) := by
  decide +kernel

/-! ## One step each -/

/-- What a state after one step shows. -/
def after {α : Type} (o : Host.Outcome State Fault Refusal) (f : State → α) : Option α :=
  match o with
  | .next t => some (f t)
  | .fault _ => none
  | .refused _ => none

/-- ARITH_SEED gives tile 1 the seed XOR 2 x 0x1_0000_0001 (R56). -/
theorem test_arithSeed : after (exec (.arithSeed 1 0 0) (own (own up 0 0) 1 0)) (fun t => ((t.rd (R.TIL_RNG 1)).toNat, (t.rd (R.TIL_RNG 0)).toNat)) =
    some (0x200000002, 0x100000001) := by decide +kernel

/-- A write of LOCK with the slot known and equal locks the id; with another slot it does not (R22). -/
theorem test_lock : after (exec (.stwLocWrite 0x80000020) (up.fset R.STW_LOC F.STW_LOC_TSVALID 1))
      (fun t => (t.pkgOwn, t.flag R.STW_LOC F.STW_LOC_LOCK, t.flag R.STW_LOC F.STW_LOC_MISMATCH)) = some (32, true, false) ∧
    after (exec (.stwLocWrite 0x80000021) (up.fset R.STW_LOC F.STW_LOC_TSVALID 1))
      (fun t => (t.pkgOwn, t.flag R.STW_LOC F.STW_LOC_LOCK, t.flag R.STW_LOC F.STW_LOC_MISMATCH)) = some (33, false, true) := by decide +kernel

/-- SLOT_WRITE on a part in reset is shown by SLOT_READ with its VALID bit (R537). -/
theorem test_slot : after (exec (.mpSlotWrite 17 true) (holding .pin)) (fun t => after (exec .mpSlotRead t) fun u => u.rst.mpOut) =
    some (some [145]) := by decide +kernel

/-- The empty queue lets a microsecond pass. -/
theorem test_tick : after (step up) (fun t => t.now) = some 1 := by decide +kernel

end Sys2Proof.Tests
end

section
/-! PROOF. The step, the tick of the empty queue, and the state after reset. -/

namespace Sys2Proof.Machine

theorem State.withFetchWord_eq (s : State) (nbits w : Nat) : s.withFetchWord nbits w = s := rfl

/-- The tick of a part that nothing holds. -/
theorem State.tick_live {s : State} (h : s.Live) : s.tick = s.fset R.STW_TIME F.STW_TIME_US ((s.now + 1) % 2 ^ 64) := if_pos h

theorem State.tick_held {s : State} (h : ¬ s.Live) : s.tick = s := if_neg h

theorem State.now_tick {s : State} (h : s.Live) : s.tick.now = (s.now + 1) % 2 ^ 64 := by
  rw [State.tick_live h, State.now, State.fget_fset _ _ _ (by decide)]
  exact Nat.mod_mod _ _

/-- Settles O1: the front command's execution, or the tick of a part that nothing holds. -/
theorem stepRunsFrontCommand : Obligations.StepRunsFrontCommand := by
  refine ⟨fun _ _ _ => step_cons, fun _ _ => step_cons rfl, State.withFetchWord_eq, fun s hq hl => ?_, fun s hq hl => ?_⟩
  · refine ⟨s.tick, step_nil hq, State.now_tick hl, ?_⟩
    rw [State.tick_live hl]
    exact State.onlyRegs_fset _ _ _ _ _ rfl
  · rw [step_nil hq, State.tick_held hl]

/-- Settles O2 by evaluating the state after reset. -/
theorem resetState : Obligations.ResetState := by
  refine ⟨rfl, rfl, Memory.wf_reset, fun _ => rfl, ?_, ?_, ?_, ?_, ?_, fun _ => ⟨fun _ => rfl, rfl⟩, ?_⟩
  all_goals decide +kernel

end Sys2Proof.Machine
end

section
/-! PROOF. Mailbox commands that have no effect: before the firmware runs (R8), and where a check refuses the function (R12, R442). -/

namespace Sys2Proof.Machine

theorem State.mbGo_noFw {s : State} (w : s.fwif = 0) (fn : Nat) : s.mbGo fn = s := if_pos w

theorem exec_mbDbGo (fn : Fun) (s : State) : exec (.mbDbGo fn) s = onLive s fun s => s.mbGo fn := rfl

/-- What the mailbox carries is a mailbox row: the constructors it does not carry contradict `h`, the others are their rows. -/
theorem exec_eq_mbRow {i : Instr} (h : isMailboxCmd i = true) (s : State) :
    ∃ (fn code : Nat) (f : State → State × Reply), exec i s = mbRow s fn code f := by
  cases i <;> simp only [isMailboxCmd, Bool.false_eq_true] at h <;> exact ⟨_, _, _, rfl⟩

/-- Settles O8: every mailbox command is a mailbox row, and no such row runs before the firmware. -/
theorem mailboxDeafBeforeFirmware : Obligations.MailboxDeafBeforeFirmware := by
  refine fun s hl hw => ⟨fun fn => ?_, fun i hi => ?_⟩
  · rw [exec_mbDbGo, onLive_live hl, State.mbGo_noFw hw]
  · obtain ⟨fn, code, f, e⟩ := exec_eq_mbRow hi s
    rw [e, mbRow_noFw hl hw]

theorem firstBad_ownPart {fn : Fun} {p : Part} (h0 : fn.val ≠ 0) (h : fn.val ≠ p.val + 1) (gs : List (Bool × Reply)) :
    firstBad (ownPart fn p :: gs) = some .notPermitted := by
  rw [ownPart, firstBad_cons, if_pos (decide_eq_true ⟨h0, h⟩)]

theorem firstBad_pfOnly {fn : Fun} (h0 : fn.val ≠ 0) (gs : List (Bool × Reply)) : firstBad (pfOnly fn :: gs) = some .notPermitted := by
  rw [pfOnly, firstBad_cons, if_pos (decide_eq_true h0)]

/-- The reply of a served command that answers without touching the state. -/
theorem mbRow_unchanged {s : State} (h : s.Mail) (fn code : Nat) {f : State → State × Reply} {r : Reply} (e : f s = (s, r)) :
    mbRow s fn code f = .next (s.reply s fn code r) := by
  rw [mbRow_mail h, e]

theorem State.cmd_foreign (s : State) {fn : Fun} {p : Part} (h0 : fn.val ≠ 0) (h : fn.val ≠ p.val + 1) (gs : List (Bool × Reply))
    (f : State → State × Reply) : s.cmd (ownPart fn p :: gs) f = (s, .notPermitted) := State.cmd_bad (firstBad_ownPart h0 h gs)

theorem State.cmd_notPf (s : State) {fn : Fun} (h0 : fn.val ≠ 0) (gs : List (Bool × Reply)) (f : State → State × Reply) :
    s.cmd (pfOnly fn :: gs) f = (s, .notPermitted) := State.cmd_bad (firstBad_pfOnly h0 gs)

theorem cmdFabJob_foreign (s : State) {fn : Fun} {p : Part} (h0 : fn.val ≠ 0) (h : fn.val ≠ p.val + 1) (job : Nat) :
    cmdFabJob fn p job s = (s, .notPermitted) := by
  unfold cmdFabJob
  exact s.cmd_foreign h0 h _ _

/-- Settles O13: each command's first check is the function's right to send it. -/
theorem foreignPartitionsRefused : Obligations.ForeignPartitionsRefused := by
  refine fun s fn p hm h0 => ⟨fun hp seed clr job => ?_, fun dies mode twin clr pkg f => ?_⟩
  · have own {code : Nat} {gs : State → List (Bool × Reply)} {f : State → State × Reply} :
        mbRow s fn code (fun s => s.cmd (ownPart fn p :: gs s) f) = .next (s.reply s fn code .notPermitted) :=
      mbRow_unchanged hm fn code (s.cmd_foreign h0 hp _ _)
    have job : exec (.fabJob fn p job) s = .next (s.reply s fn 0x0A03 .notPermitted) :=
      mbRow_unchanged hm fn _ (cmdFabJob_foreign s h0 hp _)
    simp only [List.forall_mem_cons]
    exact ⟨own, own, own, own, own, own, own, own, own, own, job, own, own, List.forall_mem_nil _⟩
  · have pf {code : Nat} {gs : State → List (Bool × Reply)} {f : State → State × Reply} :
        mbRow s fn code (fun s => s.cmd (pfOnly fn :: gs s) f) = .next (s.reply s fn code .notPermitted) :=
      mbRow_unchanged hm fn code (s.cmd_notPf h0 _ _)
    simp only [List.forall_mem_cons]
    exact ⟨pf, pf, pf, pf, pf, pf, List.forall_mem_nil _⟩

end Sys2Proof.Machine
end

section
/-! PROOF. The rows of the register map, and a register half written field by field (R5, R6). -/

namespace Sys2Proof.Machine

/-! ## The rows of the register map -/

/-- The fields of a row lie in their halves, and no two of one half share a bit. -/
def RegRow.Sound (r : RegRow) : Prop :=
  (∀ f ∈ r.fields, f.ok) ∧ r.fields.Pairwise fun f g => f.half = g.half → g.hi < f.lo ∨ f.hi < g.lo

/-- The manual's register tables are sound, block by block. -/
theorem blkRows_sound (k : BlkKind) : ∀ r ∈ blkRows k, r.Sound := by
  unfold RegRow.Sound
  cases k <;> decide +kernel

theorem rowAt_mem {k : BlkKind} {idx o : Nat} {l : List RegRow} {x : RegSel} (h : rowAt k idx o l = some x) : x.kind = k ∧ x.row ∈ l := by
  induction l with
  | nil => simp [rowAt] at h
  | cons r rest ih =>
    have tail (h : rowAt k idx o rest = some x) : x.kind = k ∧ x.row ∈ r :: rest := (ih h).imp id (List.mem_cons_of_mem r)
    unfold rowAt at h
    split at h
    · obtain rfl := Option.some.inj h
      exact ⟨rfl, List.mem_cons_self⟩
    · split at h
      · obtain rfl := Option.some.inj h
        exact ⟨rfl, List.mem_cons_self⟩
      · exact tail h
    · exact tail h

/-- A register that an address decodes to is a row of its block. -/
theorem regAt_mem {a : Nat} {x : RegSel} (h : regAt a = some x) : x.row ∈ blkRows x.kind := by
  unfold regAt at h
  split at h
  · cases h
  next k idx o _ =>
    split at h
    next y hy =>
      split at h
      · obtain rfl := Option.some.inj h
        obtain ⟨rfl, hm⟩ := rowAt_mem hy
        exact hm
      · cases h
    · cases h

/-! ## A write field by field -/

/-- What a field's type makes of its old and its written value (R5, R6). -/
def FTy.result (ty : FTy) (w old new : Nat) : Nat :=
  match ty with
  | .rw => new
  | .w1c => old &&& (2 ^ w - 1 - new)
  | .w1s => old ||| new
  | _ => old

/-- A bit outside a field stays when the field is written. -/
theorem fldWrite_outside {f : Fld} (h : f.ok) (old new : Word64) {i : Nat} (hi : i < f.lo ∨ f.hi < i) :
    (fldWrite f old new).getLsbD i = old.getLsbD i := by
  have hm : (fldMask f).getLsbD i = false := by
    rw [fldMask_bit f h]
    rcases hi with hi | hi <;> simp [Nat.not_le.mpr hi]
  unfold fldWrite
  cases f.ty with
  | rw => exact (fldPut_bit f h old _ i).trans (if_neg (by omega))
  | w1c =>
    show (old &&& ~~~ (new &&& fldMask f)).getLsbD i = _
    rw [BitVec.getLsbD_and, BitVec.getLsbD_not, BitVec.getLsbD_and, hm]
    by_cases c : i < 64
    · simp [c]
    · simp [BitVec.getLsbD_of_ge old i (by omega)]
  | w1s => simp [hm]
  | ro | wo | rwl | rwn => rfl

/-- A field with the bits of a mask cleared in it. -/
theorem fldGet_clearBits {f : Fld} (h : f.ok) (old new : Word64) :
    fldGet f (old &&& ~~~ (new &&& fldMask f)) = fldGet f old &&& (2 ^ (f.hi + 1 - f.lo) - 1 - fldGet f new) := by
  apply Nat.eq_of_testBit_eq
  intro i
  rw [Nat.testBit_and, Nat.sub_sub, Nat.add_comm 1, Nat.testBit_two_pow_sub_succ (fldGet_lt f new), fldGet_bit, fldGet_bit, fldGet_bit,
    BitVec.getLsbD_and, BitVec.getLsbD_not, BitVec.getLsbD_and, fldMask_bit f h]
  obtain ⟨h1, h2⟩ := h
  by_cases c : i < f.hi + 1 - f.lo
  · have inWord : f.lo + i < 64 := by omega
    have inFld : f.lo + i ≤ f.hi := by omega
    simp [c, inWord, inFld]
  · simp [c]

/-- A field with the bits of a mask set in it. -/
theorem fldGet_setBits {f : Fld} (h : f.ok) (old new : Word64) :
    fldGet f (old ||| (new &&& fldMask f)) = fldGet f old ||| fldGet f new := by
  apply Nat.eq_of_testBit_eq
  intro i
  rw [Nat.testBit_or, fldGet_bit, fldGet_bit, fldGet_bit, BitVec.getLsbD_or, BitVec.getLsbD_and, fldMask_bit f h]
  by_cases c : i < f.hi + 1 - f.lo
  · have inFld : f.lo + i ≤ f.hi := by omega
    simp [c, inFld]
  · simp [c]

/-- The field itself after its write. -/
theorem fldGet_fldWrite {f : Fld} (h : f.ok) (old new : Word64) :
    fldGet f (fldWrite f old new) = f.ty.result (f.hi + 1 - f.lo) (fldGet f old) (fldGet f new) := by
  unfold fldWrite
  cases f.ty with
  | rw => exact (fldGet_fldPut f h old _).trans (Nat.mod_eq_of_lt (fldGet_lt f new))
  | w1c => exact fldGet_clearBits h old new
  | w1s => exact fldGet_setBits h old new
  | ro | wo | rwl | rwn => rfl

/-- The fields of one half of a row, each written as its type says. -/
def fldWrites (half : Nat) (new : Word64) (l : List Fld) (old : Word64) : Word64 :=
  l.foldl (fun o f => if f.half = half then fldWrite f o new else o) old

theorem State.rowWrite_eq (s : State) (a v : Nat) (x : RegSel) :
    s.rowWrite a v x = s.wr a (fldWrites x.half (BitVec.ofNat 64 v) x.row.fields (s.rd a)) := rfl

/-- A bit that no field of the half names stays. -/
theorem fldWrites_outside {half : Nat} (new : Word64) {l : List Fld} (h : ∀ f ∈ l, f.ok) {i : Nat}
    (hi : ∀ f ∈ l, f.half = half → i < f.lo ∨ f.hi < i) (old : Word64) : (fldWrites half new l old).getLsbD i = old.getLsbD i := by
  induction l generalizing old with
  | nil => rfl
  | cons f r ih =>
    simp only [List.forall_mem_cons] at h hi
    refine (ih h.2 hi.2 _).trans ?_
    by_cases e : f.half = half
    · simp only [e, if_true]
      exact fldWrite_outside h.1 old new (hi.1 e)
    · simp only [e, if_false]

theorem fldGet_congr {f : Fld} {v w : Word64} (h : ∀ i, f.lo ≤ i → i ≤ f.hi → v.getLsbD i = w.getLsbD i) : fldGet f v = fldGet f w := by
  apply Nat.eq_of_testBit_eq
  intro i
  rw [fldGet_bit, fldGet_bit]
  by_cases c : i < f.hi + 1 - f.lo
  · rw [h _ (by omega) (by omega)]
  · simp [c]

/-- Among fields that share no bit, each is written as if it were alone. -/
theorem fldGet_fldWrites {half : Nat} (new : Word64) {l : List Fld} (h : ∀ f ∈ l, f.ok)
    (d : l.Pairwise fun f g => f.half = g.half → g.hi < f.lo ∨ f.hi < g.lo) {f : Fld} (hf : f ∈ l) (e : f.half = half) (old : Word64) :
    fldGet f (fldWrites half new l old) = fldGet f (fldWrite f old new) := by
  induction l generalizing old with
  | nil => cases hf
  | cons g r ih =>
    simp only [List.forall_mem_cons] at h
    rw [List.pairwise_cons] at d
    rw [fldWrites, List.foldl_cons, ← fldWrites]
    rcases List.mem_cons.mp hf with rfl | hr
    · simp only [e, if_true]
      exact fldGet_congr fun i h1 h2 => fldWrites_outside new h.2
        (fun g hg k => by have := d.1 g hg (e.trans k.symm); omega) _
    · rw [ih h.2 d.2 hr, fldGet_fldWrite (h.2 f hr), fldGet_fldWrite (h.2 f hr)]
      congr 1
      by_cases k : g.half = half
      · simp only [k, if_true]
        have := d.1 f hr (k.trans e.symm)
        exact fldGet_congr fun i h1 h2 => fldWrite_outside h.1 old new (by omega)
      · simp only [k, if_false]

theorem fldGet_ofNat {f : Fld} {v : Nat} (hv : v < 2 ^ 64) : fldGet f (BitVec.ofNat 64 v) = bitsOf v f.hi f.lo := by
  rw [fldGet, BitVec.toNat_ofNat, Nat.mod_eq_of_lt hv]

/-- A write of a security register by the physical function is a write field by field (R496). -/
theorem State.regWrite_sec_pf (s : State) {x : RegSel} (h : x.kind = .sec) (a v : Nat) : s.regWrite 0 a v x = s.rowWrite a v x := by
  unfold State.regWrite
  rw [h]
  rfl

/-! ## Writes of the control space -/

theorem State.ctlWrite_reg {s : State} {acc a n : Nat} {x : RegSel} (h : s.ctlTarget acc a n = .reg x) (v : Nat) :
    s.ctlWrite acc a n v = (false, s.regWrite acc a v x) := by
  rw [State.ctlWrite, h]

theorem State.ctlWrite_miss {s : State} {acc a n : Nat} (h : s.ctlTarget acc a n = .miss) (v : Nat) :
    s.ctlWrite acc a n v = (true, s.decodeMiss acc a) := by
  rw [State.ctlWrite, h]

theorem State.ctlWrite_off {s : State} {acc a n : Nat} (h : s.ctlTarget acc a n = .off) (v : Nat) :
    s.ctlWrite acc a n v = (true, s.offRefused (accDie acc)) := by
  rw [State.ctlWrite, h]

theorem exec_registerWrite (fn : Fun) (a n : Nat) (v : Word64) (s : State) :
    exec (.registerWrite fn a n v) s = onLive s fun s => (s.ctlWrite fn a n v.toNat).2 := rfl

/-- Settles O10: the fields of a row share no bit, so each is written as if it were alone. -/
theorem fieldTypesOfAWrite : Obligations.FieldTypesOfAWrite := by
  refine ⟨fun s a v x hx hv => ?_, fun s a n v x hl ht hk => ?_⟩
  · obtain ⟨hok, hd⟩ := blkRows_sound x.kind x.row (regAt_mem hx)
    rw [State.rowWrite_eq, State.rd_wr_same]
    refine ⟨fun f hf e => ?_, fun n _ hn => fldWrites_outside _ hok hn _, State.onlyRegs_wr s a _ _ rfl⟩
    rw [fldGet_fldWrites _ hok hd hf e, fldGet_fldWrite (hok f hf), fldGet_ofNat hv]
    cases f.ty <;> rfl
  · rw [exec_registerWrite, onLive_live hl, Fin.val_zero, State.ctlWrite_reg ht, State.regWrite_sec_pf s hk]

end Sys2Proof.Machine
end

section
/-! PROOF. What a virtual function's register write reaches (R12, R400, R496), and any function's before the firmware (R8, R503). -/

namespace Sys2Proof.Machine

/-- A decode miss is reported and changes nothing else (R33). -/
theorem State.decodeMiss_eq (s : State) (acc a : Nat) : ∃ r, s.decodeMiss acc a = { s with rpt := s.rpt ++ [r] } := ⟨_, rfl⟩

/-- At a register's address an access is a miss, is refused at an island that is off, or reaches that register. -/
theorem State.ctlReg_cases (s : State) {a : Nat} {x : RegSel} (hx : regAt a = some x) (n : Nat) :
    s.ctlReg a n = .miss ∨ s.ctlReg a n = .off ∨ s.ctlReg a n = .reg x := by
  unfold State.ctlReg
  rw [hx]
  dsimp only
  split
  · exact .inl rfl
  · split
    · split
      · exact .inr (.inr rfl)
      · exact .inr (.inl rfl)
    · exact .inr (.inr rfl)

theorem vfPart_vf {fn : Fun} {p : Part} (h : fn.val = p.val + 1) : vfPart fn = some p.val := by
  have := p.isLt
  rw [vfPart, h, if_pos (by omega), Nat.add_sub_cancel]

/-- A virtual function that is not enabled, or that R400 and R496 do not give the register, reaches nothing at its address. -/
theorem State.ctlTarget_foreign {s : State} {acc p a : Nat} {x : RegSel} (hv : vfPart acc = some p) (hx : regAt a = some x)
    (hw : winOf a = none) (hi : a ≠ R.STW_IDENT) (hl : a ≠ R.STW_LOC) (hm : a ≠ R.MB_DB) (h : s.vfReach p x = false ∨ s.vfEnabled p = false)
    (n : Nat) : s.ctlTarget acc a n = .miss ∨ s.ctlTarget acc a n = .off := by
  unfold State.ctlTarget
  rw [hv, hw]
  dsimp only
  split
  · exact .inl rfl
  · split
    next => exact .inl rfl
    next on =>
      have hr : s.vfReach p x = false := h.resolve_right fun e => on (by simp [e])
      rcases s.ctlReg_cases hx n with e | e | e <;> rw [e] <;> dsimp only
      · exact .inl rfl
      · split
        · exact .inr rfl
        · exact .inl rfl
      · rw [if_neg (by simp [hi, hl, hm, hr])]
        exact .inl rfl

/-- The registers of another partition and the shared control blocks are not in a virtual function's reach (R12, R400). -/
theorem State.vfReach_foreign {s : State} {p : Nat} {x : RegSel}
    (h : (x.kind = .til ∧ s.tilePart x.idx ≠ some p) ∨ (x.kind = .pt ∧ x.idx ≠ p) ∨
      x.kind ∈ [BlkKind.pwr, .clk, .rst, .die, .hst, .ch, .lnk, .wnw, .syn]) : s.vfReach p x = false := by
  unfold State.vfReach
  rcases h with ⟨hk, ht⟩ | ⟨hk, hp⟩ | hk
  · rw [hk]
    exact decide_eq_false ht
  · rw [hk]
    exact decide_eq_false hp
  · simp only [List.mem_cons, List.not_mem_nil, or_false] at hk
    rcases hk with hk | hk | hk | hk | hk | hk | hk | hk | hk <;> rw [hk]

/-- Before the firmware a function reaches STW_IDENT only (R8, R503). -/
theorem State.ctlTarget_noFw {s : State} (w : s.fwif = 0) (fn : Fun) {a : Nat} (h : a ≠ R.STW_IDENT) (n : Nat) :
    s.ctlTarget fn a n = .miss := if_pos (.inr ⟨fn.isLt, w, h⟩)

/-- STW_IDENT is decoded, and stands in no island that can be off. -/
theorem regAt_ident : ∃ x, regAt R.STW_IDENT = some x ∧ x.kind = .stw ∧ x.island = none := ⟨_, rfl, rfl, rfl⟩

theorem State.ctlReg_noIsland (s : State) {a : Nat} {x : RegSel} (hx : regAt a = some x) (hi : x.island = none) (n : Nat) :
    s.ctlReg a n = .miss ∨ s.ctlReg a n = .reg x := by
  unfold State.ctlReg
  rw [hx]
  dsimp only
  split
  · exact .inl rfl
  · rw [hi]
    exact .inr rfl

/-- At STW_IDENT a function reaches that register or nothing. -/
theorem State.ctlTarget_ident (s : State) (fn : Fun) (n : Nat) :
    s.ctlTarget fn R.STW_IDENT n = .miss ∨ ∃ x, s.ctlTarget fn R.STW_IDENT n = .reg x ∧ x.kind = .stw := by
  obtain ⟨x, hx, hk, hi⟩ := regAt_ident
  unfold State.ctlTarget
  rw [if_neg (by simp [R.STW_IDENT, Blk.stw]), show winOf R.STW_IDENT = none from rfl]
  have reach := s.ctlReg_noIsland hx hi n
  cases vfPart fn <;> dsimp only
  case none =>
    exact reach.imp_right fun e => ⟨x, e, hk⟩
  case some p =>
    split
    next => exact .inl rfl
    next =>
      rcases reach with e | e <;> rw [e] <;> dsimp only
      · exact .inl rfl
      · rw [if_pos (.inl rfl)]
        exact .inr ⟨x, rfl, hk⟩

/-- STW_IDENT takes no write. -/
theorem State.regWrite_ident (s : State) (acc v : Nat) {x : RegSel} (hk : x.kind = .stw) : s.regWrite acc R.STW_IDENT v x = s := by
  unfold State.regWrite State.stwWrite
  rw [hk]
  rfl

/-- Before the firmware a register write is a decode miss, or it is of STW_IDENT and has no effect. -/
theorem State.ctlWrite_noFw {s : State} (w : s.fwif = 0) (fn : Fun) (a n v : Nat) :
    (s.ctlWrite fn a n v).2 = s.decodeMiss fn a ∨ (a = R.STW_IDENT ∧ (s.ctlWrite fn a n v).2 = s) := by
  by_cases h : a = R.STW_IDENT
  · subst h
    rcases s.ctlTarget_ident fn n with e | ⟨x, e, hk⟩
    · exact .inl (by rw [State.ctlWrite_miss e])
    · exact .inr ⟨rfl, by rw [State.ctlWrite_reg e, State.regWrite_ident s fn v hk]⟩
  · exact .inl (by rw [State.ctlWrite_miss (State.ctlTarget_noFw w fn h n)])

/-- Settles O12: what is not in a virtual function's reach is a decode miss or a refused crossing. -/
theorem virtualFunctionReach : Obligations.VirtualFunctionReach := by
  refine ⟨fun s p a n v fn x hl hf hx hw hi hloc hm h => ?_, fun s fn a n v hl hw => ⟨_, (exec_registerWrite ..).trans (onLive_live hl _), ?_⟩⟩
  · have h : s.vfReach p x = false ∨ s.vfEnabled p = false := by
      rcases h with h | h | h | h
      · exact .inl (State.vfReach_foreign (.inl h))
      · exact .inl (State.vfReach_foreign (.inr (.inl h)))
      · exact .inl (State.vfReach_foreign (.inr (.inr h)))
      · exact .inr h
    refine ⟨_, (exec_registerWrite ..).trans (onLive_live hl _), ?_⟩
    dsimp only
    rcases State.ctlTarget_foreign (vfPart_vf hf) hx hw hi hloc hm h n with e | e
    · rw [State.ctlWrite_miss e]
      obtain ⟨r, e⟩ := s.decodeMiss_eq fn a
      rw [e]
      exact ⟨rfl, rfl, rfl, rfl, rfl, rfl, rfl, rfl, .inl ⟨r, rfl⟩⟩
    · rw [State.ctlWrite_off e]
      exact ⟨rfl, rfl, rfl, rfl, rfl, rfl, rfl, rfl, .inr rfl⟩
  · dsimp only
    rcases State.ctlWrite_noFw hw fn a n v.toNat with e | ⟨ha, e⟩
    · obtain ⟨r, m⟩ := s.decodeMiss_eq fn a
      rw [e, m]
      exact ⟨rfl, fun _ => ⟨r, rfl⟩⟩
    · rw [e]
      exact ⟨rfl, fun h => absurd ha h⟩

end Sys2Proof.Machine
end

section
/-! PROOF. Operations that keep every memory in its canonical form, and the commands made of them. -/

namespace Sys2Proof.Machine

/-! ## Reports, faults and waits -/

theorem Memory.wf_ite {c : Prop} [Decidable c] {s t : State} (hs : c → Memory.wf s = true) (ht : ¬ c → Memory.wf t = true) :
    Memory.wf (if c then s else t) = true := by
  split
  next h => exact hs h
  next h => exact ht h

theorem Memory.wf_pending {s : State} (w : Memory.wf s = true) (l : List Instr) : Memory.wf { s with pending := l } = true :=
  Memory.wf_congr w rfl rfl rfl rfl rfl

theorem Memory.wf_clearWait {s : State} (w : Memory.wf s = true) (g : Nat) (e : Eng) : Memory.wf (s.clearWait g e) = true :=
  Memory.wf_modEng w _ _ _

theorem Memory.wf_withdraw {s : State} (w : Memory.wf s = true) (g : Nat) (e : Eng) : Memory.wf (s.withdraw g e) = true :=
  Memory.wf_ite (fun _ => Memory.wf_clearWait w g e) fun _ => w

theorem Memory.wf_faultRep {s : State} (w : Memory.wf s = true) (c k : Nat) (p : Option Nat) (i d1 d2 : Nat) :
    Memory.wf (s.faultRep c k p i d1 d2) = true := Memory.wf_report w _

theorem Memory.wf_tileFault {s : State} (w : Memory.wf s = true) (g src cause iaddr : Nat) (l : Option Nat) :
    Memory.wf (s.tileFault g src cause iaddr l) = true := by
  unfold State.tileFault
  extract_lets a₁ a₂ a₃ a₄ a₅ t e run b u
  have h₃ : Memory.wf a₃ = true := Memory.wf_fset (Memory.wf_fset (Memory.wf_fset w _ _ _) _ _ _) _ _ _
  have ht : Memory.wf t = true :=
    Memory.wf_ite (fun _ => Memory.wf_fadd w _ _ _) fun _ => Memory.wf_fset (Memory.wf_fset (Memory.wf_fset h₃ _ _ _) _ _ _) _ _ _
  have hu : Memory.wf u = true :=
    Memory.wf_ite (fun _ => Memory.wf_withdraw (Memory.wf_modEng (Memory.wf_fset ht _ _ _) _ _ _) _ _) fun _ => ht
  exact Memory.wf_faultRep hu _ _ _ _ _ _

/-! ## The walker -/

theorem Memory.wf_awMod {s : State} (w : Memory.wf s = true) (g : Nat) (f : InFlight → InFlight) : Memory.wf (s.awMod g f) = true := by
  unfold State.awMod
  split
  · exact Memory.wf_modEng w _ _ _
  · exact w

theorem Memory.wf_awFault {s : State} (w : Memory.wf s = true) (g l : Nat) : Memory.wf (s.awFault g l) = true := by
  unfold State.awFault
  dsimp only
  refine Memory.wf_tileFault (Memory.wf_modTile ?_ _ _) _ _ _ _ _
  split
  · exact Memory.wf_modEng w _ _ _
  · exact w

theorem Memory.wf_awPoison {s : State} (w : Memory.wf s = true) (g : Nat) (l : List (Nat × Nat)) : Memory.wf (s.awPoison g l) = true :=
  Memory.wf_ite (fun _ => Memory.wf_awMod w _ _) fun _ => w

theorem Memory.wf_walkReach {s : State} (w : Memory.wf s = true) (g : Nat) (k : WalkSt) (x : LRead) (l : List LRead) :
    Memory.wf (s.walkReach g k x l) = true :=
  Memory.wf_modTile (Memory.wf_ite (fun _ => Memory.wf_tilCnt w _ _ _ _) fun _ =>
    Memory.wf_awPoison (Memory.wf_tilCnt (Memory.wf_tilCnt w _ _ _ _) _ _ _ _) _ _) _ _

theorem Memory.wf_walkPush {s : State} (w : Memory.wf s = true) (g : Nat) (k : WalkSt) (p : WalkPush) (l : List WalkPush) (last : Bool) :
    Memory.wf (s.walkPush g k p l last) = true := by
  cases p with
  | enter | me | ve | nullLe => exact Memory.wf_modTile w _ _
  | load b pt p0 npos v =>
    unfold State.walkPush
    dsimp only
    split
    · exact Memory.wf_awFault w _ _
    · exact Memory.wf_awPoison (Memory.wf_tilCnt (Memory.wf_modTile w _ _) _ _ _ _) _ _

theorem Memory.wf_walkPump (g n : Nat) : ∀ {s : State}, Memory.wf s = true → Memory.wf (s.walkPump g n) = true := by
  induction n with
  | zero => exact id
  | succ n ih =>
    intro s w
    unfold State.walkPump
    split
    · exact w
    · refine Memory.wf_ite (fun _ => w) fun _ => ?_
      split
      · exact w
      · split
        · exact Memory.wf_awFault w _ _
        · exact ih (Memory.wf_walkReach w _ _ _ _)
      · have h := Memory.wf_walkPush w g
        exact ih (Memory.wf_ite (fun _ => Memory.wf_awMod (h _ _ _ _) _ _) fun _ => h _ _ _ _)

/-! ## Banks -/

theorem Memory.wf_bankGo {s : State} (w : Memory.wf s = true) (g b tgt : Nat) : Memory.wf (s.bankGo g b tgt) = true :=
  Memory.wf_ite (fun _ => w) fun _ => Memory.wf_ite (fun _ => Memory.wf_fset w _ _ _) fun _ => Memory.wf_modTile w _ _

theorem Memory.wf_bankTarget {s : State} (w : Memory.wf s = true) (g b code : Nat) : Memory.wf (s.bankTarget g b code) = true := by
  refine Memory.wf_ite (fun _ => w) fun _ => ?_
  dsimp only
  split
  · exact Memory.wf_modTile (Memory.wf_fset w _ _ _) _ _
  · exact Memory.wf_bankGo (Memory.wf_fset w _ _ _) _ _ _

theorem Memory.wf_bankEnd {s : State} (w : Memory.wf s = true) (g b : Nat) : Memory.wf (s.bankEnd g b) = true := by
  unfold State.bankEnd
  split
  · exact w
  · next tgt _ =>
    extract_lets old t u h v
    have hv : Memory.wf v = true := by
      have ht : Memory.wf t = true := Memory.wf_fset w _ _ _
      exact Memory.wf_modTile (Memory.wf_ite (fun _ => Memory.wf_bankClear ht g b) fun _ => ht) _ _
    clear_value h
    cases h with
    | some x => exact Memory.wf_bankGo hv _ _ _
    | none => exact hv

theorem Memory.wf_bankOn {s : State} (w : Memory.wf s = true) (g b : Nat) : Memory.wf (s.bankOn g b) = true :=
  Memory.wf_walkPump g 4096 (Memory.wf_bankEnd w g b)

theorem Memory.wf_awaitOn {s : State} (w : Memory.wf s = true) (g a n : Nat) : Memory.wf (s.awaitOn g a n) = true :=
  Memory.wf_each _ (fun _ _ w => Memory.wf_ite (fun _ => Memory.wf_bankOn w _ _) fun _ => w) _ w

/-! ## Register writes -/

theorem Memory.wf_stwLoc {s : State} (w : Memory.wf s = true) (v : Nat) : Memory.wf (s.stwLoc v) = true := by
  unfold State.stwLoc
  extract_lets a locked t u x
  have ht : Memory.wf t = true := Memory.wf_ite (fun _ => Memory.wf_fset w _ _ _) fun _ => w
  have hu : Memory.wf u = true := Memory.wf_ite (fun _ => Memory.wf_fset ht _ _ _) fun _ => ht
  have hx : Memory.wf x = true := Memory.wf_ite (fun _ => hu) fun _ => Memory.wf_fset hu _ _ _
  exact Memory.wf_ite (fun _ => hx) fun _ => Memory.wf_ite (fun _ => Memory.wf_fset hx _ _ _) fun _ =>
    Memory.wf_ite (fun _ => Memory.wf_fset hx _ _ _) fun _ => Memory.wf_fset hx _ _ _

theorem Memory.wf_winnowCntClear {s : State} (w : Memory.wf s = true) (d : Nat) : Memory.wf (s.winnowCntClear d) = true :=
  Memory.wf_wr (Memory.wf_wr w _ _) _ _

theorem Memory.wf_arClear {s : State} (w : Memory.wf s = true) (g : Nat) : Memory.wf (s.arClear g) = true :=
  Memory.wf_wr (Memory.wf_wr (Memory.wf_wr w _ _) _ _) _ _

theorem Memory.wf_faultClr {s : State} (w : Memory.wf s = true) (g : Nat) : Memory.wf (s.faultClr g) = true :=
  Memory.wf_each _ (fun _ _ w => Memory.wf_modEng w _ _ _) _ (Memory.wf_wr (Memory.wf_wr w _ _) _ _)

theorem Memory.wf_cntClear {s : State} (w : Memory.wf s = true) (g : Nat) : Memory.wf (s.cntClear g) = true :=
  Memory.wf_modTile (Memory.wf_clearRegs (Memory.wf_clearRegs (Memory.wf_clearRegs w _ _) _ _) _ _) _ _

theorem Memory.wf_mbGo {s : State} (w : Memory.wf s = true) (fn : Nat) : Memory.wf (s.mbGo fn) = true :=
  Memory.wf_ite (fun _ => w) fun _ => Memory.wf_ite (fun _ => Memory.wf_fset w _ _ _) fun _ => Memory.wf_fset w _ _ _

/-! ## Mailbox commands -/

theorem Memory.wf_cmd {s : State} (w : Memory.wf s = true) (gs : List (Bool × Reply)) (f : State → State × Reply)
    (h : Memory.wf (f s).1 = true) : Memory.wf (s.cmd gs f).1 = true := by
  unfold State.cmd
  split
  · exact w
  · exact h

theorem Memory.wf_cmdLoftWrite {s : State} (w : Memory.wf s = true) (fn g addr : Nat) (data : List Byte) (psn : List Bool) :
    Memory.wf (cmdLoftWrite fn g addr data psn s).1 = true :=
  Memory.wf_cmd w _ _ (Memory.wf_each _ (fun _ _ w =>
    Memory.wf_ite (fun _ => Memory.wf_setLoftPoison (Memory.wf_putLoftBytes _ _ _ w) _ _ _) fun _ => w) _ (Memory.wf_awaitOn w _ _ _))

theorem Memory.wf_cmdTileStatus {s : State} (w : Memory.wf s = true) (fn p : Nat) : Memory.wf (cmdTileStatus fn p s).1 = true :=
  Memory.wf_cmd w _ _ w

theorem Memory.wf_cmdStepStatus {s : State} (w : Memory.wf s = true) (fn p : Nat) : Memory.wf (cmdStepStatus fn p s).1 = true :=
  Memory.wf_cmd w _ _ w

theorem Memory.wf_mbRun {s : State} (w : Memory.wf s = true) (fn code : Nat) {f : State → State × Reply} (h : Memory.wf (f s).1 = true) :
    Memory.wf (s.mbRun fn code f) = true :=
  Memory.wf_ite (fun _ => w) fun _ => Memory.wf_ite (fun _ => h) fun _ => Memory.wf_mbPost h _ _ _ _

/-! ## Steps -/

/-- The command answers a next state, and one in canonical form wherever it begins in one. -/
def KeepsForm (i : Instr) : Prop := ∀ s : State, Memory.wf s = true → ∃ t, exec i s = .next t ∧ Memory.wf t = true

theorem onLive_wf {s : State} (w : Memory.wf s = true) {f : State → State} (h : Memory.wf (f s) = true) :
    ∃ t, onLive s f = .next t ∧ Memory.wf t = true := by
  unfold onLive
  split
  · exact ⟨_, rfl, h⟩
  · exact ⟨_, rfl, w⟩

theorem keepsForm_onLive {i : Instr} {f : State → State} (e : ∀ s, exec i s = onLive s f)
    (h : ∀ s, Memory.wf s = true → Memory.wf (f s) = true) : KeepsForm i := by
  intro s w
  rw [e]
  exact onLive_wf w (h s w)

theorem keepsForm_mbRow {i : Instr} {fn code : Nat} {f : State → State × Reply} (e : ∀ s, exec i s = mbRow s fn code f)
    (h : ∀ s, Memory.wf s = true → Memory.wf (f s).1 = true) : KeepsForm i :=
  keepsForm_onLive e fun s w => Memory.wf_mbRun w fn code (h s w)

theorem step_keepsForm {s : State} {i : Instr} {rest : List Instr} (w : Memory.wf s = true) (q : s.pending = i :: rest) (h : KeepsForm i) :
    ∃ t, step s = .next t ∧ Memory.wf t = true := by
  rw [step_cons q]
  exact h _ (Memory.wf_pending w rest)

/-- Settles O18: each named command is made of operations that keep the form. -/
theorem canonicalFormKept : Obligations.CanonicalFormKept := by
  refine ⟨fun s w q => ⟨s.tick, step_nil q, Memory.wf_tick w⟩, fun s rest i w q h => step_keepsForm w q ?_⟩
  rcases h with ⟨d, rfl | rfl⟩ | ⟨g, v, rfl | rfl | rfl | rfl⟩ | ⟨v, rfl⟩ | ⟨g, b, code, rfl | rfl⟩ | ⟨fn, rfl⟩ | ⟨d, on, rfl⟩ |
    ⟨fn, g, addr, data, psn, rfl⟩ | ⟨fn, p, rfl | rfl⟩
  · exact keepsForm_onLive (fun _ => rfl) fun s w => Memory.wf_winnowCntClear w d
  · exact keepsForm_onLive (fun _ => rfl) fun s w => Memory.wf_fset w _ _ _
  · exact keepsForm_onLive (fun _ => rfl) fun s w => Memory.wf_arClear w g
  · exact keepsForm_onLive (fun _ => rfl) fun s w => Memory.wf_fset w _ _ _
  · exact keepsForm_onLive (fun _ => rfl) fun s w => Memory.wf_faultClr w g
  · exact keepsForm_onLive (fun _ => rfl) fun s w => Memory.wf_cntClear w g
  · exact keepsForm_onLive (fun _ => rfl) fun s w => Memory.wf_stwLoc w _
  · exact keepsForm_onLive (fun _ => rfl) fun s w => Memory.wf_bankTarget w g b code
  · exact keepsForm_onLive (fun _ => rfl) fun s w => Memory.wf_bankOn w g b
  · exact keepsForm_onLive (fun _ => rfl) fun s w => Memory.wf_mbGo w fn
  · exact keepsForm_onLive (fun _ => rfl) fun s w => Memory.wf_fset w _ _ _
  · exact keepsForm_mbRow (fun _ => rfl) fun s w => Memory.wf_cmdLoftWrite w fn g addr data psn
  · exact keepsForm_mbRow (fun _ => rfl) fun s w => Memory.wf_cmdTileStatus w fn p
  · exact keepsForm_mbRow (fun _ => rfl) fun s w => Memory.wf_cmdStepStatus w fn p

end Sys2Proof.Machine
end

section
/-! PROOF. The package id and its lock (R21, R22), and the events of the bridges and crossings (R17, R26 to R28). -/

namespace Sys2Proof.Machine

/-! ## Flags -/

theorem State.flag_eq_false {s : State} {a : Nat} {f : Fld} : s.flag a f = false ↔ s.fget a f = 0 := by
  simp [State.flag]

theorem State.flag_congr {s t : State} {a : Nat} {f : Fld} (h : t.fget a f = s.fget a f) : t.flag a f = s.flag a f := by
  rw [State.flag, State.flag, h]

/-- A flag that was written 1. -/
theorem State.flag_fset_one (s : State) (a : Nat) (f : Fld) (h : f.ok) : (s.fset a f 1).flag a f = true := by
  have : 1 < 2 ^ (f.hi + 1 - f.lo) := Nat.one_lt_two_pow (by have := h.1; omega)
  rw [State.flag, State.fget_fset s a f h, Nat.mod_eq_of_lt this]
  rfl

theorem State.flag_fset_field (s : State) (a : Nat) (f g : Fld) (hf : f.ok) (e : f.half = g.half) (d : g.hi < f.lo ∨ f.hi < g.lo) (n : Nat) :
    (s.fset a f n).flag a g = s.flag a g := State.flag_congr (s.fget_fset_field a f g hf e d n)

/-! ## A write of STW_LOC -/

/-- STW_LOC with the flags cleared that `v` clears. -/
def State.locClear (s : State) (v : Nat) : State :=
  let s := if v.testBit 29 then s.fset R.STW_LOC F.STW_LOC_NOSLOT 0 else s
  if v.testBit 30 then s.fset R.STW_LOC F.STW_LOC_MISMATCH 0 else s

/-- What a write of STW_LOC stores while LOCK is 0, before LOCK is tried. -/
def State.locStore (s : State) (v : Nat) : State := (s.locClear v).fset R.STW_LOC F.STW_LOC_PKGID (v % 4096)

/-- Clearing the flags leaves every other field of STW_LOC. -/
theorem State.fget_locClear (s : State) (v : Nat) (g : Fld) (h : g.half = 0) (d : g.hi < 29 ∨ 30 < g.lo) :
    (s.locClear v).fget R.STW_LOC g = s.fget R.STW_LOC g := by
  have noslot (s : State) : (s.fset R.STW_LOC F.STW_LOC_NOSLOT 0).fget R.STW_LOC g = s.fget R.STW_LOC g :=
    s.fget_fset_field _ _ g (by decide) h.symm (d.imp id fun k => Nat.lt_of_succ_lt k) 0
  have mismatch (s : State) : (s.fset R.STW_LOC F.STW_LOC_MISMATCH 0).fget R.STW_LOC g = s.fget R.STW_LOC g :=
    s.fget_fset_field _ _ g (by decide) h.symm (d.imp (fun k => Nat.lt_succ_of_lt k) id) 0
  unfold State.locClear
  split <;> split <;> simp only [noslot, mismatch]

theorem State.onlyRegs_locClear (s : State) (v : Nat) : s.OnlyRegs (s.locClear v) fun a => a = R.STW_LOC := by
  have noslot (s : State) : s.OnlyRegs (s.fset R.STW_LOC F.STW_LOC_NOSLOT 0) fun a => a = R.STW_LOC := s.onlyRegs_fset _ _ _ _ rfl
  have mismatch (s : State) : s.OnlyRegs (s.fset R.STW_LOC F.STW_LOC_MISMATCH 0) fun a => a = R.STW_LOC := s.onlyRegs_fset _ _ _ _ rfl
  unfold State.locClear
  split <;> split
  · exact (noslot s).trans (mismatch _)
  · exact noslot s
  · exact mismatch s
  · exact .refl s _

theorem State.onlyRegs_locStore (s : State) (v : Nat) : s.OnlyRegs (s.locStore v) fun a => a = R.STW_LOC :=
  (s.onlyRegs_locClear v).trans (State.onlyRegs_fset _ _ _ _ _ rfl)

theorem State.pkgid_locStore (s : State) (v : Nat) : (s.locStore v).fget R.STW_LOC F.STW_LOC_PKGID = v % 4096 :=
  (State.fget_fset _ _ _ (by decide) _).trans (Nat.mod_mod v 4096)

/-- The slot, TSVALID and LOCK stand while the id is stored. -/
theorem State.fget_locStore (s : State) (v : Nat) (g : Fld) (h : g.half = 0) (d : (12 ≤ g.lo ∧ g.hi < 29) ∨ 30 < g.lo) :
    (s.locStore v).fget R.STW_LOC g = s.fget R.STW_LOC g := by
  have past : 11 < g.lo := by omega
  exact (State.fget_fset_field _ _ F.STW_LOC_PKGID g (by decide) h.symm (.inr past) _).trans (s.fget_locClear v g h (by omega))

theorem State.stwLoc_locked {s : State} (h : s.flag R.STW_LOC F.STW_LOC_LOCK = true) (v : Nat) : s.stwLoc v = s.locClear v := by
  simp only [State.stwLoc, State.locClear, h, or_true, if_true]

/-- What a write of STW_LOC does while LOCK is 0: it stores the id, and with 1 in LOCK it locks, or flags why it does not (R22). -/
theorem State.stwLoc_unlocked {s : State} (h : s.flag R.STW_LOC F.STW_LOC_LOCK = false) (v : Nat) :
    s.stwLoc v =
      if v.testBit 31 = false then s.locStore v
      else if s.flag R.STW_LOC F.STW_LOC_TSVALID = false then (s.locStore v).fset R.STW_LOC F.STW_LOC_NOSLOT 1
      else if v % 32 ≠ s.fget R.STW_LOC F.STW_LOC_TRAYSLOT then (s.locStore v).fset R.STW_LOC F.STW_LOC_MISMATCH 1
      else (s.locStore v).fset R.STW_LOC F.STW_LOC_LOCK 1 := by
  have known : (s.locStore v).flag R.STW_LOC F.STW_LOC_TSVALID = s.flag R.STW_LOC F.STW_LOC_TSVALID :=
    State.flag_congr (s.fget_locStore v _ rfl (by decide))
  have slot : (s.locStore v).fget R.STW_LOC F.STW_LOC_TRAYSLOT = s.fget R.STW_LOC F.STW_LOC_TRAYSLOT :=
    s.fget_locStore v _ rfl (by decide)
  have low : (s.locStore v).fget R.STW_LOC F.STW_LOC_PKGID % 32 = v % 32 := by
    rw [State.pkgid_locStore, Nat.mod_mod_of_dvd v (by decide)]
  rw [← known, ← slot, ← low]
  unfold State.stwLoc
  simp only [h, Bool.false_eq_true, if_false, or_false, Bool.not_eq_true]
  rfl

/-- Setting LOCK or a flag after the id is stored leaves the id, the slot and TSVALID. -/
theorem State.locStore_fset (s : State) (v : Nat) (f : Fld) (hf : f.ok) (h : f.half = 0) (hi : 29 ≤ f.lo) :
    let t := (s.locStore v).fset R.STW_LOC f 1
    t.fget R.STW_LOC F.STW_LOC_PKGID = v % 4096 ∧ t.fget R.STW_LOC F.STW_LOC_TRAYSLOT = s.fget R.STW_LOC F.STW_LOC_TRAYSLOT ∧
      t.flag R.STW_LOC F.STW_LOC_TSVALID = s.flag R.STW_LOC F.STW_LOC_TSVALID ∧ s.OnlyRegs t fun a => a = R.STW_LOC := by
  have keep (g : Fld) (hg : g.half = 0) (d : g.hi < 29) :
      ((s.locStore v).fset R.STW_LOC f 1).fget R.STW_LOC g = (s.locStore v).fget R.STW_LOC g :=
    State.fget_fset_field _ _ f g hf (h.trans hg.symm) (.inl (by omega)) 1
  refine ⟨(keep _ rfl (by decide)).trans (s.pkgid_locStore v), (keep _ rfl (by decide)).trans (s.fget_locStore v _ rfl (by decide)),
    State.flag_congr ((keep _ rfl (by decide)).trans (s.fget_locStore v _ rfl (by decide))),
    (s.onlyRegs_locStore v).trans (State.onlyRegs_fset _ _ _ _ _ (by rw [h]; rfl))⟩

/-- The fields of STW_LOC after a write while LOCK is 0 (R22). -/
theorem State.stwLoc_fields {s : State} (h : s.flag R.STW_LOC F.STW_LOC_LOCK = false) (v : Nat) :
    let t := s.stwLoc v
    let slot := s.fget R.STW_LOC F.STW_LOC_TRAYSLOT
    let known := s.flag R.STW_LOC F.STW_LOC_TSVALID
    t.fget R.STW_LOC F.STW_LOC_PKGID = v % 4096 ∧ t.fget R.STW_LOC F.STW_LOC_TRAYSLOT = slot ∧
      t.flag R.STW_LOC F.STW_LOC_TSVALID = known ∧
      (t.flag R.STW_LOC F.STW_LOC_LOCK = true ↔ v.testBit 31 = true ∧ known = true ∧ v % 32 = slot) ∧
      (v.testBit 31 = true → known = false → t.flag R.STW_LOC F.STW_LOC_NOSLOT = true) ∧
      (v.testBit 31 = true → known = true → v % 32 ≠ slot → t.flag R.STW_LOC F.STW_LOC_MISMATCH = true) ∧
      s.OnlyRegs t fun a => a = R.STW_LOC := by
  have unlocked : (s.locStore v).flag R.STW_LOC F.STW_LOC_LOCK = false :=
    (State.flag_congr (s.fget_locStore v _ rfl (by decide))).trans h
  intro t slot known
  have e : t = _ := State.stwLoc_unlocked h v
  split at e
  next h31 =>
    rw [e]
    refine ⟨s.pkgid_locStore v, s.fget_locStore v _ rfl (by decide), State.flag_congr (s.fget_locStore v _ rfl (by decide)), ?_, ?_, ?_,
      s.onlyRegs_locStore v⟩ <;> simp [h31, unlocked]
  next h31 =>
    split at e
    next hk =>
      have hk : known = false := hk
      obtain ⟨hid, hslot, hknown, only⟩ := s.locStore_fset v F.STW_LOC_NOSLOT (by decide) rfl (by decide)
      have set := (s.locStore v).flag_fset_one R.STW_LOC F.STW_LOC_NOSLOT (by decide)
      have kept := (s.locStore v).flag_fset_field R.STW_LOC F.STW_LOC_NOSLOT F.STW_LOC_LOCK (by decide) rfl (by decide) 1
      rw [e]
      exact ⟨hid, hslot, hknown, by simp [kept, unlocked, hk], fun _ _ => set, by simp [hk], only⟩
    next hk =>
      have hk : known = true := by simpa using hk
      split at e
      next hs =>
        obtain ⟨hid, hslot, hknown, only⟩ := s.locStore_fset v F.STW_LOC_MISMATCH (by decide) rfl (by decide)
        have set := (s.locStore v).flag_fset_one R.STW_LOC F.STW_LOC_MISMATCH (by decide)
        have kept := (s.locStore v).flag_fset_field R.STW_LOC F.STW_LOC_MISMATCH F.STW_LOC_LOCK (by decide) rfl (by decide) 1
        rw [e]
        exact ⟨hid, hslot, hknown, by simp [kept, unlocked, slot, hs], by simp [hk], fun _ _ _ => set, only⟩
      next hs =>
        have hs : v % 32 = slot := not_not.mp hs
        obtain ⟨hid, hslot, hknown, only⟩ := s.locStore_fset v F.STW_LOC_LOCK (by decide) rfl (by decide)
        have set := (s.locStore v).flag_fset_one R.STW_LOC F.STW_LOC_LOCK (by decide)
        rw [e]
        exact ⟨hid, hslot, hknown, by simp [set, h31, hk, hs], by simp [hk], by simp [hs], only⟩

theorem exec_stwLocWrite (v : Word32) (s : State) : exec (.stwLocWrite v) s = onLive s fun s => s.stwLoc v.toNat := rfl

/-! ## Links before the lock -/

/-- No link trains before the package id is locked (R22). -/
theorem State.mayTrain_unlocked {s : State} (h : s.flag R.STW_LOC F.STW_LOC_LOCK = false) (k : Nat) : s.mayTrain k = false := by
  rw [State.mayTrain, h, Bool.false_and]

theorem exec_linkTrain (k : Link) (lanes ok : Bool) (b : List (Nat × List Byte)) (s : State) :
    exec (.linkTrain k lanes ok b) s = onLive s fun s => s.linkTrain k lanes ok b := rfl
theorem exec_linkRetrain (k : Link) (lanes ok : Bool) (b : List (Nat × List Byte)) (s : State) :
    exec (.linkRetrain k lanes ok b) s = onLive s fun s => s.linkRetrain k lanes ok b := rfl

/-- A row whose effect leaves the state leaves it on a held part too. -/
theorem onLive_unchanged {s : State} {f : State → State} (h : f s = s) : onLive s f = .next s := by
  unfold onLive
  split
  · exact congrArg _ h
  · rfl

/-- Settles O16: a write is the store of the id and one of four outcomes of LOCK, and training asks for the lock. -/
theorem packageIdLock : Obligations.PackageIdLock := by
  refine ⟨fun s v hl hu => ⟨_, (exec_stwLocWrite v s).trans (onLive_live hl _), State.stwLoc_fields hu _⟩, fun s k lanes ok b hu => ⟨?_, ?_⟩⟩
  · exact (exec_linkTrain k lanes ok b s).trans (onLive_unchanged (if_pos (by simp [State.mayTrain_unlocked hu])))
  · exact (exec_linkRetrain k lanes ok b s).trans (onLive_unchanged (if_pos (by simp [State.mayTrain_unlocked hu])))

/-! ## Bridges and crossings -/

/-- A fold that adds one report for each element. -/
theorem State.each_report {α : Type} (r : α → Rpt) (l : List α) (s : State) :
    s.each l (fun s x => s.report (r x)) = { s with rpt := s.rpt ++ l.map r } := by
  unfold State.each
  induction l generalizing s with
  | nil => simp
  | cons x l ih => rw [List.foldl_cons, ih]; simp [State.report]

/-- A module lost leaves service, and each die it joins reports it (R17). -/
theorem State.bridgeLost_in {s : State} {m : Nat} (h : s.moduleIn m = true) :
    s.bridgeLost m = { s with
      net := { s.net with moduleOut := spPut (fun _ => false) s.net.moduleOut m true },
      rpt := s.rpt ++ (moduleDies m).map fun d =>
        .fault 3 (Config.plainCause 3 % 256) 3 none (dieIsland d) (islandDie (dieIsland d)) 0 m } := by
  unfold State.bridgeLost
  rw [if_neg (by simp [h])]
  exact State.each_report (fun d => .fault 3 (Config.plainCause 3 % 256) 3 none (dieIsland d) (islandDie (dieIsland d)) 0 m) _ _

/-- An adapter retry counts at each die once for every end of the module there (R17). -/
theorem State.adapterRetry_counts (s : State) (m : Nat) :
    (∀ d, spGet (fun _ => 0) (s.adapterRetry m).net.retries d = spGet (fun _ => 0) s.net.retries d + (moduleDies m).count d) ∧
      (s.adapterRetry m).regs = s.regs := by
  unfold State.adapterRetry State.each
  generalize moduleDies m = l
  induction l generalizing s with
  | nil => exact ⟨fun d => rfl, rfl⟩
  | cons x l ih =>
    obtain ⟨counts, regs⟩ := ih { s with net := { s.net with retries := spPut (fun _ => 0) s.net.retries x (spGet (fun _ => 0) s.net.retries x + 1) } }
    refine ⟨fun d => ?_, regs⟩
    rw [List.foldl_cons, counts d]
    dsimp only
    rw [spGet_spPut, List.count_cons]
    by_cases e : d = x
    · subst e
      simp
      omega
    · simp [e, Ne.symm e]

theorem State.handshake_on {s : State} {b : Nat} (h : s.islandOn b = true) (a : Nat) :
    s.handshake a b = { s with net := { s.net with
      delivered := spPut (fun _ => 0) s.net.delivered (a * 2048 + b) (spGet (fun _ => 0) s.net.delivered (a * 2048 + b) + 1) } } := if_pos h

theorem State.handshake_off {s : State} {b : Nat} (h : s.islandOn b = false) (a : Nat) : s.handshake a b = s.offRefused (islandDie a) :=
  if_neg (by simp [h])

theorem exec_bridgeRetrainTimeout (m : Fin 230) (s : State) : exec (.bridgeRetrainTimeout m) s = onLive s fun s => s.bridgeLost m := rfl
theorem exec_adapterRetry (m : Fin 230) (s : State) : exec (.adapterRetry m) s = onLive s fun s => s.adapterRetry m := rfl
theorem exec_islandHandshake (a b : Island) (s : State) : exec (.islandHandshake a b) s = onLive s fun s => s.handshake a b := rfl

/-- Settles O31: STW_LOC by what a write does to its fields, the events by what they add to the networks' counts. -/
theorem organisationCommandsComplete : Obligations.OrganisationCommandsComplete := by
  refine ⟨fun s v hl hu h31 => ?_, fun s v hl hk => ?_, fun s m hl hm => ?_, fun s m hl => ?_, fun s a b hl => ?_⟩
  · obtain ⟨hid, hslot, _, hlock, hno, hmis, only⟩ := State.stwLoc_fields hu v.toNat
    exact ⟨_, (exec_stwLocWrite v s).trans (onLive_live hl _), hid, hslot, hlock.trans ⟨And.right, And.intro h31⟩, hno h31, hmis h31, only⟩
  · refine ⟨_, (exec_stwLocWrite v s).trans (onLive_live hl _), ?_⟩
    rw [State.stwLoc_locked hk]
    exact ⟨s.fget_locClear _ _ rfl (by decide), (State.flag_congr (s.fget_locClear _ _ rfl (by decide))).trans hk, s.onlyRegs_locClear _⟩
  · refine ⟨_, (exec_bridgeRetrainTimeout m s).trans (onLive_live hl _), ?_⟩
    rw [State.bridgeLost_in hm]
    refine ⟨?_, fun n hn => ?_, rfl, rfl⟩
    · simp [State.moduleIn]
    · simp [State.moduleIn, spGet_spPut_other _ _ _ hn]
  · exact ⟨_, (exec_adapterRetry m s).trans (onLive_live hl _), s.adapterRetry_counts m⟩
  · refine ⟨_, (exec_islandHandshake a b s).trans (onLive_live hl _), ?_⟩
    dsimp only
    cases on : s.islandOn b
    case true => exact State.handshake_on on a ▸ ⟨rfl, fun _ => ⟨by simp, rfl⟩, nofun⟩
    case false => exact State.handshake_off on a ▸ ⟨rfl, nofun, fun _ => ⟨by simp [State.offRefused], rfl⟩⟩

end Sys2Proof.Machine
end

section
/-! PROOF. The two halves of 128-bit registers and the staging register between them, and accesses that nothing decodes (R33). -/

namespace Sys2Proof.Machine

/-! ## Where a fabric window lies -/

/-- The offset lies before the row or past its first dimension. -/
def RegRow.Misses (r : RegRow) (o : Nat) : Prop :=
  o < r.base ∨ match r.dims with
    | [] => r.base + 8 < o
    | (c, st) :: _ => 0 < st ∧ r.base + c * st ≤ o

theorem rowAt_cons_misses {k : BlkKind} {idx o : Nat} {r : RegRow} (h : r.Misses o) (rest : List RegRow) :
    rowAt k idx o (r :: rest) = rowAt k idx o rest := by
  rw [rowAt]
  rcases h with h | h
  · rw [if_neg (by omega)]
  · cases hd : r.dims with
    | nil =>
      rw [hd] at h
      rw [if_pos (by omega), dimIdx]
      have big : 8 < o - r.base := by omega
      split
      next e => exact absurd (Prod.mk.inj (Option.some.inj e)).2 (by omega)
      next e => exact absurd (Prod.mk.inj (Option.some.inj e)).2 (by omega)
      next => rfl
    | cons d ds =>
      obtain ⟨c, st⟩ := d
      rw [hd] at h
      obtain ⟨pos, past⟩ := h
      have out : c ≤ (o - r.base) / st := (Nat.le_div_iff_mul_le pos).mpr (by omega)
      rw [dimIdx, if_neg (Nat.not_lt.mpr out), ite_self]

theorem rowAt_append_misses {k : BlkKind} {idx o : Nat} {l : List RegRow} (h : ∀ r ∈ l, r.Misses o) (rest : List RegRow) :
    rowAt k idx o (l ++ rest) = rowAt k idx o rest := by
  induction l with
  | nil => rfl
  | cons r l ih =>
    rw [List.forall_mem_cons] at h
    rw [List.cons_append, rowAt_cons_misses h.1, ih h.2]

/-- The row of the fabric windows. -/
def fbWinRow : RegRow := ⟨"FB_WIN", 0x60000, [(16, 0x100), (16, 0x10)], 128,
  [F.FB_WIN_PKGLO, F.FB_WIN_PKGHI, F.FB_WIN_PERM, F.FB_WIN_VALID, F.FB_WIN_BASE, F.FB_WIN_SIZE]⟩

theorem rows_fab_eq : rows_fab = rows_fab.take 13 ++ fbWinRow :: rows_fab.drop 14 := rfl

theorem blkOf_fbWin {l o : Nat} (hl : l < 3) (h : 0x50000 ≤ o) (h' : o < 0xF0000) : blkOf (0x38000000 + l * 0x1000000 + o) = some (.fab, l, o) := by
  have idx : (0x38000000 + l * 0x1000000 + o - 0x38000000) / 0x1000000 = l := by omega
  have off : (0x38000000 + l * 0x1000000 + o) % 0x1000000 = o := by omega
  unfold blkOf
  iterate 20 rw [if_neg (by omega)]
  rw [if_pos (by omega), idx, off, if_neg (by omega), if_neg (by omega), if_neg (by omega), if_neg (by omega), if_pos h']

theorem fbWin_upper_eq {l i j : Nat} (hl : l < 3) : R.FB_WIN l i j + 8 = 0x38000000 + l * 0x1000000 + (0x60000 + i * 0x100 + j * 0x10 + 8) := by
  unfold R.FB_WIN Blk.fab dieBase
  rw [if_neg (by omega), if_neg (by omega), if_pos (by omega)]
  omega

theorem dimIdx_fbWin {i j : Nat} (hi : i < 16) (hj : j < 16) :
    dimIdx fbWinRow.dims (0x60000 + i * 0x100 + j * 0x10 + 8 - fbWinRow.base) = some ([i, j], 8) := by
  have off : 0x60000 + i * 0x100 + j * 0x10 + 8 - fbWinRow.base = i * 0x100 + j * 0x10 + 8 := by
    exact Nat.sub_eq_of_eq_add (by simp only [fbWinRow]; omega)
  have q1 : (i * 0x100 + j * 0x10 + 8) / 0x100 = i := by omega
  have r1 : (i * 0x100 + j * 0x10 + 8) % 0x100 = j * 0x10 + 8 := by omega
  have q2 : (j * 0x10 + 8) / 0x10 = j := by omega
  have r2 : (j * 0x10 + 8) % 0x10 = 8 := by omega
  rw [off]
  simp only [fbWinRow, dimIdx, q1, r1, q2, r2, hi, hj, if_true, Option.map_some]

theorem rowAt_fbWin (l : Nat) {i j : Nat} (hi : i < 16) (hj : j < 16) :
    rowAt .fab l (0x60000 + i * 0x100 + j * 0x10 + 8) rows_fab = some ⟨.fab, l, fbWinRow, [i, j], 1⟩ := by
  have before : ∀ r ∈ rows_fab.take 13, r.Misses (0x60000 + i * 0x100 + j * 0x10 + 8) := by
    simp only [rows_fab, List.take, List.forall_mem_cons, RegRow.Misses]
    simp
    omega
  have from_ : fbWinRow.base ≤ 0x60000 + i * 0x100 + j * 0x10 + 8 := by
    show 0x60000 ≤ _
    omega
  rw [rows_fab_eq, rowAt_append_misses before, rowAt, dimIdx_fbWin hi hj, if_pos from_]
  rfl

/-- A register is decoded by its block and its row. -/
theorem regAt_eq {a idx o : Nat} {k : BlkKind} {x : RegSel} (hb : blkOf a = some (k, idx, o)) (hr : rowAt k idx o (blkRows k) = some x)
    (he : routerExists k idx x.ix = true) : regAt a = some x := by
  rw [regAt, hb]
  dsimp only
  rw [hr]
  exact if_pos he

/-- The upper half of a fabric window is decoded as the second half of its row. -/
theorem regAt_fbWin_upper {l i j : Nat} (hl : l < 3) (hi : i < 16) (hj : j < 16) :
    regAt (R.FB_WIN l i j + 8) = some ⟨.fab, l, fbWinRow, [i, j], 1⟩ :=
  fbWin_upper_eq hl ▸ regAt_eq (blkOf_fbWin hl (by omega) (by omega)) (rowAt_fbWin l hi hj) rfl

/-! ## What an access reaches -/

/-- An access that reaches a register does so at an address that decodes to it. -/
theorem State.regAt_of_ctlReg {s : State} {a n : Nat} {x : RegSel} (h : s.ctlReg a n = .reg x) : regAt a = some x := by
  cases hx : regAt a with
  | none => simp [State.ctlReg, hx] at h
  | some y =>
    rcases s.ctlReg_cases hx n with e | e | e <;> rw [e] at h
    · nomatch h
    · nomatch h
    · rw [CtlTgt.reg.inj h]

theorem State.regAt_of_ctlTarget {s : State} {acc a n : Nat} {x : RegSel} (h : s.ctlTarget acc a n = .reg x) : regAt a = some x := by
  unfold State.ctlTarget at h
  split at h
  · nomatch h
  · split at h
    · split at h <;> nomatch h
    · split at h <;> nomatch h
    · exact State.regAt_of_ctlReg h
    · split at h
      · nomatch h
      · split at h
        next y e =>
          split at h
          · rw [← CtlTgt.reg.inj h]
            exact State.regAt_of_ctlReg e
          · nomatch h
        · split at h <;> nomatch h
        next reg off => exact absurd h (reg x)

/-- An access of a wrong width, or where no register decodes, is a decode miss. -/
theorem State.ctlReg_undecoded {a n : Nat} (s : State) (h : regAt a = none ∨ ∃ x, regAt a = some x ∧ 8 * n ≠ min 64 x.row.width) :
    s.ctlReg a n = .miss := by
  unfold State.ctlReg
  rcases h with h | ⟨x, hx, hn⟩
  · rw [h]
  · rw [hx]
    exact if_pos (.inl hn)

theorem State.ctlTarget_undecoded {a n : Nat} (s : State) (acc : Nat)
    (h : regAt a = none ∨ ∃ x, regAt a = some x ∧ 8 * n ≠ min 64 x.row.width) (hw : winOf a = none) : s.ctlTarget acc a n = .miss := by
  unfold State.ctlTarget
  rw [hw, s.ctlReg_undecoded h]
  cases vfPart acc with
  | none => exact ite_self _
  | some p => exact (congrArg _ (ite_self _)).trans (ite_self _)

/-- A register outside the islands that can be off is reached by every access of its width. -/
theorem State.ctlReg_on {s : State} {a n : Nat} {x : RegSel} (hx : regAt a = some x) (hn : 8 * n = min 64 x.row.width)
    (hm : nodeMissing x = false) (hi : x.island = none) : s.ctlReg a n = .reg x := by
  rw [State.ctlReg, hx]
  dsimp only
  rw [if_neg (by simp [hn, hm]), hi]

/-! ## The staging register -/

theorem State.staged_stage (s : State) (acc die acc' die' : Nat) (v : Option Word64) :
    (s.stage acc die v).staged acc' die' = if stageKey acc' die' = stageKey acc die then v else s.staged acc' die' :=
  spGet_spPut _ _ _ _ _

theorem State.staged_stage_same (s : State) (acc die : Nat) (v : Option Word64) : (s.stage acc die v).staged acc die = v := by
  rw [State.staged_stage, if_pos rfl]

/-- Another accessor's staging register, or that of another die, stays. -/
theorem State.staged_stage_other (s : State) {acc die acc' die' : Nat} (h : die < 32) (h' : die' < 32) (ne : acc' ≠ acc ∨ die' ≠ die)
    (v : Option Word64) : (s.stage acc die v).staged acc' die' = s.staged acc' die' := by
  rw [State.staged_stage, if_neg (by unfold stageKey; omega)]

/-- The die of a block's staging register. -/
def RegSel.stageDie (x : RegSel) : Nat :=
  match x.kind with
  | .mem => 24 + x.idx
  | .fab => 28 + x.idx
  | .die => x.idx
  | _ => 31

/-- The only 128-bit registers of the fabric block are its windows. -/
theorem rows_fab_wide : ∀ r ∈ rows_fab, r.width = 128 → r.base = 0x60000 := by decide +kernel

/-- A write of the lower half of a 128-bit register only fills the staging register (R33). -/
theorem State.regWrite_lower (s : State) (acc v : Nat) {a : Nat} {x : RegSel} (hx : regAt a = some x) (hw : x.row.width = 128) (h0 : x.half = 0)
    (hk : x.kind = .mem ∨ x.kind = .fab ∨ x.kind = .die ∨ x.kind = .hst) :
    s.regWrite acc a v x = s.stage acc x.stageDie (some (BitVec.ofNat 64 v)) := by
  have table (d : Nat) : s.tableWrite acc d a v x = s.stage acc d (some (BitVec.ofNat 64 v)) := if_pos h0
  unfold State.regWrite RegSel.stageDie
  rcases hk with hk | hk | hk | hk <;> rw [hk] <;> dsimp only
  · rw [State.memWrite, if_pos hw, table]
  · have hb : x.row.base = 0x60000 := rows_fab_wide _ (by have := regAt_mem hx; rwa [hk] at this) hw
    simp [State.fabWrite, hb, h0]
  · rw [State.dieWrite, if_pos hw, table]
  · rw [if_pos hw, table]

/-! ## Both halves of a fabric window -/

/-- A field of type RW takes the written bits. -/
theorem fldGet_fldWrites_rw {half : Nat} (new old : Word64) {r : RegRow} (h : r.Sound) {f : Fld} (hf : f ∈ r.fields) (e : f.half = half)
    (t : f.ty = .rw) : fldGet f (fldWrites half new r.fields old) = fldGet f new := by
  rw [fldGet_fldWrites new h.1 h.2 hf e, fldGet_fldWrite (h.1 f hf), t]
  rfl

/-- A field written with what it holds. -/
theorem fldPut_self {f : Fld} (h : f.ok) (v : Word64) : fldPut f v (fldGet f v) = v := by
  apply BitVec.eq_of_getLsbD_eq
  intro i hi
  rw [fldPut_bit f h]
  split
  next c =>
    have inFld : i - f.lo < f.hi + 1 - f.lo := by omega
    rw [fldGet_bit, Nat.add_sub_cancel' c.1, decide_eq_true inFld, Bool.true_and]
  next => rfl

/-- RW fields written with what the register holds leave it. -/
theorem fldWrites_self {half : Nat} {l : List Fld} (h : ∀ f ∈ l, f.ok) (t : ∀ f ∈ l, f.ty = .rw) (v : Word64) : fldWrites half v l v = v := by
  unfold fldWrites
  induction l with
  | nil => rfl
  | cons f r ih =>
    simp only [List.forall_mem_cons] at h t
    have self : fldWrite f v v = v := by
      rw [fldWrite, t.1]
      exact fldPut_self h.1 v
    rw [List.foldl_cons, self, ite_self]
    exact ih h.2 t.2

theorem winOf_high {a : Nat} (h : 0x38000000 ≤ a) : winOf a = none := by
  unfold winOf
  rw [if_neg (by omega), if_neg (by omega), if_neg (by omega), if_neg (by omega)]

/-- The physical function reaches the upper half of every fabric window. -/
theorem State.ctlTarget_fbWin {s : State} (hf : s.fwif ≠ 0) {l i j : Nat} (hl : l < 3) (hi : i < 16) (hj : j < 16) :
    s.ctlTarget 0 (R.FB_WIN l i j + 8) 8 = .reg ⟨.fab, l, fbWinRow, [i, j], 1⟩ := by
  have low : 0x38000000 ≤ R.FB_WIN l i j + 8 ∧ R.FB_WIN l i j + 8 < 2 ^ 30 := by
    rw [fbWin_upper_eq hl]
    omega
  unfold State.ctlTarget
  rw [if_neg (by omega), winOf_high low.1]
  exact State.ctlReg_on (regAt_fbWin_upper hl hi hj) rfl rfl rfl

/-- The two halves that a write of a window's upper half writes: the lower from the staging register, which empties (R33). -/
theorem State.regWrite_fbWin (s : State) (acc a v l : Nat) (ix : List Nat) :
    s.regWrite acc (a + 8) v ⟨.fab, l, fbWinRow, ix, 1⟩ =
      ((s.stage acc (28 + l) none).wr a (fldWrites 0 ((s.staged acc (28 + l)).getD (s.rd a)) fbWinRow.fields (s.rd a))).wr (a + 8)
        (fldWrites 1 (BitVec.ofNat 64 v) fbWinRow.fields (s.rd (a + 8))) := by
  have step : s.regWrite acc (a + 8) v ⟨.fab, l, fbWinRow, ix, 1⟩ =
      ((s.stage acc (28 + l) none).rowWrite a (s.lowerHalf acc (28 + l) a) ⟨.fab, l, fbWinRow, ix, 0⟩).rowWrite (a + 8) v
        ⟨.fab, l, fbWinRow, ix, 1⟩ := rfl
  have rd (b : Nat) : (s.stage acc (28 + l) none).rd b = s.rd b := rfl
  rw [step, State.rowWrite_eq, State.rowWrite_eq, State.lowerHalf, BitVec.ofNat_toNat, BitVec.setWidth_eq,
    State.rd_wr_other _ _ (by omega), rd, rd]

/-- Two halves written and the staging register emptied: each half as written, every other register as it was. -/
theorem State.halves_written (s : State) (acc die a : Nat) (lo hi : Word64) :
    let t := ((s.stage acc die none).wr a lo).wr (a + 8) hi
    t.staged acc die = none ∧ t.rd a = lo ∧ t.rd (a + 8) = hi ∧ s.KeepsRegs t fun b => b = a ∨ b = a + 8 := by
  have empty : (((s.stage acc die none).wr a lo).wr (a + 8) hi).staged acc die = none := s.staged_stage_same acc die none
  refine ⟨empty, (State.rd_wr_other _ _ (by omega)).trans (State.rd_wr_same _ _ _), State.rd_wr_same _ _ _, fun b hb => ?_⟩
  rw [not_or] at hb
  exact (State.rd_wr_other _ _ hb.2).trans (State.rd_wr_other _ _ hb.1)

theorem fbWinRow_sound : fbWinRow.Sound := blkRows_sound .fab _ (by rw [blkRows, rows_fab_eq]; simp)
theorem fbWinRow_rw : ∀ f ∈ fbWinRow.fields, f.ty = .rw := by decide

/-- A field of a window's lower half that was written. -/
theorem fget_fbWin_lower {t : State} {a : Nat} {u w : Word64} (e : t.rd a = fldWrites 0 u fbWinRow.fields w) {f : Fld}
    (hf : f ∈ fbWinRow.fields) (h : f.half = 0) : t.fget a f = fldGet f u := by
  rw [State.fget, h, Nat.mul_zero, Nat.add_zero, e, fldGet_fldWrites_rw u w fbWinRow_sound hf h (fbWinRow_rw f hf)]

/-- A field of a window's upper half that was written. -/
theorem fget_fbWin_upper {t : State} {a : Nat} {u w : Word64} (e : t.rd (a + 8) = fldWrites 1 u fbWinRow.fields w) {f : Fld}
    (hf : f ∈ fbWinRow.fields) (h : f.half = 1) : t.fget a f = fldGet f u := by
  rw [State.fget, h, Nat.mul_one, e, fldGet_fldWrites_rw u w fbWinRow_sound hf h (fbWinRow_rw f hf)]

/-- Settles O11: the lower half is staged, the upper half writes both, and what decodes nowhere is only reported. -/
theorem wideRegisterWrites : Obligations.WideRegisterWrites := by
  refine ⟨fun s fn a v x hl ht hw h0 hk => ?_, fun s fn l i j v hl hi hj hlive hfn hf => ?_, fun s fn a n v hl h hw => ?_⟩
  · refine ⟨_, (exec_registerWrite ..).trans (onLive_live hl _), ?_⟩
    rw [State.ctlWrite_reg ht, s.regWrite_lower fn v.toNat (State.regAt_of_ctlTarget ht) hw h0 hk, BitVec.ofNat_toNat, BitVec.setWidth_eq]
    exact ⟨rfl, s.staged_stage_same _ _ _, fun acc die h h' ne => s.staged_stage_other h' h ne _⟩
  · subst hfn
    have upper := s.regWrite_fbWin 0 (R.FB_WIN l i j) v.toNat l [i, j]
    rw [BitVec.ofNat_toNat, BitVec.setWidth_eq] at upper
    refine ⟨_, (exec_registerWrite ..).trans (onLive_live hlive _), ?_⟩
    rw [Fin.val_zero, State.ctlWrite_reg (State.ctlTarget_fbWin hf hl hi hj), upper]
    dsimp only
    generalize R.FB_WIN l i j = a
    generalize low : fldWrites 0 ((s.staged 0 (28 + l)).getD (s.rd a)) fbWinRow.fields (s.rd a) = w
    obtain ⟨empty, rlo, rhi, keep⟩ := s.halves_written 0 (28 + l) a w (fldWrites 1 v fbWinRow.fields (s.rd (a + 8)))
    refine ⟨empty, fget_fbWin_upper rhi (by decide) rfl, fun u hu => ?_, fun hn => ?_, keep⟩
    · rw [hu, Option.getD_some] at low
      have field {f : Fld} := fget_fbWin_lower (rlo.trans low.symm) (f := f)
      exact ⟨field (by decide) rfl, field (by decide) rfl, field (by decide) rfl, field (by decide) rfl, field (by decide) rfl⟩
    · rw [hn, Option.getD_none, fldWrites_self fbWinRow_sound.1 fbWinRow_rw] at low
      exact rlo.trans low.symm
  · obtain ⟨r, hr⟩ := s.decodeMiss_eq fn a
    refine ⟨_, (exec_registerWrite ..).trans (onLive_live hl _), r, ?_⟩
    rw [State.ctlWrite_miss (s.ctlTarget_undecoded fn h hw)]
    exact hr

end Sys2Proof.Machine
end

section
/-! PROOF. Route programs: what each kind of entry does at a running output of a die that is not fenced (R217 to R226, R520). -/

namespace Sys2Proof.Machine

/-! ## Outputs and inputs -/

theorem State.out_setOut (s : State) (k j : Nat) (x : OutSt) : (s.setOut k x).out j = if j = k then x else s.out j := spGet_spPut _ _ _ _ _

@[simp] theorem State.out_setOut_same (s : State) (k : Nat) (x : OutSt) : (s.setOut k x).out k = x := by rw [State.out_setOut, if_pos rfl]

theorem State.out_setOut_other (s : State) {k j : Nat} (h : j ≠ k) (x : OutSt) : (s.setOut k x).out j = s.out j := by
  rw [State.out_setOut, if_neg h]

theorem State.inq_setInq (s : State) (k j : Nat) (l : List BUnit) : (s.setInq k l).inq j = if j = k then l else s.inq j := spGet_spPut _ _ _ _ _

@[simp] theorem State.inq_setInq_same (s : State) (k : Nat) (l : List BUnit) : (s.setInq k l).inq k = l := by rw [State.inq_setInq, if_pos rfl]

theorem State.inq_setInq_other (s : State) {k j : Nat} (h : j ≠ k) (l : List BUnit) : (s.setInq k l).inq j = s.inq j := by
  rw [State.inq_setInq, if_neg h]

@[simp] theorem State.out_setInq (s : State) (k j : Nat) (l : List BUnit) : (s.setInq k l).out j = s.out j := rfl
@[simp] theorem State.inq_setOut (s : State) (k j : Nat) (x : OutSt) : (s.setOut k x).inq j = s.inq j := rfl
@[simp] theorem State.inq_modOut (s : State) (k j : Nat) (f : OutSt → OutSt) : (s.modOut k f).inq j = s.inq j := rfl

theorem State.OnlyRegs.out_eq {s t : State} {A : Nat → Prop} (h : s.OnlyRegs t A) (k : Nat) : t.out k = s.out k := by
  rw [h.1]
  rfl

/-! ## An entry that runs -/

/-- The output exists and runs, stands at the entry `e`, and its die is not fenced (R218, R520). -/
structure State.Runs (s : State) (d r o : Nat) (e : REnt) : Prop where
  exists_ : outOk d r o = true
  run : (s.out (outKey d r o)).run = .run
  open_ : s.flag (R.DIE_CTL d) F.DIE_CTL_FENCE = false
  stands : s.entryAt (outKey d r o) (s.out (outKey d r o)).entry = e

/-- A legal entry of a running output is handed to its row. -/
theorem State.Runs.atEntry {s : State} {d r o : Nat} {e : REnt} (h : s.Runs d r o e) (hi : e ≠ .ill) (f : OutSt → REnt → Option State) :
    s.atEntry d r o f = (f (s.out (outKey d r o)) e).getD s := by
  have go : ¬ (¬ outOk d r o = true ∨ (s.out (outKey d r o)).run ≠ .run ∨ s.flag (R.DIE_CTL d) F.DIE_CTL_FENCE = true) := by
    simp [h.exists_, h.run, h.open_]
  unfold State.atEntry
  dsimp only
  rw [if_neg go, h.stands]
  cases e with
  | ill => exact absurd rfl hi
  | move | loop | brv | jump | halt => rfl

theorem exec_routeMove (d : Die) (r : Fin 8) (o : Fin 17) (s : State) : exec (.routeMove d r o) s = onLive s fun s => s.routeMove d r o := rfl
theorem exec_routeLoop (d : Die) (r : Fin 8) (o : Fin 17) (s : State) : exec (.routeLoop d r o) s = onLive s fun s => s.routeLoop d r o := rfl
theorem exec_routeBrv (d : Die) (r : Fin 8) (o : Fin 17) (s : State) : exec (.routeBrv d r o) s = onLive s fun s => s.routeBrv d r o := rfl
theorem exec_routeJump (d : Die) (r : Fin 8) (o : Fin 17) (s : State) : exec (.routeJump d r o) s = onLive s fun s => s.routeJump d r o := rfl
theorem exec_routeHalt (d : Die) (r : Fin 8) (o : Fin 17) (s : State) : exec (.routeHalt d r o) s = onLive s fun s => s.routeHalt d r o := rfl
theorem exec_routestall (d : Die) (r : Fin 8) (o : Fin 17) (s : State) : exec (.routestall d r o) s = onLive s fun s => s.routeStall d r o := rfl

/-! ## MOVE -/

section Move
variable {s : State} {d r o : Nat} {m : MoveEnt} (h : s.Runs d r o (.move m)) (legal : moveLegal d r o (s.alien d r o) m = true)
include h legal

/-- A MOVE whose gang is ready takes the unit where no bridge of the gang yields its slot (R16, R220). -/
theorem State.routeMove_take {u : BUnit} {left : Nat} (hm : s.moveStep d r o m = .take u left)
    (hy : ∀ y ∈ maskOuts m.omask, s.yields d r y = false) :
    s.routeMove d r o = (s.gangMove d r m u left).each (maskOuts m.omask) fun s y => s.bulkSlot d r y := by
  have keep : (maskOuts m.omask).any (s.yields d r) = false := List.any_eq_false.mpr fun y k => by simp [hy y k]
  rw [State.routeMove, h.atEntry nofun]
  simp [legal, hm, keep]

/-- Where a bridge of the gang gives its slot to SYNC or CTRL the cycle counts as BLOCK (R16, R225). -/
theorem State.routeMove_yield {u : BUnit} {left : Nat} (hm : s.moveStep d r o m = .take u left)
    (hy : ∃ y ∈ maskOuts m.omask, s.yields d r y = true) : s.routeMove d r o = s.heldCycle d r o 5 := by
  have yields : (maskOuts m.omask).any (s.yields d r) = true := List.any_eq_true.mpr hy
  rw [State.routeMove, h.atEntry nofun]
  simp [legal, hm, yields]

theorem State.routeMove_hold {c : Nat} (hm : s.moveStep d r o m = .hold c) : s.routeMove d r o = s.heldCycle d r o c := by
  rw [State.routeMove, h.atEntry nofun]
  simp [legal, hm]

theorem State.routeMove_pass (hm : s.moveStep d r o m = .pass) : s.routeMove d r o = s.gangDone d r m := by
  rw [State.routeMove, h.atEntry nofun]
  simp [legal, hm]

end Move

/-! ## A gang of the one mesh output to the router above -/

/-- A unit handed down the mesh from router `r` to router `r - 4` joins that router's input 34 (R210, R224). -/
theorem State.deliver_north {s : State} {d r : Nat} (hd : d < 24) (qsel : Nat) (u : BUnit) :
    s.deliver d r 8 qsel u = s.setInq (inKey d (r - 4) 34) (s.inq (inKey d (r - 4) 34) ++ [u]) := by
  simp [State.deliver, ingressOut, feeds, hd, Nat.not_le.mpr hd]

theorem State.gangMove_north (s : State) {d : Nat} (r : Nat) {m : MoveEnt} (u : BUnit) {left : Nat} (hd : d < 24) (hl : left ≠ 0)
    (ho : m.omask = 2 ^ 8) :
    let t := (s.setInq (inKey d r m.inp) ((s.inq (inKey d r m.inp)).drop 1)).modOut (outKey d r 8) fun x =>
      { x with left := some left, stalled := false, held := 0 }
    s.gangMove d r m u left = t.setInq (inKey d (r - 4) 34) (t.inq (inKey d (r - 4) 34) ++ [u]) := by
  have outs : maskOuts m.omask = [8] := by
    rw [ho]
    decide
  unfold State.gangMove
  rw [outs]
  simp [State.each, State.deliver_north hd, hl, State.refill, Nat.not_le.mpr hd]

/-! ## ROUTESTALL -/

/-- The record of a router fault, before its report (R223). -/
def State.faultFields (s : State) (d r o cause : Nat) : State :=
  let a := R.BNET_FAULT d
  if s.flag a F.BNET_FAULT_VALID then s.fadd a F.BNET_FAULT_MORE 1
  else
    ((((s.fset a F.BNET_FAULT_ENTRY (s.out (outKey d r o)).entry).fset a F.BNET_FAULT_OUTPUT o).fset a F.BNET_FAULT_ROUTER r).fset a
      F.BNET_FAULT_CAUSE cause).fset a F.BNET_FAULT_VALID 1

/-- A router fault's record differs from its fields by one report only. -/
theorem State.routeRecord_eq (s : State) (d r o cause : Nat) :
    ∃ rep, s.routeRecord d r o cause = (s.faultFields d r o cause).report rep := ⟨_, rfl⟩

theorem State.onlyRegs_faultFields (s : State) (d r o cause : Nat) : s.OnlyRegs (s.faultFields d r o cause) fun a => a = R.BNET_FAULT d := by
  have field (s : State) (f : Fld) (n : Nat) (h : f.half = 0) : s.OnlyRegs (s.fset (R.BNET_FAULT d) f n) fun a => a = R.BNET_FAULT d :=
    s.onlyRegs_fset _ f n _ (by rw [h]; rfl)
  unfold State.faultFields
  dsimp only
  split
  · exact field _ _ _ rfl
  · exact (((field _ _ _ rfl).trans (field _ _ _ rfl)).trans (field _ _ _ rfl)).trans ((field _ _ _ rfl).trans (field _ _ _ rfl))

/-- The first fault's fields. -/
theorem State.faultFields_first {s : State} {d : Nat} (h : s.flag (R.BNET_FAULT d) F.BNET_FAULT_VALID = false) (r o cause : Nat) :
    let t := s.faultFields d r o cause
    t.fget (R.BNET_FAULT d) F.BNET_FAULT_CAUSE = cause % 16 ∧ t.fget (R.BNET_FAULT d) F.BNET_FAULT_ROUTER = r % 8 ∧
      t.fget (R.BNET_FAULT d) F.BNET_FAULT_OUTPUT = o % 32 ∧ t.fget (R.BNET_FAULT d) F.BNET_FAULT_VALID = 1 := by
  unfold State.faultFields
  dsimp only
  rw [if_neg (by simp [h])]
  simp (disch := decide) only [State.fget_fset_field, State.fget_fset]
  exact ⟨rfl, rfl, rfl, rfl⟩

/-- Settles O32: each entry by what its row does at a running output. -/
theorem routeProgramsComplete : Obligations.RouteProgramsComplete := by
  refine ⟨fun s d r o m hl ho hr hf he legal => ?_, fun s d r m u left hd hr hl ho _ _ => ?_, fun s d r o n len k hl ho hr hf he hk => ?_,
    fun s d r o point v j pstep hl ho hr hf he hj hv => ?_, fun s d r o n hl ho hr hf he => ?_, fun s d r o hl ho hr hf he => ?_,
    fun s d r o hl hw hs hc => ?_⟩
  case refine_1 =>
    have runs : s.Runs d r o (.move m) := ⟨ho, hr, hf, he⟩
    have row : exec (.routeMove d r o) s = .next (s.routeMove d r o) := (exec_routeMove d r o s).trans (onLive_live hl _)
    refine ⟨fun u left hm => ⟨fun hy => ?_, fun hy => ?_⟩, fun c hm => ?_, fun hm => ?_⟩
    · rw [row, State.routeMove_take runs legal hm hy]
    · rw [row, State.routeMove_yield runs legal hm hy]
      rfl
    · rw [row, State.routeMove_hold runs legal hm]
      rfl
    · rw [row, State.routeMove_pass runs legal hm]
  case refine_2 =>
    have apart : inKey d r m.inp ≠ inKey d (r - 4) 34 := by
      unfold inKey
      omega
    dsimp only
    rw [s.gangMove_north r u hd (by omega) ho]
    simp [State.inq_setInq_other _ apart, State.inq_setInq_other _ apart.symm, State.modOut]
  case refine_3 =>
    have runs : s.Runs d r o (.loop n len k) := ⟨ho, hr, hf, he⟩
    have free : ((s.out (outKey d r o)).loops.any fun l => decide (l.k = k)) = false :=
      List.any_eq_false.mpr fun l i => by simp [hk l i]
    rw [exec_routeLoop, onLive_live hl, State.routeLoop, runs.atEntry nofun]
    refine ⟨fun h0 => ?_, fun h0 => ?_⟩ <;> simp [free, h0, State.modOut]
  case refine_4 =>
    have runs : s.Runs d r o (.brv point v pstep) := ⟨ho, hr, hf, he⟩
    rw [exec_routeBrv, onLive_live hl, State.routeBrv, runs.atEntry nofun]
    simp [hj, hv, State.modOut]
  case refine_5 =>
    have runs : s.Runs d r o (.jump n) := ⟨ho, hr, hf, he⟩
    rw [exec_routeJump, onLive_live hl, State.routeJump, runs.atEntry nofun]
    rfl
  case refine_6 =>
    have runs : s.Runs d r o .halt := ⟨ho, hr, hf, he⟩
    refine ⟨_, (exec_routeHalt d r o s).trans (onLive_live hl _), ?_⟩
    dsimp only
    rw [State.routeHalt, runs.atEntry nofun]
    refine ⟨by simp [State.atHalt, hr], by simp [State.atHalt, State.modOut], fun k hk => State.out_setOut_other _ hk _, rfl⟩
  case refine_7 =>
    obtain ⟨rep, hrep⟩ := s.routeRecord_eq d r o 5
    have stall : s.routeStall d r o = ((s.faultFields d r o 5).report rep).modOut (outKey d r o) fun x => { x with stalled := true } := by
      rw [← hrep]
      exact if_neg (by simp [hw, hs]; omega)
    have only := s.onlyRegs_faultFields d r o 5
    refine ⟨_, (exec_routestall d r o s).trans (onLive_live hl _), ?_⟩
    dsimp only
    rw [stall]
    refine ⟨by simp [State.modOut], ?_, fun hv => ?_, only.2⟩
    · rw [State.modOut, State.out_setOut_same]
      show ((s.faultFields d r o 5).out (outKey d r o)).run = _
      rw [only.out_eq]
    · obtain ⟨hcause, hrouter, hout, hvalid⟩ := State.faultFields_first hv r o 5
      exact ⟨hcause, hrouter.trans (Nat.mod_eq_of_lt r.isLt), hout.trans (Nat.mod_eq_of_lt (by omega)), decide_eq_true (ne_of_eq_of_ne hvalid one_ne_zero)⟩

end Sys2Proof.Machine
end

section
/-! PROOF. What registers and bank states the walker and the power of banks leave: frames of a tile's faults, of its walk and of its
banks (R82, R95 to R100). -/

namespace Sys2Proof.Machine

/-! ## Registers kept -/

section Keeps
variable {A : Nat → Prop}

theorem State.KeepsRegs.refl (s : State) : s.KeepsRegs s A := fun _ _ => rfl

theorem State.KeepsRegs.trans {s t u : State} (h : s.KeepsRegs t A) (k : t.KeepsRegs u A) : s.KeepsRegs u A :=
  fun a ha => (k a ha).trans (h a ha)

theorem State.KeepsRegs.mono {s t : State} {B : Nat → Prop} (h : s.KeepsRegs t A) (m : ∀ a, A a → B a) : s.KeepsRegs t B :=
  fun a ha => h a fun k => ha (m a k)

/-- A change that leaves the list of registers keeps every register. -/
theorem State.keepsRegs_of_regs {s t : State} (h : t.regs = s.regs) : s.KeepsRegs t A := fun a _ => by rw [State.rd, State.rd, h]

theorem State.keepsRegs_wr (s : State) {a : Nat} (h : A a) (v : Word64) : s.KeepsRegs (s.wr a v) A :=
  fun _ hb => State.rd_wr_other s v fun e => hb (e ▸ h)

theorem State.keepsRegs_fset (s : State) {a : Nat} {f : Fld} (h : A (a + 8 * f.half)) (n : Nat) : s.KeepsRegs (s.fset a f n) A :=
  s.keepsRegs_wr h _

theorem State.keepsRegs_each {α : Type} {f : State → α → State} (l : List α) (h : ∀ s : State, ∀ x ∈ l, s.KeepsRegs (f s x) A) (s : State) :
    s.KeepsRegs (s.each l f) A := by
  unfold State.each
  induction l generalizing s with
  | nil => exact .refl s
  | cons x r ih =>
    exact (h s x List.mem_cons_self).trans (ih (fun s y hy => h s y (List.mem_cons_of_mem x hy)) _)

theorem State.KeepsRegs.fget {s t : State} (h : s.KeepsRegs t A) {a : Nat} {f : Fld} (ha : ¬ A (a + 8 * f.half)) : t.fget a f = s.fget a f := by
  rw [State.fget, State.fget, h _ ha]

end Keeps

/-! ## Tiles -/

theorem State.tile_modTile (s : State) (g h : Nat) (f : TileSt → TileSt) : (s.modTile g f).tile h = if h = g then f (s.tile g) else s.tile h :=
  spGet_spPut _ _ _ _ _

theorem State.tile_congr {s t : State} (h : t.tiles = s.tiles) (g : Nat) : t.tile g = s.tile g := by rw [State.tile, State.tile, h]

/-! ## The walker's frame -/

/-- The registers of a tile that its walker may write: its fault record, its RUN bits and its counters. -/
def WalkRegs (g a : Nat) : Prop :=
  a = R.TIL_FAULT g ∨ a = R.TIL_FADDR g ∨ a = R.TIL_CTL g ∨ a = R.AW_CNT0 g ∨ a = R.AW_CNT1 g ∨ a = R.AW_CNT3 g

/-- Only a tile's walk went on: of the registers its own differ, and every bank's transition and held target stand. -/
structure State.WalkFrame (s : State) (g : Nat) (t : State) : Prop where
  regs : s.KeepsRegs t (WalkRegs g)
  banks : ∀ h, (t.tile h).trans = (s.tile h).trans ∧ (t.tile h).held = (s.tile h).held

namespace State.WalkFrame
variable {s t u : State} {g : Nat}

theorem refl (s : State) (g : Nat) : s.WalkFrame g s := ⟨.refl s, fun _ => ⟨rfl, rfl⟩⟩

theorem trans (h : s.WalkFrame g t) (k : t.WalkFrame g u) : s.WalkFrame g u :=
  ⟨h.regs.trans k.regs, fun i => ⟨(k.banks i).1.trans (h.banks i).1, (k.banks i).2.trans (h.banks i).2⟩⟩

/-- A change that leaves the registers and the tiles. -/
theorem of_same (hr : t.regs = s.regs) (ht : t.tiles = s.tiles) : s.WalkFrame g t :=
  ⟨State.keepsRegs_of_regs hr, fun h => by rw [State.tile_congr ht]; exact ⟨rfl, rfl⟩⟩

theorem of_fset (s : State) {a : Nat} {f : Fld} (h : WalkRegs g (a + 8 * f.half)) (n : Nat) : s.WalkFrame g (s.fset a f n) :=
  ⟨s.keepsRegs_fset h n, fun i => by rw [State.tile_congr (State.fset_tiles s a f n)]; exact ⟨rfl, rfl⟩⟩

theorem of_tilCnt (s : State) {a : Nat} {f : Fld} (h : WalkRegs g (a + 8 * f.half)) (n : Nat) : s.WalkFrame g (s.tilCnt g a f n) := by
  unfold State.tilCnt
  split
  · exact refl s g
  · exact of_fset s h _

theorem of_modTile (s : State) {f : TileSt → TileSt} (h : ∀ x, (f x).trans = x.trans ∧ (f x).held = x.held) : s.WalkFrame g (s.modTile g f) :=
  ⟨State.keepsRegs_of_regs (State.modTile_regs s g f), fun i => by
    rw [State.tile_modTile]
    split
    next e => exact e ▸ h _
    next => exact ⟨rfl, rfl⟩⟩

end State.WalkFrame

/-- A fault of the walker's own engine writes the fault record and RUN (R100). -/
theorem State.walkFrame_tileFault (s : State) (g cause iaddr : Nat) (l : Option Nat) : s.WalkFrame g (s.tileFault g (engIdx .aw) cause iaddr l) := by
  have fault (s : State) {f : Fld} (h : f.half = 0) (n : Nat) : s.WalkFrame g (s.fset (R.TIL_FAULT g) f n) :=
    .of_fset s (by rw [h]; exact .inl rfl) n
  have faddr (s : State) {f : Fld} (h : f.half = 0) (n : Nat) : s.WalkFrame g (s.fset (R.TIL_FADDR g) f n) :=
    .of_fset s (by rw [h]; exact .inr (.inl rfl)) n
  unfold State.tileFault
  extract_lets a₁ a₂ a₃ a₄ a₅ t e run b u
  have ht : s.WalkFrame g t := by
    simp only [t]
    split
    · exact fault s rfl _
    · exact ((((fault s rfl _).trans (fault _ rfl _)).trans (fault _ rfl _)).trans (faddr _ rfl _)).trans ((faddr _ rfl _).trans (faddr _ rfl _))
  have hb : t.WalkFrame g b := .of_fset t (.inr (.inr (.inl rfl))) _
  have hu : b.WalkFrame g u := by
    have stop : b.WalkFrame g (b.modEng g e fun x => { x with faulted := true }) := .of_same (State.modEng_regs ..) (State.modEng_tiles ..)
    simp only [u]
    rw [if_pos (by decide)]
    refine stop.trans ?_
    unfold State.withdraw
    split
    · exact .of_same (State.modEng_regs ..) (State.modEng_tiles ..)
    · exact .refl _ g
  exact ((ht.trans hb).trans hu).trans (.of_same (State.faultRep_regs ..) (State.faultRep_tiles ..))

theorem State.walkFrame_awMod (s : State) (g : Nat) (f : InFlight → InFlight) : s.WalkFrame g (s.awMod g f) := by
  unfold State.awMod
  split
  · exact .of_same (State.modEng_regs ..) (State.modEng_tiles ..)
  · exact .refl s g

theorem State.walkFrame_awFault (s : State) (g l : Nat) : s.WalkFrame g (s.awFault g l) := by
  unfold State.awFault
  dsimp only
  refine WalkFrame.trans ?_ (State.walkFrame_tileFault _ g _ _ _)
  refine WalkFrame.trans ?_ (.of_modTile _ fun _ => ⟨rfl, rfl⟩)
  split
  · exact .of_same (State.modEng_regs ..) (State.modEng_tiles ..)
  · exact .refl s g

theorem State.walkFrame_awPoison (s : State) (g : Nat) (l : List (Nat × Nat)) : s.WalkFrame g (s.awPoison g l) := by
  unfold State.awPoison
  split
  · exact s.walkFrame_awMod g _
  · exact .refl s g

theorem State.walkFrame_walkReach (s : State) (g : Nat) (w : WalkSt) (x : LRead) (rest : List LRead) :
    s.WalkFrame g (s.walkReach g w x rest) := by
  have cnt0 (s : State) : s.WalkFrame g (s.tilCnt g (R.AW_CNT0 g) F.AW_CNT0_SEQS 1) := .of_tilCnt s (.inr (.inr (.inr (.inl rfl)))) 1
  have cnt1 (s : State) (n : Nat) : s.WalkFrame g (s.tilCnt g (R.AW_CNT1 g) F.AW_CNT1_GSKIP n) :=
    .of_tilCnt s (.inr (.inr (.inr (.inr (.inl rfl))))) n
  have cnt3 (s : State) : s.WalkFrame g (s.tilCnt g (R.AW_CNT3 g) F.AW_CNT3_SKIPSEQ 1) := .of_tilCnt s (.inr (.inr (.inr (.inr (.inr rfl))))) 1
  unfold State.walkReach
  extract_lets geo num skip b t
  have ht : s.WalkFrame g t := by
    simp only [t]
    split
    · exact cnt3 s
    · exact ((cnt0 s).trans (cnt1 _ _)).trans (State.walkFrame_awPoison _ g _)
  exact ht.trans (.of_modTile t fun _ => ⟨rfl, rfl⟩)

theorem State.walkFrame_walkPush (s : State) (g : Nat) (w : WalkSt) (p : WalkPush) (rest : List WalkPush) (last : Bool) :
    s.WalkFrame g (s.walkPush g w p rest last) := by
  cases p with
  | enter | me | ve | nullLe =>
    unfold State.walkPush
    dsimp only
    refine .of_modTile s fun x => ?_
    exact ⟨rfl, rfl⟩
  | load b pt p0 npos v =>
    unfold State.walkPush
    dsimp only
    split
    · exact s.walkFrame_awFault g _
    · refine WalkFrame.trans ?_ (State.walkFrame_awPoison _ g _)
      refine WalkFrame.trans ?_ (.of_tilCnt _ (.inr (.inr (.inr (.inl rfl)))) 1)
      refine .of_modTile s fun x => ?_
      exact ⟨rfl, rfl⟩

theorem State.walkFrame_walkPump (g n : Nat) (s : State) : s.WalkFrame g (s.walkPump g n) := by
  induction n generalizing s with
  | zero => exact .refl s g
  | succ n ih =>
    unfold State.walkPump
    split
    · exact .refl s g
    · split
      · exact .refl s g
      · split
        · exact .refl s g
        · split
          · exact s.walkFrame_awFault g _
          · exact (s.walkFrame_walkReach g _ _ _).trans (ih _)
        · refine WalkFrame.trans ?_ (ih _)
          split
          · exact (s.walkFrame_walkPush g _ _ _ _).trans (State.walkFrame_awMod _ g _)
          · exact s.walkFrame_walkPush g _ _ _ _

/-! ## Banks -/

/-- The registers that the power of a tile's banks writes. -/
def BankRegs (g a : Nat) : Prop := a = R.BNK_PWR g ∨ a = R.BNK_STAT g ∨ a = R.BNK_BUSY g ∨ WalkRegs g a

theorem State.keepsRegs_pump (s : State) (g : Nat) : s.KeepsRegs (s.pump g) (BankRegs g) :=
  (s.walkFrame_walkPump g 4096).regs.mono fun _ h => .inr (.inr (.inr h))

theorem State.keepsRegs_bankGo (s : State) (g b tgt : Nat) : s.KeepsRegs (s.bankGo g b tgt) (BankRegs g) := by
  unfold State.bankGo
  dsimp only
  split
  · exact .refl s
  · split
    · exact s.keepsRegs_fset (.inr (.inr (.inl rfl))) _
    · exact State.keepsRegs_of_regs (State.modTile_regs ..)

theorem State.keepsRegs_bankTarget (s : State) (g b code : Nat) : s.KeepsRegs (s.bankTarget g b code) (BankRegs g) := by
  have tgt : s.KeepsRegs (s.fset (R.BNK_PWR g) (F.BNK_PWR_TGT b) code) (BankRegs g) := s.keepsRegs_fset (.inl rfl) _
  unfold State.bankTarget
  dsimp only
  split
  · exact .refl s
  · split
    · exact tgt.trans (State.keepsRegs_of_regs (State.modTile_regs ..))
    · exact tgt.trans (State.keepsRegs_bankGo _ g b code)

theorem State.bankClear_regs (s : State) (g b : Nat) : (s.bankClear g b).regs = s.regs := by
  cases s
  simp only [State.bankClear]

theorem State.keepsRegs_bankEnd (s : State) (g b : Nat) : s.KeepsRegs (s.bankEnd g b) (BankRegs g) := by
  unfold State.bankEnd
  split
  · exact .refl s
  next tgt _ =>
    extract_lets old t u h v
    have hv : s.KeepsRegs v (BankRegs g) := by
      have ht : s.KeepsRegs t (BankRegs g) := s.keepsRegs_fset (.inr (.inl rfl)) _
      have hu : t.KeepsRegs u (BankRegs g) := by
        simp only [u]
        split
        · exact State.keepsRegs_of_regs (t.bankClear_regs g b)
        · exact .refl t
      exact (ht.trans hu).trans (State.keepsRegs_of_regs (State.modTile_regs ..))
    clear_value h
    cases h with
    | some x => exact hv.trans (State.keepsRegs_bankGo _ _ _ _)
    | none => exact hv

theorem State.keepsRegs_bankOn (s : State) (g b : Nat) : s.KeepsRegs (s.bankOn g b) (BankRegs g) :=
  (s.keepsRegs_bankEnd g b).trans (State.keepsRegs_pump _ g)

theorem State.keepsRegs_bankTo (s : State) (g b code : Nat) : s.KeepsRegs (s.bankTo g b code) (BankRegs g) :=
  ((s.keepsRegs_bankTarget g b code).trans (State.keepsRegs_bankOn _ g b)).trans (State.keepsRegs_bankOn _ g b)

theorem State.keepsRegs_allBanks (s : State) (g code : Nat) : s.KeepsRegs (s.allBanks g code) (BankRegs g) :=
  State.keepsRegs_each _ (fun s b _ => s.keepsRegs_bankTo g b code) s

/-! ## Where tiles lie -/

theorem dieBase_mod (d : Nat) : dieBase d % 0x1000000 = 0 := by
  unfold dieBase
  split
  · omega
  · split
    · omega
    · split <;> omega

/-- A tile's registers stand in a 64 KiB range of their own, above those of the steward (R31). -/
theorem til_eq {g : Nat} (h : g < 1536) : Blk.til g = 0x10800000 + g / 64 * 0x1000000 + g % 64 * 0x10000 := by
  unfold Blk.til dieBase
  rw [if_pos (by omega)]
  omega

theorem bankRegs_range {g a : Nat} (h : BankRegs g a) : Blk.til g ≤ a ∧ a < Blk.til g + 0x10000 ∧ a ≠ R.TIL_OWNER g := by
  unfold BankRegs WalkRegs at h
  rcases h with rfl | rfl | rfl | rfl | rfl | rfl | rfl | rfl | rfl <;> refine ⟨?_, ?_, ?_⟩ <;>
    simp [R.BNK_PWR, R.BNK_STAT, R.BNK_BUSY, R.TIL_FAULT, R.TIL_FADDR, R.TIL_CTL, R.AW_CNT0, R.AW_CNT1, R.AW_CNT3, R.TIL_OWNER]

end Sys2Proof.Machine
end

section
/-! PROOF. The mailbox commands of chapter 12 and of R444: power, heat, ageing and the package's place. -/

namespace Sys2Proof.Machine

/-! ## Answered commands -/

/-- A mailbox row whose command ends with STATUS OK answers. -/
theorem answers_of_row {i : Instr} {fn code : Nat} {f : State → State × Reply} {s t : State} {out : List Byte} {P : State → List Byte → Prop}
    (row : ∀ s, exec i s = mbRow s fn code f) (hm : s.Mail) (h : f s = (t, .ok out)) (hp : P t out) : Answers i fn code s P :=
  ⟨t, out, (row s).trans (mbRow_ok hm fn code f h), hp⟩

/-- A field written in a register of its own for each element of a list holds the value. -/
theorem State.fget_each_fset {α : Type} (a : α → Nat) (f : Fld) (hf : f.ok) (n : Nat) (l : List α) (s : State) :
    ∀ x ∈ l, (s.each l fun s x => s.fset (a x) f n).fget (a x) f = n % 2 ^ (f.hi + 1 - f.lo) :=
  State.fget_each _ a f (fun _ => n % 2 ^ (f.hi + 1 - f.lo)) l (fun s x _ => s.fget_fset (a x) f hf n)
    (fun s x _ y _ ne => s.fget_fset_other f f n (by omega)) (fun _ _ _ _ _ => rfl) s

/-- A one-bit field that a Boolean was written to. -/
theorem State.flag_fset_bit (s : State) (a : Nat) (f : Fld) (h : f.ok) (b : Bool) : (s.fset a f (bit b)).flag a f = b := by
  cases b with
  | true => exact s.flag_fset_one a f h
  | false => exact State.flag_eq_false.mpr ((s.fget_fset a f h 0).trans (Nat.zero_mod _))

/-- A field that holds the number written to it, where that fits. -/
theorem State.fget_fset_lt (s : State) (a : Nat) (f : Fld) (h : f.ok) {n : Nat} (hn : n < 2 ^ (f.hi + 1 - f.lo)) : (s.fset a f n).fget a f = n :=
  (s.fget_fset a f h n).trans (Nat.mod_eq_of_lt hn)

/-- A field of a lower half is written in the register's own half. -/
theorem State.onlyRegs_fset_at (s : State) (a : Nat) {f : Fld} (h : f.half = 0) (n : Nat) : s.OnlyRegs (s.fset a f n) fun b => b = a :=
  s.onlyRegs_fset a f n _ (by rw [h]; rfl)

/-! ## Result bytes -/

/-- What stands first in a result does not depend on what follows. -/
theorem layFrom_append (o : Nat) (l r : List (Nat × Nat)) : ∃ o', layFrom o (l ++ r) = layFrom o l ++ layFrom o' r := by
  induction l generalizing o with
  | nil => exact ⟨o, rfl⟩
  | cons x l ih =>
    obtain ⟨n, v⟩ := x
    obtain ⟨o', e⟩ := ih (o + (alignUp o n - o) + n)
    refine ⟨o', ?_⟩
    rw [List.cons_append, layFrom, layFrom, e, List.append_assoc (List.replicate _ 0 ++ leBytes n v)]

theorem leBytes_length (n v : Nat) : (leBytes n v).length = n := by
  induction n generalizing v with
  | zero => rfl
  | succ n ih => rw [leBytes, List.length_cons, ih]

/-- Entries of one size, from a multiple of it, take no padding. -/
theorem layFrom_length {n : Nat} (hn : 0 < n) (l : List Nat) {o : Nat} (ho : n ∣ o) :
    (layFrom o (l.map fun v => (n, v))).length = n * l.length := by
  induction l generalizing o with
  | nil => rfl
  | cons v l ih =>
    obtain ⟨k, rfl⟩ := ho
    have aligned : alignUp (n * k) n = n * k := by
      have : (n * k + n - 1) / n = k := by
        rw [Nat.add_sub_assoc hn, Nat.mul_add_div hn, Nat.div_eq_of_lt (by omega), Nat.add_zero]
      rw [alignUp, this, Nat.mul_comm]
    rw [List.map_cons, layFrom, aligned, Nat.sub_self, List.length_append, List.length_append, leBytes_length, ih ⟨k + 1, by ring⟩,
      List.length_cons, List.length_replicate]
    ring

/-- The first entries of a result, where they have one size. -/
theorem lay_take {α : Type} (v : α → Nat) (l : List α) {n k : Nat} (hn : 0 < n) (hk : k = n * l.length) (r : List (Nat × Nat)) :
    (lay (l.map (fun x => (n, v x)) ++ r)).take k = lay (l.map fun x => (n, v x)) := by
  obtain ⟨o, e⟩ := layFrom_append 0 (l.map fun x => (n, v x)) r
  have len := layFrom_length hn (l.map v) (Nat.dvd_zero n)
  rw [List.map_map, List.length_map] at len
  rw [lay, e, hk, ← len]
  exact List.take_left

/-! ## Where the registers of power and clocks lie -/

theorem clkIsl_range {i : Nat} (h : i < 1701) : 0x380000 ≤ R.CLK_ISL i ∧ R.CLK_ISL i < 0x400000 := by
  simp only [R.CLK_ISL, Blk.clk]
  omega

/-- An island's clock register is none of a tile's bank registers. -/
theorem clkIsl_not_bankRegs {i g : Nat} (hi : i < 1701) (hg : g < 1536) : ¬ BankRegs g (R.CLK_ISL i) := by
  intro h
  have a := (bankRegs_range h).1
  have b := clkIsl_range hi
  rw [til_eq hg] at a
  omega

/-! ## ISLAND_POWER -/

/-- Turning an island off clears its ON bit (R449). -/
theorem State.islandOff_on {s : State} {i : Nat} (h : i < 1701) : (s.islandOff i).flag (R.CLK_ISL i) F.CLK_ISL_ON = false := by
  have off : ((((s.fset (R.CLK_ISL i) F.CLK_ISL_ON 0).fset (R.PWR_ISL i) F.PWR_ISL_GRANT 0).fset (R.PWR_ISL i) F.PWR_ISL_FREQ 0)).fget
      (R.CLK_ISL i) F.CLK_ISL_ON = 0 := by
    have apart : R.CLK_ISL i + 8 * 0 ≠ R.PWR_ISL i + 8 * 0 := by
      simp only [R.CLK_ISL, R.PWR_ISL, Blk.clk, Blk.pwr]
      omega
    rw [State.fget_fset_other _ _ _ _ apart, State.fget_fset_other _ _ _ _ apart, State.fget_fset _ _ _ (by decide)]
    rfl
  rw [State.flag_eq_false]
  unfold State.islandOff
  dsimp only
  split
  next tile =>
    have apart : R.CLK_ISL i + 8 * 0 ≠ R.TIL_CLK i + 8 * 0 := by
      have := clkIsl_range h
      simp only [R.TIL_CLK, til_eq tile]
      omega
    rw [State.fget_fset_other _ _ _ _ apart, (State.keepsRegs_allBanks _ i 0).fget (clkIsl_not_bankRegs h tile), off]
  next => exact off

/-- ISLAND_POWER turns an island that is not in use (R449). -/
theorem State.onWrite_on {s : State} {i : Nat} (h : i < 1701) (ha : alwaysOn i = false) {on : Bool}
    (hu : on = true ∨ s.flag (R.CLK_ISL i) F.CLK_ISL_USED = false) : (s.onWrite i on).flag (R.CLK_ISL i) F.CLK_ISL_ON = on := by
  cases on with
  | true => exact s.flag_fset_one _ _ (by decide)
  | false =>
    have unused := hu.resolve_left nofun
    have off : s.onWrite i false = s.islandOff i := by
      rw [State.onWrite, if_neg (by decide), if_neg (by simp [ha, unused])]
    rw [off, State.islandOff_on h]

/-! ## Commands whose checks pass -/

section Checks
variable {fn : Nat} (hf : fn = 0) (s : State)
include hf

theorem cmdPowerCap_ok {watts rate : Nat} (hw : watts ≤ 65535) (hr : rate ≤ 4095) :
    cmdPowerCap fn watts rate s = (s.capWrite false watts rate).told [R.PWR_CAP] :=
  State.cmd_ok ((firstBad_none_iff _).mpr (by simp [badAt, pfOnly, hf, hw, hr]))

theorem cmdBallastSet_ok {us : Nat} (on : Bool) (hl : 50 ≤ us) (hh : us ≤ 2000) :
    cmdBallastSet fn on us s = ((s.fset R.PWR_CTL F.PWR_CTL_BALEN (bit on)).fset R.PWR_CTL F.PWR_CTL_BRAMP (us / 10)).told [R.PWR_CTL] :=
  State.cmd_ok ((firstBad_none_iff _).mpr (by simp [badAt, pfOnly, hf, hl, hh]))

theorem cmdIslandPower_ok {i : Nat} {on : Bool} (h : i < 1701) (ha : alwaysOn i = false)
    (hu : on = true ∨ s.flag (R.CLK_ISL i) F.CLK_ISL_USED = false) : cmdIslandPower fn i on s = (s.onWrite i on).told [R.CLK_ISL i] :=
  State.cmd_ok ((firstBad_none_iff _).mpr (by rcases hu with hu | hu <;> simp [badAt, pfOnly, refuse, hf, h, ha, hu]))

theorem cmdDroopSet_ok {mv factor : Nat} (hm : mv ≤ 255) (hd : factor ≤ 3) :
    cmdDroopSet fn mv factor s = (s.dcfgWrite mv factor).told [R.CLK_DCFG] :=
  State.cmd_ok ((firstBad_none_iff _).mpr (by simp [badAt, pfOnly, hf, hm, hd]))

theorem cmdHintConfig_ok {us : Nat} (hu : us ≤ 255) : cmdHintConfig fn us s = (s.fset R.PWR_CTL F.PWR_CTL_PRELEAD us).told [R.PWR_CTL] :=
  State.cmd_ok ((firstBad_none_iff _).mpr (by simp [badAt, pfOnly, hf, hu]))

end Checks

theorem cmdPowerTarget_ok {fn : Fun} {p : Part} (hf : OwnFn fn p) (s : State) {code : Nat} (hl : 16 ≤ code) (hh : code ≤ 72) :
    cmdPowerTarget fn p code s =
      (s.each (s.tilesOf p) fun s g => s.fset (R.PWR_ISL g) F.PWR_ISL_FMAX code).told ((s.tilesOf p).map R.PWR_ISL) :=
  State.cmd_ok ((firstBad_none_iff _).mpr (by simp [badAt, ownPart_false hf, hl, hh]))

theorem cmdPowerStatus_ok {fn : Nat} {clr : Bool} (h : fn = 0 ∨ clr = false) (s : State) :
    ∃ rest, cmdPowerStatus fn clr s = (if clr then s.pwrCntClr.pwrBaleClr.droopClr else s,
      .ok (lay ([(s.rd R.PWR_CAP).toNat, s.pwrStat, (s.rd R.PWR_CNT).toNat, (s.rd R.PWR_BALE).toNat].map (fun v => (8, v)) ++ rest))) :=
  ⟨_, State.cmd_ok ((firstBad_none_iff _).mpr (by rcases h with h | h <;> simp [h]))⟩

theorem cmdThermalStatus_eq (clr : Bool) (s : State) :
    ∃ rest, cmdThermalStatus clr s = (if clr then s.each (List.range 239) State.tsClr else s,
      .ok (lay ((List.range 239).map (fun n => (4, (s.rd (R.PWR_TS n)).toNat)) ++ rest))) := ⟨_, State.cmd_ok rfl⟩

/-! ## PKG_LOCATE -/

section PkgLocate
variable {s : State} {fn rack : Nat} (hf : fn = 0) (hr : rack ≤ 127) (hk : s.flag R.STW_LOC F.STW_LOC_TSVALID = true)
include hf hr hk

/-- PKG_LOCATE of an unlocked part is the write of STW_LOC with the rack's id and LOCK (R22, R444). -/
theorem cmdPkgLocate_unlocked (hu : s.flag R.STW_LOC F.STW_LOC_LOCK = false)
    (hl : (s.stwLoc (rack * 32 + s.fget R.STW_LOC F.STW_LOC_TRAYSLOT + 2 ^ 31)).flag R.STW_LOC F.STW_LOC_LOCK = true) :
    cmdPkgLocate fn rack s = (let t := s.stwLoc (rack * 32 + s.fget R.STW_LOC F.STW_LOC_TRAYSLOT + 2 ^ 31)
      (t, .ok (lay [(4, (t.rd R.STW_LOC).toNat % 2 ^ 32)]))) := by
  unfold cmdPkgLocate
  dsimp only
  rw [State.cmd_ok ((firstBad_none_iff _).mpr (by simp [badAt, pfOnly, refuse, hf, hr, hk, hu]))]
  rw [hu, if_neg Bool.false_ne_true, if_pos hl]

/-- PKG_LOCATE of a locked part answers where the id is the same. -/
theorem cmdPkgLocate_locked (hl : s.flag R.STW_LOC F.STW_LOC_LOCK = true) (hid : s.pkgOwn = rack * 32 + s.fget R.STW_LOC F.STW_LOC_TRAYSLOT) :
    cmdPkgLocate fn rack s = (s, .ok (lay [(4, (s.rd R.STW_LOC).toNat % 2 ^ 32)])) := by
  unfold cmdPkgLocate
  dsimp only
  rw [State.cmd_ok ((firstBad_none_iff _).mpr (by simp [badAt, pfOnly, refuse, hf, hr, hk, hid]))]
  rw [hl, if_pos rfl]

end PkgLocate

/-- The id that PKG_LOCATE writes with LOCK: its low bits are the slot, and LOCK is 1. -/
theorem pkgLocate_id {rack slot : Nat} (hr : rack ≤ 127) (hs : slot < 32) :
    (rack * 32 + slot + 2 ^ 31) % 4096 = rack * 32 + slot ∧ (rack * 32 + slot + 2 ^ 31).testBit 31 = true ∧ (rack * 32 + slot + 2 ^ 31) % 32 = slot := by
  refine ⟨by omega, ?_, by omega⟩
  rw [Nat.testBit_eq_decide_div_mod_eq]
  exact decide_eq_true (by omega)

/-- The low bytes of a value do not depend on what stands above them. -/
theorem leBytes_mod (n v : Nat) : leBytes n (v % 2 ^ (8 * n)) = leBytes n v := by
  induction n generalizing v with
  | zero => rfl
  | succ n ih =>
    have pow : 2 ^ (8 * (n + 1)) = 256 * 2 ^ (8 * n) := by
      rw [Nat.mul_succ, Nat.pow_add, Nat.mul_comm]
    have low : BitVec.ofNat 8 (v % 2 ^ (8 * (n + 1))) = BitVec.ofNat 8 v :=
      BitVec.eq_of_toNat_eq (by
        rw [BitVec.toNat_ofNat, BitVec.toNat_ofNat, pow]
        exact Nat.mod_mod_of_dvd v (Nat.dvd_mul_right 256 _))
    have high : v % 2 ^ (8 * (n + 1)) / 256 = v / 256 % 2 ^ (8 * n) := by rw [pow, Nat.mod_mul_right_div_self]
    rw [leBytes, leBytes, low, high, ih]

theorem lay_word (v : Nat) : lay [(4, v % 2 ^ 32)] = leBytes 4 v := by
  rw [← leBytes_mod 4 v]
  exact List.append_nil _

/-! ## Clearing counters -/

theorem State.onlyRegs_droopClr (s : State) : s.OnlyRegs s.droopClr fun a => ∃ i < 1701, a = R.CLK_ISL i :=
  State.onlyRegs_each _ _ _ (fun s i hi => s.onlyRegs_fset _ _ _ _ ⟨i, List.mem_range.mp hi, rfl⟩) s

/-- The counters that POWER_STATUS with CLR zeroes (R464). -/
theorem State.powerCounters_clear (s : State) :
    let t := s.pwrCntClr.pwrBaleClr.droopClr
    t.rd R.PWR_CNT = 0 ∧ t.rd R.PWR_BALE = 0 ∧ ∀ i < 1701, t.fget (R.CLK_ISL i) F.CLK_ISL_DROOP = 0 := by
  have kept {a : Nat} (h : a < 0x380000) : s.pwrCntClr.pwrBaleClr.droopClr.rd a = s.pwrCntClr.pwrBaleClr.rd a := by
    refine s.pwrCntClr.pwrBaleClr.onlyRegs_droopClr.2 a fun ⟨i, hi, e⟩ => ?_
    have := clkIsl_range hi
    omega
  refine ⟨(kept (by decide)).trans ?_, (kept (by decide)).trans ?_, fun i hi => ?_⟩
  · exact (State.rd_wr_other _ _ (by decide)).trans (State.rd_wr_same _ _ _)
  · exact State.rd_wr_same _ _ _
  · exact State.fget_each_fset R.CLK_ISL F.CLK_ISL_DROOP (by decide) 0 (List.range 1701) _ i (List.mem_range.mpr hi)

/-- THERMAL_STATUS with CLR zeroes the sensors' maxima (R462). -/
theorem State.maxima_clear (s : State) {n : Nat} (h : n < 239) : (s.each (List.range 239) State.tsClr).fget (R.PWR_TS n) F.PWR_TS_MAX = 0 := by
  have e : State.tsClr = fun s n => s.fset (R.PWR_TS n) F.PWR_TS_MAX 0 := rfl
  rw [e, State.fget_each_fset R.PWR_TS F.PWR_TS_MAX (by decide) 0 (List.range 239) s n (List.mem_range.mpr h), Nat.zero_mod]

/-- OVERRUN_LOG with CLR empties the log and clears OVR (R460, R464). -/
theorem State.overruns_clear (s : State) :
    let t := s.ovrClear.fset R.PWR_STAT F.PWR_STAT_OVR 0
    t.fget R.PWR_OVRPTR F.PWR_OVRPTR_COUNT = 0 ∧ t.flag R.PWR_STAT F.PWR_STAT_OVR = false := by
  refine ⟨?_, State.flag_eq_false.mpr (State.fget_fset _ _ _ (by decide) 0)⟩
  rw [State.fget_fset_other _ _ _ _ (by decide), State.ovrClear]
  simp (disch := decide) only [State.fget_fset_field, State.fget_fset]
  exact Nat.zero_mod _

/-- Settles O53: each command's checks pass, and its effect is read off the registers it writes. -/
theorem powerCommandsComplete : Obligations.PowerCommandsComplete := by
  refine ⟨fun s fn hm => ?_, fun s fn rack hm hf hr hk => ⟨fun hu => ?_, fun hl hid => ?_⟩, fun s fn clr hm hc => ?_,
    fun s fn watts rate hm hf hw hr => ?_, fun s fn p code hm hf hl hh => ?_, fun s fn on us hm hf hl hh => ?_,
    fun s fn clr hm => ⟨?_, ?_, ?_⟩, fun s fn i on hi hm hf ha hu => ?_, fun s fn mv factor hm hf hv hd => ?_, fun s fn us hm hf hu => ?_⟩
  · exact answers_of_row (fun _ => rfl) hm (State.cmd_ok rfl) ⟨rfl, rfl⟩
  · have hs : s.fget R.STW_LOC F.STW_LOC_TRAYSLOT < 32 := fldGet_lt _ _
    obtain ⟨hid, h31, hslot⟩ := pkgLocate_id hr hs
    obtain ⟨pid, _, _, lock, _, _, only⟩ := State.stwLoc_fields hu (rack * 32 + s.fget R.STW_LOC F.STW_LOC_TRAYSLOT + 2 ^ 31)
    have locks := lock.mpr ⟨h31, hk, hslot⟩
    exact answers_of_row (fun _ => rfl) hm (cmdPkgLocate_unlocked hf hr hk hu locks) ⟨pid.trans hid, locks, lay_word _, only⟩
  · exact answers_of_row (fun _ => rfl) hm (cmdPkgLocate_locked hf hr hk hl hid) rfl
  · obtain ⟨rest, e⟩ := cmdPowerStatus_ok hc s
    refine answers_of_row (fun _ => rfl) hm e ⟨?_, fun hc => ?_, fun hc => ?_⟩
    · exact (lay_take (fun v => v) [(s.rd R.PWR_CAP).toNat, s.pwrStat, (s.rd R.PWR_CNT).toNat, (s.rd R.PWR_BALE).toNat] (n := 8) (by decide)
        rfl rest).trans (congrArg lay rfl)
    · rw [hc, if_neg Bool.false_ne_true]
    · rw [hc, if_pos rfl]
      exact s.powerCounters_clear
  · exact answers_of_row (fun _ => rfl) hm (cmdPowerCap_ok hf s hw hr) ⟨rfl, rfl⟩
  · refine answers_of_row (fun _ => rfl) hm (cmdPowerTarget_ok hf s hl hh) ⟨rfl, fun g hg => ?_, ?_⟩
    · exact (State.fget_each_fset R.PWR_ISL F.PWR_ISL_FMAX (by decide) code _ s g hg).trans (Nat.mod_eq_of_lt (by change code < 128; omega))
    · exact State.onlyRegs_each _ _ _ (fun s g hg => s.onlyRegs_fset _ _ _ _ ⟨g, hg, rfl⟩) s
  · refine answers_of_row (fun _ => rfl) hm (cmdBallastSet_ok hf s on hl hh) ⟨rfl, ?_, ?_, ?_⟩
    · rw [State.flag_fset_field _ R.PWR_CTL F.PWR_CTL_BRAMP F.PWR_CTL_BALEN (by decide) rfl (by decide)]
      exact s.flag_fset_bit _ _ (by decide) on
    · exact State.fget_fset_lt _ _ _ (by decide) (by change us / 10 < 256; omega)
    · exact (s.onlyRegs_fset_at _ rfl _).trans (State.onlyRegs_fset_at _ _ rfl _)
  · obtain ⟨rest, e⟩ := cmdThermalStatus_eq clr s
    refine answers_of_row (fun _ => rfl) hm e ⟨?_, fun hc => ?_, fun hc n hn => ?_⟩
    · exact lay_take (fun n => (s.rd (R.PWR_TS n)).toNat) (List.range 239) (by decide) (by rw [List.length_range]) rest
    · rw [hc, if_neg Bool.false_ne_true]
    · rw [hc, if_pos rfl]
      exact s.maxima_clear hn
  · exact answers_of_row (fun _ => rfl) hm (State.cmd_ok rfl) rfl
  · refine answers_of_row (fun _ => rfl) hm (State.cmd_ok rfl) ⟨fun hc => ?_, fun hc => ?_⟩
    · rw [hc, if_neg Bool.false_ne_true]
    · rw [hc, if_pos rfl]
      exact s.overruns_clear
  · exact answers_of_row (fun _ => rfl) hm (cmdIslandPower_ok hf s hi ha hu) ⟨rfl, State.onWrite_on hi ha hu⟩
  · refine answers_of_row (fun _ => rfl) hm (cmdDroopSet_ok hf s hv hd) ⟨rfl, ?_, ?_, ?_⟩
    · rw [State.dcfgWrite, State.fget_fset_field _ R.CLK_DCFG F.CLK_DCFG_STR F.CLK_DCFG_DTH (by decide) rfl (by decide)]
      exact State.fget_fset_lt _ _ _ (by decide) (by change max 10 mv < 256; omega)
    · exact State.fget_fset_lt _ _ _ (by decide) (by change min 2 factor < 4; omega)
    · exact (s.onlyRegs_fset_at _ rfl _).trans (State.onlyRegs_fset_at _ _ rfl _)
  · refine answers_of_row (fun _ => rfl) hm (cmdHintConfig_ok hf s hu) ⟨rfl, ?_, ?_⟩
    · exact State.fget_fset_lt _ _ _ (by decide) (by change us < 256; omega)
    · exact s.onlyRegs_fset_at _ rfl _

end Sys2Proof.Machine
end

section
/-! PROOF. The serving commands that set a partition's own registers or its adapters: PART_SERVE, ADAPTER_PUT, ADAPTER_DROP, WEIGHT_DIR,
SLICE_SET and SERVE_STATS (R412 to R417, R432, R433). -/

namespace Sys2Proof.Machine

/-! ## Partitions -/

theorem State.part_setPart (s : State) (p : Nat) (x : Option PartSt) : (s.setPart p x).part p = x := spGet_spPut_same _ _ _ _

theorem State.modPart_eq {s : State} {p : Nat} {x : PartSt} (h : s.part p = some x) (f : PartSt → PartSt) :
    s.modPart p f = s.setPart p (some (f x)) := by
  rw [State.modPart, h]

theorem State.part_ne_none {s : State} {p : Nat} {x : PartSt} (h : s.part p = some x) : (s.part p).isNone = false := by rw [h]; rfl

/-! ## Registers that hold an area (R424) -/

/-- An area written holds its address. -/
theorem State.area_fset (s : State) (a : Nat) {addr : Nat} (h0 : addr % 65536 = 0) (h48 : addr < 2 ^ 48) :
    (s.fset a F.PT_INAREA_ADDR (addr / 65536)).area a = addr := by
  rw [State.area, State.fget_fset_lt _ _ _ (by decide) (by change addr / 65536 < 2 ^ 48; omega)]
  omega

theorem State.area_congr {s t : State} {a : Nat} (h : t.fget a F.PT_INAREA_ADDR = s.fget a F.PT_INAREA_ADDR) : t.area a = s.area a := by
  rw [State.area, State.area, h]

/-! ## PART_SERVE (R433) -/

/-- What PART_SERVE always writes. -/
def State.serveSet (s : State) (p : Nat) (auto : Bool) (admits pchunk layerch : Nat) (layeren : Bool) : State :=
  ((((((s.fset (R.PT_CTL p) F.PT_CTL_EN 1).fset (R.PT_CTL p) F.PT_CTL_AUTO (bit auto)).fset (R.PT_SERVE p) F.PT_SERVE_ADMIT (max 1 admits)).fset
    (R.PT_SERVE p) F.PT_SERVE_PCHUNK pchunk).fset (R.PT_SERVE p) F.PT_SERVE_LAYERCH layerch).fset (R.PT_SERVE p) F.PT_SERVE_LAYEREN (bit layeren))

/-- What PART_SERVE writes outside RUN and SWAP. -/
def State.areasSet (s : State) (p inarea verdict save : Nat) : State :=
  ((s.fset (R.PT_INAREA p) F.PT_INAREA_ADDR (inarea / 65536)).fset (R.PT_VERDICT p) F.PT_VERDICT_ADDR (verdict / 65536)).fset (R.PT_SAVE p)
    F.PT_SAVE_ADDR (save / 65536)

theorem ptCtl_ne_ptServe (p : Nat) : R.PT_CTL p + 8 * 0 ≠ R.PT_SERVE p + 8 * 0 := by simp [R.PT_CTL, R.PT_SERVE]

/-- Writes of PT_SERVE leave PT_CTL. -/
theorem State.fget_fset_ptServe (s : State) (p : Nat) {f g : Fld} (hf : f.half = 0) (hg : g.half = 0) (n : Nat) :
    (s.fset (R.PT_SERVE p) f n).fget (R.PT_CTL p) g = s.fget (R.PT_CTL p) g :=
  s.fget_fset_other _ _ _ (by rw [hf, hg]; exact ptCtl_ne_ptServe p)

/-- PART_SERVE leaves PT_CTL's STATE, and sets EN and AUTO. -/
theorem State.serveSet_ctl (s : State) (p : Nat) (auto : Bool) (admits pchunk layerch : Nat) (layeren : Bool) :
    let t := s.serveSet p auto admits pchunk layerch layeren
    t.fget (R.PT_CTL p) F.PT_CTL_STATE = s.fget (R.PT_CTL p) F.PT_CTL_STATE ∧ t.flag (R.PT_CTL p) F.PT_CTL_EN = true ∧
      t.flag (R.PT_CTL p) F.PT_CTL_AUTO = auto := by
  have ctl (g : Fld) (hg : g.half = 0) : (s.serveSet p auto admits pchunk layerch layeren).fget (R.PT_CTL p) g =
      ((s.fset (R.PT_CTL p) F.PT_CTL_EN 1).fset (R.PT_CTL p) F.PT_CTL_AUTO (bit auto)).fget (R.PT_CTL p) g := by
    unfold State.serveSet
    rw [State.fget_fset_ptServe _ p rfl hg, State.fget_fset_ptServe _ p rfl hg, State.fget_fset_ptServe _ p rfl hg, State.fget_fset_ptServe _ p rfl hg]
  refine ⟨?_, ?_, ?_⟩
  · rw [ctl _ rfl]
    simp (disch := decide) only [State.fget_fset_field]
  · rw [State.flag_congr (ctl _ rfl), State.flag_fset_field _ (R.PT_CTL p) F.PT_CTL_AUTO F.PT_CTL_EN (by decide) rfl (by decide)]
    exact s.flag_fset_one _ _ (by decide)
  · exact (State.flag_congr (ctl _ rfl)).trans (State.flag_fset_bit _ _ _ (by decide) auto)

theorem State.serveSet_serve (s : State) (p : Nat) (auto : Bool) {admits pchunk layerch : Nat} (layeren : Bool) (ha : admits ≤ 255)
    (hp : pchunk ≤ 4096) (hl : layerch ≤ 63) :
    let t := s.serveSet p auto admits pchunk layerch layeren
    t.fget (R.PT_SERVE p) F.PT_SERVE_ADMIT = max 1 admits ∧ t.fget (R.PT_SERVE p) F.PT_SERVE_PCHUNK = pchunk ∧
      t.fget (R.PT_SERVE p) F.PT_SERVE_LAYERCH = layerch ∧ t.flag (R.PT_SERVE p) F.PT_SERVE_LAYEREN = layeren := by
  refine ⟨?_, ?_, ?_, State.flag_fset_bit _ _ _ (by decide) layeren⟩ <;> unfold State.serveSet <;>
    simp (disch := decide) only [State.fget_fset_field, State.fget_fset]
  · exact Nat.mod_eq_of_lt (by change max 1 admits < 256; omega)
  · exact Nat.mod_eq_of_lt (by change pchunk < 8192; omega)
  · exact Nat.mod_eq_of_lt (by change layerch < 64; omega)

/-- The registers that PART_SERVE names. -/
def ServeRegs (p a : Nat) : Prop := a = R.PT_CTL p ∨ a = R.PT_SERVE p ∨ a = R.PT_INAREA p ∨ a = R.PT_VERDICT p ∨ a = R.PT_SAVE p

theorem State.onlyRegs_serveSet (s : State) (p : Nat) (auto : Bool) (admits pchunk layerch : Nat) (layeren : Bool) :
    s.OnlyRegs (s.serveSet p auto admits pchunk layerch layeren) fun a => a = R.PT_CTL p ∨ a = R.PT_SERVE p := by
  have ctl (s : State) {f : Fld} (h : f.half = 0) (n : Nat) : s.OnlyRegs (s.fset (R.PT_CTL p) f n) fun a => a = R.PT_CTL p ∨ a = R.PT_SERVE p :=
    (s.onlyRegs_fset_at _ h n).mono fun _ => .inl
  have serve (s : State) {f : Fld} (h : f.half = 0) (n : Nat) : s.OnlyRegs (s.fset (R.PT_SERVE p) f n) fun a => a = R.PT_CTL p ∨ a = R.PT_SERVE p :=
    (s.onlyRegs_fset_at _ h n).mono fun _ => .inr
  exact (((((ctl s rfl _).trans (ctl _ rfl _)).trans (serve _ rfl _)).trans (serve _ rfl _)).trans (serve _ rfl _)).trans (serve _ rfl _)

theorem State.onlyRegs_areasSet (s : State) (p inarea verdict save : Nat) :
    s.OnlyRegs (s.areasSet p inarea verdict save) fun a => a = R.PT_INAREA p ∨ a = R.PT_VERDICT p ∨ a = R.PT_SAVE p :=
  (((s.onlyRegs_fset_at (R.PT_INAREA p) rfl _).mono fun _ => .inl).trans
    ((State.onlyRegs_fset_at _ (R.PT_VERDICT p) rfl _).mono fun _ h => .inr (.inl h))).trans
    ((State.onlyRegs_fset_at _ (R.PT_SAVE p) rfl _).mono fun _ h => .inr (.inr h))

/-- The areas written read back, and PT_CTL and PT_SERVE stand. -/
theorem State.areasSet_area (s : State) (p : Nat) {inarea verdict save : Nat}
    (h : ∀ a ∈ [inarea, verdict, save], a % 65536 = 0 ∧ a < 2 ^ 48) :
    let t := s.areasSet p inarea verdict save
    t.area (R.PT_INAREA p) = inarea ∧ t.area (R.PT_VERDICT p) = verdict ∧ t.area (R.PT_SAVE p) = save := by
  obtain ⟨hi, hv, hs⟩ : (inarea % 65536 = 0 ∧ inarea < 2 ^ 48) ∧ (verdict % 65536 = 0 ∧ verdict < 2 ^ 48) ∧ save % 65536 = 0 ∧ save < 2 ^ 48 := by
    simpa only [List.forall_mem_cons, List.not_mem_nil, false_imp_iff, implies_true, and_true] using h
  have apart (s : State) {a b : Nat} (f : Fld) (hf : f.half = 0) (n : Nat) (ne : b ≠ a) : (s.fset a f n).area b = s.area b :=
    State.area_congr (s.fget_fset_other _ _ _ (by rw [hf]; change b + 0 ≠ a + 0; omega))
  have iv : R.PT_INAREA p ≠ R.PT_VERDICT p := by simp [R.PT_INAREA, R.PT_VERDICT]
  have is : R.PT_INAREA p ≠ R.PT_SAVE p := by simp [R.PT_INAREA, R.PT_SAVE]
  have vs : R.PT_VERDICT p ≠ R.PT_SAVE p := by simp [R.PT_VERDICT, R.PT_SAVE]
  unfold State.areasSet
  refine ⟨?_, ?_, State.area_fset _ _ hs.1 hs.2⟩
  · rw [apart _ _ rfl _ is, apart _ _ rfl _ iv]
    exact State.area_fset _ _ hi.1 hi.2
  · rw [apart _ _ rfl _ vs]
    exact State.area_fset _ _ hv.1 hv.2

theorem State.areasSet_kept (s : State) (p inarea verdict save : Nat) {f : Fld} (h : f.half = 0) :
    (s.areasSet p inarea verdict save).fget (R.PT_CTL p) f = s.fget (R.PT_CTL p) f ∧
      (s.areasSet p inarea verdict save).fget (R.PT_SERVE p) f = s.fget (R.PT_SERVE p) f := by
  have keep : s.KeepsRegs (s.areasSet p inarea verdict save) _ := (s.onlyRegs_areasSet p inarea verdict save).2
  refine ⟨keep.fget ?_, keep.fget ?_⟩ <;> rw [h] <;> simp [R.PT_INAREA, R.PT_VERDICT, R.PT_SAVE, R.PT_CTL, R.PT_SERVE]

/-- The state that PART_SERVE leaves. -/
def State.served (s : State) (p : Nat) (auto : Bool) (admits pchunk layerch : Nat) (layeren : Bool) (inarea verdict save : Nat) : State :=
  let t := s.serveSet p auto admits pchunk layerch layeren
  if t.ptState p = 1 ∨ t.ptState p = 3 then t else t.areasSet p inarea verdict save

theorem cmdPartServe_ok {fn : Fun} {p : Part} {s : State} (hf : OwnFn fn p) (he : s.Exists p) {admits pchunk layerch inarea verdict save : Nat}
    (auto layeren : Bool) (ha : admits ≤ 255) (h1 : 1 ≤ pchunk) (hp : pchunk ≤ 4096) (hl : layerch ≤ 63)
    (h : ∀ a ∈ [inarea, verdict, save], a % 65536 = 0 ∧ a < 2 ^ 48) (gi : s.inGen p inarea (4096 * 0x4000) = true)
    (gv : s.inGen p verdict (4096 * 128) = true) (gs : s.inGen p save (s.saveMin p) = true) :
    cmdPartServe fn p auto admits pchunk layerch layeren inarea verdict save s =
      (s.served p auto admits pchunk layerch layeren inarea verdict save).told
        [R.PT_CTL p, R.PT_SERVE p, R.PT_INAREA p, R.PT_VERDICT p, R.PT_SAVE p] := by
  obtain ⟨x, hx⟩ := Option.isSome_iff_exists.mp he
  have fits {a : Nat} (m : a ∈ [inarea, verdict, save]) : decide (a % 65536 ≠ 0 ∨ 2 ^ 48 ≤ a) = false :=
    decide_eq_false (by have := h a m; omega)
  unfold cmdPartServe
  dsimp only
  rw [State.cmd_ok ((firstBad_none_iff _).mpr ?_)]
  · rfl
  simp only [List.forall_mem_cons, List.not_mem_nil, false_imp_iff, implies_true, and_true]
  exact ⟨State.part_ne_none hx, decide_eq_false (by omega), decide_eq_false (by omega), decide_eq_false (by omega),
    fits (List.mem_cons_self ..), fits (List.mem_cons_of_mem _ (List.mem_cons_self ..)),
    fits (List.mem_cons_of_mem _ (List.mem_cons_of_mem _ (List.mem_cons_self ..))), ownPart_false hf, by simp [refuse, gi, gv, gs]⟩

/-! ## Adapters (R417) -/

theorem cmdAdapterPut_ok {fn : Fun} {p : Part} {s : State} {x : PartSt} {r : Rgn} {aid bytes n addr : Nat} (hf : OwnFn fn p)
    (hx : s.part p = some x) (ha : aid ≤ 63) (h48 : addr < 2 ^ 48) (hr : s.rgnOf p addr = some r) (hin : addr + bytes ≤ r.base + r.size)
    (hn : x.freeAdapter = some n) :
    cmdAdapterPut fn p aid addr bytes s =
      (s.setPart p (some { x with alloc := spPut (fun _ => none) x.alloc n (some (addr, bytes)), puts := x.puts ++ [(aid, n)] }),
        .ok (lay [(2, n), (2, (spGet (fun _ => 0) x.gens aid + (x.puts.filter fun a => decide (a.1 = aid)).length + 1) % 65536)])) := by
  unfold cmdAdapterPut
  rw [hx, hr]
  simp only [Option.bind_some, hn]
  rw [State.cmd_ok ((firstBad_none_iff _).mpr ?_)]
  · rw [hx]
  simp only [List.forall_mem_cons, List.not_mem_nil, false_imp_iff, implies_true, and_true]
  exact ⟨rfl, decide_eq_false (by omega), by simpa [badAt, hin] using h48, ownPart_false hf, rfl⟩

theorem cmdAdapterDrop_ok {fn : Fun} {p : Part} {s : State} {x : PartSt} {aid : Nat} (hf : OwnFn fn p) (hx : s.part p = some x) (ha : aid ≤ 63) :
    cmdAdapterDrop fn p aid s =
      (s.setPart p (some (PartSt.freeAdapters
        { x with ids := spPut (fun _ => none) x.ids aid none, puts := x.puts.filter fun a => decide (a.1 ≠ aid) })), .ok []) := by
  unfold cmdAdapterDrop
  rw [State.cmd_ok ((firstBad_none_iff _).mpr (by simp [badAt, hx, ha, ownPart_false hf])), State.modPart_eq hx]

/-! ## WEIGHT_DIR (R432) -/

/-- A measurement writes its own register and the log of the steward only. -/
theorem State.keepsRegs_measure (s : State) (r kind : Nat) (x : List Byte) :
    s.KeepsRegs (s.measure r kind x) fun a => (∃ i < 4, a = measReg r + 8 * i) ∨ a = R.SEC_STAT := by
  have put : s.KeepsRegs (s.putRegBytes (measReg r) 4 (sm3 (s.meas r ++ x))) fun a => (∃ i < 4, a = measReg r + 8 * i) ∨ a = R.SEC_STAT :=
    State.keepsRegs_each _ (fun s i hi => s.keepsRegs_wr (.inl ⟨i, List.mem_range.mp hi, rfl⟩) _) s
  unfold State.measure
  generalize s.putRegBytes (measReg r) 4 (sm3 (s.meas r ++ x)) = t at put
  dsimp only
  split
  · exact put.trans (State.keepsRegs_of_regs rfl)
  · exact put.trans (t.keepsRegs_fset (.inr rfl) _)

theorem State.putRegBytes_mem (s : State) (a n : Nat) (l : List Byte) : (s.putRegBytes a n l).mem = s.mem := by
  unfold State.putRegBytes
  refine State.each_keeps (fun t => t.mem = s.mem) _ (fun t i h => ?_) _ s rfl
  exact (t.wr_mem _ _).trans h

theorem State.measure_mem (s : State) (r kind : Nat) (x : List Byte) : (s.measure r kind x).mem = s.mem := by
  have put := s.putRegBytes_mem (measReg r) 4 (sm3 (s.meas r ++ x))
  unfold State.measure
  generalize s.putRegBytes (measReg r) 4 (sm3 (s.meas r ++ x)) = t at put
  dsimp only
  split
  · exact put
  · exact (t.fset_mem _ _ _).trans put

/-- Measuring a partition's program leaves the partition registers. -/
theorem State.fget_measure_pt (s : State) {p q kind : Nat} (hp : p < 16) (x : List Byte) (f : Fld) (h : f.half = 0) :
    (s.measure (16 + p) kind x).fget (R.PT_WDIR q) f = s.fget (R.PT_WDIR q) f := by
  refine (s.keepsRegs_measure _ _ _).fget ?_
  have := Nat.not_lt.mpr (Nat.le_add_right 16 p)
  simp only [h, measReg, if_neg this, R.PT_WDIR, R.SEC_PMEAS, R.SEC_STAT, Blk.pt, Blk.sec]
  omega

theorem cmdWeightDir_ok {fn : Fun} {p : Part} {s : State} {x : PartSt} {addr : Nat} (hm : s.Mail) (hf : OwnFn fn p) (hx : s.part p = some x)
    (hr : x.running = false) (h0 : addr % 65536 = 0) (h48 : addr < 2 ^ 48) (ht : s.readTouch p (addr + 0x20) 32 = s) :
    cmdWeightDir fn p addr s = ((s.fset (R.PT_WDIR p) F.PT_WDIR_ADDR (addr / 65536)).measure (16 + p) 8 (s.locBytes p (addr + 0x20) 32).1).told
      [R.PT_WDIR p] := by
  unfold cmdWeightDir
  dsimp only
  rw [State.cmd_ok ((firstBad_none_iff _).mpr (by simpa [badAt, refuse, hx, hr, h0, ownPart_false hf] using h48)), State.cmdRead_sound hm.2 ht]
  rfl

/-! ## SLICE_SET and SERVE_STATS -/

theorem cmdSliceSet_ok {fn : Fun} {p : Part} {s : State} {grp quantum prio : Nat} (hf : fn.val = 0) (he : s.Exists p) (hg : grp ≤ 15)
    (hq : quantum ≤ 10000) (hp : prio ≤ 15) :
    cmdSliceSet fn p grp quantum prio s =
      (((s.fset (R.PT_SLICE p) F.PT_SLICE_GROUP grp).fset (R.PT_SLICE p) F.PT_SLICE_QUANTUM quantum).fset (R.PT_SLICE p) F.PT_SLICE_PRIO prio).told
        [R.PT_SLICE p] := by
  obtain ⟨x, hx⟩ := Option.isSome_iff_exists.mp he
  exact State.cmd_ok ((firstBad_none_iff _).mpr (by simp [badAt, pfOnly, hx, hf, hg, hq, hp]))

/-- The counters, slots and indices that SERVE_STATS answers. -/
theorem cmdServeStats_ok {fn : Fun} {p : Part} {s : State} {x : PartSt} (hf : OwnFn fn p) (hx : s.part p = some x) (clr : Bool) :
    cmdServeStats fn p clr s = (if clr then (s.wr (R.PT_CNT0 p) 0).wr (R.PT_CNT1 p) 0 else s,
      .ok (lay ([(8, (s.rd (R.PT_CNT0 p)).toNat), (8, (s.rd (R.PT_CNT1 p)).toNat), (4, (x.seqs.filter Seq.slotted).length),
        (4, (x.seqs.filter fun q => decide (q.mode = .paused)).length)] ++ (List.range 6).flatMap fun r => [(4, s.prod p r), (4, s.cons p r)]))) := by
  unfold cmdServeStats
  rw [State.cmd_ok ((firstBad_none_iff _).mpr (by simp [badAt, hx, ownPart_false hf])), hx]
  rfl

/-! ## PART_RINGS -/

/-- One ring written by PART_RINGS. -/
def State.ringSet (s : State) (p : Nat) (r : RingSet) : State :=
  ((s.fset (R.PT_RB p r.ring) F.PT_RB_BASE (r.base / 4096)).fset (R.PT_RC p r.ring) F.PT_RC_LOG2N r.log2n).fset (R.PT_RC p r.ring) F.PT_RC_EN (bit r.on)

theorem ptRc_ne_ptRb (p i j : Nat) : R.PT_RC p i + 8 * 0 ≠ R.PT_RB p j + 8 * 0 := by
  simp only [R.PT_RC, R.PT_RB]
  omega

theorem ptRb_inj {p i j : Nat} (h : R.PT_RB p i = R.PT_RB p j) : i = j := by
  simp only [R.PT_RB] at h
  omega

theorem ptRc_inj {p i j : Nat} (h : R.PT_RC p i = R.PT_RC p j) : i = j := by
  simp only [R.PT_RC] at h
  omega

/-- The registers of a ring after it was written. -/
theorem State.ringSet_same (s : State) (p : Nat) (r : RingSet) :
    (s.ringSet p r).fget (R.PT_RB p r.ring) F.PT_RB_BASE = r.base / 4096 % 2 ^ 52 ∧
      (s.ringSet p r).fget (R.PT_RC p r.ring) F.PT_RC_LOG2N = r.log2n % 2 ^ 5 ∧ (s.ringSet p r).fget (R.PT_RC p r.ring) F.PT_RC_EN = bit r.on % 2 := by
  unfold State.ringSet
  refine ⟨?_, ?_, State.fget_fset _ _ _ (by decide) _⟩
  · rw [State.fget_fset_other _ _ _ _ (ptRc_ne_ptRb p _ _).symm, State.fget_fset_other _ _ _ _ (ptRc_ne_ptRb p _ _).symm]
    exact State.fget_fset _ _ _ (by decide) _
  · simp (disch := decide) only [State.fget_fset_field]
    exact State.fget_fset _ _ _ (by decide) _

theorem State.keepsRegs_ringSet (s : State) (p : Nat) (r : RingSet) :
    s.KeepsRegs (s.ringSet p r) fun a => a = R.PT_RB p r.ring ∨ a = R.PT_RC p r.ring :=
  ((s.keepsRegs_fset (.inl rfl) _).trans (State.keepsRegs_fset _ (.inr rfl) _)).trans (State.keepsRegs_fset _ (.inr rfl) _)

/-- Records that waited for the ring of completions are put there, and only its PROD register differs. -/
theorem State.keepsRegs_ledgerDrain (s : State) (p n : Nat) : s.KeepsRegs (s.ledgerDrain p n) fun a => a = R.PT_RP p 5 := by
  induction n generalizing s with
  | zero => exact .refl s
  | succ n ih =>
    have put (l : List Byte) : s.KeepsRegs (s.ringPut p 5 l) fun a => a = R.PT_RP p 5 :=
      State.KeepsRegs.trans (t := s.putHost (s.ringAddr p 5 (s.prod p 5)) l) (State.keepsRegs_of_regs rfl)
        (State.keepsRegs_fset (A := fun a => a = R.PT_RP p 5) _ rfl _)
    unfold State.ledgerDrain
    split
    · exact .refl s
    · split
      · exact .refl s
      · split
        · exact ((put _).trans (State.keepsRegs_of_regs (State.setPart_regs ..))).trans (ih _)
        · exact .refl s

/-- The rings that a list sets, one setting for each ring: each reads as it was set (R432). -/
theorem State.ringsSet_get (s : State) (p : Nat) {rings : List RingSet} (nd : (rings.map (·.ring)).Nodup)
    (h : ∀ r ∈ rings, r.base % 4096 = 0 ∧ r.base < 2 ^ 64 ∧ r.log2n ≤ 16) {r : RingSet} (hr : r ∈ rings) :
    let t := (s.each rings fun s r => s.ringSet p r).ledgerDrain p 65536
    t.ringBase p r.ring = r.base ∧ t.ringN p r.ring = 2 ^ r.log2n ∧ t.ringOn p r.ring = r.on := by
  have same {a b : RingSet} (ha : a ∈ rings) (hb : b ∈ rings) (e : a.ring.val = b.ring.val) : a = b :=
    List.inj_on_of_nodup_map nd ha hb (Fin.ext e)
  have base := State.fget_each (fun s r => s.ringSet p r) (fun r => R.PT_RB p r.ring) F.PT_RB_BASE (fun r => r.base / 4096 % 2 ^ 52) rings
    (fun s a _ => (s.ringSet_same p a).1)
    (fun s a _ b _ ne => (s.keepsRegs_ringSet p a).fget (fun e => e.elim (fun e => ne e.symm) fun e => ptRc_ne_ptRb p _ _ e.symm))
    (fun a ha b hb e => by rw [same ha hb (ptRb_inj e)]) s r hr
  have other (f : Fld) (hf : f.half = 0) (s : State) (a b : RingSet) (ne : R.PT_RC p a.ring ≠ R.PT_RC p b.ring) :
      (s.ringSet p a).fget (R.PT_RC p b.ring) f = s.fget (R.PT_RC p b.ring) f :=
    (s.keepsRegs_ringSet p a).fget (by rw [hf]; exact fun e => e.elim (ptRc_ne_ptRb p _ _) fun e => ne e.symm)
  have log2n := State.fget_each (fun s r => s.ringSet p r) (fun r => R.PT_RC p r.ring) F.PT_RC_LOG2N (fun r => r.log2n % 2 ^ 5) rings
    (fun s a _ => (s.ringSet_same p a).2.1) (fun s a _ b _ ne => other _ rfl s a b ne)
    (fun a ha b hb e => by rw [same ha hb (ptRc_inj e)]) s r hr
  have en := State.fget_each (fun s r => s.ringSet p r) (fun r => R.PT_RC p r.ring) F.PT_RC_EN (fun r => bit r.on % 2) rings
    (fun s a _ => (s.ringSet_same p a).2.2) (fun s a _ b _ ne => other _ rfl s a b ne)
    (fun a ha b hb e => by rw [same ha hb (ptRc_inj e)]) s r hr
  have drain := (s.each rings fun s r => s.ringSet p r).keepsRegs_ledgerDrain p 65536
  have rb : ¬ R.PT_RB p r.ring + 8 * 0 = R.PT_RP p 5 := by simp only [R.PT_RB, R.PT_RP]; omega
  have rc : ¬ R.PT_RC p r.ring + 8 * 0 = R.PT_RP p 5 := by simp only [R.PT_RC, R.PT_RP]; omega
  obtain ⟨h0, h64, h16⟩ := h r hr
  refine ⟨?_, ?_, ?_⟩
  · rw [State.ringBase, drain.fget rb, base]
    omega
  · rw [State.ringN, drain.fget rc, log2n, Nat.mod_eq_of_lt (by omega)]
  · rw [State.ringOn, State.flag, drain.fget rc, en]
    cases r.on <;> rfl

theorem cmdPartRings_ok {fn : Fun} {p : Part} {s : State} (hf : OwnFn fn p) (he : s.Exists p) {rings : List RingSet}
    (h : ∀ r ∈ rings, r.base % 4096 = 0 ∧ r.base < 2 ^ 64 ∧ 6 ≤ r.log2n ∧ r.log2n ≤ 16 ∧ (s.ringOn p r.ring = true → s.ringUsed p r.ring = 0)) :
    cmdPartRings fn p rings s = ((s.each rings fun s r => s.ringSet p r).ledgerDrain p 65536).told
      (rings.flatMap fun r => [R.PT_RB p r.ring, R.PT_RC p r.ring]) := by
  obtain ⟨x, hx⟩ := Option.isSome_iff_exists.mp he
  refine State.cmd_ok ((firstBad_none_iff _).mpr ?_)
  simp only [List.forall_mem_cons, List.not_mem_nil, false_imp_iff, implies_true, and_true]
  refine ⟨State.part_ne_none hx, ?_, ownPart_false hf, ?_⟩
  · refine List.any_eq_false.mpr fun r hr => ?_
    obtain ⟨h0, h64, h6, h16, _⟩ := h r hr
    rw [decide_eq_true_iff]
    omega
  · refine List.any_eq_false.mpr fun r hr => ?_
    obtain ⟨_, _, _, _, unused⟩ := h r hr
    rw [Bool.and_eq_true, decide_eq_true_iff]
    exact fun ⟨on, used⟩ => used (unused on)

end Sys2Proof.Machine
end

section
/-! PROOF. Tiles given to a partition: their banks turn ON (R95 to R99), and PART_CREATE gives every named tile that no partition holds. -/

namespace Sys2Proof.Machine

/-! ## Banks that turn ON (R95 to R97) -/

/-- No target of the tile's banks is held, `tr` are its transitions, and bank `b` reads `f b`. -/
structure State.BanksAt (s : State) (g : Nat) (tr : List (Nat × Nat)) (f : Nat → Nat) : Prop where
  trans : (s.tile g).trans = tr
  held : (s.tile g).held = []
  cur : ∀ b < 32, s.fget (R.BNK_STAT g) (F.BNK_STAT_CUR b) = f b

theorem State.bankClear_tiles (s : State) (g b : Nat) : (s.bankClear g b).tiles = s.tiles := by
  cases s
  simp only [State.bankClear]

theorem bnkStat_ne_bnkPwr (g : Nat) : R.BNK_STAT g ≠ R.BNK_PWR g + 8 * 0 := by
  simp only [R.BNK_STAT, R.BNK_PWR]
  omega

theorem bnkCur_ok {b : Nat} (h : b < 32) : (F.BNK_STAT_CUR b).ok := ⟨by simp [F.BNK_STAT_CUR], by simp only [F.BNK_STAT_CUR]; omega⟩

namespace State.BanksAt
variable {s t : State} {g b : Nat} {tr : List (Nat × Nat)} {f : Nat → Nat}

/-- A change that leaves the banks' states and transitions. -/
theorem congr (h : s.BanksAt g tr f) (ht : (t.tile g).trans = (s.tile g).trans ∧ (t.tile g).held = (s.tile g).held)
    (hr : t.rd (R.BNK_STAT g) = s.rd (R.BNK_STAT g)) : t.BanksAt g tr f :=
  ⟨ht.1.trans h.trans, ht.2.trans h.held, fun b hb => by rw [← h.cur b hb]; exact congrArg (fldGet (F.BNK_STAT_CUR b)) hr⟩

theorem walkFrame (h : s.BanksAt g tr f) (k : s.WalkFrame g t) : t.BanksAt g tr f := by
  refine h.congr (k.banks g) (k.regs _ ?_)
  simp [WalkRegs, R.BNK_STAT, R.TIL_FAULT, R.TIL_FADDR, R.TIL_CTL, R.AW_CNT0, R.AW_CNT1, R.AW_CNT3]

theorem pump (h : s.BanksAt g tr f) : (s.pump g).BanksAt g tr f := h.walkFrame (s.walkFrame_walkPump g 4096)

theorem transOf_nil (h : s.BanksAt g [] f) (b : Nat) : (s.tile g).transOf b = none := by
  rw [TileSt.transOf, h.trans]
  rfl

/-- ON asked for at a bank without a transition starts one, unless the bank is ON. -/
theorem bankGo (h : s.BanksAt g [] f) (hb : b < 32) : (s.bankGo g b 3).BanksAt g (if f b = 3 then [] else [(b, 3)]) f := by
  unfold State.bankGo
  dsimp only
  rw [h.cur b hb]
  split
  · exact h
  · rw [if_neg fun e => absurd e.2 (by decide)]
    refine ⟨?_, ?_, fun c hc => h.cur c hc⟩
    · rw [State.tile_modTile, if_pos rfl]
      exact congrArg (· ++ [(b, 3)]) h.trans
    · rw [State.tile_modTile, if_pos rfl]
      exact h.held

theorem fset_bnkPwr (h : s.BanksAt g [] f) (b n : Nat) : (s.fset (R.BNK_PWR g) (F.BNK_PWR_TGT b) n).BanksAt g [] f := by
  have tiles : (s.fset (R.BNK_PWR g) (F.BNK_PWR_TGT b) n).tile g = s.tile g := State.tile_congr (State.fset_tiles ..) g
  refine h.congr (by rw [tiles]; exact ⟨rfl, rfl⟩) ?_
  exact State.rd_fset_other s _ n (bnkStat_ne_bnkPwr g)

theorem bankTarget (h : s.BanksAt g [] f) (hb : b < 32) : (s.bankTarget g b 3).BanksAt g (if f b = 3 then [] else [(b, 3)]) f := by
  unfold State.bankTarget
  rw [if_neg (by decide)]
  dsimp only
  rw [(h.fset_bnkPwr b 3).transOf_nil b]
  exact (h.fset_bnkPwr b 3).bankGo hb

/-- A bank's transition to ON ends: the bank reads ON and the others as before. -/
theorem bankEnd (h : s.BanksAt g [(b, 3)] f) (hb : b < 32) : (s.bankEnd g b).BanksAt g [] fun c => if c = b then 3 else f c := by
  have tgt : (s.tile g).transOf b = some 3 := by
    rw [TileSt.transOf, h.trans]
    simp
  unfold State.bankEnd
  split
  next e => exact absurd (tgt.symm.trans e) nofun
  next x e =>
  obtain rfl : 3 = x := Option.some.inj (tgt.symm.trans e)
  extract_lets old t u v w
  have tiles : u.tile g = s.tile g := by
    refine State.tile_congr ?_ g
    simp only [u]
    split
    · exact (State.bankClear_tiles _ g b).trans (State.fset_tiles ..)
    · exact State.fset_tiles ..
  have regs : u.regs = t.regs := by
    simp only [u]
    split
    · exact State.bankClear_regs ..
    · rfl
  have none : v = none := by
    simp only [v, tiles, h.held]
    rfl
  clear_value v
  subst none
  refine ⟨?_, ?_, fun c hc => ?_⟩
  · simp [w, State.tile_modTile, tiles, h.trans]
  · simp [w, State.tile_modTile, tiles, h.held]
  · have stat : w.fget (R.BNK_STAT g) (F.BNK_STAT_CUR c) = t.fget (R.BNK_STAT g) (F.BNK_STAT_CUR c) := by
      rw [State.fget, State.fget, State.rd, State.rd, State.modTile_regs, regs]
    rw [stat]
    by_cases e : c = b
    · rw [e, if_pos rfl]
      refine State.fget_fset_lt _ _ _ (bnkCur_ok hb) ?_
      have : (F.BNK_STAT_CUR b).hi + 1 - (F.BNK_STAT_CUR b).lo = 2 := by simp only [F.BNK_STAT_CUR]; omega
      rw [this]
      decide
    · rw [if_neg e, ← h.cur c hc]
      refine s.fget_fset_field _ (F.BNK_STAT_CUR b) (F.BNK_STAT_CUR c) (bnkCur_ok hb) rfl ?_ 3
      simp only [F.BNK_STAT_CUR]
      omega

theorem bankOn_idle (h : s.BanksAt g [] f) (b : Nat) : (s.bankOn g b).BanksAt g [] f := by
  have e : s.bankEnd g b = s := by rw [State.bankEnd, h.transOf_nil b]
  rw [State.bankOn, e]
  exact h.pump

/-- A bank brought to ON at once reads ON, and the others as before. -/
theorem bankTo (h : s.BanksAt g [] f) (hb : b < 32) : (s.bankTo g b 3).BanksAt g [] fun c => if c = b then 3 else f c := by
  have t := h.bankTarget hb
  rw [State.bankTo]
  refine bankOn_idle ?_ b
  by_cases e : f b = 3
  · rw [if_pos e] at t
    have same : (fun c => if c = b then 3 else f c) = f := funext fun c => by
      by_cases k : c = b
      · rw [if_pos k, k, e]
      · rw [if_neg k]
    rw [same]
    exact t.bankOn_idle b
  · rw [if_neg e] at t
    exact (t.bankEnd hb).pump

/-- Banks brought to ON one after another read ON. -/
theorem each_bankTo (l : List Nat) (hl : ∀ b ∈ l, b < 32) (h : s.BanksAt g [] f) :
    (s.each l fun s b => s.bankTo g b 3).BanksAt g [] fun c => if c ∈ l then 3 else f c := by
  unfold State.each
  induction l generalizing s f with
  | nil => simpa using h
  | cons b r ih =>
    have rest := ih (fun c hc => hl c (List.mem_cons_of_mem b hc)) (h.bankTo (hl b List.mem_cons_self))
    refine ⟨rest.trans, rest.held, fun c hc => (rest.cur c hc).trans ?_⟩
    by_cases k : c ∈ r <;> by_cases e : c = b <;> simp [k, e]

theorem bankAcc (h : s.BanksAt g [] f) (hb : b < 32) (on : f b = 3) : s.bankAcc g b = .ok := by
  rw [State.bankAcc, h.transOf_nil b]
  dsimp only
  rw [h.cur b hb, if_pos on]

end State.BanksAt

/-! ## A tile given (R99) -/

/-- A tile's counters cleared, its island on and its owner written: what stands before its banks turn ON. -/
def State.tileOwned (s : State) (p g : Nat) : State :=
  ((((s.cntClear g).arClear g).fset (R.CLK_ISL g) F.CLK_ISL_ON 1).fset (R.TIL_OWNER g) F.TIL_OWNER_PART p).fset (R.TIL_OWNER g) F.TIL_OWNER_ASSIGNED 1

theorem State.giveTile_eq (s : State) (p g : Nat) : s.giveTile p g = (s.tileOwned p g).allBanks g 3 := rfl

/-- Neither the owner nor the counters of a tile are its banks. -/
theorem State.tileOwned_banks (s : State) (p g : Nat) :
    ((s.tileOwned p g).tile g).trans = (s.tile g).trans ∧ ((s.tileOwned p g).tile g).held = (s.tile g).held := by
  have tiles : (s.tileOwned p g).tile g = (s.cntClear g).tile g := by
    refine State.tile_congr ?_ g
    rw [State.tileOwned, State.fset_tiles, State.fset_tiles, State.fset_tiles]
    exact ((State.wr_tiles ..).trans (State.wr_tiles ..)).trans (State.wr_tiles ..)
  rw [tiles, State.cntClear, State.tile_modTile, if_pos rfl]
  have same : (((s.clearRegs (R.TIL_ECNTA g 0) 0xF8).clearRegs (R.TIL_SYNCNT0 g) 16).clearRegs (R.AW_CNT0 g) 32).tile g = s.tile g :=
    State.tile_congr (((State.clearRegs_tiles ..).trans (State.clearRegs_tiles ..)).trans (State.clearRegs_tiles ..)) g
  dsimp only
  rw [same]
  exact ⟨rfl, rfl⟩

/-- A tile given has every bank ON (R99). -/
theorem State.giveTile_on {s : State} {g : Nat} (p : Nat) (ht : (s.tile g).trans = []) (hh : (s.tile g).held = []) {b : Nat} (hb : b < 32) :
    (s.giveTile p g).bankAcc g b = .ok := by
  obtain ⟨kt, kh⟩ := s.tileOwned_banks p g
  have start : (s.tileOwned p g).BanksAt g [] fun b => (s.tileOwned p g).fget (R.BNK_STAT g) (F.BNK_STAT_CUR b) :=
    ⟨kt.trans ht, kh.trans hh, fun _ _ => rfl⟩
  rw [State.giveTile_eq, State.allBanks]
  exact (start.each_bankTo (List.range 32) fun b => List.mem_range.mp).bankAcc hb (if_pos (List.mem_range.mpr hb))

/-! ## What giving tiles leaves -/

theorem State.keepsRegs_clearRegs {A : Nat → Prop} (s : State) {a n : Nat} (h : ∀ b, a ≤ b → b < a + n → A b) : s.KeepsRegs (s.clearRegs a n) A :=
  fun b hb => by rw [State.rd_clearRegs, if_neg fun k => hb (h b k.1 k.2)]

theorem State.tilePart_congr {s t : State} {g : Nat} (h : t.rd (R.TIL_OWNER g) = s.rd (R.TIL_OWNER g)) : t.tilePart g = s.tilePart g := by
  have same (f : Fld) (hf : f.half = 0) : t.fget (R.TIL_OWNER g) f = s.fget (R.TIL_OWNER g) f := by
    rw [State.fget, State.fget, hf]
    exact congrArg (fldGet f) h
  rw [State.tilePart, State.tilePart, State.flag, State.flag, same _ rfl, same _ rfl]

/-- The registers of a tile and its island's clock. -/
def TileRegs (g a : Nat) : Prop := (Blk.til g ≤ a ∧ a < Blk.til g + 0x10000) ∨ a = R.CLK_ISL g

theorem tileRegs_at {g o : Nat} (h : o < 0x10000) : TileRegs g (Blk.til g + o) := .inl ⟨by omega, by omega⟩

theorem State.keepsRegs_tileOwned (s : State) (p g : Nat) : s.KeepsRegs (s.tileOwned p g) (TileRegs g) := by
  have block {a n : Nat} (s : State) (o : Nat) (e : a = Blk.til g + o) (h : o + n ≤ 0x10000) : s.KeepsRegs (s.clearRegs a n) (TileRegs g) :=
    s.keepsRegs_clearRegs fun b hl hh => .inl ⟨by omega, by omega⟩
  have cnt : s.KeepsRegs (s.cntClear g) (TileRegs g) :=
    (((block s 0x8000 rfl (by decide)).trans (block _ 0x8140 rfl (by decide))).trans (block _ 0x8180 rfl (by decide))).trans
      (State.keepsRegs_of_regs (State.modTile_regs ..))
  have ar : (s.cntClear g).KeepsRegs ((s.cntClear g).arClear g) (TileRegs g) :=
    ((State.keepsRegs_wr _ (tileRegs_at (by decide)) _).trans (State.keepsRegs_wr _ (tileRegs_at (by decide)) _)).trans
      (State.keepsRegs_wr _ (tileRegs_at (by decide)) _)
  have owner (s : State) (f : Fld) (h : f.half = 0) (n : Nat) : s.KeepsRegs (s.fset (R.TIL_OWNER g) f n) (TileRegs g) :=
    s.keepsRegs_fset (by rw [h]; exact tileRegs_at (o := 0x20) (by decide)) n
  exact (((cnt.trans ar).trans (State.keepsRegs_fset _ (.inr rfl) _)).trans (owner _ _ rfl _)).trans (owner _ _ rfl _)

theorem State.keepsRegs_giveTile (s : State) (p g : Nat) : s.KeepsRegs (s.giveTile p g) (TileRegs g) :=
  (s.keepsRegs_tileOwned p g).trans ((State.keepsRegs_allBanks _ g 3).mono fun _ h => .inl ⟨(bankRegs_range h).1, (bankRegs_range h).2.1⟩)

theorem tileRegs_bounds {g a : Nat} (hg : g < 1536) (h : TileRegs g a) :
    (0x380000 ≤ a ∧ a < 0x400000) ∨ (0x10000000 ≤ a ∧ 0x800000 ≤ a % 0x1000000) := by
  rcases h with ⟨hl, hh⟩ | rfl
  · rw [til_eq hg] at hl hh
    omega
  · exact .inl (clkIsl_range (by omega))

theorem tileRegs_owner {g h : Nat} (hg : g < 1536) (hh : h < 1536) (ne : h ≠ g) : ¬ TileRegs g (R.TIL_OWNER h) := by
  rintro (⟨l, u⟩ | e)
  · rw [R.TIL_OWNER, til_eq hg, til_eq hh] at *
    omega
  · have b := clkIsl_range (i := g) (by omega)
    rw [← e, R.TIL_OWNER, til_eq hh] at b
    omega

/-- A tile given is the partition's (R99). -/
theorem State.tilePart_giveTile (s : State) {p : Nat} (hp : p < 16) (g : Nat) : (s.giveTile p g).tilePart g = some p := by
  have owned : (s.tileOwned p g).tilePart g = some p := by
    have part : (s.tileOwned p g).fget (R.TIL_OWNER g) F.TIL_OWNER_PART = p := by
      rw [State.tileOwned, State.fget_fset_field _ _ F.TIL_OWNER_ASSIGNED F.TIL_OWNER_PART (by decide) rfl (by decide)]
      exact State.fget_fset_lt _ _ _ (by decide) hp
    have assigned : (s.tileOwned p g).flag (R.TIL_OWNER g) F.TIL_OWNER_ASSIGNED = true := State.flag_fset_one _ _ _ (by decide)
    rw [State.tilePart, part, assigned, if_pos rfl]
  rw [← owned, State.giveTile_eq]
  exact State.tilePart_congr (State.keepsRegs_allBanks _ g 3 _ fun h => (bankRegs_range h).2.2 rfl)

/-- Tiles given one after another are the partition's, and every other tile is whose it was. -/
theorem State.tilePart_each_giveTile {p : Nat} (hp : p < 16) (gs : List Nat) (hgs : ∀ g ∈ gs, g < 1536) (s : State) {h : Nat} (hh : h < 1536) :
    (s.each gs fun s g => s.giveTile p g).tilePart h = if h ∈ gs then some p else s.tilePart h := by
  unfold State.each
  induction gs generalizing s with
  | nil => rfl
  | cons g r ih =>
    rw [List.foldl_cons, ih (fun k hk => hgs k (List.mem_cons_of_mem g hk))]
    by_cases k : h ∈ r
    · rw [if_pos k, if_pos (List.mem_cons_of_mem g k)]
    · rw [if_neg k]
      by_cases e : h = g
      · rw [e, s.tilePart_giveTile hp g, if_pos List.mem_cons_self]
      · rw [if_neg (fun m => (List.mem_cons.mp m).elim e k)]
        exact State.tilePart_congr (s.keepsRegs_giveTile p g _ (tileRegs_owner (hgs g List.mem_cons_self) hh e))

/-! ## Regions shown at a die, and islands in use -/

/-- The clocks of the islands, and the registers of a die below those of its tiles. -/
def ShowRegs (a : Nat) : Prop := (0x380000 ≤ a ∧ a < 0x400000) ∨ (0x10000000 ≤ a ∧ a % 0x1000000 < 0x10000)

theorem dieRgn_range {d p r : Nat} (hd : d < 24) (hp : p < 16) (hr : r < 32) :
    0x10000000 ≤ R.DIE_RGN d p r ∧ R.DIE_RGN d p r % 0x1000000 < 0xFFF0 := by
  have := dieBase_mod d
  have base : 0x10000000 ≤ dieBase d := by rw [dieBase, if_pos hd]; omega
  rw [R.DIE_RGN, Blk.die, if_pos hd]
  omega

theorem State.keepsRegs_rgnShow (s : State) {p d : Nat} (hp : p < 16) (hd : d < 24) : s.KeepsRegs (s.rgnShow p d) ShowRegs := by
  refine State.keepsRegs_each _ (fun s r hr => ?_) s
  have ⟨l, u⟩ := dieRgn_range hd hp (List.mem_range.mp hr)
  exact (s.keepsRegs_wr (.inr ⟨l, by omega⟩) _).trans (State.keepsRegs_wr _ (.inr ⟨by omega, by omega⟩) _)

theorem State.keepsRegs_markUsed (s : State) (d : Nat) : s.KeepsRegs (s.markUsed d) ShowRegs := by
  unfold State.markUsed
  split
  · exact .refl s
  next hd =>
    dsimp only
    refine State.keepsRegs_each _ (fun s g hg => s.keepsRegs_fset (.inl ?_) _) s
    obtain ⟨t, ht, rfl⟩ := List.mem_map.mp hg
    have := List.mem_range.mp ht
    exact clkIsl_range (by omega)

theorem showRegs_owner {g : Nat} (hg : g < 1536) : ¬ ShowRegs (R.TIL_OWNER g) := by
  unfold ShowRegs
  rw [R.TIL_OWNER, til_eq hg]
  omega

/-- What giving tiles shows at their dies. -/
theorem State.keepsRegs_showDies (s : State) {p : Nat} (hp : p < 16) (gs : List Nat) (hgs : ∀ g ∈ gs, g < 1536) :
    s.KeepsRegs (s.each ((gs.map (· / 64)).eraseDups) fun s d => (s.rgnShow p d).markUsed d) ShowRegs := by
  refine State.keepsRegs_each _ (fun s d hd => ?_) s
  obtain ⟨g, hg, rfl⟩ := List.mem_map.mp (List.mem_eraseDups.mp hd)
  have := hgs g hg
  exact (s.keepsRegs_rgnShow hp (by omega)).trans (State.keepsRegs_markUsed _ _)

theorem State.tilePart_giveTiles (s : State) {p : Nat} (hp : p < 16) (gs : List Nat) (hgs : ∀ g ∈ gs, g < 1536) {h : Nat} (hh : h < 1536) :
    (s.giveTiles p gs).tilePart h = if h ∈ gs then some p else s.tilePart h := by
  rw [← s.tilePart_each_giveTile hp gs hgs hh]
  exact State.tilePart_congr (State.keepsRegs_showDies _ hp gs hgs _ (showRegs_owner hh))

/-- Giving tiles leaves the registers of the steward but the islands' clocks. -/
theorem State.keepsRegs_giveTiles (s : State) {p : Nat} (hp : p < 16) (gs : List Nat) (hgs : ∀ g ∈ gs, g < 1536) :
    s.KeepsRegs (s.giveTiles p gs) fun a => (0x380000 ≤ a ∧ a < 0x400000) ∨ 0x10000000 ≤ a := by
  have give : s.KeepsRegs (s.each gs fun s g => s.giveTile p g) fun a => (0x380000 ≤ a ∧ a < 0x400000) ∨ 0x10000000 ≤ a :=
    State.keepsRegs_each _ (fun s g hg => (s.keepsRegs_giveTile p g).mono fun a ha => (tileRegs_bounds (hgs g hg) ha).imp id (·.1)) s
  exact give.trans ((State.keepsRegs_showDies _ hp gs hgs).mono fun a ha => ha.imp id (·.1))

end Sys2Proof.Machine
end

section
/-! PROOF. PART_CREATE (R99, R432): the partition's registers at their reset values, its counters zero, and its tiles given. -/

namespace Sys2Proof.Machine

theorem maskTiles_lt {l : List (BitVec 8)} {g : Nat} (h : g ∈ maskTiles l) : g < 1536 := by
  obtain ⟨d, hd, h⟩ := List.mem_flatMap.mp h
  obtain ⟨c, hc, h⟩ := List.mem_flatMap.mp h
  have hd := List.mem_range.mp hd
  have hc := List.mem_range.mp hc
  split at h
  · obtain ⟨t, ht, rfl⟩ := List.mem_map.mp h
    have := List.mem_range.mp ht
    omega
  · exact absurd h List.not_mem_nil

/-! ## The registers of a partition at reset -/

theorem resetOf_ptRc : ∀ p < 16, ∀ r < 6, fldGet F.PT_RC_EN (resetOf (R.PT_RC p r)) = 0 := by decide +kernel

theorem resetOf_ptCtl : ∀ p < 16, fldGet F.PT_CTL_STATE (resetOf (R.PT_CTL p)) = 0 := by decide +kernel

/-- A partition's registers at reset, its counters and its measurement zero, and a new epoch: what stands before its tiles are given. -/
def State.partCleared (s : State) (p : Nat) : State :=
  let s := (s.clearRegs (R.PT_CTL p) 0x190).each (partCounters p) fun s a => s.wr a 0
  let s := s.putRegBytes (measReg (16 + p)) 4 (List.replicate 32 0)
  { s with sec := { s.sec with epochs := spPut (fun _ => 0) s.sec.epochs p ((spGet (fun _ => 0) s.sec.epochs p + 1) % 2 ^ 32) } }

/-- Where the counters and the measurement of a partition stand. -/
def CountRegs (p a : Nat) : Prop :=
  (0x202000 ≤ a ∧ a < 0x203000) ∨ a = R.PT_CNT0 p ∨ a = R.PT_CNT1 p ∨ (0x4A0000 ≤ a ∧ a < 0x10000000) ∨ 0x30000000 ≤ a

theorem tqBlock_range {d : Nat} (h : d < 8) : (Blk.tq (gwDie d) = 0x4A0000) ∨ 0x30000000 ≤ Blk.tq (gwDie d) := by
  unfold Blk.tq dieBase gwDie
  split
  · split
    · omega
    · split
      · omega
      · omega
  · exact .inl rfl

theorem fabBlock_range {l : Nat} (h : l < 3) : 0x30000000 ≤ Blk.fab l := by
  unfold Blk.fab dieBase
  rw [if_neg (by omega), if_neg (by omega), if_pos (by omega)]
  omega

theorem partCounters_countRegs {p a : Nat} (hp : p < 16) (h : a ∈ partCounters p) : CountRegs p a := by
  unfold partCounters at h
  rcases List.mem_cons.mp h with rfl | h
  · exact .inr (.inl rfl)
  rcases List.mem_cons.mp h with rfl | h
  · exact .inr (.inr (.inl rfl))
  refine .inr (.inr (.inr ?_))
  rcases List.mem_append.mp h with h | h
  · obtain ⟨d, hd, h⟩ := List.mem_flatMap.mp h
    have b := tqBlock_range (List.mem_range.mp hd)
    simp only [List.mem_cons, List.not_mem_nil, or_false, R.TQ_STALL0, R.TQ_STALL1, R.TQ_STALL2, R.TQ_STALL3] at h
    omega
  · obtain ⟨l, hl, h⟩ := List.mem_flatMap.mp h
    have b := fabBlock_range (l := l) (by simp only [List.mem_cons, List.not_mem_nil, or_false] at hl; omega)
    simp only [List.mem_cons, List.not_mem_nil, or_false, R.FBP_CNT0, R.FBP_CNT1, R.FBP_CNT2] at h
    omega

theorem measReg_pt {p : Nat} : measReg (16 + p) = 0x202000 + p * 0x20 := by
  rw [measReg, if_neg (by omega), Nat.add_sub_cancel_left]
  simp only [R.SEC_PMEAS, Blk.sec]
  omega

/-- The partition's registers are cleared first, and only its counters and its measurement are written after. -/
theorem State.keepsRegs_partCleared (s : State) {p : Nat} (hp : p < 16) : (s.clearRegs (R.PT_CTL p) 0x190).KeepsRegs (s.partCleared p) (CountRegs p) := by
  have cnt := State.keepsRegs_each (A := CountRegs p) (partCounters p) (fun s a ha => s.keepsRegs_wr (partCounters_countRegs hp ha) 0)
    (s.clearRegs (R.PT_CTL p) 0x190)
  have meas (s : State) : s.KeepsRegs (s.putRegBytes (measReg (16 + p)) 4 (List.replicate 32 0)) (CountRegs p) :=
    State.keepsRegs_each _ (fun s i hi => s.keepsRegs_wr (.inl (by
      have := List.mem_range.mp hi
      rw [measReg_pt]
      omega)) _) s
  have both := cnt.trans (meas _)
  unfold State.partCleared
  dsimp only
  generalize ((s.clearRegs (R.PT_CTL p) 0x190).each (partCounters p) fun s a => s.wr a 0).putRegBytes (measReg (16 + p)) 4 (List.replicate 32 0) = t at both
  exact both.trans (State.keepsRegs_of_regs rfl)

theorem countRegs_below {p a : Nat} (hp : p < 16) (hl : 0x400000 ≤ a) (hh : a < R.PT_CTL p + 0x180) : ¬ CountRegs p a := by
  unfold CountRegs
  simp only [R.PT_CTL, R.PT_CNT0, R.PT_CNT1, Blk.pt] at *
  omega

/-- A register of a partition below its counters reads its reset value. -/
theorem State.rd_partCleared (s : State) {p a : Nat} (hp : p < 16) (hl : R.PT_CTL p ≤ a) (hh : a < R.PT_CTL p + 0x180) :
    (s.partCleared p).rd a = resetOf a := by
  have hb : 0x400000 ≤ a := by simp only [R.PT_CTL, Blk.pt] at hl; omega
  rw [s.keepsRegs_partCleared hp a (countRegs_below hp hb hh), State.rd_clearRegs, if_pos ⟨hl, by omega⟩]

/-- The tiles are whose they were. -/
theorem State.tilePart_partCleared (s : State) {p g : Nat} (hp : p < 16) (hg : g < 1536) : (s.partCleared p).tilePart g = s.tilePart g := by
  refine State.tilePart_congr ((s.keepsRegs_partCleared hp _ ?_).trans ?_)
  · simp only [CountRegs, R.TIL_OWNER, R.PT_CNT0, R.PT_CNT1, Blk.pt, til_eq hg]
    omega
  · rw [State.rd_clearRegs, if_neg]
    simp only [R.TIL_OWNER, R.PT_CTL, Blk.pt, til_eq hg]
    omega

/-! ## The partition made -/

/-- PART_CREATE before its STATE is set: the named tiles that no partition holds are given. -/
def State.partGiven (s : State) (p : Nat) (clusters : List (BitVec 8)) : State :=
  (s.partCleared p).giveTiles p ((maskTiles clusters).filter fun g => ((s.partCleared p).tilePart g).isNone)

/-- The state that PART_CREATE leaves: a partition that found a tile held waits in STATE 2. -/
def State.partCreated (s : State) (p : Nat) (clusters : List (BitVec 8)) : State :=
  let t := s.partGiven p clusters
  let t := if (maskTiles clusters).any fun g => (s.tilePart g).isSome then t.fset (R.PT_CTL p) F.PT_CTL_STATE 2 else t
  t.setPart p (some { PartSt.fresh with clusters := clusters })

theorem cmdPartCreate_ok {fn : Nat} {p : Part} {clusters : List (BitVec 8)} {s : State} (hf : fn = 0) (hl : clusters.length = 24)
    (hn : s.part p = none) (hb : s.badClusters clusters = false) (hu : s.flag R.RST_STAT F.RST_STAT_UP = true) :
    cmdPartCreate fn p clusters s = (s.partCreated p clusters, .ok []) := by
  unfold cmdPartCreate
  rw [State.cmd_ok ((firstBad_none_iff _).mpr (by simp [badAt, pfOnly, refuse, hf, hl, hn, hb, hu]))]
  rfl

section Created
variable (s : State) {p : Nat} (hp : p < 16) (clusters : List (BitVec 8))
include hp

omit hp in
theorem State.partGiven_lt : ∀ g ∈ (maskTiles clusters).filter fun g => ((s.partCleared p).tilePart g).isNone, g < 1536 :=
  fun _ hg => maskTiles_lt (List.mem_filter.mp hg).1

/-- A register of the partition below its counters still reads its reset value once its tiles are given. -/
theorem State.rd_partGiven {a : Nat} (hl : R.PT_CTL p ≤ a) (hh : a < R.PT_CTL p + 0x180) : (s.partGiven p clusters).rd a = resetOf a := by
  rw [← s.rd_partCleared hp hl hh]
  refine (s.partCleared p).keepsRegs_giveTiles hp _ (s.partGiven_lt clusters) a ?_
  simp only [R.PT_CTL, Blk.pt] at hl hh
  omega

theorem State.tilePart_partGiven {g : Nat} (hg : g < 1536) :
    (s.partGiven p clusters).tilePart g = if g ∈ maskTiles clusters ∧ s.tilePart g = none then some p else s.tilePart g := by
  rw [State.partGiven, State.tilePart_giveTiles _ hp _ (s.partGiven_lt clusters) hg, s.tilePart_partCleared hp hg]
  simp only [List.mem_filter, s.tilePart_partCleared hp hg, Option.isNone_iff_eq_none]

omit hp in
theorem State.rd_partCreated {a : Nat} (h : a ≠ R.PT_CTL p) : (s.partCreated p clusters).rd a = (s.partGiven p clusters).rd a := by
  unfold State.partCreated
  dsimp only
  rw [State.rd, State.setPart_regs]
  split
  · exact State.rd_fset_other _ _ _ h
  · rfl

/-- The rings of a partition made are off. -/
theorem State.ringOn_partCreated {r : Nat} (hr : r < 6) : (s.partCreated p clusters).ringOn p r = false := by
  have ne : R.PT_RC p r ≠ R.PT_CTL p := by simp only [R.PT_RC, R.PT_CTL]; omega
  refine State.flag_eq_false.mpr ((congrArg (fldGet F.PT_RC_EN) ?_).trans (resetOf_ptRc p hp r hr))
  exact (s.rd_partCreated clusters ne).trans (s.rd_partGiven hp clusters (by simp only [R.PT_RC, R.PT_CTL]; omega)
    (by simp only [R.PT_RC, R.PT_CTL]; omega))

/-- A partition made waits where a tile of its clusters was held, and else is idle. -/
theorem State.ptState_partCreated :
    (s.partCreated p clusters).ptState p = if (maskTiles clusters).any fun g => (s.tilePart g).isSome then 2 else 0 := by
  have idle : (s.partGiven p clusters).fget (R.PT_CTL p) F.PT_CTL_STATE = 0 :=
    (congrArg (fldGet F.PT_CTL_STATE) (s.rd_partGiven hp clusters (Nat.le_refl _) (by omega))).trans (resetOf_ptCtl p hp)
  unfold State.partCreated State.ptState
  dsimp only
  rw [State.fget, State.rd, State.setPart_regs]
  split
  · exact State.fget_fset_lt _ _ _ (by decide) (by decide)
  · exact idle

theorem State.tilePart_partCreated {g : Nat} (hg : g < 1536) :
    (s.partCreated p clusters).tilePart g = if g ∈ maskTiles clusters ∧ s.tilePart g = none then some p else s.tilePart g := by
  rw [← s.tilePart_partGiven hp clusters hg]
  refine State.tilePart_congr (s.rd_partCreated clusters ?_)
  simp only [R.TIL_OWNER, R.PT_CTL, Blk.pt, til_eq hg]
  omega

end Created

end Sys2Proof.Machine
end

section
/-! PROOF. Who owns the tiles and which weight keys are held: what requests at gateways, moves of pages and pages freed leave of it
(R99, R227, R312 to R319, R336, R480). -/

namespace Sys2Proof.Machine

/-! ## The frame -/

/-- Registers that are neither a tile's owner nor in the weight keys' table. -/
def Elsewhere (a : Nat) : Prop := (a % 0x10000 ≠ 0x20 ∨ a % 0x1000000 < 0x800000 ∨ 0x30000000 ≤ a) ∧ (a < 0x203000 ∨ 0x203800 ≤ a)

/-- Every tile belongs to whom it did, and the table of weight keys stands. -/
structure State.OwnersKept (s t : State) : Prop where
  tiles : ∀ g < 1536, t.tilePart g = s.tilePart g
  keys : ∀ a, 0x203000 ≤ a → a < 0x203800 → t.rd a = s.rd a

theorem elsewhere_owner {g : Nat} (h : g < 1536) : ¬ Elsewhere (R.TIL_OWNER g) := by
  unfold Elsewhere
  rw [R.TIL_OWNER, til_eq h]
  omega

namespace State.OwnersKept
variable {s t u : State}

theorem refl (s : State) : s.OwnersKept s := ⟨fun _ _ => rfl, fun _ _ _ => rfl⟩

theorem trans (h : s.OwnersKept t) (k : t.OwnersKept u) : s.OwnersKept u :=
  ⟨fun g hg => (k.tiles g hg).trans (h.tiles g hg), fun a hl hh => (k.keys a hl hh).trans (h.keys a hl hh)⟩

theorem of_keeps (h : s.KeepsRegs t Elsewhere) : s.OwnersKept t :=
  ⟨fun _ hg => State.tilePart_congr (h _ (elsewhere_owner hg)), fun a hl hh => h a fun e => by unfold Elsewhere at e; omega⟩

theorem of_regs (h : t.regs = s.regs) : s.OwnersKept t := of_keeps (State.keepsRegs_of_regs h)

theorem wr (s : State) {a : Nat} (h : Elsewhere a) (v : Word64) : s.OwnersKept (s.wr a v) := of_keeps (s.keepsRegs_wr h v)

theorem fset (s : State) {a : Nat} {f : Fld} (h : Elsewhere a) (hf : f.half = 0) (n : Nat) : s.OwnersKept (s.fset a f n) :=
  of_keeps (s.keepsRegs_fset (by rw [hf]; exact h) n)

theorem dieCnt (s : State) (d : Nat) {a : Nat} {f : Fld} (h : Elsewhere a) (hf : f.half = 0) (n : Nat) : s.OwnersKept (s.dieCnt d a f n) := by
  unfold State.dieCnt
  split
  · exact refl s
  · exact fset s h hf _

theorem each {α : Type} {f : State → α → State} (l : List α) (h : ∀ s : State, ∀ x ∈ l, s.OwnersKept (f s x)) (s : State) :
    s.OwnersKept (s.each l f) := by
  unfold State.each
  induction l generalizing s with
  | nil => exact refl s
  | cons x r ih =>
    exact (h s x List.mem_cons_self).trans (ih (fun s y hy => h s y (List.mem_cons_of_mem x hy)) _)

/-- One of two changes, both of which leave the owners. -/
theorem ite {c : Prop} [Decidable c] (h : s.OwnersKept t) (k : s.OwnersKept u) : s.OwnersKept (if c then t else u) := by
  split
  · exact h
  · exact k

end State.OwnersKept

/-! ## Where blocks lie -/

/-- The dies' blocks begin above those of the steward. -/
theorem dieBase_above {d : Nat} (h : d < 31) : 0x10000000 ≤ dieBase d := by
  unfold dieBase
  split
  · omega
  · split
    · omega
    · omega

theorem dieBase_zero_or {d : Nat} : dieBase d = 0 ∨ 0x10000000 ≤ dieBase d := by
  by_cases h : d < 31
  · exact .inr (dieBase_above h)
  · exact .inl (by rw [dieBase, if_neg (by omega), if_neg (by omega), if_neg h])

theorem gwBlock_range (d : Nat) : 0x490000 ≤ Blk.gw d ∧ Blk.gw d % 0x10000 = 0 := by
  have := dieBase_mod d
  unfold Blk.gw
  split
  next h =>
    have := dieBase_above h
    omega
  next => decide

theorem tqBlock_above (d : Nat) : 0x4A0000 ≤ Blk.tq d ∧ Blk.tq d % 0x10000 = 0 := by
  have := dieBase_mod d
  unfold Blk.tq
  split
  next h =>
    have := dieBase_above h
    omega
  next => decide

/-! ## Requests at a gateway (R227, R229) -/

/-- The count of units at a queue stands in the upper half of its register's low word, above a tile's owner, and apart from the keys. -/
theorem State.ownersKept_qSub (s : State) (d q n : Nat) : s.OwnersKept (s.qSub d q n) := by
  have low := (gwBlock_range (gwDie d)).1
  refine ⟨fun g hg => ?_, fun a hl hh => State.rd_fset_other _ _ _ ?_⟩
  · by_cases e : R.TIL_OWNER g = R.GW_QCFG (gwDie d) q
    · have same (f : Fld) (hf : f.half = 0) (hi : f.hi < 32) : (s.qSub d q n).fget (R.TIL_OWNER g) f = s.fget (R.TIL_OWNER g) f := by
        rw [e]
        exact s.fget_fset_field _ F.GW_QCFG_USED f (by decide) hf.symm (.inl hi) _
      rw [State.tilePart, State.tilePart, State.flag, State.flag, same _ rfl (by decide), same _ rfl (by decide)]
    · exact State.tilePart_congr (State.rd_fset_other _ _ _ e)
  · simp only [R.GW_QCFG]
    omega

theorem State.ownersKept_present (d q n : Nat) (s : State) : s.OwnersKept (s.present d q n) := by
  induction n generalizing s with
  | zero => exact .refl s
  | succ n ih =>
    unfold State.present
    dsimp only
    split
    · exact .refl s
    next r _ =>
      have drop (t : State) : t.OwnersKept (t.dropReq d r.id) := .of_regs (State.setGw_regs ..)
      have put (t : State) (x : GwReq) : t.OwnersKept (t.putReq d x) := .of_regs (State.setGw_regs ..)
      split
      · exact (drop s).trans (ih _)
      · split
        · exact .refl s
        · split
          · exact .refl s
          next u _ =>
            have shown : s.OwnersKept (s.setInq (inKey (gwDie d) 0 (16 + q)) (s.inq (inKey (gwDie d) 0 (16 + q)) ++ [u])) :=
              .of_regs (State.setInq_regs ..)
            have freed := shown.trans (.ite (c := r.op = 3 ∧ r.shown = 0) (.refl _) (State.ownersKept_qSub _ d q 1))
            exact (freed.trans (.ite (drop _) (put _ _))).trans (ih _)

theorem State.ownersKept_filledCnt (s : State) (d q : Nat) : s.OwnersKept (s.filledCnt d q) := by
  unfold State.filledCnt
  split
  next hq =>
    have := gwBlock_range (gwDie d)
    refine .dieCnt s _ ?_ rfl 1
    simp only [Elsewhere, R.GW_QCNT]
    omega
  next => exact .refl s

theorem State.ownersKept_fillPage (s : State) (d id pg : Nat) : s.OwnersKept (s.fillPage d id pg) := by
  unfold State.fillPage
  split
  · exact .refl s
  next r _ =>
    split
    · exact .refl s
    · exact ((s.ownersKept_filledCnt d _).trans (.of_regs (State.setGw_regs ..))).trans (State.ownersKept_present d _ 4096 _)

/-! ## Messages to other packages -/

theorem State.linkPump_regs (k n : Nat) (s : State) : (s.linkPump k n).regs = s.regs := by
  have emit (s : State) (t : TxFlit) : (s.linkEmit k t).regs = s.regs := by
    unfold State.linkEmit
    extract_lets x flit fx y b v z u
    have link : u.regs = s.regs := s.setLink_regs k z
    clear_value u
    split
    · split
      · exact link
      · exact link
    · exact link
  induction n generalizing s with
  | zero => rfl
  | succ n ih =>
    unfold State.linkPump
    split
    · exact (ih _).trans (emit s _)
    · rfl

theorem State.linkQueue_regs (s : State) (k : Nat) (ts : List TxFlit) : (s.linkQueue k ts).regs = s.regs :=
  (State.linkPump_regs k _ _).trans (State.setLink_regs ..)

/-- Flits cut from a message go where it goes. -/
theorem cutFlits_dst (base : Flit) (n i : Nat) (us : List Sheaf) : ∀ f ∈ cutFlits base n i us, f.dst = base.dst := by
  induction n generalizing i us with
  | zero => exact fun f hf => absurd hf List.not_mem_nil
  | succ n ih =>
    intro f hf
    unfold cutFlits at hf
    dsimp only at hf
    split at hf
    · rw [List.mem_singleton.mp hf]
    · rcases List.mem_cons.mp hf with rfl | hf
      · rfl
      · exact ih _ _ f hf

/-- A message sent from the link die toward its destination takes that die's own link, and writes no register. -/
theorem State.pageMsg_regs (s : State) (p loc i : Nat) (us : List Sheaf) : (s.pageMsg p loc i us).regs = s.regs := by
  unfold State.pageMsg
  extract_lets n l
  generalize hb : ({ s.newMsg l 11 n p with offset := (loc / 4096 + i) * 65536 % 2 ^ 48 } : Flit) = base
  have dst : base.dst = n := by rw [← hb]; rfl
  have go := cutFlits_dst base (us.length + 1) 0 us
  unfold msgFlits
  generalize cutFlits base (us.length + 1) 0 us = fs at go
  unfold State.fabSend
  split
  · rfl
  next f _ =>
    rw [go f List.mem_cons_self, dst]
    split
    · rfl
    next k v e =>
      have same : k / 12 = l := by simp only [l, State.dieToward, e, Option.map_some, Option.getD_some]
      dsimp only
      rw [if_neg (fun h => h same)]
      exact s.linkQueue_regs k _

/-! ## Moves of pages (R312 to R319, R336) -/

theorem elsewhere_tq (d p : Nat) : Elsewhere (R.TQ_QUOTA d p) := by
  have := tqBlock_above d
  simp only [Elsewhere, R.TQ_QUOTA]
  omega

theorem State.ownersKept_quotaSub (s : State) (d p n : Nat) : s.OwnersKept (s.quotaSub d p n) := .fset s (elsewhere_tq d p) rfl _
theorem State.ownersKept_quotaAdd (s : State) (d p n : Nat) : s.OwnersKept (s.quotaAdd d p n) := .fset s (elsewhere_tq d p) rfl _

/-- The registers of a memory die's block are none of the tiles' owners, wherever its number places the block. -/
theorem elsewhere_mem (m : Nat) {o : Nat} (h : o < 0x70000) : Elsewhere (Blk.mem m + o) := by
  have b := dieBase_zero_or (d := 24 + m)
  have := dieBase_mod (24 + m)
  simp only [Elsewhere, Blk.mem]
  omega

theorem elsewhere_mvCmd (m : Nat) : Elsewhere (R.MV_CMD m) := elsewhere_mem m (o := 0x60010) (by decide)
theorem elsewhere_memRet (m : Nat) : Elsewhere (R.MEM_RET m) := elsewhere_mem m (o := 0x18) (by decide)

theorem State.ownersKept_mvResult (s : State) (m : Move) (res : Nat) : s.OwnersKept (s.mvResult m res) := by
  unfold State.mvResult
  exact .ite ((State.OwnersKept.fset s (elsewhere_mvCmd _) rfl _).trans (.fset _ (elsewhere_mvCmd _) rfl _)) (.refl s)

theorem State.ownersKept_retireFrames (s : State) (die f n : Nat) : s.OwnersKept (s.retireFrames die f n) := by
  have err (s : State) (c : Nat) : s.OwnersKept (s.dieCnt die (R.CH_ERR c) F.CH_ERR_RETIRED n) := by
    have := dieBase_mod (24 + c / 24)
    refine .dieCnt s _ ?_ rfl n
    simp only [Elsewhere, R.CH_ERR, Blk.ch]
    omega
  unfold State.retireFrames
  extract_lets mem t u
  have cnt : s.OwnersKept u := State.OwnersKept.trans (t := t) (.of_regs rfl) (.fset t (elsewhere_memRet _) rfl _)
  clear_value u
  split
  · exact cnt.trans (err _ _)
  · exact cnt

end Sys2Proof.Machine
end

section
/-! PROOF. Moves that end and pages freed leave the tiles' owners and the weight keys (R316 to R319, R336, R339). -/

namespace Sys2Proof.Machine

/-! ## Memory alone -/

theorem State.dropFrames_regs (s : State) (die f n : Nat) : (s.dropFrames die f n).regs = s.regs := rfl
theorem State.copyIn_regs (s : State) (pg die f n : Nat) : (s.copyIn pg die f n).regs = s.regs := rfl
theorem State.copyOut_regs (s : State) (pg die f n : Nat) : (s.copyOut pg die f n).regs = s.regs := rfl
theorem State.hostIn_regs (s : State) (pg n loc : Nat) : (s.hostIn pg n loc).regs = s.regs := rfl
theorem State.dropMove_regs (s : State) (pg : Nat) : (s.dropMove pg).regs = s.regs := rfl
theorem State.putMove_regs (s : State) (m : Move) : (s.putMove m).regs = s.regs := rfl
theorem State.addMove_regs (s : State) (m : Move) : (s.addMove m).regs = s.regs := rfl
theorem State.hostOut_regs (s : State) (p pg : Nat) (enc : Bool) (gen die f n loc : Nat) : (s.hostOut p pg enc gen die f n loc).regs = s.regs := rfl

theorem State.weightIn_regs (s : State) (p pg : Nat) (enc : Bool) (gen die f n : Nat) : (s.weightIn p pg enc gen die f n).regs = s.regs := by
  unfold State.weightIn
  exact State.each_keeps (fun t => t.regs = s.regs) _ (fun t _ h => (t.setBurst_regs _ _).trans h) _ s rfl

theorem State.guestOut_regs (s : State) (p pg : Nat) (enc : Bool) (gen die f n loc : Nat) : (s.guestOut p pg enc gen die f n loc).regs = s.regs := by
  unfold State.guestOut
  exact State.each_keeps (fun t => t.regs = s.regs) _ (fun t i h => (t.pageMsg_regs _ _ i _).trans h) _ _ rfl

/-! ## Moves that end -/

theorem State.ownersKept_moveData (s : State) (m : Move) : s.OwnersKept (s.moveData m) := by
  unfold State.moveData
  split
  · exact .ite (.of_regs (s.hostIn_regs ..)) (.refl s)
  · exact .refl s

theorem State.ownersKept_moveEnd (s : State) (m : Move) : s.OwnersKept (s.moveEnd m) := by
  unfold State.moveEnd
  split
  · exact .of_regs (s.dropMove_regs _)
  next u _ =>
    extract_lets n e t back paid copied moved retired out freed less more
    have start : s.OwnersKept t := (State.OwnersKept.of_regs (s.dropMove_regs _)).trans (State.ownersKept_mvResult _ m 0)
    have mapEnt (s : State) (x : MapEnt) : s.OwnersKept (s.setMapEnt m.page x) := .of_regs (State.setMapEnt_regs ..)
    clear_value t
    split
    · have hb : t.OwnersKept back := .of_regs (t.copyIn_regs ..)
      have hp : back.OwnersKept paid := .ite (back.ownersKept_quotaSub _ _ n) (.refl back)
      exact ((start.trans hb).trans hp).trans (mapEnt _ _)
    · exact (start.trans (.of_regs (t.weightIn_regs ..))).trans (mapEnt _ _)
    · refine start.trans (.ite ?_ ?_)
      · exact (State.OwnersKept.of_regs (t.dropFrames_regs ..)).trans (.fset _ (elsewhere_memRet _) rfl 1)
      · have hm : t.OwnersKept moved := (State.OwnersKept.of_regs (t.copyOut_regs ..)).trans (.of_regs (copied.copyIn_regs ..))
        exact (hm.trans (moved.ownersKept_retireFrames _ _ n)).trans (mapEnt _ _)
    · have ho : t.OwnersKept out := .ite (.of_regs (t.hostOut_regs ..)) (.of_regs (t.guestOut_regs ..))
      have hf : out.OwnersKept freed := .of_regs (out.dropFrames_regs ..)
      have hq : freed.OwnersKept more := (freed.ownersKept_quotaSub _ _ n).trans (less.ownersKept_quotaAdd _ _ n)
      exact (((start.trans ho).trans hf).trans hq).trans (mapEnt _ _)

theorem State.ownersKept_pageLost (s : State) (p die pg frame n : Nat) : s.OwnersKept (s.pageLost p die pg frame n) := by
  unfold State.pageLost
  have freed : s.OwnersKept ((s.dropFrames die frame n).quotaSub die p n) :=
    (State.OwnersKept.of_regs (s.dropFrames_regs ..)).trans (State.ownersKept_quotaSub _ _ _ n)
  exact (freed.trans (.of_regs (State.setMapEnt_regs ..))).trans (.of_regs (State.plainRep_regs ..))

theorem State.ownersKept_losePage (s : State) (m : Move) : s.OwnersKept (s.losePage m) := by
  unfold State.losePage
  extract_lets t e d
  have start : s.OwnersKept t := (State.OwnersKept.of_regs (s.dropMove_regs _)).trans (State.ownersKept_mvResult _ m 2)
  clear_value t
  split
  · exact start
  next u _ =>
    extract_lets n v w x
    have quota : t.OwnersKept v := .ite (t.ownersKept_quotaSub _ _ _) (.refl t)
    have lost : v.OwnersKept w := v.ownersKept_pageLost m.part m.die m.page m.frame n
    have filled : w.OwnersKept x := .each _ (fun s id _ => s.ownersKept_fillPage d id m.page) w
    have all := ((start.trans quota).trans lost).trans filled
    refine .ite (all.trans ?_) all
    exact (State.OwnersKept.of_regs (State.setMapEnt_regs ..)).trans (.of_regs (State.addMove_regs ..))

theorem State.ownersKept_moveFail (s : State) (pg : Nat) : s.OwnersKept (s.moveFail pg) := by
  unfold State.moveFail
  split
  · exact .refl s
  next m _ =>
    refine .ite (.refl s) ?_
    split
    · exact .refl s
    · exact ((State.OwnersKept.of_regs (s.dropMove_regs _)).trans (State.ownersKept_mvResult _ m 2)).trans (.of_regs (State.setMapEnt_regs ..))
    · exact .ite (s.ownersKept_losePage m) (.of_regs (s.putMove_regs _))

theorem State.ownersKept_moveComplete (s : State) (pg : Nat) : s.OwnersKept (s.moveComplete pg) := by
  unfold State.moveComplete
  split
  next m _ =>
    exact .ite (.refl s) ((s.ownersKept_moveData m).trans (.ite (State.ownersKept_moveEnd _ m) (State.ownersKept_moveFail _ pg)))
  next => exact .refl s

/-! ## Pages freed -/

theorem State.clearFrames_regs (s : State) (die f n : Nat) : (s.clearFrames die f n).regs = s.regs := by
  cases s
  simp only [State.clearFrames]

theorem State.ownersKept_freePage (s : State) (p : Nat) (r : Rgn) (pg : Nat) : s.OwnersKept (s.freePage p r pg) := by
  unfold State.freePage
  extract_lets n t u e v mem ent
  have done : s.OwnersKept t := s.ownersKept_moveComplete pg
  clear_value t
  have ended : t.OwnersKept u := by
    simp only [u]
    split
    · exact (State.OwnersKept.of_regs (t.dropMove_regs _)).trans (State.ownersKept_mvResult _ _ 1)
    · exact .refl t
  clear_value u
  have quota : u.OwnersKept v := by
    simp only [v]
    split
    next d _ _ =>
      have frames : u.OwnersKept ((u.clearFrames d e.frame n).dropFrames d e.frame n) :=
        (State.OwnersKept.of_regs (u.clearFrames_regs ..)).trans (.of_regs (State.dropFrames_regs ..))
      exact frames.trans (State.ownersKept_quotaSub _ d p n)
    · exact .ite (.refl u) (u.ownersKept_quotaSub _ _ n)
    · exact u.ownersKept_quotaSub _ _ n
    · exact .refl u
  exact ((done.trans ended).trans quota).trans (.of_regs (State.setMapEnt_regs ..))

end Sys2Proof.Machine
end

section
/-! PROOF. PART_DESTROY (R99, R178, R205, R206, R236, R307, R339, R480): what the steward frees leaves the other partitions' tiles, its own
tiles are taken back, and its weight keys are gone. -/

namespace Sys2Proof.Machine

/-! ## Where the registers freed stand -/

theorem elsewhere_die {d o : Nat} (hd : d < 31) (ho : o < 0x800000) : Elsewhere (dieBase d + o) := by
  have m := dieBase_mod d
  have l := dieBase_above hd
  unfold Elsewhere
  omega

theorem elsewhere_til {g o : Nat} (hg : g < 1536) (ho : o < 0x10000) (ne : o ≠ 0x20) : Elsewhere (Blk.til g + o) := by
  unfold Elsewhere
  rw [til_eq hg]
  omega

theorem elsewhere_bankRegs {g a : Nat} (hg : g < 1536) (h : BankRegs g a) : Elsewhere a := by
  obtain ⟨l, u, ne⟩ := bankRegs_range h
  obtain ⟨o, rfl⟩ := Nat.exists_eq_add_of_le l
  exact elsewhere_til hg (by omega) fun e => ne (by rw [e]; rfl)

theorem elsewhere_showRegs {a : Nat} (h : ShowRegs a) : Elsewhere a := by
  unfold ShowRegs at h
  unfold Elsewhere
  omega

/-- Addresses of the steward above its weight keys and below the dies. -/
theorem elsewhere_steward {a : Nat} (l : 0x203800 ≤ a) (h : a < 0x800000) : Elsewhere a := by
  unfold Elsewhere
  omega

theorem elsewhere_high {a : Nat} (l : 0x30000000 ≤ a) : Elsewhere a := by
  unfold Elsewhere
  omega

theorem State.OwnersKept.clearRegs (s : State) {a n : Nat} (h : ∀ b, a ≤ b → b < a + n → Elsewhere b) : s.OwnersKept (s.clearRegs a n) :=
  .of_keeps (s.keepsRegs_clearRegs h)

/-! ## Semaphores, channels and aliases -/

theorem State.tilesOf_lt {s : State} {p g : Nat} (h : g ∈ s.tilesOf p) : g < 1536 := List.mem_range.mp (List.mem_filter.mp h).1

theorem State.diesOf_lt {s : State} {p d : Nat} (h : d ∈ s.diesOf p) : d < 24 := List.mem_range.mp (List.mem_filter.mp h).1

/-- The registers of a node's channel. -/
theorem elsewhere_nodeRegs (n : BNode) {ch a : Nat} (hc : ch < 64) (h : a ∈ nodeRegs n ch) : Elsewhere a := by
  cases n with
  | cluster d c =>
    rw [List.mem_singleton.mp h]
    have := elsewhere_die (d := d) (o := 0x30000 + 0x4000 + c * 0x200 + ch * 0x8) (by omega) (by omega)
    rwa [← Nat.add_assoc, ← Nat.add_assoc, ← Nat.add_assoc] at this
  | die d =>
    rw [List.mem_singleton.mp h]
    have := elsewhere_die (d := d) (o := 0x30000 + 0x5000 + ch * 0x8) (by omega) (by omega)
    rwa [← Nat.add_assoc, ← Nat.add_assoc] at this
  | pkg =>
    rw [List.mem_singleton.mp h]
    exact elsewhere_steward (by simp only [R.PKN_CFG, Blk.step]; omega) (by simp only [R.PKN_CFG, Blk.step]; omega)
  | fab =>
    have fab := fabBlock_range (l := 0) (by decide)
    refine elsewhere_high ?_
    rcases List.mem_cons.mp h with rfl | h
    · exact fab.trans (by simp only [R.FBN_CFG]; omega)
    · rw [List.mem_singleton.mp h]
      exact fab.trans (by simp only [R.FBN_KIDS]; omega)

theorem State.ownersKept_chanFree (s : State) (p : Nat) (n : BNode) {ch : Nat} (hc : ch < 64) : s.OwnersKept (s.chanFree p n ch) := by
  have start : s.OwnersKept (s.each (nodeRegs n ch) fun s a => s.wr a 0) := .each _ (fun s a ha => .wr s (elsewhere_nodeRegs n hc ha) 0) s
  have own {a : Nat} (h : a ∈ nodeRegs n ch) : Elsewhere a := elsewhere_nodeRegs n hc h
  unfold State.chanFree
  dsimp only
  generalize (s.each (nodeRegs n ch) fun s a => s.wr a 0) = t at start
  cases n with
  | cluster d c => exact start.trans (.fset t (own (List.mem_singleton.mpr rfl)) rfl p)
  | die d => exact start.trans (.fset t (own (List.mem_singleton.mpr rfl)) rfl p)
  | pkg =>
    have arr : Elsewhere (R.PKN_ARR ch) :=
      elsewhere_steward (by simp only [R.PKN_ARR, Blk.step]; omega) (by simp only [R.PKN_ARR, Blk.step]; omega)
    exact start.trans ((State.OwnersKept.wr t arr 0).trans (.fset _ (own (List.mem_singleton.mpr rfl)) rfl p))
  | fab =>
    have arr : Elsewhere (R.FBN_ARR 0 ch) :=
      elsewhere_high ((fabBlock_range (l := 0) (by decide)).trans (by simp only [R.FBN_ARR]; omega))
    exact start.trans ((State.OwnersKept.wr t arr 0).trans (.fset _ (own List.mem_cons_self) rfl p))

theorem State.ownersKept_freeSync (s : State) (p : Nat) : s.OwnersKept (s.freeSync p) := by
  have cleared (s : State) {g a : Nat} (hg : g < 1536) (ha : a < 63) : s.OwnersKept (s.clearAlias g a) := by
    refine .wr s ?_ 0
    have := elsewhere_til (o := 0x2000 + a * 0x8) hg (by omega) (by omega)
    rwa [← Nat.add_assoc] at this
  have sem (s : State) {d i : Nat} (hd : d < 24) (hi : i < 2048) : s.OwnersKept (s.wr (R.SYN_SEM d i) 0) := by
    refine .wr s ?_ 0
    have := elsewhere_die (d := d) (o := 0x30000 + 0x1000 + i * 0x4) (by omega) (by omega)
    rwa [← Nat.add_assoc, ← Nat.add_assoc] at this
  have grp (s : State) {d k : Nat} (hd : d < 24) (hk : k < 64) : s.OwnersKept (s.wr (R.SYN_GRP d k) 0) := by
    refine .wr s ?_ 0
    have := elsewhere_die (d := d) (o := 0x30000 + 0x0 + k * 0x4) (by omega) (by omega)
    rwa [← Nat.add_assoc, ← Nat.add_assoc] at this
  unfold State.freeSync
  extract_lets t u
  have ht : s.OwnersKept t := .each _ (fun s g hg => .each _ (fun s a ha => cleared s (State.tilesOf_lt hg) (List.mem_range.mp ha)) s) s
  have hu : t.OwnersKept u := by
    refine .each _ (fun s d hd => .each _ (fun s k hk => ?_) s) t
    have hd := List.mem_range.mp hd
    have hk := List.mem_range.mp (List.mem_filter.mp hk).1
    refine State.OwnersKept.trans (.each _ (fun s j hj => sem s hd ?_) s) (grp _ hd hk)
    have := List.mem_range.mp hj
    omega
  refine (ht.trans hu).trans (.each _ (fun s x hx => ?_) u)
  obtain ⟨ch, hc, hx⟩ := List.mem_flatMap.mp hx
  obtain ⟨n, _, rfl⟩ := List.mem_map.mp hx
  exact s.ownersKept_chanFree p n (List.mem_range.mp hc)

/-! ## Outputs and gateway queues -/

theorem elsewhere_bnet (d : Nat) {o : Nat} (ho : o < 0x8000) : Elsewhere (Blk.bnet d + o) := by
  unfold Blk.bnet
  split
  next h =>
    have := elsewhere_die (d := d) (o := 0x20000 + o) h (by omega)
    rwa [← Nat.add_assoc] at this
  next => exact elsewhere_steward (by omega) (by omega)

theorem elsewhere_gw {q o : Nat} (d : Nat) (hq : q < 32) (ho : o < 0x400) : Elsewhere (Blk.gw (gwDie d) + o + q * 0x8) := by
  unfold Blk.gw
  split
  next h =>
    have := elsewhere_die (d := gwDie d) (o := 0x30000 + o + q * 0x8) h (by omega)
    rwa [← Nat.add_assoc, ← Nat.add_assoc] at this
  next => exact elsewhere_steward (by omega) (by omega)

theorem State.ownersKept_setOwner (s : State) (d : Nat) {r o : Nat} (hr : r < 8) (ho : o < 17) :
    s.OwnersKept (s.setOwner d r o none) := by
  have cfg : Elsewhere (R.BNET_OCFG d r o) := by
    have := elsewhere_bnet d (o := 0x1000 + r * 0x400 + o * 0x20) (by omega)
    rwa [← Nat.add_assoc, ← Nat.add_assoc] at this
  have cnt : Elsewhere (R.BNET_OCNT d r o) := by
    have := elsewhere_bnet d (o := 0x1010 + r * 0x400 + o * 0x20) (by omega)
    rwa [← Nat.add_assoc, ← Nat.add_assoc] at this
  unfold State.setOwner
  exact (State.OwnersKept.ite (.refl s) (.wr s cnt 0)).trans (.fset _ cfg rfl _)

theorem State.ownersKept_queueSet (s : State) (d : Nat) {q : Nat} (hq : q < 32) (quota p : Nat) (own : Bool) :
    s.OwnersKept (s.queueSet d q quota p own) := by
  have cfg : Elsewhere (R.GW_QCFG (gwDie d) q) := elsewhere_gw d hq (by decide)
  have cnt : Elsewhere (R.GW_QCNT (gwDie d) q) := elsewhere_gw d hq (by decide)
  have clear : s.OwnersKept (if s.queuePart d q = (if own then some p else none) then s else s.queueCntClr (gwDie d) q) :=
    .ite (.refl s) (.wr s cnt 0)
  unfold State.queueSet
  exact ((clear.trans (.fset _ cfg rfl _)).trans (.fset _ cfg rfl _)).trans (.fset _ cfg rfl _)

theorem dieOuts_lt {d r o : Nat} (h : (r, o) ∈ dieOuts d) : r < 8 ∧ o < 17 := by
  obtain ⟨r', hr, h⟩ := List.mem_flatMap.mp h
  obtain ⟨o', ho, e⟩ := List.mem_map.mp h
  obtain ⟨rfl, rfl⟩ := Prod.mk.inj e
  refine ⟨(List.mem_range.mp hr).trans_le ?_, List.mem_range.mp (List.mem_filter.mp ho).1⟩
  split <;> omega

theorem State.ownersKept_freePorts (s : State) (p : Nat) : s.OwnersKept (s.freePorts p) := by
  unfold State.freePorts
  extract_lets t
  have ht : s.OwnersKept t := by
    refine .each _ (fun s d _ => .each _ (fun s x hx => ?_) s) s
    obtain ⟨hr, ho⟩ := dieOuts_lt (List.mem_filter.mp hx).1
    exact (State.OwnersKept.of_regs (State.setOut_regs ..)).trans (State.ownersKept_setOwner _ d hr ho)
  refine ht.trans (.each _ (fun s d _ => .each _ (fun s q hq => ?_) s) t)
  exact .ite (s.ownersKept_queueSet d (List.mem_range.mp hq) 0 0 false) (.refl s)

end Sys2Proof.Machine
end

section
/-! PROOF. PART_DESTROY: memory freed, tiles taken back, and what no partition holds any more. -/

namespace Sys2Proof.Machine

/-! ## Memory freed -/

theorem State.setTokens_regs (s : State) (die p n : Nat) : (s.setTokens die p n).regs = s.regs := rfl
theorem State.setLinkTokens_regs (s : State) (l p n : Nat) : (s.setLinkTokens l p n).regs = s.regs := rfl
theorem State.setExpertQueues_regs (s : State) (p : Nat) (l : List Nat) : (s.setExpertQueues p l).regs = s.regs := by
  unfold State.setExpertQueues
  rfl

/-- The entries of a region in the tables of the gateways and dies. -/
theorem elsewhere_rgnTables {s : State} {p r a : Nat} (hp : p < 16) (hr : r < 32) (h : a ∈ s.rgnTables p r) : Elsewhere a ∧ Elsewhere (a + 8) := by
  rw [State.rgnTables, List.append_assoc] at h
  rcases List.mem_append.mp h with h | h
  · obtain ⟨m, hm, rfl⟩ := List.mem_map.mp h
    have hm := List.mem_range.mp hm
    have at_ (k : Nat) (hk : k < 16) : Elsewhere (R.MEM_RGN m p r + k) := by
      have := elsewhere_die (d := 24 + m) (o := 0x50000 + p * 0x200 + r * 0x10 + k) (by omega) (by omega)
      rwa [← Nat.add_assoc, ← Nat.add_assoc, ← Nat.add_assoc] at this
    exact ⟨at_ 0 (by decide), at_ 8 (by decide)⟩
  rcases List.mem_append.mp h with h | h
  · rw [List.mem_singleton.mp h]
    have lo : 0x203800 ≤ R.HST_RGN p r := by simp only [R.HST_RGN, Blk.hst]; omega
    have hi : R.HST_RGN p r + 8 < 0x800000 := by simp only [R.HST_RGN, Blk.hst]; omega
    exact ⟨elsewhere_steward lo (by omega), elsewhere_steward (by omega) hi⟩
  · obtain ⟨d, hd, rfl⟩ := List.mem_map.mp h
    have ⟨l, u⟩ := dieRgn_range (List.mem_range.mp (List.mem_filter.mp hd).1) hp hr
    exact ⟨elsewhere_showRegs (.inr ⟨l, by omega⟩), elsewhere_showRegs (.inr ⟨by omega, by omega⟩)⟩

theorem State.ownersKept_rgnPut (s : State) {a : Nat} (h : Elsewhere a) (h8 : Elsewhere (a + 8)) (lo hi : Nat) : s.OwnersKept (s.rgnPut a lo hi) := by
  have low (s : State) {f : Fld} (hf : f.half = 0) (n : Nat) : s.OwnersKept (s.fset a f n) := .fset s h hf n
  have size (s : State) (n : Nat) : s.OwnersKept (s.fset a F.MEM_RGN_SIZE n) := .of_keeps (s.keepsRegs_fset h8 n)
  exact ((((((low s rfl _).trans (low _ rfl _)).trans (low _ rfl _)).trans (low _ rfl _)).trans (low _ rfl _)).trans (low _ rfl _)).trans (size _ _)

theorem State.ownersKept_putRegion (s : State) {p r : Nat} (hp : p < 16) (hr : r < 32) (lo hi : Nat) : s.OwnersKept (s.putRegion p r lo hi) :=
  .each _ (fun s _ ha => s.ownersKept_rgnPut (elsewhere_rgnTables hp hr ha).1 (elsewhere_rgnTables hp hr ha).2 lo hi) s

theorem State.regions_idx_lt {s : State} {x : Nat × Rgn} (h : x ∈ s.regions) : x.2.idx < 32 := by
  obtain ⟨p, _, h⟩ := List.mem_flatMap.mp h
  obtain ⟨r, hr, rfl⟩ := List.mem_map.mp h
  exact List.mem_range.mp (List.mem_filter.mp hr).1

/-- The registers of a partition at a link die. -/
theorem State.ownersKept_freeLink (s : State) (p : Nat) {l : Nat} (hl : l < 3) :
    s.OwnersKept (((if s.flag (R.FBP_JOB l p) F.FBP_JOB_VALID then s.wr (R.FB_JOB l (s.jobOf l p)) 0 else s).clearRegs (R.FBP_JOB l p) 0x38).clearRegs
      (R.FB_WIN l p 0) 0x100) := by
  have fab := fabBlock_range hl
  have job (j : Nat) : Elsewhere (R.FB_JOB l j) := elsewhere_high (fab.trans (by simp only [R.FB_JOB]; omega))
  have part (b : Nat) (hb : R.FBP_JOB l p ≤ b) : Elsewhere b := elsewhere_high (fab.trans (Nat.le_trans (by simp only [R.FBP_JOB]; omega) hb))
  have win (b : Nat) (hb : R.FB_WIN l p 0 ≤ b) : Elsewhere b := elsewhere_high (fab.trans (Nat.le_trans (by simp only [R.FB_WIN]; omega) hb))
  exact ((State.OwnersKept.ite (.wr s (job _) 0) (.refl s)).trans (.clearRegs _ fun b hb _ => part b hb)).trans (.clearRegs _ fun b hb _ => win b hb)

theorem elsewhere_tqPart {d p b : Nat} (hd : d < 8) (hp : p < 16) (hl : R.TQ_QUOTA (gwDie d) p ≤ b) (hh : b < R.TQ_QUOTA (gwDie d) p + 0x38) :
    Elsewhere b := by
  simp only [R.TQ_QUOTA] at hl hh
  rcases tqBlock_range hd with e | h
  · exact elsewhere_steward (by omega) (by omega)
  · exact elsewhere_high (by omega)

theorem State.ownersKept_freeMemory (s : State) {p : Nat} (hp : p < 16) : s.OwnersKept (s.freeMemory p) := by
  unfold State.freeMemory
  extract_lets t u v mem
  have ht : s.OwnersKept t := by
    refine .each _ (fun s r hr => ?_) s
    obtain ⟨x, hx, rfl⟩ := List.mem_map.mp hr
    exact (State.OwnersKept.each _ (fun s pg _ => s.ownersKept_freePage p x.2 pg) s).trans
      (State.ownersKept_putRegion _ hp (State.regions_idx_lt (List.mem_filter.mp hx).1) 0 0)
  have hu : t.OwnersKept u := .each _ (fun s d hd =>
    (State.OwnersKept.clearRegs s fun b hl hh => elsewhere_tqPart (List.mem_range.mp hd) hp hl hh).trans (.of_regs (State.setTokens_regs ..))) t
  have hv : u.OwnersKept v := .each _ (fun s l hl => (s.ownersKept_freeLink p (by
    simp only [List.mem_cons, List.not_mem_nil, or_false] at hl
    omega)).trans (.of_regs (State.setLinkTokens_regs ..))) u
  exact ((ht.trans hu).trans hv).trans (.of_regs rfl)

/-! ## A tile taken back -/

theorem State.withdraw_regs (s : State) (g : Nat) (e : Eng) : (s.withdraw g e).regs = s.regs := by
  unfold State.withdraw State.clearWait
  split
  · exact State.modEng_regs ..
  · rfl

theorem State.ownersKept_setRun (s : State) {g : Nat} (hg : g < 1536) (run : Nat) : s.OwnersKept (s.setRun g run) := by
  have ctl : Elsewhere (R.TIL_CTL g) := elsewhere_til hg (by decide) (by decide)
  unfold State.setRun
  exact (State.OwnersKept.fset s ctl rfl run).trans (.each _ (fun s e _ => .ite (.refl s) (.of_regs (s.withdraw_regs g e))) _)

theorem State.ownersKept_tileReset (s : State) {g : Nat} (hg : g < 1536) : s.OwnersKept (s.tileReset g) := by
  have at_ {o : Nat} (ho : o < 0x10000) (ne : o ≠ 0x20) : Elsewhere (Blk.til g + o) := elsewhere_til hg ho ne
  unfold State.tileReset
  extract_lets a b c d idle e f
  have ha : s.OwnersKept a := .fset s (at_ (by decide) (by decide)) rfl 0
  have hb : a.OwnersKept b := (State.OwnersKept.wr a (at_ (o := 0x10) (by decide) (by decide)) 0).trans
    (.wr _ (at_ (o := 0x18) (by decide) (by decide)) 0)
  have hc : b.OwnersKept c := .wr b (at_ (o := 0xa8) (by decide) (by decide)) 0
  have hd : c.OwnersKept d := by
    refine State.OwnersKept.each (f := fun s i => (s.wr (R.TIL_LOOP g i) 0).wr (R.TIL_ISTAT g i) 0) (List.range 6) (fun s i hi => ?_) c
    have hi := List.mem_range.mp hi
    have loop := at_ (o := 0x1010 + i * 0x40) (by omega) (by omega)
    have stat := at_ (o := 0x1018 + i * 0x40) (by omega) (by omega)
    rw [← Nat.add_assoc] at loop stat
    exact (State.OwnersKept.wr s loop 0).trans (.wr _ stat 0)
  have he : d.OwnersKept e := .each _ (fun s x _ => .of_regs (State.setEng_regs ..)) d
  have hf : e.OwnersKept f := .each _ (fun s k _ => .of_regs (State.setInq_regs ..)) e
  exact (((((ha.trans hb).trans hc).trans hd).trans he).trans hf).trans (.of_regs (State.modTile_regs ..))

/-- What stands before a tile's ASSIGNED bit is cleared. -/
theorem State.ownersKept_tileStopped (s : State) {g : Nat} (hg : g < 1536) : s.OwnersKept (((s.setRun g 0).tileReset g).allBanks g 0) :=
  ((s.ownersKept_setRun hg 0).trans (State.ownersKept_tileReset _ hg)).trans
    (.of_keeps ((State.keepsRegs_allBanks _ g 0).mono fun _ => elsewhere_bankRegs hg))

theorem tilOwner_inj {g h : Nat} (hg : g < 1536) (hh : h < 1536) (e : R.TIL_OWNER h = R.TIL_OWNER g) : h = g := by
  rw [R.TIL_OWNER, R.TIL_OWNER, til_eq hg, til_eq hh] at e
  omega

/-- A tile taken back belongs to none, and every other tile to whom it did. -/
theorem State.tilePart_takeTile (s : State) {g h : Nat} (hg : g < 1536) (hh : h < 1536) :
    (s.takeTile g).tilePart h = if h = g then none else s.tilePart h := by
  have stopped := s.ownersKept_tileStopped hg
  unfold State.takeTile
  split
  next e =>
    have clear : ((((s.setRun g 0).tileReset g).allBanks g 0).fset (R.TIL_OWNER g) F.TIL_OWNER_ASSIGNED 0).flag (R.TIL_OWNER h) F.TIL_OWNER_ASSIGNED
        = false := State.flag_eq_false.mpr (e ▸ State.fget_fset _ _ _ (by decide) 0)
    dsimp only
    rw [State.tilePart, clear, if_neg Bool.false_ne_true]
  next ne => exact (State.tilePart_congr (State.rd_fset_other _ _ _ fun e => ne (tilOwner_inj hg hh e))).trans (stopped.tiles h hh)

theorem State.keys_takeTile (s : State) {g a : Nat} (hg : g < 1536) (hl : 0x203000 ≤ a) (hh : a < 0x203800) : (s.takeTile g).rd a = s.rd a := by
  refine (State.rd_fset_other _ _ _ ?_).trans ((s.ownersKept_tileStopped hg).keys a hl hh)
  simp only [R.TIL_OWNER, til_eq hg]
  omega

/-- Tiles taken back one after another. -/
theorem State.each_takeTile (gs : List Nat) (hgs : ∀ g ∈ gs, g < 1536) (s : State) :
    (∀ h < 1536, (s.each gs fun s g => s.takeTile g).tilePart h = if h ∈ gs then none else s.tilePart h) ∧
      ∀ a, 0x203000 ≤ a → a < 0x203800 → (s.each gs fun s g => s.takeTile g).rd a = s.rd a := by
  unfold State.each
  induction gs generalizing s with
  | nil => exact ⟨fun _ _ => rfl, fun _ _ _ => rfl⟩
  | cons g r ih =>
    have hg := hgs g List.mem_cons_self
    obtain ⟨tiles, keys⟩ := ih (fun k hk => hgs k (List.mem_cons_of_mem g hk)) (s.takeTile g)
    refine ⟨fun h hh => ?_, fun a hl hh => (keys a hl hh).trans (s.keys_takeTile hg hl hh)⟩
    rw [List.foldl_cons, tiles h hh, s.tilePart_takeTile hg hh]
    by_cases k : h ∈ r
    · rw [if_pos k, if_pos (List.mem_cons_of_mem g k)]
    · by_cases e : h = g
      · rw [if_neg k, if_pos e, if_pos (e ▸ List.mem_cons_self)]
      · rw [if_neg k, if_neg e, if_neg fun m => (List.mem_cons.mp m).elim e k]

/-! ## The partition ended -/

theorem resetOf_secWkey : ∀ p < 16, ∀ i < 16, resetOf (R.SEC_WKEY p i) = 0 := by decide +kernel

theorem State.tilePart_dropKeys (s : State) {p g : Nat} (hp : p < 16) (hg : g < 1536) : (s.dropKeys p).tilePart g = s.tilePart g := by
  refine State.tilePart_congr (s.keepsRegs_clearRegs (A := fun a => a < 0x10000000) (fun b _ hb => ?_) _ ?_)
  · simp only [R.SEC_WKEY, Blk.sec] at hb
    omega
  · rw [R.TIL_OWNER, til_eq hg]
    omega

theorem State.rd_dropKeys (s : State) {p i : Nat} (hp : p < 16) (hi : i < 16) : (s.dropKeys p).rd (R.SEC_WKEY p i) = 0 := by
  refine (s.rd_clearRegs _ _ _).trans ?_
  rw [if_pos (by simp only [R.SEC_WKEY]; omega), resetOf_secWkey p hp i hi]

/-- A table of weight keys that reads zero holds none. -/
theorem State.wkSlot_none {s : State} {p : Nat} (h : ∀ i < 16, s.rd (R.SEC_WKEY p i) = 0) (k : Nat) : s.wkSlot p k = none := by
  refine List.find?_eq_none.mpr fun i hi => ?_
  have invalid : s.flag (R.SEC_WKEY p i) F.SEC_WKEY_VALID = false :=
    State.flag_eq_false.mpr (congrArg (fldGet F.SEC_WKEY_VALID) (h i (List.mem_range.mp hi)))
  rw [invalid, Bool.false_and]
  exact Bool.false_ne_true

/-- The part of PART_DESTROY between the keys and the tiles. -/
def State.engineFreed (s : State) (p : Nat) (ds : List Nat) : State :=
  let s := s.freeMemory p
  let s := s.each ds fun s d => if s.rtePart d = p ∧ s.rteOn d then (s.clearRegs (R.RTE_CFG d) 16).modRte d fun _ => RteSt.idle else s
  ((s.clearRegs (R.STEP_PLAN p) 0x40).modStep p fun _ => StepSt.idle).setExpertQueues p []

theorem State.freePart_eq (s : State) (p : Nat) :
    s.freePart p = (((((((s.freeSync p).freePorts p).dropKeys p).engineFreed p (s.diesOf p)).each (s.tilesOf p) fun s g => s.takeTile g).each (s.diesOf p)
      fun s d => s.markUsed d).clearRegs (R.PT_CTL p) 0x190).setPart p none := rfl

theorem State.ownersKept_engineFreed (s : State) {p : Nat} (hp : p < 16) {ds : List Nat} (hds : ∀ d ∈ ds, d < 24) :
    s.OwnersKept (s.engineFreed p ds) := by
  unfold State.engineFreed
  extract_lets t u
  have hu : t.OwnersKept u := by
    refine .each _ (fun s d hd => .ite ((State.OwnersKept.clearRegs s fun b hl hh => ?_).trans (.of_regs (State.modRte_regs ..))) (.refl s)) t
    have rte : R.RTE_CFG d = dieBase d + 0x10000 := rfl
    have := elsewhere_die (d := d) (o := b - dieBase d) (by have := hds d hd; omega) (by omega)
    rwa [Nat.add_sub_cancel' (by omega)] at this
  have plan : u.OwnersKept (u.clearRegs (R.STEP_PLAN p) 0x40) :=
    .clearRegs u fun b hl hh => by
      simp only [R.STEP_PLAN, Blk.step] at hl hh
      exact elsewhere_steward (by omega) (by omega)
  have step : (u.clearRegs (R.STEP_PLAN p) 0x40).OwnersKept ((u.clearRegs (R.STEP_PLAN p) 0x40).modStep p fun _ => StepSt.idle) :=
    .of_regs (State.modStep_regs ..)
  exact ((((s.ownersKept_freeMemory hp).trans hu).trans plan).trans step).trans (.of_regs (State.setExpertQueues_regs ..))

/-- PART_DESTROY leaves no tile to the partition and no weight key of it (R99, R480). -/
theorem State.freePart_gone (s : State) {p : Nat} (hp : p < 16) :
    (s.freePart p).part p = none ∧ (∀ g < 1536, (s.freePart p).tilePart g ≠ some p) ∧ ∀ k, (s.freePart p).wkSlot p k = none := by
  have sync := (s.ownersKept_freeSync p).trans (State.ownersKept_freePorts _ p)
  have engines := State.ownersKept_engineFreed (((s.freeSync p).freePorts p).dropKeys p) hp (ds := s.diesOf p) fun _ => State.diesOf_lt
  obtain ⟨tiles, keys⟩ := State.each_takeTile (s.tilesOf p) (fun _ => State.tilesOf_lt) ((((s.freeSync p).freePorts p).dropKeys p).engineFreed p (s.diesOf p))
  rw [State.freePart_eq]
  generalize hk : ((s.freeSync p).freePorts p).dropKeys p = dropped at *
  generalize (dropped.engineFreed p (s.diesOf p)).each (s.tilesOf p) (fun s g => s.takeTile g) = taken at *
  have ended : taken.OwnersKept (((taken.each (s.diesOf p) fun s d => s.markUsed d).clearRegs (R.PT_CTL p) 0x190).setPart p none) := by
    refine .trans (.trans (.each _ (fun s d _ => .of_keeps ((s.keepsRegs_markUsed d).mono fun _ => elsewhere_showRegs)) taken)
      (.clearRegs _ fun b hl hh => ?_)) (.of_regs (State.setPart_regs ..))
    simp only [R.PT_CTL, Blk.pt] at hl hh
    exact elsewhere_steward (by omega) (by omega)
  refine ⟨State.part_setPart _ _ _, fun g hg => ?_, State.wkSlot_none fun i hi => ?_⟩
  · have before : (dropped.engineFreed p (s.diesOf p)).tilePart g = s.tilePart g := by
      rw [engines.tiles g hg, ← hk, State.tilePart_dropKeys _ hp hg, sync.tiles g hg]
    rw [ended.tiles g hg, tiles g hg, before]
    split
    · exact nofun
    next out => exact fun mine => out (List.mem_filter.mpr ⟨List.mem_range.mpr hg, decide_eq_true mine⟩)
  · have lo : 0x203000 ≤ R.SEC_WKEY p i := by simp only [R.SEC_WKEY, Blk.sec]; omega
    have hi' : R.SEC_WKEY p i < 0x203800 := by simp only [R.SEC_WKEY, Blk.sec]; omega
    rw [ended.keys _ lo hi', keys _ lo hi', engines.keys _ lo hi', ← hk, State.rd_dropKeys _ hp hi]

theorem cmdPartDestroy_ok {fn : Nat} {p : Part} {s : State} {x : PartSt} (hf : fn = 0) (hx : s.part p = some x) (hu : x.unrecorded = []) :
    cmdPartDestroy fn p s = (s.freePart p, .ok []) := by
  unfold cmdPartDestroy
  dsimp only
  rw [State.cmd_ok ((firstBad_none_iff _).mpr (by simp [badAt, pfOnly, refuse, hf, hx, hu]))]

end Sys2Proof.Machine
end

section
/-! PROOF. The mailbox commands of chapter 11 complete (R432, R433). -/

namespace Sys2Proof.Machine

/-- The slice that SLICE_SET writes reads back. -/
theorem State.sliceSet_get (s : State) (p : Nat) {grp quantum prio : Nat} (hg : grp ≤ 15) (hq : quantum ≤ 10000) (hp : prio ≤ 15) :
    let t := ((s.fset (R.PT_SLICE p) F.PT_SLICE_GROUP grp).fset (R.PT_SLICE p) F.PT_SLICE_QUANTUM quantum).fset (R.PT_SLICE p) F.PT_SLICE_PRIO prio
    t.fget (R.PT_SLICE p) F.PT_SLICE_GROUP = grp ∧ t.fget (R.PT_SLICE p) F.PT_SLICE_QUANTUM = quantum ∧
      t.fget (R.PT_SLICE p) F.PT_SLICE_PRIO = prio := by
  refine ⟨?_, ?_, ?_⟩ <;> simp (disch := decide) only [State.fget_fset_field, State.fget_fset]
  · exact Nat.mod_eq_of_lt (by change grp < 16; omega)
  · exact Nat.mod_eq_of_lt (by change quantum < 65536; omega)
  · exact Nat.mod_eq_of_lt (by change prio < 16; omega)

/-- The counters that SERVE_STATS with CLR zeroes. -/
theorem State.serveCounters_clear (s : State) (p : Nat) :
    ((s.wr (R.PT_CNT0 p) 0).wr (R.PT_CNT1 p) 0).rd (R.PT_CNT0 p) = 0 ∧ ((s.wr (R.PT_CNT0 p) 0).wr (R.PT_CNT1 p) 0).rd (R.PT_CNT1 p) = 0 :=
  ⟨(State.rd_wr_other _ _ (by simp [R.PT_CNT0, R.PT_CNT1])).trans (State.rd_wr_same _ _ _), State.rd_wr_same _ _ _⟩

/-- What PART_SERVE leaves: its fields, its areas outside RUN and SWAP, and no other register (R433). -/
theorem State.served_get (s : State) (p : Nat) (auto : Bool) {admits pchunk layerch inarea verdict save : Nat} (layeren : Bool) (ha : admits ≤ 255)
    (hp : pchunk ≤ 4096) (hl : layerch ≤ 63) (h : ∀ a ∈ [inarea, verdict, save], a % 65536 = 0 ∧ a < 2 ^ 48) :
    let t := s.served p auto admits pchunk layerch layeren inarea verdict save
    t.flag (R.PT_CTL p) F.PT_CTL_EN = true ∧ t.flag (R.PT_CTL p) F.PT_CTL_AUTO = auto ∧ t.fget (R.PT_SERVE p) F.PT_SERVE_ADMIT = max 1 admits ∧
      t.fget (R.PT_SERVE p) F.PT_SERVE_PCHUNK = pchunk ∧ t.fget (R.PT_SERVE p) F.PT_SERVE_LAYERCH = layerch ∧
      t.flag (R.PT_SERVE p) F.PT_SERVE_LAYEREN = layeren ∧
      (s.ptState p ≠ 1 → s.ptState p ≠ 3 →
        t.area (R.PT_INAREA p) = inarea ∧ t.area (R.PT_VERDICT p) = verdict ∧ t.area (R.PT_SAVE p) = save) ∧
      s.OnlyRegs t (ServeRegs p) := by
  obtain ⟨state, en, at_⟩ := s.serveSet_ctl p auto admits pchunk layerch layeren
  obtain ⟨limit, chunk, layer, on⟩ := s.serveSet_serve p auto layeren ha hp hl
  have only : s.OnlyRegs (s.serveSet p auto admits pchunk layerch layeren) (ServeRegs p) :=
    (s.onlyRegs_serveSet p auto admits pchunk layerch layeren).mono fun _ e => e.imp id .inl
  have branch : s.served p auto admits pchunk layerch layeren inarea verdict save =
      if s.ptState p = 1 ∨ s.ptState p = 3 then s.serveSet p auto admits pchunk layerch layeren
      else (s.serveSet p auto admits pchunk layerch layeren).areasSet p inarea verdict save := by
    rw [State.served, State.ptState, state]
    rfl
  rw [branch]
  generalize s.serveSet p auto admits pchunk layerch layeren = t at *
  dsimp only
  split
  next run => exact ⟨en, at_, limit, chunk, layer, on, fun h1 h3 => absurd run (not_or.mpr ⟨h1, h3⟩), only⟩
  next =>
    have kept {f : Fld} (hf : f.half = 0) := t.areasSet_kept p inarea verdict save hf
    refine ⟨(State.flag_congr (kept rfl).1).trans en, (State.flag_congr (kept rfl).1).trans at_, (kept rfl).2.trans limit, (kept rfl).2.trans chunk,
      (kept rfl).2.trans layer, (State.flag_congr (kept rfl).2).trans on, fun _ _ => t.areasSet_area p h, ?_⟩
    exact only.trans ((t.onlyRegs_areasSet p inarea verdict save).mono fun _ e => .inr (.inr e))

/-- An id that ADAPTER_DROP unmapped points at no slot, and freeing slots leaves the ids (R417). -/
theorem PartSt.freeAdapters_unmapped (x : PartSt) (aid : Nat) (l : List (Nat × Nat)) :
    spGet (fun _ => none) (PartSt.freeAdapters { x with ids := spPut (fun _ => none) x.ids aid none, puts := l }).ids aid = none := by
  change spGet (fun _ => none) (spPut (fun _ => none) x.ids aid none) aid = none
  exact spGet_spPut_same _ _ _ _

/-- Settles O49: each command's checks pass, and its effect is read off what it writes; PART_CREATE and PART_DESTROY rest on the frames of the
tiles' owners. -/
theorem servingCommandsComplete : Obligations.ServingCommandsComplete := by
  refine ⟨fun s fn p clusters hm hf hl hn hb hu => ?_, fun s p g _ ht hh b hb => s.giveTile_on p ht hh hb, fun s fn p x hm hf hx hu => ?_,
    fun s fn p rings hm hf he h nd => ?_,
    fun s fn p auto admits pchunk layerch layeren inarea verdict save hm hf he ha h1 hp hl h gi gv gs => ?_,
    fun s fn p aid bytes n addr x r hm hf hx ha h48 hr hin hn => ?_, fun s fn p aid hm hf he ha => ?_,
    fun s fn p addr x hm hf hx hr h0 h48 ht => ?_, fun s fn p grp quantum prio hm hf he hg hq hp => ?_, fun s fn p clr x hm hf hx => ?_⟩
  · refine answers_of_row (fun _ => rfl) hm (cmdPartCreate_ok hf hl hn hb hu) ⟨rfl, State.part_setPart _ _ _, fun r hr => ?_, ?_,
      fun g hg free => ?_, fun g hg held => ?_⟩
    · exact s.ringOn_partCreated p.isLt clusters hr
    · exact s.ptState_partCreated p.isLt clusters
    · exact (s.tilePart_partCreated p.isLt clusters (maskTiles_lt hg)).trans (if_pos ⟨hg, free⟩)
    · exact (s.tilePart_partCreated p.isLt clusters hg).trans (if_neg fun k => held k.2)
  · exact answers_of_row (fun _ => rfl) hm (cmdPartDestroy_ok hf hx hu) ⟨rfl, s.freePart_gone p.isLt⟩
  · refine answers_of_row (fun _ => rfl) hm (cmdPartRings_ok hf he h) ⟨rfl, fun r hr => s.ringsSet_get p nd (fun a ha => ?_) hr⟩
    obtain ⟨h0, h64, _, h16, _⟩ := h a ha
    exact ⟨h0, h64, h16⟩
  · have areas : ∀ a ∈ [inarea.toNat, verdict.toNat, save.toNat], a % 65536 = 0 ∧ a < 2 ^ 48 := fun a ha => by
      obtain ⟨w, hw, rfl⟩ := List.mem_map.mp (show a ∈ [inarea, verdict, save].map BitVec.toNat from ha)
      exact h w hw
    exact answers_of_row (fun _ => rfl) hm (cmdPartServe_ok hf he auto layeren ha h1 hp hl areas gi gv gs)
      ⟨rfl, s.served_get p auto layeren ha hp hl areas⟩
  · refine answers_of_row (fun _ => rfl) hm (cmdAdapterPut_ok hf hx ha h48 hr hin hn) ⟨?_, rfl, State.setPart_regs .., State.setPart_mem ..⟩
    rw [State.part_setPart]
    rfl
  · obtain ⟨x, hx⟩ := Option.isSome_iff_exists.mp he
    exact answers_of_row (fun _ => rfl) hm (cmdAdapterDrop_ok hf hx ha)
      ⟨rfl, State.setPart_regs .., State.setPart_mem .., _, State.part_setPart .., x.freeAdapters_unmapped aid _⟩
  · refine answers_of_row (fun _ => rfl) hm (cmdWeightDir_ok hm hf hx hr h0 h48 ht) ⟨rfl, ?_, ?_⟩
    · exact (State.area_congr (State.fget_measure_pt _ p.isLt _ _ rfl)).trans (s.area_fset _ h0 h48)
    · exact (State.measure_mem ..).trans (s.fset_mem ..)
  · obtain ⟨g, q, pr⟩ := s.sliceSet_get p hg hq hp
    refine answers_of_row (fun _ => rfl) hm (cmdSliceSet_ok hf he hg hq hp) ⟨rfl, g, q, pr, ?_⟩
    exact ((s.onlyRegs_fset_at _ rfl _).trans (State.onlyRegs_fset_at _ _ rfl _)).trans (State.onlyRegs_fset_at _ _ rfl _)
  · refine answers_of_row (fun _ => rfl) hm (cmdServeStats_ok hf hx clr) ⟨rfl, fun hc => ?_, ?_⟩
    · rw [hc, if_pos rfl]
      exact s.serveCounters_clear p
    · cases clr with
      | false => exact .refl s _
      | true => exact (s.onlyRegs_wr _ _ _ ⟨rfl, .inl rfl⟩).trans (State.onlyRegs_wr _ _ _ _ ⟨rfl, .inr rfl⟩)

end Sys2Proof.Machine
end

section
/-! PROOF. Rounding to nearest even and stochastic rounding (R54, R55), and the draws of a tile's generator (R56). -/

namespace Sys2Proof.Machine

/-! ## Nearest even (R54) -/

/-- Rounding moves `n` by at most half of `2 ^ j`, and by exactly half only to an even integer. -/
theorem rneShift_halfway (n : Int) (j : Nat) :
    (2 * (n - (rneShift n j).1 * 2 ^ j)).natAbs ≤ 2 ^ j ∧
      ((2 * (n - (rneShift n j).1 * 2 ^ j)).natAbs = 2 ^ j → (rneShift n j).1 % 2 = 0) := by
  have parts : n = 2 ^ j * (n / 2 ^ j) + n % 2 ^ j := (Int.mul_ediv_add_emod n (2 ^ j)).symm
  have low : 0 ≤ n % 2 ^ j := Int.emod_nonneg n (by positivity)
  have high : n % 2 ^ j < 2 ^ j := Int.emod_lt_of_pos n (by positivity)
  have size : (2 ^ j : Nat) = ((2 : Int) ^ j).natAbs := (Int.natAbs_pow 2 j).symm
  unfold rneShift
  push_cast
  rw [size]
  generalize (2 : Int) ^ j = p at *
  generalize n / p = q, n % p = r at *
  subst parts
  split_ifs with up
  · have e : p * q + r - (q + 1) * p = r - p := by ring
    rw [e]
    omega
  · have e : p * q + r - q * p = r := by ring
    rw [e]
    omega

/-- A multiple of `p` that lies within half of `p` is a nearest one. -/
theorem natAbs_sub_mul_le_of_halfway {n q p : Int} (h : (2 * (n - q * p)).natAbs ≤ p.natAbs) (z : Int) :
    (n - q * p).natAbs ≤ (n - z * p).natAbs := by
  by_cases e : q = z
  · rw [e]
  · have far : p.natAbs ≤ (q * p - z * p).natAbs := by
      rw [← Int.sub_mul, Int.natAbs_mul]
      exact Nat.le_mul_of_pos_left _ (by omega)
    omega

theorem roundRne_neg (n : Int) (j : Nat) : roundRne n (-(j : Int)) = (rneShift n j).1 := by
  rw [roundRne, alignBy, Int.neg_neg, Int.natAbs_natCast]
  rcases Nat.eq_zero_or_pos j with rfl | hj
  · simp [rneShift]
  · rw [if_neg (by omega)]

theorem roundRne_natCast (n : Int) (k : Nat) : roundRne n k = n * 2 ^ k := by
  rw [roundRne, alignBy, if_pos (by omega), Int.natAbs_neg, Int.natAbs_natCast, Nat.cast_pow, Nat.cast_ofNat]

/-- Settles O14: a rounded value lies within half of `2 ^ j`, so no other multiple lies nearer. -/
theorem roundingToNearestEven : Obligations.RoundingToNearestEven := by
  refine ⟨roundRne_natCast, fun n j => ?_⟩
  obtain ⟨half, tie⟩ := rneShift_halfway n j
  rw [roundRne_neg]
  exact ⟨half, fun e _ => tie e, natAbs_sub_mul_le_of_halfway (by rwa [Int.natAbs_pow])⟩

/-! ## Stochastic rounding (R55) -/

theorem ceilDiv_bounds (a : Nat) {b : Nat} (h : 0 < b) : a ≤ ceilDiv a b * b ∧ ceilDiv a b * b < a + b := by
  have parts := Nat.div_add_mod (a + b - 1) b
  have low := Nat.mod_lt (a + b - 1) h
  unfold ceilDiv
  rw [Nat.mul_comm]
  omega

/-- The least integer not below 65,536 times the fraction of `n / 2 ^ j`: draws below it round up. -/
def stoCut (n : Int) (j : Nat) : Nat := ceilDiv ((n % 2 ^ j).toNat * 65536) (2 ^ j)

theorem stoCut_bounds (n : Int) (j : Nat) :
    n % 2 ^ j * 65536 ≤ stoCut n j * 2 ^ j ∧ (stoCut n j : Int) * 2 ^ j < n % 2 ^ j * 65536 + 2 ^ j := by
  have fraction : ((n % 2 ^ j).toNat : Int) = n % 2 ^ j := Int.toNat_of_nonneg (Int.emod_nonneg n (by positivity))
  obtain ⟨low, high⟩ := ceilDiv_bounds ((n % 2 ^ j).toNat * 65536) (Nat.two_pow_pos j)
  rw [← fraction]
  exact_mod_cast And.intro low high

theorem stoCut_exact {n : Int} {j : Nat} (h : n % 2 ^ j = 0) : stoCut n j = 0 := by
  rw [stoCut, h, Int.toNat_zero, Nat.zero_mul, ceilDiv, Nat.zero_add, Nat.div_eq_of_lt (Nat.sub_one_lt (Nat.two_pow_pos j).ne')]

theorem stoCut_le (n : Int) (j : Nat) : stoCut n j ≤ 65536 := by
  have fraction : n % 2 ^ j < 2 ^ j := Int.emod_lt_of_pos n (by positivity)
  have bound : (stoCut n j : Int) * 2 ^ j < 65537 * 2 ^ j := by
    have := (stoCut_bounds n j).2
    omega
  have : (stoCut n j : Int) < 65537 := lt_of_mul_lt_mul_right bound (by positivity)
  omega

theorem roundSto_natCast (n : Int) (k u : Nat) : roundSto n k u = n * 2 ^ k := by
  rw [roundSto, if_pos (Int.natCast_nonneg k), Int.natAbs_natCast, Nat.cast_pow, Nat.cast_ofNat]

theorem roundSto_neg (n : Int) (j u : Nat) : roundSto n (-(j : Int)) u = if u < stoCut n j then n / 2 ^ j + 1 else n / 2 ^ j := by
  rcases Nat.eq_zero_or_pos j with rfl | hj
  · rw [stoCut_exact (by simp), if_neg (Nat.not_lt_zero u)]
    simp [roundSto]
  · rw [roundSto, if_neg (by omega), Int.natAbs_neg, Int.natAbs_natCast]
    push_cast
    rfl

/-- An exact value stays where it is, and otherwise the draws below the cut, and no others, round up. -/
theorem roundSto_draw (n : Int) (j u : Nat) :
    (n % 2 ^ j = 0 → roundSto n (-(j : Int)) u * 2 ^ j = n) ∧
      ∃ c : Nat, (n % 2 ^ j) * 65536 ≤ c * 2 ^ j ∧ c * 2 ^ j < (n % 2 ^ j) * 65536 + 2 ^ j ∧
        roundSto n (-(j : Int)) u = if u < c then n / 2 ^ j + 1 else n / 2 ^ j := by
  obtain ⟨low, high⟩ := stoCut_bounds n j
  refine ⟨fun h => ?_, stoCut n j, low, high, roundSto_neg n j u⟩
  rw [roundSto_neg, stoCut_exact h, if_neg (Nat.not_lt_zero u)]
  exact Int.ediv_mul_cancel_of_emod_eq_zero h

/-- A sum of `m` terms, of which those before index `c` are one larger than the others. -/
theorem sum_range_step (l : Int) (c m : Nat) :
    ((List.range m).map fun u => if u < c then l + 1 else l).sum = m * l + (min c m : Nat) := by
  induction m with
  | zero => simp
  | succ m ih =>
    rw [List.range_succ, List.map_append, List.sum_append, ih, List.map_singleton, List.sum_singleton, Nat.cast_succ, Int.add_mul, Int.one_mul]
    split <;> omega

/-- Over all draws the excess of the rounded values is what the cut was rounded up by. -/
theorem roundSto_total (n : Int) (j : Nat) :
    let total := ((List.range 65536).map fun u => roundSto n (-(j : Int)) u).sum
    n * 65536 ≤ total * 2 ^ j ∧ total * 2 ^ j < n * 65536 + 2 ^ j := by
  have parts : 2 ^ j * (n / 2 ^ j) + n % 2 ^ j = n := Int.mul_ediv_add_emod n (2 ^ j)
  obtain ⟨low, high⟩ := stoCut_bounds n j
  simp only [roundSto_neg]
  rw [sum_range_step, Nat.min_eq_left (stoCut_le n j)]
  have e : (((65536 : Nat) : Int) * (n / 2 ^ j) + (stoCut n j : Nat)) * 2 ^ j = (n - n % 2 ^ j) * 65536 + stoCut n j * 2 ^ j := by
    push_cast
    linear_combination 65536 * parts
  rw [e]
  omega

/-! ## The generator's draws (R56) -/

/-- The draws left of the generator's step are 16-bit values. -/
def Rng.Sound (r : Rng) : Prop := ∀ u ∈ r.left, u < 65536

/-- A fresh step, with which every instruction begins, leaves no draw that is not 16 bits. -/
theorem Rng.sound_fresh (x : Word64) : (⟨x, []⟩ : Rng).Sound := nofun

theorem rngDraw_sound {r : Rng} (h : r.Sound) : (rngDraw r).1 < 65536 ∧ (rngDraw r).2.Sound := by
  obtain ⟨x, left⟩ := r
  have bits (v hi lo : Nat) (w : hi + 1 - lo = 16) : bitsOf v hi lo < 65536 := by
    rw [bitsOf, w]
    exact Nat.mod_lt _ (by decide)
  cases left with
  | cons u rest => exact List.forall_mem_cons.mp h
  | nil =>
    refine ⟨bits _ _ _ rfl, ?_⟩
    simp only [Rng.Sound, rngDraw, List.forall_mem_cons]
    exact ⟨bits _ _ _ rfl, bits _ _ _ rfl, bits _ _ _ rfl, List.forall_mem_nil _⟩

theorem rngDrawN_sound {r : Rng} (h : r.Sound) (n : Nat) : (∀ u ∈ (rngDrawN n r).1, u < 65536) ∧ (rngDrawN n r).2.Sound := by
  induction n generalizing r with
  | zero => exact ⟨nofun, h⟩
  | succ n ih =>
    obtain ⟨first, next⟩ := rngDraw_sound h
    obtain ⟨rest, last⟩ := ih next
    exact ⟨List.forall_mem_cons.mpr ⟨first, rest⟩, last⟩

theorem rngDrawN_length (n : Nat) (r : Rng) : (rngDrawN n r).1.length = n := by
  induction n generalizing r with
  | zero => rfl
  | succ n ih => exact congrArg Nat.succ (ih _)

/-! ## What holds of O15, and its refutation -/

/-- What O15 says, with the clause on the draw asked of generators whose draws left are 16-bit values: the rounding, its total over all
draws, and a requantised sheaf's draws, one for every element. -/
theorem stochasticRounding_of_sound :
    (∀ (n : Int) (j u : Nat), (n % 2 ^ j = 0 → roundSto n (-(j : Int)) u * 2 ^ j = n) ∧
      ∃ c : Nat, (n % 2 ^ j) * 65536 ≤ c * 2 ^ j ∧ c * 2 ^ j < (n % 2 ^ j) * 65536 + 2 ^ j ∧
        roundSto n (-(j : Int)) u = if u < c then n / 2 ^ j + 1 else n / 2 ^ j) ∧
    (∀ (n : Int) (k u : Nat), roundSto n k u = n * 2 ^ k) ∧
    (∀ (n : Int) (j : Nat), let total := ((List.range 65536).map fun u => roundSto n (-(j : Int)) u).sum
      n * 65536 ≤ total * 2 ^ j ∧ total * 2 ^ j < n * 65536 + 2 ^ j) ∧
    (∀ x : Word64, Rng.Sound ⟨x, []⟩) ∧ (∀ r : Rng, r.Sound → (rngDraw r).1 < 65536) ∧
    (∀ (p : RqParam) (xs : List (Int × Int)) (r : Rng), p.sto = true → r.Sound →
      rqSheafRng p xs r = (rqSheaf p xs (rngDrawN xs.length r).1, (rngDrawN xs.length r).2) ∧
        (rngDrawN xs.length r).1.length = xs.length ∧ (∀ u ∈ (rngDrawN xs.length r).1, u < 65536) ∧ (rngDrawN xs.length r).2.Sound) :=
  ⟨roundSto_draw, roundSto_natCast, roundSto_total, Rng.sound_fresh, fun _ h => (rngDraw_sound h).1,
    fun _ xs r hp h => ⟨if_pos hp, rngDrawN_length xs.length r, rngDrawN_sound h xs.length⟩⟩

/-- Refutes O15: its clause on the draw asks it of every `Rng`, and one with 65,536 among its draws left, which no run from
a fresh step reaches (`rngDrawN_sound`), gives that as its next draw. The other clauses hold (`stochasticRounding_of_sound`). -/
theorem not_stochasticRounding : ¬ Obligations.StochasticRounding := by
  unfold Obligations.StochasticRounding
  rintro ⟨_, _, _, draw, _⟩
  exact absurd (draw ⟨0, [65536]⟩) (by decide)

end Sys2Proof.Machine
end

section
/-! PROOF. The commands and register writes of chapter 2 complete (R56, R67 to R74). -/

namespace Sys2Proof.Machine

/-! ## Folds of changes at registers of their own -/

/-- In a fold over different elements, an element's turn comes at a state `u` that differs from the first, and its result differs from the
last, only in registers that belong to other elements. -/
theorem State.each_turn {α : Type} (A : α → Nat → Prop) {f : State → α → State} (h : ∀ (s : State) x, s.OnlyRegs (f s x) (A x)) {l : List α}
    (nd : l.Nodup) {x : α} (hx : x ∈ l) (s : State) :
    ∃ u, s.KeepsRegs u (fun a => ∃ y ∈ l, y ≠ x ∧ A y a) ∧ (f u x).KeepsRegs (s.each l f) (fun a => ∃ y ∈ l, y ≠ x ∧ A y a) := by
  obtain ⟨pre, post, rfl⟩ := List.append_of_mem hx
  have others : ∀ y ∈ pre ++ post, y ≠ x := fun y hy e => (List.nodup_middle.mp nd).notMem (e ▸ hy)
  have fold (m : List α) (hm : m ⊆ pre ++ post) (s : State) :
      s.KeepsRegs (s.each m f) (fun a => ∃ y ∈ pre ++ x :: post, y ≠ x ∧ A y a) :=
    State.keepsRegs_each m (fun s y hy => State.KeepsRegs.mono (h s y).2 fun _ ha =>
      ⟨y, List.perm_middle.mem_iff.mpr (List.mem_cons_of_mem x (hm hy)), others y (hm hy), ha⟩) s
  refine ⟨s.each pre f, fold pre (List.subset_append_left pre post) s, ?_⟩
  have last : s.each (pre ++ x :: post) f = (f (s.each pre f) x).each post f := List.foldl_append
  rw [last]
  exact fold post (List.subset_append_right pre post) _

theorem State.fget_fadd (s : State) (a : Nat) (f : Fld) (h : f.ok) (n : Nat) : (s.fadd a f n).fget a f = min (fldTop f) (s.fget a f + n) :=
  s.fget_fset_lt a f h ((Nat.min_le_left _ _).trans_lt (Nat.sub_one_lt (Nat.two_pow_pos _).ne'))

theorem State.fget_fadd_field (s : State) (a : Nat) (f g : Fld) (hf : f.ok) (e : f.half = g.half) (d : g.hi < f.lo ∨ f.hi < g.lo) (n : Nat) :
    (s.fadd a f n).fget a g = s.fget a g := s.fget_fset_field a f g hf e d _

theorem State.onlyRegs_fadd (s : State) (a : Nat) (f : Fld) (n : Nat) : s.OnlyRegs (s.fadd a f n) fun b => b = a + 8 * f.half := by
  rw [State.fadd]
  exact s.onlyRegs_fset a f _ _ rfl

/-! ## Where a Winnow unit and a tile lie -/

theorem wnw_eq {d : Nat} (h : d < 24) : Blk.wnw d = 0x10040000 + d * 0x1000000 := by
  unfold Blk.wnw dieBase
  rw [if_pos h]
  omega

/-! ## ARITH_SEED (R56, R71) -/

theorem firstBad_ownPart_ok {fn : Fun} {p : Part} (h : OwnFn fn p) : firstBad [ownPart fn p] = none :=
  (firstBad_none_iff _).mpr (by simp [ownPart_false h])

/-- The tiles' generators as ARITH_SEED sets them. -/
def State.seedTiles (s : State) (l : List Nat) (seed : Nat) : State :=
  s.each l fun s g => s.fset (R.TIL_RNG g) F.TIL_RNG_STATE (seed ^^^ ((g + 1) * 0x100000001 % 2 ^ 64))

theorem cmdArithSeed_ok {fn : Fun} {p : Part} (h : OwnFn fn p) (seed : Nat) (s : State) :
    cmdArithSeed fn p seed s = (s.seedTiles (s.tilesOf p) seed, .ok (lay [(8, seed), (2, (s.tilesOf p).length)])) :=
  State.cmd_ok (firstBad_ownPart_ok h)

theorem State.seedTiles_rng (s : State) {l : List Nat} (hl : ∀ g ∈ l, g < 1536) {seed : Nat} (hs : seed < 2 ^ 64) :
    ∀ g ∈ l, (s.seedTiles l seed).fget (R.TIL_RNG g) F.TIL_RNG_STATE = seed ^^^ ((g + 1) * 0x100000001 % 2 ^ 64) := by
  refine State.fget_each _ R.TIL_RNG _ (fun g => seed ^^^ ((g + 1) * 0x100000001 % 2 ^ 64)) l (fun s g _ => ?_) (fun s g _ h _ ne => ?_)
    (fun g hg h hh e => ?_) s
  · exact s.fget_fset_lt _ _ (by decide) (Nat.xor_lt_two_pow hs (Nat.mod_lt _ (by decide)))
  · exact s.fget_fset_other _ _ _ (by omega)
  · have own : R.TIL_OWNER h = R.TIL_OWNER g := by
      unfold R.TIL_RNG at e
      unfold R.TIL_OWNER
      omega
    rw [tilOwner_inj (hl g hg) (hl h hh) own]

theorem State.onlyRegs_seedTiles (s : State) (l : List Nat) (seed : Nat) : s.OnlyRegs (s.seedTiles l seed) fun a => ∃ g ∈ l, a = R.TIL_RNG g :=
  State.onlyRegs_each _ _ l (fun s g hg => s.onlyRegs_fset _ _ _ _ ⟨g, hg, rfl⟩) s

/-! ## WINNOW_SET (R71) -/

/-- What WINNOW_SET does at one die. -/
def State.winnowSetDie (s : State) (fn rate : Nat) (sample fault : Bool) (d : Nat) : State :=
  let a := R.WNW_CTL d
  let m := s.fnClusters fn d
  let s := s.fset a F.WNW_CTL_CLMASK (setMask (s.fget a F.WNW_CTL_CLMASK) m sample)
  let s := s.fset a F.WNW_CTL_FLTMASK (setMask (s.fget a F.WNW_CTL_FLTMASK) m fault)
  if fn = 0 then
    let s := s.fset a F.WNW_CTL_EN (bit sample)
    if rate = 0 then s else s.fset a F.WNW_CTL_RATE rate
  else s

theorem cmdWinnowSet_ok {fn : Fun} {rate : Nat} (h : rate = 0 ∨ (fn.val = 0 ∧ 6 ≤ rate ∧ rate ≤ 16)) (sample fault : Bool) (s : State) :
    cmdWinnowSet fn rate sample fault s =
      (s.each (List.range 24) fun s d => s.winnowSetDie fn rate sample fault d).told ((List.range 24).map R.WNW_CTL) :=
  State.cmd_ok ((firstBad_none_iff _).mpr (by
    simp only [List.forall_mem_cons, badAt, decide_eq_false_iff_not]
    exact ⟨by omega, by omega, List.forall_mem_nil _⟩))

/-- A sum of at most one of each of the first `n` powers of two. -/
theorem foldl_range_lt_two_pow (f : Nat → Nat) (h : ∀ c, f c ≤ 2 ^ c) (n : Nat) : ((List.range n).map f).foldl (· + ·) 0 < 2 ^ n := by
  induction n with
  | zero => exact Nat.one_pos
  | succ n ih =>
    rw [List.range_succ, List.map_append, List.foldl_append, Nat.pow_succ, List.map_singleton, List.foldl_cons, List.foldl_nil]
    have := h n
    omega

theorem State.fnClusters_lt (s : State) (fn d : Nat) : s.fnClusters fn d < 2 ^ 8 :=
  foldl_range_lt_two_pow _ (fun c => by split <;> simp) 8

theorem setMask_lt {old m n : Nat} (ho : old < 2 ^ n) (hm : m < 2 ^ n) (on : Bool) : setMask old m on < 2 ^ n := by
  cases on with
  | true => exact Nat.or_lt_two_pow ho hm
  | false => exact (Nat.sub_le _ _).trans_lt ho

theorem State.fnClusters_congr {s t : State} (fn : Nat) {d : Nat} (hd : d < 24) (h : ∀ g < 1536, t.tilePart g = s.tilePart g) :
    t.fnClusters fn d = s.fnClusters fn d := by
  unfold State.fnClusters
  congr 1
  refine List.map_congr_left fun c hc => ?_
  rw [h _ (by have := List.mem_range.mp hc; omega)]

theorem State.onlyRegs_winnowSetDie (s : State) (fn rate : Nat) (sample fault : Bool) (d : Nat) :
    s.OnlyRegs (s.winnowSetDie fn rate sample fault d) fun a => a = R.WNW_CTL d := by
  have field (s : State) {f : Fld} (h : f.half = 0) (n : Nat) := s.onlyRegs_fset_at (R.WNW_CTL d) h n
  unfold State.winnowSetDie
  dsimp only
  split_ifs
  · exact ((field s rfl _).trans (field _ rfl _)).trans (field _ rfl _)
  · exact (((field s rfl _).trans (field _ rfl _)).trans (field _ rfl _)).trans (field _ rfl _)
  · exact (field s rfl _).trans (field _ rfl _)

/-- The fields of a die's WNW_CTL in `t`, after WINNOW_SET found them as they are in `s`. -/
structure State.WinnowSetAt (s t : State) (fn rate : Nat) (sample fault : Bool) (d : Nat) : Prop where
  clmask : t.fget (R.WNW_CTL d) F.WNW_CTL_CLMASK = setMask (s.fget (R.WNW_CTL d) F.WNW_CTL_CLMASK) (s.fnClusters fn d) sample
  fltmask : t.fget (R.WNW_CTL d) F.WNW_CTL_FLTMASK = setMask (s.fget (R.WNW_CTL d) F.WNW_CTL_FLTMASK) (s.fnClusters fn d) fault
  en : t.fget (R.WNW_CTL d) F.WNW_CTL_EN = if fn = 0 then bit sample else s.fget (R.WNW_CTL d) F.WNW_CTL_EN
  rate : t.fget (R.WNW_CTL d) F.WNW_CTL_RATE = if rate = 0 then s.fget (R.WNW_CTL d) F.WNW_CTL_RATE else rate

/-- The masks, EN and RATE fit their fields, and no field shares a bit with another. -/
theorem State.winnowSetAt_die (s : State) {fn rate : Nat} (h : rate = 0 ∨ (fn = 0 ∧ rate ≤ 16)) (sample fault : Bool) (d : Nat) :
    s.WinnowSetAt (s.winnowSetDie fn rate sample fault d) fn rate sample fault d := by
  have mask (f : Fld) (w : f.hi + 1 - f.lo = 8) (on : Bool) :
      setMask (s.fget (R.WNW_CTL d) f) (s.fnClusters fn d) on % 256 = setMask (s.fget (R.WNW_CTL d) f) (s.fnClusters fn d) on :=
    Nat.mod_eq_of_lt (setMask_lt (n := 8) ((fldGet_lt f _).trans_eq (by rw [w])) (s.fnClusters_lt fn d) on)
  have cl := mask F.WNW_CTL_CLMASK rfl sample
  have flt := mask F.WNW_CTL_FLTMASK rfl fault
  have en : bit sample % 2 = bit sample := Nat.mod_eq_of_lt (by cases sample <;> decide)
  have rt : rate % 32 = rate := Nat.mod_eq_of_lt (by omega)
  suffices fields : _ ∧ _ ∧ _ ∧ _ from have ⟨cl, flt, en, rt⟩ := fields; ⟨cl, flt, en, rt⟩
  unfold State.winnowSetDie
  dsimp only
  split_ifs with pf zero zero
  all_goals simp (disch := decide) only [State.fget_fset_field, State.fget_fset]
  · exact ⟨cl, flt, en, trivial⟩
  · exact ⟨cl, flt, en, rt⟩
  · exact ⟨cl, flt, trivial, trivial⟩
  · omega

/-- A Winnow unit's control register is no tile's owner. -/
theorem wnwCtl_ne_owner {d g : Nat} (hd : d < 24) (hg : g < 1536) : R.TIL_OWNER g ≠ R.WNW_CTL d := by
  rw [R.TIL_OWNER, R.WNW_CTL, til_eq hg, wnw_eq hd]
  omega

/-- What WINNOW_SET leaves at each die: the die's turn finds its register and the tiles' owners as the command found them. -/
theorem State.winnowSetAt_each (s : State) {fn rate : Nat} (h : rate = 0 ∨ (fn = 0 ∧ rate ≤ 16)) (sample fault : Bool) (d : CDie) :
    s.WinnowSetAt (s.each (List.range 24) fun s d => s.winnowSetDie fn rate sample fault d) fn rate sample fault d := by
  obtain ⟨u, before, after⟩ := State.each_turn (fun d a => a = R.WNW_CTL d)
    (fun s d => s.onlyRegs_winnowSetDie fn rate sample fault d) List.nodup_range (List.mem_range.mpr d.isLt) s
  have own : ¬ ∃ y ∈ List.range 24, y ≠ d.val ∧ R.WNW_CTL d = R.WNW_CTL y := by
    rintro ⟨y, hy, ne, e⟩
    rw [R.WNW_CTL, R.WNW_CTL, wnw_eq d.isLt, wnw_eq (List.mem_range.mp hy)] at e
    omega
  have owner {g : Nat} (hg : g < 1536) : ¬ ∃ y ∈ List.range 24, y ≠ d.val ∧ R.TIL_OWNER g = R.WNW_CTL y :=
    fun ⟨_, hy, _, e⟩ => wnwCtl_ne_owner (List.mem_range.mp hy) hg e
  have clusters : u.fnClusters fn d = s.fnClusters fn d := State.fnClusters_congr fn d.isLt fun g hg => State.tilePart_congr (before _ (owner hg))
  have found {f : Fld} (hf : f.half = 0) : u.fget (R.WNW_CTL d) f = s.fget (R.WNW_CTL d) f := before.fget (by rw [hf]; exact own)
  have stays {f : Fld} (hf : f.half = 0) := after.fget (a := R.WNW_CTL d) (f := f) (by rw [hf]; exact own)
  obtain ⟨cl, flt, en, rt⟩ := u.winnowSetAt_die h sample fault d
  rw [clusters, found rfl] at cl flt
  rw [found rfl] at en rt
  exact ⟨(stays rfl).trans cl, (stays rfl).trans flt, (stays rfl).trans en, (stays rfl).trans rt⟩

/-! ## ARITH_STATS (R71, R74) -/

/-- The registers of a tile's arithmetic counters. -/
abbrev ArCounter (g a : Nat) : Prop := a = R.TIL_ARCNT0 g ∨ a = R.TIL_ARCNT1 g ∨ a = R.TIL_ARCNT2 g

theorem State.rd_arClear (s : State) (g a : Nat) : (s.arClear g).rd a = if ArCounter g a then 0 else s.rd a := by
  unfold ArCounter State.arClear
  simp only [State.rd_wr]
  split_ifs <;> tauto

/-- The counters of the tiles cleared read 0, and every other register stands. -/
theorem State.rd_each_arClear (l : List Nat) (s : State) (a : Nat) :
    (s.each l fun s g => s.arClear g).rd a = if ∃ g ∈ l, ArCounter g a then 0 else s.rd a := by
  unfold State.each
  induction l generalizing s with
  | nil => simp
  | cons g r ih =>
    rw [List.foldl_cons, ih, State.rd_arClear]
    by_cases here : ArCounter g a <;> by_cases later : ∃ g ∈ r, ArCounter g a <;> simp [here, later]

theorem State.onlyRegs_arClear (s : State) (g : Nat) : s.OnlyRegs (s.arClear g) (ArCounter g) :=
  ((s.onlyRegs_wr _ _ _ (.inl rfl)).trans (State.onlyRegs_wr _ _ _ _ (.inr (.inl rfl)))).trans (State.onlyRegs_wr _ _ _ _ (.inr (.inr rfl)))

/-- The state that ARITH_STATS leaves. -/
def State.arCleared (s : State) (l : List Nat) (clr : Bool) : State := if clr then s.each l fun s g => s.arClear g else s

theorem cmdArithStats_ok {fn : Fun} {p : Part} (h : OwnFn fn p) (clr : Bool) (s : State) :
    cmdArithStats fn p clr s = (s.arCleared (s.tilesOf p) clr,
      .ok (lay (s.tileSums (s.tilesOf p) [(R.TIL_ARCNT0, F.TIL_ARCNT0_SATELEM), (R.TIL_ARCNT0, F.TIL_ARCNT0_SATBLK),
          (R.TIL_ARCNT1, F.TIL_ARCNT1_ZEROBLK), (R.TIL_ARCNT1, F.TIL_ARCNT1_INEXACT), (R.TIL_ARCNT2, F.TIL_ARCNT2_FORMAT),
          (R.TIL_ARCNT2, F.TIL_ARCNT2_POISON), (R.TIL_ARCNT2, F.TIL_ARCNT2_WNWSTALL)] ++
        s.tileSums (List.range 24) [(R.WNW_CNT0, F.WNW_CNT0_SAMPLED), (R.WNW_CNT0, F.WNW_CNT0_MISMATCH),
          (R.WNW_CNT1, F.WNW_CNT1_SKIPPED), (R.WNW_CNT1, F.WNW_CNT1_ABANDONED)]))) :=
  State.cmd_ok (firstBad_ownPart_ok h)

theorem State.rd_arCleared (s : State) (l : List Nat) (clr : Bool) (a : Nat) :
    (s.arCleared l clr).rd a = if clr = true ∧ ∃ g ∈ l, ArCounter g a then 0 else s.rd a := by
  cases clr with
  | true => simpa [State.arCleared] using State.rd_each_arClear l s a
  | false => simp [State.arCleared]

theorem State.onlyRegs_arCleared (s : State) (l : List Nat) (clr : Bool) : s.OnlyRegs (s.arCleared l clr) fun a => ∃ g ∈ l, ArCounter g a := by
  cases clr with
  | true => exact State.onlyRegs_each _ _ l (fun s g hg => (s.onlyRegs_arClear g).mono fun _ ha => ⟨g, hg, ha⟩) s
  | false => exact .refl s _

/-! ## WINNOW_COMPARE (R68 to R70) -/

theorem worstOf_eq_none {l : List WnwElem} : worstOf l = none ↔ l = [] := by
  cases l with
  | nil => exact ⟨fun _ => rfl, fun _ => rfl⟩
  | cons e r =>
    refine ⟨fun h => ?_, nofun⟩
    unfold worstOf at h
    split at h
    · cases h
    · split at h <;> cases h

/-- The captured block taken away and counted as sampled. -/
def State.sampled (s : State) (d : Nat) : State :=
  { s with captures := spPut (fun _ => none) s.captures d none }.fadd (R.WNW_CNT0 d) F.WNW_CNT0_SAMPLED 1

/-- A log entry touches the unit's log and its pointer only (R70). -/
theorem State.onlyRegs_winnowLog (s : State) (d : Nat) (c : Capture) (w : WnwElem) :
    s.OnlyRegs (s.winnowLog d c w) fun a => R.WNW_LOGPTR d ≤ a := by
  have ptr (s : State) (f : Fld) (n : Nat) : s.OnlyRegs (s.fset (R.WNW_LOGPTR d) f n) fun a => R.WNW_LOGPTR d ≤ a :=
    s.onlyRegs_fset _ _ _ _ (Nat.le_add_right _ _)
  have entry (s : State) (n : Nat) (x y : Word64) : s.OnlyRegs ((s.wr (R.WNW_LOGA d n) x).wr (R.WNW_LOGB d n) y) fun a => R.WNW_LOGPTR d ≤ a :=
    (s.onlyRegs_wr _ _ _ (by simp only [R.WNW_LOGPTR, R.WNW_LOGA]; omega)).trans
      (State.onlyRegs_wr _ _ _ _ (by simp only [R.WNW_LOGPTR, R.WNW_LOGB]; omega))
  unfold State.winnowLog
  dsimp only
  split_ifs
  · exact ptr s _ _
  · exact ((ptr s _ _).trans (entry _ _ _ _)).trans (ptr _ _ _)
  · exact (entry s _ _ _).trans (ptr _ _ _)

/-- A block without a mismatch is counted, and nothing else. -/
theorem State.winnowCompare_clean {s : State} {d : Nat} {c : Capture} (h : spGet (fun _ => none) s.captures d = some c)
    (clean : ((List.range 128).map c.elem).any (·.bad) = false) : s.winnowCompare d = s.sampled d := by
  have noWorst : worstOf (((List.range 128).map c.elem).filter (·.bad)) = none :=
    worstOf_eq_none.mpr (List.filter_eq_nil_iff.mpr (by simpa using clean))
  rw [State.winnowCompare, h]
  dsimp only
  rw [noWorst]
  rfl

/-- A block with a mismatch is counted as one, logged, and perhaps reported. -/
theorem State.winnowCompare_bad {s : State} {d : Nat} {c : Capture} (h : spGet (fun _ => none) s.captures d = some c)
    (bad : ((List.range 128).map c.elem).any (·.bad) = true) :
    ∃ u, ((s.sampled d).fadd (R.WNW_CNT0 d) F.WNW_CNT0_MISMATCH 1).OnlyRegs u (fun a => R.WNW_LOGPTR d ≤ a) ∧
      (s.winnowCompare d = u ∨ ∃ p i x y, s.winnowCompare d = u.plainRep 8 p i x y) := by
  obtain ⟨w, hw⟩ : ∃ w, worstOf (((List.range 128).map c.elem).filter (·.bad)) = some w :=
    Option.ne_none_iff_exists'.mp fun e => by
      obtain ⟨x, hx, hb⟩ := List.any_eq_true.mp bad
      exact List.filter_eq_nil_iff.mp (worstOf_eq_none.mp e) x hx hb
  refine ⟨_, State.onlyRegs_winnowLog _ d c w, ?_⟩
  rw [State.winnowCompare, h]
  dsimp only
  rw [hw]
  dsimp only
  split_ifs
  · exact .inr ⟨_, _, _, _, rfl⟩
  · exact .inl rfl

theorem State.fget_withCaptures (s : State) (m : Sparse (Option Capture)) (a : Nat) (f : Fld) : { s with captures := m }.fget a f = s.fget a f := rfl

/-- A write of one of the two counts of WNW_CNT0 leaves the other. -/
theorem State.wnwCnt0_other (s : State) (d n : Nat) :
    (s.fadd (R.WNW_CNT0 d) F.WNW_CNT0_SAMPLED n).fget (R.WNW_CNT0 d) F.WNW_CNT0_MISMATCH = s.fget (R.WNW_CNT0 d) F.WNW_CNT0_MISMATCH ∧
      (s.fadd (R.WNW_CNT0 d) F.WNW_CNT0_MISMATCH n).fget (R.WNW_CNT0 d) F.WNW_CNT0_SAMPLED = s.fget (R.WNW_CNT0 d) F.WNW_CNT0_SAMPLED := by
  have apart : F.WNW_CNT0_SAMPLED.hi < F.WNW_CNT0_MISMATCH.lo := by decide
  exact ⟨s.fget_fadd_field _ F.WNW_CNT0_SAMPLED F.WNW_CNT0_MISMATCH (by decide) rfl (.inr apart) n,
    s.fget_fadd_field _ F.WNW_CNT0_MISMATCH F.WNW_CNT0_SAMPLED (by decide) rfl (.inl apart) n⟩

theorem State.sampled_get (s : State) (d : Nat) :
    (s.sampled d).fget (R.WNW_CNT0 d) F.WNW_CNT0_SAMPLED = min (fldTop F.WNW_CNT0_SAMPLED) (s.fget (R.WNW_CNT0 d) F.WNW_CNT0_SAMPLED + 1) ∧
      (s.sampled d).fget (R.WNW_CNT0 d) F.WNW_CNT0_MISMATCH = s.fget (R.WNW_CNT0 d) F.WNW_CNT0_MISMATCH := by
  rw [State.sampled, State.fget_fadd _ _ _ (by decide), (State.wnwCnt0_other _ d 1).1, State.fget_withCaptures, State.fget_withCaptures]
  exact ⟨rfl, rfl⟩

/-- The captured block of `s` is taken away in `t`, whose Loft, tiles and engines are those of `s`. -/
def State.CaptureTaken (s t : State) (d : Nat) : Prop :=
  spGet (fun _ => none) t.captures d = none ∧ t.loft = s.loft ∧ t.tiles = s.tiles ∧ t.engs = s.engs

theorem State.captureTaken_sampled (s : State) (d : Nat) : s.CaptureTaken (s.sampled d) d :=
  ⟨by rw [State.sampled, State.fadd_captures, spGet_spPut_same], State.fadd_loft .., State.fadd_tiles .., State.fadd_engs ..⟩

theorem State.CaptureTaken.of_onlyRegs {s t u : State} {d : Nat} {A : Nat → Prop} (h : s.CaptureTaken t d) (k : t.OnlyRegs u A) :
    s.CaptureTaken u d := by
  rw [k.1]
  exact h

theorem State.CaptureTaken.plainRep {s t : State} {d : Nat} (h : s.CaptureTaken t d) (cls : Nat) (p : Option Nat) (i x y : Nat) :
    s.CaptureTaken (t.plainRep cls p i x y) d := by
  unfold State.CaptureTaken
  rw [State.plainRep_captures, State.plainRep_loft, State.plainRep_tiles, State.plainRep_engs]
  exact h

/-- What a comparison leaves: the block taken away, the counts, and neither the Loft, a tile nor an engine. -/
theorem State.winnowCompare_get {s : State} {d : Nat} {c : Capture} (h : spGet (fun _ => none) s.captures d = some c) :
    let t := s.winnowCompare d
    let mismatches := s.fget (R.WNW_CNT0 d) F.WNW_CNT0_MISMATCH
    t.fget (R.WNW_CNT0 d) F.WNW_CNT0_SAMPLED = min (fldTop F.WNW_CNT0_SAMPLED) (s.fget (R.WNW_CNT0 d) F.WNW_CNT0_SAMPLED + 1) ∧
      t.fget (R.WNW_CNT0 d) F.WNW_CNT0_MISMATCH =
        (if ((List.range 128).map c.elem).any (·.bad) then min (fldTop F.WNW_CNT0_MISMATCH) (mismatches + 1) else mismatches) ∧
      s.CaptureTaken t d := by
  obtain ⟨sampled, same⟩ := s.sampled_get d
  have taken := s.captureTaken_sampled d
  cases bad : ((List.range 128).map c.elem).any (·.bad) with
  | false =>
    rw [State.winnowCompare_clean h bad]
    exact ⟨sampled, same, taken⟩
  | true =>
    obtain ⟨u, only, outcome⟩ := State.winnowCompare_bad h bad
    generalize s.sampled d = v at *
    have cnt (f : Fld) (hf : f.half = 0) : u.fget (R.WNW_CNT0 d) f = (v.fadd (R.WNW_CNT0 d) F.WNW_CNT0_MISMATCH 1).fget (R.WNW_CNT0 d) f :=
      State.KeepsRegs.fget only.2 (by rw [hf]; simp only [R.WNW_CNT0, R.WNW_LOGPTR]; omega)
    have one : u.fget (R.WNW_CNT0 d) F.WNW_CNT0_SAMPLED = v.fget (R.WNW_CNT0 d) F.WNW_CNT0_SAMPLED :=
      (cnt _ rfl).trans (v.wnwCnt0_other d 1).2
    have more : u.fget (R.WNW_CNT0 d) F.WNW_CNT0_MISMATCH = min (fldTop F.WNW_CNT0_MISMATCH) (s.fget (R.WNW_CNT0 d) F.WNW_CNT0_MISMATCH + 1) := by
      rw [cnt _ rfl, v.fget_fadd _ _ (by decide), same]
    have away : s.CaptureTaken u d := (taken.of_onlyRegs (v.onlyRegs_fadd _ _ _)).of_onlyRegs only
    rcases outcome with e | ⟨p, i, x, y, e⟩ <;> rw [e]
    · exact ⟨one.trans sampled, more, away⟩
    · have regs (f : Fld) : (u.plainRep 8 p i x y).fget (R.WNW_CNT0 d) f = u.fget (R.WNW_CNT0 d) f := by
        rw [State.fget, State.rd, State.plainRep_regs]
        rfl
      exact ⟨(regs _).trans (one.trans sampled), (regs _).trans more, away.plainRep 8 p i x y⟩

/-! ## The clears and TIL_RNG -/

theorem exec_winnowCompare (d : CDie) (s : State) : exec (.winnowCompare d) s = onLive s fun s => s.winnowCompare d := rfl
theorem exec_wnwLogptrCntclr (d : CDie) (s : State) : exec (.wnwLogptrCntclr d) s = onLive s fun s => s.winnowCntClear d := rfl
theorem exec_wnwLogptrLostclr (d : CDie) (s : State) :
    exec (.wnwLogptrLostclr d) s = onLive s fun s => s.fset (R.WNW_LOGPTR d) F.WNW_LOGPTR_LOST 0 := rfl
theorem exec_tilArstatCntclr (g : Tile) (s : State) : exec (.tilArstatCntclr g) s = onLive s fun s => s.arClear g := rfl
theorem exec_tilRngWrite (g : Tile) (v : Word64) (s : State) :
    exec (.tilRngWrite g v) s = onLive s fun s => s.fset (R.TIL_RNG g) F.TIL_RNG_STATE v.toNat := rfl

/-- Settles O19: the registers of different tiles and dies are different, so each tile and die is left as if it were alone; a comparison is
a count of its block, and for a mismatch another count and a log entry that touch neither the counts before nor the Loft. -/
theorem arithmeticCommandsComplete : Obligations.ArithmeticCommandsComplete := by
  refine ⟨fun s fn p seed hm ho => ?_, fun s fn rate sample fault hm hr => ?_, fun s fn p clr hm ho => ?_, fun s d c hl hc => ?_,
    fun s d hl => (exec_wnwLogptrCntclr d s).trans (onLive_live hl _), fun s d hl => (exec_wnwLogptrLostclr d s).trans (onLive_live hl _),
    fun s g hl => (exec_tilArstatCntclr g s).trans (onLive_live hl _), fun s g v hl => ?_⟩
  · exact answers_of_row (fun _ => rfl) hm (cmdArithSeed_ok ho _ s)
      ⟨rfl, s.seedTiles_rng (fun _ => State.tilesOf_lt) seed.isLt, s.onlyRegs_seedTiles _ _⟩
  · have fields := s.winnowSetAt_each (fn := fn) (hr.imp_right fun h => ⟨h.1, h.2.2⟩) sample fault
    exact answers_of_row (fun _ => rfl) hm (cmdWinnowSet_ok hr sample fault s)
      ⟨rfl, fun d => (fields d).clmask, fun d => (fields d).fltmask, fun d => (fields d).en, fun d => (fields d).rate,
        State.onlyRegs_each _ _ _ (fun s d hd => (s.onlyRegs_winnowSetDie fn rate sample fault d).mono fun _ e =>
          ⟨⟨d, List.mem_range.mp hd⟩, e⟩) s⟩
  · exact answers_of_row (fun _ => rfl) hm (cmdArithStats_ok ho clr s) ⟨rfl, s.rd_arCleared _ clr, s.onlyRegs_arCleared _ clr⟩
  · obtain ⟨sampled, mismatch, gone, rest⟩ := State.winnowCompare_get hc
    exact ⟨_, (exec_winnowCompare d s).trans (onLive_live hl _), gone, sampled, mismatch, rest⟩
  · exact ⟨_, (exec_tilRngWrite g v s).trans (onLive_live hl _), s.fget_fset_lt _ _ (by decide) v.isLt, s.onlyRegs_fset_at _ rfl _⟩

end Sys2Proof.Machine
end

section
/-! PROOF. Bank power (R95 to R97): what a target written for a bank does, and what the end of its transition does. -/

namespace Sys2Proof.Machine

/-! ## Fields of different registers -/

/-- A field write of a lower half leaves every other register. -/
theorem State.rd_fset_ne (s : State) {a b : Nat} {f : Fld} (hf : f.half = 0) (h : b ≠ a) (n : Nat) : (s.fset a f n).rd b = s.rd b :=
  s.rd_fset_other f n (by rw [hf]; exact h)

theorem State.keepsRegs_fset_at (s : State) {a : Nat} {f : Fld} (hf : f.half = 0) (n : Nat) : s.KeepsRegs (s.fset a f n) fun b => b = a :=
  fun _ hb => s.rd_fset_ne hf hb n

theorem State.fget_fset_ne (s : State) {a b : Nat} {f g : Fld} (hf : f.half = 0) (hg : g.half = 0) (h : b ≠ a) (n : Nat) :
    (s.fset a f n).fget b g = s.fget b g :=
  s.fget_fset_other f g n (by rw [hf, hg]; exact h)

theorem State.rd_congr {s t : State} (h : t.regs = s.regs) (a : Nat) : t.rd a = s.rd a := by rw [State.rd, State.rd, h]

theorem State.fget_congr {s t : State} (h : t.regs = s.regs) (a : Nat) (f : Fld) : t.fget a f = s.fget a f := by
  rw [State.fget, State.fget, State.rd_congr h]

/-- A field of a lower half reads what its register holds. -/
theorem State.fget_of_rd {s t : State} {a : Nat} {f : Fld} (hf : f.half = 0) (h : t.rd a = s.rd a) : t.fget a f = s.fget a f := by
  rw [State.fget, State.fget, hf, Nat.mul_zero, Nat.add_zero, h]

theorem State.fget_modTile (s : State) (g : Nat) (f : TileSt → TileSt) (a : Nat) (x : Fld) : (s.modTile g f).fget a x = s.fget a x := rfl

@[simp] theorem State.tile_fset (s : State) (a : Nat) (f : Fld) (n g : Nat) : (s.fset a f n).tile g = s.tile g := rfl

@[simp] theorem State.tile_modTile_same (s : State) (g : Nat) (f : TileSt → TileSt) : (s.modTile g f).tile g = f (s.tile g) := by
  rw [State.tile_modTile, if_pos rfl]

theorem bnkBusy_ne_bnkPwr (g : Nat) : R.BNK_BUSY g ≠ R.BNK_PWR g := by simp [R.BNK_BUSY, R.BNK_PWR]
theorem bnkStat_ne_bnkBusy (g : Nat) : R.BNK_STAT g ≠ R.BNK_BUSY g := by simp [R.BNK_STAT, R.BNK_BUSY]

/-- The state code of a bank fits its field. -/
theorem State.bankCur_fset (s : State) (g : Nat) {b n : Nat} (hb : b < 32) (hn : n < 4) :
    (s.fset (R.BNK_STAT g) (F.BNK_STAT_CUR b) n).fget (R.BNK_STAT g) (F.BNK_STAT_CUR b) = n := by
  refine s.fget_fset_lt _ _ (bnkCur_ok hb) ?_
  have width : (F.BNK_STAT_CUR b).hi + 1 - (F.BNK_STAT_CUR b).lo = 2 := by simp only [F.BNK_STAT_CUR]; omega
  rw [width]
  exact hn

theorem State.bankTgt_fset (s : State) (g : Nat) {b n : Nat} (hb : b < 32) (hn : n < 4) :
    (s.fset (R.BNK_PWR g) (F.BNK_PWR_TGT b) n).fget (R.BNK_PWR g) (F.BNK_PWR_TGT b) = n := by
  refine s.fget_fset_lt _ _ ⟨by simp [F.BNK_PWR_TGT], by simp only [F.BNK_PWR_TGT]; omega⟩ ?_
  have width : (F.BNK_PWR_TGT b).hi + 1 - (F.BNK_PWR_TGT b).lo = 2 := by simp only [F.BNK_PWR_TGT]; omega
  rw [width]
  exact hn

/-- A bank's bit of REFUSED set beside those that stand. -/
theorem State.refused_fset (s : State) (g : Nat) {b : Nat} (hb : b < 32) :
    (s.fset (R.BNK_BUSY g) F.BNK_BUSY_REFUSED (s.fget (R.BNK_BUSY g) F.BNK_BUSY_REFUSED ||| 2 ^ b)).fget (R.BNK_BUSY g) F.BNK_BUSY_REFUSED =
      s.fget (R.BNK_BUSY g) F.BNK_BUSY_REFUSED ||| 2 ^ b :=
  s.fget_fset_lt _ _ (by decide) (Nat.or_lt_two_pow (fldGet_lt F.BNK_BUSY_REFUSED _) (Nat.pow_lt_pow_right (by decide) hb))

/-! ## A target that no transition stands before (R97) -/

section Go
variable {s : State} {g b tgt : Nat}

theorem State.bankGo_same (h : s.fget (R.BNK_STAT g) (F.BNK_STAT_CUR b) = tgt) : s.bankGo g b tgt = s := if_pos h

theorem State.bankGo_refused (h : s.fget (R.BNK_STAT g) (F.BNK_STAT_CUR b) = 0) :
    s.bankGo g b 1 = s.fset (R.BNK_BUSY g) F.BNK_BUSY_REFUSED (s.fget (R.BNK_BUSY g) F.BNK_BUSY_REFUSED ||| 2 ^ b) := by
  rw [State.bankGo, if_neg (by rw [h]; decide), if_pos ⟨h, rfl⟩]

theorem State.bankGo_starts (h : s.fget (R.BNK_STAT g) (F.BNK_STAT_CUR b) ≠ tgt)
    (k : ¬ (s.fget (R.BNK_STAT g) (F.BNK_STAT_CUR b) = 0 ∧ tgt = 1)) :
    s.bankGo g b tgt = s.modTile g fun t => { t with trans := t.trans ++ [(b, tgt)] } := by
  rw [State.bankGo, if_neg h, if_neg k]

/-- The three things that a target can do: nothing, be refused, or start a transition. -/
theorem State.bankGo_cases (s : State) (g b tgt : Nat) :
    (s.fget (R.BNK_STAT g) (F.BNK_STAT_CUR b) = tgt ∧ s.bankGo g b tgt = s) ∨
    (s.fget (R.BNK_STAT g) (F.BNK_STAT_CUR b) = 0 ∧ tgt = 1 ∧
      s.bankGo g b tgt = s.fset (R.BNK_BUSY g) F.BNK_BUSY_REFUSED (s.fget (R.BNK_BUSY g) F.BNK_BUSY_REFUSED ||| 2 ^ b)) ∨
    (s.fget (R.BNK_STAT g) (F.BNK_STAT_CUR b) ≠ tgt ∧ ¬ (s.fget (R.BNK_STAT g) (F.BNK_STAT_CUR b) = 0 ∧ tgt = 1) ∧
      s.bankGo g b tgt = s.modTile g fun t => { t with trans := t.trans ++ [(b, tgt)] }) := by
  by_cases h : s.fget (R.BNK_STAT g) (F.BNK_STAT_CUR b) = tgt
  · exact .inl ⟨h, State.bankGo_same h⟩
  · by_cases k : s.fget (R.BNK_STAT g) (F.BNK_STAT_CUR b) = 0 ∧ tgt = 1
    · obtain ⟨off, rfl⟩ := k
      exact .inr (.inl ⟨off, rfl, State.bankGo_refused off⟩)
    · exact .inr (.inr ⟨h, k, State.bankGo_starts h k⟩)

/-- A target given to a bank touches neither the Loft nor an engine, and of the registers REFUSED only. -/
theorem State.bankGo_frame (s : State) (g b tgt : Nat) :
    (s.bankGo g b tgt).loft = s.loft ∧ (s.bankGo g b tgt).loftPsn = s.loftPsn ∧ (s.bankGo g b tgt).engs = s.engs ∧
      s.KeepsRegs (s.bankGo g b tgt) (fun a => a = R.BNK_BUSY g) := by
  rcases s.bankGo_cases g b tgt with ⟨_, e⟩ | ⟨_, _, e⟩ | ⟨_, _, e⟩ <;> rw [e]
  · exact ⟨rfl, rfl, rfl, .refl s⟩
  · exact ⟨State.fset_loft .., State.fset_loftPsn .., State.fset_engs .., s.keepsRegs_fset_at rfl _⟩
  · exact ⟨rfl, rfl, rfl, State.keepsRegs_of_regs rfl⟩

/-- Of a tile a target changes the transitions at most. -/
theorem State.bankGo_tile (s : State) (g b tgt : Nat) :
    ((s.bankGo g b tgt).tile g).held = (s.tile g).held ∧ ((s.bankGo g b tgt).tile g).walk = (s.tile g).walk := by
  rcases s.bankGo_cases g b tgt with ⟨_, e⟩ | ⟨_, _, e⟩ | ⟨_, _, e⟩ <;> rw [e]
  · exact ⟨rfl, rfl⟩
  · rw [State.tile_fset]
    exact ⟨rfl, rfl⟩
  · rw [State.tile_modTile_same]
    exact ⟨rfl, rfl⟩

theorem State.bankCur_bankGo (s : State) (g b tgt c : Nat) :
    (s.bankGo g b tgt).fget (R.BNK_STAT g) (F.BNK_STAT_CUR c) = s.fget (R.BNK_STAT g) (F.BNK_STAT_CUR c) :=
  (s.bankGo_frame g b tgt).2.2.2.fget (bnkStat_ne_bnkBusy g)

end Go

/-! ## A target written (R95, R97) -/

section Target
variable {s : State} {g b code : Nat}

theorem State.bankTarget_reserved (s : State) (g b : Nat) : s.bankTarget g b 2 = s := if_pos rfl

/-- TGT written. -/
def State.bankAsk (s : State) (g b code : Nat) : State := s.fset (R.BNK_PWR g) (F.BNK_PWR_TGT b) code

/-- The target held for a bank, in place of any before it. -/
def TileSt.hold (t : TileSt) (b code : Nat) : TileSt := { t with held := (t.held.filter fun h => decide (h.1 ≠ b)) ++ [(b, code)] }

theorem State.bankTarget_held {tgt : Nat} (hc : code ≠ 2) (h : (s.tile g).transOf b = some tgt) :
    s.bankTarget g b code = (s.bankAsk g b code).modTile g fun t => t.hold b code := by
  unfold State.bankTarget State.bankAsk
  rw [if_neg hc]
  dsimp only
  rw [State.tile_fset, h]
  rfl

theorem State.bankTarget_go (hc : code ≠ 2) (h : (s.tile g).transOf b = none) : s.bankTarget g b code = (s.bankAsk g b code).bankGo g b code := by
  unfold State.bankTarget State.bankAsk
  rw [if_neg hc]
  dsimp only
  rw [State.tile_fset, h]

theorem State.bankCur_bankAsk (s : State) (g b code c : Nat) :
    (s.bankAsk g b code).fget (R.BNK_STAT g) (F.BNK_STAT_CUR c) = s.fget (R.BNK_STAT g) (F.BNK_STAT_CUR c) :=
  s.fget_fset_ne rfl rfl (bnkStat_ne_bnkPwr g) code

@[simp] theorem State.bankAsk_tile (s : State) (g b code k : Nat) : (s.bankAsk g b code).tile k = s.tile k := State.tile_fset ..

theorem State.bankAsk_loft (s : State) (g b code : Nat) : (s.bankAsk g b code).loft = s.loft := State.fset_loft ..

theorem State.bankAsk_loftPsn (s : State) (g b code : Nat) : (s.bankAsk g b code).loftPsn = s.loftPsn := State.fset_loftPsn ..

theorem State.bankAsk_engs (s : State) (g b code : Nat) : (s.bankAsk g b code).engs = s.engs := State.fset_engs ..

theorem State.rd_bankAsk (s : State) {g a : Nat} (b code : Nat) (h : a ≠ R.BNK_PWR g) : (s.bankAsk g b code).rd a = s.rd a :=
  s.rd_fset_ne rfl h code

end Target

/-! ## The end of a transition (R96, R97) -/

theorem State.bankClear_engs (s : State) (g b : Nat) : (s.bankClear g b).engs = s.engs := by
  cases s
  simp only [State.bankClear]

section End
variable {s : State} {g b tgt : Nat}

theorem TileSt.transOf_append_new {t : TileSt} (h : t.transOf b = none) (tgt : Nat) :
    TileSt.transOf { t with trans := t.trans ++ [(b, tgt)] } b = some tgt := by
  simp only [TileSt.transOf, Option.map_eq_none_iff] at h ⊢
  simp [List.find?_append, h]

/-- The transitions and held targets of a tile but for those of a bank. -/
def TileSt.settle (t : TileSt) (b : Nat) : TileSt :=
  { t with trans := t.trans.filter fun x => decide (x.1 ≠ b), held := t.held.filter fun x => decide (x.1 ≠ b) }

theorem TileSt.transOf_settle (t : TileSt) (b : Nat) : (t.settle b).transOf b = none := by
  simp [TileSt.settle, TileSt.transOf]

/-- The target held for a bank. -/
abbrev TileSt.heldOf (t : TileSt) (b : Nat) : Option (Nat × Nat) := t.held.find? fun h => decide (h.1 = b)

theorem TileSt.heldOf_settle (t : TileSt) (b : Nat) : (t.settle b).heldOf b = none := by
  simp [TileSt.settle]

/-- The bank takes its transition's target, and is cleared where it goes to OFF or comes from it. -/
def State.bankTake (s : State) (g b tgt : Nat) : State :=
  if tgt = 0 ∨ s.fget (R.BNK_STAT g) (F.BNK_STAT_CUR b) = 0 then (s.fset (R.BNK_STAT g) (F.BNK_STAT_CUR b) tgt).bankClear g b
  else s.fset (R.BNK_STAT g) (F.BNK_STAT_CUR b) tgt

theorem State.bankTake_frame (s : State) (g b tgt : Nat) :
    (s.bankTake g b tgt).regs = (s.fset (R.BNK_STAT g) (F.BNK_STAT_CUR b) tgt).regs ∧ (s.bankTake g b tgt).tiles = s.tiles ∧
      (s.bankTake g b tgt).engs = s.engs := by
  unfold State.bankTake
  split
  · exact ⟨State.bankClear_regs .., (State.bankClear_tiles ..).trans (State.fset_tiles ..), (State.bankClear_engs ..).trans (State.fset_engs ..)⟩
  · exact ⟨rfl, State.fset_tiles .., State.fset_engs ..⟩

/-- The bank has its target, and its transition and the target held for it are gone. -/
def State.bankSettled (s : State) (g b tgt : Nat) : State := (s.bankTake g b tgt).modTile g fun t => t.settle b

/-- A target held is then applied as if it were written now. -/
theorem State.bankEnd_some (h : (s.tile g).transOf b = some tgt) :
    s.bankEnd g b = match (s.tile g).heldOf b with
      | some x => (s.bankSettled g b tgt).bankGo g b x.2
      | none => s.bankSettled g b tgt := by
  have tiles : (s.bankTake g b tgt).tile g = s.tile g := State.tile_congr (s.bankTake_frame g b tgt).2.1 g
  unfold State.bankEnd
  rw [h]
  show (match ((s.bankTake g b tgt).tile g).heldOf b with | some x => _ | none => _) = _
  rw [tiles]
  rfl

theorem State.bankEnd_none (h : (s.tile g).transOf b = none) : s.bankEnd g b = s := by rw [State.bankEnd, h]

theorem State.bankSettled_regs (s : State) (g b tgt : Nat) :
    (s.bankSettled g b tgt).regs = (s.fset (R.BNK_STAT g) (F.BNK_STAT_CUR b) tgt).regs := (s.bankTake_frame g b tgt).1

theorem State.bankSettled_tile (s : State) (g b tgt : Nat) : (s.bankSettled g b tgt).tile g = (s.tile g).settle b := by
  rw [State.bankSettled, State.tile_modTile_same, State.tile_congr (s.bankTake_frame g b tgt).2.1]

theorem State.bankSettled_engs (s : State) (g b tgt : Nat) : (s.bankSettled g b tgt).engs = s.engs := (s.bankTake_frame g b tgt).2.2

theorem State.bankCur_bankSettled (s : State) (g : Nat) (hb : b < 32) (ht : tgt < 4) :
    (s.bankSettled g b tgt).fget (R.BNK_STAT g) (F.BNK_STAT_CUR b) = tgt :=
  (State.fget_congr (s.bankSettled_regs g b tgt) _ _).trans (s.bankCur_fset g hb ht)

theorem State.keepsRegs_bankSettled (s : State) (g b tgt : Nat) : s.KeepsRegs (s.bankSettled g b tgt) fun a => a = R.BNK_STAT g :=
  (s.keepsRegs_fset_at rfl tgt).trans
    (State.keepsRegs_of_regs (s.bankSettled_regs g b tgt))

/-- The end of a bank's transition: the bank reads its target, no target of it is held, and of the registers BNK_STAT and BNK_BUSY differ. -/
theorem State.bankEnd_get (hb : b < 32) (ht : tgt < 4) (h : (s.tile g).transOf b = some tgt) :
    (s.bankEnd g b).fget (R.BNK_STAT g) (F.BNK_STAT_CUR b) = tgt ∧ ((s.bankEnd g b).tile g).heldOf b = none ∧
      (s.KeepsRegs (s.bankEnd g b) fun a => a = R.BNK_STAT g ∨ a = R.BNK_BUSY g) ∧ (s.bankEnd g b).engs = s.engs ∧
      ((s.bankEnd g b).tile g).walk = (s.tile g).walk ∧ (s.bankEnd g b).loft = (s.bankSettled g b tgt).loft ∧
      (s.bankEnd g b).loftPsn = (s.bankSettled g b tgt).loftPsn := by
  have cur := s.bankCur_bankSettled g hb ht
  have held : ((s.bankSettled g b tgt).tile g).heldOf b = none := by rw [State.bankSettled_tile, TileSt.heldOf_settle]
  have walk : ((s.bankSettled g b tgt).tile g).walk = (s.tile g).walk := by rw [State.bankSettled_tile]; rfl
  have regs := (s.keepsRegs_bankSettled g b tgt).mono (B := fun a => a = R.BNK_STAT g ∨ a = R.BNK_BUSY g) fun _ => .inl
  have engs := s.bankSettled_engs g b tgt
  rw [State.bankEnd_some h]
  generalize s.bankSettled g b tgt = u at *
  cases (s.tile g).heldOf b with
  | none => exact ⟨cur, held, regs, engs, walk, rfl, rfl⟩
  | some x =>
    obtain ⟨goLoft, goPsn, goEngs, goRegs⟩ := u.bankGo_frame g b x.2
    obtain ⟨goHeld, goWalk⟩ := u.bankGo_tile g b x.2
    refine ⟨(u.bankCur_bankGo g b x.2 b).trans cur, ?_, regs.trans (goRegs.mono fun _ => .inr), goEngs.trans engs, goWalk.trans walk, goLoft, goPsn⟩
    rw [TileSt.heldOf, goHeld]
    exact held

/-- With no target held the bank's transition is over. -/
theorem State.transOf_bankEnd_free (h : (s.tile g).transOf b = some tgt) (k : (s.tile g).heldOf b = none) :
    ((s.bankEnd g b).tile g).transOf b = none := by
  rw [State.bankEnd_some h, k]
  dsimp only
  rw [State.bankSettled_tile, TileSt.transOf_settle]

/-- A held target that is the bank's state by now, or RET at a bank that is OFF, starts nothing; RET at OFF is refused; any other starts. -/
theorem State.bankEnd_held (hb : b < 32) (ht : tgt < 4) (h : (s.tile g).transOf b = some tgt) {x : Nat × Nat} (k : (s.tile g).heldOf b = some x) :
    (x.2 = tgt ∨ (tgt = 0 ∧ x.2 = 1) → ((s.bankEnd g b).tile g).transOf b = none) ∧
      (tgt = 0 → x.2 = 1 → ((s.bankEnd g b).fget (R.BNK_BUSY g) F.BNK_BUSY_REFUSED).testBit b = true) ∧
      (x.2 ≠ tgt → ¬ (tgt = 0 ∧ x.2 = 1) → ((s.bankEnd g b).tile g).transOf b = some x.2) := by
  have cur := s.bankCur_bankSettled g hb ht
  have free : ((s.bankSettled g b tgt).tile g).transOf b = none := by rw [State.bankSettled_tile, TileSt.transOf_settle]
  rw [State.bankEnd_some h, k]
  dsimp only
  generalize s.bankSettled g b tgt = u at *
  rcases u.bankGo_cases g b x.2 with ⟨c, e⟩ | ⟨c, r, e⟩ | ⟨c, r, e⟩ <;> rw [e]
  · exact ⟨fun _ => free, fun _ _ => by omega, fun ne => absurd (c.symm.trans cur) ne⟩
  · rw [State.tile_fset]
    refine ⟨fun _ => free, fun _ _ => ?_, fun _ n => absurd ⟨cur.symm.trans c, r⟩ n⟩
    rw [u.refused_fset g hb, Nat.testBit_or, Nat.testBit_two_pow_self, Bool.or_true]
  · rw [State.tile_modTile_same]
    refine ⟨fun o => absurd ?_ r, fun o p => absurd ⟨cur.trans o, p⟩ r, fun _ _ => TileSt.transOf_append_new free x.2⟩
    rcases o with o | ⟨o, p⟩
    · exact absurd (cur.trans o.symm) c
    · exact ⟨cur.trans o, p⟩

end End

end Sys2Proof.Machine
end

section
/-! PROOF. Where the bytes of a bank are held (R90, R96, R104), and that the walker reads the Loft only (R82). -/

namespace Sys2Proof.Machine

/-! ## The place of a Loft byte -/

/-- The byte of a tile stands in the 128 KiB of its bank, at the place in its sheaf that its address has. -/
theorem State.loftKey_eq (s : State) (g a : Nat) :
    ∃ r < 2 ^ 12, loftKey (s.ilv g) g a = g * 2 ^ 22 + s.bankOf g a * 2 ^ 17 + 32 * r + a % 32 := by
  refine ⟨lineInBank (s.ilv g) (a % 2 ^ 22 / 64) * 2 + a % 64 / 32, ?_, ?_⟩
  · have := Nat.mod_lt ((a % 2 ^ 22 / 64) >>> s.ilv g) (show 0 < 2048 by decide)
    simp only [lineInBank]
    omega
  · simp only [loftKey, State.bankOf]
    omega

theorem loftDflt_at {k a r : Nat} (h : k = 32 * r + a % 32) : loftDflt k = if a % 32 = 1 then 0x80 else 0 := by
  rw [loftDflt, h, Nat.mul_add_mod, Nat.mod_mod]

/-- A bank cleared holds zero blocks, and every other bank of the tile what it held (R96). -/
theorem State.loftByte_bankClear (s : State) (g b a : Nat) :
    (s.bankClear g b).loftByte g a = if s.bankOf g a = b then (if a % 32 = 1 then 0x80 else 0) else s.loftByte g a := by
  obtain ⟨r, hr, key⟩ := s.loftKey_eq g a
  show spGet loftDflt (spClearRange (g * 2 ^ 22 + b * 2 ^ 17) (2 ^ 17) s.loft) (loftKey (s.ilv g) g a) = _
  rw [spGet_spClearRange]
  refine if_congr (by rw [key]; omega) (loftDflt_at (r := g * 2 ^ 17 + s.bankOf g a * 2 ^ 12 + r) (by rw [key]; omega)) rfl

theorem State.loftPoison_bankClear (s : State) (g b a : Nat) :
    (s.bankClear g b).loftPoison g a = if s.bankOf g a = b then false else s.loftPoison g a := by
  obtain ⟨r, hr, key⟩ := s.loftKey_eq g a
  show spGet (fun _ => false) (spClearRange ((g * 2 ^ 22 + b * 2 ^ 17) / 32) (2 ^ 12) s.loftPsn) (loftKey (s.ilv g) g a / 32) = _
  rw [spGet_spClearRange]
  exact if_congr (by rw [key]; omega) rfl rfl

/-! ## Changes that leave a tile's Loft -/

/-- The Loft, its poison bits and the tile's interleave are as they were. -/
structure State.SameLoft (s : State) (g : Nat) (t : State) : Prop where
  loft : t.loft = s.loft
  psn : t.loftPsn = s.loftPsn
  ilv : t.ilv g = s.ilv g

namespace State.SameLoft
variable {s t u : State} {g : Nat}

theorem refl (s : State) (g : Nat) : s.SameLoft g s := ⟨rfl, rfl, rfl⟩

theorem trans (h : s.SameLoft g t) (k : t.SameLoft g u) : s.SameLoft g u := ⟨k.loft.trans h.loft, k.psn.trans h.psn, k.ilv.trans h.ilv⟩

theorem bankOf (h : s.SameLoft g t) (a : Nat) : t.bankOf g a = s.bankOf g a := by rw [State.bankOf, State.bankOf, h.ilv]

theorem loftByte (h : s.SameLoft g t) (a : Nat) : t.loftByte g a = s.loftByte g a := by rw [State.loftByte, State.loftByte, h.loft, h.ilv]

theorem loftPoison (h : s.SameLoft g t) (a : Nat) : t.loftPoison g a = s.loftPoison g a := by
  rw [State.loftPoison, State.loftPoison, h.psn, h.ilv]

theorem of_regs (hl : t.loft = s.loft) (hp : t.loftPsn = s.loftPsn) (hr : t.regs = s.regs) : s.SameLoft g t :=
  ⟨hl, hp, by rw [State.ilv, State.ilv, State.fget, State.fget, State.rd, State.rd, hr]⟩

theorem of_rd (hl : t.loft = s.loft) (hp : t.loftPsn = s.loftPsn) (hr : t.rd (R.TIL_CTL g) = s.rd (R.TIL_CTL g)) : s.SameLoft g t :=
  ⟨hl, hp, by
    rw [State.ilv, State.ilv]
    exact State.fget_of_rd rfl hr⟩

theorem of_fset (s : State) {a : Nat} {f : Fld} (hf : f.half = 0) (h : R.TIL_CTL g ≠ a) (n : Nat) : s.SameLoft g (s.fset a f n) :=
  of_rd (State.fset_loft ..) (State.fset_loftPsn ..) (s.rd_fset_ne hf h n)

/-- RUN stands beside ILV. -/
theorem of_run (s : State) (g n : Nat) : s.SameLoft g (s.fset (R.TIL_CTL g) F.TIL_CTL_RUN n) :=
  ⟨State.fset_loft .., State.fset_loftPsn .., by
    rw [State.ilv, State.ilv]
    exact s.fget_fset_field _ F.TIL_CTL_RUN F.TIL_CTL_ILV (by decide) rfl (by decide) n⟩

theorem of_tilCnt (s : State) {a : Nat} {f : Fld} (hf : f.half = 0) (h : R.TIL_CTL g ≠ a) (n : Nat) : s.SameLoft g (s.tilCnt g a f n) := by
  unfold State.tilCnt
  split
  · exact refl s g
  · exact of_fset s hf h _

theorem of_modEng (s : State) (g : Nat) (e : Eng) (f : EngSt → EngSt) : s.SameLoft g (s.modEng g e f) :=
  of_regs (State.modEng_loft ..) (State.modEng_loftPsn ..) (State.modEng_regs ..)

theorem of_modTile (s : State) (g : Nat) (f : TileSt → TileSt) : s.SameLoft g (s.modTile g f) :=
  of_regs (State.modTile_loft ..) (State.modTile_loftPsn ..) (State.modTile_regs ..)

end State.SameLoft

/-- A fault of the walker's engine leaves the Loft (R100). -/
theorem State.sameLoft_tileFault (s : State) (g cause iaddr : Nat) (l : Option Nat) : s.SameLoft g (s.tileFault g (engIdx .aw) cause iaddr l) := by
  have fault (s : State) {f : Fld} (h : f.half = 0) (n : Nat) : s.SameLoft g (s.fset (R.TIL_FAULT g) f n) :=
    .of_fset s h (by simp [R.TIL_CTL, R.TIL_FAULT]) n
  have faddr (s : State) {f : Fld} (h : f.half = 0) (n : Nat) : s.SameLoft g (s.fset (R.TIL_FADDR g) f n) :=
    .of_fset s h (by simp [R.TIL_CTL, R.TIL_FADDR]) n
  unfold State.tileFault
  extract_lets a₁ a₂ a₃ a₄ a₅ t e run b u
  have ht : s.SameLoft g t := by
    simp only [t]
    split
    · exact fault s rfl _
    · exact ((((fault s rfl _).trans (fault _ rfl _)).trans (fault _ rfl _)).trans (faddr _ rfl _)).trans ((faddr _ rfl _).trans (faddr _ rfl _))
  have hb : t.SameLoft g b := .of_run t g _
  have hu : b.SameLoft g u := by
    simp only [u]
    rw [if_pos (by decide)]
    refine (SameLoft.of_modEng b g e fun x => { x with faulted := true }).trans ?_
    unfold State.withdraw
    split
    · exact .of_modEng _ g _ _
    · exact .refl _ g
  exact ((ht.trans hb).trans hu).trans (.of_regs (State.faultRep_loft ..) (State.faultRep_loftPsn ..) (State.faultRep_regs ..))

theorem State.sameLoft_awMod (s : State) (g : Nat) (f : InFlight → InFlight) : s.SameLoft g (s.awMod g f) := by
  unfold State.awMod
  split
  · exact .of_modEng _ g _ _
  · exact .refl s g

theorem State.sameLoft_awFault (s : State) (g l : Nat) : s.SameLoft g (s.awFault g l) := by
  unfold State.awFault
  dsimp only
  refine SameLoft.trans ?_ (State.sameLoft_tileFault _ g _ _ _)
  refine SameLoft.trans ?_ (.of_modTile _ g _)
  split
  · exact .of_modEng _ g _ _
  · exact .refl s g

theorem State.sameLoft_awPoison (s : State) (g : Nat) (l : List (Nat × Nat)) : s.SameLoft g (s.awPoison g l) := by
  unfold State.awPoison
  split
  · exact s.sameLoft_awMod g _
  · exact .refl s g

theorem State.sameLoft_walkReach (s : State) (g : Nat) (w : WalkSt) (x : LRead) (rest : List LRead) : s.SameLoft g (s.walkReach g w x rest) := by
  have cnt0 (s : State) : s.SameLoft g (s.tilCnt g (R.AW_CNT0 g) F.AW_CNT0_SEQS 1) := .of_tilCnt s rfl (by simp [R.TIL_CTL, R.AW_CNT0]) 1
  have cnt1 (s : State) (n : Nat) : s.SameLoft g (s.tilCnt g (R.AW_CNT1 g) F.AW_CNT1_GSKIP n) := .of_tilCnt s rfl (by simp [R.TIL_CTL, R.AW_CNT1]) n
  have cnt3 (s : State) : s.SameLoft g (s.tilCnt g (R.AW_CNT3 g) F.AW_CNT3_SKIPSEQ 1) := .of_tilCnt s rfl (by simp [R.TIL_CTL, R.AW_CNT3]) 1
  unfold State.walkReach
  extract_lets geo num skip b t
  have ht : s.SameLoft g t := by
    simp only [t]
    split
    · exact cnt3 s
    · exact ((cnt0 s).trans (cnt1 _ _)).trans (State.sameLoft_awPoison _ g _)
  exact ht.trans (.of_modTile t g _)

theorem State.sameLoft_walkPush (s : State) (g : Nat) (w : WalkSt) (p : WalkPush) (rest : List WalkPush) (last : Bool) :
    s.SameLoft g (s.walkPush g w p rest last) := by
  cases p with
  | enter | me | ve | nullLe =>
    unfold State.walkPush
    exact .of_modTile s g _
  | load b pt p0 npos v =>
    unfold State.walkPush
    dsimp only
    split
    · exact s.sameLoft_awFault g _
    · refine SameLoft.trans ?_ (State.sameLoft_awPoison _ g _)
      refine SameLoft.trans ?_ (.of_tilCnt _ rfl (by simp [R.TIL_CTL, R.AW_CNT0]) 1)
      exact .of_modTile s g _

theorem State.sameLoft_walkPump (g n : Nat) (s : State) : s.SameLoft g (s.walkPump g n) := by
  induction n generalizing s with
  | zero => exact .refl s g
  | succ n ih =>
    unfold State.walkPump
    split
    · exact .refl s g
    · split
      · exact .refl s g
      · split
        · exact .refl s g
        · split
          · exact s.sameLoft_awFault g _
          · exact (s.sameLoft_walkReach g _ _ _).trans (ih _)
        · refine SameLoft.trans ?_ (ih _)
          split
          · exact (s.sameLoft_walkPush g _ _ _ _).trans (State.sameLoft_awMod _ g _)
          · exact s.sameLoft_walkPush g _ _ _ _

theorem State.sameLoft_pump (s : State) (g : Nat) : s.SameLoft g (s.pump g) := s.sameLoft_walkPump g 4096

/-- Without a walk the walker does nothing. -/
theorem State.pump_idle {s : State} {g : Nat} (h : (s.tile g).walk = none) : s.pump g = s := by
  show s.walkPump g (4095 + 1) = s
  rw [State.walkPump, h]

end Sys2Proof.Machine
end

section
/-! PROOF. The targets of banks and the ends of their transitions complete (R95 to R97). -/

namespace Sys2Proof.Machine

theorem exec_bnkPwrWrite (g : Tile) (b : Fin 32) (code : Fin 4) (s : State) :
    exec (.bnkPwrWrite g b code) s = onLive s fun s => s.bankTarget g b code := rfl
theorem exec_bankTransitionEnd (g : Tile) (b : Fin 32) (s : State) : exec (.bankTransitionEnd g b) s = onLive s fun s => s.bankOn g b := rfl

theorem exec_bnkPwrWrite_reserved (g : Tile) (b : Fin 32) (s : State) : exec (.bnkPwrWrite g b 2) s = .next s := by
  rw [exec_bnkPwrWrite]
  exact onLive_unchanged (s.bankTarget_reserved g b)

/-! ## A walk that goes on leaves the banks -/

theorem walkRegs_not_stat (g : Nat) : ¬ WalkRegs g (R.BNK_STAT g) := by
  simp [WalkRegs, R.BNK_STAT, R.TIL_FAULT, R.TIL_FADDR, R.TIL_CTL, R.AW_CNT0, R.AW_CNT1, R.AW_CNT3]
theorem walkRegs_not_busy (g : Nat) : ¬ WalkRegs g (R.BNK_BUSY g) := by
  simp [WalkRegs, R.BNK_BUSY, R.TIL_FAULT, R.TIL_FADDR, R.TIL_CTL, R.AW_CNT0, R.AW_CNT1, R.AW_CNT3]

theorem State.walkFrame_pump (s : State) (g : Nat) : s.WalkFrame g (s.pump g) := s.walkFrame_walkPump g 4096

theorem State.bankCur_pump (s : State) (g b : Nat) :
    (s.pump g).fget (R.BNK_STAT g) (F.BNK_STAT_CUR b) = s.fget (R.BNK_STAT g) (F.BNK_STAT_CUR b) :=
  (s.walkFrame_pump g).regs.fget (walkRegs_not_stat g)

theorem State.refused_pump (s : State) (g : Nat) :
    (s.pump g).fget (R.BNK_BUSY g) F.BNK_BUSY_REFUSED = s.fget (R.BNK_BUSY g) F.BNK_BUSY_REFUSED :=
  (s.walkFrame_pump g).regs.fget (walkRegs_not_busy g)

theorem State.transOf_pump (s : State) (g b : Nat) : ((s.pump g).tile g).transOf b = (s.tile g).transOf b := by
  rw [TileSt.transOf, TileSt.transOf, ((s.walkFrame_pump g).banks g).1]

theorem State.heldOf_pump (s : State) (g b : Nat) : ((s.pump g).tile g).heldOf b = (s.tile g).heldOf b := by
  rw [TileSt.heldOf, TileSt.heldOf, ((s.walkFrame_pump g).banks g).2]

/-! ## O17 -/

/-- RET written for a bank that is OFF. -/
theorem State.bankTarget_ret_off {s : State} {g b : Nat} (h : (s.tile g).transOf b = none) (off : s.fget (R.BNK_STAT g) (F.BNK_STAT_CUR b) = 0) :
    s.bankTarget g b 1 = (s.bankAsk g b 1).fset (R.BNK_BUSY g) F.BNK_BUSY_REFUSED
      (s.fget (R.BNK_BUSY g) F.BNK_BUSY_REFUSED ||| 2 ^ b) := by
  rw [State.bankTarget_go (by decide) h, State.bankGo_refused ((s.bankCur_bankAsk g b 1 b).trans off)]
  rw [State.bankAsk, s.fget_fset_ne rfl rfl (bnkBusy_ne_bnkPwr g)]

/-- REFUSED once RET was written for a bank that is OFF. -/
theorem State.refused_bankTarget {s : State} {g b : Nat} (hb : b < 32) (h : (s.tile g).transOf b = none)
    (off : s.fget (R.BNK_STAT g) (F.BNK_STAT_CUR b) = 0) :
    (s.bankTarget g b 1).fget (R.BNK_BUSY g) F.BNK_BUSY_REFUSED = s.fget (R.BNK_BUSY g) F.BNK_BUSY_REFUSED ||| 2 ^ b := by
  have ask : (s.bankAsk g b 1).fget (R.BNK_BUSY g) F.BNK_BUSY_REFUSED = s.fget (R.BNK_BUSY g) F.BNK_BUSY_REFUSED :=
    s.fget_fset_ne rfl rfl (bnkBusy_ne_bnkPwr g) 1
  rw [State.bankTarget_ret_off h off, ← ask]
  exact State.refused_fset _ g hb

/-- Settles O17: a target is refused, held or applied, and the end of a transition applies the one held. -/
theorem bankTargetsHeldAndRefused : Obligations.BankTargetsHeldAndRefused := by
  refine ⟨fun s g b hl ht off => ?_, fun s g b code tgt hl hc ht => ?_, fun s g b tgt hl h4 ht => ?_, fun s g b => exec_bnkPwrWrite_reserved g b s⟩
  · refine ⟨_, (exec_bnkPwrWrite ..).trans (onLive_live hl _), ?_⟩
    have refused := State.refused_bankTarget b.isLt ht off
    have written := State.bankTarget_ret_off ht off
    have cur := s.bankCur_bankAsk g b 1 b
    dsimp only
    refine ⟨?_, ?_, ?_, ?_⟩
    · rw [Fin.val_one, written, State.fget_fset_ne _ rfl rfl (bnkStat_ne_bnkBusy g)]
      exact cur.symm
    · rw [Fin.val_one, written, State.tile_fset, State.bankAsk_tile]
      exact ht
    · rw [Fin.val_one, refused, Nat.testBit_or, Nat.testBit_two_pow_self, Bool.or_true]
    · rw [Fin.val_one, written, State.tile_fset, State.bankAsk_tile]
  · refine ⟨_, (exec_bnkPwrWrite ..).trans (onLive_live hl _), ?_⟩
    dsimp only
    rw [State.bankTarget_held (fun e => hc (Fin.ext e)) ht, State.tile_modTile_same, State.bankAsk_tile]
    refine ⟨rfl, rfl, ?_, ?_⟩ <;> rw [State.fget_modTile]
    · exact s.bankCur_bankAsk g b code b
    · exact s.fget_fset_ne rfl rfl (bnkBusy_ne_bnkPwr g) code
  · refine ⟨_, (exec_bankTransitionEnd ..).trans (onLive_live hl _), ?_⟩
    obtain ⟨cur, held, -⟩ := State.bankEnd_get b.isLt h4 ht
    rw [State.bankOn, State.bankCur_pump, State.transOf_pump, State.refused_pump]
    exact ⟨cur, (State.heldOf_pump ..).trans held, State.transOf_bankEnd_free ht, fun x k => State.bankEnd_held b.isLt h4 ht k⟩

/-! ## O20 -/

/-- A target written shows in TGT; the Loft and the engines stand, and of the registers BNK_PWR and BNK_BUSY differ at most. -/
theorem State.bankTarget_frame (s : State) (g : Nat) {b code : Nat} (hb : b < 32) (hc : code < 4) (h : code ≠ 2) :
    (s.bankTarget g b code).fget (R.BNK_PWR g) (F.BNK_PWR_TGT b) = code ∧ (s.bankTarget g b code).loft = s.loft ∧
      (s.bankTarget g b code).loftPsn = s.loftPsn ∧ (s.bankTarget g b code).engs = s.engs ∧
      s.KeepsRegs (s.bankTarget g b code) fun a => a = R.BNK_PWR g ∨ a = R.BNK_BUSY g := by
  have ask : s.KeepsRegs (s.bankAsk g b code) fun a => a = R.BNK_PWR g ∨ a = R.BNK_BUSY g := (s.keepsRegs_fset_at rfl code).mono fun _ => .inl
  have tgt := s.bankTgt_fset g hb hc
  cases e : (s.tile g).transOf b with
  | some x =>
    rw [State.bankTarget_held h e]
    refine ⟨(State.fget_modTile ..).trans tgt, ?_, ?_, ?_, ask.trans (State.keepsRegs_of_regs (State.modTile_regs ..))⟩
    · rw [State.modTile_loft, State.bankAsk_loft]
    · rw [State.modTile_loftPsn, State.bankAsk_loftPsn]
    · rw [State.modTile_engs, State.bankAsk_engs]
  | none =>
    rw [State.bankTarget_go h e]
    obtain ⟨loft, psn, engs, regs⟩ := (s.bankAsk g b code).bankGo_frame g b code
    rw [State.bankAsk_loft] at loft
    rw [State.bankAsk_loftPsn] at psn
    rw [State.bankAsk_engs] at engs
    exact ⟨(regs.fget (bnkBusy_ne_bnkPwr g).symm).trans tgt, loft, psn, engs, ask.trans (regs.mono fun _ => .inr)⟩

/-- The Loft of a tile where a bank's transition has ended. -/
theorem State.loft_bankEnd {s : State} {g b tgt : Nat} (hb : b < 32) (ht : tgt < 4) (h : (s.tile g).transOf b = some tgt) (a : Nat) :
    ((s.bankEnd g b).loftByte g a = if s.bankOf g a = b ∧ (tgt = 0 ∨ s.fget (R.BNK_STAT g) (F.BNK_STAT_CUR b) = 0)
        then (if a % 32 = 1 then 0x80 else 0) else s.loftByte g a) ∧
      ((s.bankEnd g b).loftPoison g a = if s.bankOf g a = b ∧ (tgt = 0 ∨ s.fget (R.BNK_STAT g) (F.BNK_STAT_CUR b) = 0)
        then false else s.loftPoison g a) := by
  obtain ⟨-, -, regs, -, -, loft, psn⟩ := State.bankEnd_get hb ht h
  have kept : (s.bankSettled g b tgt).SameLoft g (s.bankEnd g b) := by
    refine .of_rd loft psn ?_
    rw [regs _ (by simp [R.TIL_CTL, R.BNK_STAT, R.BNK_BUSY]), s.keepsRegs_bankSettled g b tgt _ (by simp [R.TIL_CTL, R.BNK_STAT])]
  have stat : s.SameLoft g (s.fset (R.BNK_STAT g) (F.BNK_STAT_CUR b) tgt) := .of_fset s rfl (by simp [R.TIL_CTL, R.BNK_STAT]) tgt
  have settled : (s.bankTake g b tgt).SameLoft g (s.bankEnd g b) := (State.SameLoft.of_modTile _ g _).trans kept
  rw [settled.loftByte, settled.loftPoison]
  unfold State.bankTake
  by_cases k : tgt = 0 ∨ s.fget (R.BNK_STAT g) (F.BNK_STAT_CUR b) = 0
  · simp only [k, and_true, if_true]
    rw [State.loftByte_bankClear, State.loftPoison_bankClear, stat.bankOf, stat.loftByte, stat.loftPoison]
    exact ⟨rfl, rfl⟩
  · simp only [k, and_false, if_false]
    exact ⟨stat.loftByte a, stat.loftPoison a⟩

/-- Settles O20: what a target written does by the bank's state, and what the end of a transition leaves in the Loft and the registers. -/
theorem bankPowerFollowsItsTable : Obligations.BankPowerFollowsItsTable := by
  refine ⟨fun s g b _ => exec_bnkPwrWrite_reserved g b s, fun s g b code hl hc => ?_, fun s g b tgt hl h4 ht => ?_⟩
  · refine ⟨_, (exec_bnkPwrWrite ..).trans (onLive_live hl _), ?_⟩
    have hc : code.val ≠ 2 := fun e => hc (Fin.ext e)
    obtain ⟨shown, loft, psn, engs, regs⟩ := s.bankTarget_frame g b.isLt code.isLt hc
    refine ⟨shown, loft, psn, engs, fun a hp hb => regs a (not_or.mpr ⟨hp, hb⟩), fun tgt ht => ?_, fun ht off ret => ?_, fun ht ne nr => ?_⟩
    · rw [State.bankTarget_held hc ht, State.tile_modTile_same, State.bankAsk_tile]
      exact ⟨rfl, (State.rd_congr (State.modTile_regs ..) _).trans (s.rd_bankAsk b code (bnkBusy_ne_bnkPwr g))⟩
    · subst ret
      refine ⟨?_, State.refused_bankTarget b.isLt ht off⟩
      rw [Fin.val_one, State.bankTarget_ret_off ht off, State.tile_fset, State.bankAsk_tile]
    · rw [State.bankTarget_go hc ht, State.bankGo_starts (by rw [State.bankCur_bankAsk]; exact ne)
        (by rw [State.bankCur_bankAsk]; exact fun k => nr ⟨k.1, Fin.ext k.2⟩), State.tile_modTile_same, State.bankAsk_tile]
      exact ⟨rfl, (State.rd_congr (State.modTile_regs ..) _).trans (s.rd_bankAsk b code (bnkBusy_ne_bnkPwr g))⟩
  · refine ⟨_, (exec_bankTransitionEnd ..).trans (onLive_live hl _), ?_⟩
    obtain ⟨cur, held, regs, engs, walk, -⟩ := State.bankEnd_get b.isLt h4 ht
    have pump := (s.bankEnd g b).sameLoft_pump g
    rw [State.bankOn, State.bankCur_pump, State.transOf_pump]
    refine ⟨cur, fun a _ hab k => ?_, fun a _ k => ?_, fun k => ?_, fun k => ?_⟩
    · have loft := State.loft_bankEnd b.isLt h4 ht a
      simp only [hab, k, and_self, if_true] at loft
      rw [pump.loftByte, pump.loftPoison]
      exact loft
    · have loft := State.loft_bankEnd b.isLt h4 ht a
      have other : ¬ (s.bankOf g a = b.val ∧ (tgt = 0 ∨ s.fget (R.BNK_STAT g) (F.BNK_STAT_CUR b) = 0)) := by tauto
      rw [if_neg other, if_neg other] at loft
      rw [pump.loftByte, pump.loftPoison]
      exact loft
    · exact State.transOf_bankEnd_free ht (List.find?_eq_none.mpr fun x hx e => k x hx (of_decide_eq_true e))
    · rw [State.pump_idle (walk.trans k)]
      exact ⟨fun a h1 h2 => regs a (not_or.mpr ⟨h1, h2⟩), engs⟩

end Sys2Proof.Machine
end

section
/-! PROOF. The engines of a tile one by one, RUN, the fault clear and the reset of a tile (R101, R104, R106). -/

namespace Sys2Proof.Machine

/-! ## Engines -/

theorem engIdx_lt (e : Eng) : engIdx e < 6 := by cases e <;> decide

theorem engOf_engIdx (e : Eng) : engOf (engIdx e) = e := by cases e <;> rfl

theorem engIdx_inj {e f : Eng} (h : engIdx e = engIdx f) : e = f := by rw [← engOf_engIdx e, h, engOf_engIdx]

theorem mem_engsAll (e : Eng) : e ∈ engsAll := by cases e <;> decide

theorem engKey_eq_iff {g h : Nat} {e f : Eng} : engKey g e = engKey h f ↔ g = h ∧ e = f := by
  have := engIdx_lt e
  have := engIdx_lt f
  refine ⟨fun k => ?_, fun ⟨k, l⟩ => by rw [k, l]⟩
  unfold engKey at k
  exact ⟨by omega, engIdx_inj (by omega)⟩

theorem State.eng_setEng (s : State) (g : Nat) (e : Eng) (x : EngSt) (h : Nat) (f : Eng) :
    (s.setEng g e x).eng h f = if h = g ∧ f = e then x else s.eng h f := by
  rw [State.eng, State.setEng, spGet_spPut]
  exact if_congr engKey_eq_iff rfl rfl

@[simp] theorem State.eng_setEng_same (s : State) (g : Nat) (e : Eng) (x : EngSt) : (s.setEng g e x).eng g e = x := by
  rw [State.eng_setEng, if_pos ⟨rfl, rfl⟩]

@[simp] theorem State.eng_modEng_same (s : State) (g : Nat) (e : Eng) (f : EngSt → EngSt) : (s.modEng g e f).eng g e = f (s.eng g e) :=
  s.eng_setEng_same g e _

theorem State.eng_congr {s t : State} (h : t.engs = s.engs) (g : Nat) (e : Eng) : t.eng g e = s.eng g e := by rw [State.eng, State.eng, h]

/-- The change `f` gives engine `e` of tile `g` what `u` makes of it, and leaves every other engine. -/
def ChangesEng (g : Nat) (f : State → Eng → State) (u : Eng → EngSt → EngSt) : Prop :=
  ∀ (s : State) (e : Eng) (h : Nat) (k : Eng), (f s e).eng h k = if h = g ∧ k = e then u e (s.eng g e) else s.eng h k

/-- Only engines differ: the registers, the Loft and the tiles are as they were. -/
structure State.EngsOnly (s t : State) : Prop where
  regs : t.regs = s.regs
  loft : t.loft = s.loft
  psn : t.loftPsn = s.loftPsn
  tiles : t.tiles = s.tiles

namespace State.EngsOnly
variable {s t u : State}

theorem refl (s : State) : s.EngsOnly s := ⟨rfl, rfl, rfl, rfl⟩

theorem trans (h : s.EngsOnly t) (k : t.EngsOnly u) : s.EngsOnly u :=
  ⟨k.regs.trans h.regs, k.loft.trans h.loft, k.psn.trans h.psn, k.tiles.trans h.tiles⟩

theorem of_setEng (s : State) (g : Nat) (e : Eng) (x : EngSt) : s.EngsOnly (s.setEng g e x) :=
  ⟨State.setEng_regs .., State.setEng_loft .., State.setEng_loftPsn .., State.setEng_tiles ..⟩

theorem of_each {f : State → Eng → State} (h : ∀ (s : State) (e : Eng), s.EngsOnly (f s e)) (l : List Eng) (s : State) : s.EngsOnly (s.each l f) :=
  State.each_keeps (fun t => s.EngsOnly t) f (fun t e ht => ht.trans (h t e)) l s (refl s)

theorem of_withdraw (s : State) (g : Nat) (e : Eng) : s.EngsOnly (s.withdraw g e) := by
  unfold State.withdraw
  split
  · exact of_setEng s g e _
  · exact refl s

end State.EngsOnly

/-- Such a change of all of a tile's engines. -/
theorem ChangesEng.each {g : Nat} {f : State → Eng → State} {u : Eng → EngSt → EngSt} (c : ChangesEng g f u) (s : State) (h : Nat) (k : Eng) :
    (s.each engsAll f).eng h k = if h = g then u k (s.eng g k) else s.eng h k := by
  have go (l : List Eng) (nd : l.Nodup) (s : State) : (l.foldl f s).eng h k = if h = g ∧ k ∈ l then u k (s.eng g k) else s.eng h k := by
    induction l generalizing s with
    | nil => simp
    | cons e r ih =>
      obtain ⟨ne, nd⟩ := List.nodup_cons.mp nd
      rw [List.foldl_cons, ih nd, c, c]
      by_cases hg : h = g
      · by_cases hk : k = e
        · subst hk
          simp [hg, ne]
        · simp [hg, hk]
      · simp [hg]
  rw [State.each, go engsAll (by decide)]
  simp only [mem_engsAll, and_true]

/-! ## RUN written (R104) -/

/-- An engine whose posted wait, or whose credit before a wait, is withdrawn. -/
def EngSt.withdrawn (x : EngSt) : EngSt :=
  if x.wait = .posted ∨ x.wait = .fresh then { x with wait := .fresh, wf := none, timer := none, stall := .active, rsv := none } else x

theorem State.eng_withdraw (s : State) (g : Nat) (e : Eng) (h : Nat) (k : Eng) :
    (s.withdraw g e).eng h k = if h = g ∧ k = e then (s.eng g e).withdrawn else s.eng h k := by
  unfold State.withdraw EngSt.withdrawn
  split
  · exact s.eng_setEng g e _ h k
  · split
    next c => rw [c.1, c.2]
    next => rfl

theorem State.eng_setRun (s : State) (g run h : Nat) (k : Eng) :
    (s.setRun g run).eng h k = if h = g ∧ run.testBit (engIdx k) = false then (s.eng h k).withdrawn else s.eng h k := by
  have c : ChangesEng g (fun s e => if run.testBit (engIdx e) then s else s.withdraw g e)
      fun e x => if run.testBit (engIdx e) then x else x.withdrawn := by
    intro s e h k
    dsimp only
    split
    · split
      next e => rw [e.1, e.2]
      next => rfl
    · exact s.eng_withdraw g e h k
  unfold State.setRun
  dsimp only
  rw [c.each, State.eng_congr (State.fset_engs ..), State.eng_congr (State.fset_engs ..)]
  by_cases hg : h = g
  · subst hg
    cases run.testBit (engIdx k) <;> simp
  · simp [hg]

/-- The registers, the Loft and the tiles are those that the write of RUN alone leaves. -/
theorem State.engsOnly_setRun (s : State) (g run : Nat) : (s.fset (R.TIL_CTL g) F.TIL_CTL_RUN run).EngsOnly (s.setRun g run) := by
  refine .of_each (fun t e => ?_) engsAll _
  split
  · exact .refl t
  · exact .of_withdraw t g e

theorem State.setRun_frame (s : State) (g run : Nat) :
    (s.setRun g run).loft = s.loft ∧ (s.setRun g run).loftPsn = s.loftPsn ∧ (s.setRun g run).tiles = s.tiles := by
  obtain ⟨-, loft, psn, tiles⟩ := s.engsOnly_setRun g run
  exact ⟨loft.trans (State.fset_loft ..), psn.trans (State.fset_loftPsn ..), tiles.trans (State.fset_tiles ..)⟩

theorem State.rd_setRun (s : State) {g a : Nat} (run : Nat) (h : a ≠ R.TIL_CTL g) : (s.setRun g run).rd a = s.rd a :=
  (State.rd_congr (s.engsOnly_setRun g run).regs a).trans (s.rd_fset_ne rfl h run)

theorem State.run_setRun (s : State) (g : Nat) {run : Nat} (h : run < 64) : (s.setRun g run).fget (R.TIL_CTL g) F.TIL_CTL_RUN = run :=
  (State.fget_congr (s.engsOnly_setRun g run).regs _ _).trans (s.fget_fset_lt _ _ (by decide) h)

theorem State.ilv_setRun (s : State) (g run : Nat) :
    (s.setRun g run).fget (R.TIL_CTL g) F.TIL_CTL_ILV = s.fget (R.TIL_CTL g) F.TIL_CTL_ILV :=
  (State.fget_congr (s.engsOnly_setRun g run).regs _ _).trans
    (s.fget_fset_field _ F.TIL_CTL_RUN F.TIL_CTL_ILV (by decide) rfl (by decide) run)

/-! ## The fault clear (R106) -/

/-- The fault record of a tile at 0. -/
def State.faultZero (s : State) (g : Nat) : State := (s.wr (R.TIL_FAULT g) 0).wr (R.TIL_FADDR g) 0

theorem State.rd_faultZero (s : State) (g a : Nat) :
    (s.faultZero g).rd a = if a = R.TIL_FAULT g ∨ a = R.TIL_FADDR g then 0 else s.rd a := by
  rw [State.faultZero, State.rd_wr, State.rd_wr]
  by_cases h : a = R.TIL_FADDR g <;> simp [h]

theorem State.faultZero_frame (s : State) (g : Nat) :
    (s.faultZero g).loft = s.loft ∧ (s.faultZero g).loftPsn = s.loftPsn ∧ (s.faultZero g).tiles = s.tiles ∧ (s.faultZero g).engs = s.engs := by
  unfold State.faultZero
  generalize R.TIL_FAULT g = a
  generalize R.TIL_FADDR g = b
  simp

theorem State.engsOnly_faultClr (s : State) (g : Nat) : (s.faultZero g).EngsOnly (s.faultClr g) :=
  .of_each (fun t e => .of_setEng t g e _) engsAll _

theorem State.eng_faultClr (s : State) (g h : Nat) (k : Eng) :
    (s.faultClr g).eng h k = if h = g then { s.eng g k with faulted := false } else s.eng h k := by
  have c : ChangesEng g (fun s e => s.modEng g e fun x => { x with faulted := false }) fun _ x => { x with faulted := false } :=
    fun s e h k => s.eng_setEng g e _ h k
  have same := (s.faultZero_frame g).2.2.2
  rw [← State.eng_congr same g k, ← State.eng_congr same h k]
  exact c.each _ h k

theorem State.rd_faultClr (s : State) (g a : Nat) : (s.faultClr g).rd a = if a = R.TIL_FAULT g ∨ a = R.TIL_FADDR g then 0 else s.rd a :=
  (State.rd_congr (s.engsOnly_faultClr g).regs a).trans (s.rd_faultZero g a)

/-! ## The reset of a tile (R101, R174) -/

/-- The registers that a reset of a tile writes, beside RUN. -/
def ResetRegs (g a : Nat) : Prop :=
  a = R.TIL_CTL g ∨ a = R.TIL_FAULT g ∨ a = R.TIL_FADDR g ∨ a = R.TIL_YREQ g ∨ ∃ j < 6, a = R.TIL_LOOP g j ∨ a = R.TIL_ISTAT g j

/-- RUN, the fault record, the yield request, the loops and the status registers of a tile at 0. -/
def State.tileCleared (s : State) (g : Nat) : State :=
  (List.range 6).foldl (fun s i => (s.wr (R.TIL_LOOP g i) 0).wr (R.TIL_ISTAT g i) 0)
    (((s.fset (R.TIL_CTL g) F.TIL_CTL_RUN 0).faultZero g).wr (R.TIL_YREQ g) 0)

/-- An engine as a reset leaves it. -/
def EngSt.resetOf (x : EngSt) : EngSt := { EngSt.idle with nextUid := x.nextUid }

/-- The engines of a tile as a reset leaves them. -/
def State.engsReset (s : State) (g : Nat) : State := s.each engsAll fun s e => s.setEng g e (s.eng g e).resetOf

/-- The units before the tile's port but for those still in the Loft. -/
def State.inqCut (s : State) (g : Nat) : State := s.each [0, 1, 2] fun s k => s.setInq (laneKey g k) ((s.inq (laneKey g k)).take 32)

/-- What a reset withdraws from a tile. -/
def TileSt.resetOf (t : TileSt) : TileSt :=
  { t with loadQ := [], recvQ := [], leQ := [], meQ := [], veQ := [], walk := none, hintDue := false,
           batch := t.batch.filter fun o => match o with
             | .signal _ _ _ _ => true
             | .test _ _ _ _ _ => false }

theorem State.tileReset_eq (s : State) (g : Nat) : s.tileReset g = (((s.tileCleared g).engsReset g).inqCut g).modTile g TileSt.resetOf := by
  unfold State.tileReset State.inqCut State.engsReset State.tileCleared State.faultZero
  rfl

theorem State.tileCleared_frame (s : State) (g : Nat) :
    (s.tileCleared g).loft = s.loft ∧ (s.tileCleared g).loftPsn = s.loftPsn ∧ (s.tileCleared g).engs = s.engs := by
  refine State.each_keeps (fun t => t.loft = s.loft ∧ t.loftPsn = s.loftPsn ∧ t.engs = s.engs) _ (fun t i ht => ?_) (List.range 6) _ ?_
  · rw [State.wr_loft, State.wr_loft, State.wr_loftPsn, State.wr_loftPsn, State.wr_engs, State.wr_engs]
    exact ht
  · obtain ⟨loft, psn, -, engs⟩ := (s.fset (R.TIL_CTL g) F.TIL_CTL_RUN 0).faultZero_frame g
    rw [State.wr_loft, State.wr_loftPsn, State.wr_engs, loft, psn, engs]
    exact ⟨State.fset_loft .., State.fset_loftPsn .., State.fset_engs ..⟩

theorem State.engsOnly_engsReset (s : State) (g : Nat) : s.EngsOnly (s.engsReset g) := .of_each (fun t e => .of_setEng t g e _) engsAll s

theorem State.eng_engsReset (s : State) (g h : Nat) (k : Eng) : (s.engsReset g).eng h k = if h = g then (s.eng g k).resetOf else s.eng h k := by
  have c : ChangesEng g (fun s e => s.setEng g e (s.eng g e).resetOf) fun _ x => x.resetOf := fun s e h k => s.eng_setEng g e _ h k
  exact c.each s h k

theorem State.inqCut_frame (s : State) (g : Nat) :
    (s.inqCut g).regs = s.regs ∧ (s.inqCut g).loft = s.loft ∧ (s.inqCut g).loftPsn = s.loftPsn ∧ (s.inqCut g).engs = s.engs := by
  refine State.each_keeps (fun t => t.regs = s.regs ∧ t.loft = s.loft ∧ t.loftPsn = s.loftPsn ∧ t.engs = s.engs) _ (fun t k ht => ?_) [0, 1, 2] s
    ⟨rfl, rfl, rfl, rfl⟩
  rw [State.setInq_regs, State.setInq_loft, State.setInq_loftPsn, State.setInq_engs]
  exact ht

theorem State.tileReset_frame (s : State) (g : Nat) :
    (s.tileReset g).regs = (s.tileCleared g).regs ∧ (s.tileReset g).loft = s.loft ∧ (s.tileReset g).loftPsn = s.loftPsn := by
  obtain ⟨loft, psn, -⟩ := s.tileCleared_frame g
  obtain ⟨r, l, p, -⟩ := (s.tileCleared g).engsOnly_engsReset g
  obtain ⟨r', l', p', -⟩ := ((s.tileCleared g).engsReset g).inqCut_frame g
  rw [State.tileReset_eq, State.modTile_regs, State.modTile_loft, State.modTile_loftPsn]
  exact ⟨r'.trans r, l'.trans (l.trans loft), p'.trans (p.trans psn)⟩

theorem State.eng_tileReset (s : State) (g h : Nat) (k : Eng) : (s.tileReset g).eng h k = if h = g then (s.eng g k).resetOf else s.eng h k := by
  have same : (s.tileCleared g).engs = s.engs := (s.tileCleared_frame g).2.2
  have cut := (((s.tileCleared g).engsReset g).inqCut_frame g).2.2.2
  rw [← State.eng_congr same g k, ← State.eng_congr same h k, ← State.eng_engsReset, ← State.eng_congr cut, State.tileReset_eq]
  exact State.eng_congr (State.modTile_engs ..) h k

theorem State.tile_tileReset (s : State) (g : Nat) :
    ((s.tileReset g).tile g).loadQ = [] ∧ ((s.tileReset g).tile g).recvQ = [] ∧ ((s.tileReset g).tile g).walk = none := by
  rw [State.tileReset_eq, State.tile_modTile_same]
  exact ⟨rfl, rfl, rfl⟩

theorem tilLoop_ne {g j o : Nat} (hj : j < 6) (h : o < 0x1010) : Blk.til g + o ≠ R.TIL_LOOP g j ∧ Blk.til g + o ≠ R.TIL_ISTAT g j := by
  simp only [R.TIL_LOOP, R.TIL_ISTAT]
  omega

/-- The loops and status registers stand above the others that a reset writes. -/
theorem State.rd_tileCleared (s : State) {g o : Nat} (h : o < 0x1010) :
    (s.tileCleared g).rd (Blk.til g + o) =
      (((s.fset (R.TIL_CTL g) F.TIL_CTL_RUN 0).faultZero g).wr (R.TIL_YREQ g) 0).rd (Blk.til g + o) := by
  have keep : ∀ t : State, t.KeepsRegs ((List.range 6).foldl (fun s i => (s.wr (R.TIL_LOOP g i) 0).wr (R.TIL_ISTAT g i) 0) t)
      fun a => ∃ j < 6, a = R.TIL_LOOP g j ∨ a = R.TIL_ISTAT g j := fun t => State.keepsRegs_each (List.range 6)
    (fun s i hi => (s.keepsRegs_wr ⟨i, List.mem_range.mp hi, .inl rfl⟩ 0).trans (State.keepsRegs_wr _ ⟨i, List.mem_range.mp hi, .inr rfl⟩ 0)) t
  exact keep _ _ fun ⟨j, hj, e⟩ => e.elim (tilLoop_ne hj h).1 (tilLoop_ne hj h).2

/-- What a reset leaves in the tile's control and fault registers. -/
theorem State.tileReset_get (s : State) (g : Nat) :
    (s.tileReset g).fget (R.TIL_CTL g) F.TIL_CTL_RUN = 0 ∧
      (s.tileReset g).fget (R.TIL_CTL g) F.TIL_CTL_ILV = s.fget (R.TIL_CTL g) F.TIL_CTL_ILV ∧
      (s.tileReset g).rd (R.TIL_FAULT g) = 0 ∧ (s.tileReset g).rd (R.TIL_FADDR g) = 0 := by
  have low {o : Nat} (h : o < 0x1010) := by
    have e := s.rd_tileCleared (g := g) h
    rwa [State.rd, ← (s.tileReset_frame g).1, ← State.rd] at e
  have ctl : (s.tileReset g).rd (R.TIL_CTL g) = (s.fset (R.TIL_CTL g) F.TIL_CTL_RUN 0).rd (R.TIL_CTL g) := by
    refine (low (o := 0) (by decide)).trans ?_
    rw [State.rd_wr_other _ _ (by simp [R.TIL_YREQ]), State.rd_faultZero, if_neg (by simp [R.TIL_FAULT, R.TIL_FADDR])]
    rw [R.TIL_CTL, Nat.add_zero]
  refine ⟨?_, ?_, ?_, ?_⟩
  · exact (State.fget_of_rd rfl ctl).trans (s.fget_fset_lt _ _ (by decide) (by decide))
  · exact (State.fget_of_rd rfl ctl).trans (s.fget_fset_field _ F.TIL_CTL_RUN F.TIL_CTL_ILV (by decide) rfl (by decide) 0)
  · refine (low (o := 0x10) (by decide)).trans ?_
    rw [State.rd_wr_other _ _ (by simp [R.TIL_YREQ]), State.rd_faultZero]
    exact if_pos (.inl rfl)
  · refine (low (o := 0x18) (by decide)).trans ?_
    rw [State.rd_wr_other _ _ (by simp [R.TIL_YREQ]), State.rd_faultZero]
    exact if_pos (.inr rfl)

theorem State.keepsRegs_tileCleared (s : State) (g : Nat) : s.KeepsRegs (s.tileCleared g) (ResetRegs g) := by
  have run := (s.keepsRegs_fset_at (a := R.TIL_CTL g) (f := F.TIL_CTL_RUN) rfl 0).mono (B := ResetRegs g) fun _ => .inl
  have fault (t : State) : t.KeepsRegs (t.faultZero g) (ResetRegs g) := fun a h => by
    rw [State.rd_faultZero, if_neg fun e => h (.inr (e.imp_right .inl))]
  have yreq (t : State) := t.keepsRegs_wr (A := ResetRegs g) (a := R.TIL_YREQ g) (.inr (.inr (.inr (.inl rfl)))) 0
  have loops (t : State) := State.keepsRegs_each (A := ResetRegs g) (f := fun s i => (s.wr (R.TIL_LOOP g i) 0).wr (R.TIL_ISTAT g i) 0) (List.range 6)
    (fun s i hi => (s.keepsRegs_wr (a := R.TIL_LOOP g i) (.inr (.inr (.inr (.inr ⟨i, List.mem_range.mp hi, .inl rfl⟩)))) 0).trans
      (State.keepsRegs_wr _ (a := R.TIL_ISTAT g i) (.inr (.inr (.inr (.inr ⟨i, List.mem_range.mp hi, .inr rfl⟩)))) 0)) t
  unfold State.tileCleared
  exact ((run.trans (fault _)).trans (yreq _)).trans (loops _)

theorem State.keepsRegs_tileReset (s : State) (g : Nat) : s.KeepsRegs (s.tileReset g) (ResetRegs g) :=
  (s.keepsRegs_tileCleared g).trans (State.keepsRegs_of_regs (s.tileReset_frame g).1)

end Sys2Proof.Machine
end

section
/-! PROOF. Bytes put into the Loft and read back (R34, R90, R94). -/

namespace Sys2Proof.Machine

/-! ## Numbers as bytes -/

theorem ofLeBytes_leBytes (n v : Nat) : ofLeBytes (leBytes n v) = v % 2 ^ (8 * n) := by
  induction n generalizing v with
  | zero => exact (Nat.mod_one v).symm
  | succ n ih =>
    have split : v % (256 * 2 ^ (8 * n)) = v % 256 + 256 * (v / 256 % 2 ^ (8 * n)) := Nat.mod_mul
    rw [leBytes, ofLeBytes, ih, BitVec.toNat_ofNat, Nat.mul_succ, Nat.add_comm (8 * n), Nat.pow_add]
    exact split.symm

theorem ofLeBytes_lt (l : List Byte) : ofLeBytes l < 2 ^ (8 * l.length) := by
  induction l with
  | nil => decide
  | cons b r ih =>
    have := b.isLt
    rw [List.length_cons, Nat.mul_succ, Nat.pow_add, ofLeBytes]
    omega

theorem State.loftBytes_length (s : State) (g n : Nat) : ∀ a, (s.loftBytes g a n).length = n := by
  induction n with
  | zero => exact fun _ => rfl
  | succ n ih => exact fun a => congrArg Nat.succ (ih (a + 1))

theorem State.loftNum_lt (s : State) (g a n : Nat) : s.loftNum g a n < 2 ^ (8 * n) := by
  have := ofLeBytes_lt (s.loftBytes g a n)
  rwa [s.loftBytes_length] at this

/-! ## Chunks of one size -/

section Chunks
variable {α : Type} {f : Nat → List α} {k : Nat} (hk : ∀ i, (f i).length = k)
include hk

theorem length_flatMap_range (n : Nat) : ((List.range n).flatMap f).length = k * n := by
  induction n with
  | zero => rfl
  | succ n ih => rw [List.range_succ, List.flatMap_append, List.length_append, ih, List.flatMap_singleton, hk, Nat.mul_succ]

theorem chunk_flatMap_range {j n : Nat} (h : j < n) : (((List.range n).flatMap f).drop (k * j)).take k = f j := by
  induction n with
  | zero => exact absurd h (Nat.not_lt_zero j)
  | succ n ih =>
    have len := length_flatMap_range hk n
    rw [List.range_succ, List.flatMap_append, List.flatMap_singleton]
    rcases Nat.lt_succ_iff_lt_or_eq.mp h with h | rfl
    · have room : k * j + k ≤ k * n := by
        rw [← Nat.mul_succ]
        exact Nat.mul_le_mul_left k h
      rw [List.drop_append_of_le_length (by omega), List.take_append_of_le_length (by rw [List.length_drop, len]; omega)]
      exact ih h
    · rw [List.drop_append, len, Nat.sub_self, List.drop_zero, List.drop_of_length_le (Nat.le_of_eq len), List.nil_append, ← hk j, List.take_length]

end Chunks

/-! ## Bytes put one after another -/

theorem State.putLoftBytes_append (g : Nat) (l r : List Byte) : ∀ (s : State) (a : Nat),
    s.putLoftBytes g a (l ++ r) = (s.putLoftBytes g a l).putLoftBytes g (a + l.length) r := by
  induction l with
  | nil => exact fun _ _ => rfl
  | cons b l ih =>
    intro s a
    rw [List.cons_append, State.putLoftBytes, ih, List.length_cons, Nat.add_assoc, Nat.add_comm 1]
    rfl

theorem State.ilv_putLoftBytes (s : State) (g a : Nat) (l : List Byte) (h : Nat) : (s.putLoftBytes g a l).ilv h = s.ilv h := by
  rw [State.ilv, State.ilv]
  exact State.fget_congr (State.sameBanks_putLoftBytes g l s a).1 _ _

theorem State.loftPsn_putLoftBytes (g : Nat) (l : List Byte) : ∀ (s : State) (a : Nat), (s.putLoftBytes g a l).loftPsn = s.loftPsn := by
  induction l with
  | nil => exact fun _ _ => rfl
  | cons b l ih => exact fun s a => (ih _ _).trans (State.setLoftByte_loftPsn ..)

/-- Chunks that depend on the registers only, put one after another. -/
theorem State.each_putLoft (s : State) (g a : Nat) {k : Nat} {f : State → Nat → List Byte} (hf : ∀ t i, t.regs = s.regs → f t i = f s i)
    (hk : ∀ i, (f s i).length = k) (n : Nat) :
    (List.range n).foldl (fun t i => t.putLoftBytes g (a + k * i) (f t i)) s = s.putLoftBytes g a ((List.range n).flatMap (f s)) := by
  induction n with
  | zero => rfl
  | succ n ih =>
    rw [List.range_succ, List.foldl_append, ih, List.flatMap_append, State.putLoftBytes_append, length_flatMap_range hk, List.flatMap_singleton]
    rw [List.foldl_cons, List.foldl_nil, hf _ _ (State.sameBanks_putLoftBytes g _ s a).1]

section Put
variable {g : Nat}

/-- Bytes put elsewhere leave a byte. -/
theorem State.loftByte_put_other {h c : Nat} (l : List Byte) : ∀ {s : State} {a : Nat},
    (∀ i < l.length, loftKey (s.ilv h) h c ≠ loftKey (s.ilv g) g (a + i)) → (s.putLoftBytes g a l).loftByte h c = s.loftByte h c := by
  induction l with
  | nil => exact fun _ => rfl
  | cons b l ih =>
    intro s a ne
    have rest : ∀ i < l.length, loftKey ((s.setLoftByte g a b).ilv h) h c ≠ loftKey ((s.setLoftByte g a b).ilv g) g (a + 1 + i) := by
      intro i hi
      rw [State.ilv_setLoftByte, State.ilv_setLoftByte, Nat.add_assoc, Nat.add_comm 1]
      exact ne (i + 1) (Nat.succ_lt_succ hi)
    exact (ih rest).trans ((State.loftByte_set ..).trans (if_neg (ne 0 (Nat.succ_pos _))))

/-- Bytes put at places of their own read back. -/
theorem State.loftByte_put_at (l : List Byte) : ∀ {s : State} {a : Nat},
    (∀ i < l.length, ∀ j < l.length, loftKey (s.ilv g) g (a + i) = loftKey (s.ilv g) g (a + j) → i = j) → ∀ {i : Nat} (hi : i < l.length),
    (s.putLoftBytes g a l).loftByte g (a + i) = l[i] := by
  induction l with
  | nil => exact fun _ _ hi => absurd hi (Nat.not_lt_zero _)
  | cons b l ih =>
    intro s a inj i hi
    have shift (j : Nat) : a + 1 + j = a + (j + 1) := by omega
    have rest : ∀ i < l.length, ∀ j < l.length,
        loftKey ((s.setLoftByte g a b).ilv g) g (a + 1 + i) = loftKey ((s.setLoftByte g a b).ilv g) g (a + 1 + j) → i = j := by
      intro i hi j hj e
      rw [State.ilv_setLoftByte, shift, shift] at e
      exact Nat.succ_injective (inj (i + 1) (Nat.succ_lt_succ hi) (j + 1) (Nat.succ_lt_succ hj) e)
    rw [State.putLoftBytes]
    cases i with
    | zero =>
      rw [State.loftByte_put_other l fun j hj e => ?_]
      · exact State.loftByte_set_same s g a b
      · rw [State.ilv_setLoftByte, shift] at e
        exact absurd (inj 0 hi (j + 1) (Nat.succ_lt_succ hj) e) (Nat.succ_ne_zero j).symm
    | succ i =>
      rw [← shift i, List.getElem_cons_succ]
      exact ih rest (Nat.lt_of_succ_lt_succ hi)

theorem State.loftBytes_put {s : State} {a : Nat} {l : List Byte}
    (inj : ∀ i < l.length, ∀ j < l.length, loftKey (s.ilv g) g (a + i) = loftKey (s.ilv g) g (a + j) → i = j) (n : Nat) :
    ∀ {i : Nat}, i + n ≤ l.length → (s.putLoftBytes g a l).loftBytes g (a + i) n = (l.drop i).take n := by
  induction n with
  | zero =>
    intro i _
    rw [State.loftBytes, List.take_zero]
  | succ n ih =>
    intro i hi
    have inside : i < l.length := by omega
    rw [List.drop_eq_getElem_cons inside, List.take_succ_cons, ← ih (i := i + 1) (by omega), ← State.loftByte_put_at l inj inside]
    rfl

end Put

/-! ## A line of the Loft -/

/-- The 64 bytes of a line are held one after another. -/
theorem loftKey_line (k g n : Nat) {c : Nat} (hc : c < 64) :
    loftKey k g (n * 64 + c) = g * 2 ^ 22 + bankOfLine k (n % 2 ^ 16) * 2 ^ 17 + lineInBank k (n % 2 ^ 16) * 64 + c := by
  have line : (n * 64 + c) % 2 ^ 22 / 64 = n % 2 ^ 16 := by omega
  rw [loftKey, line]
  omega

theorem loftKey_line_inj (k g n : Nat) {i j : Nat} (hi : i < 64) (hj : j < 64) (h : loftKey k g (n * 64 + i) = loftKey k g (n * 64 + j)) : i = j := by
  rw [loftKey_line k g n hi, loftKey_line k g n hj] at h
  omega

/-! ## Poison bits -/

theorem State.loftPoison_set (s : State) (g a h c : Nat) (p : Bool) :
    (s.setLoftPoison g a p).loftPoison h c = if loftKey (s.ilv h) h c / 32 = loftKey (s.ilv g) g a / 32 then p else s.loftPoison h c :=
  spGet_spPut (fun _ => false) s.loftPsn _ _ p

theorem State.loftByte_setLoftPoison (s : State) (g a h c : Nat) (p : Bool) : (s.setLoftPoison g a p).loftByte h c = s.loftByte h c := rfl

/-- The two poison bits of a line. -/
theorem State.loftPoison_line (s : State) (g n : Nat) (p q : Bool) :
    ((s.setLoftPoison g (n * 64) p).setLoftPoison g (n * 64 + 32) q).loftPoison g (n * 64) = p ∧
      ((s.setLoftPoison g (n * 64) p).setLoftPoison g (n * 64 + 32) q).loftPoison g (n * 64 + 32) = q := by
  have low := loftKey_line (s.ilv g) g n (c := 0) (by decide)
  have high := loftKey_line (s.ilv g) g n (c := 32) (by decide)
  rw [Nat.add_zero] at low
  have apart : loftKey (s.ilv g) g (n * 64) / 32 ≠ loftKey (s.ilv g) g (n * 64 + 32) / 32 := by omega
  refine ⟨?_, ?_⟩
  · rw [State.loftPoison_set]
    show (if loftKey (s.ilv g) g (n * 64) / 32 = loftKey (s.ilv g) g (n * 64 + 32) / 32 then _ else _) = _
    rw [if_neg apart, State.loftPoison_set, if_pos rfl]
  · rw [State.loftPoison_set, if_pos rfl]

end Sys2Proof.Machine
end

section
/-! PROOF. The control/debug port's line operations (R98, R115, R116), the counter clear (R123), and a tile's control writes complete. -/

namespace Sys2Proof.Machine

theorem exec_tilCtlRun (g : Tile) (run : BitVec 6) (s : State) : exec (.tilCtlRun g run) s = onLive s fun s => s.setRun g run.toNat := rfl
theorem exec_tilCtlIlv (g : Tile) (v : Fin 8) (s : State) : exec (.tilCtlIlv g v) s = onLive s fun s => s.ilvWrite g v := rfl
theorem exec_srst (g : Tile) (s : State) : exec (.srst g) s = onLive s fun s => s.tileReset g := rfl
theorem exec_tilFaultClr (g : Tile) (s : State) : exec (.tilFaultClr g) s = onLive s fun s => s.faultClr g := rfl
theorem exec_bnkDctlGo (g : Tile) (wr : Bool) (psn : BitVec 2) (s : State) :
    exec (.bnkDctlGo g wr psn) s = onLive s fun s => s.debugGo g wr psn.toNat := rfl
theorem exec_debugLineDone (g : Tile) (s : State) : exec (.debugLineDone g) s = onLive s fun s => s.debugDone g := rfl
theorem exec_tilCntctlClr (g : Tile) (s : State) : exec (.tilCntctlClr g) s = onLive s fun s => s.cntClear g := rfl

/-- ILV of a quiet tile; 6 and 7 are taken as 5 (R104). -/
theorem State.ilvWrite_quiet {s : State} {g : Nat} (h : s.quiet g = true) (v : Nat) :
    s.ilvWrite g v = s.fset (R.TIL_CTL g) F.TIL_CTL_ILV (min 5 v) := if_pos h

/-! ## GO (R115) -/

/-- WR and PSN of the operation asked for. -/
def State.debugAsk (s : State) (g : Nat) (wr : Bool) (psn : Nat) : State :=
  (s.fset (R.BNK_DCTL g) F.BNK_DCTL_WR (bit wr)).fset (R.BNK_DCTL g) F.BNK_DCTL_PSN psn

/-- GO with DONE set starts the operation. -/
theorem State.debugGo_done {s : State} {g : Nat} (h : s.flag (R.BNK_DCTL g) F.BNK_DCTL_DONE = true) (wr : Bool) (psn : Nat) :
    s.debugGo g wr psn = ((s.debugAsk g wr psn).fset (R.BNK_DCTL g) F.BNK_DCTL_DONE 0).modTile g fun t =>
      { t with dbg := some ⟨wr, psn, s.fget (R.BNK_DADDR g) F.BNK_DADDR_LINE⟩ } := by
  have done : (s.debugAsk g wr psn).flag (R.BNK_DCTL g) F.BNK_DCTL_DONE = true := by
    rw [← h]
    refine State.flag_congr ?_
    rw [State.debugAsk, State.fget_fset_field _ _ F.BNK_DCTL_PSN F.BNK_DCTL_DONE (by decide) rfl (by decide)]
    exact s.fget_fset_field _ F.BNK_DCTL_WR F.BNK_DCTL_DONE (by decide) rfl (by decide) _
  have line : ((s.debugAsk g wr psn).fset (R.BNK_DCTL g) F.BNK_DCTL_DONE 0).fget (R.BNK_DADDR g) F.BNK_DADDR_LINE =
      s.fget (R.BNK_DADDR g) F.BNK_DADDR_LINE := by
    have ne : R.BNK_DADDR g ≠ R.BNK_DCTL g := by simp [R.BNK_DADDR, R.BNK_DCTL]
    rw [State.debugAsk, State.fget_fset_ne _ rfl rfl ne, State.fget_fset_ne _ rfl rfl ne, State.fget_fset_ne _ rfl rfl ne]
  unfold State.debugGo
  rw [← line]
  unfold State.debugAsk at done ⊢
  dsimp only
  rw [if_neg (not_not.mpr done)]

/-- The fields of BNK_DCTL once an operation is under way. -/
theorem State.debugAsk_get (s : State) (g : Nat) (wr : Bool) {psn : Nat} (h : psn < 4) :
    let t := (s.debugAsk g wr psn).fset (R.BNK_DCTL g) F.BNK_DCTL_DONE 0
    t.fget (R.BNK_DCTL g) F.BNK_DCTL_DONE = 0 ∧ t.fget (R.BNK_DCTL g) F.BNK_DCTL_WR = bit wr ∧ t.fget (R.BNK_DCTL g) F.BNK_DCTL_PSN = psn := by
  refine ⟨State.fget_fset_lt _ _ _ (by decide) (by decide), ?_, ?_⟩
  · rw [State.fget_fset_field _ _ F.BNK_DCTL_DONE F.BNK_DCTL_WR (by decide) rfl (by decide), State.debugAsk,
      State.fget_fset_field _ _ F.BNK_DCTL_PSN F.BNK_DCTL_WR (by decide) rfl (by decide)]
    exact s.fget_fset_lt _ _ (by decide) (by cases wr <;> decide)
  · rw [State.fget_fset_field _ _ F.BNK_DCTL_DONE F.BNK_DCTL_PSN (by decide) rfl (by decide)]
    exact State.fget_fset_lt _ _ _ (by decide) h

/-! ## A line operation that ends at a bank that is ON (R98, R115, R116) -/

/-- DONE set, ERR as found, and no operation under way. -/
def State.debugFin (s : State) (g err : Nat) : State :=
  ((s.fset (R.BNK_DCTL g) F.BNK_DCTL_DONE 1).fset (R.BNK_DCTL g) F.BNK_DCTL_ERR err).modTile g fun t => { t with dbg := none, dbgLost := 0 }

theorem State.debugFin_get (s : State) (g : Nat) :
    (s.debugFin g 0).fget (R.BNK_DCTL g) F.BNK_DCTL_DONE = 1 ∧ (s.debugFin g 0).fget (R.BNK_DCTL g) F.BNK_DCTL_ERR = 0 ∧
      ((s.debugFin g 0).tile g).dbg = none ∧
      (s.debugFin g 0).fget (R.BNK_DCTL g) F.BNK_DCTL_PSN = s.fget (R.BNK_DCTL g) F.BNK_DCTL_PSN := by
  refine ⟨?_, ?_, ?_, ?_⟩
  · rw [State.debugFin, State.fget_modTile, State.fget_fset_field _ _ F.BNK_DCTL_ERR F.BNK_DCTL_DONE (by decide) rfl (by decide)]
    exact s.fget_fset_lt _ _ (by decide) (by decide)
  · rw [State.debugFin, State.fget_modTile]
    exact State.fget_fset_lt _ _ F.BNK_DCTL_ERR (by decide) (by decide)
  · rw [State.debugFin, State.tile_modTile_same]
  · rw [State.debugFin, State.fget_modTile, State.fget_fset_field _ _ F.BNK_DCTL_ERR F.BNK_DCTL_PSN (by decide) rfl (by decide)]
    exact s.fget_fset_field _ F.BNK_DCTL_DONE F.BNK_DCTL_PSN (by decide) rfl (by decide) 1

theorem State.keepsRegs_debugFin (s : State) (g err : Nat) : s.KeepsRegs (s.debugFin g err) fun a => a = R.BNK_DCTL g :=
  ((s.keepsRegs_fset_at rfl 1).trans (State.keepsRegs_fset_at _ rfl err)).trans (State.keepsRegs_of_regs (State.modTile_regs ..))

theorem State.sameLoft_debugFin (s : State) (g err : Nat) : s.SameLoft g (s.debugFin g err) :=
  ((State.SameLoft.of_fset s rfl (by simp [R.TIL_CTL, R.BNK_DCTL]) 1).trans (.of_fset _ rfl (by simp [R.TIL_CTL, R.BNK_DCTL]) err)).trans
    (.of_modTile _ g _)

/-- The line's bytes in the data registers. -/
def State.debugLoad (s : State) (g a : Nat) : State :=
  (List.range 8).foldl (fun s i => s.wr (R.BNK_DDATA g i) (BitVec.ofNat 64 (s.loftNum g (a + 8 * i) 8))) s

/-- The data registers' bytes in the line. -/
def State.debugStore (s : State) (g a : Nat) : State :=
  (List.range 8).foldl (fun s i => s.putLoftBytes g (a + 8 * i) (leBytes 8 (s.rd (R.BNK_DDATA g i)).toNat)) s

section Line
variable {s : State} {g : Nat} {o : DbgOp}

theorem State.debugDone_read (h : (s.tile g).dbg = some o) (on : s.bankAcc g (s.bankOf g (o.line * 64)) = .ok) (hw : o.wr = false) :
    s.debugDone g = ((s.debugLoad g (o.line * 64)).fset (R.BNK_DCTL g) F.BNK_DCTL_PSN
      (bit ((s.debugLoad g (o.line * 64)).loftPoison g (o.line * 64)) +
        2 * bit ((s.debugLoad g (o.line * 64)).loftPoison g (o.line * 64 + 32)))).debugFin g 0 := by
  unfold State.debugDone
  rw [h]
  dsimp only
  rw [on, hw]
  rfl

theorem State.debugDone_write (h : (s.tile g).dbg = some o) (on : s.bankAcc g (s.bankOf g (o.line * 64)) = .ok) (hw : o.wr = true) :
    s.debugDone g = (((s.debugStore g (o.line * 64)).setLoftPoison g (o.line * 64) (o.psn.testBit 0)).setLoftPoison g (o.line * 64 + 32)
      (o.psn.testBit 1)).debugFin g 0 := by
  unfold State.debugDone
  rw [h]
  dsimp only
  rw [on, hw]
  rfl

end Line

theorem bnkDdata_ne (g i o : Nat) (h : o < 0x3040) : Blk.til g + o ≠ R.BNK_DDATA g i := by
  simp only [R.BNK_DDATA]
  omega

theorem State.loftNum_congr {s t : State} {g : Nat} (h : ∀ a, t.loftByte g a = s.loftByte g a) (n : Nat) : ∀ a, t.loftNum g a n = s.loftNum g a n := by
  have bytes : ∀ a, t.loftBytes g a n = s.loftBytes g a n := by
    induction n with
    | zero => exact fun _ => rfl
    | succ n ih => exact fun a => by rw [State.loftBytes, State.loftBytes, ih, h]
  exact fun a => by rw [State.loftNum, State.loftNum, bytes]

/-- The data registers after the line was read: the Loft stands, so each takes its 8 bytes. -/
theorem State.debugLoad_get (s : State) (g a : Nat) :
    s.SameLoft g (s.debugLoad g a) ∧ ∀ j < 8, ((s.debugLoad g a).rd (R.BNK_DDATA g j)).toNat = s.loftNum g (a + 8 * j) 8 := by
  have go (n : Nat) : let t := (List.range n).foldl (fun s i => s.wr (R.BNK_DDATA g i) (BitVec.ofNat 64 (s.loftNum g (a + 8 * i) 8))) s
      s.SameLoft g t ∧ ∀ j < n, (t.rd (R.BNK_DDATA g j)).toNat = s.loftNum g (a + 8 * j) 8 := by
    induction n with
    | zero => exact ⟨.refl s g, fun j hj => absurd hj (Nat.not_lt_zero j)⟩
    | succ n ih =>
      rw [List.range_succ, List.foldl_append, List.foldl_cons, List.foldl_nil]
      generalize (List.range n).foldl (fun s i => s.wr (R.BNK_DDATA g i) (BitVec.ofNat 64 (s.loftNum g (a + 8 * i) 8))) s = t at *
      obtain ⟨same, regs⟩ := ih
      have kept : R.TIL_CTL g ≠ R.BNK_DDATA g n := bnkDdata_ne g n 0 (by decide)
      refine ⟨same.trans (.of_rd (State.wr_loft ..) (State.wr_loftPsn ..) (t.rd_wr_other _ kept)), fun j hj => ?_⟩
      rw [State.rd_wr, State.loftNum_congr same.loftByte]
      split
      next e =>
        obtain rfl : j = n := by simp only [R.BNK_DDATA] at e; omega
        rw [BitVec.toNat_ofNat]
        exact Nat.mod_eq_of_lt (s.loftNum_lt g _ 8)
      next e => exact regs j ((Nat.lt_succ_iff_lt_or_eq.mp hj).resolve_right fun k => e (by rw [k]))
  exact go 8

/-- The line after the data registers were put there. -/
theorem State.debugStore_get (s : State) (g n : Nat) :
    (s.debugStore g (n * 64)).regs = s.regs ∧
      ∀ j < 8, (s.debugStore g (n * 64)).loftNum g (n * 64 + 8 * j) 8 = (s.rd (R.BNK_DDATA g j)).toNat := by
  have len (i : Nat) : (leBytes 8 (s.rd (R.BNK_DDATA g i)).toNat).length = 8 := leBytes_length 8 _
  have put := s.each_putLoft g (n * 64) (k := 8) (f := fun t i => leBytes 8 (t.rd (R.BNK_DDATA g i)).toNat)
    (fun t i e => by rw [State.rd, State.rd, e]) len 8
  have all := length_flatMap_range len 8
  unfold State.debugStore
  rw [put]
  refine ⟨(State.sameBanks_putLoftBytes g _ s _).1, fun j hj => ?_⟩
  rw [State.loftNum, State.loftBytes_put (fun i hi k hk => loftKey_line_inj _ g n (by omega) (by omega)) 8 (by omega), chunk_flatMap_range len hj,
    ofLeBytes_leBytes]
  exact Nat.mod_eq_of_lt (s.rd (R.BNK_DDATA g j)).isLt

/-- What a read operation at a bank that is ON leaves. -/
theorem State.debugDone_read_get {s : State} {g : Nat} {o : DbgOp} (h : (s.tile g).dbg = some o)
    (on : s.bankAcc g (s.bankOf g (o.line * 64)) = .ok) (hw : o.wr = false) :
    (s.debugDone g).fget (R.BNK_DCTL g) F.BNK_DCTL_DONE = 1 ∧ (s.debugDone g).fget (R.BNK_DCTL g) F.BNK_DCTL_ERR = 0 ∧
      ((s.debugDone g).tile g).dbg = none ∧ s.SameLoft g (s.debugDone g) ∧
      (∀ j < 8, ((s.debugDone g).rd (R.BNK_DDATA g j)).toNat = s.loftNum g (o.line * 64 + 8 * j) 8) ∧
      (s.debugDone g).fget (R.BNK_DCTL g) F.BNK_DCTL_PSN = bit (s.loftPoison g (o.line * 64)) + 2 * bit (s.loftPoison g (o.line * 64 + 32)) := by
  obtain ⟨same, data⟩ := s.debugLoad_get g (o.line * 64)
  rw [State.debugDone_read h on hw, same.loftPoison, same.loftPoison]
  generalize s.debugLoad g (o.line * 64) = u at *
  have fits : bit (s.loftPoison g (o.line * 64)) + 2 * bit (s.loftPoison g (o.line * 64 + 32)) < 4 := by
    cases s.loftPoison g (o.line * 64) <;> cases s.loftPoison g (o.line * 64 + 32) <;> decide
  generalize bit (s.loftPoison g (o.line * 64)) + 2 * bit (s.loftPoison g (o.line * 64 + 32)) = n at *
  obtain ⟨done, err, dbg, psn⟩ := (u.fset (R.BNK_DCTL g) F.BNK_DCTL_PSN n).debugFin_get g
  have shown : u.SameLoft g (u.fset (R.BNK_DCTL g) F.BNK_DCTL_PSN n) := .of_fset u rfl (by simp [R.TIL_CTL, R.BNK_DCTL]) n
  refine ⟨done, err, dbg, (same.trans shown).trans (State.sameLoft_debugFin _ g 0), fun j hj => ?_, ?_⟩
  · have ne : R.BNK_DDATA g j ≠ R.BNK_DCTL g := by simp only [R.BNK_DDATA, R.BNK_DCTL]; omega
    rw [State.keepsRegs_debugFin _ g 0 _ ne, State.rd_fset_ne _ rfl ne]
    exact data j hj
  · rw [psn]
    exact u.fget_fset_lt _ F.BNK_DCTL_PSN (by decide) fits

/-- What a write operation at a bank that is ON leaves. -/
theorem State.debugDone_write_get {s : State} {g : Nat} {o : DbgOp} (h : (s.tile g).dbg = some o)
    (on : s.bankAcc g (s.bankOf g (o.line * 64)) = .ok) (hw : o.wr = true) :
    (s.debugDone g).fget (R.BNK_DCTL g) F.BNK_DCTL_DONE = 1 ∧ (s.debugDone g).fget (R.BNK_DCTL g) F.BNK_DCTL_ERR = 0 ∧
      ((s.debugDone g).tile g).dbg = none ∧
      (∀ j < 8, (s.debugDone g).loftNum g (o.line * 64 + 8 * j) 8 = (s.rd (R.BNK_DDATA g j)).toNat) ∧
      (s.debugDone g).loftPoison g (o.line * 64) = o.psn.testBit 0 ∧ (s.debugDone g).loftPoison g (o.line * 64 + 32) = o.psn.testBit 1 := by
  obtain ⟨-, data⟩ := s.debugStore_get g o.line
  rw [State.debugDone_write h on hw]
  generalize s.debugStore g (o.line * 64) = u at *
  obtain ⟨low, high⟩ := u.loftPoison_line g o.line (o.psn.testBit 0) (o.psn.testBit 1)
  have bytes (a : Nat) : ((u.setLoftPoison g (o.line * 64) (o.psn.testBit 0)).setLoftPoison g (o.line * 64 + 32) (o.psn.testBit 1)).loftByte g a =
      u.loftByte g a := by rw [State.loftByte_setLoftPoison, State.loftByte_setLoftPoison]
  generalize (u.setLoftPoison g (o.line * 64) (o.psn.testBit 0)).setLoftPoison g (o.line * 64 + 32) (o.psn.testBit 1) = v at *
  obtain ⟨done, err, dbg, -⟩ := v.debugFin_get g
  have same := v.sameLoft_debugFin g 0
  refine ⟨done, err, dbg, fun j hj => ?_, (same.loftPoison _).trans low, (same.loftPoison _).trans high⟩
  rw [State.loftNum_congr fun a => (same.loftByte a).trans (bytes a)]
  exact data j hj

/-! ## The counter clear (R123, R208, R274) -/

theorem State.rd_cntClear (s : State) (g a : Nat) :
    (s.cntClear g).rd a = if (R.AW_CNT0 g ≤ a ∧ a < R.AW_CNT0 g + 32) ∨ (R.TIL_SYNCNT0 g ≤ a ∧ a < R.TIL_SYNCNT0 g + 16) ∨
      (R.TIL_ECNTA g 0 ≤ a ∧ a < R.TIL_ECNTA g 0 + 0xF8) then resetOf a else s.rd a := by
  unfold State.cntClear
  rw [State.rd_congr (State.modTile_regs ..), State.rd_clearRegs, State.rd_clearRegs, State.rd_clearRegs]
  by_cases h1 : R.AW_CNT0 g ≤ a ∧ a < R.AW_CNT0 g + 32
  · simp only [h1, true_or, and_self, if_true]
  · by_cases h2 : R.TIL_SYNCNT0 g ≤ a ∧ a < R.TIL_SYNCNT0 g + 16
    · simp only [h1, h2, true_or, false_or, and_self, if_true, if_false]
    · simp only [h1, h2, false_or, if_false]

/-- Settles O21: each write by the registers it leaves; a line operation moves the line's 64 bytes, which are held one after another. -/
theorem tileControlCommandsComplete : Obligations.TileControlCommandsComplete := by
  refine ⟨fun s g run hl => ?_, fun s g v hl hq => ?_, fun s g hl => ?_, fun s g hl => ?_, fun s g wr psn hl hd => ?_,
    fun s g o hl ho hon => ?_, fun s g hl => ?_⟩
  · refine ⟨_, (exec_tilCtlRun ..).trans (onLive_live hl _), s.run_setRun g run.isLt, s.ilv_setRun g _, fun e => ?_, fun a => s.rd_setRun _,
      (s.setRun_frame g _).1, (s.setRun_frame g _).2.2⟩
    rw [State.eng_setRun, EngSt.withdrawn]
    cases run.toNat.testBit (engIdx e)
    · simp only [true_and, and_self, if_true]
    · simp only [Bool.true_eq_false, and_false, false_and, if_false]
  · rw [exec_tilCtlIlv, onLive_live hl, State.ilvWrite_quiet hq]
    congr 2
    split <;> omega
  · obtain ⟨run, ilv, fault, faddr⟩ := s.tileReset_get g
    obtain ⟨loadQ, recvQ, walk⟩ := s.tile_tileReset g
    obtain ⟨-, loft, psn⟩ := s.tileReset_frame g
    refine ⟨_, (exec_srst ..).trans (onLive_live hl _), run, ilv, fault, faddr, fun e => ?_, loadQ, recvQ, walk, loft, psn,
      fun a h1 h2 h3 h4 h5 => s.keepsRegs_tileReset g a ?_⟩
    · rw [State.eng_tileReset, if_pos rfl]
      rfl
    · rintro (e | e | e | e | ⟨j, hj, e⟩)
      · exact h1 e
      · exact h2 e
      · exact h3 e
      · exact h4 e
      · exact e.elim (h5 j hj).1 (h5 j hj).2
  · obtain ⟨loft, -, tiles, -⟩ := s.faultZero_frame g
    obtain ⟨-, loft', -, tiles'⟩ := s.engsOnly_faultClr g
    refine ⟨_, (exec_tilFaultClr ..).trans (onLive_live hl _), ?_, ?_, fun e => ?_, fun a h1 h2 => ?_, loft'.trans loft, tiles'.trans tiles⟩
    · rw [State.rd_faultClr, if_pos (.inl rfl)]
    · rw [State.rd_faultClr, if_pos (.inr rfl)]
    · rw [State.eng_faultClr, if_pos rfl]
    · rw [State.rd_faultClr, if_neg (not_or.mpr ⟨h1, h2⟩)]
  · obtain ⟨done, write, poison⟩ := s.debugAsk_get g wr psn.isLt
    refine ⟨_, (exec_bnkDctlGo ..).trans (onLive_live hl _), ?_⟩
    rw [State.debugGo_done hd]
    dsimp only
    rw [State.tile_modTile_same, State.fget_modTile, State.fget_modTile, State.fget_modTile, State.modTile_loft, State.modTile_engs]
    refine ⟨done, write, poison, rfl, fun a ha => ?_, ?_, ?_⟩
    · rw [State.rd_congr (State.modTile_regs ..), State.rd_fset_ne _ rfl ha, State.debugAsk, State.rd_fset_ne _ rfl ha, State.rd_fset_ne _ rfl ha]
    · rw [State.fset_loft, State.debugAsk, State.fset_loft, State.fset_loft]
    · rw [State.fset_engs, State.debugAsk, State.fset_engs, State.fset_engs]
  · refine ⟨_, (exec_debugLineDone ..).trans (onLive_live hl _), ?_⟩
    cases hw : o.wr with
    | false =>
      obtain ⟨done, err, dbg, same, data, psn⟩ := State.debugDone_read_get ho hon hw
      exact ⟨done, err, dbg, fun _ => ⟨same.loft, same.psn, data, psn⟩, nofun⟩
    | true =>
      obtain ⟨done, err, dbg, data, poison⟩ := State.debugDone_write_get ho hon hw
      exact ⟨done, err, dbg, nofun, fun _ => ⟨data, poison⟩⟩
  · refine ⟨_, (exec_tilCntctlClr ..).trans (onLive_live hl _), fun a ha => ?_, fun a h1 h2 h3 => ?_, ?_, ?_⟩
    · rw [State.rd_cntClear, if_pos (by tauto)]
    · rw [State.rd_cntClear, if_neg (by tauto)]
    · rw [State.cntClear, State.modTile_loft, State.clearRegs_loft, State.clearRegs_loft, State.clearRegs_loft]
    · rw [State.cntClear, State.modTile_engs, State.clearRegs_engs, State.clearRegs_engs, State.clearRegs_engs]

end Sys2Proof.Machine
end

section
/-! PROOF. Completion, the fetcher's packets, the arrival port and the tile cycle of an engine (R78, R91, R98, R126, R127). -/

namespace Sys2Proof.Machine

theorem exec_instructionComplete (g : Tile) (e : Eng) (i : Nat) (s : State) :
    exec (.instructionComplete g e i) s = onLive s fun s => s.completeRec g e i := rfl
theorem exec_fetchPacketReturn (g : Tile) (e : Eng) (failed : Bool) (s : State) :
    exec (.fetchPacketReturn g e failed) s = onLive s fun s => s.fetchReturn g e failed := rfl
theorem exec_fetchPacketTimeout (g : Tile) (e : Eng) (s : State) :
    exec (.fetchPacketTimeout g e) s = onLive s fun s => s.fetchReturn g e true := rfl
theorem exec_arrivalUnit (g : Tile) (reqs : List BankReq) (s : State) :
    exec (.arrivalUnit g reqs) s = onLive s fun s =>
      if (s.contests g reqs).2.contains 0 then (s.contests g reqs).1 else (s.contests g reqs).1.arrive g := rfl
theorem exec_instructionIssue (g : Tile) (e : Eng) (reqs : List BankReq) (s : State) :
    exec (.instructionIssue g e reqs) s = onLive s fun s => s.issue g e reqs := rfl

/-! ## Completion (R78) -/

/-- An instruction at its completion point whose units the networks have read completes; an END also ends the stream. -/
theorem State.completeRec_ready {s : State} {g : Nat} {e : Eng} {i : Nat} {r : InFlight} (found : (s.eng g e).rec_ i = some r)
    (ready : (s.eng g e).ready r = true) (read : s.laneRead g e r = true) :
    s.completeRec g e i = if r.op = 0x03
      then ((s.setEng g e ((s.eng g e).dropRec i)).complete g e r.sig r.iaddr r.status).modEng g e fun x => { x with ended := true }
      else (s.setEng g e ((s.eng g e).dropRec i)).complete g e r.sig r.iaddr r.status := by
  unfold State.completeRec
  simp only [found]
  rw [if_neg (by simp [ready, read])]

/-! ## A packet of the stream (R126, R127) -/

section Fetch
variable {s : State} {g : Nat} {e : Eng} {w : Nat × Bool}

theorem State.fetchReturn_failed (want : s.fetchWant g e = some w) : s.fetchReturn g e true = s.landPacket g e w false [] := by
  rw [State.fetchReturn, want]
  exact if_pos rfl

/-- Both ends of the packet's bytes stand in resident pages of this package. -/
theorem State.fetchReturn_resident (want : s.fetchWant g e = some w) {u v : UnitLoc}
    (first : s.locate (s.tileP g) (s.pbase g % 2 ^ 48 + w.1) = some u)
    (last : s.locate (s.tileP g) (s.pbase g % 2 ^ 48 + w.1 + min 64 (s.soff g e + s.slen g e - w.1) - 1) = some v)
    (hu : u.away = false) (hv : v.away = false) :
    s.fetchReturn g e false =
      (s.readTouch (s.tileP g) (s.pbase g % 2 ^ 48 + w.1) (min 64 (s.soff g e + s.slen g e - w.1))).landPacket g e w
        (!(s.localBlock (s.tileP g) (s.pbase g % 2 ^ 48 + w.1) (min 64 (s.soff g e + s.slen g e - w.1))).2)
        (s.localBlock (s.tileP g) (s.pbase g % 2 ^ 48 + w.1) (min 64 (s.soff g e + s.slen g e - w.1))).1 := by
  have resident : [u, v].find? UnitLoc.away = none := by simp [hu, hv]
  rw [State.fetchReturn, want]
  dsimp only
  rw [if_neg (by decide), first, last]
  dsimp only
  rw [resident]

end Fetch

/-! ## A unit at the arrival port (R91, R191) -/

section Arrive
variable {s : State} {g : Nat} {u : BUnit} {r : RecvRec} {rest : List RecvRec} {v : State} {q : Option RecvRec}

/-- No march test runs, and the unit stands at the port. -/
def State.AtPort (s : State) (g : Nat) (u : BUnit) : Prop := (s.tile g).march.running = false ∧ (s.tile g).presented = some u

theorem State.AtPort.presented (h : s.AtPort g u) : (if (s.tile g).march.running then none else (s.tile g).presented) = some u := by
  rw [h.1, h.2]
  exact if_neg (by decide)

/-- A unit of a load is taken by the oldest armed load. -/
theorem State.arrive_load (h : s.AtPort g u) (cls : u.cls = .load) (queue : (s.tile g).loadQ = r :: rest) (taken : s.recvTake g r u = some (v, q)) :
    s.arrive g = (v.modTile g fun t => { t with loadQ := q.toList ++ rest }).modTile g fun t => { t with presented := none } := by
  unfold State.arrive
  dsimp only
  rw [h.presented]
  simp only [cls, queue, taken]

/-- A unit of a SEND is taken by the oldest armed receive. -/
theorem State.arrive_recv (h : s.AtPort g u) (cls : u.cls = .recv) (queue : (s.tile g).recvQ = r :: rest) (taken : s.recvTake g r u = some (v, q)) :
    s.arrive g = (v.modTile g fun t => { t with recvQ := q.toList ++ rest }).modTile g fun t => { t with presented := none } := by
  unfold State.arrive
  dsimp only
  rw [h.presented]
  simp only [cls, queue, taken]

/-- A unit of a placement goes where its placement says. -/
theorem State.arrive_place (h : s.AtPort g u) (cls : u.cls = .place) (taken : s.placeTake g u = some v) :
    s.arrive g = v.modTile g fun t => { t with presented := none } := by
  unfold State.arrive
  dsimp only
  rw [h.presented]
  simp only [cls, taken]

end Arrive

/-! ## A tile cycle of an engine (R77, R117) -/

section Cycle
variable {s : State} {g : Nat} {e : Eng}

/-- The state after the bank contests of a cycle, the cycle counted busy where an instruction is in flight. -/
def State.cycleStart (s : State) (g : Nat) (e : Eng) (reqs : List BankReq) : State :=
  if ((s.contests g reqs).1.eng g e).infl.isEmpty then (s.contests g reqs).1
  else (s.contests g reqs).1.tilCnt g (R.TIL_ECNTA g (engIdx e)) F.TIL_ECNTA_BUSY 1

/-- A running engine that no step of its queue holds passes to the head of its stream. -/
theorem State.issue_headCycle {reqs : List BankReq} (run : (s.cycleStart g e reqs).runBit g e = true)
    (sound : ((s.cycleStart g e reqs).eng g e).faulted = false) (free : (s.cycleStart g e reqs).stepHold g e = none)
    (ring : e = .aw → (s.cycleStart g e reqs).ringWait g = false) :
    s.issue g e reqs = ((s.cycleStart g e reqs).stallAs g e .active).headCycle g e
      ((s.contests g reqs).2.any fun p => decide (portEng p = some e)) := by
  have calm : ¬ (e = .aw ∧ (s.cycleStart g e reqs).ringWait g = true) := fun ⟨a, w⟩ => by simp [ring a] at w
  unfold State.issue
  extract_lets c s₀ s₁ k s₂ s₃
  have held : k = none := free
  have counted : s₂ = s.cycleStart g e reqs := if_neg calm
  have goes : ¬ (¬ s₁.runBit g e = true ∨ (s₁.eng g e).faulted = true) := not_or.mpr ⟨not_not.mpr run, Bool.eq_false_iff.mp sound⟩
  rw [if_neg goes, held]
  show s₃ = _
  rw [← counted]

/-- An engine at the head of its stream that stands at no yield point attempts its head, or waits for the fetcher. -/
theorem State.headCycle_runs (ends : (s.eng g e).over = false) (yield : (s.eng g e).holdY = none) :
    (∀ i, s.head g e = .instr i → s.headCycle g e false = s.attempt g e i) ∧ (s.head g e = .starve → s.headCycle g e false = s.hold g e .starve) := by
  unfold State.headCycle
  dsimp only
  rw [if_neg (by simp [ends]), if_neg (by simp [yield])]
  refine ⟨fun i h => ?_, fun h => ?_⟩
  · rw [h]
    exact if_neg (by decide)
  · rw [h]

end Cycle

/-- Settles O22: each event by the case of its definition that the conditions pick. -/
theorem engineEventsComplete : Obligations.EngineEventsComplete := by
  refine ⟨fun s g e i r hl found ready read => ?_, fun s g e w u v hl want first last hu hv => ?_, fun s g e w hl want => ⟨?_, ?_⟩,
    fun s g reqs c u r rest v q hl port hc march shown taken => ?_, fun s g reqs c u v hl port hc march shown cls taken => ?_,
    fun s g e reqs c i hl lost hc run sound free ring => ?_⟩
  · rw [exec_instructionComplete, onLive_live hl, State.completeRec_ready found ready read]
  · rw [exec_fetchPacketReturn, onLive_live hl, State.fetchReturn_resident want first last hu hv]
  · rw [exec_fetchPacketReturn, onLive_live hl, State.fetchReturn_failed want]
  · rw [exec_fetchPacketTimeout, onLive_live hl, State.fetchReturn_failed want]
  · have arrives : exec (.arrivalUnit g reqs) s = .next (c.arrive g) := by
      rw [exec_arrivalUnit, onLive_live hl, port, hc, if_neg (by decide)]
    exact ⟨fun cls queue => by rw [arrives, State.arrive_load ⟨march, shown⟩ cls queue taken],
      fun cls queue => by rw [arrives, State.arrive_recv ⟨march, shown⟩ cls queue taken]⟩
  · rw [exec_arrivalUnit, onLive_live hl, port, hc, if_neg (by decide), State.arrive_place ⟨march, shown⟩ cls taken]
  · obtain rfl : c = s.cycleStart g e reqs := hc
    intro d ends yield
    have cycle : exec (.instructionIssue g e reqs) s = .next (d.headCycle g e false) := by
      rw [exec_instructionIssue, onLive_live hl, State.issue_headCycle run sound free ring, lost]
    obtain ⟨instr, starve⟩ := State.headCycle_runs ends yield
    refine ⟨fun h => by rw [cycle, instr i h], fun h => ?_⟩
    rw [cycle, starve h]
    rfl

end Sys2Proof.Machine
end

section
/-! PROOF. An operation past its issue checks goes in flight, and its engine moves on (R77, R78, R81). -/

namespace Sys2Proof.Machine

/-! ## Steps that leave the Loft, the networks and memory -/

/-- The Loft, its poison bits, the networks and memory are as they were. -/
structure State.SameStores (s t : State) : Prop where
  loft : t.loft = s.loft
  psn : t.loftPsn = s.loftPsn
  net : t.net = s.net
  mem : t.mem = s.mem

namespace State.SameStores
variable {s t u : State}

theorem refl (s : State) : s.SameStores s := ⟨rfl, rfl, rfl, rfl⟩

theorem trans (h : s.SameStores t) (k : t.SameStores u) : s.SameStores u :=
  ⟨k.loft.trans h.loft, k.psn.trans h.psn, k.net.trans h.net, k.mem.trans h.mem⟩

theorem of_setEng (s : State) (g : Nat) (e : Eng) (x : EngSt) : s.SameStores (s.setEng g e x) :=
  ⟨State.setEng_loft .., State.setEng_loftPsn .., State.setEng_net .., State.setEng_mem ..⟩

theorem of_modEng (s : State) (g : Nat) (e : Eng) (f : EngSt → EngSt) : s.SameStores (s.modEng g e f) := of_setEng s g e _

theorem of_modTile (s : State) (g : Nat) (f : TileSt → TileSt) : s.SameStores (s.modTile g f) :=
  ⟨State.modTile_loft .., State.modTile_loftPsn .., State.modTile_net .., State.modTile_mem ..⟩

theorem of_fset (s : State) (a : Nat) (f : Fld) (n : Nat) : s.SameStores (s.fset a f n) :=
  ⟨State.fset_loft .., State.fset_loftPsn .., State.fset_net .., State.fset_mem ..⟩

end State.SameStores

/-! ## The engine moves on (R77, R128) -/

/-- In `t` the engine has `l` in flight, its wait stands at `w` and it stands at offset `o`; the stores are those of `s`. -/
structure State.EngAt (s t : State) (g : Nat) (e : Eng) (l : List InFlight) (w : WaitSt) (o : Nat) : Prop where
  infl : (t.eng g e).infl = l
  wait : (t.eng g e).wait = w
  spc : t.spc g e = o
  stores : s.SameStores t

section Move
variable {s t : State} {g : Nat} {e : Eng} {l : List InFlight} {w : WaitSt} {o : Nat}

theorem State.spc_congr (h : t.regs = s.regs) (g : Nat) (e : Eng) : t.spc g e = s.spc g e := State.fget_congr h _ _

theorem State.EngAt.modEng (h : s.EngAt t g e l w o) {f : EngSt → EngSt} (hf : ∀ x, (f x).infl = x.infl ∧ (f x).wait = x.wait) :
    s.EngAt (t.modEng g e f) g e l w o := by
  refine ⟨?_, ?_, (State.spc_congr (State.modEng_regs ..) g e).trans h.spc, h.stores.trans (.of_modEng t g e f)⟩
  · rw [State.eng_modEng_same, (hf _).1, h.infl]
  · rw [State.eng_modEng_same, (hf _).2, h.wait]

theorem State.spc_setSpc (s : State) (g : Nat) (e : Eng) (v : Nat) : (s.setSpc g e v).spc g e = v % 2 ^ 40 :=
  s.fget_fset_lt _ F.TIL_SPC_OFF (by decide) (Nat.mod_lt v (by decide))

/-- The position is written past the loops that end there; the buffers follow, and what is in flight stays. -/
theorem State.engAt_moveTo (s : State) (g : Nat) (e : Eng) (dest : Nat) (jump : Bool) :
    s.EngAt (s.moveTo g e dest jump) g e (s.eng g e).infl (s.eng g e).wait ((nextPos (s.eng g e).loops dest).2 % 2 ^ 40) := by
  unfold State.moveTo
  extract_lets x r old s₁ buf s₂
  have moved : s.EngAt s₂ g e x.infl x.wait (r.2 % 2 ^ 40) := by
    refine ⟨?_, ?_, ?_, (SameStores.of_fset s _ _ _).trans (.of_setEng s₁ g e _)⟩
    · rw [State.eng_setEng_same]
    · rw [State.eng_setEng_same]
    · exact (State.spc_congr (State.setEng_regs ..) g e).trans (s.spc_setSpc g e r.2)
  split
  · split
    · exact moved.modEng fun _ => ⟨rfl, rfl⟩
    · exact moved.modEng fun _ => ⟨rfl, rfl⟩
  · exact moved

/-- An engine that passes on has its wait done with and is active. -/
theorem State.engAt_advance (s : State) (g : Nat) (e : Eng) (dest : Nat) (jump : Bool) :
    s.EngAt (s.advance g e dest jump) g e (s.eng g e).infl .fresh ((nextPos (s.eng g e).loops dest).2 % 2 ^ 40) ∧
      ((s.advance g e dest jump).eng g e).stall = .active := by
  have cleared : (s.clearWait g e).eng g e = { s.eng g e with wait := .fresh, wf := none, timer := none, stall := .active, rsv := none } :=
    s.eng_modEng_same g e _
  have moved := (s.clearWait g e).engAt_moveTo g e dest jump
  rw [cleared] at moved
  have passed : s.EngAt ((s.clearWait g e).moveTo g e dest jump) g e (s.eng g e).infl .fresh ((nextPos (s.eng g e).loops dest).2 % 2 ^ 40) :=
    ⟨moved.infl, moved.wait, moved.spc, (SameStores.of_modEng s g e _).trans moved.stores⟩
  refine ⟨passed.modEng (f := fun x => { x with stall := .active }) fun _ => ⟨rfl, rfl⟩, ?_⟩
  rw [State.advance, State.stallAs, State.eng_modEng_same]

end Move

/-! ## In flight (R77, R156) -/

section Launch
variable (s : State) (g : Nat) (e : Eng) (op : TOp) (ds : List Desc) (h : Sig) (ia st need units : Nat)

/-- An operation's record with the descriptors and loops it keeps. -/
def flightRec (uid : Nat) (loops : List LoopFrame) : InFlight :=
  ⟨uid, opCode op, ia, h, st, (creditPool op).map (·.1), need, units, if holdsTemplates op then ds.map (·.w) else [],
    if holdsTemplates op then loops else []⟩

/-- The engine once an operation was launched and, where it reads its templates later, given them. -/
theorem State.eng_launch_keepArgs :
    ((s.launch g e (opCode op) h ia st ((creditPool op).map (·.1)) need units).keepArgs g e op ds).eng g e =
      { s.eng g e with infl := (s.eng g e).infl ++ [flightRec op ds h ia st need units (s.eng g e).nextUid (s.eng g e).loops],
                       nextUid := (s.eng g e).nextUid + 1 } := by
  unfold State.keepArgs flightRec
  cases holdsTemplates op with
  | false =>
    rw [if_neg (by decide)]
    exact s.eng_modEng_same g e _
  | true =>
    rw [if_pos rfl, State.eng_modEng_same, State.launch, State.eng_modEng_same]
    simp

theorem State.sameStores_launch_keepArgs :
    s.SameStores ((s.launch g e (opCode op) h ia st ((creditPool op).map (·.1)) need units).keepArgs g e op ds) := by
  have launched : s.SameStores (s.launch g e (opCode op) h ia st ((creditPool op).map (·.1)) need units) := .of_modEng s g e _
  unfold State.keepArgs
  split
  · exact launched.trans (.of_modEng _ g e _)
  · exact launched

/-- A receive that is armed joins a queue of the tile. -/
theorem State.arm_frame (uid : Nat) (r : Option (Bool × RecvRec)) : (s.arm g uid r).engs = s.engs ∧ s.SameStores (s.arm g uid r) := by
  unfold State.arm
  split
  · exact ⟨rfl, .refl s⟩
  · exact ⟨State.modTile_engs .., .of_modTile s g _⟩

end Launch

/-! ## Issue (R77) -/

section Issue
variable {s : State} {g : Tile} {e : Eng} {h : Sig} {op : TOp}

/-- An engine that can issue an operation issues it. -/
theorem State.CanIssue.row (c : s.CanIssue g e h op) : s.row g e h op = s.issueOp g e h op := by
  obtain ⟨-, run, sound, going, free, legal, credit⟩ := c
  unfold State.row
  dsimp only
  rw [if_neg (by simp [run, sound, going, free]), legal]
  exact if_pos credit

/-- The operations with descriptors, WALK aside. -/
def TOp.isData : TOp → Bool
  | .nop | .hint _ _ _ _ | .jmp _ | .loop _ _ _ | .brv _ _ | .yield _ | .fence | .endStream | .walk _ => false
  | _ => true

/-- The state of an operation that has executed, launched and passed on. -/
def State.inFlight (s : State) (g : Nat) (e : Eng) (h : Sig) (op : TOp) (ds : List Desc) : State :=
  let r := s.perform g (s.iaddr g e) e op ds
  (((r.x.s.launch g e (opCode op) h (s.iaddr g e) r.x.st ((creditPool op).map (·.1)) r.need (r.x.s.laneLen g e - s.laneLen g e)).keepArgs g e
    op ds).arm g (r.x.s.eng g e).nextUid r.recv).advance g e (s.spc g e + 8) false

theorem State.issueOp_data {ds : List Desc} (data : op.isData = true) (chk : s.opChk g e op = .ok ds)
    (go : (s.perform g (s.iaddr g e) e op ds).x.stop = .go) : s.issueOp g e h op = s.inFlight g e h op ds := by
  cases op with
  | nop | hint | jmp | loop | brv | yield | fence | endStream | walk => exact Bool.noConfusion data
  | _ =>
    unfold State.issueOp
    dsimp only
    rw [chk]
    dsimp only
    unfold State.execute
    dsimp only
    rw [go]
    rfl

/-- Such an operation goes in flight. -/
theorem flies_of_row {i : Instr} (row : ∀ s, exec i s = onLive s fun s => s.row g e h op) (data : op.isData = true) : Flies i g e h op := by
  intro s ds c chk go
  refine ⟨s.inFlight g e h op ds, (row s).trans ((onLive_live c.live _).trans ?_), ?_⟩
  · rw [c.row, State.issueOp_data data chk go]
  · unfold State.inFlight
    generalize s.perform g (s.iaddr g e) e op ds = r
    have stores := r.x.s.sameStores_launch_keepArgs g e op ds h (s.iaddr g e) r.x.st r.need (r.x.s.laneLen g e - s.laneLen g e)
    have eng := r.x.s.eng_launch_keepArgs g e op ds h (s.iaddr g e) r.x.st r.need (r.x.s.laneLen g e - s.laneLen g e)
    dsimp only
    generalize (r.x.s.launch g e (opCode op) h (s.iaddr g e) r.x.st ((creditPool op).map (·.1)) r.need
      (r.x.s.laneLen g e - s.laneLen g e)).keepArgs g e op ds = u at *
    obtain ⟨engs, armed⟩ := u.arm_frame g (r.x.s.eng g e).nextUid r.recv
    obtain ⟨⟨infl, wait, spc, moved⟩, stall⟩ := (u.arm g (r.x.s.eng g e).nextUid r.recv).engAt_advance g e (s.spc g e + 8) false
    rw [State.eng_congr engs, eng] at infl spc
    obtain ⟨loft, psn, net, mem⟩ := (stores.trans armed).trans moved
    exact ⟨infl, wait, stall, spc, loft, psn, net, mem⟩

end Issue

/-- Settles O25: what an operation with descriptors does past its issue checks does not depend on which it is. -/
theorem operationsGoInFlight : Obligations.OperationsGoInFlight := by
  refine ⟨fun g h da db => ?_, fun g h n => ?_, fun g h da db => ?_, fun g h da db => ?_, fun g h eng off => ?_,
    fun g h da db dc strip acc mq => ?_, fun g h da db dc => ?_, fun g h da db dc => ?_, fun g h da db dc relu => ?_,
    fun g h da db dc op => ?_, fun g h da dc f => ?_, fun g h da dc mx => ?_, fun g h da db dc => ?_, fun g h da db => ?_,
    fun g h da db => ?_, fun g h da db op => ?_, fun g h da seg empty => ?_, fun g h db seg => ?_, fun s g h da ds c chk go => ?_⟩
  case refine_19 =>
    show onLive s (fun s => s.row g .aw h (.walk da)) = _
    rw [onLive_live c.live, c.row]
    unfold State.issueOp
    dsimp only
    rw [State.opChk, chk]
    rfl
  all_goals exact flies_of_row (fun _ => rfl) rfl

end Sys2Proof.Machine
end

section
/-! PROOF. Commands over a set of tiles, and TILE_RUN, TILE_STATUS, TILE_STATS, TILE_RESET and TILE_CONFIG (R102, R104, R440). -/

namespace Sys2Proof.Machine

/-! ## One element's turn in a fold -/

/-- In a fold over different elements, what the others before `x` keep, `x` turns into what the others after it keep. -/
theorem State.each_visit {α : Type} {P Q : State → Prop} {f : State → α → State} {l : List α} (nd : l.Nodup) {x : α} (hx : x ∈ l)
    (before : ∀ s, ∀ y ∈ l, y ≠ x → P s → P (f s y)) (turn : ∀ s, P s → Q (f s x)) (after : ∀ s, ∀ y ∈ l, y ≠ x → Q s → Q (f s y))
    {s : State} (h : P s) : Q (s.each l f) := by
  obtain ⟨pre, post, rfl⟩ := List.append_of_mem hx
  have others : ∀ y ∈ pre ++ post, y ≠ x := fun y hy e => (List.nodup_middle.mp nd).notMem (e ▸ hy)
  have keep {R : State → Prop} {m : List α} (hR : ∀ s, ∀ y ∈ m, R s → R (f s y)) (s : State) (w : R s) : R (m.foldl f s) :=
    List.foldlRecOn m f w fun s k y hy => hR s y hy k
  unfold State.each
  rw [List.foldl_append, List.foldl_cons]
  refine keep (fun s y hy => after s y (by simp [hy]) (others y (by simp [hy]))) _ (turn _ (keep (fun s y hy => ?_) s h))
  exact before s y (by simp [hy]) (others y (by simp [hy]))

/-- What every step of a fold keeps, the fold keeps. -/
theorem State.each_keeps_mem {α : Type} (P : State → Prop) {f : State → α → State} {l : List α} (h : ∀ s, ∀ x ∈ l, P s → P (f s x)) {s : State}
    (w : P s) : P (s.each l f) :=
  List.foldlRecOn l f w fun s k x hx => h s x hx k

/-! ## The tiles of a command -/

theorem tileRegs_apart {g h o : Nat} (hg : g < 1536) (hh : h < 1536) (ne : g ≠ h) (ho : o < 0x10000) : ¬ TileRegs h (Blk.til g + o) := by
  rintro (⟨lo, hi⟩ | e)
  · rw [til_eq hg, til_eq hh] at *
    omega
  · have b := clkIsl_range (i := h) (by omega)
    rw [← e, til_eq hg] at b
    omega

theorem State.tilesIn_lt {s : State} {fn : Fun} {p : Part} {ts : TileSet} (h : s.TilesOk fn p ts) {g : Nat} (hg : g ∈ s.tilesIn p ts) : g < 1536 := by
  obtain ⟨-, good, -⟩ := h
  cases ts with
  | all => exact State.tilesOf_lt (s := s) (p := p) hg
  | clusters m => exact List.mem_range.mp (List.mem_filter.mp hg).1
  | one k =>
    obtain rfl : g = k := List.mem_singleton.mp hg
    simpa [tileSetBad] using good

theorem State.tilesIn_nodup (s : State) (p : Nat) (ts : TileSet) : (s.tilesIn p ts).Nodup := by
  cases ts with
  | all | clusters => exact List.nodup_range.filter _
  | one => exact List.nodup_singleton _

theorem firstBad_tileChecks {s : State} {fn : Fun} {p : Part} {ts : TileSet} (h : s.TilesOk fn p ts) : firstBad (s.tileChecks fn p 1 ts) = none :=
  (firstBad_none_iff _).mpr (tileChecks_none 1 h)

/-! ## TILE_RUN -/

theorem exec_tileRun (fn : Fun) (p : Part) (ts : TileSet) (engs : BitVec 6) (run : Bool) (s : State) :
    exec (.tileRun fn p ts engs run) s = mbRow s fn 0x0300 (cmdTileRun fn p ts engs.toNat run) := rfl

/-- RUN of different tiles, each written with what `u` makes of it. -/
def State.eachRun (s : State) (l : List Nat) (u : Nat → Nat) : State := s.each l fun s g => s.setRun g (u (s.fget (R.TIL_CTL g) F.TIL_CTL_RUN))

theorem State.eachRun_get (s : State) {l : List Nat} (nd : l.Nodup) (lt : ∀ g ∈ l, g < 1536) {u : Nat → Nat} (hu : ∀ n < 64, u n < 64) :
    (∀ g ∈ l, (s.eachRun l u).fget (R.TIL_CTL g) F.TIL_CTL_RUN = u (s.fget (R.TIL_CTL g) F.TIL_CTL_RUN)) ∧
      (s.eachRun l u).loft = s.loft ∧ s.KeepsRegs (s.eachRun l u) fun a => ∃ g ∈ l, a = R.TIL_CTL g := by
  refine ⟨fun g hg => ?_, ?_, ?_⟩
  · have others (t : State) (y : Nat) (hy : y ∈ l) (ne : y ≠ g) (n : Nat) :
        (t.setRun y n).fget (R.TIL_CTL g) F.TIL_CTL_RUN = t.fget (R.TIL_CTL g) F.TIL_CTL_RUN :=
      State.fget_of_rd rfl (t.rd_setRun n fun e => tileRegs_apart (lt g hg) (lt y hy) ne.symm (o := 0) (by decide)
        (by rw [← R.TIL_CTL, e]; exact tileRegs_at (by decide)))
    refine State.each_visit (P := fun t => t.fget (R.TIL_CTL g) F.TIL_CTL_RUN = s.fget (R.TIL_CTL g) F.TIL_CTL_RUN)
      (Q := fun t => t.fget (R.TIL_CTL g) F.TIL_CTL_RUN = u (s.fget (R.TIL_CTL g) F.TIL_CTL_RUN)) nd hg ?_ ?_ ?_ rfl
    · exact fun t y hy ne h => (others t y hy ne _).trans h
    · intro t h
      rw [h]
      exact t.run_setRun g (hu _ (fldGet_lt F.TIL_CTL_RUN _))
    · exact fun t y hy ne h => (others t y hy ne _).trans h
  · exact State.each_keeps (fun t => t.loft = s.loft) _ (fun t g ht => (t.setRun_frame g _).1.trans ht) l s rfl
  · exact State.keepsRegs_each l (fun t g hg a ha => t.rd_setRun _ fun e => ha ⟨g, hg, e⟩) s

theorem tileRun_starts (s : State) (fn : Fun) (p : Part) (ts : TileSet) (engs : BitVec 6) (hm : s.Mail) (ok : s.TilesOk fn p ts) :
    Answers (.tileRun fn p ts engs true) fn 0x0300 s fun t out =>
      out = lay [(4, 0)] ∧
      (∀ g ∈ s.tilesIn p ts, t.fget (R.TIL_CTL g) F.TIL_CTL_RUN = s.fget (R.TIL_CTL g) F.TIL_CTL_RUN ||| engs.toNat) ∧
      t.loft = s.loft ∧ s.KeepsRegs t fun a => ∃ g ∈ s.tilesIn p ts, a = R.TIL_CTL g :=
  answers_of_row (exec_tileRun fn p ts engs true) hm (State.cmd_ok (firstBad_tileChecks ok))
    ⟨rfl, s.eachRun_get (s.tilesIn_nodup p ts) (fun _ => State.tilesIn_lt ok) (u := fun n => n ||| engs.toNat)
      fun _ h => Nat.or_lt_two_pow (n := 6) h engs.isLt⟩

theorem tileRun_stops (s : State) (fn : Fun) (p : Part) (ts : TileSet) (engs : BitVec 6) (hm : s.Mail) (ok : s.TilesOk fn p ts) :
    Answers (.tileRun fn p ts engs false) fn 0x0300 s fun t out =>
      out = lay (layList (((s.tilesIn p ts).filter fun g => !t.quiet g).map fun g => (2, g))) ∧
      (∀ g ∈ s.tilesIn p ts, t.fget (R.TIL_CTL g) F.TIL_CTL_RUN = s.fget (R.TIL_CTL g) F.TIL_CTL_RUN &&& (63 - engs.toNat)) ∧
      t.loft = s.loft ∧ s.KeepsRegs t fun a => ∃ g ∈ s.tilesIn p ts, a = R.TIL_CTL g :=
  answers_of_row (exec_tileRun fn p ts engs false) hm (State.cmd_ok (firstBad_tileChecks ok))
    ⟨rfl, s.eachRun_get (s.tilesIn_nodup p ts) (fun _ => State.tilesIn_lt ok) (u := fun n => n &&& (63 - engs.toNat))
      fun _ h => Nat.lt_of_le_of_lt Nat.and_le_left h⟩

/-! ## TILE_STATUS -/

/-- The tiles that TILE_STATUS lists: an engine is not idle, or a fault is recorded. -/
def State.statusTiles (s : State) (p : Nat) : List Nat :=
  (s.tilesOf p).filter fun g => (engsAll.any fun e => decide (s.engState g e ≠ 0)) || s.flag (R.TIL_FAULT g) F.TIL_FAULT_VALID

/-- The answer of TILE_STATUS for a list of tiles: up to 256 of them, and the number left out. -/
def State.statusBytes (s : State) (l : List Nat) : List Byte :=
  lay ((4, min 256 l.length) :: ((l.take 256).flatMap fun g =>
    [(2, g), (4, s.tilStat g), (4, (s.rd (R.TIL_FAULT g)).toNat), (8, (s.rd (R.TIL_FADDR g)).toNat)]) ++ [(4, l.length - 256)])

theorem cmdTileStatus_ok {s : State} {fn : Fun} {p : Part} (own : OwnFn fn p) :
    cmdTileStatus fn p s = (s, .ok (s.statusBytes (s.statusTiles p))) := by
  unfold cmdTileStatus State.statusBytes State.statusTiles capped
  rw [State.cmd_ok (firstBad_ownPart_ok own)]
  dsimp only
  rw [List.length_take]

theorem tileStatus_lists (s : State) (fn : Fun) (p : Part) (hm : s.Mail) (own : OwnFn fn p) :
    Answers (.tileStatus fn p) fn 0x0301 s fun t out =>
      t = s ∧
      let l := (s.tilesOf p).filter fun g =>
        (engsAll.any fun e => decide (s.engState g e ≠ 0)) || s.flag (R.TIL_FAULT g) F.TIL_FAULT_VALID
      out = lay ((4, min 256 l.length) :: ((l.take 256).flatMap fun g =>
        [(2, g), (4, s.tilStat g), (4, (s.rd (R.TIL_FAULT g)).toNat), (8, (s.rd (R.TIL_FADDR g)).toNat)]) ++ [(4, l.length - 256)]) := by
  have row : ∀ s, exec (.tileStatus fn p) s = mbRow s fn 0x0301 (cmdTileStatus fn p) := fun _ => rfl
  refine answers_of_row row hm (cmdTileStatus_ok own) ⟨rfl, ?_⟩
  unfold State.statusBytes State.statusTiles
  exact rfl

/-! ## TILE_STATS -/

/-- The tile's engine counters cleared, with its count of passes. -/
def State.statClear (s : State) (g : Nat) : State := (s.clearRegs (R.TIL_ECNTA g 0) 0xF8).modTile g fun t => { t with macs := 0 }

theorem State.rd_statClear (s : State) (g a : Nat) :
    (s.statClear g).rd a = if R.TIL_ECNTA g 0 ≤ a ∧ a < R.TIL_ECNTA g 0 + 0xF8 then resetOf a else s.rd a :=
  (State.rd_congr (State.modTile_regs ..) a).trans (s.rd_clearRegs _ _ a)

theorem tileStats_answers (s : State) (fn : Fun) (p : Part) (clr : Bool) (hm : s.Mail) (own : OwnFn fn p) :
    Answers (.tileStats fn p clr) fn 0x0305 s fun t out =>
      out = lay ((4, 6) :: s.tileSums (s.tilesOf p) tileStatFields) ∧
      (clr = false → t = s) ∧
      (clr = true → ∀ g ∈ s.tilesOf p, ∀ a, R.TIL_ECNTA g 0 ≤ a → a < R.TIL_ECNTA g 0 + 0xF8 → t.rd a = resetOf a) ∧
      s.KeepsRegs t fun a => ∃ g ∈ s.tilesOf p, R.TIL_ECNTA g 0 ≤ a ∧ a < R.TIL_ECNTA g 0 + 0xF8 := by
  have row : ∀ s, exec (.tileStats fn p clr) s = mbRow s fn 0x0305 (cmdTileStats fn p clr) := fun _ => rfl
  refine answers_of_row row hm (State.cmd_ok (firstBad_ownPart_ok own)) ⟨rfl, ?_⟩
  cases clr with
  | false => exact ⟨fun _ => rfl, nofun, .refl s⟩
  | true =>
    refine ⟨nofun, fun _ g hg a lo hi => ?_, State.keepsRegs_each _ (fun t g hg a ha => ?_) s⟩
    · refine State.each_visit (P := fun _ => True) (Q := fun t => t.rd a = resetOf a) (List.nodup_range.filter _) hg (fun _ _ _ _ _ => trivial)
        (fun t _ => ?_) (fun t y _ _ h => ?_) trivial
      · exact (t.rd_statClear g a).trans (if_pos ⟨lo, hi⟩)
      · refine (t.rd_statClear y a).trans ?_
        rw [h, ite_self]
    · exact (t.rd_statClear g a).trans (if_neg fun h => ha ⟨g, hg, h⟩)

/-! ## TILE_RESET -/

/-- The tile is stopped without a recorded fault, and its engines are idle but for their numbering, which is that of `s`. -/
structure State.TileFresh (s t : State) (g : Nat) : Prop where
  run : t.fget (R.TIL_CTL g) F.TIL_CTL_RUN = 0
  fault : t.rd (R.TIL_FAULT g) = 0
  faddr : t.rd (R.TIL_FADDR g) = 0
  engs : ∀ e, t.eng g e = (s.eng g e).resetOf

theorem EngSt.nextUid_withdrawn (x : EngSt) : x.withdrawn.nextUid = x.nextUid := by
  unfold EngSt.withdrawn
  split <;> rfl

theorem State.nextUid_setRun (s : State) (h run g : Nat) (e : Eng) : ((s.setRun h run).eng g e).nextUid = (s.eng g e).nextUid := by
  rw [State.eng_setRun]
  split
  · exact EngSt.nextUid_withdrawn _
  · rfl

/-- A reset of a tile leaves the engines of every other tile, and idles its own. -/
theorem State.eng_resetTile (s : State) (h g : Nat) (e : Eng) : (s.resetTile h).eng g e = if g = h then (s.eng h e).resetOf else s.eng g e := by
  unfold State.resetTile
  rw [State.eng_faultClr, State.eng_tileReset, State.eng_tileReset, if_pos rfl]
  by_cases hg : g = h
  · rw [if_pos hg, if_pos hg]
    unfold EngSt.resetOf
    rw [State.nextUid_setRun]
    rfl
  · rw [if_neg hg, if_neg hg, if_neg hg, State.eng_setRun, if_neg fun k => hg k.1]

theorem tileRegs_of_resetRegs {g a : Nat} (h : ResetRegs g a) : TileRegs g a := by
  rcases h with rfl | rfl | rfl | rfl | ⟨j, hj, rfl | rfl⟩
  · exact tileRegs_at (by decide)
  · exact tileRegs_at (by decide)
  · exact tileRegs_at (by decide)
  · exact tileRegs_at (by decide)
  · rw [R.TIL_LOOP, Nat.add_assoc]
    exact tileRegs_at (by omega)
  · rw [R.TIL_ISTAT, Nat.add_assoc]
    exact tileRegs_at (by omega)

theorem State.keepsRegs_resetTile (s : State) (g : Nat) : s.KeepsRegs (s.resetTile g) (TileRegs g) := by
  have run : s.KeepsRegs (s.setRun g 0) (TileRegs g) := fun a ha => s.rd_setRun 0 fun e => ha (tileRegs_of_resetRegs (.inl e))
  have clear (t : State) : t.KeepsRegs (t.faultClr g) (TileRegs g) := fun a ha => by
    rw [State.rd_faultClr, if_neg fun e => ha (tileRegs_of_resetRegs (.inr (e.imp_right .inl)))]
  exact (run.trans (((s.setRun g 0).keepsRegs_tileReset g).mono fun _ => tileRegs_of_resetRegs)).trans (clear _)

theorem State.loft_resetTile (s : State) (g : Nat) : (s.resetTile g).loft = s.loft ∧ (s.resetTile g).loftPsn = s.loftPsn := by
  obtain ⟨loft, psn, -⟩ := s.setRun_frame g 0
  obtain ⟨-, loft', psn'⟩ := (s.setRun g 0).tileReset_frame g
  obtain ⟨loft'', psn'', -⟩ := ((s.setRun g 0).tileReset g).faultZero_frame g
  obtain ⟨-, loft₃, psn₃, -⟩ := ((s.setRun g 0).tileReset g).engsOnly_faultClr g
  exact ⟨((loft₃.trans loft'').trans loft').trans loft, ((psn₃.trans psn'').trans psn').trans psn⟩

theorem State.tileFresh_resetTile {s t : State} {g : Nat} (h : ∀ e, (t.eng g e).nextUid = (s.eng g e).nextUid) : s.TileFresh (t.resetTile g) g := by
  obtain ⟨run, -, fault, faddr⟩ := (t.setRun g 0).tileReset_get g
  refine ⟨?_, ?_, ?_, fun e => ?_⟩
  · refine (State.fget_of_rd rfl ?_).trans run
    rw [State.resetTile, State.rd_faultClr, if_neg (by simp [R.TIL_CTL, R.TIL_FAULT, R.TIL_FADDR])]
  · rw [State.resetTile, State.rd_faultClr, if_pos (.inl rfl)]
  · rw [State.resetTile, State.rd_faultClr, if_pos (.inr rfl)]
  · rw [State.eng_resetTile, if_pos rfl, EngSt.resetOf, EngSt.resetOf, h]

theorem State.TileFresh.resetTile {s t : State} {g h : Nat} (k : s.TileFresh t g) (hg : g < 1536) (hh : h < 1536) (ne : g ≠ h) :
    s.TileFresh (t.resetTile h) g := by
  have keep {o : Nat} (ho : o < 0x10000) := t.keepsRegs_resetTile h _ (tileRegs_apart hg hh ne ho)
  obtain ⟨run, fault, faddr, engs⟩ := k
  exact ⟨(State.fget_of_rd rfl (keep (o := 0) (by decide))).trans run, (keep (o := 0x10) (by decide)).trans fault,
    (keep (o := 0x18) (by decide)).trans faddr, fun e => by rw [State.eng_resetTile, if_neg ne, engs]⟩

theorem tileReset_stops (s : State) (fn : Fun) (p : Part) (ts : TileSet) (hm : s.Mail) (ok : s.TilesOk fn p ts) :
    Answers (.tileReset fn p ts) fn 0x0306 s fun t _ =>
      t.loft = s.loft ∧ t.loftPsn = s.loftPsn ∧
      ∀ g ∈ s.tilesIn p ts, t.fget (R.TIL_CTL g) F.TIL_CTL_RUN = 0 ∧ t.rd (R.TIL_FAULT g) = 0 ∧ t.rd (R.TIL_FADDR g) = 0 ∧
        ∀ e : Eng, t.eng g e = { EngSt.idle with nextUid := (s.eng g e).nextUid } := by
  have row : ∀ s, exec (.tileReset fn p ts) s = mbRow s fn 0x0306 (cmdTileReset fn p ts) := fun _ => rfl
  have lofts := State.each_keeps (fun t => t.loft = s.loft ∧ t.loftPsn = s.loftPsn)
    (fun s g => s.setRun g (s.fget (R.TIL_CTL g) F.TIL_CTL_RUN &&& (63 - 63)))
    (fun t g h => ⟨(t.setRun_frame g _).1.trans h.1, (t.setRun_frame g _).2.1.trans h.2⟩) (s.tilesIn p ts) s ⟨rfl, rfl⟩
  have both := State.each_keeps (fun t => t.loft = s.loft ∧ t.loftPsn = s.loftPsn) State.resetTile
    (fun t g h => ⟨(t.loft_resetTile g).1.trans h.1, (t.loft_resetTile g).2.trans h.2⟩) (s.tilesIn p ts) _ lofts
  refine answers_of_row row hm (State.cmd_ok (firstBad_tileChecks ok)) ⟨both.1, both.2, fun g hg => ?_⟩
  have lt (y : Nat) (hy : y ∈ s.tilesIn p ts) : y < 1536 := State.tilesIn_lt ok hy
  have numbered := State.each_keeps (fun t => ∀ e, (t.eng g e).nextUid = (s.eng g e).nextUid)
    (fun s g => s.setRun g (s.fget (R.TIL_CTL g) F.TIL_CTL_RUN &&& (63 - 63)))
    (fun t y h e => (t.nextUid_setRun y _ g e).trans (h e)) (s.tilesIn p ts) s fun _ => rfl
  obtain ⟨run, fault, faddr, engs⟩ := State.each_visit (P := fun t => ∀ e, (t.eng g e).nextUid = (s.eng g e).nextUid) (Q := fun t => s.TileFresh t g)
    (f := State.resetTile) (s.tilesIn_nodup p ts) hg (fun t y _ ne h e => by rw [State.eng_resetTile, if_neg ne.symm, h])
    (fun t h => State.tileFresh_resetTile h) (fun t y hy ne h => h.resetTile (lt g hg) (lt y hy) ne.symm) numbered
  exact ⟨run, fault, faddr, engs⟩

/-! ## TILE_CONFIG -/

theorem State.quiet_congr {s t : State} (he : t.engs = s.engs) (ht : t.tiles = s.tiles) (g : Nat) : t.quiet g = s.quiet g := by
  unfold State.quiet
  simp only [State.eng_congr he, State.tile_congr ht]

/-- ILV written in tiles that are quiet: every tile stays quiet, so each write is taken. -/
theorem State.each_ilvWrite {ilv : Nat} (hi : ilv ≤ 5) (l : List Nat) (s : State) (quiet : ∀ g ∈ l, s.quiet g = true) :
    s.each l (fun s g => s.ilvWrite g ilv) = s.each l fun s g => s.fset (R.TIL_CTL g) F.TIL_CTL_ILV ilv := by
  unfold State.each
  induction l generalizing s with
  | nil => rw [List.foldl_nil, List.foldl_nil]
  | cons g r ih =>
    rw [List.foldl_cons, List.foldl_cons, State.ilvWrite_quiet (quiet g List.mem_cons_self), Nat.min_eq_right hi]
    refine ih _ fun h hh => ?_
    rw [State.quiet_congr (State.fset_engs ..) (State.fset_tiles ..)]
    exact quiet h (List.mem_cons_of_mem g hh)

/-- The tiles with their interleave set. -/
def State.eachIlv (s : State) (l : List Nat) (ilv : Nat) : State := s.each l fun s g => s.fset (R.TIL_CTL g) F.TIL_CTL_ILV ilv

theorem State.eachIlv_get (s : State) (l : List Nat) {ilv : Nat} (hi : ilv ≤ 5) :
    (∀ g ∈ l, (s.eachIlv l ilv).fget (R.TIL_CTL g) F.TIL_CTL_ILV = ilv ∧
      (s.eachIlv l ilv).fget (R.TIL_CTL g) F.TIL_CTL_RUN = s.fget (R.TIL_CTL g) F.TIL_CTL_RUN) ∧
      s.OnlyRegs (s.eachIlv l ilv) fun a => ∃ g ∈ l, a = R.TIL_CTL g := by
  refine ⟨fun g hg => ⟨?_, ?_⟩, State.onlyRegs_each _ _ _ (fun t g hg => (t.onlyRegs_fset_at (R.TIL_CTL g) rfl ilv).mono fun a e => ⟨g, hg, e⟩) s⟩
  · have width : F.TIL_CTL_ILV.hi + 1 - F.TIL_CTL_ILV.lo = 3 := by decide
    refine (State.fget_each_fset R.TIL_CTL F.TIL_CTL_ILV (by decide) ilv l s g hg).trans ?_
    rw [width]
    exact Nat.mod_eq_of_lt (by omega)
  · refine State.each_keeps (fun t => t.fget (R.TIL_CTL g) F.TIL_CTL_RUN = s.fget (R.TIL_CTL g) F.TIL_CTL_RUN) _ (fun t y h => ?_) l s rfl
    by_cases e : R.TIL_CTL g = R.TIL_CTL y
    · rw [e] at h ⊢
      rw [State.fget_fset_field _ _ F.TIL_CTL_ILV F.TIL_CTL_RUN (by decide) rfl (by decide), h]
    · rw [State.fget_fset_ne _ (f := F.TIL_CTL_ILV) (g := F.TIL_CTL_RUN) rfl rfl e, h]

theorem cmdTileConfig_ok {s : State} {fn : Fun} {p : Part} {ts : TileSet} {ilv : Nat} (ok : s.TilesOk fn p ts) (hi : ilv ≤ 5)
    (quiet : ∀ g ∈ s.tilesIn p ts, s.quiet g = true) :
    cmdTileConfig fn p ts ilv s = (s.eachIlv (s.tilesIn p ts) ilv).told ((s.tilesIn p ts).map R.TIL_CTL) := by
  unfold cmdTileConfig State.eachIlv
  rw [← State.each_ilvWrite hi _ s quiet]
  refine State.cmd_ok ((firstBad_none_iff _).mpr fun x hx => ?_)
  rcases List.mem_append.mp hx with hx | hx
  · exact tileChecks_none 1 ok x hx
  · simp only [List.mem_cons, List.not_mem_nil, or_false] at hx
    rcases hx with rfl | rfl
    · exact badAt_false (decide_eq_false (Nat.not_lt.mpr hi))
    · exact refuse_false (List.any_eq_false.mpr fun g hg => by simp [quiet g hg])

theorem tileConfig_sets (s : State) (fn : Fun) (p : Part) (ts : TileSet) (ilv : Nat) (hm : s.Mail) (ok : s.TilesOk fn p ts) (hi : ilv ≤ 5)
    (quiet : ∀ g ∈ s.tilesIn p ts, s.quiet g = true) :
    Answers (.tileConfig fn p ts ilv) fn 0x0307 s fun t out =>
      out = t.toldBytes ((s.tilesIn p ts).map R.TIL_CTL) ∧ (∀ g ∈ s.tilesIn p ts, t.fget (R.TIL_CTL g) F.TIL_CTL_ILV = ilv ∧
        t.fget (R.TIL_CTL g) F.TIL_CTL_RUN = s.fget (R.TIL_CTL g) F.TIL_CTL_RUN) ∧
      s.OnlyRegs t fun a => ∃ g ∈ s.tilesIn p ts, a = R.TIL_CTL g := by
  have row : ∀ s, exec (.tileConfig fn p ts ilv) s = mbRow s fn 0x0307 (cmdTileConfig fn p ts ilv) := fun _ => rfl
  exact answers_of_row row hm (cmdTileConfig_ok ok hi quiet) ⟨rfl, s.eachIlv_get _ hi⟩

end Sys2Proof.Machine
end

section
/-! PROOF. LOFT_POWER brings each masked bank to its state, where no target is held for a bank that stands still (R97, R102). -/

namespace Sys2Proof.Machine

/-! ## What the power of one bank leaves of another -/

/-- A bank's transition, its held target and its state are as they were. -/
structure State.SameBank (s t : State) (g b : Nat) : Prop where
  trans : (t.tile g).transOf b = (s.tile g).transOf b
  held : (t.tile g).heldOf b = (s.tile g).heldOf b
  cur : t.fget (R.BNK_STAT g) (F.BNK_STAT_CUR b) = s.fget (R.BNK_STAT g) (F.BNK_STAT_CUR b)

namespace State.SameBank
variable {s t u : State} {g b : Nat}

theorem refl (s : State) (g b : Nat) : s.SameBank s g b := ⟨rfl, rfl, rfl⟩

theorem compose (h : s.SameBank t g b) (k : t.SameBank u g b) : s.SameBank u g b :=
  ⟨k.trans.trans h.trans, k.held.trans h.held, k.cur.trans h.cur⟩

/-- A change of registers that leaves the bank's state. -/
theorem of_tiles (ht : t.tiles = s.tiles) (hr : t.fget (R.BNK_STAT g) (F.BNK_STAT_CUR b) = s.fget (R.BNK_STAT g) (F.BNK_STAT_CUR b)) :
    s.SameBank t g b := by
  refine ⟨?_, ?_, hr⟩ <;> rw [State.tile_congr ht]

/-- A change of a tile that leaves the bank's transition and held target. -/
theorem of_modTile (s : State) {h : Nat} {f : TileSt → TileSt} (ht : h = g → ∀ x, (f x).transOf b = x.transOf b ∧ (f x).heldOf b = x.heldOf b) :
    s.SameBank (s.modTile h f) g b := by
  have tile : ((s.modTile h f).tile g).transOf b = (s.tile g).transOf b ∧ ((s.modTile h f).tile g).heldOf b = (s.tile g).heldOf b := by
    rw [State.tile_modTile]
    split
    next e => exact e ▸ ht e.symm _
    next => exact ⟨rfl, rfl⟩
  exact ⟨tile.1, tile.2, State.fget_modTile ..⟩

end State.SameBank

/-- The bank's state stands apart from every other kind of register of any tile. -/
theorem bnkStat_ne {g h o : Nat} (hg : g < 1536) (hh : h < 1536) (ho : o < 0x10000) (ne : o ≠ 0x3008) : R.BNK_STAT g ≠ Blk.til h + o := by
  rw [R.BNK_STAT, til_eq hg, til_eq hh]
  omega

section Other
variable {g h b c : Nat} (hg : g < 1536) (hh : h < 1536) (other : h = g → c ≠ b)
include other

theorem TileSt.transOf_other (t : TileSt) (e : h = g) (tgt : Nat) : TileSt.transOf { t with trans := t.trans ++ [(c, tgt)] } b = t.transOf b := by
  simp [TileSt.transOf, List.find?_append, other e]

theorem find_filter_other (l : List (Nat × Nat)) (e : h = g) :
    (l.filter fun x => decide (x.1 ≠ c)).find? (fun x => decide (x.1 = b)) = l.find? fun x => decide (x.1 = b) := by
  have keeps (x : Nat × Nat) : decide (decide (x.1 ≠ c) = true ∧ decide (x.1 = b) = true) = decide (x.1 = b) := by
    by_cases k : x.1 = b
    · simp [k, (other e).symm]
    · simp [k]
  rw [List.find?_filter]
  exact congrArg (l.find? ·) (funext keeps)

theorem TileSt.heldOf_other (t : TileSt) (e : h = g) (tgt : Nat) : (t.hold c tgt).heldOf b = t.heldOf b := by
  unfold TileSt.heldOf TileSt.hold
  rw [List.find?_append, find_filter_other other _ e, List.find?_singleton, if_neg (by simp [other e]), Option.or_none]

theorem TileSt.settle_other (t : TileSt) (e : h = g) : (t.settle c).transOf b = t.transOf b ∧ (t.settle c).heldOf b = t.heldOf b := by
  unfold TileSt.heldOf TileSt.transOf TileSt.settle
  dsimp only
  rw [find_filter_other other _ e, find_filter_other other _ e]
  exact ⟨rfl, rfl⟩

include hg hh

theorem State.sameBank_bankGo (s : State) (tgt : Nat) : s.SameBank (s.bankGo h c tgt) g b := by
  rcases s.bankGo_cases h c tgt with ⟨_, e⟩ | ⟨_, _, e⟩ | ⟨_, _, e⟩ <;> rw [e]
  · exact .refl s g b
  · exact .of_tiles (State.fset_tiles ..) (s.fget_fset_ne rfl rfl (bnkStat_ne hg hh (o := 0x3010) (by decide) (by decide)) _)
  · exact .of_modTile s fun e x => ⟨TileSt.transOf_other other x e tgt, rfl⟩

theorem State.sameBank_bankTarget (s : State) (code : Nat) : s.SameBank (s.bankTarget h c code) g b := by
  have ask : s.SameBank (s.bankAsk h c code) g b :=
    .of_tiles (State.fset_tiles ..) (s.fget_fset_ne rfl rfl (bnkStat_ne hg hh (o := 0x3000) (by decide) (by decide)) _)
  by_cases hc : code = 2
  · rw [hc, State.bankTarget_reserved]
    exact .refl s g b
  · cases e : (s.tile h).transOf c with
    | some tgt =>
      rw [State.bankTarget_held hc e]
      exact ask.compose (.of_modTile _ fun e x => ⟨rfl, TileSt.heldOf_other other x e code⟩)
    | none =>
      rw [State.bankTarget_go hc e]
      exact ask.compose (State.sameBank_bankGo hg hh other _ code)

theorem State.sameBank_bankSettled (s : State) (hc : c < 32) (tgt : Nat) : s.SameBank (s.bankSettled h c tgt) g b := by
  obtain ⟨regs, tiles, -⟩ := s.bankTake_frame h c tgt
  refine .compose (.of_tiles tiles ((State.fget_congr regs _ _).trans ?_)) (.of_modTile _ fun e x => TileSt.settle_other other x e)
  by_cases e : R.BNK_STAT g = R.BNK_STAT h
  · have same : h = g := by
      simp only [R.BNK_STAT, til_eq hg, til_eq hh] at e
      omega
    have apart := other same
    rw [e]
    refine s.fget_fset_field _ (F.BNK_STAT_CUR c) (F.BNK_STAT_CUR b) (bnkCur_ok hc) rfl ?_ tgt
    simp only [F.BNK_STAT_CUR]
    omega
  · exact s.fget_fset_ne rfl rfl e tgt

theorem State.sameBank_bankOn (s : State) (hc : c < 32) : s.SameBank (s.bankOn h c) g b := by
  have ended : s.SameBank (s.bankEnd h c) g b := by
    cases e : (s.tile h).transOf c with
    | none =>
      rw [State.bankEnd_none e]
      exact .refl s g b
    | some tgt =>
      have settled := State.sameBank_bankSettled hg hh other s hc tgt
      rw [State.bankEnd_some e]
      cases (s.tile h).heldOf c with
      | none => exact settled
      | some x => exact settled.compose (State.sameBank_bankGo hg hh other _ x.2)
  have walk := (s.bankEnd h c).walkFrame_pump h
  have stat : ¬ WalkRegs h (R.BNK_STAT g) := by
    rintro (e | e | e | e | e | e)
    all_goals exact bnkStat_ne hg hh (by decide) (by decide) e
  refine ended.compose ⟨?_, ?_, walk.regs.fget stat⟩
  · rw [TileSt.transOf, TileSt.transOf, State.bankOn, (walk.banks g).1]
  · rw [TileSt.heldOf, TileSt.heldOf, State.bankOn, (walk.banks g).2]

theorem State.sameBank_bankTo (s : State) (hc : c < 32) (code : Nat) : s.SameBank (s.bankTo h c code) g b :=
  ((State.sameBank_bankTarget hg hh other s code).compose (State.sameBank_bankOn hg hh other _ hc)).compose
    (State.sameBank_bankOn hg hh other _ hc)

end Other

/-! ## A bank brought to a state -/

/-- The bank stands still in state `c`. -/
structure State.BankDone (s : State) (g b c : Nat) : Prop where
  trans : (s.tile g).transOf b = none
  held : (s.tile g).heldOf b = none
  cur : s.fget (R.BNK_STAT g) (F.BNK_STAT_CUR b) = c

/-- A target is held for the bank only in a transition, and RET is asked only of a bank that stands still and is not OFF. -/
structure State.BankReady (s : State) (g b c : Nat) : Prop where
  held : (s.tile g).transOf b = none → (s.tile g).heldOf b = none
  ret : c = 1 → (s.tile g).transOf b = none ∧ s.fget (R.BNK_STAT g) (F.BNK_STAT_CUR b) ≠ 0

/-- The bank goes to state `c`, with no target held. -/
def State.BankGoing (s : State) (g b c : Nat) : Prop := (s.tile g).transOf b = some c ∧ (s.tile g).heldOf b = none

section Bank
variable {s t : State} {g b c : Nat}

theorem State.BankDone.congr (h : s.BankDone g b c) (k : s.SameBank t g b) : t.BankDone g b c :=
  ⟨k.trans.trans h.trans, k.held.trans h.held, k.cur.trans h.cur⟩

theorem State.BankReady.congr (h : s.BankReady g b c) (k : s.SameBank t g b) : t.BankReady g b c :=
  ⟨by rw [k.trans, k.held]; exact h.held, by rw [k.trans, k.cur]; exact h.ret⟩

theorem State.sameBank_pump (s : State) (g b : Nat) : s.SameBank (s.pump g) g b := ⟨s.transOf_pump g b, s.heldOf_pump g b, s.bankCur_pump g b⟩

theorem State.BankDone.bankOn (h : s.BankDone g b c) : (s.bankOn g b).BankDone g b c := by
  rw [State.bankOn, State.bankEnd_none h.trans]
  exact h.congr (s.sameBank_pump g b)

/-- The end of a transition with no target held. -/
theorem State.BankGoing.bankOn (h : s.BankGoing g b c) (hb : b < 32) (hc : c < 4) : (s.bankOn g b).BankDone g b c := by
  obtain ⟨going, free⟩ := h
  obtain ⟨cur, held, -⟩ := State.bankEnd_get hb hc going
  exact State.BankDone.congr ⟨State.transOf_bankEnd_free going free, held, cur⟩ (State.sameBank_pump _ g b)

/-- A target that is not refused leads to its state, at once or by a transition. -/
theorem State.bankGo_leads (trans : (s.tile g).transOf b = none) (held : (s.tile g).heldOf b = none)
    (allowed : c = 1 → s.fget (R.BNK_STAT g) (F.BNK_STAT_CUR b) ≠ 0) : (s.bankGo g b c).BankGoing g b c ∨ (s.bankGo g b c).BankDone g b c := by
  rcases s.bankGo_cases g b c with ⟨cur, e⟩ | ⟨off, ret, -⟩ | ⟨_, _, e⟩
  · rw [e]
    exact .inr ⟨trans, held, cur⟩
  · exact absurd off (allowed ret)
  · rw [e, State.BankGoing, State.tile_modTile_same]
    exact .inl ⟨TileSt.transOf_append_new trans c, held⟩

/-- The end of a transition with a target held that is not RET. -/
theorem State.bankOn_held {tgt : Nat} {x : Nat × Nat} (trans : (s.tile g).transOf b = some tgt) (held : (s.tile g).heldOf b = some x)
    (ne : x.2 ≠ 1) : (s.bankOn g b).BankGoing g b x.2 ∨ (s.bankOn g b).BankDone g b x.2 := by
  have settled := s.bankSettled_tile g b tgt
  have leads := State.bankGo_leads (s := s.bankSettled g b tgt) (g := g) (b := b) (c := x.2) (by rw [settled, TileSt.transOf_settle])
    (by rw [settled, TileSt.heldOf_settle]) fun e => absurd e ne
  have ended : s.bankEnd g b = (s.bankSettled g b tgt).bankGo g b x.2 := by rw [State.bankEnd_some trans, held]
  rw [State.bankOn, ended]
  have same := State.sameBank_pump ((s.bankSettled g b tgt).bankGo g b x.2) g b
  exact leads.imp (fun h => ⟨same.trans.trans h.1, same.held.trans h.2⟩) fun h => h.congr same

theorem TileSt.heldOf_hold (t : TileSt) (b c : Nat) : (t.hold b c).heldOf b = some (b, c) := by
  have gone : (t.held.filter fun h => decide (h.1 ≠ b)).find? (fun h => decide (h.1 = b)) = none := by simp
  unfold TileSt.heldOf TileSt.hold
  rw [List.find?_append, gone]
  simp

/-- Two transition ends after the target was written, the bank stands in its state. -/
theorem State.BankReady.bankTo (h : s.BankReady g b c) (hb : b < 32) (hc : c < 4) (ne : c ≠ 2) : (s.bankTo g b c).BankDone g b c := by
  have finish {t : State} (k : t.BankGoing g b c ∨ t.BankDone g b c) : (t.bankOn g b).BankDone g b c :=
    k.elim (fun k => k.bankOn hb hc) fun k => k.bankOn
  unfold State.bankTo
  cases e : (s.tile g).transOf b with
  | some tgt =>
    rw [State.bankTarget_held ne e]
    refine finish (State.bankOn_held (x := (b, c)) (tgt := tgt) ?_ ?_ fun k => ?_)
    · rw [State.tile_modTile_same, State.bankAsk_tile]
      exact e
    · rw [State.tile_modTile_same, TileSt.heldOf_hold]
    · rw [(h.ret k).1] at e
      exact absurd e nofun
  | none =>
    rw [State.bankTarget_go ne e]
    refine State.BankDone.bankOn (finish (State.bankGo_leads ?_ ?_ fun k => ?_))
    · rw [State.bankAsk_tile]
      exact e
    · rw [State.bankAsk_tile]
      exact h.held e
    · rw [State.bankCur_bankAsk]
      exact (h.ret k).2

end Bank

/-! ## What else LOFT_POWER changes where no walk goes on -/

/-- Of the registers those in `A` differ at most; the engines and the walks are as they were. -/
structure State.PowerFrame (s t : State) (A : Nat → Prop) : Prop where
  engs : t.engs = s.engs
  regs : s.KeepsRegs t A
  walks : ∀ g, (t.tile g).walk = (s.tile g).walk

/-- The power registers of a tile. -/
def PowerRegs (g a : Nat) : Prop := a = R.BNK_PWR g ∨ a = R.BNK_STAT g ∨ a = R.BNK_BUSY g

namespace State.PowerFrame
variable {s t u : State} {A B : Nat → Prop}

theorem refl (s : State) (A : Nat → Prop) : s.PowerFrame s A := ⟨rfl, .refl s, fun _ => rfl⟩

theorem trans (h : s.PowerFrame t A) (k : t.PowerFrame u A) : s.PowerFrame u A :=
  ⟨k.engs.trans h.engs, h.regs.trans k.regs, fun g => (k.walks g).trans (h.walks g)⟩

theorem mono (h : s.PowerFrame t A) (m : ∀ a, A a → B a) : s.PowerFrame t B := ⟨h.engs, h.regs.mono m, h.walks⟩

theorem of_tiles (he : t.engs = s.engs) (hr : s.KeepsRegs t A) (ht : t.tiles = s.tiles) : s.PowerFrame t A :=
  ⟨he, hr, fun g => by rw [State.tile_congr ht]⟩

theorem of_modTile (s : State) (g : Nat) {f : TileSt → TileSt} (hf : ∀ x, (f x).walk = x.walk) : s.PowerFrame (s.modTile g f) A := by
  refine ⟨State.modTile_engs .., State.keepsRegs_of_regs (State.modTile_regs ..), fun h => ?_⟩
  rw [State.tile_modTile]
  split
  next e => rw [hf, e]
  next => rfl

theorem of_fset (s : State) {a : Nat} {f : Fld} (hf : f.half = 0) (ha : A a) (n : Nat) : s.PowerFrame (s.fset a f n) A :=
  .of_tiles (State.fset_engs ..) ((s.keepsRegs_fset_at hf n).mono fun _ e => e ▸ ha) (State.fset_tiles ..)

end State.PowerFrame

section Frame
variable (s : State) (g b : Nat)

theorem State.powerFrame_bankGo (tgt : Nat) : s.PowerFrame (s.bankGo g b tgt) (PowerRegs g) := by
  rcases s.bankGo_cases g b tgt with ⟨_, e⟩ | ⟨_, _, e⟩ | ⟨_, _, e⟩ <;> rw [e]
  · exact .refl s _
  · exact .of_fset s rfl (.inr (.inr rfl)) _
  · exact .of_modTile s g fun _ => rfl

theorem State.powerFrame_bankTarget (code : Nat) : s.PowerFrame (s.bankTarget g b code) (PowerRegs g) := by
  have ask : s.PowerFrame (s.bankAsk g b code) (PowerRegs g) := .of_fset s rfl (.inl rfl) code
  by_cases hc : code = 2
  · rw [hc, State.bankTarget_reserved]
    exact .refl s _
  · cases e : (s.tile g).transOf b with
    | some tgt =>
      rw [State.bankTarget_held hc e]
      exact ask.trans (.of_modTile _ g fun _ => rfl)
    | none =>
      rw [State.bankTarget_go hc e]
      exact ask.trans (State.powerFrame_bankGo _ g b code)

theorem State.powerFrame_bankSettled (tgt : Nat) : s.PowerFrame (s.bankSettled g b tgt) (PowerRegs g) := by
  obtain ⟨regs, tiles, engs⟩ := s.bankTake_frame g b tgt
  have stat : s.KeepsRegs (s.fset (R.BNK_STAT g) (F.BNK_STAT_CUR b) tgt) (PowerRegs g) :=
    (s.keepsRegs_fset_at rfl tgt).mono fun _ e => .inr (.inl e)
  exact (State.PowerFrame.of_tiles engs (stat.trans (State.keepsRegs_of_regs regs)) tiles).trans (.of_modTile _ g fun _ => rfl)

/-- Where no walk goes on with the bank, the end of a transition stays with the banks. -/
theorem State.powerFrame_bankOn (still : (s.tile g).walk = none) : s.PowerFrame (s.bankOn g b) (PowerRegs g) := by
  have ended : s.PowerFrame (s.bankEnd g b) (PowerRegs g) := by
    cases e : (s.tile g).transOf b with
    | none =>
      rw [State.bankEnd_none e]
      exact .refl s _
    | some tgt =>
      rw [State.bankEnd_some e]
      cases (s.tile g).heldOf b with
      | none => exact s.powerFrame_bankSettled g b tgt
      | some x => exact (s.powerFrame_bankSettled g b tgt).trans (State.powerFrame_bankGo _ g b x.2)
  rw [State.bankOn, State.pump_idle ((ended.walks g).trans still)]
  exact ended

theorem State.powerFrame_bankTo (still : (s.tile g).walk = none) (code : Nat) : s.PowerFrame (s.bankTo g b code) (PowerRegs g) := by
  have target := s.powerFrame_bankTarget g b code
  have first := State.powerFrame_bankOn (s.bankTarget g b code) g b ((target.walks g).trans still)
  exact (target.trans first).trans (State.powerFrame_bankOn _ g b ((first.walks g).trans ((target.walks g).trans still)))

end Frame

/-! ## LOFT_POWER -/

/-- The banks of a mask. -/
def maskBanks (mask : Nat) : List Nat := (List.range 32).filter fun b => mask.testBit b

theorem mem_maskBanks {mask b : Nat} : b ∈ maskBanks mask ↔ b < 32 ∧ mask.testBit b = true := by
  rw [maskBanks, List.mem_filter, List.mem_range]

/-- The masked banks of every tile of a list brought to a state. -/
def State.powerTiles (s : State) (l : List Nat) (mask code : Nat) : State := s.each l fun s g => s.each (maskBanks mask) fun s b => s.bankTo g b code

theorem State.powerTiles_done {s : State} {l : List Nat} (nd : l.Nodup) (lt : ∀ g ∈ l, g < 1536) {mask code g b : Nat} (hg : g ∈ l) (hb : b < 32)
    (masked : mask.testBit b = true) (hc : code < 4) (ne : code ≠ 2) (ready : s.BankReady g b code) :
    (s.powerTiles l mask code).BankDone g b code := by
  have inTile (t : State) (h c : Nat) (hh : h ∈ l) (hm : c ∈ maskBanks mask) (other : h = g → c ≠ b) : t.SameBank (t.bankTo h c code) g b :=
    State.sameBank_bankTo (lt g hg) (lt h hh) other t (mem_maskBanks.mp hm).1 code
  refine State.each_visit (P := fun t => t.BankReady g b code) (Q := fun t => t.BankDone g b code) nd hg ?_ ?_ ?_ ready
  · exact fun t y hy apart k => State.each_keeps_mem (fun t => t.BankReady g b code)
      (fun t c hm k => k.congr (inTile t y c hy hm fun e => absurd e apart)) k
  · exact fun t k => State.each_visit (P := fun t => t.BankReady g b code) (Q := fun t => t.BankDone g b code) (List.nodup_range.filter _)
      (mem_maskBanks.mpr ⟨hb, masked⟩) (fun t c hm apart k => k.congr (inTile t g c hg hm fun _ => apart)) (fun t k => k.bankTo hb hc ne)
      (fun t c hm apart k => k.congr (inTile t g c hg hm fun _ => apart)) k
  · exact fun t y hy apart k => State.each_keeps_mem (fun t => t.BankDone g b code)
      (fun t c hm k => k.congr (inTile t y c hy hm fun e => absurd e apart)) k

theorem State.powerFrame_powerTiles {s : State} {l : List Nat} (still : ∀ g ∈ l, (s.tile g).walk = none) (mask code : Nat) :
    s.PowerFrame (s.powerTiles l mask code) fun a => ∃ g ∈ l, PowerRegs g a := by
  refine State.each_keeps_mem (fun t => s.PowerFrame t fun a => ∃ g ∈ l, PowerRegs g a) (fun t g hg k => ?_) (.refl s _)
  refine State.each_keeps_mem (fun t => s.PowerFrame t fun a => ∃ g ∈ l, PowerRegs g a) (fun t b _ k => ?_) k
  exact k.trans ((t.powerFrame_bankTo g b ((k.walks g).trans (still g hg)) code).mono fun _ ha => ⟨g, hg, ha⟩)

theorem cmdLoftPower_ok {s : State} {fn : Fun} {p : Part} {ts : TileSet} {mask : Nat} {pw : Pwr} (ok : s.TilesOk fn p ts)
    (whole : ∀ g ∈ s.tilesIn p ts, wholeGroups (s.ilv g) mask = true) (stopped : pw ≠ .on → ∀ g ∈ s.tilesIn p ts, s.stopped g = true) :
    cmdLoftPower fn p ts mask pw s = (s.powerTiles (s.tilesIn p ts) mask (pwrCode pw)).told ((s.tilesIn p ts).map R.BNK_PWR) := by
  unfold cmdLoftPower State.powerTiles maskBanks
  refine State.cmd_ok ((firstBad_none_iff _).mpr fun x hx => ?_)
  rcases List.mem_append.mp hx with hx | hx
  · exact tileChecks_none 1 ok x hx
  · simp only [List.mem_cons, List.not_mem_nil, or_false] at hx
    rcases hx with rfl | rfl
    · exact refuse_false (List.any_eq_false.mpr fun g hg => by simp [whole g hg])
    · refine refuse_false ?_
      by_cases on : pw = .on
      · simp [on]
      · rw [decide_eq_true on, Bool.true_and]
        exact List.any_eq_false.mpr fun g hg => by simp [stopped on g hg]

theorem loftPower_of_noStray (s : State) (fn : Fun) (p : Part) (ts : TileSet) (banks : Word32) (pw : Pwr) (hm : s.Mail) (ok : s.TilesOk fn p ts)
    (whole : ∀ g ∈ s.tilesIn p ts, wholeGroups (s.ilv g) banks.toNat = true) (stopped : pw ≠ .on → ∀ g ∈ s.tilesIn p ts, s.stopped g = true)
    (noStray : ∀ g ∈ s.tilesIn p ts, ∀ b, (s.tile g).transOf b = none → (s.tile g).heldOf b = none) :
    Answers (.loftPower fn p ts banks pw) fn 0x0302 s fun t out =>
      out = t.toldBytes ((s.tilesIn p ts).map R.BNK_PWR) ∧
      (∀ g ∈ s.tilesIn p ts, ∀ b < 32, banks.toNat.testBit b = true →
        pw ≠ .ret ∨ ((s.tile g).transOf b = none ∧ s.fget (R.BNK_STAT g) (F.BNK_STAT_CUR b) ≠ 0) →
        t.fget (R.BNK_STAT g) (F.BNK_STAT_CUR b) = (match pw with | .on => 3 | .ret => 1 | .off => 0)) ∧
      ((∀ g ∈ s.tilesIn p ts, (s.tile g).walk = none) → t.engs = s.engs ∧
        s.KeepsRegs t fun a => ∃ g ∈ s.tilesIn p ts, a = R.BNK_PWR g ∨ a = R.BNK_STAT g ∨ a = R.BNK_BUSY g) := by
  have row : ∀ s, exec (.loftPower fn p ts banks pw) s = mbRow s fn 0x0302 (cmdLoftPower fn p ts banks.toNat pw) := fun _ => rfl
  refine answers_of_row row hm (cmdLoftPower_ok ok whole stopped) ⟨rfl, fun g hg b hb masked allowed => ?_, fun still => ?_⟩
  · have code : pwrCode pw < 4 ∧ pwrCode pw ≠ 2 ∧ (pwrCode pw = 1 → pw = .ret) := by cases pw <;> decide
    have ready : s.BankReady g b (pwrCode pw) := ⟨noStray g hg b, fun e => allowed.resolve_left (not_not.mpr (code.2.2 e))⟩
    refine (State.powerTiles_done (s.tilesIn_nodup p ts) (fun _ => State.tilesIn_lt ok) hg hb masked code.1 code.2.1 ready).cur.trans ?_
    cases pw <;> rfl
  · have frame := State.powerFrame_powerTiles still banks.toNat (pwrCode pw)
    exact ⟨frame.engs, frame.regs⟩

end Sys2Proof.Machine
end

section
/-! PROOF. LOFT_READ and LOFT_WRITE of banks that are ON (R90, R94, R102). -/

namespace Sys2Proof.Machine

/-! ## Different places of different bytes -/

section Key
variable {k l m : Nat}

/-- Under an interleave of at most 5 a line's bank is one of 32. -/
theorem bankOfLine_lt (hk : k ≤ 5) (hl : l < 2 ^ 16) : bankOfLine k l < 32 := by
  simp only [bankOfLine, Nat.shiftRight_eq_div_pow, Nat.shiftLeft_eq]
  interval_cases k <;> omega

theorem lineInBank_lt (k l : Nat) : lineInBank k l < 2048 := Nat.mod_lt _ (by decide)

/-- A line is its bank and its place there. -/
theorem line_eq_of_bank (hk : k ≤ 5) (hl : l < 2 ^ 16) (hm : m < 2 ^ 16) (bank : bankOfLine k l = bankOfLine k m)
    (line : lineInBank k l = lineInBank k m) : l = m := by
  simp only [bankOfLine, lineInBank, Nat.shiftRight_eq_div_pow, Nat.shiftLeft_eq] at bank line
  interval_cases k <;> omega

/-- Sheaves held at one place are one sheaf of one tile. -/
theorem loftKey_sheaf_inj {j g h a c : Nat} (hk : k ≤ 5) (hj : j ≤ 5) (ha : a < 2 ^ 22) (hc : c < 2 ^ 22) (same : g = h → k = j)
    (e : loftKey k g a / 32 = loftKey j h c / 32) : g = h ∧ a / 32 = c / 32 := by
  have la : a % 2 ^ 22 / 64 < 2 ^ 16 := by omega
  have lc : c % 2 ^ 22 / 64 < 2 ^ 16 := by omega
  have ba := bankOfLine_lt hk la
  have bc := bankOfLine_lt hj lc
  have ia := lineInBank_lt k (a % 2 ^ 22 / 64)
  have ic := lineInBank_lt j (c % 2 ^ 22 / 64)
  simp only [loftKey] at e
  obtain rfl : g = h := by omega
  obtain rfl := same rfl
  have line := line_eq_of_bank hk la lc (by omega) (by omega)
  omega

/-- Bytes held at one place are one byte of one tile. -/
theorem loftKey_inj {j g h a c : Nat} (hk : k ≤ 5) (hj : j ≤ 5) (ha : a < 2 ^ 22) (hc : c < 2 ^ 22) (same : g = h → k = j)
    (e : loftKey k g a = loftKey j h c) : g = h ∧ a = c := by
  obtain ⟨tile, sheaf⟩ := loftKey_sheaf_inj hk hj ha hc same (congrArg (· / 32) e)
  simp only [loftKey] at e
  omega

end Key

/-! ## Changes of the Loft only -/

/-- Only the Loft and its poison bits differ. -/
def State.LoftOnly (s t : State) : Prop := t = { s with loft := t.loft, loftPsn := t.loftPsn }

section LoftOnly
variable {s t u : State}

theorem State.LoftOnly.trans (h : s.LoftOnly t) (k : t.LoftOnly u) : s.LoftOnly u := by
  unfold State.LoftOnly at *
  exact k.trans (by rw [h])

theorem State.LoftOnly.sameBanks (h : s.LoftOnly t) : s.SameBanks t := by
  rw [h]
  exact ⟨rfl, rfl⟩

theorem State.LoftOnly.refl (s : State) : s.LoftOnly s := by
  cases s
  rfl

theorem State.loftOnly_setLoftByte (s : State) (g a : Nat) (b : Byte) : s.LoftOnly (s.setLoftByte g a b) := by
  unfold State.LoftOnly
  rw [State.setLoftByte_loftPsn]
  cases s
  simp only [State.setLoftByte]

theorem State.loftOnly_setLoftPoison (s : State) (g a : Nat) (p : Bool) : s.LoftOnly (s.setLoftPoison g a p) := by
  unfold State.LoftOnly
  rw [State.setLoftPoison_loft]
  cases s
  simp only [State.setLoftPoison]

theorem State.loftOnly_putLoftBytes (g : Nat) (l : List Byte) : ∀ (s : State) (a : Nat), s.LoftOnly (s.putLoftBytes g a l) := by
  induction l with
  | nil =>
    intro s a
    rw [State.putLoftBytes]
    exact .refl s
  | cons b r ih =>
    intro s a
    rw [State.putLoftBytes]
    exact (s.loftOnly_setLoftByte g a b).trans (ih _ _)

theorem State.ilv_sameBanks (h : s.SameBanks t) (g : Nat) : t.ilv g = s.ilv g := by
  rw [State.ilv, State.ilv]
  exact State.fget_congr h.1 _ _

theorem State.bankAcc_sameBanks (h : s.SameBanks t) (g b : Nat) : t.bankAcc g b = s.bankAcc g b := by
  rw [State.bankAcc, State.bankAcc, State.tile_congr h.2, State.fget_congr h.1]

theorem State.bankOf_sameBanks (h : s.SameBanks t) (g a : Nat) : t.bankOf g a = s.bankOf g a := by
  rw [State.bankOf, State.bankOf, State.ilv_sameBanks h]

end LoftOnly

/-! ## Banks that are ON -/

section On
variable {s : State} {g addr n : Nat}

/-- A line lies in one bank. -/
theorem State.bankOf_line (s : State) (g : Nat) {a c : Nat} (h : a / 64 = c / 64) : s.bankOf g a = s.bankOf g c := by
  have line : a % 2 ^ 22 / 64 = c % 2 ^ 22 / 64 := by omega
  rw [State.bankOf, State.bankOf, line]

/-- The banks of the sheaves that a range meets are those of its bytes. -/
theorem State.bankAcc_sheaf (hn : 1 ≤ n) (on : ∀ j < n, s.bankAcc g (s.bankOf g (addr + j)) = .ok) {a : Nat} (ha : a ∈ sheavesOf addr n) :
    s.bankAcc g (s.bankOf g a) = .ok := by
  obtain ⟨i, hi, rfl⟩ := List.mem_map.mp ha
  have hi := List.mem_range.mp hi
  rw [s.bankOf_line g (c := addr + ((addr / 32 + i) * 32 - addr)) (by omega)]
  exact on _ (by omega)

/-- No bank that is ON is waited for. -/
theorem State.awaitOn_on (hn : 1 ≤ n) (on : ∀ j < n, s.bankAcc g (s.bankOf g (addr + j)) = .ok) : s.awaitOn g addr n = s := by
  refine State.each_keeps_mem (fun t => t = s) (fun t b hb e => ?_) rfl
  obtain ⟨a, ha, rfl⟩ := List.mem_map.mp (List.mem_eraseDups.mp hb)
  have acc := State.bankAcc_sheaf hn on ha
  subst e
  refine if_neg fun moving => ?_
  rw [State.bankAcc, moving] at acc
  exact BankAcc.noConfusion acc

end On

/-! ## LOFT_READ -/

/-- What LOFT_READ answers from banks that are ON. -/
def State.loftAnswer (s : State) (g addr n : Nat) : List Byte :=
  lay ((4, n) :: ((List.range n).map fun j => (1, (s.loftByte g (addr + j)).toNat)) ++
    (4, (sheavesOf addr n).length) :: ((sheavesOf addr n).map fun a => (1, bit (s.loftPoison g a))) ++
    (4, (sheavesOf addr n).length) :: ((sheavesOf addr n).map fun _ => (1, 0)))

theorem cmdLoftRead_ok {s : State} {fn : Fun} {g : Tile} {addr n : Nat} (own : s.OwnTile fn g) (hn : 1 ≤ n) (h4 : n ≤ 4096)
    (fits : addr + n ≤ 2 ^ 22) (on : ∀ j < n, s.bankAcc g (s.bankOf g (addr + j)) = .ok) :
    cmdLoftRead fn g addr n s = (s, .ok (s.loftAnswer g addr n)) := by
  have checks : firstBad [badAt 0 (decide (1536 ≤ g.val)), badAt 4 (decide (2 ^ 22 ≤ addr)),
      badAt 8 (decide (n = 0 ∨ 4096 < n ∨ 2 ^ 22 < addr + n)), s.ownTile fn g] = none := by
    refine (firstBad_none_iff _).mpr fun x hx => ?_
    simp only [List.mem_cons, List.not_mem_nil, or_false] at hx
    rcases hx with rfl | rfl | rfl | rfl
    · exact badAt_false (decide_eq_false (Nat.not_le.mpr g.isLt))
    · exact badAt_false (decide_eq_false (by omega))
    · exact badAt_false (decide_eq_false (by omega))
    · exact ownTile_false own
  unfold cmdLoftRead State.loftAnswer
  rw [State.cmd_ok checks, State.awaitOn_on hn on]
  dsimp only
  have bytes : ((List.range n).map fun i => if decide (s.bankAcc g (s.bankOf g (addr + i)) = .ok) = true then (s.loftByte g (addr + i)).toNat else 0) =
      (List.range n).map fun i => (s.loftByte g (addr + i)).toNat :=
    List.map_congr_left fun i hi => if_pos (decide_eq_true (on i (List.mem_range.mp hi)))
  have psn : ((sheavesOf addr n).map fun a => (1, bit (decide (s.bankAcc g (s.bankOf g a) = .ok) && s.loftPoison g a))) =
      (sheavesOf addr n).map fun a => (1, bit (s.loftPoison g a)) :=
    List.map_congr_left fun a ha => by rw [decide_eq_true (State.bankAcc_sheaf hn on ha), Bool.true_and]
  have off : ((sheavesOf addr n).map fun a => (1, bit (!decide (s.bankAcc g (s.bankOf g a) = .ok)))) = (sheavesOf addr n).map fun _ => (1, 0) :=
    List.map_congr_left fun a ha => by
      rw [decide_eq_true (State.bankAcc_sheaf hn on ha)]
      rfl
  rw [bytes, psn, off, List.map_map]
  rfl

theorem loftRead_answers (s : State) (fn : Fun) (g : Tile) (addr n : Nat) (hm : s.Mail) (own : s.OwnTile fn g) (hn : 1 ≤ n) (h4 : n ≤ 4096)
    (fits : addr + n ≤ 2 ^ 22) (on : ∀ j < n, s.bankAcc g (s.bankOf g (addr + j)) = .ok) :
    Answers (.loftRead fn g addr n) fn 0x0303 s fun t out =>
      t = s ∧
      out = lay ((4, n) :: ((List.range n).map fun j => (1, (s.loftByte g (addr + j)).toNat)) ++
        (4, (sheavesOf addr n).length) :: ((sheavesOf addr n).map fun a => (1, bit (s.loftPoison g a))) ++
        (4, (sheavesOf addr n).length) :: ((sheavesOf addr n).map fun _ => (1, 0))) := by
  have row : ∀ s, exec (.loftRead fn g addr n) s = mbRow s fn 0x0303 (cmdLoftRead fn g addr n) := fun _ => rfl
  exact answers_of_row row hm (cmdLoftRead_ok own hn h4 fits on) ⟨rfl, rfl⟩

/-! ## LOFT_WRITE -/

/-- A sheaf's bytes and poison bit written. -/
def State.putSheafAt (s : State) (g a : Nat) (data : List Byte) (p : Bool) : State := (s.putLoftBytes g a data).setLoftPoison g a p

theorem State.loftOnly_putSheafAt (s : State) (g a : Nat) (data : List Byte) (p : Bool) : s.LoftOnly (s.putSheafAt g a data p) :=
  (State.loftOnly_putLoftBytes g data s a).trans (State.loftOnly_setLoftPoison _ g a p)

section Sheaf
variable {s : State} {g a : Nat} {data : List Byte} {p : Bool} (hi : s.ilv g ≤ 5) (len : data.length = 32) (aligned : a % 32 = 0)
  (fits : a + 32 ≤ 2 ^ 22)
include hi len fits

/-- The sheaf reads back. -/
theorem State.putSheafAt_get : (∀ {i : Nat} (h : i < data.length), (s.putSheafAt g a data p).loftByte g (a + i) = data[i]) ∧
    (s.putSheafAt g a data p).loftPoison g a = p := by
  refine ⟨fun {i} h => ?_, ?_⟩
  · rw [State.putSheafAt, State.loftByte_setLoftPoison]
    refine State.loftByte_put_at data (fun i hi' j hj e => ?_) h
    have := (loftKey_inj hi hi (by omega) (by omega) (fun _ => rfl) e).2
    omega
  · rw [State.putSheafAt, State.loftPoison_set, if_pos rfl]

include aligned

/-- Every other byte and poison bit stands. -/
theorem State.putSheafAt_other {h c : Nat} (hh : s.ilv h ≤ 5) (hc : c < 2 ^ 22) (outside : h = g → c < a ∨ a + 32 ≤ c) :
    (s.putSheafAt g a data p).loftByte h c = s.loftByte h c ∧ (s.putSheafAt g a data p).loftPoison h c = s.loftPoison h c := by
  refine ⟨?_, ?_⟩
  · rw [State.putSheafAt, State.loftByte_setLoftPoison]
    refine State.loftByte_put_other data fun i hi' e => ?_
    obtain ⟨tile, byte⟩ := loftKey_inj hh hi hc (by omega) (fun e => by rw [e]) e
    have := outside tile
    omega
  · rw [State.putSheafAt, State.loftPoison_set, State.ilv_putLoftBytes, State.ilv_putLoftBytes, if_neg fun e => ?_]
    · rw [State.loftPoison, State.loftPoison, State.loftPsn_putLoftBytes, State.ilv_putLoftBytes]
    · obtain ⟨tile, sheaf⟩ := loftKey_sheaf_inj hh hi hc (by omega) (fun e => by rw [e]) e
      have := outside tile
      omega

end Sheaf

/-- The first `n` sheaves of the data, with their poison bits. -/
def State.putSheaves (s : State) (g addr : Nat) (data : List Byte) (psn : List Bool) (n : Nat) : State :=
  (List.range n).foldl (fun s i => s.putSheafAt g (addr + 32 * i) ((data.drop (32 * i)).take 32) (psn.getD i false)) s

section Sheaves
variable (s : State) {g addr : Nat} {data : List Byte} {psn : List Bool}

theorem State.loftOnly_putSheaves (g addr : Nat) (data : List Byte) (psn : List Bool) (n : Nat) : s.LoftOnly (s.putSheaves g addr data psn n) :=
  List.foldlRecOn (motive := fun t => s.LoftOnly t) _ _ (.refl s) fun t k _ _ => k.trans (t.loftOnly_putSheafAt g _ _ _)

/-- The data and the poison bits stand where they were put, and everything else as it was. -/
theorem State.putSheaves_get (hi : s.ilv g ≤ 5) (aligned : addr % 32 = 0) (fits : addr + data.length ≤ 2 ^ 22) (n : Nat) (hn : 32 * n ≤ data.length) :
    (∀ j < 32 * n, (s.putSheaves g addr data psn n).loftByte g (addr + j) = data.getD j 0) ∧
    (∀ j < n, (s.putSheaves g addr data psn n).loftPoison g (addr + 32 * j) = psn.getD j false) ∧
    ∀ h c, s.ilv h ≤ 5 → c < 2 ^ 22 → (h = g → c < addr ∨ addr + 32 * n ≤ c) →
      (s.putSheaves g addr data psn n).loftByte h c = s.loftByte h c ∧ (s.putSheaves g addr data psn n).loftPoison h c = s.loftPoison h c := by
  induction n with
  | zero => exact ⟨fun j hj => absurd hj (Nat.not_lt_zero j), fun j hj => absurd hj (Nat.not_lt_zero j), fun _ _ _ _ _ => ⟨rfl, rfl⟩⟩
  | succ n ih =>
    obtain ⟨bytes, bits, others⟩ := ih (by omega)
    have banks := (s.loftOnly_putSheaves g addr data psn n).sameBanks
    have step : s.putSheaves g addr data psn (n + 1) =
        (s.putSheaves g addr data psn n).putSheafAt g (addr + 32 * n) ((data.drop (32 * n)).take 32) (psn.getD n false) := by
      rw [State.putSheaves, List.range_succ, List.foldl_append]
      rfl
    have len : ((data.drop (32 * n)).take 32).length = 32 := by
      rw [List.length_take, List.length_drop]
      omega
    rw [step]
    generalize s.putSheaves g addr data psn n = t at *
    have ht : t.ilv g ≤ 5 := by rwa [State.ilv_sameBanks banks]
    obtain ⟨put, bit⟩ := State.putSheafAt_get (p := psn.getD n false) ht len (a := addr + 32 * n) (by omega)
    have other {h c : Nat} := State.putSheafAt_other (p := psn.getD n false) ht len (a := addr + 32 * n) (by omega) (by omega) (h := h) (c := c)
    refine ⟨fun j hj => ?_, fun j hj => ?_, fun h c hh hc out => ?_⟩
    · rcases Nat.lt_or_ge j (32 * n) with low | high
      · rw [(other ht (by omega) fun _ => .inl (by omega)).1]
        exact bytes j low
      · have place : addr + j = addr + 32 * n + (j - 32 * n) := by omega
        rw [place, put (by omega), List.getElem_take, List.getElem_drop, List.getD_eq_getElem _ _ (by omega)]
        congr 1
        omega
    · rcases Nat.lt_or_ge j n with low | high
      · rw [(other ht (by omega) fun _ => .inl (by omega)).2]
        exact bits j low
      · obtain rfl : j = n := by omega
        exact bit
    · obtain ⟨byte, poison⟩ := others h c hh hc fun e => (out e).imp_right fun k => by omega
      obtain ⟨byte', poison'⟩ := other (h := h) (c := c) (by rwa [State.ilv_sameBanks banks]) hc fun e => (out e).imp (fun k => by omega) fun k => by omega
      exact ⟨byte'.trans byte, poison'.trans poison⟩

/-- Where every bank is ON no sheaf is left out. -/
theorem State.each_putSheafAt {n : Nat} (on : ∀ i < n, s.bankAcc g (s.bankOf g (addr + 32 * i)) = .ok) :
    (s.each (List.range n) fun s i => if s.bankAcc g (s.bankOf g (addr + 32 * i)) = .ok
      then (s.putLoftBytes g (addr + 32 * i) ((data.drop (32 * i)).take 32)).setLoftPoison g (addr + 32 * i) (psn.getD i false) else s) =
      s.putSheaves g addr data psn n := by
  unfold State.each
  induction n with
  | zero => rw [State.putSheaves, List.range_zero, List.foldl_nil, List.foldl_nil]
  | succ n ih =>
    have banks := (s.loftOnly_putSheaves g addr data psn n).sameBanks
    rw [State.putSheaves, List.range_succ, List.foldl_append, List.foldl_append, ih fun i h => on i (by omega), ← State.putSheaves, List.foldl_cons,
      List.foldl_nil, List.foldl_cons, List.foldl_nil, State.bankAcc_sameBanks banks, State.bankOf_sameBanks banks, if_pos (on n (Nat.lt_succ_self n))]
    rfl

end Sheaves

theorem cmdLoftWrite_ok {s : State} {fn : Fun} {g : Tile} {addr : Nat} {data : List Byte} {psn : List Bool} (own : s.OwnTile fn g)
    (aligned : addr % 32 = 0) (whole : data.length % 32 = 0) (h32 : 32 ≤ data.length) (h4 : data.length ≤ 4096)
    (fits : addr + data.length ≤ 2 ^ 22) (bits : psn.length = data.length / 32) (stopped : s.fget (R.TIL_CTL g) F.TIL_CTL_RUN = 0)
    (on : ∀ j < data.length, s.bankAcc g (s.bankOf g (addr + j)) = .ok) :
    cmdLoftWrite fn g addr data psn s = (s.putSheaves g addr data psn (data.length / 32), .ok []) := by
  have checks : firstBad [badAt 0 (decide (1536 ≤ g.val)), badAt 4 (decide (2 ^ 22 ≤ addr ∨ addr % 32 ≠ 0)),
      badAt 8 (decide (data.length < 32 ∨ 4096 < data.length ∨ data.length % 32 ≠ 0 ∨ 2 ^ 22 < addr + data.length ∨ psn.length ≠ data.length / 32)),
      s.ownTile fn g, refuse 1 (decide (s.fget (R.TIL_CTL g) F.TIL_CTL_RUN ≠ 0))] = none := by
    refine (firstBad_none_iff _).mpr fun x hx => ?_
    simp only [List.mem_cons, List.not_mem_nil, or_false] at hx
    rcases hx with rfl | rfl | rfl | rfl | rfl
    · exact badAt_false (decide_eq_false (Nat.not_le.mpr g.isLt))
    · exact badAt_false (decide_eq_false (by omega))
    · exact badAt_false (decide_eq_false (by omega))
    · exact ownTile_false own
    · exact refuse_false (decide_eq_false (not_not.mpr stopped))
  unfold cmdLoftWrite
  dsimp only
  rw [State.cmd_ok checks, State.awaitOn_on (by omega) on, s.each_putSheafAt fun i h => on (32 * i) (by omega)]

theorem loftWrite_writes (s : State) (fn : Fun) (g : Tile) (addr : Nat) (data : List Byte) (psn : List Bool) (hm : s.Mail) (own : s.OwnTile fn g)
    (aligned : addr % 32 = 0) (whole : data.length % 32 = 0) (h32 : 32 ≤ data.length) (h4 : data.length ≤ 4096)
    (fits : addr + data.length ≤ 2 ^ 22) (bits : psn.length = data.length / 32) (stopped : s.fget (R.TIL_CTL g) F.TIL_CTL_RUN = 0)
    (hi : s.ilv g ≤ 5) (on : ∀ j < data.length, s.bankAcc g (s.bankOf g (addr + j)) = .ok) :
    Answers (.loftWrite fn g addr data psn) fn 0x0304 s fun t out =>
      out = [] ∧
      (∀ j < data.length, t.loftByte g (addr + j) = data.getD j 0) ∧
      (∀ j < psn.length, t.loftPoison g (addr + 32 * j) = psn.getD j false) ∧
      (∀ a < 2 ^ 22, a < addr ∨ addr + data.length ≤ a → t.loftByte g a = s.loftByte g a ∧ t.loftPoison g a = s.loftPoison g a) ∧
      (∀ h : Tile, h ≠ g → s.ilv h ≤ 5 → ∀ a < 2 ^ 22, t.loftByte h a = s.loftByte h a ∧ t.loftPoison h a = s.loftPoison h a) ∧
      t = { s with loft := t.loft, loftPsn := t.loftPsn } := by
  have row : ∀ s, exec (.loftWrite fn g addr data psn) s = mbRow s fn 0x0304 (cmdLoftWrite fn g addr data psn) := fun _ => rfl
  have all : 32 * (data.length / 32) = data.length := by omega
  obtain ⟨bytes, poison, others⟩ := s.putSheaves_get (psn := psn) hi aligned fits (data.length / 32) (by omega)
  rw [all] at bytes others
  rw [← bits] at poison
  refine answers_of_row row hm (cmdLoftWrite_ok own aligned whole h32 h4 fits bits stopped on)
    ⟨rfl, bytes, by rwa [bits] at poison ⊢, fun a ha out => others g a hi ha fun _ => out,
      fun h ne hh a ha => others h a hh ha fun e => absurd (Fin.ext e) ne, s.loftOnly_putSheaves g addr data psn _⟩

end Sys2Proof.Machine
end

section
/-! PROOF. LOFT_POWER where a tile holds a target for a bank that no transition moves (R97, R102). -/

namespace Sys2Proof.Machine

/-! ## A response posted (R439) -/

/-- A response changes, of the registers, the mailbox doorbell of its function only. -/
theorem State.rd_reply (s t : State) (fn code : Nat) (r : Reply) {a : Nat} (h : a ≠ State.mbDb fn) : (s.reply t fn code r).rd a = t.rd a := by
  unfold State.reply
  split
  · rfl
  · unfold State.mbPost
    extract_lets hdr u b v w
    have put : u.rd a = t.rd a := State.rd_congr (State.putMb_regs ..) a
    rw [State.rd_fset_ne _ rfl h, State.rd_fset_ne _ rfl h, State.rd_fset_ne _ rfl h, put]

/-! ## O23 -/

/-- Partition 0 has tile 0, whose bank 0 is OFF and in no transition, and for which OFF is held all the same. -/
def strayHeld : State :=
  ((State.reset.fset R.STW_IDENT F.STW_IDENT_FWIF 1).fset (R.TIL_OWNER 0) F.TIL_OWNER_ASSIGNED 1).modTile 0 fun t => { t with held := [(0, 0)] }

/-- The state code of a tile's bank once a command has run. -/
def curAfter (o : Host.Outcome State Fault Refusal) (g b : Nat) : Option Nat :=
  match o with
  | .next t => some (t.fget (R.BNK_STAT g) (F.BNK_STAT_CUR b))
  | _ => none

/-- Refutes O23: its clause on LOFT_POWER asks that every masked bank stand in the state asked for. Where the tile holds a target for a
bank that is in no transition, as in `strayHeld`, the target that ON starts is followed by the one held, and the bank is OFF again. No
write leaves such a target (`bankTarget_go`, `bankEnd_get`); without it the clause holds (`loftPower_of_noStray`), and the other clauses hold
as they are (`tileRun_starts`, `tileRun_stops`, `tileStatus_lists`, `loftRead_answers`, `loftWrite_writes`, `tileStats_answers`,
`tileReset_stops`, `tileConfig_sets`). -/
theorem not_tileCommandsComplete : ¬ Obligations.TileCommandsComplete := by
  unfold Obligations.TileCommandsComplete
  rintro ⟨-, -, -, power, -⟩
  obtain ⟨t, out, run, -, stand, -⟩ := power strayHeld 0 0 (.one 0) 0xF#32 .on ⟨by decide, by decide +kernel⟩
    ⟨.inl rfl, by decide, by decide +kernel⟩ (by decide +kernel) (fun h => absurd rfl h)
  have on : t.fget (R.BNK_STAT 0) (F.BNK_STAT_CUR 0) = 3 := stand 0 (.head _) 0 (by decide) (by decide) (.inl (by decide))
  have off : curAfter (exec (.loftPower 0 0 (.one 0) 0xF#32 .on) strayHeld) 0 0 = some 0 := by decide +kernel
  have kept : (strayHeld.reply t 0 0x0302 (.ok out)).fget (R.BNK_STAT 0) (F.BNK_STAT_CUR 0) = t.fget (R.BNK_STAT 0) (F.BNK_STAT_CUR 0) :=
    State.fget_of_rd rfl (State.rd_reply _ t 0 _ _ (by decide))
  rw [run, curAfter] at off
  rw [Fin.val_zero, kept, on] at off
  exact absurd off (by decide)

end Sys2Proof.Machine
end

section
/-! PROOF. The instruction words: what the decoder reads in the encoder's word, and the encoder writes of the decoder's instruction
(R129 to R138, R150 to R158). -/

namespace Sys2Proof.Machine

open Sys2Proof

/-! ## Bit fields of a number -/

/-- A field by division, as `omega` reads it. -/
theorem bitsOf_eq (v hi lo : Nat) : bitsOf v hi lo = v / 2 ^ lo % 2 ^ (hi + 1 - lo) := by
  rw [bitsOf, Nat.shiftRight_eq_div_pow]

theorem testBit_eq_bitsOf (v i : Nat) : bit (v.testBit i) = bitsOf v i i := by
  rw [bitsOf_eq, Nat.add_sub_cancel_left, pow_one, Nat.testBit_eq_decide_div_mod_eq, bit]
  split <;> simp_all

theorem bitsOf_lt (v hi lo : Nat) : bitsOf v hi lo < 2 ^ (hi + 1 - lo) := Nat.mod_lt _ (by positivity)

theorem bit_lt (b : Bool) : bit b < 2 := by cases b <;> decide

theorem bit_inj {a b : Bool} (h : bit a = bit b) : a = b := by
  cases a <;> cases b <;> simp_all [bit]

/-- The eight fields of an instruction word, one number each, at their places (R129). -/
def wordOf (wsem thr wk tmo ssem inc op opnd : Nat) : Nat :=
  wsem * 2 ^ 58 + thr * 2 ^ 50 + wk * 2 ^ 49 + tmo * 2 ^ 47 + ssem * 2 ^ 41 + inc * 2 ^ 36 + op * 2 ^ 30 + opnd

theorem wordOf_bits {v : Nat} (h : v < 2 ^ 64) :
    wordOf (bitsOf v 63 58) (bitsOf v 57 50) (bitsOf v 49 49) (bitsOf v 48 47) (bitsOf v 46 41) (bitsOf v 40 36) (bitsOf v 35 30)
      (bitsOf v 29 0) = v := by
  simp only [wordOf, bitsOf_eq]
  omega

theorem bits_wordOf {wsem thr wk tmo ssem inc op opnd : Nat} (h1 : wsem < 64) (h2 : thr < 256) (h3 : wk < 2) (h4 : tmo < 4) (h5 : ssem < 64)
    (h6 : inc < 32) (h7 : op < 64) (h8 : opnd < 2 ^ 30) :
    let v := wordOf wsem thr wk tmo ssem inc op opnd
    v < 2 ^ 64 ∧ bitsOf v 63 58 = wsem ∧ bitsOf v 57 50 = thr ∧ bitsOf v 49 49 = wk ∧ bitsOf v 48 47 = tmo ∧ bitsOf v 46 41 = ssem ∧
      bitsOf v 40 36 = inc ∧ bitsOf v 35 30 = op ∧ bitsOf v 29 0 = opnd := by
  simp only [wordOf, bitsOf_eq]
  omega

/-! ## The operand field (R133, R134, R136, R138, R150 to R158) -/

theorem sext_range (n : Nat) : -(2 ^ 29 : Int) ≤ sext 30 n ∧ sext 30 n < 2 ^ 29 := by
  unfold sext
  split <;> omega

/-- A 30-bit number is what its two's-complement reading encodes to. -/
theorem sext_mod {o : Nat} (ho : o < 2 ^ 30) : (sext 30 o % (2 ^ 30 : Nat)).toNat = o := by
  unfold sext
  split <;> omega

theorem sext_emod {z : Int} (h : -(2 ^ 29 : Int) ≤ z) (h' : z < 2 ^ 29) : sext 30 (z % (2 ^ 30 : Nat)).toNat = z := by
  unfold sext
  split <;> omega

/-- DA, DB, DC and MOD make up the operand field. -/
theorem opndOf_bits {o : Nat} (ho : o < 2 ^ 30) : opndOf (bitsOf o 29 24) (bitsOf o 23 18) (bitsOf o 17 12) (bitsOf o 11 0) = o := by
  simp only [opndOf, bitsOf_eq]
  omega

section
variable {da db dc md : Nat}

@[simp] theorem opndOf_da (hb : db < 64) (hc : dc < 64) (hm : md < 4096) (ha : da < 64) : bitsOf (opndOf da db dc md) 29 24 = da := by
  simp only [opndOf, bitsOf_eq]
  omega

@[simp] theorem opndOf_db (hb : db < 64) (hc : dc < 64) (hm : md < 4096) : bitsOf (opndOf da db dc md) 23 18 = db := by
  simp only [opndOf, bitsOf_eq]
  omega

@[simp] theorem opndOf_dc (hc : dc < 64) (hm : md < 4096) : bitsOf (opndOf da db dc md) 17 12 = dc := by
  simp only [opndOf, bitsOf_eq]
  omega

@[simp] theorem opndOf_mod (hm : md < 4096) : bitsOf (opndOf da db dc md) 11 0 = md := by
  simp only [opndOf, bitsOf_eq]
  omega

end

/-- MOD of an MM is its strip and its two flags (R154). -/
theorem mm_mod {md : Nat} (h : md < 16) : md % 4 + bit (md.testBit 2) * 4 + bit (md.testBit 3) * 8 = md := by
  revert md
  decide

theorem bit_testBit_zero {md : Nat} (h : md < 2) : bit (md.testBit 0) = md := by
  revert md
  decide

/-- MOD of a SEND is its two flags (R158). -/
theorem send_mod {md : Nat} (h : md < 4) : bit (md.testBit 0) + bit (md.testBit 1) * 2 = md := by
  revert md
  decide

theorem mm_mod_flags {strip : Nat} (h : strip < 4) (acc mq : Bool) :
    let md := strip + bit acc * 4 + bit mq * 8
    md < 16 ∧ md % 4 = strip ∧ md.testBit 2 = acc ∧ md.testBit 3 = mq := by
  revert strip
  cases acc <;> cases mq <;> decide

theorem send_mod_flags (seg empty : Bool) :
    let md := bit seg + bit empty * 2
    md < 4 ∧ md.testBit 0 = seg ∧ md.testBit 1 = empty := by
  cases seg <;> cases empty <;> decide

theorem testBit_bit (b : Bool) : (bit b).testBit 0 = b := by cases b <;> rfl

/-- What the decoder makes of an operand field fits the engine, stands for its opcode, and encodes to that field. -/
theorem opFits_of_decodeOp {e : Eng} {c o : Nat} {op : TOp} (ho : o < 2 ^ 30) (h : decodeOp e c o = some op) :
    opFits e op = true ∧ opCode op = c ∧ encOpnd op = o := by
  unfold decodeOp at h
  split at h
  -- The engine's own operations, in the order of their table.
  case h_9 =>
    have sum := opndOf_bits ho
    have ha := bitsOf_lt o 29 24
    have hb := bitsOf_lt o 23 18
    have hc := bitsOf_lt o 17 12
    have hm := bitsOf_lt o 11 0
    split at h
    case h_20 => cases h
    all_goals
      simp only [Option.ite_none_right_eq_some, Option.some.injEq, Bool.and_eq_true, beq_iff_eq, bne_iff_ne, decide_eq_true_eq] at h
      obtain ⟨hz, rfl⟩ := h
    -- LDQ and LDD cut the field otherwise than DA, DB, DC and MOD.
    case h_2 | h_5 =>
      simp only [opFits, opCode, encOpnd, bitsOf_eq, Bool.and_eq_true, decide_eq_true_eq, true_and] at hz ⊢
      omega
    all_goals
      generalize bitsOf o 29 24 = da at *
      generalize bitsOf o 23 18 = db at *
      generalize bitsOf o 17 12 = dc at *
      generalize bitsOf o 11 0 = md at *
      simp_all [-Nat.testBit_zero, opFits, opCode, encOpnd, mm_mod, bit_testBit_zero, send_mod, Nat.mod_lt]
  all_goals simp only [Option.ite_none_right_eq_some, Option.some.injEq, Bool.and_eq_true, beq_iff_eq, bne_iff_ne, decide_eq_true_eq] at h
  -- Every field of a JMP is its offset.
  case h_5 =>
    subst h
    exact ⟨by simpa [opFits] using sext_range o, rfl, sext_mod ho⟩
  all_goals
    obtain ⟨hz, rfl⟩ := h
    simp only [opFits, opCode, encOpnd, bitsOf_eq, Bool.and_eq_true, decide_eq_true_eq, true_and] at hz ⊢
    omega

theorem encOpnd_lt {e : Eng} {op : TOp} (h : opFits e op = true) : encOpnd op < 2 ^ 30 := by
  cases op
  case mm | emul | red | send | recv =>
    simp only [opFits, encOpnd, opndOf, bit, Bool.and_eq_true, decide_eq_true_eq] at h ⊢
    split_ifs <;> omega
  all_goals
    simp only [opFits, encOpnd, opndOf, Bool.and_eq_true, decide_eq_true_eq] at h ⊢
    omega

/-- No operation has OP 0x00 or 0x09 to 0x0F (R133). -/
theorem opCode_range (op : TOp) : (1 ≤ opCode op ∧ opCode op ≤ 8) ∨ (16 ≤ opCode op ∧ opCode op < 64) := by
  cases op <;> simp [opCode]

/-- The operations of every stream, OP 0x01 to 0x08, decode alike in all of them (R133). -/
theorem decodeOp_shared {c : Nat} (h : 1 ≤ c) (h' : c ≤ 8) (e e' : Eng) (o : Nat) : decodeOp e' c o = decodeOp e c o := by
  interval_cases c <;> rfl

/-- The decoder reads the operand field of an operation that fits as that operation. -/
theorem decodeOp_encOpnd {e : Eng} {op : TOp} (h : opFits e op = true) : decodeOp e (opCode op) (encOpnd op) = some op := by
  cases op
  case nop | fence | endStream => rfl
  case jmp off =>
    simp only [opFits, Bool.and_eq_true, decide_eq_true_eq] at h
    exact congrArg (some ∘ TOp.jmp) (sext_emod h.1 h.2)
  case loop | brv | yield | hint =>
    simp only [opFits, Bool.and_eq_true, decide_eq_true_eq] at h
    simp only [decodeOp, opCode, encOpnd, Option.ite_none_right_eq_some, Option.some.injEq, TOp.loop.injEq, TOp.brv.injEq, TOp.yield.injEq,
      TOp.hint.injEq, Bool.and_eq_true, beq_iff_eq, bne_iff_ne, decide_eq_true_eq, bitsOf_eq]
    omega
  case ldq | ldd =>
    simp only [opFits, Bool.and_eq_true, decide_eq_true_eq, and_assoc] at h
    obtain ⟨rfl, h⟩ := h
    simp only [decodeOp, opCode, encOpnd, Option.ite_none_right_eq_some, Option.some.injEq, TOp.ldq.injEq, TOp.ldd.injEq, Bool.and_eq_true,
      beq_iff_eq, bne_iff_ne, bitsOf_eq]
    omega
  case mm da db dc strip acc mq =>
    simp only [opFits, Bool.and_eq_true, decide_eq_true_eq, and_assoc] at h
    obtain ⟨rfl, ha, hb, hc, hs⟩ := h
    obtain ⟨hm, strip_eq, acc_eq, mq_eq⟩ := mm_mod_flags hs acc mq
    have hm' := hm.trans (by decide : 16 < 4096)
    simp [decodeOp, opCode, encOpnd, *]
  case send da seg empty =>
    simp only [opFits, Bool.and_eq_true, decide_eq_true_eq, and_assoc] at h
    obtain ⟨rfl, ha, flags⟩ := h
    obtain ⟨hm, seg_eq, empty_eq⟩ := send_mod_flags seg empty
    have hm' := hm.trans (by decide : 4 < 4096)
    have together : empty = true → seg = true ∧ da = 0 := by simpa [or_iff_not_imp_left] using flags
    simpa [decodeOp, opCode, encOpnd, or_iff_not_imp_left, *] using together
  case emul _ _ _ b | red _ _ b | recv _ b =>
    have hm := bit_lt b
    have hm' := hm.trans (by decide : 2 < 4096)
    simp_all [-Nat.testBit_zero, opFits, decodeOp, opCode, encOpnd, testBit_bit]
  case fn _ _ m | lane _ _ _ m | atom _ _ m =>
    simp only [opFits, Bool.and_eq_true, decide_eq_true_eq, and_assoc] at h
    obtain ⟨rfl, h⟩ := h
    have hm : m < 4096 := by omega
    simp [decodeOp, opCode, encOpnd, h, hm]
  all_goals
    simp only [opFits, Bool.and_eq_true, decide_eq_true_eq, and_assoc] at h
    obtain ⟨rfl, h⟩ := h
    simp [decodeOp, opCode, encOpnd, h]

/-! ## The instruction word (R129, R130) -/

theorem bitsOf_wait_eq_zero {v : Nat} : bitsOf v 57 47 = 0 ↔ bitsOf v 57 50 = 0 ∧ bitsOf v 49 49 = 0 ∧ bitsOf v 48 47 = 0 := by
  simp only [bitsOf_eq]
  omega

/-- A word decodes as the instruction of its fields, if a wait or signal on nothing has no field set and its operand field decodes. -/
theorem decodeInstr_eq_some {e : Eng} {w : Word64} {i : TInstr} : decodeInstr e w = some i ↔
    ¬ (bitsOf w.toNat 63 58 = 63 ∧ bitsOf w.toNat 57 47 ≠ 0) ∧ ¬ (bitsOf w.toNat 46 41 = 63 ∧ bitsOf w.toNat 40 36 ≠ 0) ∧
    decodeOp e (bitsOf w.toNat 35 30) (bitsOf w.toNat 29 0) = some i.op ∧
    i.wait = ⟨bitsOf w.toNat 63 58, bitsOf w.toNat 57 50 + 1, w.toNat.testBit 49, bitsOf w.toNat 48 47⟩ ∧
    i.sig = ⟨bitsOf w.toNat 46 41, bitsOf w.toNat 40 36 + 1⟩ := by
  obtain ⟨wait, sig, op⟩ := i
  unfold decodeInstr
  extract_lets v wsem ssem
  split
  · simp_all [v, wsem]
  · split
    · simp_all [v, ssem]
    · simp_all only [v, wsem, ssem, Option.map_eq_some_iff, TInstr.mk.injEq, not_false_eq_true, true_and]
      constructor
      · rintro ⟨op, ho, rfl, rfl, rfl⟩
        exact ⟨ho, rfl, rfl⟩
      · rintro ⟨ho, rfl, rfl⟩
        exact ⟨op, ho, rfl, rfl, rfl⟩

theorem decodeInstr_eq_none {e : Eng} {w : Word64} (h : ∀ i, decodeInstr e w ≠ some i) : decodeInstr e w = none :=
  Option.eq_none_iff_forall_ne_some.2 h

/-- What fitting says of the two synchronisation fields. -/
theorem instrFits_iff {e : Eng} {i : TInstr} : instrFits e i = true ↔
    i.wait.alias_ < 64 ∧ 1 ≤ i.wait.thr ∧ i.wait.thr ≤ 256 ∧ i.wait.tmo < 4 ∧ i.sig.alias_ < 64 ∧ 1 ≤ i.sig.inc ∧ i.sig.inc ≤ 32 ∧
    (i.wait.alias_ = 63 → i.wait = ⟨63, 1, false, 0⟩) ∧ (i.sig.alias_ = 63 → i.sig = ⟨63, 1⟩) ∧ opFits e i.op = true := by
  simp only [instrFits, Bool.and_eq_true, Bool.or_eq_true, decide_eq_true_eq, ne_eq, and_assoc, or_iff_not_imp_left, not_not]

/-- The word of an instruction, where each field lies in its range. -/
theorem bits_encInstr {e : Eng} {i : TInstr} (h : instrFits e i = true) :
    let v := (encInstr i).toNat
    bitsOf v 63 58 = i.wait.alias_ ∧ bitsOf v 57 50 = i.wait.thr - 1 ∧ bitsOf v 49 49 = bit i.wait.consume ∧ bitsOf v 48 47 = i.wait.tmo ∧
      bitsOf v 46 41 = i.sig.alias_ ∧ bitsOf v 40 36 = i.sig.inc - 1 ∧ bitsOf v 35 30 = opCode i.op ∧ bitsOf v 29 0 = encOpnd i.op := by
  obtain ⟨ha, ht, ht', hm, hs, hi, hi', -, -, hop⟩ := instrFits_iff.1 h
  have hc := opCode_range i.op
  obtain ⟨top, fields⟩ := bits_wordOf (thr := i.wait.thr - 1) (inc := i.sig.inc - 1) (op := opCode i.op) ha (by omega)
    (bit_lt i.wait.consume) hm hs (by omega) (by omega) (encOpnd_lt hop)
  have word : (encInstr i).toNat = wordOf i.wait.alias_ (i.wait.thr - 1) (bit i.wait.consume) i.wait.tmo i.sig.alias_ (i.sig.inc - 1)
      (opCode i.op) (encOpnd i.op) := by
    rw [encInstr, BitVec.toNat_ofNat]
    exact Nat.mod_eq_of_lt top
  rw [word]
  exact fields

/-! ## O5 -/

/-- Settles O5: each field of the word stands at its place (`bits_encInstr`) and the operand field decodes back (`decodeOp_encOpnd`). -/
theorem decodeOfEncode : Obligations.DecodeOfEncode := by
  unfold Obligations.DecodeOfEncode
  intro e i h
  obtain ⟨-, ht, -, -, -, hi, -, noWait, noSig, hop⟩ := instrFits_iff.1 h
  obtain ⟨wsem, thr, wk, tmo, ssem, inc, op, opnd⟩ := bits_encInstr h
  have consume : (encInstr i).toNat.testBit 49 = i.wait.consume := bit_inj ((testBit_eq_bitsOf _ _).trans wk)
  rw [decodeInstr_eq_some, Ne, bitsOf_wait_eq_zero, wsem, thr, wk, tmo, ssem, inc, op, opnd, consume, Nat.sub_add_cancel ht, Nat.sub_add_cancel hi]
  refine ⟨?_, ?_, decodeOp_encOpnd hop, rfl, rfl⟩
  · rintro ⟨noAlias, set⟩
    simp [noWait noAlias, bit] at set
  · rintro ⟨noAlias, set⟩
    simp [noSig noAlias] at set

/-! ## O6 -/

/-- Settles O6: the fields of a word that decodes are in their ranges, and put back at their places they are the word (`wordOf_bits`). -/
theorem encodeOfDecode : Obligations.EncodeOfDecode := by
  unfold Obligations.EncodeOfDecode
  rintro e w ⟨wait, sig, op⟩ h
  obtain ⟨noWait, noSig, dec, rfl, rfl⟩ := decodeInstr_eq_some.1 h
  obtain ⟨fits, code, opnd⟩ := opFits_of_decodeOp (bitsOf_lt _ 29 0) dec
  have fit : instrFits e ⟨⟨bitsOf w.toNat 63 58, bitsOf w.toNat 57 50 + 1, w.toNat.testBit 49, bitsOf w.toNat 48 47⟩,
      ⟨bitsOf w.toNat 46 41, bitsOf w.toNat 40 36 + 1⟩, op⟩ = true := by
    refine instrFits_iff.2 ⟨bitsOf_lt _ 63 58, Nat.le_add_left .., bitsOf_lt _ 57 50, bitsOf_lt _ 48 47, bitsOf_lt _ 46 41, Nat.le_add_left ..,
      bitsOf_lt _ 40 36, fun noAlias => ?_, fun noAlias => ?_, fits⟩
    · rw [Ne, bitsOf_wait_eq_zero, ← testBit_eq_bitsOf] at noWait
      obtain ⟨thr, wk, tmo⟩ := not_not.1 fun set => noWait ⟨noAlias, set⟩
      have wk' : w.toNat.testBit 49 = false := bit_inj wk
      simp_all
    · have inc := not_not.1 fun set => noSig ⟨noAlias, set⟩
      simp_all
  refine ⟨fit, BitVec.eq_of_toNat_eq ?_⟩
  obtain ⟨wsem, thr, wk, tmo, ssem, inc, code', opnd'⟩ := bits_encInstr fit
  rw [← wordOf_bits (encInstr _).isLt, wsem, thr, wk, tmo, ssem, inc, code', opnd', code, opnd, testBit_eq_bitsOf]
  exact wordOf_bits w.isLt

/-! ## O4 -/

section
variable {e : Eng} {w : Word64}

/-- A word that waits on nothing and sets a field of its wait is illegal (R130). -/
theorem decodeInstr_of_wait (noAlias : bitsOf w.toNat 63 58 = 63) (set : bitsOf w.toNat 57 47 ≠ 0) : decodeInstr e w = none :=
  decodeInstr_eq_none fun _ h => (decodeInstr_eq_some.1 h).1 ⟨noAlias, set⟩

/-- A word that signals nothing and sets an increment is illegal (R130). -/
theorem decodeInstr_of_sig (noAlias : bitsOf w.toNat 46 41 = 63) (set : bitsOf w.toNat 40 36 ≠ 0) : decodeInstr e w = none :=
  decodeInstr_eq_none fun _ h => (decodeInstr_eq_some.1 h).2.1 ⟨noAlias, set⟩

/-- A word that decodes has its operation's opcode. -/
theorem opCode_of_decodeInstr {i : TInstr} (h : decodeInstr e w = some i) : opCode i.op = bitsOf w.toNat 35 30 := by
  obtain ⟨-, -, dec, -⟩ := decodeInstr_eq_some.1 h
  obtain ⟨-, code, -⟩ := opFits_of_decodeOp (bitsOf_lt _ 29 0) dec
  exact code

/-- OP 0x00 and 0x09 to 0x0F stand for no operation (R133). -/
theorem decodeInstr_of_code (h : bitsOf w.toNat 35 30 = 0 ∨ (9 ≤ bitsOf w.toNat 35 30 ∧ bitsOf w.toNat 35 30 < 16)) : decodeInstr e w = none :=
  decodeInstr_eq_none fun i dec => by
    have code := opCode_of_decodeInstr dec
    have range := opCode_range i.op
    omega

end

/-- Settles O4: a word that waits on or signals nothing with fields set, or of no operation's opcode, cannot decode (`decodeInstr_eq_some`). -/
theorem illegalWordsRefused : Obligations.IllegalWordsRefused := by
  unfold Obligations.IllegalWordsRefused
  intro e w v
  refine ⟨fun ⟨noAlias, set⟩ => decodeInstr_of_wait noAlias ?_, fun ⟨noAlias, set⟩ => decodeInstr_of_sig noAlias set, decodeInstr_of_code,
    fun ⟨lo, hi⟩ e' => ?_, fun i h => ?_⟩
  · rw [Ne, bitsOf_wait_eq_zero]
    tauto
  · exact Option.ext fun i => by rw [decodeInstr_eq_some, decodeInstr_eq_some, decodeOp_shared lo hi e e']
  · obtain ⟨-, -, -, wait, sig⟩ := decodeInstr_eq_some.1 h
    rw [wait, sig]
    exact ⟨rfl, rfl, testBit_eq_bitsOf _ _, rfl, rfl, rfl, opCode_of_decodeInstr h⟩

/-! ## O3 -/

theorem decodeInstr_nop (e : Eng) : decodeInstr e 0xFC007E0040000000#64 = some ⟨⟨63, 1, false, 0⟩, ⟨63, 1⟩, .nop⟩ := by
  cases e <;> decide +kernel

/-- Settles O3: the words written out are evaluated; zero has no operation's opcode, and all ones waits on nothing with its fields set. -/
theorem instructionWords : Obligations.InstructionWords := by
  unfold Obligations.InstructionWords
  refine ⟨decodeInstr_nop, Tests.test_decode_mm, Tests.test_decode_ld, Tests.test_decode_lane, Tests.test_decode_walk, Tests.test_decode_atom,
    Tests.test_decode_recv, fun e => ⟨?_, ?_⟩, by decide +kernel⟩
  · exact decodeInstr_of_code (.inl (by decide +kernel))
  · exact decodeInstr_of_wait (by decide +kernel) (by decide +kernel)

end Sys2Proof.Machine
end

section
/-! PROOF. The instructions of every stream past their wait (R131, R133 to R138, R163, R165). -/

namespace Sys2Proof.Machine

/-! ## What an engine's own moves leave of the part -/

/-- The tiles, the stores and the tile's other engines are as they were, and every register outside `A`. -/
structure State.OwnMove (s t : State) (g : Nat) (e : Eng) (A : Nat → Prop) : Prop where
  stores : s.SameStores t
  tiles : t.tiles = s.tiles
  others : ∀ f : Eng, f ≠ e → t.eng g f = s.eng g f
  regs : s.KeepsRegs t A

namespace State.OwnMove
variable {s t u : State} {g : Nat} {e : Eng} {A B : Nat → Prop}

theorem trans (h : s.OwnMove t g e A) (k : t.OwnMove u g e A) : s.OwnMove u g e A :=
  ⟨h.stores.trans k.stores, k.tiles.trans h.tiles, fun f ne => (k.others f ne).trans (h.others f ne), h.regs.trans k.regs⟩

theorem mono (h : s.OwnMove t g e A) (m : ∀ a, A a → B a) : s.OwnMove t g e B := ⟨h.stores, h.tiles, h.others, h.regs.mono m⟩

theorem of_setEng (s : State) (g : Nat) (e : Eng) (x : EngSt) : s.OwnMove (s.setEng g e x) g e A :=
  ⟨.of_setEng s g e x, State.setEng_tiles .., fun f ne => by rw [State.eng_setEng, if_neg fun h => ne h.2],
    State.keepsRegs_of_regs (State.setEng_regs ..)⟩

theorem of_modEng (s : State) (g : Nat) (e : Eng) (f : EngSt → EngSt) : s.OwnMove (s.modEng g e f) g e A := of_setEng s g e _

theorem of_onlyRegs (h : s.OnlyRegs t A) : s.OwnMove t g e A := by
  obtain ⟨same, regs⟩ := h
  refine ⟨⟨?_, ?_, ?_, ?_⟩, ?_, fun f _ => State.eng_congr ?_ g f, regs⟩ <;> rw [same]

end State.OwnMove

section Advance
variable (s : State) (g : Nat) (e : Eng) (dest : Nat) (jump : Bool)

/-- Of the engine itself, moving on changes the loops and the buffers. -/
theorem State.moveTo_own :
    s.OwnMove (s.moveTo g e dest jump) g e (fun a => a = R.TIL_SPC g (engIdx e)) ∧
      ((s.moveTo g e dest jump).eng g e).nextUid = (s.eng g e).nextUid := by
  unfold State.moveTo
  extract_lets x r old s₁ buf s₂
  have moved : s.OwnMove s₂ g e (fun a => a = R.TIL_SPC g (engIdx e)) ∧ (s₂.eng g e).nextUid = x.nextUid :=
    ⟨.trans (.of_onlyRegs (s.onlyRegs_fset_at _ rfl _)) (.of_setEng s₁ g e _), by rw [State.eng_setEng_same]⟩
  have drop (f : EngSt → EngSt) (hf : ∀ x, (f x).nextUid = x.nextUid) :
      s.OwnMove (s₂.modEng g e f) g e (fun a => a = R.TIL_SPC g (engIdx e)) ∧ ((s₂.modEng g e f).eng g e).nextUid = x.nextUid :=
    ⟨moved.1.trans (.of_modEng s₂ g e f), by rw [State.eng_modEng_same, hf, moved.2]⟩
  split
  · split
    · exact drop _ fun _ => rfl
    · exact drop _ fun _ => rfl
  · exact moved

theorem State.advance_own :
    s.OwnMove (s.advance g e dest jump) g e (fun a => a = R.TIL_SPC g (engIdx e)) ∧
      ((s.advance g e dest jump).eng g e).nextUid = (s.eng g e).nextUid := by
  obtain ⟨own, uid⟩ := (s.clearWait g e).moveTo_own g e dest jump
  rw [State.advance, State.stallAs]
  refine ⟨((OwnMove.of_modEng s g e _).trans own).trans (.of_modEng _ g e _), ?_⟩
  rw [State.eng_modEng_same, uid, State.clearWait, State.eng_modEng_same]

end Advance

/-- Time does not pass for an engine that moves on. -/
theorem State.now_advance (s : State) {g : Nat} (hg : g < 1536) (e : Eng) (dest : Nat) (jump : Bool) : (s.advance g e dest jump).now = s.now := by
  refine State.fget_of_rd rfl ((s.advance_own g e dest jump).1.regs _ ?_)
  have idx := engIdx_lt e
  simp only [R.TIL_SPC, til_eq hg, R.STW_TIME, Blk.stw]
  omega

/-! ## Completion with status 0 and no signal (R131, R163) -/

section Complete
variable (s : State) (g : Nat) (e : Eng)

theorem State.onlyRegs_istat (st : Nat) : s.OnlyRegs (s.istat g e st) fun a => a = R.TIL_ISTAT g (engIdx e) :=
  (s.onlyRegs_fset_at _ rfl _).trans (State.onlyRegs_fset_at _ _ rfl _)

theorem State.istat_get {st : Nat} (h : st < 2 ^ 8) :
    (s.istat g e st).fget (R.TIL_ISTAT g (engIdx e)) F.TIL_ISTAT_LAST = st ∧
      (s.istat g e st).fget (R.TIL_ISTAT g (engIdx e)) F.TIL_ISTAT_STICKY = s.fget (R.TIL_ISTAT g (engIdx e)) F.TIL_ISTAT_STICKY ||| st := by
  have sticky : (s.fset (R.TIL_ISTAT g (engIdx e)) F.TIL_ISTAT_LAST st).fget (R.TIL_ISTAT g (engIdx e)) F.TIL_ISTAT_STICKY =
      s.fget (R.TIL_ISTAT g (engIdx e)) F.TIL_ISTAT_STICKY := s.fget_fset_field _ F.TIL_ISTAT_LAST F.TIL_ISTAT_STICKY (by decide) rfl (by decide) _
  have widths : F.TIL_ISTAT_LAST.hi + 1 - F.TIL_ISTAT_LAST.lo = 8 ∧ F.TIL_ISTAT_STICKY.hi + 1 - F.TIL_ISTAT_STICKY.lo = 8 := by decide
  have old := fldGet_lt F.TIL_ISTAT_STICKY (s.rd (R.TIL_ISTAT g (engIdx e) + 8 * F.TIL_ISTAT_STICKY.half))
  rw [widths.2, ← State.fget] at old
  unfold State.istat
  dsimp only
  rw [sticky]
  refine ⟨(State.fget_fset_field _ _ F.TIL_ISTAT_STICKY F.TIL_ISTAT_LAST (by decide) rfl (by decide) _).trans (s.fget_fset_lt _ _ (by decide) ?_),
    State.fget_fset_lt _ _ _ (by decide) ?_⟩
  · rwa [widths.1]
  · rw [widths.2]
    exact Nat.or_lt_two_pow old h

/-- No flag leaves the tile's arithmetic status as it reads. -/
theorem State.onlyRegs_arStatus_zero : s.OnlyRegs (s.arStatus g 0) fun _ => False := by
  have same : s.rd (R.TIL_ARSTAT g) ||| BitVec.ofNat 64 (0 % 128) = s.rd (R.TIL_ARSTAT g) := BitVec.or_zero
  unfold State.arStatus
  simp only [Nat.zero_testBit, Bool.false_eq_true, if_false]
  refine ⟨rfl, fun a _ => ?_⟩
  rw [same, State.rd_wr]
  split
  next h => rw [h]
  next => rfl

theorem State.onlyRegs_tilCnt (a : Nat) {f : Fld} (h : f.half = 0) (n : Nat) : s.OnlyRegs (s.tilCnt g a f n) fun b => b = a := by
  unfold State.tilCnt
  split
  · exact .refl s _
  · exact s.onlyRegs_fset_at a h _

theorem State.fget_tilCnt (a : Nat) {f : Fld} (h : f.ok) (n : Nat) :
    (s.tilCnt g a f n).fget a f = if s.flag (R.TIL_CNTCTL g) F.TIL_CNTCTL_FREEZE then s.fget a f else min (fldTop f) (s.fget a f + n) := by
  unfold State.tilCnt
  split
  · rfl
  · refine s.fget_fset_lt a f h (Nat.lt_of_le_of_lt (Nat.min_le_left _ _) ?_)
    exact Nat.sub_lt (Nat.two_pow_pos _) one_pos

variable (inc ia : Nat)

theorem State.complete_silent : s.complete g e ⟨63, inc⟩ ia 0 =
    ((s.istat g e 0).arStatus g 0).tilCnt g (R.TIL_ECNTA g (engIdx e)) F.TIL_ECNTA_RETIRED 1 := by
  unfold State.complete
  simp only [Nat.zero_testBit, Bool.false_eq_true, if_true, if_false]

theorem State.onlyRegs_complete_silent : s.OnlyRegs (s.complete g e ⟨63, inc⟩ ia 0) fun a =>
    a = R.TIL_ISTAT g (engIdx e) ∨ a = R.TIL_ECNTA g (engIdx e) := by
  have status := s.onlyRegs_istat g e 0
  have flags := (s.istat g e 0).onlyRegs_arStatus_zero g
  have count := ((s.istat g e 0).arStatus g 0).onlyRegs_tilCnt g (R.TIL_ECNTA g (engIdx e)) (f := F.TIL_ECNTA_RETIRED) rfl 1
  rw [State.complete_silent]
  exact ((status.mono fun _ => .inl).trans (flags.mono fun _ => False.elim)).trans (count.mono fun _ => .inr)

theorem State.complete_silent_get :
    (s.complete g e ⟨63, inc⟩ ia 0).fget (R.TIL_ISTAT g (engIdx e)) F.TIL_ISTAT_LAST = 0 ∧
      (s.complete g e ⟨63, inc⟩ ia 0).fget (R.TIL_ISTAT g (engIdx e)) F.TIL_ISTAT_STICKY =
        s.fget (R.TIL_ISTAT g (engIdx e)) F.TIL_ISTAT_STICKY ∧
      (s.complete g e ⟨63, inc⟩ ia 0).fget (R.TIL_ECNTA g (engIdx e)) F.TIL_ECNTA_RETIRED =
        if s.flag (R.TIL_CNTCTL g) F.TIL_CNTCTL_FREEZE then s.fget (R.TIL_ECNTA g (engIdx e)) F.TIL_ECNTA_RETIRED
        else min (fldTop F.TIL_ECNTA_RETIRED) (s.fget (R.TIL_ECNTA g (engIdx e)) F.TIL_ECNTA_RETIRED + 1) := by
  have idx := engIdx_lt e
  obtain ⟨last, sticky⟩ := s.istat_get g e (st := 0) (by decide)
  have flagged := (s.istat g e 0).onlyRegs_arStatus_zero g
  have counted := State.onlyRegs_tilCnt ((s.istat g e 0).arStatus g 0) g (R.TIL_ECNTA g (engIdx e)) (f := F.TIL_ECNTA_RETIRED) rfl 1
  rw [State.complete_silent]
  have istat (f : Fld) (hf : f.half = 0) :
      (((s.istat g e 0).arStatus g 0).tilCnt g (R.TIL_ECNTA g (engIdx e)) F.TIL_ECNTA_RETIRED 1).fget (R.TIL_ISTAT g (engIdx e)) f =
      (s.istat g e 0).fget (R.TIL_ISTAT g (engIdx e)) f :=
    State.fget_of_rd hf ((counted.2 _ (by simp only [R.TIL_ISTAT, R.TIL_ECNTA]; omega)).trans (flagged.2 _ id))
  have before {a : Nat} {f : Fld} (hf : f.half = 0) (ne : a ≠ R.TIL_ISTAT g (engIdx e)) :
      ((s.istat g e 0).arStatus g 0).fget a f = s.fget a f :=
    State.fget_of_rd hf ((flagged.2 _ id).trans ((s.onlyRegs_istat g e 0).2 _ ne))
  refine ⟨(istat _ rfl).trans last, ((istat _ rfl).trans sticky).trans (Nat.or_zero _), ?_⟩
  rw [State.fget_tilCnt _ _ _ (by decide), before rfl (by simp only [R.TIL_ISTAT, R.TIL_ECNTA]; omega),
    State.flag_congr (before rfl (by simp only [R.TIL_ISTAT, R.TIL_CNTCTL]; omega))]

end Complete

/-! ## The rows (R77, R134) -/

section Rows
variable {s : State} {g : Tile} {e : Eng} {h : Sig} {op : TOp}

theorem exec_of_canIssue {i : Instr} (row : ∀ s, exec i s = onLive s fun s => s.row g e h op) (c : s.CanIssue g e h op) :
    exec i s = .next (s.issueOp g e h op) := by
  rw [row, onLive_live c.live, c.row]

/-- A LOOP whose body passes the checks is issued as the others are. -/
theorem State.CanIssue.loopRow {k n len : Nat} (c : s.CanIssue g e h (.loop k n len)) (hl : 0 < len)
    (body : loopChk (cellAt (s.soff g e) (s.slen g e) (s.eng g e).buf) e (s.eng g e).loops (s.spc g e) k len = .ok) :
    s.loopRow g e h k n len = s.issueOp g e h (.loop k n len) := by
  obtain ⟨-, run, sound, going, free, legal, -⟩ := c
  unfold State.loopRow
  dsimp only
  rw [if_neg (by simp [run, sound, going, free]), if_neg hl.ne', legal, body]

end Rows

/-! ## What each does at issue (R133 to R138, R165) -/

section Issue
variable {s : State} {g : Nat} {e : Eng} {h : Sig}

theorem State.issueOp_loop_zero (k len : Nat) :
    s.issueOp g e h (.loop k 0 len) = (s.advance g e (s.spc g e + 8 + 8 * len) true).complete g e h (s.iaddr g e) 0 := by
  unfold State.issueOp
  dsimp only
  rw [if_pos rfl]

theorem State.issueOp_loop_enter {n : Nat} (hn : n ≠ 0) (k len : Nat) : s.issueOp g e h (.loop k n len) =
    ((s.advance g e (s.spc g e + 8) false).modEng g e fun x => { x with loops := ⟨k, 0, n, s.spc g e + 8, len⟩ :: x.loops }).complete g e h
      (s.iaddr g e) 0 := by
  unfold State.issueOp
  dsimp only
  rw [if_neg hn]

theorem State.issueOp_brv_slot {p v j : Nat} (read : s.brvRead g p v = .slot j) : s.issueOp g e h (.brv p v) =
    ((s.modTile g fun t => { t with varUnread := if t.varUnread.testBit (p % 4) then t.varUnread - 2 ^ (p % 4) else t.varUnread }).advance g e
      (s.spc g e + 8 + 8 * j) false).complete g e h (s.iaddr g e) 0 := by
  unfold State.issueOp
  dsimp only
  rw [read]

theorem State.issueOp_yield_pass (req : s.flag (R.TIL_YREQ g) F.TIL_YREQ_REQ = false) (id : Nat) :
    s.issueOp g e h (.yield id) = (s.advance g e (s.spc g e + 8) false).complete g e h (s.iaddr g e) 0 := by
  unfold State.issueOp
  dsimp only
  rw [req, if_neg Bool.false_ne_true]

theorem State.issueOp_yield_hold (req : s.flag (R.TIL_YREQ g) F.TIL_YREQ_REQ = true) (id : Nat) :
    s.issueOp g e h (.yield id) = (s.holdWait g e).modEng g e fun x => { x with holdY := some id, holdSig := h } := by
  unfold State.issueOp
  dsimp only
  rw [if_pos req]

/-- An engine held for its wait keeps its position and the Loft. -/
theorem State.holdWait_frame (s : State) (g : Nat) (e : Eng) : (s.holdWait g e).spc g e = s.spc g e ∧ (s.holdWait g e).loft = s.loft := by
  have idx := engIdx_lt e
  have counted : s.OnlyRegs (s.countStall g e .wait) fun a => a = R.TIL_ECNTB g (engIdx e) := s.onlyRegs_tilCnt g _ rfl 1
  refine ⟨(State.spc_congr (State.modEng_regs ..) g e).trans (State.fget_of_rd rfl (counted.2 _ ?_)), (State.modEng_loft ..).trans ?_⟩
  · simp only [R.TIL_SPC, R.TIL_ECNTB]
    omega
  · rw [counted.1]

/-- FENCE and END go in flight behind what their engine has, and hold no credit. -/
theorem State.launch_advance (s : State) (g : Nat) (e : Eng) (h : Sig) (op ia : Nat) :
    let t := (s.advance g e (s.spc g e + 8) false).launch g e op h ia 0 none 0 0
    (t.eng g e).infl = (s.eng g e).infl ++ [⟨(s.eng g e).nextUid, op, ia, h, 0, none, 0, 0, [], []⟩] ∧
      t.spc g e = (nextPos (s.eng g e).loops (s.spc g e + 8)).2 % 2 ^ 40 ∧ t.loft = s.loft ∧ t.tiles = s.tiles := by
  obtain ⟨own, uid⟩ := s.advance_own g e (s.spc g e + 8) false
  obtain ⟨⟨infl, -, spc, -⟩, -⟩ := s.engAt_advance g e (s.spc g e + 8) false
  refine ⟨?_, (State.spc_congr (State.modEng_regs ..) g e).trans spc, (State.modEng_loft ..).trans own.stores.loft,
    (State.modEng_tiles ..).trans own.tiles⟩
  rw [State.launch, State.eng_modEng_same, infl, uid]

end Issue

/-- An engine whose latest instruction in flight is an END has ended its stream. -/
theorem EngSt.over_of_infl {x : EngSt} {l : List InFlight} {r : InFlight} (last : x.infl = l ++ [r]) (ends : r.op = 0x03) : x.over = true := by
  simp [EngSt.over, last, ends]

/-! ## O24 -/

section Clauses
variable (s : State) (g : Tile) (e : Eng) (h : Sig)

theorem nop_silent (inc : Nat) (c : s.CanIssue g e ⟨63, inc⟩ .nop) : Completes (.nop g e ⟨63, inc⟩) s fun t =>
    t.spc g e = (nextPos (s.eng g e).loops (s.spc g e + 8)).2 % 2 ^ 40 ∧
    t.fget (R.TIL_ISTAT g (engIdx e)) F.TIL_ISTAT_LAST = 0 ∧
    t.fget (R.TIL_ISTAT g (engIdx e)) F.TIL_ISTAT_STICKY = s.fget (R.TIL_ISTAT g (engIdx e)) F.TIL_ISTAT_STICKY ∧
    t.fget (R.TIL_ECNTA g (engIdx e)) F.TIL_ECNTA_RETIRED =
      (if s.flag (R.TIL_CNTCTL g) F.TIL_CNTCTL_FREEZE then s.fget (R.TIL_ECNTA g (engIdx e)) F.TIL_ECNTA_RETIRED
       else min (fldTop F.TIL_ECNTA_RETIRED) (s.fget (R.TIL_ECNTA g (engIdx e)) F.TIL_ECNTA_RETIRED + 1)) ∧
    (s.KeepsRegs t fun a => a = R.TIL_SPC g (engIdx e) ∨ a = R.TIL_ISTAT g (engIdx e) ∨ a = R.TIL_ECNTA g (engIdx e)) ∧
    t.loft = s.loft ∧ t.loftPsn = s.loftPsn ∧ t.tiles = s.tiles ∧ t.net = s.net ∧
    (∀ e2 : Eng, e2 ≠ e → t.eng g e2 = s.eng g e2) := by
  obtain ⟨own, -⟩ := s.advance_own g e (s.spc g e + 8) false
  obtain ⟨⟨-, -, spc, -⟩, -⟩ := s.engAt_advance g e (s.spc g e + 8) false
  have done := (s.advance g e (s.spc g e + 8) false).onlyRegs_complete_silent g e inc (s.iaddr g e)
  obtain ⟨last, sticky, retired⟩ := (s.advance g e (s.spc g e + 8) false).complete_silent_get g e inc (s.iaddr g e)
  have all : s.OwnMove _ g e fun a => a = R.TIL_SPC g (engIdx e) ∨ a = R.TIL_ISTAT g (engIdx e) ∨ a = R.TIL_ECNTA g (engIdx e) :=
    (own.mono fun _ => .inl).trans (.of_onlyRegs (done.mono fun _ => .inr))
  have idx := engIdx_lt e
  have other {a : Nat} {f : Fld} (hf : f.half = 0) (ne : a ≠ R.TIL_SPC g (engIdx e)) :
      (s.advance g e (s.spc g e + 8) false).fget a f = s.fget a f := State.fget_of_rd hf (own.regs _ ne)
  refine ⟨_, exec_of_canIssue (fun _ => rfl) c, (State.fget_of_rd rfl (done.2 _ ?_)).trans spc, last, sticky.trans (other rfl ?_),
    retired.trans ?_, all.regs, all.stores.loft, all.stores.psn, all.tiles, all.stores.net, all.others⟩
  · simp only [R.TIL_SPC, R.TIL_ISTAT, R.TIL_ECNTA]
    omega
  · simp only [R.TIL_SPC, R.TIL_ISTAT]
    omega
  · rw [State.flag_congr (other rfl (by simp only [R.TIL_SPC, R.TIL_CNTCTL]; omega)), other rfl (by simp only [R.TIL_SPC, R.TIL_ECNTA]; omega)]

theorem hint_reports (cls : Nat) (lead dur : BitVec 12) (level : Fin 4) (c : s.CanIssue g e h (.hint cls lead.toNat dur.toNat level)) :
    exec (.hint g e h cls lead dur level) s = .next
      (((s.advance g e (s.spc g e + 8) false).report (.hint g cls lead.toNat dur.toNat level s.now)).complete g e h (s.iaddr g e) 0) := by
  rw [exec_of_canIssue (fun _ => rfl) c]
  unfold State.issueOp State.hint
  dsimp only
  rw [s.now_advance g.isLt e]

theorem loop_enters (k : Fin 4) (n : BitVec 16) (len : Nat) (c : s.CanIssue g e h (.loop k n.toNat len)) (hl : 0 < len)
    (body : loopChk (cellAt (s.soff g e) (s.slen g e) (s.eng g e).buf) e (s.eng g e).loops (s.spc g e) k len = .ok) :
    (n = 0 → exec (.loop g e h k n len) s = .next
      ((s.advance g e (s.spc g e + 8 + 8 * len) true).complete g e h (s.iaddr g e) 0)) ∧
    (n ≠ 0 → exec (.loop g e h k n len) s = .next
      (((s.advance g e (s.spc g e + 8) false).modEng g e fun x =>
        { x with loops := ⟨k, 0, n.toNat, s.spc g e + 8, len⟩ :: x.loops }).complete g e h (s.iaddr g e) 0)) := by
  have row : exec (.loop g e h k n len) s = .next (s.issueOp g e h (.loop k n.toNat len)) :=
    (onLive_live c.live fun s => s.loopRow g e h k n.toNat len).trans (congrArg _ (c.loopRow hl body))
  have zero : n.toNat = 0 ↔ n = 0 := (BitVec.toNat_inj (y := 0#16))
  refine ⟨fun z => ?_, fun nz => ?_⟩
  · rw [row, zero.mpr z, State.issueOp_loop_zero]
  · rw [row, State.issueOp_loop_enter (mt zero.mp nz)]

theorem yield_holds (yid : BitVec 16) (c : s.CanIssue g e h (.yield yid.toNat)) (req : s.flag (R.TIL_YREQ g) F.TIL_YREQ_REQ = true) :
    Completes (.yield g e h yid) s fun t =>
      (t.eng g e).holdY = some yid.toNat ∧ (t.eng g e).holdSig = h ∧ t.spc g e = s.spc g e ∧ t.loft = s.loft := by
  obtain ⟨spc, loft⟩ := s.holdWait_frame g e
  refine ⟨_, (exec_of_canIssue (fun _ => rfl) c).trans (congrArg _ (State.issueOp_yield_hold req _)), ?_, ?_, ?_,
    (State.modEng_loft ..).trans loft⟩
  · rw [State.eng_modEng_same]
  · rw [State.eng_modEng_same]
  · exact (State.spc_congr (State.modEng_regs ..) g e).trans spc

theorem fence_flies (c : s.CanIssue g e h .fence) : Completes (.fence g e h) s fun t =>
    (t.eng g e).infl = (s.eng g e).infl ++ [⟨(s.eng g e).nextUid, 0x02, s.iaddr g e, h, 0, none, 0, 0, [], []⟩] ∧
    t.spc g e = (nextPos (s.eng g e).loops (s.spc g e + 8)).2 % 2 ^ 40 ∧ t.loft = s.loft ∧ t.tiles = s.tiles :=
  ⟨_, exec_of_canIssue (fun _ => rfl) c, s.launch_advance g e h 0x02 (s.iaddr g e)⟩

theorem endStream_flies (c : s.CanIssue g e h .endStream) : Completes (.endStream g e h) s fun t =>
    (t.eng g e).infl = (s.eng g e).infl ++ [⟨(s.eng g e).nextUid, 0x03, s.iaddr g e, h, 0, none, 0, 0, [], []⟩] ∧
    (t.eng g e).over = true ∧ t.loft = s.loft ∧ t.tiles = s.tiles := by
  obtain ⟨infl, -, loft, tiles⟩ := s.launch_advance g e h 0x03 (s.iaddr g e)
  exact ⟨_, exec_of_canIssue (fun _ => rfl) c, infl, EngSt.over_of_infl infl rfl, loft, tiles⟩

end Clauses

/-- Settles O24: an engine that can issue issues (`exec_of_canIssue`), and each clause reads what the operation does then. -/
theorem plainInstructionsComplete : Obligations.PlainInstructionsComplete := by
  unfold Obligations.PlainInstructionsComplete
  refine ⟨fun s g e h c => exec_of_canIssue (fun _ => rfl) c, nop_silent, hint_reports,
    fun s g e h off c => exec_of_canIssue (fun _ => rfl) c, loop_enters,
    fun s g e h point v j c read => ?_, fun s g e h yid c => ⟨fun req => ?_, yield_holds s g e h yid c⟩, fence_flies, endStream_flies⟩
  · rw [exec_of_canIssue (fun _ => rfl) c, State.issueOp_brv_slot read]
  · rw [exec_of_canIssue (fun _ => rfl) c, State.issueOp_yield_pass req]

end Sys2Proof.Machine
end

section
/-! PROOF. Parking, yield requests and the writes of a tile's position registers (R128, R136, R165, R167, R168, R173). -/

namespace Sys2Proof.Machine

/-! ## Parking (R165) -/

section Park
variable {s : State} {g : Nat}

/-- What a tile that parks shows: AT set, and one more field of TIL_YREQ. -/
theorem State.parked_get (s : State) (g : Nat) {f : Fld} {n : Nat} (hf : f.ok) (half : f.half = 0) (apart : 1 < f.lo)
    (hn : n < 2 ^ (f.hi + 1 - f.lo)) :
    let t := (s.fset (R.TIL_YREQ g) F.TIL_YREQ_AT 1).fset (R.TIL_YREQ g) f n
    t.fget (R.TIL_YREQ g) F.TIL_YREQ_AT = 1 ∧ t.fget (R.TIL_YREQ g) f = n ∧ s.OnlyRegs t fun a => a = R.TIL_YREQ g :=
  ⟨(State.fget_fset_field _ _ f F.TIL_YREQ_AT hf half (.inl apart) n).trans (s.fget_fset_lt _ _ (by decide) (by decide)),
    State.fget_fset_lt _ _ _ hf hn, (s.onlyRegs_fset_at _ rfl 1).trans (State.onlyRegs_fset_at _ _ half n)⟩

/-- A quiet tile under a request whose engines have all ended, or hold at a yield without a fault, is ready to park. -/
structure State.ParkReady (s : State) (g : Nat) : Prop where
  req : s.flag (R.TIL_YREQ g) F.TIL_YREQ_REQ = true
  at_ : s.flag (R.TIL_YREQ g) F.TIL_YREQ_AT = false
  quiet : s.quiet g = true
  there : ∀ e : Eng, (s.eng g e).ended = true ∨ ((s.eng g e).holdY.isSome = true ∧ (s.eng g e).faulted = false)

/-- None of the conditions under which a tile stays as it is holds. -/
theorem State.ParkReady.passes (h : s.ParkReady g) :
    ¬ (¬ s.flag (R.TIL_YREQ g) F.TIL_YREQ_REQ = true ∨ s.flag (R.TIL_YREQ g) F.TIL_YREQ_AT = true ∨
      ¬ (engsAll.all fun e => (s.eng g e).ended || ((s.eng g e).holdY.isSome && !(s.eng g e).faulted)) = true ∨ ¬ s.quiet g = true) := by
  have all : (engsAll.all fun e => (s.eng g e).ended || ((s.eng g e).holdY.isSome && !(s.eng g e).faulted)) = true :=
    List.all_eq_true.mpr fun e _ => by simpa using h.there e
  simp [h.req, h.at_, h.quiet, all]

theorem State.park_ended (h : s.ParkReady g) (free : ∀ e : Eng, (s.eng g e).holdY = none) :
    s.park g = (s.fset (R.TIL_YREQ g) F.TIL_YREQ_AT 1).fset (R.TIL_YREQ g) F.TIL_YREQ_ENDED 1 := by
  have first : (engsAll.findSome? fun e => (s.eng g e).holdY) = none := List.findSome?_eq_none_iff.mpr fun e _ => free e
  unfold State.park
  dsimp only
  rw [if_neg h.passes, first]

/-- Where every engine that holds does so at one ID, that is the first ID found and no engine holds at another. -/
theorem State.park_at {y : Nat} (h : s.ParkReady g) (same : ∀ e : Eng, (s.eng g e).holdY = none ∨ (s.eng g e).holdY = some y)
    {e : Eng} (holds : (s.eng g e).holdY = some y) :
    s.park g = (s.fset (R.TIL_YREQ g) F.TIL_YREQ_AT 1).fset (R.TIL_YREQ g) F.TIL_YREQ_ID y := by
  have first : (engsAll.findSome? fun e => (s.eng g e).holdY) = some y := by
    cases k : engsAll.findSome? fun e => (s.eng g e).holdY with
    | none => exact absurd holds (by simp [List.findSome?_eq_none_iff.mp k e (mem_engsAll e)])
    | some x =>
      obtain ⟨f, -, hf⟩ := List.exists_of_findSome?_eq_some k
      rcases same f with n | n
      · exact absurd hf (by simp [n])
      · exact hf.symm.trans n
  unfold State.park
  dsimp only
  rw [if_neg h.passes, first]
  dsimp only
  split
  next f k =>
    have other := List.find?_some k
    rcases same f with n | n <;> simp [n] at other
  next => rfl

end Park

/-! ## Yield requests (R165) -/

section Release
variable {s : State} {g : Nat} {e : Eng}

theorem State.yieldRelease_free (h : (s.eng g e).holdY = none) : s.yieldRelease g e = s := if_pos h

theorem State.yieldRelease_faulted (h : (s.eng g e).holdY ≠ none) (f : (s.eng g e).faulted = true) :
    s.yieldRelease g e = s.setEng g e { s.eng g e with holdY := none } := (if_neg h).trans (if_pos f)

theorem State.yieldRelease_passes (h : (s.eng g e).holdY ≠ none) (f : (s.eng g e).faulted = false) : s.yieldRelease g e =
    (((s.setEng g e { s.eng g e with holdY := none }).clearWait g e).moveTo g e (s.spc g e + 8) false).complete g e (s.eng g e).holdSig
      (s.iaddr g e) 0 := by
  have spc (x : EngSt) : ((s.setEng g e x).clearWait g e).spc g e = s.spc g e :=
    State.spc_congr ((State.modEng_regs ..).trans (State.setEng_regs ..)) g e
  unfold State.yieldRelease
  dsimp only
  rw [if_neg h, if_neg (by simp [f]), spc]

end Release

/-! ## The position registers (R128, R167, R168, R173) -/

section Position
variable {s : State} {g : Nat} {e : Eng}

theorem State.spcWrite_taken (stop : s.runBit g e = false) (idle : (s.eng g e).infl = []) (off : Nat) :
    s.spcWrite g e off = (s.setSpc g e (off / 8 * 8)).setEng g e
      { EngSt.idle with nextUid := (s.eng g e).nextUid, faulted := (s.eng g e).faulted, wait := (s.eng g e).wait, wf := (s.eng g e).wf,
                        wia := (s.eng g e).wia, timer := (s.eng g e).timer, rsv := (s.eng g e).rsv } := by
  unfold State.spcWrite
  dsimp only
  rw [if_neg (by simp [stop, idle])]

theorem State.pbaseWrite_taken (run : s.fget (R.TIL_CTL g) F.TIL_CTL_RUN = 0) (v : Nat) :
    s.pbaseWrite g v = s.fset (R.TIL_PBASE g) F.TIL_PBASE_ADDR (v / 64) := if_pos run

theorem State.dbaseWrite_taken (stop : s.runBit g e = false) (idle : (s.eng g e).infl = []) (v : Nat) :
    s.dbaseWrite g e v = s.fset (R.TIL_DBASE g (engIdx e)) F.TIL_DBASE_BASE (v / 2048 % 2048) :=
  if_pos (by simp [stop, idle])

/-- The field of TIL_PBASE holds every 64-byte multiple. -/
theorem State.pbase_fset (s : State) (g : Nat) {v : Nat} (h : v < 2 ^ 64) :
    (s.fset (R.TIL_PBASE g) F.TIL_PBASE_ADDR (v / 64)).fget (R.TIL_PBASE g) F.TIL_PBASE_ADDR = v / 64 := by
  have width : F.TIL_PBASE_ADDR.hi + 1 - F.TIL_PBASE_ADDR.lo = 58 := by decide
  refine s.fget_fset_lt _ _ (by decide) ?_
  rw [width]
  omega

/-- A variable marked as not yet read. -/
theorem testBit_marked (v j : Nat) : (if v.testBit j then v else v + 2 ^ j).testBit j = true := by
  split
  next h => exact h
  next h => simpa [Nat.add_comm v, Nat.testBit_two_pow_add_eq] using h

/-- The three fields of a variable, written one after the other. -/
theorem State.varFields_get (s : State) (g j : Nat) {point variant : Nat} (hp : point < 2 ^ 8) (hv : variant < 2 ^ 6) (valid : Bool) :
    let t := ((s.fset (R.TIL_VAR g j) F.TIL_VAR_POINT point).fset (R.TIL_VAR g j) F.TIL_VAR_VARIANT variant).fset (R.TIL_VAR g j) F.TIL_VAR_VALID
      (bit valid)
    t.fget (R.TIL_VAR g j) F.TIL_VAR_POINT = point ∧ t.fget (R.TIL_VAR g j) F.TIL_VAR_VARIANT = variant ∧
      t.fget (R.TIL_VAR g j) F.TIL_VAR_VALID = bit valid ∧ s.OnlyRegs t fun a => a = R.TIL_VAR g j := by
  have widths : F.TIL_VAR_POINT.hi + 1 - F.TIL_VAR_POINT.lo = 8 ∧ F.TIL_VAR_VARIANT.hi + 1 - F.TIL_VAR_VARIANT.lo = 6 ∧
      F.TIL_VAR_VALID.hi + 1 - F.TIL_VAR_VALID.lo = 1 := by decide
  have apart (t : State) (f k : Fld) (hf : f.ok) (half : f.half = k.half) (d : k.hi < f.lo ∨ f.hi < k.lo) (n : Nat) :
      (t.fset (R.TIL_VAR g j) f n).fget (R.TIL_VAR g j) k = t.fget (R.TIL_VAR g j) k := t.fget_fset_field _ f k hf half d n
  intro t
  refine ⟨?_, ?_, State.fget_fset_lt _ _ _ (by decide) (widths.2.2 ▸ bit_lt valid),
    ((s.onlyRegs_fset_at _ rfl _).trans (State.onlyRegs_fset_at _ _ rfl _)).trans (State.onlyRegs_fset_at _ _ rfl _)⟩
  · exact (apart _ F.TIL_VAR_VALID F.TIL_VAR_POINT (by decide) rfl (by decide) _).trans
      ((apart _ F.TIL_VAR_VARIANT F.TIL_VAR_POINT (by decide) rfl (by decide) _).trans (s.fget_fset_lt _ _ (by decide) (widths.1 ▸ hp)))
  · exact (apart _ F.TIL_VAR_VALID F.TIL_VAR_VARIANT (by decide) rfl (by decide) _).trans
      (State.fget_fset_lt _ _ _ (by decide) (widths.2.1 ▸ hv))

theorem State.varWrite_get (s : State) (g j : Nat) {point variant : Nat} (hp : point < 2 ^ 8) (hv : variant < 2 ^ 6) (valid : Bool) :
    let t := s.varWrite g j point variant valid
    t.fget (R.TIL_VAR g j) F.TIL_VAR_POINT = point ∧ t.fget (R.TIL_VAR g j) F.TIL_VAR_VARIANT = variant ∧
      t.fget (R.TIL_VAR g j) F.TIL_VAR_VALID = bit valid ∧ (t.tile g).varUnread.testBit j = true ∧
      (∀ a, a ≠ R.TIL_VAR g j → t.rd a = s.rd a) ∧ t.loft = s.loft ∧ t.engs = s.engs := by
  unfold State.varWrite
  dsimp only
  generalize hu : (s.modTile g fun t => { t with varUnread := if t.varUnread.testBit j then t.varUnread else t.varUnread + 2 ^ j }) = u
  obtain ⟨fp, fv, fb, same, regs⟩ := u.varFields_get g j hp hv valid
  refine ⟨fp, fv, fb, ?_, fun a ha => (regs a ha).trans ?_, ?_, ?_⟩
  · rw [State.tile_congr (s := u) (by rw [same]), ← hu, State.tile_modTile_same]
    exact testBit_marked _ j
  · exact State.rd_congr (by rw [← hu, State.modTile_regs]) a
  · rw [same, ← hu, State.modTile_loft]
  · rw [same, ← hu, State.modTile_engs]

end Position

/-! ## O26 -/

/-- A row's effect on a live part. -/
theorem completes_of_row {i : Instr} {f : State → State} {s t : State} {P : State → Prop} (row : ∀ s, exec i s = onLive s f) (hl : s.Live)
    (h : f s = t) (hp : P t) : Completes i s P :=
  ⟨t, (row s).trans ((onLive_live hl f).trans (congrArg _ h)), hp⟩

theorem spcWrite_completes (s : State) (g : Tile) (e : Eng) (off : Nat) (hl : s.Live) (stop : s.runBit g e = false)
    (idle : (s.eng g e).infl = []) : Completes (.tilSpcWrite g e off) s fun t =>
      t.spc g e = off / 8 * 8 % 2 ^ 40 ∧ (t.eng g e).wait = (s.eng g e).wait ∧ (t.eng g e).wf = (s.eng g e).wf ∧
      (t.eng g e).timer = (s.eng g e).timer ∧ (t.eng g e).buf = [] ∧ (t.eng g e).bbuf = [] ∧ (t.eng g e).loops = [] ∧
      (t.eng g e).ended = false ∧ (t.eng g e).faulted = (s.eng g e).faulted ∧
      (∀ a, a ≠ R.TIL_SPC g (engIdx e) → t.rd a = s.rd a) ∧ t.loft = s.loft ∧ t.tiles = s.tiles := by
  refine completes_of_row (fun _ => rfl) hl (State.spcWrite_taken stop idle off) ?_
  rw [State.eng_setEng_same]
  refine ⟨(State.spc_congr (State.setEng_regs ..) g e).trans (s.spc_setSpc g e _), rfl, rfl, rfl, rfl, rfl, rfl, rfl, rfl, fun a ha => ?_,
    (State.setEng_loft ..).trans (State.fset_loft ..), (State.setEng_tiles ..).trans (State.fset_tiles ..)⟩
  exact (State.rd_congr (State.setEng_regs ..) a).trans (s.rd_fset_ne rfl ha _)

/-- Settles O26: each write is taken under its condition, a request's end is a release of each engine, and a tile that is ready parks. -/
theorem positionRegistersComplete : Obligations.PositionRegistersComplete := by
  unfold Obligations.PositionRegistersComplete
  refine ⟨fun s g hl req at_ quiet ended => ?_, fun s g y hl hy req at_ quiet engs ⟨e, holds⟩ => ?_,
    fun s g hl => ⟨onLive_live hl fun s => s.yreqWrite g true, onLive_live hl fun s => s.yreqWrite g false⟩,
    fun s g e => ⟨State.yieldRelease_free, State.yieldRelease_faulted, State.yieldRelease_passes⟩, spcWrite_completes,
    fun s g addr hl run => ?_, fun s g e base hl stop idle => ?_, fun s g j point variant valid hl => ?_⟩
  · have ready : s.ParkReady g := ⟨req, at_, quiet, fun e => .inl (ended e).1⟩
    exact completes_of_row (fun _ => rfl) hl (State.park_ended ready fun e => (ended e).2) (s.parked_get g (by decide) rfl (by decide) (by decide))
  · have ready : s.ParkReady g := ⟨req, at_, quiet, fun f => (engs f).imp And.left fun ⟨at_y, sound⟩ => ⟨by rw [at_y]; rfl, sound⟩⟩
    exact completes_of_row (fun _ => rfl) hl (State.park_at ready (fun f => (engs f).imp And.right And.left) holds)
      (s.parked_get g (by decide) rfl (by decide) hy)
  · exact completes_of_row (fun _ => rfl) hl (State.pbaseWrite_taken run _) ⟨s.pbase_fset g addr.isLt, s.onlyRegs_fset_at _ rfl _⟩
  · exact completes_of_row (fun _ => rfl) hl (State.dbaseWrite_taken stop idle _)
      ⟨s.fget_fset_lt _ _ (by decide) (Nat.mod_lt _ (by decide)), s.onlyRegs_fset_at _ rfl _⟩
  · exact completes_of_row (fun _ => rfl) hl rfl (s.varWrite_get g j point.isLt variant.isLt valid)

end Sys2Proof.Machine
end

section
/-! PROOF. PROG_LOAD, PROG_START and PROG_WHERE (R125, R166, R440, R487). -/

namespace Sys2Proof.Machine

/-! ## A measurement (R487, R488) -/

theorem State.onlyRegs_putRegBytes (s : State) (a n : Nat) (l : List Byte) : s.OnlyRegs (s.putRegBytes a n l) fun b => ∃ i < n, b = a + 8 * i :=
  State.onlyRegs_each _ _ _ (fun s i hi => s.onlyRegs_wr _ _ _ ⟨i, List.mem_range.mp hi, rfl⟩) s

/-- The measurement registers stand in the security module, apart from the steward's and the tiles'. -/
theorem measReg_range {r i : Nat} (hr : r < 32) (hi : i < 4) : Blk.sec + 0x1000 ≤ measReg r + 8 * i ∧ measReg r + 8 * i < Blk.sec + 0x3000 := by
  unfold measReg R.SEC_MEAS R.SEC_PMEAS
  split <;> omega

section Measure
variable (s : State) {r : Nat} (kind : Nat) (x : List Byte)

theorem State.measure_frame (r : Nat) : (s.measure r kind x).loft = s.loft ∧ (s.measure r kind x).engs = s.engs ∧
    (s.measure r kind x).tiles = s.tiles ∧ (s.measure r kind x).mem = s.mem := by
  have put := (s.onlyRegs_putRegBytes (measReg r) 4 (sm3 (s.meas r ++ x))).1
  unfold State.measure
  generalize s.putRegBytes (measReg r) 4 (sm3 (s.meas r ++ x)) = t at put
  dsimp only
  split
  · rw [put]
    exact ⟨rfl, rfl, rfl, rfl⟩
  · rw [State.fset_loft, State.fset_engs, State.fset_tiles, State.fset_mem, put]
    exact ⟨rfl, rfl, rfl, rfl⟩

/-- A log that has room takes the measurement as its last entry, with the time. -/
theorem State.measure_log (hr : r < 32) (room : s.sec.log.length < 4096) :
    (s.measure r kind x).sec.log = s.sec.log ++ [⟨r, kind, s.now, x⟩] := by
  obtain ⟨put, regs⟩ := s.onlyRegs_putRegBytes (measReg r) 4 (sm3 (s.meas r ++ x))
  unfold State.measure
  generalize s.putRegBytes (measReg r) 4 (sm3 (s.meas r ++ x)) = t at put regs
  have log : t.sec = s.sec := by rw [put]
  have now : t.now = s.now := by
    refine State.fget_of_rd rfl (regs _ ?_)
    rintro ⟨i, hi, e⟩
    have range := measReg_range hr hi
    rw [← e, R.STW_TIME, Blk.sec, Blk.stw] at range
    omega
  dsimp only
  rw [log, if_pos room, now]

/-- A measurement leaves every register of a tile. -/
theorem State.fget_measure_til {g o : Nat} (hr : r < 32) (hg : g < 1536) (f : Fld) (half : f.half = 0) :
    (s.measure r kind x).fget (Blk.til g + o) f = s.fget (Blk.til g + o) f := by
  refine State.fget_of_rd half (s.keepsRegs_measure _ _ _ _ ?_)
  rw [til_eq hg]
  rintro (⟨i, hi, e⟩ | e)
  · have range := measReg_range hr hi
    rw [← e, Blk.sec] at range
    omega
  · rw [R.SEC_STAT, Blk.sec] at e
    omega

end Measure

/-! ## Tiles that a program may be loaded on (R166) -/

/-- The function may name the tiles of the set; they are the partition's, quiet and stopped. -/
structure State.ProgTiles (s : State) (fn : Fun) (p : Part) (ts : TileSet) : Prop where
  own : OwnFn fn p
  good : tileSetBad ts = false
  part : ∀ g ∈ s.tilesIn p ts, s.tilePart g = some p.val
  quiet : ∀ g ∈ s.tilesIn p ts, s.quiet g = true
  stop : ∀ g ∈ s.tilesIn p ts, s.fget (R.TIL_CTL g) F.TIL_CTL_RUN = 0

section Checks
variable {s : State} {fn : Fun} {p : Part} {ts : TileSet}

theorem State.ProgTiles.tilesOk (h : s.ProgTiles fn p ts) : s.TilesOk fn p ts :=
  ⟨h.own, h.good, List.any_eq_false.mpr fun g hg => by simp [h.part g hg]⟩

theorem State.ProgTiles.vfTiles (h : s.ProgTiles fn p ts) : (s.vfTiles fn p ts).1 = false := by
  obtain ⟨-, -, none⟩ := h.tilesOk
  simp [State.vfTiles, none]

theorem State.ProgTiles.progTiles (h : s.ProgTiles fn p ts) (k : Nat) : ∀ x ∈ s.progTiles p (s.tilesIn p ts) k, x.1 = false := by
  unfold State.progTiles
  simp only [List.forall_mem_cons, List.not_mem_nil, false_imp_iff, implies_true, and_true]
  exact ⟨refuse_false (List.any_eq_false.mpr fun g hg => by simp [h.part g hg]),
    refuse_false (List.any_eq_false.mpr fun g hg => by simp [h.quiet g hg]),
    refuse_false (List.any_eq_false.mpr fun g hg => by simp [h.stop g hg])⟩

end Checks

/-! ## PROG_LOAD -/

/-- The tiles pointed at a program. -/
def State.eachPbase (s : State) (l : List Nat) (addr : Nat) : State := s.each l fun s g => s.fset (R.TIL_PBASE g) F.TIL_PBASE_ADDR (addr / 64)

/-- Tiles lie 64 KiB apart, so no tile's TIL_CTL is a TIL_PBASE. -/
theorem tilCtl_ne_tilPbase (h g : Nat) : R.TIL_CTL h ≠ R.TIL_PBASE g := by
  have aligned (k : Nat) : Blk.til k % 0x10000 = 0 := by
    unfold Blk.til dieBase
    split_ifs <;> omega
  have hh := aligned h
  have hg := aligned g
  rw [R.TIL_CTL, R.TIL_PBASE]
  omega

/-- TIL_PBASE written in tiles whose RUN is 0: RUN stays, so each write is taken. -/
theorem State.each_pbaseWrite (addr : Nat) (l : List Nat) (s : State) (stop : ∀ g ∈ l, s.fget (R.TIL_CTL g) F.TIL_CTL_RUN = 0) :
    s.each l (fun s g => s.pbaseWrite g addr) = s.eachPbase l addr := by
  unfold State.eachPbase State.each
  induction l generalizing s with
  | nil => rw [List.foldl_nil, List.foldl_nil]
  | cons g r ih =>
    rw [List.foldl_cons, List.foldl_cons, State.pbaseWrite_taken (stop g List.mem_cons_self)]
    refine ih _ fun h hh => (s.fget_fset_ne rfl rfl (tilCtl_ne_tilPbase h g) _).trans (stop h (List.mem_cons_of_mem g hh))

theorem State.eachPbase_get (s : State) {l : List Nat} {addr : Nat} (h : addr < 2 ^ 64) :
    (∀ g ∈ l, (s.eachPbase l addr).fget (R.TIL_PBASE g) F.TIL_PBASE_ADDR = addr / 64) ∧
      s.OnlyRegs (s.eachPbase l addr) fun a => ∃ g ∈ l, a = R.TIL_PBASE g := by
  refine ⟨fun g hg => ?_, State.onlyRegs_each _ _ _ (fun t g hg => (t.onlyRegs_fset_at (R.TIL_PBASE g) rfl _).mono fun a e => ⟨g, hg, e⟩) s⟩
  have width : F.TIL_PBASE_ADDR.hi + 1 - F.TIL_PBASE_ADDR.lo = 58 := by decide
  refine (State.fget_each_fset R.TIL_PBASE F.TIL_PBASE_ADDR (by decide) _ l s g hg).trans ?_
  rw [width]
  omega

/-- A program image that the loader takes: its header and its digest (R125, R166). -/
structure State.ProgOk (s : State) (p b : Nat) : Prop where
  magic : s.locNum p b 4 = 0x484C4942
  version : s.locNum p (b + 4) 2 = 1
  some_entry : 1 ≤ s.locNum p (b + 6) 2
  entries : s.locNum p (b + 6) 2 ≤ 16
  streams : ∀ e < 6, s.streamOk p b e = true
  digest : s.progDigest p b = (s.localBytes p (b + 0x280) 32).1

theorem cmdProgLoad_ok {s : State} {fn : Fun} {p : Part} {ts : TileSet} {addr : Nat} (fw : s.fwif ≠ 0) (tiles : s.ProgTiles fn p ts)
    (align : addr % 64 = 0) (h48 : addr < 2 ^ 48) (touch : s.readTouch p addr (s.progLen p addr) = s) (ok : s.ProgOk p addr) :
    cmdProgLoad fn p addr ts s =
      ((s.eachPbase (s.tilesIn p ts) addr).measure (16 + p) 5 (s.progDigest p addr), .ok (s.progDigest p addr)) := by
  obtain ⟨magic, version, some_entry, entries, streams, digest⟩ := ok
  unfold cmdProgLoad
  rw [Nat.mod_eq_of_lt h48]
  dsimp only
  rw [State.cmdRead_sound fw touch, State.cmd_ok ((firstBad_none_iff _).mpr ?_), State.cmd_ok ((firstBad_none_iff _).mpr ?_),
    State.each_pbaseWrite _ _ _ tiles.stop]
  · simp only [List.forall_mem_append, List.forall_mem_cons, List.not_mem_nil, false_imp_iff, implies_true, and_true]
    refine ⟨⟨refuse_false ?_, refuse_false ?_, refuse_false ?_, refuse_false ?_, refuse_false ?_⟩, tiles.progTiles 6⟩
    · exact decide_eq_false (not_not.mpr magic)
    · exact decide_eq_false (not_not.mpr version)
    · exact decide_eq_false (by omega)
    · exact List.any_eq_false.mpr fun e he => by simp [streams e (List.mem_range.mp he)]
    · exact decide_eq_false (not_not.mpr digest)
  · simp only [List.forall_mem_cons, List.not_mem_nil, false_imp_iff, implies_true, and_true]
    exact ⟨badAt_false (decide_eq_false (by omega)), badAt_false tiles.good, ownPart_false tiles.own, tiles.vfTiles⟩

theorem State.progLoaded_get {s : State} {fn : Fun} {p : Part} {ts : TileSet} {addr : Nat} (tiles : s.ProgTiles fn p ts) (h : addr < 2 ^ 64)
    (dig : List Byte) :
    let t := (s.eachPbase (s.tilesIn p ts) addr).measure (16 + p) 5 dig
    (∀ g ∈ s.tilesIn p ts, t.fget (R.TIL_PBASE g) F.TIL_PBASE_ADDR = addr / 64) ∧
      (s.sec.log.length < 4096 → t.sec.log = s.sec.log ++ [⟨16 + p, 5, s.now, dig⟩]) ∧
      t.loft = s.loft ∧ t.engs = s.engs ∧ t.tiles = s.tiles ∧ t.mem = s.mem := by
  obtain ⟨base, same, regs⟩ := s.eachPbase_get (l := s.tilesIn p ts) h
  generalize s.eachPbase (s.tilesIn p ts) addr = u at *
  obtain ⟨loft, engs, ts', mem⟩ := u.measure_frame 5 dig (16 + p)
  refine ⟨fun g hg => ?_, fun room => ?_, ?_, ?_, ?_, ?_⟩
  · exact (u.fget_measure_til 5 dig (o := 0x80) (by omega) (State.tilesIn_lt tiles.tilesOk hg) _ rfl).trans (base g hg)
  · have sec : u.sec = s.sec := by rw [same]
    have now : u.now = s.now := State.fget_of_rd rfl (regs _ fun ⟨g, _, e⟩ => by simp only [R.STW_TIME, R.TIL_PBASE, Blk.stw] at e; omega)
    rw [u.measure_log 5 dig (by omega) (by rwa [sec]), sec, now]
  · rw [loft, same]
  · rw [engs, same]
  · rw [ts', same]
  · rw [mem, same]

/-! ## PROG_START and PROG_WHERE -/

theorem cmdProgStart_ok {s : State} {fn : Fun} {p : Part} {ts : TileSet} {k : Nat} (init : Bool) (tiles : s.ProgTiles fn p ts) (hk : k ≤ 15)
    (ilv : ∀ g ∈ s.tilesIn p ts, s.progNum g 8 4 % 8 = s.ilv g) (entry : ∀ g ∈ s.tilesIn p ts, k < s.progNum g 6 2) :
    cmdProgStart fn p ts k init s = (s.each (s.tilesIn p ts) fun s g => s.startTile g k init).told
      ((s.tilesIn p ts).flatMap fun g => (List.range 6).map (R.TIL_SPC g) ++ (List.range 6).map (R.TIL_DBASE g) ++ [R.TIL_CTL g]) := by
  unfold cmdProgStart
  dsimp only
  refine State.cmd_ok ((firstBad_none_iff _).mpr ?_)
  simp only [List.forall_mem_append, List.forall_mem_cons, List.not_mem_nil, false_imp_iff, implies_true, and_true]
  refine ⟨⟨⟨badAt_false tiles.good, badAt_false (decide_eq_false (by omega)), ownPart_false tiles.own, tiles.vfTiles, refuse_false ?_⟩,
    tiles.progTiles 2⟩, refuse_false ?_⟩
  · exact List.any_eq_false.mpr fun g hg => by simp [ilv g hg]
  · exact List.any_eq_false.mpr fun g hg => by simp [entry g hg]

theorem cmdProgWhere_ok {s : State} {fn : Fun} {g : Tile} (own : s.OwnTile fn g) :
    cmdProgWhere fn g s = (s, .ok (lay ((4, 6) :: (engsAll.flatMap fun e =>
      [(8, s.spc g e), (8, s.tilLoop g e), (4, (s.rd (R.TIL_ISTAT g (engIdx e))).toNat), (1, s.engState g e)]) ++
      (4, 4) :: ((List.range 4).map fun j => (4, (s.rd (R.TIL_VAR g j)).toNat)) ++ [(4, (s.rd (R.TIL_YREQ g)).toNat)]))) := by
  unfold cmdProgWhere layList
  rw [State.cmd_ok ((firstBad_none_iff _).mpr ?_), List.length_map, List.length_range]
  simp only [List.forall_mem_cons, List.not_mem_nil, false_imp_iff, implies_true, and_true]
  exact ⟨badAt_false (decide_eq_false (Nat.not_le.mpr g.isLt)), ownTile_false own⟩

/-! ## O27 -/

/-- Settles O27: the checks of each command pass under its conditions (`cmdProgLoad_ok`, `cmdProgStart_ok`, `cmdProgWhere_ok`), and a tile
is started by a write of every RUN bit. -/
theorem programCommandsComplete : Obligations.ProgramCommandsComplete := by
  unfold Obligations.ProgramCommandsComplete
  refine ⟨fun s fn p addr ts hm own good align h48 touch magic version some_entry entries streams digest tiles => ?_,
    fun s fn p ts k init hm own good hk tiles => ?_, fun s fn g hm own => answers_of_row (fun _ => rfl) hm (cmdProgWhere_ok own) ⟨rfl, rfl⟩,
    fun s g k init => State.run_setRun _ g (by decide)⟩
  · simp only [imp_and, forall_and] at tiles
    obtain ⟨part, quiet, stop⟩ := tiles
    have ready : s.ProgTiles fn p ts := ⟨own, good, part, quiet, stop⟩
    have legal : ∀ e < 6, s.streamOk p addr.toNat e = true := fun e he => decide_eq_true (by simpa only [Nat.add_assoc] using streams e he)
    exact answers_of_row (fun _ => rfl) hm (cmdProgLoad_ok hm.2 ready align h48 touch ⟨magic, version, some_entry, entries, legal, digest⟩)
      ⟨rfl, State.progLoaded_get ready addr.isLt _⟩
  · simp only [imp_and, forall_and] at tiles
    obtain ⟨part, quiet, stop, ilv, entry⟩ := tiles
    exact answers_of_row (fun _ => rfl) hm (cmdProgStart_ok init ⟨own, good, part, quiet, stop⟩ hk ilv entry) ⟨rfl, rfl⟩

end Sys2Proof.Machine
end

section
/-! PROOF. The nodes of the barrier tree: arrivals, releases and the writes of their channels (R195 to R200, R209). -/

namespace Sys2Proof.Machine

/-! ## Masks of children -/

/-- A mask of `n` bits takes another of them by addition. -/
theorem add_two_pow_lt {x i n : Nat} (hx : x < 2 ^ n) (hi : i < n) (new : x.testBit i = false) : x + 2 ^ i < 2 ^ n := by
  obtain ⟨k, rfl⟩ := Nat.exists_eq_add_of_lt hi
  have split : 2 ^ (i + k + 1) = 2 * 2 ^ k * 2 ^ i := by ring
  have pos := Nat.two_pow_pos i
  rw [split] at hx ⊢
  have high := (Nat.div_lt_iff_lt_mul pos).mpr hx
  rw [Nat.testBit_eq_decide_div_mod_eq, decide_eq_false_iff_not] at new
  rw [← Nat.div_lt_iff_lt_mul pos, Nat.add_div_right _ pos]
  omega

theorem ne_zero_of_testBit {x i : Nat} (h : x.testBit i = true) : x ≠ 0 := by
  rintro rfl
  simp at h

theorem State.fget_lt (s : State) (a : Nat) (f : Fld) : s.fget a f < 2 ^ (f.hi + 1 - f.lo) := fldGet_lt f _

theorem State.OnlyRegs.fset {s t : State} {A : Nat → Prop} (h : s.OnlyRegs t A) {a : Nat} {f : Fld} (hf : f.half = 0) (ha : A a) (n : Nat) :
    s.OnlyRegs (t.fset a f n) A := h.trans (t.onlyRegs_fset a f n A (by rwa [hf]))

theorem State.OnlyRegs.fset_same {s t : State} {a : Nat} (h : s.OnlyRegs t fun r => r = a) {f : Fld} (hf : f.half = 0) (n : Nat) :
    s.OnlyRegs (t.fset a f n) fun r => r = a := h.fset hf rfl n

/-- A field that stands lowest. -/
theorem bitsOf_low (v hi : Nat) : bitsOf v hi 0 = v % 2 ^ (hi + 1) := by rw [bitsOf_eq, pow_zero, Nat.div_one, Nat.sub_zero]

/-! ## Sync messages sent (R234) -/

/-- The messages `l` under way behind those before. -/
def State.syncSent (s : State) (l : List SyncMsg) : State := { s with net := { s.net with sync := s.net.sync ++ l } }

theorem State.syncSend_eq (s : State) (src dst : Nat) (b : SyncBody) : s.syncSend src dst b = s.syncSent [⟨src, dst, b⟩] := rfl

@[simp] theorem State.syncSent_regs (s : State) (l : List SyncMsg) : (s.syncSent l).regs = s.regs := rfl
@[simp] theorem State.fget_syncSent (s : State) (l : List SyncMsg) (a : Nat) (f : Fld) : (s.syncSent l).fget a f = s.fget a f := rfl
@[simp] theorem State.sync_syncSent (s : State) (l : List SyncMsg) : (s.syncSent l).net.sync = s.net.sync ++ l := rfl

theorem State.syncSent_syncSent (s : State) (l m : List SyncMsg) : (s.syncSent l).syncSent m = s.syncSent (l ++ m) := by
  simp [State.syncSent]

/-- Messages sent one after another join those under way in their order. -/
theorem State.each_syncSend {α : Type} (src dst : α → Nat) (body : α → SyncBody) (l : List α) (s : State) :
    s.each l (fun s x => s.syncSend (src x) (dst x) (body x)) = s.syncSent (l.map fun x => ⟨src x, dst x, body x⟩) := by
  unfold State.each
  induction l generalizing s with
  | nil => simp [State.syncSent]
  | cons x r ih => rw [List.foldl_cons, ih, State.syncSend_eq, State.syncSent_syncSent, List.map_cons, List.singleton_append]

/-! ## Arrivals at a cluster node (R196, R197) -/

section Cluster
variable {s : State} {d c ch : Nat}

theorem State.clnComplete_open (part : s.clnFull d c ch = false) (n : Nat) : s.clnComplete d c ch n = s := by
  cases n with
  | zero => rfl
  | succ n => rw [State.clnComplete, if_pos (by simp [part])]

theorem State.clnComplete_up (full : s.clnFull d c ch = true) (top : s.flag (R.SYN_CLN d c ch) F.SYN_CLN_TOP = false)
    (up : s.flag (R.SYN_CLN d c ch) F.SYN_CLN_UP = false) (n : Nat) :
    s.clnComplete d c ch (n + 1) =
      (s.fset (R.SYN_CLN d c ch) F.SYN_CLN_UP 1).syncSend d d (.arrive (.die (Fin.ofNat 24 d)) ch c none 0) := by
  rw [State.clnComplete, if_neg (by simp [full])]
  simp only [top, up, Bool.false_eq_true, if_false]

end Cluster

/-- One more child recorded as arrived at a cluster node. -/
def State.clnRecord (s : State) (d c ch child : Nat) : State :=
  s.fset (R.SYN_CLN d c ch) F.SYN_CLN_ARRIVED (s.fget (R.SYN_CLN d c ch) F.SYN_CLN_ARRIVED + 2 ^ child)

section Arrival
variable {s : State} {d : CDie} {c : Fin 8} {ch child : Nat}

theorem State.barArrive_cluster_again (en : s.flag (R.SYN_CLN d c ch) F.SYN_CLN_EN = true)
    (expected : (s.fget (R.SYN_CLN d c ch) F.SYN_CLN_EXPECT).testBit child = true)
    (again : (s.fget (R.SYN_CLN d c ch) F.SYN_CLN_ARRIVED).testBit child = true)
    (free : (s.fget (R.SYN_CLN d c ch) F.SYN_CLN_PENDING).testBit child = false) (e : Option Eng) (ia : Nat) :
    s.barArrive (.cluster d c) ch child e ia =
      s.fset (R.SYN_CLN d c ch) F.SYN_CLN_PENDING (s.fget (R.SYN_CLN d c ch) F.SYN_CLN_PENDING + 2 ^ child) := by
  simp only [State.barArrive, en, expected, again, free, Bool.and_self, Bool.and_false, Bool.not_true, Bool.or_false,
    Bool.false_eq_true, if_false, if_true]

variable (en : s.flag (R.SYN_CLN d c ch) F.SYN_CLN_EN = true)
  (expected : (s.fget (R.SYN_CLN d c ch) F.SYN_CLN_EXPECT).testBit child = true)
  (new : (s.fget (R.SYN_CLN d c ch) F.SYN_CLN_ARRIVED).testBit child = false)
include expected new

theorem State.barArrive_cluster_new (en : s.flag (R.SYN_CLN d c ch) F.SYN_CLN_EN = true) (e : Option Eng) (ia : Nat) :
    s.barArrive (.cluster d c) ch child e ia = (s.clnRecord d c ch child).clnComplete d c ch 2 := by
  simp only [State.barArrive, State.clnRecord, en, expected, new, Bool.and_self, Bool.false_and, Bool.not_true, Bool.or_false,
    Bool.false_eq_true, if_false]

/-- What recording a child leaves: ARRIVED with its bit, and whether all have arrived now. -/
theorem State.clnRecord_get (hc : child < 8) :
    (s.clnRecord d c ch child).fget (R.SYN_CLN d c ch) F.SYN_CLN_ARRIVED = s.fget (R.SYN_CLN d c ch) F.SYN_CLN_ARRIVED + 2 ^ child ∧
      (s.clnRecord d c ch child).clnFull d c ch =
        covers (s.fget (R.SYN_CLN d c ch) F.SYN_CLN_ARRIVED + 2 ^ child) (s.fget (R.SYN_CLN d c ch) F.SYN_CLN_EXPECT) := by
  have room := add_two_pow_lt (n := 8) (s.fget_lt (R.SYN_CLN d c ch) F.SYN_CLN_ARRIVED) hc new
  have arrived := s.fget_fset_lt (R.SYN_CLN d c ch) F.SYN_CLN_ARRIVED (by decide) room
  have expect := s.fget_fset_field (R.SYN_CLN d c ch) F.SYN_CLN_ARRIVED F.SYN_CLN_EXPECT (by decide) rfl (by decide)
  refine ⟨arrived, ?_⟩
  unfold State.clnFull State.clnRecord
  dsimp only
  rw [arrived, expect, decide_eq_true (ne_zero_of_testBit expected), Bool.true_and]

theorem State.barArrive_cluster_get (en : s.flag (R.SYN_CLN d c ch) F.SYN_CLN_EN = true) (hc : child < 8) (e : Option Eng) (ia : Nat) :
    let ar := s.fget (R.SYN_CLN d c ch) F.SYN_CLN_ARRIVED + 2 ^ child
    let full := covers ar (s.fget (R.SYN_CLN d c ch) F.SYN_CLN_EXPECT)
    let t := s.barArrive (.cluster d c) ch child e ia
    (full = false → t.fget (R.SYN_CLN d c ch) F.SYN_CLN_ARRIVED = ar ∧ s.OnlyRegs t fun r => r = R.SYN_CLN d c ch) ∧
      (full = true → s.flag (R.SYN_CLN d c ch) F.SYN_CLN_TOP = false → s.flag (R.SYN_CLN d c ch) F.SYN_CLN_UP = false →
        t.fget (R.SYN_CLN d c ch) F.SYN_CLN_ARRIVED = ar ∧ t.fget (R.SYN_CLN d c ch) F.SYN_CLN_UP = 1 ∧
        t.net.sync = s.net.sync ++ [⟨d, d, .arrive (.die d) ch c none 0⟩] ∧ s.KeepsRegs t fun r => r = R.SYN_CLN d c ch) := by
  obtain ⟨arrived, full⟩ := State.clnRecord_get expected new hc
  have only : s.OnlyRegs (s.clnRecord d c ch child) fun r => r = R.SYN_CLN d c ch := s.onlyRegs_fset_at _ rfl _
  have other {f : Fld} (hf : f.half = 0) (apart : 15 < f.lo) :
      (s.clnRecord d c ch child).flag (R.SYN_CLN d c ch) f = s.flag (R.SYN_CLN d c ch) f :=
    s.flag_fset_field _ F.SYN_CLN_ARRIVED f (by decide) hf.symm (.inr apart) _
  dsimp only
  rw [State.barArrive_cluster_new expected new en, ← full]
  refine ⟨fun part => ?_, fun all top up => ?_⟩
  · rw [State.clnComplete_open part]
    exact ⟨arrived, only⟩
  · rw [State.clnComplete_up all ((other rfl (by decide)).trans top) ((other rfl (by decide)).trans up), State.syncSend_eq, State.fget_syncSent,
      State.fget_syncSent, State.sync_syncSent, State.fset_net]
    refine ⟨(State.fget_fset_field _ _ F.SYN_CLN_UP F.SYN_CLN_ARRIVED (by decide) rfl (by decide) _).trans arrived,
      State.fget_fset _ _ _ (by decide) _, ?_,
      (KeepsRegs.trans only.2 (State.keepsRegs_fset_at _ rfl _)).trans (State.keepsRegs_of_regs (State.syncSent_regs ..))⟩
    have die : Fin.ofNat 24 d = d := Fin.ext (Nat.mod_eq_of_lt d.isLt)
    rw [die, only.1]

end Arrival

/-! ## Arrivals above the cluster nodes -/

/-- A node with a child still missing waits. -/
theorem State.dieComplete_open {s : State} {d ch : Nat}
    (part : covers (s.fget (R.SYN_DIE d ch) F.SYN_DIE_ARRIVED) (s.fget (R.SYN_DIE d ch) F.SYN_DIE_EXPECT) = false) :
    s.dieComplete d ch = s := if_pos (by simp [State.dieFull, part])

theorem State.pkgComplete_open {s : State} {ch : Nat}
    (part : covers (s.fget (R.PKN_ARR ch) F.PKN_ARR_ARRIVED) (s.fget (R.PKN_CFG ch) F.PKN_CFG_EXPECT) = false) :
    s.pkgComplete ch = s := if_pos (by simp [State.pkgFull, part])

theorem State.fabComplete_open {s : State} {ch : Nat}
    (part : covers (s.fget (R.FBN_ARR 0 ch) F.FBN_ARR_LINKS) (s.fget (R.FBN_KIDS 0 ch) F.FBN_KIDS_LINKS) = false) :
    s.fabComplete ch = s := if_pos (by simp [State.fabFull, part])

section Above
variable {s : State} {ch child : Nat}

theorem State.barArrive_die_part {d : CDie} (hc : child < 8) (en : s.flag (R.SYN_DIE d ch) F.SYN_DIE_EN = true)
    (expected : (s.fget (R.SYN_DIE d ch) F.SYN_DIE_EXPECT).testBit child = true)
    (part : covers (s.fget (R.SYN_DIE d ch) F.SYN_DIE_ARRIVED ||| 2 ^ child) (s.fget (R.SYN_DIE d ch) F.SYN_DIE_EXPECT) = false)
    (e : Option Eng) (ia : Nat) : s.barArrive (.die d) ch child e ia =
      s.fset (R.SYN_DIE d ch) F.SYN_DIE_ARRIVED (s.fget (R.SYN_DIE d ch) F.SYN_DIE_ARRIVED ||| 2 ^ child) := by
  have room := Nat.or_lt_two_pow (s.fget_lt (R.SYN_DIE d ch) F.SYN_DIE_ARRIVED) (Nat.pow_lt_pow_right Nat.one_lt_two hc)
  simp only [State.barArrive, en, expected, Bool.and_self, if_true]
  refine State.dieComplete_open ?_
  rwa [State.fget_fset_lt _ _ _ (by decide) room, State.fget_fset_field _ _ F.SYN_DIE_ARRIVED F.SYN_DIE_EXPECT (by decide) rfl (by decide)]

theorem State.barArrive_pkg_part (hc : child < 24) (en : s.flag (R.PKN_CFG ch) F.PKN_CFG_EN = true)
    (expected : (s.fget (R.PKN_CFG ch) F.PKN_CFG_EXPECT).testBit child = true)
    (part : covers (s.fget (R.PKN_ARR ch) F.PKN_ARR_ARRIVED ||| 2 ^ child) (s.fget (R.PKN_CFG ch) F.PKN_CFG_EXPECT) = false)
    (e : Option Eng) (ia : Nat) : s.barArrive .pkg ch child e ia =
      s.fset (R.PKN_ARR ch) F.PKN_ARR_ARRIVED (s.fget (R.PKN_ARR ch) F.PKN_ARR_ARRIVED ||| 2 ^ child) := by
  have room := Nat.or_lt_two_pow (s.fget_lt (R.PKN_ARR ch) F.PKN_ARR_ARRIVED) (Nat.pow_lt_pow_right Nat.one_lt_two hc)
  have apart : R.PKN_CFG ch ≠ R.PKN_ARR ch := by simp [R.PKN_CFG, R.PKN_ARR]
  simp only [State.barArrive, en, expected, Bool.and_self, if_true]
  refine State.pkgComplete_open ?_
  rwa [State.fget_fset_lt _ _ _ (by decide) room, State.fget_fset_ne _ (f := F.PKN_ARR_ARRIVED) (g := F.PKN_CFG_EXPECT) rfl rfl apart]

theorem State.barArrive_fab_part (hc : child < 36) (en : s.flag (R.FBN_CFG 0 ch) F.FBN_CFG_EN = true)
    (expected : (s.fget (R.FBN_KIDS 0 ch) F.FBN_KIDS_LINKS).testBit child = true)
    (part : covers (s.fget (R.FBN_ARR 0 ch) F.FBN_ARR_LINKS ||| 2 ^ child) (s.fget (R.FBN_KIDS 0 ch) F.FBN_KIDS_LINKS) = false)
    (e : Option Eng) (ia : Nat) : s.barArrive .fab ch child e ia =
      s.fset (R.FBN_ARR 0 ch) F.FBN_ARR_LINKS (s.fget (R.FBN_ARR 0 ch) F.FBN_ARR_LINKS ||| 2 ^ child) := by
  have room := Nat.or_lt_two_pow (s.fget_lt (R.FBN_ARR 0 ch) F.FBN_ARR_LINKS) (Nat.pow_lt_pow_right Nat.one_lt_two hc)
  have apart : R.FBN_KIDS 0 ch ≠ R.FBN_ARR 0 ch := by simp [R.FBN_KIDS, R.FBN_ARR]
  simp only [State.barArrive, if_neg hc.ne, en, expected, Bool.and_self, if_true]
  refine State.fabComplete_open ?_
  rwa [State.fget_fset_lt _ _ _ (by decide) room, State.fget_fset_ne _ (f := F.FBN_ARR_LINKS) (g := F.FBN_KIDS_LINKS) rfl rfl apart]

/-- The step controller's arrival at a node with a die still missing (R200). -/
theorem State.sarr_part (en : s.flag (R.PKN_CFG ch) F.PKN_CFG_EN = true) (schild : s.flag (R.PKN_CFG ch) F.PKN_CFG_SCHILD = true)
    (part : covers (s.fget (R.PKN_ARR ch) F.PKN_ARR_ARRIVED) (s.fget (R.PKN_CFG ch) F.PKN_CFG_EXPECT) = false) :
    s.sarr ch = s.fset (R.PKN_CFG ch) F.PKN_CFG_SARR 1 := by
  have apart : R.PKN_ARR ch ≠ R.PKN_CFG ch := by simp [R.PKN_CFG, R.PKN_ARR]
  unfold State.sarr
  dsimp only
  rw [if_pos ⟨en, schild⟩]
  refine State.pkgComplete_open ?_
  rwa [State.fget_fset_field _ _ F.PKN_CFG_SARR F.PKN_CFG_EXPECT (by decide) rfl (by decide),
    State.fget_fset_ne _ (f := F.PKN_CFG_SARR) (g := F.PKN_ARR_ARRIVED) rfl rfl apart]

end Above

/-! ## Releases (R196) -/

theorem exec_barrierArrival (node : BNode) (ch : Fin 64) (child : Nat) (e : Eng) (ia : Word32) (s : State) :
    exec (.barrierArrival node ch child e ia) s = onLive s fun s => s.barArrive node ch child (some e) ia.toNat := rfl

theorem exec_nodeChannelWrite (node : BNode) (ch : Fin 64) (v : Word64) (s : State) :
    exec (.nodeChannelWrite node ch v) s = onLive s fun s => s.nodeWrite node ch v.toNat := rfl

theorem exec_barrierRelease {s : State} (hl : s.Live) (node : BNode) (ch : Fin 64) :
    exec (.barrierRelease node ch) s = .next (if s.releasable node ch then s.barRelease node ch else s) :=
  onLive_live hl fun s => if s.releasable node ch then s.barRelease node ch else s

theorem State.barRelease_disabled {s : State} {node : BNode} {ch : Nat} (h : s.nodeEn node ch = false) : s.barRelease node ch = s :=
  if_pos (by simp [h])

theorem State.barRelease_die {s : State} {d : CDie} {ch : Nat} (en : s.flag (R.SYN_DIE d ch) F.SYN_DIE_EN = true) :
    s.barRelease (.die d) ch = s.dieRelease d ch := if_neg (not_not.mpr en)

theorem State.barRelease_cluster {s : State} {d : CDie} {c : Fin 8} {ch : Nat} (en : s.flag (R.SYN_CLN d c ch) F.SYN_CLN_EN = true) :
    s.barRelease (.cluster d c) ch = s.clnRelease d c ch := if_neg (not_not.mpr en)

theorem State.dieRelease_get (s : State) (d : CDie) (ch : Nat) :
    (s.dieRelease d ch).fget (R.SYN_DIE d ch) F.SYN_DIE_ARRIVED = 0 ∧ (s.dieRelease d ch).fget (R.SYN_DIE d ch) F.SYN_DIE_UP = 0 ∧
      (s.dieRelease d ch).net.sync = s.net.sync ++ (((List.range 8).filter fun c => (s.fget (R.SYN_DIE d ch) F.SYN_DIE_EXPECT).testBit c).map fun c =>
        ⟨d, d, .release (.cluster d (Fin.ofNat 8 c)) ch⟩) ∧
      s.KeepsRegs (s.dieRelease d ch) fun r => r = R.SYN_DIE d ch := by
  have die : Fin.ofNat 24 d = d := Fin.ext (Nat.mod_eq_of_lt d.isLt)
  unfold State.dieRelease
  extract_lets a t u
  have cleared : u.fget a F.SYN_DIE_ARRIVED = 0 ∧ u.fget a F.SYN_DIE_UP = 0 ∧ u.fget a F.SYN_DIE_EXPECT = s.fget a F.SYN_DIE_EXPECT := by
    simp (disch := decide) only [u, t, State.fget_fset, State.fget_fset_field, Nat.zero_mod, and_self]
  have only : s.OnlyRegs u fun r => r = a := (s.onlyRegs_fset_at a rfl _).trans (t.onlyRegs_fset_at a rfl _)
  obtain ⟨arrived, up, expect⟩ := cleared
  rw [State.each_syncSend, die, expect, State.fget_syncSent, State.fget_syncSent, State.sync_syncSent]
  exact ⟨arrived, up, by rw [only.1], KeepsRegs.trans only.2 (State.keepsRegs_of_regs (State.syncSent_regs ..))⟩

theorem State.clnRelease_get {s : State} {d : CDie} {c : Fin 8} {ch : Nat}
    (part : covers (s.fget (R.SYN_CLN d c ch) F.SYN_CLN_PENDING) (s.fget (R.SYN_CLN d c ch) F.SYN_CLN_EXPECT) = false) :
    (s.clnRelease d c ch).fget (R.SYN_CLN d c ch) F.SYN_CLN_ARRIVED = s.fget (R.SYN_CLN d c ch) F.SYN_CLN_PENDING ∧
      (s.clnRelease d c ch).fget (R.SYN_CLN d c ch) F.SYN_CLN_PENDING = 0 ∧ (s.clnRelease d c ch).fget (R.SYN_CLN d c ch) F.SYN_CLN_UP = 0 ∧
      (s.clnRelease d c ch).net.sync =
        s.net.sync ++ (((List.range 8).filter fun j => (s.fget (R.SYN_CLN d c ch) F.SYN_CLN_EXPECT).testBit j).map fun j =>
          ⟨d, d, .tileRelease (d.val * 64 + c.val * 8 + j) ch⟩) ∧
      s.KeepsRegs (s.clnRelease d c ch) fun r => r = R.SYN_CLN d c ch := by
  unfold State.clnRelease
  extract_lets a t u v w
  have cleared : v.fget a F.SYN_CLN_ARRIVED = s.fget a F.SYN_CLN_PENDING ∧ v.fget a F.SYN_CLN_PENDING = 0 ∧ v.fget a F.SYN_CLN_UP = 0 ∧
      v.fget a F.SYN_CLN_EXPECT = s.fget a F.SYN_CLN_EXPECT := by
    simp (disch := decide) only [v, u, t, State.fget_fset, State.fget_fset_field, Nat.zero_mod, and_self, and_true]
    exact Nat.mod_eq_of_lt (s.fget_lt a F.SYN_CLN_PENDING)
  have only : s.OnlyRegs v fun r => r = a :=
    ((s.onlyRegs_fset_at a rfl _).trans (t.onlyRegs_fset_at a rfl _)).trans (u.onlyRegs_fset_at a rfl _)
  obtain ⟨arrived, pending, up, expect⟩ := cleared
  have sent : w = v.syncSent (((List.range 8).filter fun j => (s.fget a F.SYN_CLN_EXPECT).testBit j).map fun j =>
      ⟨d, d, .tileRelease (d.val * 64 + c.val * 8 + j) ch⟩) := by
    simp only [w]
    rw [State.each_syncSend, expect]
  have waits : w.clnFull d c ch = false := by
    unfold State.clnFull
    dsimp only
    rw [sent, State.fget_syncSent, State.fget_syncSent, arrived, expect, part, Bool.and_false]
  rw [State.clnComplete_open waits, sent, State.fget_syncSent, State.fget_syncSent, State.fget_syncSent, State.sync_syncSent]
  exact ⟨arrived, pending, up, by rw [only.1], KeepsRegs.trans only.2 (State.keepsRegs_of_regs (State.syncSent_regs ..))⟩

/-! ## Channels written (R209) -/

section Write
variable {s : State} {ch : Nat}

theorem State.nodeWrite_cluster_busy {d : CDie} {c : Fin 8} (busy : s.nodeBusy (.cluster d c) ch = true) (v : Nat) :
    s.nodeWrite (.cluster d c) ch v = s.fset (R.SYN_CLN d c ch) F.SYN_CLN_EN (bit (v.testBit 25)) := by
  rw [testBit_eq_bitsOf]
  unfold State.nodeWrite
  dsimp only
  rw [if_pos busy]

theorem State.nodeWrite_cluster_idle {d : CDie} {c : Fin 8} (idle : s.nodeBusy (.cluster d c) ch = false) (v : Nat) :
    let t := s.nodeWrite (.cluster d c) ch v
    t.fget (R.SYN_CLN d c ch) F.SYN_CLN_EXPECT = v % 256 ∧ t.flag (R.SYN_CLN d c ch) F.SYN_CLN_TOP = v.testBit 24 ∧
      t.flag (R.SYN_CLN d c ch) F.SYN_CLN_EN = v.testBit 25 ∧ t.fget (R.SYN_CLN d c ch) F.SYN_CLN_PART = v / 2 ^ 32 % 16 ∧
      s.OnlyRegs t fun r => r = R.SYN_CLN d c ch := by
  unfold State.nodeWrite
  dsimp only
  rw [idle, if_neg Bool.false_ne_true, ← testBit_eq_bitsOf, ← testBit_eq_bitsOf]
  simp (disch := decide) only [State.flag_fset_bit, State.flag_fset_field, State.fget_fset, State.fget_fset_field, true_and]
  exact ⟨(Nat.mod_eq_of_lt (bitsOf_lt v 7 0)).trans (bitsOf_low v 7), (Nat.mod_eq_of_lt (bitsOf_lt v 35 32)).trans (bitsOf_eq v 35 32),
    ((((OnlyRegs.refl s _).fset_same rfl _).fset_same rfl _).fset_same rfl _).fset_same rfl _⟩

theorem State.nodeWrite_die_idle {d : CDie} (idle : s.nodeBusy (.die d) ch = false) (v : Nat) :
    let t := s.nodeWrite (.die d) ch v
    t.fget (R.SYN_DIE d ch) F.SYN_DIE_EXPECT = v % 256 ∧ t.flag (R.SYN_DIE d ch) F.SYN_DIE_TOP = v.testBit 24 ∧
      t.flag (R.SYN_DIE d ch) F.SYN_DIE_EN = v.testBit 25 ∧ t.fget (R.SYN_DIE d ch) F.SYN_DIE_PART = v / 2 ^ 32 % 16 ∧
      s.OnlyRegs t fun r => r = R.SYN_DIE d ch := by
  unfold State.nodeWrite
  dsimp only
  rw [idle, if_neg Bool.false_ne_true, ← testBit_eq_bitsOf, ← testBit_eq_bitsOf]
  simp (disch := decide) only [State.flag_fset_bit, State.flag_fset_field, State.fget_fset, State.fget_fset_field, true_and]
  exact ⟨(Nat.mod_eq_of_lt (bitsOf_lt v 7 0)).trans (bitsOf_low v 7), (Nat.mod_eq_of_lt (bitsOf_lt v 35 32)).trans (bitsOf_eq v 35 32),
    ((((OnlyRegs.refl s _).fset_same rfl _).fset_same rfl _).fset_same rfl _).fset_same rfl _⟩

/-- A write without SARR leaves the step controller's arrival out. -/
theorem State.nodeWrite_pkg_idle (idle : s.nodeBusy .pkg ch = false) {v : Nat} (noSarr : v.testBit 28 = false) :
    let t := s.nodeWrite .pkg ch v
    t.fget (R.PKN_CFG ch) F.PKN_CFG_EXPECT = v % 2 ^ 24 ∧ t.flag (R.PKN_CFG ch) F.PKN_CFG_TOP = v.testBit 24 ∧
      t.flag (R.PKN_CFG ch) F.PKN_CFG_EN = v.testBit 25 ∧ t.flag (R.PKN_CFG ch) F.PKN_CFG_SCHILD = v.testBit 27 ∧
      s.OnlyRegs t fun r => r = R.PKN_CFG ch := by
  unfold State.nodeWrite
  dsimp only
  rw [idle, noSarr, if_neg Bool.false_ne_true, if_neg Bool.false_ne_true, ← testBit_eq_bitsOf, ← testBit_eq_bitsOf, ← testBit_eq_bitsOf]
  simp (disch := decide) only [State.flag_fset_bit, State.flag_fset_field, State.fget_fset, State.fget_fset_field, true_and]
  exact ⟨(Nat.mod_eq_of_lt (bitsOf_lt v 23 0)).trans (bitsOf_low v 23),
    (((((OnlyRegs.refl s _).fset_same rfl _).fset_same rfl _).fset_same rfl _).fset_same rfl _).fset_same rfl _⟩

theorem State.nodeWrite_fab_idle (idle : s.nodeBusy .fab ch = false) (v : Nat) :
    let t := s.nodeWrite .fab ch v
    t.fget (R.FBN_CFG 0 ch) F.FBN_CFG_PARENT = v % 4096 ∧ t.flag (R.FBN_CFG 0 ch) F.FBN_CFG_ROOT = v.testBit 12 ∧
      t.flag (R.FBN_CFG 0 ch) F.FBN_CFG_EN = v.testBit 13 ∧ t.fget (R.FBN_CFG 0 ch) F.FBN_CFG_PLINK = v / 2 ^ 32 % 64 ∧
      s.OnlyRegs t fun r => r = R.FBN_CFG 0 ch := by
  unfold State.nodeWrite
  dsimp only
  rw [idle, if_neg Bool.false_ne_true, ← testBit_eq_bitsOf, ← testBit_eq_bitsOf]
  simp (disch := decide) only [State.flag_fset_bit, State.flag_fset_field, State.fget_fset, State.fget_fset_field, true_and]
  exact ⟨(Nat.mod_eq_of_lt (bitsOf_lt v 11 0)).trans (bitsOf_low v 11), (Nat.mod_eq_of_lt (bitsOf_lt v 37 32)).trans (bitsOf_eq v 37 32),
    (((((OnlyRegs.refl s _).fset_same rfl _).fset_same rfl _).fset_same rfl _).fset_same rfl _).fset_same rfl _⟩

end Write

/-! ## O29 -/

/-- Settles O29: each event is its row on a live part, and a node's row is what the lemmas above say of its registers. -/
theorem barrierNodesComplete : Obligations.BarrierNodesComplete := by
  unfold Obligations.BarrierNodesComplete
  refine ⟨fun s d c ch child e ia hl en expected new => ?_, fun s d c ch child e ia hl en expected again free => ?_,
    fun s d ch child e ia hl en expected part => ?_, fun s ch child e ia hl en expected part => ?_,
    fun s ch child e ia hl en expected part => ?_, fun s node ch hl off => ?_, fun s d ch hl en up => ?_, fun s d c ch hl en up part => ?_,
    fun s node ch hl ready => ?_, fun s ch hl en schild part => ?_, fun s d c ch v hl => ⟨fun idle => ?_, fun busy => ?_⟩,
    fun s d ch v hl idle => ?_, fun s ch v hl idle noSarr => ?_, fun s ch v hl idle => ?_⟩
  · exact completes_of_row (exec_barrierArrival _ ch child e ia) hl rfl (State.barArrive_cluster_get expected new en child.isLt _ _)
  · rw [exec_barrierArrival, onLive_live hl, State.barArrive_cluster_again en expected again free]
  · rw [exec_barrierArrival, onLive_live hl, State.barArrive_die_part child.isLt en expected part]
  · rw [exec_barrierArrival, onLive_live hl, State.barArrive_pkg_part child.isLt en expected part]
  · rw [exec_barrierArrival, onLive_live hl, State.barArrive_fab_part child.isLt en expected part]
  · rw [exec_barrierRelease hl, State.barRelease_disabled off, ite_self]
  · have ready : s.releasable (.die d) ch = true := by simp [State.releasable, up]
    exact ⟨_, (exec_barrierRelease hl _ ch).trans (by rw [if_pos ready, State.barRelease_die en]), s.dieRelease_get d ch⟩
  · have ready : s.releasable (.cluster d c) ch = true := by simp [State.releasable, up]
    exact ⟨_, (exec_barrierRelease hl _ ch).trans (by rw [if_pos ready, State.barRelease_cluster en]), State.clnRelease_get part⟩
  · rw [exec_barrierRelease hl, if_pos ready]
  · exact (onLive_live hl fun s => s.sarr ch).trans (congrArg _ (State.sarr_part en schild part))
  · exact completes_of_row (exec_nodeChannelWrite _ ch v) hl rfl (State.nodeWrite_cluster_idle idle _)
  · rw [exec_nodeChannelWrite, onLive_live hl, State.nodeWrite_cluster_busy busy]
  · exact completes_of_row (exec_nodeChannelWrite _ ch v) hl rfl (State.nodeWrite_die_idle idle _)
  · exact completes_of_row (exec_nodeChannelWrite _ ch v) hl rfl (State.nodeWrite_pkg_idle idle noSarr)
  · exact completes_of_row (exec_nodeChannelWrite _ ch v) hl rfl (State.nodeWrite_fab_idle idle _)

end Sys2Proof.Machine
end

section
/-! PROOF. Faults of a tile's engines, the counters behind its aliases, and the tests posted on them (R100, R175 to R185). -/

namespace Sys2Proof.Machine

/-! ## Folds that change nothing, or at one element only -/

theorem State.each_unchanged {α : Type} {f : State → α → State} {l : List α} {s : State} (h : ∀ x ∈ l, f s x = s) : s.each l f = s :=
  State.each_keeps_mem (fun t => t = s) (fun t x hx e => by rw [e]; exact h x hx) rfl

theorem State.each_append {α : Type} (f : State → α → State) (l r : List α) (s : State) : s.each (l ++ r) f = (s.each l f).each r f := List.foldl_append

theorem State.each_cons {α : Type} (f : State → α → State) (x : α) (r : List α) (s : State) : s.each (x :: r) f = (f s x).each r f := rfl

/-- A fold that acts at one of its elements only. -/
theorem State.each_only {α : Type} {f : State → α → State} {l : List α} (nd : l.Nodup) {x : α} (hx : x ∈ l)
    (others : ∀ s, ∀ y ∈ l, y ≠ x → f s y = s) (s : State) : s.each l f = f s x :=
  State.each_visit (P := fun t => t = s) (Q := fun t => t = f s x) nd hx (fun t y hy ne e => by rw [others t y hy ne, e]) (fun t e => by rw [e])
    (fun t y hy ne e => by rw [others t y hy ne, e]) rfl

/-! ## A fault of an engine (R100) -/

/-- The registers of a tile that a fault writes. -/
def FaultRegs (g a : Nat) : Prop := a = R.TIL_FAULT g ∨ a = R.TIL_FADDR g ∨ a = R.TIL_CTL g

/-- The fault recorded, or counted behind one recorded before. -/
def State.faultNoted (s : State) (g src cause iaddr : Nat) (laddr : Option Nat) : State :=
  if s.flag (R.TIL_FAULT g) F.TIL_FAULT_VALID then s.fadd (R.TIL_FAULT g) F.TIL_FAULT_MORE 1
  else
    (((((s.fset (R.TIL_FAULT g) F.TIL_FAULT_SRC src).fset (R.TIL_FAULT g) F.TIL_FAULT_VALID 1).fset (R.TIL_FAULT g) F.TIL_FAULT_CAUSE cause).fset
      (R.TIL_FADDR g) F.TIL_FADDR_IADDR iaddr).fset (R.TIL_FADDR g) F.TIL_FADDR_LADDR (laddr.getD 0)).fset (R.TIL_FADDR g) F.TIL_FADDR_LVALID
      (bit laddr.isSome)

/-- RUN without the bit of an engine. -/
def State.runCut (s : State) (g : Nat) (e : Eng) : State :=
  s.fset (R.TIL_CTL g) F.TIL_CTL_RUN (if s.runBit g e then s.fget (R.TIL_CTL g) F.TIL_CTL_RUN - 2 ^ engIdx e else s.fget (R.TIL_CTL g) F.TIL_CTL_RUN)

/-- The engine marked faulted, its posted wait withdrawn. -/
def State.engFaulted (s : State) (g : Nat) (e : Eng) : State := (s.modEng g e fun x => { x with faulted := true }).withdraw g e

theorem State.tileFault_engine (s : State) (g : Nat) (e : Eng) (cause ia : Nat) (l : Option Nat) :
    s.tileFault g (engIdx e) cause ia l =
      let t := ((s.faultNoted g (engIdx e) cause ia l).runCut g e).engFaulted g e
      t.faultRep 1 cause (t.tilePart g) g ia (l.getD 0) := by
  unfold State.tileFault State.faultNoted State.runCut State.runBit State.engFaulted
  simp only [if_pos (engIdx_lt e), engOf_engIdx]

theorem State.onlyRegs_faultNoted (s : State) (g src cause ia : Nat) (l : Option Nat) : s.OnlyRegs (s.faultNoted g src cause ia l) (FaultRegs g) := by
  have fault {s t : State} (h : s.OnlyRegs t (FaultRegs g)) {f : Fld} (hf : f.half = 0) (n : Nat) := h.fset (a := R.TIL_FAULT g) hf (.inl rfl) n
  have faddr {s t : State} (h : s.OnlyRegs t (FaultRegs g)) {f : Fld} (hf : f.half = 0) (n : Nat) := h.fset (a := R.TIL_FADDR g) hf (.inr (.inl rfl)) n
  unfold State.faultNoted
  split
  · exact fault (.refl s _) rfl _
  · exact faddr (faddr (faddr (fault (fault (fault (.refl s _) rfl _) rfl _) rfl _) rfl _) rfl _) rfl _

theorem State.faultNoted_first {s : State} {g src cause ia : Nat} (first : s.flag (R.TIL_FAULT g) F.TIL_FAULT_VALID = false) (hs : src < 8)
    (hc : cause < 64) (hi : ia < 2 ^ 32) (l : Option Nat) :
    (s.faultNoted g src cause ia l).fget (R.TIL_FAULT g) F.TIL_FAULT_CAUSE = cause ∧
      (s.faultNoted g src cause ia l).fget (R.TIL_FAULT g) F.TIL_FAULT_SRC = src ∧
      (s.faultNoted g src cause ia l).fget (R.TIL_FADDR g) F.TIL_FADDR_IADDR = ia := by
  have apart : R.TIL_FAULT g ≠ R.TIL_FADDR g := by simp [R.TIL_FAULT, R.TIL_FADDR]
  have faddr (s : State) {f h : Fld} (hf : f.half = 0) (hh : h.half = 0) (n : Nat) := s.fget_fset_ne hf hh apart n
  unfold State.faultNoted
  rw [first, if_neg Bool.false_ne_true]
  simp (disch := decide) only [faddr, State.fget_fset, State.fget_fset_field]
  exact ⟨Nat.mod_eq_of_lt hc, Nat.mod_eq_of_lt hs, Nat.mod_eq_of_lt hi⟩

/-- A mask without one of its bits. -/
theorem testBit_cut (v j : Nat) : (if v.testBit j then v - 2 ^ j else v).testBit j = false := by
  split
  next h =>
    have sub : (v - 2 ^ j) / 2 ^ j = v / 2 ^ j - 1 := by simpa using Nat.sub_mul_div v (2 ^ j) 1
    rw [Nat.testBit_eq_decide_div_mod_eq] at h ⊢
    rw [sub]
    simp only [decide_eq_true_eq, decide_eq_false_iff_not] at h ⊢
    omega
  next h => simpa using h

theorem State.runBit_congr {s t : State} {g : Nat} (h : t.fget (R.TIL_CTL g) F.TIL_CTL_RUN = s.fget (R.TIL_CTL g) F.TIL_CTL_RUN) (e : Eng) :
    t.runBit g e = s.runBit g e := by rw [State.runBit, State.runBit, h]

theorem State.runBit_runCut (s : State) (g : Nat) (e : Eng) : (s.runCut g e).runBit g e = false := by
  have width : F.TIL_CTL_RUN.hi + 1 - F.TIL_CTL_RUN.lo = 6 := by decide
  have room : (if s.runBit g e then s.fget (R.TIL_CTL g) F.TIL_CTL_RUN - 2 ^ engIdx e else s.fget (R.TIL_CTL g) F.TIL_CTL_RUN) <
      2 ^ (F.TIL_CTL_RUN.hi + 1 - F.TIL_CTL_RUN.lo) := by
    have below := s.fget_lt (R.TIL_CTL g) F.TIL_CTL_RUN
    split
    · exact (Nat.sub_le _ _).trans_lt below
    · exact below
  rw [State.runCut, State.runBit, State.fget_fset_lt _ _ _ (by decide) room]
  exact testBit_cut _ _

theorem State.onlyRegs_runCut (s : State) (g : Nat) (e : Eng) : s.OnlyRegs (s.runCut g e) (FaultRegs g) := by
  unfold State.runCut
  generalize (if s.runBit g e then _ else _) = run
  exact (State.OnlyRegs.refl s _).fset rfl (.inr (.inr rfl)) run

theorem State.engsOnly_engFaulted (s : State) (g : Nat) (e : Eng) : s.EngsOnly (s.engFaulted g e) :=
  EngsOnly.trans (.of_setEng s g e _) (.of_withdraw _ g e)

theorem State.eng_engFaulted (s : State) (g : Nat) (e : Eng) (h : Nat) (k : Eng) :
    (s.engFaulted g e).eng h k = if h = g ∧ k = e then { s.eng g e with faulted := true }.withdrawn else s.eng h k := by
  rw [State.engFaulted, State.eng_withdraw, State.eng_modEng_same]
  split
  · rfl
  next ne => rw [State.modEng, State.eng_setEng, if_neg ne]

/-- What a fault of an engine leaves: the engine stopped and withdrawn, every other engine and the tiles as they were. -/
theorem State.tileFault_frame (s : State) (g : Nat) (e : Eng) (cause ia : Nat) (l : Option Nat) :
    s.KeepsRegs (s.tileFault g (engIdx e) cause ia l) (FaultRegs g) ∧ (s.tileFault g (engIdx e) cause ia l).tiles = s.tiles ∧
      (s.tileFault g (engIdx e) cause ia l).runBit g e = false ∧
      ∀ h k, (s.tileFault g (engIdx e) cause ia l).eng h k = if h = g ∧ k = e then { s.eng g e with faulted := true }.withdrawn else s.eng h k := by
  rw [State.tileFault_engine]
  dsimp only
  obtain ⟨same, regs⟩ := (s.onlyRegs_faultNoted g (engIdx e) cause ia l).trans (State.onlyRegs_runCut _ g e)
  have stop := State.runBit_runCut (s.faultNoted g (engIdx e) cause ia l) g e
  generalize (s.faultNoted g (engIdx e) cause ia l).runCut g e = u at *
  have engs : u.engs = s.engs := by rw [same]
  have tiles : u.tiles = s.tiles := by rw [same]
  have marked := u.engsOnly_engFaulted g e
  have at_e := u.eng_engFaulted g e
  generalize u.engFaulted g e = v at *
  have all : (v.faultRep 1 cause (v.tilePart g) g ia (l.getD 0)).regs = u.regs := (State.faultRep_regs ..).trans marked.regs
  refine ⟨KeepsRegs.trans regs (State.keepsRegs_of_regs all), ?_, ?_, fun h k => ?_⟩
  · rw [State.faultRep_tiles, marked.tiles, tiles]
  · exact (State.runBit_congr (State.fget_congr all _ _) e).trans stop
  · rw [State.eng_congr (State.faultRep_engs ..), at_e, State.eng_congr engs, State.eng_congr engs]

theorem State.tileFault_first {s : State} {g : Nat} {e : Eng} {cause ia : Nat} (first : s.flag (R.TIL_FAULT g) F.TIL_FAULT_VALID = false)
    (hc : cause < 64) (hi : ia < 2 ^ 32) (l : Option Nat) :
    (s.tileFault g (engIdx e) cause ia l).fget (R.TIL_FAULT g) F.TIL_FAULT_CAUSE = cause ∧
      (s.tileFault g (engIdx e) cause ia l).fget (R.TIL_FAULT g) F.TIL_FAULT_SRC = engIdx e ∧
      (s.tileFault g (engIdx e) cause ia l).fget (R.TIL_FADDR g) F.TIL_FADDR_IADDR = ia := by
  obtain ⟨fc, fs, fi⟩ := State.faultNoted_first (ia := ia) first ((engIdx_lt e).trans (by decide)) hc hi l
  have idx := engIdx_lt e
  rw [State.tileFault_engine]
  dsimp only
  generalize hu : s.faultNoted g (engIdx e) cause ia l = u at *
  have kept {a : Nat} {f : Fld} (hf : f.half = 0) (ne : a ≠ R.TIL_CTL g) :
      ((u.runCut g e).engFaulted g e).fget a f = u.fget a f :=
    (State.fget_congr (State.engsOnly_engFaulted _ g e).regs a f).trans (u.fget_fset_ne rfl hf ne _)
  generalize (u.runCut g e).engFaulted g e = v at *
  have rep (a : Nat) (f : Fld) : (v.faultRep 1 cause (v.tilePart g) g ia (l.getD 0)).fget a f = v.fget a f := State.fget_congr (State.faultRep_regs ..) a f
  rw [rep, rep, rep, kept rfl (by simp [R.TIL_FAULT, R.TIL_CTL]), kept rfl (by simp [R.TIL_FAULT, R.TIL_CTL]), kept rfl (by simp [R.TIL_FADDR, R.TIL_CTL])]
  exact ⟨fc, fs, fi⟩

end Sys2Proof.Machine
end

section
/-! PROOF. Tests posted on the counters behind a tile's aliases, and what leaves them posted (R175, R183, R185). -/

namespace Sys2Proof.Machine

/-! ## Where the counters lie -/

/-- None of the registers of `A` holds a tile's aliases. -/
def AliasFree (A : Nat → Prop) : Prop := ∀ h < 1536, ∀ a < 63, ¬ A (R.TIL_ALIAS h a)

theorem aliasFree_sem {d : Nat} (hd : d < 24) {j : Nat} (hj : j < 2048) : AliasFree fun r => r = R.SYN_SEM d j := by
  intro h hh a ha
  simp only [R.TIL_ALIAS, R.SYN_SEM, til_eq hh, Blk.syn, dieBase, if_pos hd]
  omega

theorem aliasFree_arc {g : Nat} (hg : g < 1536) {n : Nat} (hn : n < 64) : AliasFree fun r => r = R.TIL_ARC g n := by
  intro h hh a ha
  simp only [R.TIL_ALIAS, R.TIL_ARC, til_eq hh, til_eq hg]
  omega

theorem aliasFree_fault {g : Nat} (hg : g < 1536) : AliasFree (FaultRegs g) := by
  intro h hh a ha
  simp only [FaultRegs, R.TIL_ALIAS, R.TIL_FAULT, R.TIL_FADDR, R.TIL_CTL, til_eq hh, til_eq hg]
  omega

theorem State.aliasIdx_lt (s : State) (g a : Nat) : s.aliasIdx g a < 2048 := s.fget_lt _ _

theorem aliasType_inside {s : State} {g a typ : Nat} (h : s.aliasType g a = typ) (pos : typ ≠ 0) : a < 63 := by
  by_contra out
  rw [State.aliasType, if_neg out] at h
  exact pos h.symm

theorem State.aliasType_congr {s t : State} {g a : Nat} (h : t.rd (R.TIL_ALIAS g a) = s.rd (R.TIL_ALIAS g a)) : t.aliasType g a = s.aliasType g a := by
  rw [State.aliasType, State.aliasType, State.fget_of_rd rfl h]

theorem State.aliasIdx_congr {s t : State} {g a : Nat} (h : t.rd (R.TIL_ALIAS g a) = s.rd (R.TIL_ALIAS g a)) : t.aliasIdx g a = s.aliasIdx g a :=
  State.fget_of_rd rfl h

/-! ## States with no test posted anew -/

/-- All aliases name the counters they named or none, and every engine has the test it had posted, or none. -/
def State.NoNewPosts (s t : State) : Prop :=
  ∀ h < 1536, (∀ a < 63, t.rd (R.TIL_ALIAS h a) = s.rd (R.TIL_ALIAS h a) ∨ t.aliasType h a = 0) ∧
    ∀ e, ((t.eng h e).wf = (s.eng h e).wf ∧ (t.eng h e).isPosted = (s.eng h e).isPosted) ∨ (t.eng h e).wf = none

theorem State.NoNewPosts.trans {s t u : State} (a : s.NoNewPosts t) (b : t.NoNewPosts u) : s.NoNewPosts u := by
  intro h hh
  obtain ⟨sa, sp⟩ := a h hh
  obtain ⟨ta, tp⟩ := b h hh
  refine ⟨fun i hi => ?_, fun e => ?_⟩
  · rcases ta i hi with same | none_
    · exact (sa i hi).imp same.trans (State.aliasType_congr same).trans
    · exact .inr none_
  · rcases tp e with ⟨w, p⟩ | none_
    · exact (sp e).imp (fun ⟨w', p'⟩ => ⟨w.trans w', p.trans p'⟩) w.trans
    · exact .inr none_

theorem State.NoNewPosts.of_regs {s t : State} {A : Nat → Prop} (k : s.KeepsRegs t A) (free : AliasFree A) (engs : t.engs = s.engs) : s.NoNewPosts t :=
  fun h hh => ⟨fun a ha => .inl (k _ (free h hh a ha)), fun e => .inl (by rw [State.eng_congr engs]; exact ⟨rfl, rfl⟩)⟩

theorem withdrawn_posts (x : EngSt) : (x.withdrawn.wf = x.wf ∧ x.withdrawn.isPosted = x.isPosted) ∨ x.withdrawn.wf = none := by
  unfold EngSt.withdrawn
  split
  · exact .inr rfl
  · exact .inl ⟨rfl, rfl⟩

theorem State.NoNewPosts.of_tileFault (s : State) {g : Nat} (hg : g < 1536) (e : Eng) (cause ia : Nat) (l : Option Nat) :
    s.NoNewPosts (s.tileFault g (engIdx e) cause ia l) := by
  obtain ⟨regs, -, -, engs⟩ := s.tileFault_frame g e cause ia l
  refine fun h hh => ⟨fun a ha => .inl (regs _ (aliasFree_fault hg h hh a ha)), fun k => ?_⟩
  rw [engs]
  split
  next at_ =>
    obtain ⟨rfl, rfl⟩ := at_
    exact withdrawn_posts _
  next => exact .inl ⟨rfl, rfl⟩

theorem State.NoPoolPost.kept {s t : State} (k : s.NoNewPosts t) {d : Nat} (hd : d < 24) {j : Nat} (none_ : s.NoPoolPost d j) : t.NoPoolPost d j := by
  intro i hi e he
  obtain ⟨al, eng⟩ := k (d * 64 + i) (by omega)
  have before := none_ i hi e he
  unfold State.postedOnGroup at before ⊢
  split
  next w hw =>
    rcases eng e with ⟨wf, posted⟩ | gone
    · by_cases typ : t.aliasType (d * 64 + i) w.alias_ = 1
      · have same := (al _ (aliasType_inside typ one_ne_zero)).resolve_right (typ.trans_ne one_ne_zero)
        rw [← wf, hw] at before
        dsimp only at before
        rw [posted, State.aliasType_congr same, State.aliasIdx_congr same]
        exact before
      · simp [typ]
    · rw [gone] at hw
      cases hw
  next => rfl

theorem State.NoTilePost.kept {s t : State} (k : s.NoNewPosts t) {g : Nat} (hg : g < 1536) {typ idx : Nat} (pos : typ ≠ 0) (none_ : s.NoTilePost g typ idx) :
    t.NoTilePost g typ idx := by
  intro e he
  obtain ⟨al, eng⟩ := k g hg
  have before := none_ e he
  unfold State.postedOn at before ⊢
  split
  next w hw =>
    rcases eng e with ⟨wf, posted⟩ | gone
    · by_cases is : t.aliasType g w.alias_ = typ
      · have same := (al _ (aliasType_inside is pos)).resolve_right (is.trans_ne pos)
        rw [← wf, hw] at before
        dsimp only at before
        rw [posted, State.aliasType_congr same, State.aliasIdx_congr same]
        exact before
      · simp [is]
    · rw [gone] at hw
      cases hw
  next => rfl

/-! ## A wake that finds no test -/

theorem State.retestGroup_none {s : State} {d k : Nat} (h : s.NoPoolPost d k) : s.retestGroup d k = s :=
  State.each_unchanged fun t ht => State.each_unchanged fun e _ => by rw [if_neg]; simp [h t (List.mem_range.mp ht) e (mem_engsAll e)]

theorem State.retestTile_none {s : State} {g typ idx : Nat} (h : s.NoTilePost g typ idx) : s.retestTile g typ idx = s := by
  refine State.each_unchanged fun e _ => ?_
  have none_ := h e (mem_engsAll e)
  cases hw : (s.eng g e).wf with
  | none => rfl
  | some w =>
    rw [State.postedOn, hw] at none_
    refine if_neg fun ⟨p, t, i⟩ => ?_
    simp [p, t, i] at none_

end Sys2Proof.Machine
end

section
/-! PROOF. Signals (R181, R183 to R185, R192): an increment applied to a counter, its overflow, a batch of one, and a closed segment. -/

namespace Sys2Proof.Machine

/-! ## The increment -/

theorem State.addSignal_fits (s : State) (g : Nat) (e : Eng) (a inc ia : Nat) (fits : s.aliasCount g a + inc ≤ 65535) :
    s.addSignal g e a inc ia = s.setAliasCount g a (s.aliasCount g a + inc) := by
  unfold State.addSignal
  dsimp only
  rw [if_neg (by omega), Nat.min_eq_right fits]

theorem State.addSignal_over (s : State) (g : Nat) (e : Eng) (a inc ia : Nat) (above : 65535 < s.aliasCount g a + inc) :
    s.addSignal g e a inc ia = (s.setAliasCount g a 65535).tileFault g (engIdx e) 0x30 ia none := by
  unfold State.addSignal
  dsimp only
  rw [if_pos above, Nat.min_eq_left above.le]

section
variable {s : State} {g a : Nat}

theorem State.aliasCount_pool (h : s.aliasType g a = 1) : s.aliasCount g a = s.semCount (g / 64) (s.aliasIdx g a) := by simp only [State.aliasCount, h]

theorem State.aliasCount_arc (h : s.aliasType g a = 2) (i : s.aliasIdx g a < 64) : s.aliasCount g a = s.arcCount g (s.aliasIdx g a) := by
  simp only [State.aliasCount, h, Nat.mod_eq_of_lt i]

theorem State.setAliasCount_pool (h : s.aliasType g a = 1) (v : Nat) :
    s.setAliasCount g a v = s.fset (R.SYN_SEM (g / 64) (s.aliasIdx g a)) F.SYN_SEM_COUNT v := by simp only [State.setAliasCount, h]

theorem State.setAliasCount_arc (h : s.aliasType g a = 2) (i : s.aliasIdx g a < 64) (v : Nat) :
    s.setAliasCount g a v = s.fset (R.TIL_ARC g (s.aliasIdx g a)) F.TIL_ARC_COUNT v := by
  simp only [State.setAliasCount, h, Nat.mod_eq_of_lt i]

theorem State.applySignal_pool (h : s.aliasType g a = 1) (e : Eng) (inc ia : Nat) :
    s.applySignal g e a inc ia = (s.addSignal g e a inc ia).retestGroup (g / 64) (s.aliasIdx g a / 32) := by simp only [State.applySignal, h]

theorem State.applySignal_arc (h : s.aliasType g a = 2) (e : Eng) (inc ia : Nat) :
    s.applySignal g e a inc ia = (s.addSignal g e a inc ia).retestTile g 2 (s.aliasIdx g a) := by simp only [State.applySignal, h]

theorem State.applySignal_bar (h : s.aliasType g a = 3) (e : Eng) (inc ia : Nat) :
    s.applySignal g e a inc ia =
      s.barArrive (.cluster (Fin.ofNat 24 (g / 64)) (Fin.ofNat 8 (g % 64 / 8))) (s.aliasIdx g a % 64) (g % 8) (some e) ia := by
  simp only [State.applySignal, h]

end

theorem exec_semaphoreSignal {s : State} (live : s.Live) (g : Tile) (e : Eng) (a : Fin 63) (inc : Nat) (ia : Word32) :
    exec (.semaphoreSignal g e a inc ia) s = .next (s.applySignal g e a inc ia.toNat) :=
  onLive_live live fun s => s.applySignal g e a inc ia.toNat

theorem exec_poolBatch {s : State} (live : s.Live) (g : Tile) : exec (.poolBatch g) s = .next (s.poolBatch g) :=
  onLive_live live fun s => s.poolBatch g

theorem withdrawn_faulted (x : EngSt) : x.withdrawn.faulted = x.faulted := by
  unfold EngSt.withdrawn
  split <;> rfl

/-! ## A semaphore counted up -/

theorem State.semCount_fset (s : State) (d j : Nat) {v : Nat} (h : v ≤ 65535) : (s.fset (R.SYN_SEM d j) F.SYN_SEM_COUNT v).semCount d j = v :=
  s.fget_fset_lt _ _ (by decide) (Nat.lt_succ_of_le h)

theorem State.arcCount_fset (s : State) (g n : Nat) {v : Nat} (h : v ≤ 65535) : (s.fset (R.TIL_ARC g n) F.TIL_ARC_COUNT v).arcCount g n = v :=
  s.fget_fset_lt _ _ (by decide) (Nat.lt_succ_of_le h)

theorem State.semCount_tileFault (s : State) {g d j : Nat} (hg : g < 1536) (hd : d < 24) (hj : j < 2048) (e : Eng) (cause ia : Nat) (l : Option Nat) :
    (s.tileFault g (engIdx e) cause ia l).semCount d j = s.semCount d j := by
  refine State.fget_of_rd rfl ((s.tileFault_frame g e cause ia l).1 _ ?_)
  simp only [FaultRegs, R.SYN_SEM, R.TIL_FAULT, R.TIL_FADDR, R.TIL_CTL, til_eq hg, Blk.syn, dieBase, if_pos hd]
  omega

theorem State.NoNewPosts.of_semSet (s : State) {d : Nat} (hd : d < 24) {j : Nat} (hj : j < 2048) (v : Nat) :
    s.NoNewPosts (s.fset (R.SYN_SEM d j) F.SYN_SEM_COUNT v) :=
  .of_regs (s.onlyRegs_fset_at _ rfl v).2 (aliasFree_sem hd hj) (State.fset_engs ..)

theorem State.NoNewPosts.of_arcSet (s : State) {g : Nat} (hg : g < 1536) {n : Nat} (hn : n < 64) (v : Nat) :
    s.NoNewPosts (s.fset (R.TIL_ARC g n) F.TIL_ARC_COUNT v) :=
  .of_regs (s.onlyRegs_fset_at _ rfl v).2 (aliasFree_arc hg hn) (State.fset_engs ..)

/-- A signal to a semaphore on whose group no test is posted (R181, R183). -/
theorem semaphoreSignal_pool (s : State) (g : Tile) (e : Eng) (a : Fin 63) (inc : Nat) (ia : Word32) (live : s.Live) (typ : s.aliasType g a = 1)
    (unposted : s.NoPoolPost (g.val / 64) (s.aliasIdx g a / 32)) :
    Completes (.semaphoreSignal g e a inc ia) s fun t =>
      t.semCount (g.val / 64) (s.aliasIdx g a) = min 65535 (s.semCount (g.val / 64) (s.aliasIdx g a) + inc) ∧
      (s.semCount (g.val / 64) (s.aliasIdx g a) + inc ≤ 65535 →
        s.OnlyRegs t fun r => r = R.SYN_SEM (g.val / 64) (s.aliasIdx g a)) ∧
      (65535 < s.semCount (g.val / 64) (s.aliasIdx g a) + inc → t.runBit g e = false ∧ (t.eng g e).faulted = true ∧
        (s.flag (R.TIL_FAULT g) F.TIL_FAULT_VALID = false → t.fget (R.TIL_FAULT g) F.TIL_FAULT_CAUSE = 0x30 ∧
          t.fget (R.TIL_FAULT g) F.TIL_FAULT_SRC = engIdx e ∧ t.fget (R.TIL_FADDR g) F.TIL_FADDR_IADDR = ia.toNat)) := by
  obtain ⟨g, hg⟩ := g
  have hd : g / 64 < 24 := by omega
  have hj := s.aliasIdx_lt g a
  dsimp only at *
  have count := State.aliasCount_pool typ
  refine ⟨_, exec_semaphoreSignal live .., ?_⟩
  dsimp only
  rw [State.applySignal_pool typ]
  rcases Nat.lt_or_ge 65535 (s.semCount (g / 64) (s.aliasIdx g a) + inc) with above | fits
  · rw [s.addSignal_over g e a inc _ (count ▸ above), State.setAliasCount_pool typ]
    have posts := (State.NoNewPosts.of_semSet s hd hj 65535).trans (.of_tileFault _ hg e 0x30 ia.toNat none)
    have sem := s.semCount_fset (g / 64) (s.aliasIdx g a) le_rfl
    have valid : (s.fset (R.SYN_SEM (g / 64) (s.aliasIdx g a)) F.SYN_SEM_COUNT 65535).flag (R.TIL_FAULT g) F.TIL_FAULT_VALID =
        s.flag (R.TIL_FAULT g) F.TIL_FAULT_VALID := by
      refine State.flag_congr (s.fget_fset_ne rfl rfl ?_ _)
      simp only [R.SYN_SEM, R.TIL_FAULT, til_eq hg, Blk.syn, dieBase, if_pos hd]
      omega
    generalize s.fset (R.SYN_SEM (g / 64) (s.aliasIdx g a)) F.SYN_SEM_COUNT 65535 = u at *
    obtain ⟨-, -, stop, engs⟩ := u.tileFault_frame g e 0x30 ia.toNat none
    rw [State.retestGroup_none (State.NoPoolPost.kept posts hd unposted), u.semCount_tileFault hg hd hj]
    refine ⟨sem.trans (Nat.min_eq_left above.le).symm, fun fits => absurd above fits.not_gt, fun _ => ⟨stop, ?_, fun first => ?_⟩⟩
    · rw [engs, if_pos ⟨rfl, rfl⟩]
      exact withdrawn_faulted _
    · exact State.tileFault_first (valid.trans first) (by decide) ia.isLt none
  · rw [s.addSignal_fits g e a inc _ (count ▸ fits), State.setAliasCount_pool typ, count,
      State.retestGroup_none (State.NoPoolPost.kept (.of_semSet s hd hj _) hd unposted), State.semCount_fset _ _ _ fits]
    exact ⟨(Nat.min_eq_right fits).symm, fun _ => s.onlyRegs_fset_at _ rfl _, fun above => absurd above fits.not_gt⟩

/-! ## An arrival counter counted up -/

/-- A signal to an arrival counter on which no test is posted. -/
theorem semaphoreSignal_arc (s : State) (g : Tile) (e : Eng) (a : Fin 63) (inc : Nat) (ia : Word32) (live : s.Live) (typ : s.aliasType g a = 2)
    (idx : s.aliasIdx g a < 64) (unposted : s.NoTilePost g 2 (s.aliasIdx g a)) (fits : s.arcCount g (s.aliasIdx g a) + inc ≤ 65535) :
    Completes (.semaphoreSignal g e a inc ia) s fun t =>
      t.arcCount g (s.aliasIdx g a) = s.arcCount g (s.aliasIdx g a) + inc ∧ s.OnlyRegs t fun r => r = R.TIL_ARC g (s.aliasIdx g a) := by
  have count := State.aliasCount_arc typ idx
  refine ⟨_, exec_semaphoreSignal live .., ?_⟩
  dsimp only
  rw [State.applySignal_arc typ, s.addSignal_fits g e a inc _ (count ▸ fits), State.setAliasCount_arc typ idx, count,
    State.retestTile_none (State.NoTilePost.kept (.of_arcSet s g.isLt idx _) g.isLt two_ne_zero unposted)]
  exact ⟨s.arcCount_fset _ _ fits, s.onlyRegs_fset_at _ rfl _⟩

/-- A segment closed at a counter that has not expired, below its bound and with no test posted (R192, R193). -/
theorem segmentClose_counts (s : State) (g : Tile) (n : Fin 64) (live : s.Live) (open_ : s.flag (R.TIL_ARC g n) F.TIL_ARC_EXPIRED = false)
    (below : s.arcCount g n < 65535) (unposted : s.NoTilePost g 2 n) :
    Completes (.segmentClose g n) s fun t =>
      t.arcCount g n = s.arcCount g n + 1 ∧ s.OnlyRegs t fun r => r = R.TIL_ARC g n := by
  have closed : s.syncDeliver (.segClose g n) = s.fset (R.TIL_ARC g n) F.TIL_ARC_COUNT (s.arcCount g n + 1) := by
    simp only [State.syncDeliver, open_, Bool.false_eq_true, if_false]
    unfold State.arcIncr
    dsimp only
    rw [if_neg below.ne]
    exact State.retestTile_none (State.NoTilePost.kept (.of_arcSet s g.isLt n.isLt _) g.isLt two_ne_zero unposted)
  refine ⟨_, onLive_live live fun s => s.syncDeliver (.segClose g n), ?_⟩
  dsimp only
  rw [closed]
  exact ⟨s.arcCount_fset _ _ below, s.onlyRegs_fset_at _ rfl _⟩

/-! ## A batch of one operation (R183 to R185) -/

theorem engsTestOrder_nodup : engsTestOrder.Nodup := by decide

theorem mem_engsTestOrder (e : Eng) : e ∈ engsTestOrder := by cases e <;> decide

/-- The batch of a tile emptied. -/
def State.batchTaken (s : State) (g : Nat) : State := s.modTile g fun t => { t with batch := [] }

theorem State.NoNewPosts.of_batchTaken (s : State) (g : Nat) : s.NoNewPosts (s.batchTaken g) :=
  .of_regs (A := fun _ => False) (State.keepsRegs_of_regs (State.modTile_regs ..)) (fun _ _ _ _ h => h) (State.modTile_engs ..)

theorem State.batch_batchTaken (s : State) (g : Nat) : ((s.batchTaken g).tile g).batch = [] := by
  rw [State.batchTaken, State.tile_modTile_same]

/-- The tests that an engine has posted on a group of `ks`, tested again. -/
def State.retestGroups (s : State) (g : Nat) (ks : List Nat) : State :=
  s.each engsTestOrder fun s e => if ks.any fun k => s.postedOnGroup g e k then s.retest g e else s

theorem State.retestGroups_none {s : State} {g : Nat} {ks : List Nat} (h : ∀ k ∈ ks, ∀ e ∈ engsAll, s.postedOnGroup g e k = false) :
    s.retestGroups g ks = s := by
  refine State.each_unchanged fun e _ => if_neg ?_
  rw [List.any_eq_true]
  exact fun ⟨k, hk, p⟩ => Bool.false_ne_true ((h k hk e (mem_engsAll e)).symm.trans p)

/-- The tiles of the die of `g` but for `g`. -/
def otherTiles (g : Nat) : List Nat := ((List.range 64).map fun t => g / 64 * 64 + t).filter fun h => decide (h ≠ g)

theorem div_of_mem_otherTiles {g h : Nat} (hh : h ∈ otherTiles g) : h / 64 = g / 64 := by
  obtain ⟨i, hi, rfl⟩ := List.mem_map.mp (List.mem_filter.mp hh).1
  have := List.mem_range.mp hi
  omega

theorem State.poolBatch_signal_eq {s : State} {g : Nat} {e : Eng} {a inc ia : Nat} (batch : (s.tile g).batch = [.signal e a inc ia]) :
    s.poolBatch g = (((s.batchTaken g).addSignal g e a inc ia).retestGroups g [s.aliasIdx g a / 32]).each (otherTiles g) fun u h =>
      u.retestGroups h [s.aliasIdx g a / 32] := by
  unfold State.poolBatch
  rw [batch]
  rfl

theorem State.poolBatch_signal {s : State} {g : Nat} {e : Eng} {a inc ia : Nat} (batch : (s.tile g).batch = [.signal e a inc ia])
    (unposted : ((s.batchTaken g).addSignal g e a inc ia).NoPoolPost (g / 64) (s.aliasIdx g a / 32)) :
    s.poolBatch g = (s.batchTaken g).addSignal g e a inc ia := by
  have unwoken {h : Nat} (hh : h / 64 = g / 64) : ((s.batchTaken g).addSignal g e a inc ia).retestGroups h [s.aliasIdx g a / 32] =
      (s.batchTaken g).addSignal g e a inc ia := by
    refine State.retestGroups_none fun k hk e' he' => ?_
    have none_ := unposted (h % 64) (by omega) e' he'
    rwa [show g / 64 * 64 + h % 64 = h by omega, ← List.mem_singleton.mp hk] at none_
  rw [State.poolBatch_signal_eq batch, unwoken rfl]
  exact State.each_unchanged fun h hh => unwoken (div_of_mem_otherTiles hh)

theorem poolBatch_oneSignal (s : State) (g : Tile) (e : Eng) (a : Fin 63) (inc ia : Nat) (live : s.Live) (batch : (s.tile g).batch = [.signal e a inc ia])
    (typ : s.aliasType g a = 1) (unposted : s.NoPoolPost (g.val / 64) (s.aliasIdx g a / 32))
    (fits : s.semCount (g.val / 64) (s.aliasIdx g a) + inc ≤ 65535) :
    Completes (.poolBatch g) s fun t =>
      t.semCount (g.val / 64) (s.aliasIdx g a) = s.semCount (g.val / 64) (s.aliasIdx g a) + inc ∧ (t.tile g).batch = [] ∧
      s.KeepsRegs t fun r => r = R.SYN_SEM (g.val / 64) (s.aliasIdx g a) := by
  have hd : g.val / 64 < 24 := by omega
  have hj := s.aliasIdx_lt g a
  have count : (s.batchTaken g).aliasCount g a = s.semCount (g.val / 64) (s.aliasIdx g a) := State.aliasCount_pool typ
  have added : (s.batchTaken g).addSignal g e a inc ia =
      (s.batchTaken g).fset (R.SYN_SEM (g.val / 64) (s.aliasIdx g a)) F.SYN_SEM_COUNT (s.semCount (g.val / 64) (s.aliasIdx g a) + inc) := by
    rw [State.addSignal_fits _ _ _ _ _ _ (count ▸ fits), count]
    exact State.setAliasCount_pool (s := s.batchTaken g) typ _
  have posts := (State.NoNewPosts.of_batchTaken s g).trans (.of_semSet (s.batchTaken g) hd hj (s.semCount (g.val / 64) (s.aliasIdx g a) + inc))
  refine ⟨_, exec_poolBatch live g, ?_⟩
  dsimp only
  rw [State.poolBatch_signal batch (added ▸ State.NoPoolPost.kept posts hd unposted), added, State.tile_fset, s.batch_batchTaken]
  exact ⟨State.semCount_fset _ _ _ fits, rfl, (State.onlyRegs_fset_at _ _ rfl _).2⟩

theorem State.testWait_covered {s : State} {g : Nat} {w : WaitF} (h : w.thr ≤ s.aliasCount g w.alias_) :
    s.testWait g w = (if w.consume then s.setAliasCount g w.alias_ (s.aliasCount g w.alias_ - w.thr) else s, true) := if_pos h

theorem State.testWait_short {s : State} {g : Nat} {w : WaitF} (h : s.aliasCount g w.alias_ < w.thr) : s.testWait g w = (s, false) := if_neg h.not_ge

/-- A first test that the count of its semaphore covers, as SYN applies it. -/
theorem State.poolBatch_test_eq {s : State} {g : Nat} {e : Eng} {a thr : Nat} {c : Bool} (batch : (s.tile g).batch = [.test e a thr c false])
    (wait : (s.eng g e).wait = .inBatch) (covered : thr ≤ s.aliasCount g a) :
    s.poolBatch g = ((s.batchTaken g).testWait g ⟨a, thr, c, 0⟩).1.modEng g e fun x => { x with wait := .granted, timer := none } := by
  have wait' : ((s.batchTaken g).eng g e).wait = .inBatch := wait
  have passes : ((s.batchTaken g).testWait g ⟨a, thr, c, 0⟩).2 = true := congrArg Prod.snd (State.testWait_covered covered)
  unfold State.poolBatch
  rw [batch]
  dsimp only [List.filterMap_cons, List.filterMap_nil, List.map_nil]
  rw [State.each_only engsTestOrder_nodup (mem_engsTestOrder e)]
  · rw [if_pos (rfl : e = e)]
    refine (State.each_unchanged fun h _ => State.retestGroups_none (ks := []) fun _ hk => absurd hk List.not_mem_nil).trans ?_
    refine (if_pos wait').trans (if_pos passes)
  · intro u e' _ ne
    rw [if_neg ne.symm]
    rfl

theorem poolBatch_oneTest (s : State) (g : Tile) (e : Eng) (a : Fin 63) (thr : Nat) (c : Bool) (live : s.Live)
    (batch : (s.tile g).batch = [.test e a thr c false]) (wait : (s.eng g e).wait = .inBatch) (typ : s.aliasType g a = 1)
    (covered : thr ≤ s.semCount (g.val / 64) (s.aliasIdx g a)) :
    Completes (.poolBatch g) s fun t =>
      (t.eng g e).wait = .granted ∧ (t.tile g).batch = [] ∧
      t.semCount (g.val / 64) (s.aliasIdx g a) =
        (if c then s.semCount (g.val / 64) (s.aliasIdx g a) - thr else s.semCount (g.val / 64) (s.aliasIdx g a)) ∧
      s.KeepsRegs t fun r => r = R.SYN_SEM (g.val / 64) (s.aliasIdx g a) := by
  have count : (s.batchTaken g).aliasCount g a = s.semCount (g.val / 64) (s.aliasIdx g a) := State.aliasCount_pool typ
  have below : s.semCount (g.val / 64) (s.aliasIdx g a) ≤ 65535 := Nat.le_of_lt_succ (s.fget_lt _ F.SYN_SEM_COUNT)
  refine ⟨_, exec_poolBatch live g, ?_⟩
  dsimp only
  rw [State.poolBatch_test_eq batch wait ((State.aliasCount_pool typ).symm ▸ covered), State.testWait_covered (count.symm ▸ covered), count,
    State.eng_modEng_same]
  dsimp only
  rw [State.setAliasCount_pool (s := s.batchTaken g) typ]
  have taken := s.batch_batchTaken g
  have regs : s.KeepsRegs (s.batchTaken g) fun r => r = R.SYN_SEM (g.val / 64) (s.aliasIdx g a) := State.keepsRegs_of_regs (State.modTile_regs ..)
  have same : (s.batchTaken g).semCount (g.val / 64) (s.aliasIdx g a) = s.semCount (g.val / 64) (s.aliasIdx g a) := rfl
  have idx : (s.batchTaken g).aliasIdx g a = s.aliasIdx g a := rfl
  rw [idx]
  generalize s.batchTaken g = u at *
  have granted (v : State) := State.modEng_regs v g e fun x => { x with wait := .granted, timer := none }
  have kept (v : State) (d j : Nat) : (v.modEng g e fun x => { x with wait := .granted, timer := none }).semCount d j = v.semCount d j :=
    State.fget_congr (granted v) _ _
  rw [State.tile_congr (State.modEng_tiles ..), kept]
  cases c with
  | false =>
    rw [if_neg Bool.false_ne_true, if_neg Bool.false_ne_true]
    exact ⟨rfl, taken, same, State.KeepsRegs.trans regs (State.keepsRegs_of_regs (granted u))⟩
  | true =>
    rw [if_pos rfl, if_pos rfl, State.tile_fset]
    exact ⟨rfl, taken, u.semCount_fset _ _ ((Nat.sub_le _ _).trans below),
      State.KeepsRegs.trans regs (State.KeepsRegs.trans (u.onlyRegs_fset_at _ rfl _).2 (State.keepsRegs_of_regs (granted _)))⟩

end Sys2Proof.Machine
end

section
/-! PROOF. Two consuming tests posted on one arrival counter (R182, R183, R185). -/

namespace Sys2Proof.Machine

/-! ## The order of the engines -/

/-- A list cut before two of its elements, the first in it before the second. -/
theorem split_two {α : Type} [DecidableEq α] {l : List α} (nd : l.Nodup) {x y : α} (hx : x ∈ l) (hy : y ∈ l) (before : l.idxOf x < l.idxOf y) :
    ∃ pre mid post, l = pre ++ x :: (mid ++ y :: post) := by
  obtain ⟨pre, rest, rfl⟩ := List.append_of_mem hx
  have notin : x ∉ pre := fun h => (List.nodup_append.mp nd).2.2 x h x List.mem_cons_self rfl
  rw [List.idxOf_append_of_notMem notin, List.idxOf_cons_self] at before
  rcases List.mem_append.mp hy with inPre | inRest
  · rw [List.idxOf_append_of_mem inPre] at before
    exact absurd (List.idxOf_lt_length_of_mem inPre) before.not_gt
  · rcases List.mem_cons.mp inRest with rfl | inRest
    · rw [List.idxOf_append_of_notMem notin, List.idxOf_cons_self] at before
      exact absurd before (lt_irrefl _)
    · obtain ⟨mid, post, rfl⟩ := List.append_of_mem inRest
      exact ⟨pre, mid, post, rfl⟩

/-! ## An engine's turn in a wake -/

/-- What the wake of a tile's counter does at one engine. -/
def State.wakeTurn (g typ idx : Nat) (s : State) (e : Eng) : State :=
  match (s.eng g e).wf with
  | some w => if (s.eng g e).isPosted ∧ s.aliasType g w.alias_ = typ ∧ s.aliasIdx g w.alias_ = idx then s.retest g e else s
  | none => s

theorem State.retestTile_eq (s : State) (g typ idx : Nat) : s.retestTile g typ idx = s.each engsTestOrder (State.wakeTurn g typ idx) := rfl

theorem State.wakeTurn_unposted {s : State} {g typ idx : Nat} {e : Eng} (h : (s.eng g e).isPosted = false) : s.wakeTurn g typ idx e = s := by
  unfold State.wakeTurn
  split
  · exact if_neg fun p => Bool.false_ne_true (h.symm.trans p.1)
  · rfl

theorem State.grant_posted {s : State} {g : Nat} {e : Eng} (wait : (s.eng g e).wait = .posted) :
    s.grant g e = s.setEng g e { s.eng g e with wait := .granted } := by
  unfold State.grant
  dsimp only
  rw [wait]
  rfl

section
variable {s t : State} {g : Nat} {e : Eng} {w : WaitF}

theorem State.retest_passed (posted : (s.eng g e).isPosted = true) (wf : (s.eng g e).wf = some w) (test : s.testWait g w = (t, true)) :
    s.retest g e = t.grant g e := by
  unfold State.retest
  dsimp only
  rw [wf]
  dsimp only
  rw [if_pos posted, test]
  exact if_pos rfl

theorem State.retest_failed (posted : (s.eng g e).isPosted = true) (wf : (s.eng g e).wf = some w) (test : s.testWait g w = (t, false)) :
    s.retest g e = t.tilCnt g (R.TIL_SYNCNT1 g) F.TIL_SYNCNT1_SPURIOUS 1 := by
  unfold State.retest
  dsimp only
  rw [wf]
  dsimp only
  rw [if_pos posted, test]
  exact if_neg Bool.false_ne_true

end

/-- A posted test of engine `e` on counter `n` of the tile. -/
structure State.PostedArc (s : State) (g : Nat) (e : Eng) (w : WaitF) (n : Nat) : Prop where
  wait : (s.eng g e).wait = .posted
  wf : (s.eng g e).wf = some w
  typ : s.aliasType g w.alias_ = 2
  idx : s.aliasIdx g w.alias_ = n

section
variable {s : State} {g n : Nat} {e : Eng} {w : WaitF}

theorem State.PostedArc.isPosted (p : s.PostedArc g e w n) : (s.eng g e).isPosted = true := by simp [EngSt.isPosted, p.wait]

theorem State.PostedArc.count (p : s.PostedArc g e w n) (hn : n < 64) : s.aliasCount g w.alias_ = s.arcCount g n :=
  p.idx ▸ State.aliasCount_arc p.typ (p.idx ▸ hn)

theorem State.PostedArc.kept {t : State} (p : s.PostedArc g e w n) (eng : t.eng g e = s.eng g e)
    (al : ∀ a < 63, t.rd (R.TIL_ALIAS g a) = s.rd (R.TIL_ALIAS g a)) : t.PostedArc g e w n := by
  have same := al _ (aliasType_inside p.typ two_ne_zero)
  exact ⟨eng ▸ p.wait, eng ▸ p.wf, (State.aliasType_congr same).trans p.typ, (State.aliasIdx_congr same).trans p.idx⟩

theorem State.PostedArc.turn (p : s.PostedArc g e w n) : s.wakeTurn g 2 n e = s.retest g e := by
  rw [State.wakeTurn, p.wf]
  exact if_pos ⟨p.isPosted, p.typ, p.idx⟩

/-- A covered consuming test takes its threshold and is granted. -/
theorem State.PostedArc.granted (p : s.PostedArc g e w n) (hn : n < 64) (c : w.consume = true) (covered : w.thr ≤ s.arcCount g n) :
    s.retest g e = (s.fset (R.TIL_ARC g n) F.TIL_ARC_COUNT (s.arcCount g n - w.thr)).setEng g e { s.eng g e with wait := .granted } := by
  have test := State.testWait_covered (w := w) (p.count hn ▸ covered)
  rw [c, if_pos rfl, p.count hn, State.setAliasCount_arc p.typ (p.idx ▸ hn), p.idx] at test
  rw [State.retest_passed p.isPosted p.wf test]
  have eng : (s.fset (R.TIL_ARC g n) F.TIL_ARC_COUNT (s.arcCount g n - w.thr)).eng g e = s.eng g e := State.eng_congr (State.fset_engs ..) g e
  generalize s.fset (R.TIL_ARC g n) F.TIL_ARC_COUNT (s.arcCount g n - w.thr) = u at *
  rw [State.grant_posted (eng.symm ▸ p.wait), eng]

/-- A test that is not covered wakes for nothing. -/
theorem State.PostedArc.spurious (p : s.PostedArc g e w n) (hn : n < 64) (short : s.arcCount g n < w.thr) :
    s.retest g e = s.tilCnt g (R.TIL_SYNCNT1 g) F.TIL_SYNCNT1_SPURIOUS 1 :=
  State.retest_failed p.isPosted p.wf (State.testWait_short (w := w) (p.count hn ▸ short))

end

/-- Of two consuming tests posted on one counter that covers the first alone, the first is granted and the second stays posted. -/
theorem State.retestTile_two {s : State} {g n : Nat} (hg : g < 1536) (hn : n < 64) {e1 e2 : Eng} {w1 w2 : WaitF}
    (order : engsTestOrder.idxOf e1 < engsTestOrder.idxOf e2) (p1 : s.PostedArc g e1 w1 n) (p2 : s.PostedArc g e2 w2 n)
    (c1 : w1.consume = true) (others : ∀ e, e ≠ e1 → e ≠ e2 → (s.eng g e).isPosted = false) (covered : w1.thr ≤ s.arcCount g n)
    (short : s.arcCount g n < w1.thr + w2.thr) :
    ((s.retestTile g 2 n).eng g e1).wait = .granted ∧ ((s.retestTile g 2 n).eng g e2).wait = .posted ∧
      (s.retestTile g 2 n).arcCount g n = s.arcCount g n - w1.thr := by
  have ne : e1 ≠ e2 := fun e => order.ne (congrArg engsTestOrder.idxOf e)
  obtain ⟨pre, mid, post, cut⟩ := split_two engsTestOrder_nodup (mem_engsTestOrder e1) (mem_engsTestOrder e2) order
  have nd := cut ▸ engsTestOrder_nodup
  simp only [List.nodup_append, List.nodup_cons, List.mem_append, List.mem_cons, not_or] at nd
  obtain ⟨-, ⟨⟨no1mid, -, no1post⟩, -, ⟨no2post, -⟩, mids⟩, pres⟩ := nd
  have below : s.arcCount g n ≤ 65535 := Nat.le_of_lt_succ (s.fget_lt _ F.TIL_ARC_COUNT)
  have skip {v : State} {l : List Eng} (hl : ∀ e ∈ l, e ≠ e1 ∧ e ≠ e2) (un : ∀ e, e ≠ e1 → e ≠ e2 → (v.eng g e).isPosted = false) :
      v.each l (State.wakeTurn g 2 n) = v :=
    State.each_unchanged fun e he => State.wakeTurn_unposted (un e (hl e he).1 (hl e he).2)
  rw [State.retestTile_eq, cut, State.each_append, skip (fun e he => ⟨pres e he e1 (.inl rfl), pres e he e2 (.inr (.inr (.inl rfl)))⟩) others,
    State.each_cons, p1.turn, p1.granted hn c1 covered]
  have arc := s.arcCount_fset g n ((Nat.sub_le (s.arcCount g n) w1.thr).trans below)
  have alias_ := (s.onlyRegs_fset_at (R.TIL_ARC g n) rfl (f := F.TIL_ARC_COUNT) (s.arcCount g n - w1.thr)).2
  have engs : (s.fset (R.TIL_ARC g n) F.TIL_ARC_COUNT (s.arcCount g n - w1.thr)).engs = s.engs := State.fset_engs ..
  generalize s.fset (R.TIL_ARC g n) F.TIL_ARC_COUNT (s.arcCount g n - w1.thr) = u at *
  have regs := u.setEng_regs g e1 { s.eng g e1 with wait := .granted }
  have at_ (k : Eng) := u.eng_setEng g e1 { s.eng g e1 with wait := .granted } g k
  generalize u.setEng g e1 { s.eng g e1 with wait := .granted } = v at *
  have away {k : Eng} (hk : k ≠ e1) : v.eng g k = s.eng g k := by rw [at_, if_neg fun h => hk h.2, State.eng_congr engs]
  have p2' : v.PostedArc g e2 w2 n :=
    p2.kept (away ne.symm) fun a ha => (State.rd_congr regs _).trans (alias_ _ (aliasFree_arc hg hn g hg a ha))
  have arc' : v.arcCount g n = s.arcCount g n - w1.thr := (State.fget_congr regs _ _).trans arc
  have unposted : ∀ e, e ≠ e1 → e ≠ e2 → (v.eng g e).isPosted = false := fun e h1 h2 => by rw [away h1]; exact others e h1 h2
  rw [State.each_append, skip (fun e he => ⟨fun h => no1mid (h ▸ he), mids e he e2 (.inl rfl)⟩) unposted, State.each_cons, p2'.turn,
    p2'.spurious hn (by omega)]
  obtain ⟨same, cnt⟩ := v.onlyRegs_tilCnt (g := g) (R.TIL_SYNCNT1 g) (f := F.TIL_SYNCNT1_SPURIOUS) rfl 1
  have engs' : (v.tilCnt g (R.TIL_SYNCNT1 g) F.TIL_SYNCNT1_SPURIOUS 1).engs = v.engs := by rw [same]
  have apart : R.TIL_ARC g n ≠ R.TIL_SYNCNT1 g := by
    simp only [R.TIL_ARC, R.TIL_SYNCNT1]
    omega
  rw [skip (fun e he => ⟨fun h => no1post (h ▸ he), fun h => no2post (h ▸ he)⟩)
      fun e h1 h2 => by rw [State.eng_congr engs']; exact unposted e h1 h2,
    State.eng_congr engs', State.eng_congr engs', away ne.symm, at_, if_pos ⟨rfl, rfl⟩]
  exact ⟨rfl, p2.wait, (State.fget_of_rd rfl (cnt _ apart)).trans arc'⟩

theorem semaphoreSignal_two (s : State) (g : Tile) (e e1 e2 : Eng) (a : Fin 63) (inc : Nat) (ia : Word32) (w1 w2 : WaitF) (live : s.Live)
    (typ : s.aliasType g a = 2) (idx : s.aliasIdx g a < 64) (order : engsTestOrder.idxOf e1 < engsTestOrder.idxOf e2)
    (p1 : s.PostedArc g e1 w1 (s.aliasIdx g a)) (p2 : s.PostedArc g e2 w2 (s.aliasIdx g a)) (c1 : w1.consume = true)
    (others : ∀ e3 : Eng, e3 ≠ e1 → e3 ≠ e2 → (s.eng g e3).isPosted = false) (fits : s.arcCount g (s.aliasIdx g a) + inc ≤ 65535)
    (covered : w1.thr ≤ s.arcCount g (s.aliasIdx g a) + inc) (short : s.arcCount g (s.aliasIdx g a) + inc < w1.thr + w2.thr) :
    Completes (.semaphoreSignal g e a inc ia) s fun t =>
      (t.eng g e1).wait = .granted ∧ (t.eng g e2).wait = .posted ∧
      t.arcCount g (s.aliasIdx g a) = s.arcCount g (s.aliasIdx g a) + inc - w1.thr := by
  have count := State.aliasCount_arc typ idx
  refine ⟨_, exec_semaphoreSignal live .., ?_⟩
  dsimp only
  rw [State.applySignal_arc typ, s.addSignal_fits g e a inc _ (count ▸ fits), State.setAliasCount_arc typ idx, count]
  have arc := s.arcCount_fset g (s.aliasIdx g a) fits
  have alias_ := (s.onlyRegs_fset_at (R.TIL_ARC g (s.aliasIdx g a)) rfl (f := F.TIL_ARC_COUNT) (s.arcCount g (s.aliasIdx g a) + inc)).2
  have engs : (s.fset (R.TIL_ARC g (s.aliasIdx g a)) F.TIL_ARC_COUNT (s.arcCount g (s.aliasIdx g a) + inc)).engs = s.engs := State.fset_engs ..
  generalize s.fset (R.TIL_ARC g (s.aliasIdx g a)) F.TIL_ARC_COUNT (s.arcCount g (s.aliasIdx g a) + inc) = u at *
  have kept {k : Eng} {w : WaitF} (p : s.PostedArc g k w (s.aliasIdx g a)) : u.PostedArc g k w (s.aliasIdx g a) :=
    p.kept (State.eng_congr engs ..) fun b hb => alias_ _ (aliasFree_arc g.isLt idx g g.isLt b hb)
  rw [← arc]
  exact State.retestTile_two g.isLt idx order (kept p1) (kept p2) c1 (fun k h1 h2 => by rw [State.eng_congr engs]; exact others k h1 h2)
    (arc.symm ▸ covered) (arc.symm ▸ short)

end Sys2Proof.Machine
end

section
/-! PROOF. The end of a wait's timer (R104, R188 to R190). -/

namespace Sys2Proof.Machine

/-! ## A final test -/

section
variable {s t : State} {g : Nat} {e : Eng} {w : WaitF}

theorem State.finalTest_passed (wf : (s.eng g e).wf = some w) (test : s.testWait g w = (t, true)) :
    s.finalTest g e = (t.modEng g e fun x => { x with wait := .finaling }).grant g e := by
  unfold State.finalTest
  rw [wf]
  dsimp only
  rw [test]
  exact if_pos rfl

theorem State.finalTest_failed (wf : (s.eng g e).wf = some w) (test : s.testWait g w = (s, false)) (run : s.runBit g e = true) :
    s.finalTest g e = s.timeout g e := by
  unfold State.finalTest
  rw [wf]
  dsimp only
  rw [test]
  exact (if_neg Bool.false_ne_true).trans (if_pos run)

/-- A grant after a final test: a close call. -/
theorem State.grant_finaling (wait : (s.eng g e).wait = .finaling) :
    s.grant g e =
      (s.tilCnt g (R.TIL_SYNCNT0 g) F.TIL_SYNCNT0_CLOSECALL 1).setEng g e { s.eng g e with wait := .granted, timer := none } := by
  unfold State.grant
  dsimp only
  rw [wait, if_pos rfl, if_pos rfl]

end

/-- The registers that hold the counts in a tile. -/
def TileCounts (g a : Nat) : Prop := (∃ n < 64, a = R.TIL_ARC g n) ∨ ∃ i < 63, a = R.TIL_ALIAS g i

theorem State.keepsRegs_setAliasCount {s : State} {g a : Nat} (typ : s.aliasType g a = 2 ∨ s.aliasType g a = 3) (v : Nat) :
    s.KeepsRegs (s.setAliasCount g a v) (TileCounts g) := by
  rcases typ with arc | bar
  · simp only [State.setAliasCount, arc]
    exact (s.keepsRegs_fset_at rfl v).mono fun b hb => .inl ⟨_, Nat.mod_lt _ (by decide), hb⟩
  · simp only [State.setAliasCount, bar]
    exact (s.keepsRegs_fset_at rfl v).mono fun b hb => .inr ⟨a, aliasType_inside bar three_ne_zero, hb⟩

/-- A test leaves every register but those of the counts. -/
theorem State.keepsRegs_testWait {s : State} {g : Nat} {w : WaitF} (typ : s.aliasType g w.alias_ = 2 ∨ s.aliasType g w.alias_ = 3) :
    s.KeepsRegs (s.testWait g w).1 (TileCounts g) := by
  unfold State.testWait
  dsimp only
  split
  · dsimp only
    split
    · exact State.keepsRegs_setAliasCount typ _
    · exact .refl s
  · exact .refl s

theorem State.aliasCount_congr {s t : State} (h : t.regs = s.regs) (g a : Nat) : t.aliasCount g a = s.aliasCount g a := by
  unfold State.aliasCount
  rw [State.aliasType_congr (State.rd_congr h _), State.aliasIdx_congr (State.rd_congr h _)]
  simp only [State.semCount, State.arcCount, State.fget_congr h]

/-- The close calls of a tile, counted unless its counters are frozen. -/
theorem State.closeCall_counted {s t : State} {g : Nat} (kept : s.KeepsRegs t (TileCounts g))
    (warm : s.flag (R.TIL_CNTCTL g) F.TIL_CNTCTL_FREEZE = false) :
    (t.tilCnt g (R.TIL_SYNCNT0 g) F.TIL_SYNCNT0_CLOSECALL 1).fget (R.TIL_SYNCNT0 g) F.TIL_SYNCNT0_CLOSECALL =
      min (fldTop F.TIL_SYNCNT0_CLOSECALL) (s.fget (R.TIL_SYNCNT0 g) F.TIL_SYNCNT0_CLOSECALL + 1) := by
  have ctl : ¬ TileCounts g (R.TIL_CNTCTL g) := by
    simp only [TileCounts, R.TIL_CNTCTL, R.TIL_ARC, R.TIL_ALIAS]
    omega
  have cnt : ¬ TileCounts g (R.TIL_SYNCNT0 g) := by
    simp only [TileCounts, R.TIL_SYNCNT0, R.TIL_ARC, R.TIL_ALIAS]
    omega
  rw [t.fget_tilCnt g _ (by decide), State.flag_congr (State.fget_of_rd rfl (kept _ ctl)), warm, if_neg Bool.false_ne_true,
    State.fget_of_rd rfl (kept _ cnt)]

/-- A covered final test is granted with a close call. -/
theorem State.finalTest_covered {s : State} {g : Nat} {e : Eng} {w : WaitF} (wf : (s.eng g e).wf = some w)
    (typ : s.aliasType g w.alias_ = 2 ∨ s.aliasType g w.alias_ = 3) (covered : w.thr ≤ s.aliasCount g w.alias_) :
    ((s.finalTest g e).eng g e).wait = .granted ∧
      (s.flag (R.TIL_CNTCTL g) F.TIL_CNTCTL_FREEZE = false → (s.finalTest g e).fget (R.TIL_SYNCNT0 g) F.TIL_SYNCNT0_CLOSECALL =
        min (fldTop F.TIL_SYNCNT0_CLOSECALL) (s.fget (R.TIL_SYNCNT0 g) F.TIL_SYNCNT0_CLOSECALL + 1)) := by
  have kept := State.keepsRegs_testWait (w := w) typ
  have test : s.testWait g w = ((s.testWait g w).1, true) := by rw [State.testWait_covered covered]
  generalize (s.testWait g w).1 = t at *
  rw [State.finalTest_passed wf test, State.grant_finaling (by rw [State.eng_modEng_same]), State.eng_setEng_same]
  refine ⟨rfl, fun warm => (State.fget_congr (State.setEng_regs ..) _ _).trans (State.closeCall_counted (kept.trans ?_) warm)⟩
  exact State.keepsRegs_of_regs (State.modEng_regs ..)

/-! ## A timeout -/

theorem State.OnlyRegs.engs {s t : State} {A : Nat → Prop} (h : s.OnlyRegs t A) : t.engs = s.engs := by rw [h.1]

/-- A wait that failed its final test, before the fault of its engine (R189). -/
def State.timedOut (s : State) (g : Nat) (e : Eng) : State :=
  let u := ((s.clearWait g e).istat g e 0x80).tilCnt g (R.TIL_SYNCNT1 g) F.TIL_SYNCNT1_TMOFIRED 1
  match (s.eng g e).wf with
  | some w => if u.aliasType g w.alias_ = 2 then u.fset (R.TIL_ARC g (u.aliasIdx g w.alias_ % 64)) F.TIL_ARC_EXPIRED 1 else u
  | none => u

theorem State.timeout_eq (s : State) (g : Nat) (e : Eng) : s.timeout g e = (s.timedOut g e).tileFault g (engIdx e) 0x31 (s.eng g e).wia none := rfl

theorem State.timedOut_get (s : State) (g : Nat) (e : Eng) :
    ((s.timedOut g e).eng g e).wait = .fresh ∧ (s.timedOut g e).fget (R.TIL_ISTAT g (engIdx e)) F.TIL_ISTAT_LAST = 0x80 := by
  have eng : ((s.clearWait g e).eng g e).wait = .fresh := by rw [State.clearWait, State.eng_modEng_same]
  unfold State.timedOut
  generalize s.clearWait g e = a at *
  have last := (State.istat_get (s := a) (g := g) (e := e) (st := 0x80) (by decide)).1
  have engs : (a.istat g e 0x80).eng g e = a.eng g e := State.eng_congr (a.onlyRegs_istat g e 0x80).engs g e
  generalize a.istat g e 0x80 = b at *
  have idx := engIdx_lt e
  have fired := b.onlyRegs_tilCnt g (R.TIL_SYNCNT1 g) (f := F.TIL_SYNCNT1_TMOFIRED) rfl 1
  have cnt := fired.2 (R.TIL_ISTAT g (engIdx e)) (by
    simp only [R.TIL_ISTAT, R.TIL_SYNCNT1]
    omega)
  have engs' : (b.tilCnt g (R.TIL_SYNCNT1 g) F.TIL_SYNCNT1_TMOFIRED 1).eng g e = b.eng g e := State.eng_congr fired.engs g e
  generalize b.tilCnt g (R.TIL_SYNCNT1 g) F.TIL_SYNCNT1_TMOFIRED 1 = u at *
  have base : (u.eng g e).wait = .fresh ∧ u.fget (R.TIL_ISTAT g (engIdx e)) F.TIL_ISTAT_LAST = 0x80 :=
    ⟨(congrArg EngSt.wait (engs'.trans engs)).trans eng, (State.fget_of_rd rfl cnt).trans last⟩
  dsimp only
  split
  next w _ =>
    split
    next =>
      have apart : R.TIL_ISTAT g (engIdx e) ≠ R.TIL_ARC g (u.aliasIdx g w.alias_ % 64) := by
        simp only [R.TIL_ISTAT, R.TIL_ARC]
        omega
      rw [State.eng_congr (State.fset_engs ..), u.fget_fset_ne rfl rfl apart]
      exact base
    next => exact base
  next => exact base

theorem State.timeout_get (s : State) (g : Nat) (e : Eng) :
    ((s.timeout g e).eng g e).wait = .fresh ∧ ((s.timeout g e).eng g e).faulted = true ∧ (s.timeout g e).runBit g e = false ∧
      (s.timeout g e).fget (R.TIL_ISTAT g (engIdx e)) F.TIL_ISTAT_LAST = 0x80 := by
  obtain ⟨wait, last⟩ := s.timedOut_get g e
  rw [State.timeout_eq]
  obtain ⟨regs, -, stop, engs⟩ := (s.timedOut g e).tileFault_frame g e 0x31 (s.eng g e).wia none
  have idx := engIdx_lt e
  have outside : ¬ FaultRegs g (R.TIL_ISTAT g (engIdx e)) := by
    simp only [FaultRegs, R.TIL_ISTAT, R.TIL_FAULT, R.TIL_FADDR, R.TIL_CTL]
    omega
  refine ⟨?_, ?_, stop, (State.fget_of_rd rfl (regs _ outside)).trans last⟩
  · rw [engs, if_pos ⟨rfl, rfl⟩, EngSt.withdrawn, if_pos (.inr wait)]
  · rw [engs, if_pos ⟨rfl, rfl⟩]
    exact withdrawn_faulted _

/-! ## What the timer's end does (R188) -/

section
variable {s : State} {g : Nat} {e : Eng} {w : WaitF} {n : Nat}

theorem State.timerExpiry_inBatch (wf : (s.eng g e).wf = some w) (timer : (s.eng g e).timer = some n) (wait : (s.eng g e).wait = .inBatch) :
    s.timerExpiry g e = s.modEng g e fun x => { x with timer := some 0 } := by
  simp only [State.timerExpiry, wf, timer, wait]

theorem State.timerExpiry_pool (wf : (s.eng g e).wf = some w) (timer : (s.eng g e).timer = some n) (wait : (s.eng g e).wait = .posted)
    (typ : s.aliasType g w.alias_ = 1) :
    s.timerExpiry g e = (s.modEng g e fun x => { x with timer := some 0, wait := .finaling }).modTile g fun t =>
      { t with batch := t.batch ++ [.test e w.alias_ w.thr w.consume true] } := by
  simp only [State.timerExpiry, wf, timer, wait, typ, if_true]

theorem State.timerExpiry_posted (wf : (s.eng g e).wf = some w) (timer : (s.eng g e).timer = some n) (wait : (s.eng g e).wait = .posted)
    (typ : s.aliasType g w.alias_ ≠ 1) : s.timerExpiry g e = (s.modEng g e fun x => { x with timer := some 0 }).finalTest g e := by
  simp only [State.timerExpiry, wf, timer, wait, typ, if_false]

theorem State.timerExpiry_granted (wf : (s.eng g e).wf = some w) (timer : (s.eng g e).timer = some n) (wait : (s.eng g e).wait = .granted) :
    s.timerExpiry g e = (s.modEng g e fun x => { x with timer := none }).tilCnt g (R.TIL_SYNCNT0 g) F.TIL_SYNCNT0_CLOSECALL 1 := by
  simp only [State.timerExpiry, wf, timer, wait]

end

theorem exec_waitTimerExpiry {s : State} (live : s.Live) (g : Tile) (e : Eng) : exec (.waitTimerExpiry g e) s = .next (s.timerExpiry g e) :=
  onLive_live live fun s => s.timerExpiry g e

theorem timerExpiry_withdraws (s : State) (g : Tile) (e : Eng) (w : WaitF) (n : Nat) (live : s.Live) (wf : (s.eng g e).wf = some w)
    (timer : (s.eng g e).timer = some n) (wait : (s.eng g e).wait = .posted) (typ : s.aliasType g w.alias_ = 1) :
    Completes (.waitTimerExpiry g e) s fun t =>
      (t.eng g e).wait = .finaling ∧ (t.tile g).batch = (s.tile g).batch ++ [.test e w.alias_ w.thr w.consume true] ∧ t.regs = s.regs := by
  refine ⟨_, exec_waitTimerExpiry live g e, ?_⟩
  dsimp only
  rw [State.timerExpiry_pool wf timer wait typ, State.eng_congr (State.modTile_engs ..), State.eng_modEng_same, State.tile_modTile_same,
    State.tile_congr (State.modEng_tiles ..), State.modTile_regs, State.modEng_regs]
  exact ⟨rfl, rfl, rfl⟩

theorem timerExpiry_decides (s : State) (g : Tile) (e : Eng) (w : WaitF) (n : Nat) (live : s.Live) (wf : (s.eng g e).wf = some w)
    (timer : (s.eng g e).timer = some n) (wait : (s.eng g e).wait = .posted) (typ : s.aliasType g w.alias_ = 2 ∨ s.aliasType g w.alias_ = 3) :
    Completes (.waitTimerExpiry g e) s fun t =>
      (w.thr ≤ s.aliasCount g w.alias_ → (t.eng g e).wait = .granted ∧
        (s.flag (R.TIL_CNTCTL g) F.TIL_CNTCTL_FREEZE = false → t.fget (R.TIL_SYNCNT0 g) F.TIL_SYNCNT0_CLOSECALL =
          min (fldTop F.TIL_SYNCNT0_CLOSECALL) (s.fget (R.TIL_SYNCNT0 g) F.TIL_SYNCNT0_CLOSECALL + 1))) ∧
      (s.aliasCount g w.alias_ < w.thr → s.runBit g e = true →
        (t.eng g e).wait = .fresh ∧ (t.eng g e).faulted = true ∧ t.runBit g e = false ∧
        t.fget (R.TIL_ISTAT g (engIdx e)) F.TIL_ISTAT_LAST = 0x80) := by
  have other : s.aliasType g w.alias_ ≠ 1 := by
    intro pool
    rw [pool] at typ
    exact absurd typ (by decide)
  refine ⟨_, exec_waitTimerExpiry live g e, ?_⟩
  dsimp only
  rw [State.timerExpiry_posted wf timer wait other]
  have regs := s.modEng_regs g e fun x => { x with timer := some 0 }
  have eng := s.eng_modEng_same g e fun x => { x with timer := some 0 }
  generalize (s.modEng g e fun x => { x with timer := some 0 }) = u at *
  have typ' : u.aliasType g w.alias_ = s.aliasType g w.alias_ := State.aliasType_congr (State.rd_congr regs _)
  have count : u.aliasCount g w.alias_ = s.aliasCount g w.alias_ := State.aliasCount_congr regs g _
  have wf' : (u.eng g e).wf = some w := by rw [eng]; exact wf
  refine ⟨fun covered => ?_, fun short run => ?_⟩
  · rw [← State.flag_congr (State.fget_congr regs _ _), ← State.fget_congr regs (R.TIL_SYNCNT0 g)]
    exact State.finalTest_covered wf' (typ'.symm ▸ typ) (count.symm ▸ covered)
  · rw [State.finalTest_failed wf' (State.testWait_short (count.symm ▸ short)) ((State.runBit_congr (State.fget_congr regs _ _) e).trans run)]
    exact u.timeout_get g e

theorem timerExpiry_closeCall (s : State) (g : Tile) (e : Eng) (w : WaitF) (n : Nat) (live : s.Live) (wf : (s.eng g e).wf = some w)
    (timer : (s.eng g e).timer = some n) (wait : (s.eng g e).wait = .granted) :
    Completes (.waitTimerExpiry g e) s fun t =>
      (t.eng g e).wait = .granted ∧ (t.eng g e).timer = none ∧
      (s.flag (R.TIL_CNTCTL g) F.TIL_CNTCTL_FREEZE = false → t.fget (R.TIL_SYNCNT0 g) F.TIL_SYNCNT0_CLOSECALL =
        min (fldTop F.TIL_SYNCNT0_CLOSECALL) (s.fget (R.TIL_SYNCNT0 g) F.TIL_SYNCNT0_CLOSECALL + 1)) ∧
      s.KeepsRegs t fun r => r = R.TIL_SYNCNT0 g := by
  refine ⟨_, exec_waitTimerExpiry live g e, ?_⟩
  dsimp only
  rw [State.timerExpiry_granted wf timer wait]
  have regs := s.modEng_regs g e fun x => { x with timer := none }
  have eng := s.eng_modEng_same g e fun x => { x with timer := none }
  generalize (s.modEng g e fun x => { x with timer := none }) = u at *
  have counted := u.onlyRegs_tilCnt g (R.TIL_SYNCNT0 g) (f := F.TIL_SYNCNT0_CLOSECALL) rfl 1
  rw [State.eng_congr counted.engs, eng]
  exact ⟨wait, rfl, State.closeCall_counted (State.keepsRegs_of_regs regs), (State.keepsRegs_of_regs regs).trans counted.2⟩

/-- Settles O28: each clause is the effect of one command, read off the counter it names; a wake finds no test where none is
posted, and a fault of an engine posts none. -/
theorem signalsAndWaitsComplete : Obligations.SignalsAndWaitsComplete := by
  unfold Obligations.SignalsAndWaitsComplete
  refine ⟨semaphoreSignal_pool, semaphoreSignal_arc, ?_, poolBatch_oneSignal, poolBatch_oneTest, ?_, ?_, timerExpiry_withdraws, timerExpiry_decides,
    timerExpiry_closeCall, segmentClose_counts⟩
  · intro s g e a inc ia live typ
    rw [exec_semaphoreSignal live, State.applySignal_bar typ]
  · intro s g e e1 e2 a inc ia w1 w2 live typ idx _ order wait1 wait2 wf1 wf2 c1 _ typ1 idx1 typ2 idx2 others fits covered short
    exact semaphoreSignal_two s g e e1 e2 a inc ia w1 w2 live typ idx order ⟨wait1, wf1, typ1, idx1⟩ ⟨wait2, wf2, typ2, idx2⟩ c1 others fits covered
      short
  · intro s g e w n live wf timer wait
    rw [exec_waitTimerExpiry live, State.timerExpiry_inBatch wf timer wait]

end Sys2Proof.Machine
end

section
/-! PROOF. Writes of semaphores, aliases and arrival counters (R178 to R180, R185, R206, R207). -/

namespace Sys2Proof.Machine

/-! ## Aliases cleared -/

theorem State.fget_wr_zero (s : State) (a : Nat) {f : Fld} (hf : f.half = 0) : (s.wr a 0).fget a f = 0 := by
  rw [State.fget, hf, Nat.mul_zero, Nat.add_zero, State.rd_wr, if_pos rfl]
  simp [fldGet, bitsOf]

theorem State.flag_fset_zero (s : State) (a : Nat) (f : Fld) (h : f.ok) : (s.fset a f 0).flag a f = false := s.flag_fset_bit a f h false

theorem State.NoNewPosts.refl (s : State) : s.NoNewPosts s := fun _ _ => ⟨fun _ _ => .inl rfl, fun _ => .inl ⟨rfl, rfl⟩⟩

theorem State.NoNewPosts.of_clearAlias (s : State) (g a : Nat) : s.NoNewPosts (s.clearAlias g a) := by
  have engs : (s.clearAlias g a).engs = s.engs := State.wr_engs ..
  refine fun h _ => ⟨fun b _ => ?_, fun e => .inl (by rw [State.eng_congr engs]; exact ⟨rfl, rfl⟩)⟩
  unfold State.clearAlias
  by_cases same : R.TIL_ALIAS h b = R.TIL_ALIAS g a
  · refine .inr ?_
    rw [State.aliasType, same, s.fget_wr_zero _ rfl, ite_self]
  · exact .inl (by rw [State.rd_wr, if_neg same])

/-- The aliases of a tile that name a semaphore of its die, cleared when it changes hands (R180). -/
def State.aliasesCut (s : State) (g i : Nat) : State :=
  s.each (List.range 63) fun s k => if s.aliasType g k = 1 ∧ s.aliasIdx g k = i then s.clearAlias g k else s

theorem State.aliasesCut_noNewPosts (s : State) (g i : Nat) : s.NoNewPosts (s.aliasesCut g i) := by
  refine State.each_keeps_mem (fun t => s.NoNewPosts t) (fun t k _ h => ?_) (.refl s)
  split
  · exact h.trans (.of_clearAlias t g k)
  · exact h

/-! ## A semaphore written -/

theorem State.semPosted_false {s : State} {d i : Nat} (h : s.NoPoolPost d (i / 32)) : s.semPosted d i = false := by
  unfold State.semPosted
  rw [List.any_eq_false]
  refine fun t ht => Bool.not_eq_true _ ▸ List.any_eq_false.mpr fun e he => ?_
  rw [List.mem_range] at ht
  have none_ := h t ht e he
  unfold State.postedOnGroup at none_
  cases hw : (s.eng (d * 64 + t) e).wf with
  | none => simp
  | some w =>
    rw [hw] at none_
    simp only [Bool.and_eq_true, Bool.and_eq_false_iff, decide_eq_true_eq, decide_eq_false_iff_not] at none_ ⊢
    rintro ⟨⟨p, t⟩, rfl⟩
    simp [p, t] at none_

theorem State.semCountTo_unposted {s : State} {d i c : Nat} (hd : d < 24) (hi : i < 2048) (h : s.NoPoolPost d (i / 32)) :
    s.semCountTo d i c = s.fset (R.SYN_SEM d i) F.SYN_SEM_COUNT c := by
  unfold State.semCountTo
  dsimp only
  rw [State.retestGroup_none (h.kept (.of_semSet s hd hi c) hd), ite_self]

/-- Ownership and count of a semaphore set. -/
def State.semSet (s : State) (d i owner own c : Nat) : State :=
  ((s.fset (R.SYN_SEM d i) F.SYN_SEM_OWNER owner).fset (R.SYN_SEM d i) F.SYN_SEM_OWNED own).fset (R.SYN_SEM d i) F.SYN_SEM_COUNT c

theorem State.onlyRegs_semOwner (s : State) (d i owner own : Nat) :
    s.OnlyRegs ((s.fset (R.SYN_SEM d i) F.SYN_SEM_OWNER owner).fset (R.SYN_SEM d i) F.SYN_SEM_OWNED own) fun r => r = R.SYN_SEM d i :=
  (s.onlyRegs_fset_at _ rfl _).trans (State.onlyRegs_fset_at _ _ rfl _)

theorem State.onlyRegs_semSet (s : State) (d i owner own c : Nat) : s.OnlyRegs (s.semSet d i owner own c) fun r => r = R.SYN_SEM d i :=
  (s.onlyRegs_semOwner d i owner own).trans (State.onlyRegs_fset_at _ _ rfl _)

theorem State.NoNewPosts.of_semOwner (s : State) {d i : Nat} (hd : d < 24) (hi : i < 2048) (owner own : Nat) :
    s.NoNewPosts ((s.fset (R.SYN_SEM d i) F.SYN_SEM_OWNER owner).fset (R.SYN_SEM d i) F.SYN_SEM_OWNED own) :=
  .of_regs (s.onlyRegs_semOwner d i owner own).2 (aliasFree_sem hd hi) (s.onlyRegs_semOwner d i owner own).engs

theorem State.semSet_get (s : State) (d i : Nat) {owner c : Nat} (own : Bool) (ho : owner < 64) (hc : c < 65536) :
    (s.semSet d i owner (bit own) c).semCount d i = c ∧ (s.semSet d i owner (bit own) c).ownerOf d i = owner ∧
      (s.semSet d i owner (bit own) c).owned d i = own := by
  unfold State.semSet State.semCount State.ownerOf State.owned
  simp (disch := decide) only [State.flag_fset_bit, State.flag_fset_field, State.fget_fset, State.fget_fset_field]
  exact ⟨Nat.mod_eq_of_lt hc, Nat.mod_eq_of_lt ho, trivial⟩

/-- A semaphore without a posted test in its group, written: the aliases of an owner that loses it are cleared first. -/
theorem State.semWrite_unposted {s : State} {d i : Nat} (hd : d < 24) (hi : i < 2048) (v : Nat) (h : s.NoPoolPost d (i / 32)) :
    ∃ u, s.semWrite d i v = u.semSet d i (bitsOf v 21 16) (bit (v.testBit 24)) (bitsOf v 15 0) ∧ (s.owned d i = false → u = s) := by
  let change := s.owned d i && (!v.testBit 24 || decide (bitsOf v 21 16 ≠ s.ownerOf d i))
  let u := if change then s.aliasesCut (d * 64 + s.ownerOf d i) i else s
  have kept : s.NoNewPosts u := by
    unfold u
    split
    · exact s.aliasesCut_noNewPosts _ i
    · exact .refl s
  refine ⟨u, ?_, fun free => if_neg (by simp [change, free])⟩
  have count := State.semCountTo_unposted (c := bitsOf v 15 0) hd hi ((h.kept kept hd).kept (.of_semOwner u hd hi (bitsOf v 21 16) (bit (v.testBit 24))) hd)
  refine Eq.trans ?_ count
  unfold State.semWrite
  rw [State.semPosted_false h]
  rfl

theorem synSemWrite_sets (s : State) (d : CDie) (j : Fin 2048) (v : Word32) (live : s.Live) (unposted : s.NoPoolPost d (j.val / 32)) :
    Completes (.synSemWrite d j v) s fun t =>
      t.semCount d j = v.toNat % 65536 ∧ t.ownerOf d j = v.toNat / 65536 % 64 ∧ t.owned d j = v.toNat.testBit 24 ∧
      (s.owned d j = false → s.OnlyRegs t fun r => r = R.SYN_SEM d j) := by
  obtain ⟨u, write, free⟩ := State.semWrite_unposted d.isLt j.isLt v.toNat unposted
  have low : bitsOf v.toNat 15 0 = v.toNat % 65536 := bitsOf_low _ _
  have mid : bitsOf v.toNat 21 16 = v.toNat / 65536 % 64 := bitsOf_eq _ _ _
  refine ⟨_, onLive_live live fun s => s.semWrite d j v.toNat, ?_⟩
  dsimp only
  rw [write, low, mid]
  obtain ⟨count, owner, owned⟩ := u.semSet_get d j (v.toNat.testBit 24) (Nat.mod_lt (v.toNat / 65536) (by decide)) (Nat.mod_lt v.toNat (by decide))
  refine ⟨count, owner, owned, fun unowned => ?_⟩
  rw [← free unowned]
  exact u.onlyRegs_semSet ..

/-! ## A write of the aliases (R206) -/

/-- An entry of a tile's aliases set. -/
def State.aliasSet (s : State) (g a idx typ cnt : Nat) : State :=
  ((s.fset (R.TIL_ALIAS g a) F.TIL_ALIAS_INDEX idx).fset (R.TIL_ALIAS g a) F.TIL_ALIAS_TYPE typ).fset (R.TIL_ALIAS g a) F.TIL_ALIAS_RELCNT cnt

theorem State.onlyRegs_aliasSet (s : State) (g a idx typ cnt : Nat) : s.OnlyRegs (s.aliasSet g a idx typ cnt) fun r => r = R.TIL_ALIAS g a :=
  ((s.onlyRegs_fset_at _ rfl _).trans (State.onlyRegs_fset_at _ _ rfl _)).trans (State.onlyRegs_fset_at _ _ rfl _)

theorem State.aliasSet_get (s : State) (g : Nat) {a idx typ cnt : Nat} (ha : a < 63) (hi : idx < 2048) (ht : typ < 4) (hc : cnt < 65536) :
    (s.aliasSet g a idx typ cnt).aliasType g a = typ ∧ (s.aliasSet g a idx typ cnt).aliasIdx g a = idx ∧
      (s.aliasSet g a idx typ cnt).fget (R.TIL_ALIAS g a) F.TIL_ALIAS_RELCNT = cnt := by
  unfold State.aliasSet State.aliasType State.aliasIdx
  rw [if_pos ha]
  simp (disch := decide) only [State.fget_fset, State.fget_fset_field]
  exact ⟨Nat.mod_eq_of_lt ht, Nat.mod_eq_of_lt hi, Nat.mod_eq_of_lt hc⟩

theorem State.aliasWrite_taken {s : State} {g a v : Nat} (stopped : s.stopped g = true) (ok : s.aliasOk g a (v / 4096 % 4) (v % 2048) = true) :
    s.aliasWrite g a v = s.aliasSet g a (v % 2048) (v / 4096 % 4) (if v / 4096 % 4 = 3 then v / 65536 % 65536 else 0) := by
  have idx : bitsOf v 10 0 = v % 2048 := bitsOf_low _ _
  have typ : bitsOf v 13 12 = v / 4096 % 4 := bitsOf_eq _ _ _
  have cnt : bitsOf v 31 16 = v / 65536 % 65536 := bitsOf_eq _ _ _
  unfold State.aliasWrite
  dsimp only
  rw [idx, typ, cnt, if_neg (by simp [stopped, ok])]
  rfl

theorem State.aliasWrite_refused {s : State} {g a v : Nat} (h : s.stopped g = false ∨ s.aliasOk g a (v / 4096 % 4) (v % 2048) = false) :
    s.aliasWrite g a v = s.fset (R.TIL_SYNSTAT g) F.TIL_SYNSTAT_AREF 1 := by
  have idx : bitsOf v 10 0 = v % 2048 := bitsOf_low _ _
  have typ : bitsOf v 13 12 = v / 4096 % 4 := bitsOf_eq _ _ _
  unfold State.aliasWrite
  dsimp only
  rw [idx, typ, if_pos]
  rcases h with h | h
  · exact .inl (by simp [h])
  · exact .inr (by simp [h])

theorem tilAliasWrite_sets (s : State) (g : Tile) (a : Fin 63) (v : Word32) (live : s.Live) (stopped : s.stopped g = true)
    (ok : s.aliasOk g a (v.toNat / 4096 % 4) (v.toNat % 2048) = true) :
    Completes (.tilAliasWrite g a v) s fun t =>
      t.aliasType g a = v.toNat / 4096 % 4 ∧ t.aliasIdx g a = v.toNat % 2048 ∧
      t.fget (R.TIL_ALIAS g a) F.TIL_ALIAS_RELCNT = (if v.toNat / 4096 % 4 = 3 then v.toNat / 65536 else 0) ∧
      s.OnlyRegs t fun r => r = R.TIL_ALIAS g a := by
  have top : v.toNat / 65536 % 65536 = v.toNat / 65536 := by omega
  refine ⟨_, onLive_live live fun s => s.aliasWrite g a v.toNat, ?_⟩
  dsimp only
  rw [State.aliasWrite_taken stopped ok, top]
  have room : (if v.toNat / 4096 % 4 = 3 then v.toNat / 65536 else 0) < 65536 := by split <;> omega
  obtain ⟨typ, idx, cnt⟩ := s.aliasSet_get g a.isLt (Nat.mod_lt v.toNat (by decide)) (Nat.mod_lt (v.toNat / 4096) (by decide)) room
  exact ⟨typ, idx, cnt, s.onlyRegs_aliasSet ..⟩

/-! ## An arrival counter written (R207) -/

/-- The fields of an arrival counter that a write sets. -/
def State.arcSet (s : State) (g n v : Nat) : State :=
  let s := (((s.fset (R.TIL_ARC g n) F.TIL_ARC_COUNT (bitsOf v 15 0)).fset (R.TIL_ARC g n) F.TIL_ARC_PART (bitsOf v 31 16)).fset
    (R.TIL_ARC g n) F.TIL_ARC_QUANT (max 1 (bitsOf v 47 32))).fset (R.TIL_ARC g n) F.TIL_ARC_MODE (bitsOf v 48 48)
  if v.testBit 49 then s.fset (R.TIL_ARC g n) F.TIL_ARC_EXPIRED 0 else s

theorem State.onlyRegs_arcSet (s : State) (g n v : Nat) : s.OnlyRegs (s.arcSet g n v) fun r => r = R.TIL_ARC g n := by
  have fields := (((s.onlyRegs_fset_at (R.TIL_ARC g n) (f := F.TIL_ARC_COUNT) rfl (bitsOf v 15 0)).fset (f := F.TIL_ARC_PART) rfl rfl (bitsOf v 31 16)).fset
    (f := F.TIL_ARC_QUANT) rfl rfl (max 1 (bitsOf v 47 32))).fset (f := F.TIL_ARC_MODE) rfl rfl (bitsOf v 48 48)
  unfold State.arcSet
  dsimp only
  split
  · exact fields.fset rfl rfl 0
  · exact fields

theorem State.arcWrite_unposted {s : State} {g n : Nat} (hg : g < 1536) (hn : n < 64) (v : Nat) (h : s.NoTilePost g 2 n) :
    s.arcWrite g n v = s.arcSet g n v := by
  have only := s.onlyRegs_arcSet g n v
  have wake := State.retestTile_none (h.kept (.of_regs only.2 (aliasFree_arc hg hn) only.engs) hg two_ne_zero)
  unfold State.arcWrite
  dsimp only
  split
  · rfl
  · exact wake

theorem State.arcSet_get (s : State) (g n v : Nat) :
    (s.arcSet g n v).arcCount g n = v % 65536 ∧ (s.arcSet g n v).fget (R.TIL_ARC g n) F.TIL_ARC_PART = v / 2 ^ 16 % 65536 ∧
      (s.arcSet g n v).fget (R.TIL_ARC g n) F.TIL_ARC_QUANT = max 1 (v / 2 ^ 32 % 65536) ∧
      (s.arcSet g n v).fget (R.TIL_ARC g n) F.TIL_ARC_MODE = v / 2 ^ 48 % 2 ∧
      (s.arcSet g n v).flag (R.TIL_ARC g n) F.TIL_ARC_EXPIRED = (s.flag (R.TIL_ARC g n) F.TIL_ARC_EXPIRED && !v.testBit 49) := by
  have count : bitsOf v 15 0 = v % 65536 := bitsOf_low _ _
  have part : bitsOf v 31 16 = v / 2 ^ 16 % 65536 := bitsOf_eq _ _ _
  have quant : bitsOf v 47 32 = v / 2 ^ 32 % 65536 := bitsOf_eq _ _ _
  have mode : bitsOf v 48 48 = v / 2 ^ 48 % 2 := bitsOf_eq _ _ _
  have widths : F.TIL_ARC_COUNT.hi + 1 - F.TIL_ARC_COUNT.lo = 16 ∧ F.TIL_ARC_PART.hi + 1 - F.TIL_ARC_PART.lo = 16 ∧
      F.TIL_ARC_QUANT.hi + 1 - F.TIL_ARC_QUANT.lo = 16 ∧ F.TIL_ARC_MODE.hi + 1 - F.TIL_ARC_MODE.lo = 1 := by decide
  obtain ⟨w1, w2, w3, w4⟩ := widths
  have qlt : max 1 (v / 2 ^ 32 % 65536) < 65536 := by omega
  unfold State.arcSet State.arcCount
  rw [count, part, quant, mode]
  dsimp only
  have set : v % 65536 % 2 ^ 16 = v % 65536 ∧ v / 2 ^ 16 % 65536 % 2 ^ 16 = v / 2 ^ 16 % 65536 ∧
      max 1 (v / 2 ^ 32 % 65536) % 2 ^ 16 = max 1 (v / 2 ^ 32 % 65536) ∧ v / 2 ^ 48 % 2 % 2 ^ 1 = v / 2 ^ 48 % 2 :=
    ⟨Nat.mod_mod _ _, Nat.mod_mod _ _, Nat.mod_eq_of_lt qlt, Nat.mod_mod _ _⟩
  obtain ⟨set1, set2, set3, set4⟩ := set
  cases v.testBit 49 with
  | false =>
    rw [if_neg Bool.false_ne_true]
    simp (disch := decide) only [State.flag_fset_field, State.fget_fset, State.fget_fset_field, w1, w2, w3, w4]
    exact ⟨set1, set2, set3, set4, (Bool.and_true _).symm⟩
  | true =>
    rw [if_pos rfl]
    simp (disch := decide) only [State.flag_fset_zero, State.fget_fset, State.fget_fset_field, w1, w2, w3, w4]
    exact ⟨set1, set2, set3, set4, (Bool.and_false _).symm⟩

theorem tilArcWrite_sets (s : State) (g : Tile) (n : Fin 64) (v : Word64) (live : s.Live) (unposted : s.NoTilePost g 2 n) :
    Completes (.tilArcWrite g n v) s fun t =>
      t.arcCount g n = v.toNat % 65536 ∧ t.fget (R.TIL_ARC g n) F.TIL_ARC_PART = v.toNat / 2 ^ 16 % 65536 ∧
      t.fget (R.TIL_ARC g n) F.TIL_ARC_QUANT = max 1 (v.toNat / 2 ^ 32 % 65536) ∧
      t.flag (R.TIL_ARC g n) F.TIL_ARC_MODE = v.toNat.testBit 48 ∧
      t.flag (R.TIL_ARC g n) F.TIL_ARC_EXPIRED = (s.flag (R.TIL_ARC g n) F.TIL_ARC_EXPIRED && !v.toNat.testBit 49) ∧
      s.OnlyRegs t fun r => r = R.TIL_ARC g n := by
  refine ⟨_, onLive_live live fun s => s.arcWrite g n v.toNat, ?_⟩
  dsimp only
  rw [State.arcWrite_unposted g.isLt n.isLt _ unposted]
  obtain ⟨count, part, quant, mode, expired⟩ := s.arcSet_get g n v.toNat
  refine ⟨count, part, quant, ?_, expired, s.onlyRegs_arcSet ..⟩
  rw [State.flag, mode, Nat.testBit_eq_decide_div_mod_eq]
  exact decide_eq_decide.mpr (by omega)

end Sys2Proof.Machine
end

section
/-! PROOF. SYNC_MAP, SYNC_TIMEOUT, SYNC_REARM and SYNC_STATUS (R205, R206). -/

namespace Sys2Proof.Machine

/-! ## A tile with no test posted -/

theorem State.postedOnGroup_unposted {s : State} {g : Nat} {e : Eng} (h : (s.eng g e).isPosted = false) (k : Nat) : s.postedOnGroup g e k = false := by
  unfold State.postedOnGroup
  split
  · rw [h, Bool.false_and, Bool.false_and]
  · rfl

theorem State.noTilePost_unposted {s : State} {g : Nat} (h : ∀ e ∈ engsAll, (s.eng g e).isPosted = false) (typ idx : Nat) : s.NoTilePost g typ idx := by
  intro e he
  unfold State.postedOn
  split
  · rw [h e he, Bool.false_and, Bool.false_and]
  · rfl

theorem State.NoPoolPost.kept_idle {s t : State} {g : Nat} (engs : t.engs = s.engs)
    (al : ∀ h < 1536, h ≠ g → ∀ a < 63, t.rd (R.TIL_ALIAS h a) = s.rd (R.TIL_ALIAS h a)) (idle : ∀ e ∈ engsAll, (s.eng g e).isPosted = false)
    {d k : Nat} (hd : d < 24) (none_ : s.NoPoolPost d k) : t.NoPoolPost d k := by
  intro i hi e he
  by_cases same : d * 64 + i = g
  · refine State.postedOnGroup_unposted ?_ k
    rw [State.eng_congr engs, same]
    exact idle e he
  · have before := none_ i hi e he
    unfold State.postedOnGroup at before ⊢
    rw [State.eng_congr engs]
    cases hw : (s.eng (d * 64 + i) e).wf with
    | none => rfl
    | some w =>
      rw [hw] at before
      dsimp only at before ⊢
      by_cases typ : t.aliasType (d * 64 + i) w.alias_ = 1
      · have kept := al _ (by omega) same _ (aliasType_inside typ one_ne_zero)
        rw [State.aliasType_congr kept, State.aliasIdx_congr kept]
        exact before
      · simp [typ]

/-! ## SYNC_MAP -/

/-- What SYNC_MAP asks of a tile and of its operands. -/
structure State.Mappable (s : State) (fn : Fun) (p : Part) (g : Tile) (count quant mode : Nat) : Prop where
  own : OwnFn fn p
  part : s.tilePart g = some p.val
  stopped : s.stopped g = true
  count_le : count ≤ 65535
  quant_le : quant ≤ 65535
  mode_le : mode ≤ 1

theorem ownTile_of_part {s : State} {fn : Fun} {p : Part} {g : Tile} (own : OwnFn fn p) (part : s.tilePart g = some p.val) : (s.ownTile fn g).1 = false := by
  refine ownTile_false (own.imp_right fun e => ?_)
  rw [part, e, Nat.add_sub_cancel]

theorem stopped_iff (s : State) (g : Nat) : s.stopped g = true ↔ s.quiet g = true ∧ s.fget (R.TIL_CTL g) F.TIL_CTL_RUN = 0 := by
  simp [State.stopped]

/-- The checks of SYNC_MAP but for its last. -/
theorem State.Mappable.checks {s : State} {fn : Fun} {p : Part} {g : Tile} {count quant mode : Nat} (m : s.Mappable fn p g count quant mode) (a : Fin 63)
    {typ idx : Nat} (ht : typ ≤ 3) (hi : idx < 2048) {last : Bool} (ok : last = true) :
    firstBad [badAt 2 (decide (1536 ≤ g.val)), badAt 4 (decide (62 < a.val)), badAt 5 (decide (3 < typ)),
      badAt 6 (decide (65535 < idx ∨ (2047 < idx ∧ ¬ (typ = 1 ∧ idx = 0xFFFF)))), badAt 8 (decide (65535 < count)),
      badAt 10 (decide (65535 < quant)), badAt 12 (decide (1 < mode)),
      ownPart fn p, s.ownTile fn g, refuse 1 (decide (s.tilePart g ≠ some p.val)), refuse 2 (!s.quiet g),
      refuse 3 (decide (s.fget (R.TIL_CTL g) F.TIL_CTL_RUN ≠ 0)), refuse 4 (!last)] = none := by
  obtain ⟨own, part, stopped, hc, hq, hm⟩ := m
  obtain ⟨quiet, run⟩ := (stopped_iff s g).mp stopped
  rw [firstBad_none_iff]
  simp only [List.forall_mem_cons, List.not_mem_nil, false_imp_iff, implies_true, and_true]
  refine ⟨?_, ?_, ?_, ?_, ?_, ?_, ?_, ownPart_false own, ownTile_of_part own part, ?_, ?_, ?_, ?_⟩
  · exact badAt_false (decide_eq_false g.isLt.not_ge)
  · exact badAt_false (decide_eq_false (by omega))
  · exact badAt_false (decide_eq_false (by omega))
  · exact badAt_false (decide_eq_false (by omega))
  · exact badAt_false (decide_eq_false (by omega))
  · exact badAt_false (decide_eq_false (by omega))
  · exact badAt_false (decide_eq_false (by omega))
  · exact refuse_false (decide_eq_false (not_not.mpr part))
  · exact refuse_false (by rw [quiet]; rfl)
  · exact refuse_false (decide_eq_false (not_not.mpr run))
  · exact refuse_false (by rw [ok]; rfl)

/-- A semaphore given to a tile. -/
def State.semTaken (s : State) (g i : Nat) : State :=
  (s.fset (R.SYN_SEM (g / 64) i) F.SYN_SEM_OWNER (g % 64)).fset (R.SYN_SEM (g / 64) i) F.SYN_SEM_OWNED 1

theorem State.semTaken_get (s : State) (g i : Nat) : (s.semTaken g i).owned (g / 64) i = true ∧ (s.semTaken g i).ownerOf (g / 64) i = g % 64 := by
  unfold State.semTaken State.owned State.ownerOf
  simp (disch := decide) only [State.flag_fset_one, State.fget_fset, State.fget_fset_field]
  exact ⟨trivial, Nat.mod_eq_of_lt (Nat.mod_lt _ (by decide))⟩

theorem State.stopped_congr {s t : State} {g : Nat} (engs : t.engs = s.engs) (tiles : t.tiles = s.tiles)
    (run : t.fget (R.TIL_CTL g) F.TIL_CTL_RUN = s.fget (R.TIL_CTL g) F.TIL_CTL_RUN) : t.stopped g = s.stopped g := by
  rw [State.stopped, State.stopped, State.quiet_congr engs tiles, run]

theorem State.OnlyRegs.tiles {s t : State} {A : Nat → Prop} (h : s.OnlyRegs t A) : t.tiles = s.tiles := by rw [h.1]

theorem State.OnlyRegs.stopped {s t : State} {A : Nat → Prop} (h : s.OnlyRegs t A) {g : Nat} (out : ¬ A (R.TIL_CTL g)) : t.stopped g = s.stopped g :=
  State.stopped_congr h.engs h.tiles (State.fget_of_rd rfl (h.2 _ out))

theorem State.onlyRegs_semTaken (s : State) (g i : Nat) : s.OnlyRegs (s.semTaken g i) fun r => r = R.SYN_SEM (g / 64) i := s.onlyRegs_semOwner ..

/-- The fields of the entry that SYNC_MAP writes. -/
theorem map_word {typ idx cnt : Nat} (ht : typ < 4) (hi : idx < 2048) (hc : cnt < 65536) :
    (idx + typ * 2 ^ 12 + cnt * 2 ^ 16) / 4096 % 4 = typ ∧ (idx + typ * 2 ^ 12 + cnt * 2 ^ 16) % 2048 = idx ∧
      (idx + typ * 2 ^ 12 + cnt * 2 ^ 16) / 65536 % 65536 = cnt := by omega

theorem State.aliasWrite_mapped {s : State} {g a typ idx cnt : Nat} (ht : typ < 4) (hi : idx < 2048) (hc : cnt < 65536)
    (stopped : s.stopped g = true) (ok : s.aliasOk g a typ idx = true) :
    s.aliasWrite g a (idx + typ * 2 ^ 12 + cnt * 2 ^ 16) = s.aliasSet g a idx typ (if typ = 3 then cnt else 0) := by
  obtain ⟨wt, wi, wc⟩ := map_word ht hi hc
  rw [State.aliasWrite_taken stopped (by rw [wt, wi]; exact ok), wt, wi, wc]

section
variable {s : State} {fn : Fun} {p : Part} {g : Tile} {count quant mode : Nat}

theorem cmdSyncMap_pool (m : s.Mappable fn p g count quant mode) (a : Fin 63) (idx : Fin 2048)
    (group : s.grpPart (g.val / 64) (idx.val / 32) = some p.val) (free : s.owned (g.val / 64) idx = false ∨ s.ownerOf (g.val / 64) idx = g.val % 64) :
    cmdSyncMap fn p g a 1 idx count quant mode s =
      (((s.semTaken g idx).aliasWrite g a (idx.val + 1 * 2 ^ 12 + 0)).semCountTo (g.val / 64) idx count, .ok (lay [(2, idx.val)])) := by
  have pick : s.pickSem (g.val / 64) p idx = some idx.val := if_neg (by omega)
  obtain ⟨owned, owner⟩ := s.semTaken_get g idx
  unfold cmdSyncMap
  dsimp only
  rw [if_pos (rfl : 1 = 1), pick]
  refine State.cmd_ok (m.checks a (typ := 1) (by decide) idx.isLt ?_)
  rw [Bool.and_eq_true, Bool.or_eq_true, Bool.and_eq_true, Bool.or_eq_true, Bool.not_eq_true', decide_eq_true_eq, decide_eq_true_eq]
  refine ⟨.inr ⟨group, free.imp_right decide_eq_true⟩, ?_⟩
  exact (Bool.and_eq_true _ _).mpr ⟨owned, decide_eq_true owner⟩

theorem cmdSyncMap_arc (m : s.Mappable fn p g count quant mode) (a : Fin 63) (idx : Fin 64) :
    cmdSyncMap fn p g a 2 idx count quant mode s =
      (let u := s.aliasWrite g a (idx.val + 2 * 2 ^ 12 + 0)
       u.arcWrite g idx (count + u.fget (R.TIL_ARC g idx) F.TIL_ARC_PART * 2 ^ 16 + quant * 2 ^ 32 + mode * 2 ^ 48), .ok (lay [(2, idx.val)])) := by
  unfold cmdSyncMap
  exact State.cmd_ok (m.checks a (typ := 2) (by decide) (by omega) (decide_eq_true idx.isLt))

theorem cmdSyncMap_bar (m : s.Mappable fn p g count quant mode) (a : Fin 63) (idx : Fin 64) (ok : s.aliasOk g a 3 idx = true) :
    cmdSyncMap fn p g a 3 idx count quant mode s =
      (s.aliasWrite g a (idx.val + 3 * 2 ^ 12 + count * 2 ^ 16), .ok (lay [(2, idx.val)])) := by
  unfold cmdSyncMap
  exact State.cmd_ok (m.checks a (typ := 3) (by decide) (by omega) ok)

end

/-- A semaphore taken for a tile: the entry names it, and the tile owns it with the count. -/
theorem syncMap_pool {s : State} {g : Tile} (a : Fin 63) (idx : Fin 2048) {count : Nat} (stopped : s.stopped g = true) (hc : count ≤ 65535)
    (unposted : s.NoPoolPost (g.val / 64) (idx.val / 32)) (idle : ∀ e ∈ engsAll, (s.eng g e).isPosted = false) :
    let t := ((s.semTaken g idx).aliasWrite g a (idx.val + 1 * 2 ^ 12 + 0)).semCountTo (g.val / 64) idx count
    t.aliasType g a = 1 ∧ t.aliasIdx g a = idx ∧ t.owned (g.val / 64) idx = true ∧ t.ownerOf (g.val / 64) idx = g.val % 64 ∧
      t.semCount (g.val / 64) idx = count ∧ s.OnlyRegs t fun r => r = R.TIL_ALIAS g a ∨ r = R.SYN_SEM (g.val / 64) idx := by
  have hd : g.val / 64 < 24 := by omega
  have semAlias {h : Nat} (hh : h < 1536) {b : Nat} (hb : b < 63) : R.TIL_ALIAS h b ≠ R.SYN_SEM (g.val / 64) idx := aliasFree_sem hd idx.isLt h hh b hb
  have ctl : R.TIL_CTL g ≠ R.SYN_SEM (g.val / 64) idx := by
    simp only [R.TIL_CTL, R.SYN_SEM, til_eq g.isLt, Blk.syn, dieBase, if_pos hd]
    omega
  obtain ⟨owned, owner⟩ := s.semTaken_get g idx
  have taken := s.onlyRegs_semTaken g idx
  generalize s.semTaken g idx = u at *
  have write := State.aliasWrite_mapped (s := u) (g := g) (a := a) (typ := 1) (cnt := 0) (by decide) idx.isLt (by decide)
    ((taken.stopped ctl).trans stopped) ((Bool.and_eq_true _ _).mpr ⟨owned, decide_eq_true owner⟩)
  rw [Nat.zero_mul, if_neg (by decide)] at write
  rw [write]
  obtain ⟨typ, is, -⟩ := u.aliasSet_get g a.isLt (idx := idx.val) (typ := 1) (cnt := 0) idx.isLt (by decide) (by decide)
  have set := u.onlyRegs_aliasSet g a idx 1 0
  generalize u.aliasSet g a idx 1 0 = v at *
  have sem : v.rd (R.SYN_SEM (g.val / 64) idx) = u.rd (R.SYN_SEM (g.val / 64) idx) := set.2 _ (semAlias g.isLt a.isLt).symm
  have posts : v.NoPoolPost (g.val / 64) (idx.val / 32) := by
    refine State.NoPoolPost.kept_idle (s := s) (set.engs.trans taken.engs) (fun h hh ne b hb => ?_) idle hd unposted
    refine (set.2 _ ?_).trans (taken.2 _ (semAlias hh hb))
    simp only [R.TIL_ALIAS, til_eq hh, til_eq g.isLt]
    omega
  rw [State.semCountTo_unposted hd idx.isLt posts]
  have count' := v.semCount_fset (g.val / 64) idx hc
  have only := v.onlyRegs_fset_at (R.SYN_SEM (g.val / 64) idx) (f := F.SYN_SEM_COUNT) rfl count
  have owned' := v.flag_fset_field (R.SYN_SEM (g.val / 64) idx) F.SYN_SEM_COUNT F.SYN_SEM_OWNED (by decide) rfl (by decide) count
  have owner' := v.fget_fset_field (R.SYN_SEM (g.val / 64) idx) F.SYN_SEM_COUNT F.SYN_SEM_OWNER (by decide) rfl (by decide) count
  generalize v.fset (R.SYN_SEM (g.val / 64) idx) F.SYN_SEM_COUNT count = t at *
  have kept := only.2 _ (semAlias g.isLt a.isLt)
  exact ⟨(State.aliasType_congr kept).trans typ, (State.aliasIdx_congr kept).trans is,
    (owned'.trans (State.flag_congr (State.fget_of_rd rfl sem))).trans owned, (owner'.trans (State.fget_of_rd rfl sem)).trans owner, count',
    ((taken.mono fun _ => .inr).trans (set.mono fun _ => .inl)).trans (only.mono fun _ => .inr)⟩

/-- An arrival counter named by an entry of a tile. -/
theorem syncMap_arc {s : State} {g : Tile} (a : Fin 63) (idx : Fin 64) {count quant mode : Nat} (stopped : s.stopped g = true) (hc : count ≤ 65535)
    (hq : quant ≤ 65535) (hm : mode ≤ 1) (idle : ∀ e ∈ engsAll, (s.eng g e).isPosted = false) :
    let u := s.aliasWrite g a (idx.val + 2 * 2 ^ 12 + 0)
    let t := u.arcWrite g idx (count + u.fget (R.TIL_ARC g idx) F.TIL_ARC_PART * 2 ^ 16 + quant * 2 ^ 32 + mode * 2 ^ 48)
    t.aliasType g a = 2 ∧ t.aliasIdx g a = idx ∧ t.arcCount g idx = count ∧ t.fget (R.TIL_ARC g idx) F.TIL_ARC_QUANT = max 1 quant ∧
      t.fget (R.TIL_ARC g idx) F.TIL_ARC_MODE = mode := by
  have write := State.aliasWrite_mapped (s := s) (g := g) (a := a) (typ := 2) (idx := idx) (cnt := 0) (by decide) (by omega) (by decide) stopped
    (decide_eq_true idx.isLt)
  rw [Nat.zero_mul, if_neg (by decide)] at write
  rw [write]
  obtain ⟨typ, is, -⟩ := s.aliasSet_get g a.isLt (idx := idx.val) (typ := 2) (cnt := 0) (by omega) (by decide) (by decide)
  have engs := (s.onlyRegs_aliasSet g a idx 2 0).engs
  generalize s.aliasSet g a idx 2 0 = u at *
  dsimp only
  have posts := State.noTilePost_unposted (s := u) (g := g) (fun e he => by rw [State.eng_congr engs]; exact idle e he) 2 idx
  have part : u.fget (R.TIL_ARC g idx) F.TIL_ARC_PART < 65536 := u.fget_lt _ _
  generalize u.fget (R.TIL_ARC g idx) F.TIL_ARC_PART = k at *
  rw [State.arcWrite_unposted g.isLt idx.isLt _ posts]
  obtain ⟨count', -, quant', mode', -⟩ := u.arcSet_get g idx (count + k * 2 ^ 16 + quant * 2 ^ 32 + mode * 2 ^ 48)
  have kept := (u.onlyRegs_arcSet g idx (count + k * 2 ^ 16 + quant * 2 ^ 32 + mode * 2 ^ 48)).2 _ (aliasFree_arc g.isLt idx.isLt g g.isLt a a.isLt)
  refine ⟨(State.aliasType_congr kept).trans typ, (State.aliasIdx_congr kept).trans is, count'.trans ?_, quant'.trans ?_, mode'.trans ?_⟩
  · omega
  · rw [show (count + k * 2 ^ 16 + quant * 2 ^ 32 + mode * 2 ^ 48) / 2 ^ 32 % 65536 = quant by omega]
  · omega

/-- A barrier channel named by an entry of a tile. -/
theorem syncMap_bar {s : State} {g : Tile} (a : Fin 63) (idx : Fin 64) {count : Nat} (stopped : s.stopped g = true) (hc : count ≤ 65535)
    (ok : s.aliasOk g a 3 idx = true) :
    let t := s.aliasWrite g a (idx.val + 3 * 2 ^ 12 + count * 2 ^ 16)
    t.aliasType g a = 3 ∧ t.aliasIdx g a = idx ∧ t.fget (R.TIL_ALIAS g a) F.TIL_ALIAS_RELCNT = count ∧ s.OnlyRegs t fun r => r = R.TIL_ALIAS g a := by
  rw [State.aliasWrite_mapped (by decide) (by omega) (by omega) stopped ok, if_pos rfl]
  obtain ⟨typ, is, cnt⟩ := s.aliasSet_get g a.isLt (idx := idx.val) (typ := 3) (cnt := count) (by omega) (by decide) (by omega)
  exact ⟨typ, is, cnt, s.onlyRegs_aliasSet ..⟩

/-! ## SYNC_TIMEOUT and SYNC_REARM -/

theorem cmdSyncTimeout_ok {s : State} {fn : Fun} {p : Part} {ts : TileSet} (ok : s.TilesOk fn p ts) {j : Nat} (lo : 1 ≤ j) (hi : j ≤ 3) (cycles : Nat) :
    cmdSyncTimeout fn p ts j cycles s =
      (s.each (s.tilesIn p ts) fun s g => s.fset (R.TIL_TMO g (j - 1)) F.TIL_TMO_CYCLES cycles).told ((s.tilesIn p ts).map fun g => R.TIL_TMO g (j - 1)) := by
  unfold cmdSyncTimeout
  rw [State.cmd_ok ((firstBad_none_iff _).mpr ?_)]
  simp only [List.forall_mem_append, List.forall_mem_cons, List.not_mem_nil, false_imp_iff, implies_true, and_true]
  exact ⟨tileChecks_none 1 ok, badAt_false (decide_eq_false (by omega))⟩

theorem syncTimeout_get (s : State) (l : List Nat) (j : Nat) (cycles : Word32) :
    let t := s.each l fun s g => s.fset (R.TIL_TMO g (j - 1)) F.TIL_TMO_CYCLES cycles.toNat
    (∀ g ∈ l, t.tmoOf g j = cycles.toNat) ∧ s.OnlyRegs t fun r => ∃ g ∈ l, r = R.TIL_TMO g (j - 1) := by
  refine ⟨fun g hg => ?_, State.onlyRegs_each _ _ l (fun s g hg => (State.OnlyRegs.refl s _).fset rfl ⟨g, hg, rfl⟩ _) s⟩
  exact (State.fget_each_fset (fun g => R.TIL_TMO g (j - 1)) F.TIL_TMO_CYCLES (by decide) cycles.toNat l s g hg).trans (Nat.mod_eq_of_lt cycles.isLt)

theorem ok_cmdSyncRearm {s : State} {fn : Fun} {p : Part} {g : Tile} (own : OwnFn fn p) (part : s.tilePart g = some p.val) (n : Fin 64) {count : Nat}
    (hc : count ≤ 65535) : cmdSyncRearm fn p g n count s = (s.rearm g n count).told [R.TIL_ARC g n] := by
  have ok : s.TilesOk fn p (.one g) := ⟨own, decide_eq_false (by omega), by
    simp [State.foreignTiles, State.tilesIn, part]⟩
  unfold cmdSyncRearm
  rw [State.cmd_ok ((firstBad_none_iff _).mpr ?_)]
  simp only [List.forall_mem_append, List.forall_mem_cons, List.not_mem_nil, false_imp_iff, implies_true, and_true]
  exact ⟨tileChecks_none 2 ok, badAt_false (decide_eq_false (by omega)), badAt_false (decide_eq_false (by omega))⟩

/-- An arrival counter with its count set, its segment and its expiry cleared. -/
def State.arcCleared (s : State) (g n count : Nat) : State :=
  ((s.fset (R.TIL_ARC g n) F.TIL_ARC_COUNT count).fset (R.TIL_ARC g n) F.TIL_ARC_PART 0).fset (R.TIL_ARC g n) F.TIL_ARC_EXPIRED 0

theorem State.onlyRegs_arcCleared (s : State) (g n count : Nat) : s.OnlyRegs (s.arcCleared g n count) fun r => r = R.TIL_ARC g n :=
  ((s.onlyRegs_fset_at _ rfl _).trans (State.onlyRegs_fset_at _ _ rfl _)).trans (State.onlyRegs_fset_at _ _ rfl _)

theorem State.arcCleared_get (s : State) (g n : Nat) {count : Nat} (hc : count ≤ 65535) :
    (s.arcCleared g n count).arcCount g n = count ∧ (s.arcCleared g n count).fget (R.TIL_ARC g n) F.TIL_ARC_PART = 0 ∧
      (s.arcCleared g n count).flag (R.TIL_ARC g n) F.TIL_ARC_EXPIRED = false := by
  unfold State.arcCleared State.arcCount
  simp (disch := decide) only [State.flag_fset_zero, State.fget_fset, State.fget_fset_field]
  exact ⟨Nat.mod_eq_of_lt (Nat.lt_succ_of_le hc), Nat.zero_mod _, trivial⟩

theorem State.unposted_rearm {s : State} {g n : Nat} (hg : g < 1536) (hn : n < 64) (count : Nat) (h : s.NoTilePost g 2 n) :
    s.rearm g n count = s.arcCleared g n count := by
  have only := s.onlyRegs_arcCleared g n count
  have wake := State.retestTile_none (h.kept (.of_regs only.2 (aliasFree_arc hg hn) only.engs) hg two_ne_zero)
  unfold State.rearm
  dsimp only
  split
  · rfl
  · exact wake

/-! ## SYNC_STATUS -/

/-- An address in a tile's own block. -/
theorem blkOf_til {g o : Nat} (hg : g < 1536) (ho : o < 0x10000) : blkOf (Blk.til g + o) = some (.til, g, o) := by
  have base : Blk.til g + o = 0x10800000 + g / 64 * 0x1000000 + g % 64 * 0x10000 + o := by rw [til_eq hg]
  generalize Blk.til g + o = a at *
  have die : (a - 0x10000000) / 0x1000000 = g / 64 := by omega
  have off : a % 0x1000000 = 0x800000 + g % 64 * 0x10000 + o := by omega
  unfold blkOf
  dsimp only
  rw [die, off]
  repeat rw [if_neg (by omega)]
  rw [if_pos (by omega)]
  repeat rw [if_neg (by omega)]
  rw [if_pos (by omega)]
  congr 3
  · omega
  · omega

theorem rowAt_idx (k : BlkKind) (idx o : Nat) (l : List RegRow) : rowAt k idx o l = (rowAt k 0 o l).map fun x => { x with idx := idx } := by
  induction l with
  | nil => rfl
  | cons r rest ih =>
    unfold rowAt
    split
    · rfl
    · split
      · rfl
      · exact ih
    · exact ih

/-- Where a block is not one of the network, of a die or of the tensor queues, its registers reset alike under every index. -/
theorem resetOf_alike {a b i j o : Nat} {k : BlkKind} (ha : blkOf a = some (k, i, o)) (hb : blkOf b = some (k, j, o)) (net : k ≠ .bnet) (die : k ≠ .die)
    (tq : k ≠ .tq) : resetOf a = resetOf b := by
  have every (n : Nat) (ix : List Nat) : routerExists k n ix = true := by simp [routerExists, net, die]
  unfold resetOf regAt
  rw [ha, hb]
  dsimp only
  rw [rowAt_idx k i, rowAt_idx k j]
  cases found : rowAt k 0 o (blkRows k) with
  | none => rfl
  | some x => simp only [Option.map_some, every, if_true, (rowAt_mem found).1, tq, false_and, if_false]

/-- A register of a tile resets as that of tile 0. -/
theorem resetOf_til {g o : Nat} (hg : g < 1536) (ho : o < 0x10000) : resetOf (Blk.til g + o) = resetOf (Blk.til 0 + o) :=
  resetOf_alike (blkOf_til hg ho) (blkOf_til (by decide) ho) (by decide) (by decide) (by decide)

theorem resetOf_syncnt {g : Nat} (hg : g < 1536) : resetOf (R.TIL_SYNCNT0 g) = 0 ∧ resetOf (R.TIL_SYNCNT1 g) = 0 := by
  have first : resetOf (R.TIL_SYNCNT0 0) = 0 ∧ resetOf (R.TIL_SYNCNT1 0) = 0 := by decide +kernel
  exact ⟨(resetOf_til hg (by decide)).trans first.1, (resetOf_til hg (by decide)).trans first.2⟩

/-- The wait counters of tiles at 0. -/
def State.syncCountsCleared (s : State) (l : List Nat) : State := s.each l fun s g => s.clearRegs (R.TIL_SYNCNT0 g) 16

theorem State.keepsRegs_syncCountsCleared (s : State) (l : List Nat) :
    s.KeepsRegs (s.syncCountsCleared l) fun r => ∃ g ∈ l, R.TIL_SYNCNT0 g ≤ r ∧ r < R.TIL_SYNCNT0 g + 16 :=
  State.keepsRegs_each _ (fun s g hg => s.keepsRegs_clearRegs fun _ lo hi => ⟨g, hg, lo, hi⟩) s

theorem State.syncCountsCleared_get (s : State) {l : List Nat} (nd : l.Nodup) (inside : ∀ g ∈ l, g < 1536) :
    ∀ g ∈ l, (s.syncCountsCleared l).rd (R.TIL_SYNCNT0 g) = 0 ∧ (s.syncCountsCleared l).rd (R.TIL_SYNCNT1 g) = 0 := by
  intro g hg
  refine State.each_visit (P := fun _ => True) (Q := fun t => t.rd (R.TIL_SYNCNT0 g) = 0 ∧ t.rd (R.TIL_SYNCNT1 g) = 0) nd hg (fun _ _ _ _ _ => trivial)
    (fun t _ => ?_) (fun t h hh ne zero => ?_) trivial
  · obtain ⟨first, second⟩ := resetOf_syncnt (inside g hg)
    rw [State.rd_clearRegs, State.rd_clearRegs, if_pos (by omega), if_pos (by simp only [R.TIL_SYNCNT0, R.TIL_SYNCNT1]; omega)]
    exact ⟨first, second⟩
  · have apart : ¬ (R.TIL_SYNCNT0 h ≤ R.TIL_SYNCNT0 g ∧ R.TIL_SYNCNT0 g < R.TIL_SYNCNT0 h + 16) ∧
        ¬ (R.TIL_SYNCNT0 h ≤ R.TIL_SYNCNT1 g ∧ R.TIL_SYNCNT1 g < R.TIL_SYNCNT0 h + 16) := by
      simp only [R.TIL_SYNCNT0, R.TIL_SYNCNT1, til_eq (inside h hh), til_eq (inside g hg)]
      omega
    rw [State.rd_clearRegs, State.rd_clearRegs, if_neg apart.1, if_neg apart.2]
    exact zero

theorem State.tilesOf_nodup (s : State) (p : Nat) : (s.tilesOf p).Nodup := List.nodup_range.filter _

theorem cmdSyncStatus_ok {s : State} {fn : Fun} {p : Part} (own : OwnFn fn p) (clr : Bool) :
    ∃ front, cmdSyncStatus fn p clr s = (if clr then s.syncCountsCleared (s.tilesOf p) else s,
      .ok (lay (front ++ s.tileSums (s.tilesOf p) [(R.TIL_SYNCNT0, F.TIL_SYNCNT0_CLOSECALL), (R.TIL_SYNCNT0, F.TIL_SYNCNT0_STALE),
        (R.TIL_SYNCNT1, F.TIL_SYNCNT1_TMOFIRED), (R.TIL_SYNCNT1, F.TIL_SYNCNT1_SPURIOUS)]))) :=
  ⟨_, State.cmd_ok (firstBad_ownPart_ok own)⟩

end Sys2Proof.Machine
end

section
/-! PROOF. SYNC_QUOTA (R177, R205): the semaphore groups of a die given to a partition, and taken from it. -/

namespace Sys2Proof.Machine

/-! ## A die's groups -/

theorem State.grpPart_congr {s t : State} {d k : Nat} (h : t.rd (R.SYN_GRP d k) = s.rd (R.SYN_GRP d k)) : t.grpPart d k = s.grpPart d k := by
  rw [State.grpPart, State.grpPart, State.flag_congr (State.fget_of_rd rfl h), State.fget_of_rd rfl h]

theorem State.mem_groupsOf {s : State} {d p k : Nat} : k ∈ s.groupsOf d p ↔ k < 64 ∧ s.grpPart d k = some p := by
  rw [State.groupsOf, List.mem_filter, List.mem_range, decide_eq_true_eq]

theorem State.mem_freeGroups {s : State} {d k : Nat} : k ∈ s.freeGroups d ↔ k < 64 ∧ s.grpPart d k = none := by
  rw [State.freeGroups, List.mem_filter, List.mem_range, decide_eq_true_eq]

theorem State.groupsOf_nodup (s : State) (d p : Nat) : (s.groupsOf d p).Nodup := List.nodup_range.filter _

theorem State.freeGroups_nodup (s : State) (d : Nat) : (s.freeGroups d).Nodup := List.nodup_range.filter _

theorem State.groupsOf_congr {s t : State} {d p : Nat} (h : ∀ k < 64, t.grpPart d k = some p ↔ s.grpPart d k = some p) : t.groupsOf d p = s.groupsOf d p :=
  List.filter_congr fun k hk => decide_eq_decide.mpr (h k (List.mem_range.mp hk))

/-! ## Groups given and taken -/

/-- A group given to a partition. -/
def State.grpGive (p d : Nat) (s : State) (k : Nat) : State := (s.fset (R.SYN_GRP d k) F.SYN_GRP_PART p).fset (R.SYN_GRP d k) F.SYN_GRP_ASSIGNED 1

/-- A group taken from its partition. -/
def State.grpTake (d : Nat) (s : State) (k : Nat) : State := s.fset (R.SYN_GRP d k) F.SYN_GRP_ASSIGNED 0

theorem State.onlyRegs_grpGive (s : State) (p d k : Nat) : s.OnlyRegs (s.grpGive p d k) fun r => r = R.SYN_GRP d k :=
  (s.onlyRegs_fset_at _ rfl _).trans (State.onlyRegs_fset_at _ _ rfl _)

theorem State.onlyRegs_grpTake (s : State) (d k : Nat) : s.OnlyRegs (s.grpTake d k) fun r => r = R.SYN_GRP d k := s.onlyRegs_fset_at _ rfl _

theorem State.grpPart_grpGive (s : State) {p : Nat} (hp : p < 16) (d k : Nat) : (s.grpGive p d k).grpPart d k = some p := by
  unfold State.grpPart State.grpGive
  simp (disch := decide) only [State.flag_fset_one, State.fget_fset, State.fget_fset_field, if_true]
  exact congrArg some (Nat.mod_eq_of_lt hp)

theorem State.grpPart_grpTake (s : State) (d k : Nat) : (s.grpTake d k).grpPart d k = none := by
  unfold State.grpPart State.grpTake
  rw [s.flag_fset_zero _ _ (by decide), if_neg Bool.false_ne_true]

theorem synGrp_ne {d j k : Nat} (h : j ≠ k) : R.SYN_GRP d j ≠ R.SYN_GRP d k := by
  simp only [R.SYN_GRP]
  omega

/-- Changes of groups of `l` alone, each of which gives its group the assignment `r`. -/
theorem State.grpPart_each {f : State → Nat → State} {d : Nat} {r : Option Nat} (only : ∀ (s : State) k, s.OnlyRegs (f s k) fun b => b = R.SYN_GRP d k)
    (turn : ∀ (s : State) k, (f s k).grpPart d k = r) {l : List Nat} (nd : l.Nodup) (s : State) (k : Nat) :
    (s.each l f).grpPart d k = if k ∈ l then r else s.grpPart d k := by
  have away (u : State) {j : Nat} (ne : j ≠ k) : (f u j).grpPart d k = u.grpPart d k := State.grpPart_congr ((only u j).2 _ (synGrp_ne ne.symm))
  split
  next hk =>
    exact State.each_visit (P := fun _ => True) (Q := fun t => t.grpPart d k = r) nd hk (fun _ _ _ _ _ => trivial) (fun t _ => turn t k)
      (fun t j _ ne h => (away t ne).trans h) trivial
  next hk =>
    exact State.each_keeps_mem (fun t => t.grpPart d k = s.grpPart d k) (fun t j hj h => (away t fun e => hk (e ▸ hj)).trans h) rfl

section
variable {s t : State} {d p : Nat} {l : List Nat}

theorem State.groupsOf_given (nd : l.Nodup) (free : ∀ k ∈ l, k ∈ s.freeGroups d)
    (at_ : ∀ k, t.grpPart d k = if k ∈ l then some p else s.grpPart d k) :
    (t.groupsOf d p).length = (s.groupsOf d p).length + l.length ∧ ∀ q ≠ p, t.groupsOf d q = s.groupsOf d q := by
  refine ⟨?_, fun q hq => State.groupsOf_congr fun k _ => ?_⟩
  · have apart : (s.groupsOf d p ++ l).Nodup := by
      refine List.Nodup.append (s.groupsOf_nodup d p) nd fun k own new => ?_
      have := (State.mem_groupsOf.mp own).2.symm.trans (State.mem_freeGroups.mp (free k new)).2
      exact absurd this nofun
    rw [← List.length_append]
    refine ((List.perm_ext_iff_of_nodup (t.groupsOf_nodup d p) apart).mpr fun k => ?_).length_eq
    rw [List.mem_append, State.mem_groupsOf, State.mem_groupsOf, at_]
    by_cases hk : k ∈ l
    · simp [hk, (State.mem_freeGroups.mp (free k hk)).1]
    · simp [hk]
  · rw [at_]
    split
    next hk => simp [(State.mem_freeGroups.mp (free k hk)).2, hq.symm]
    next => rfl

theorem State.groupsOf_taken (nd : l.Nodup) (own : ∀ k ∈ l, k ∈ s.groupsOf d p)
    (at_ : ∀ k, t.grpPart d k = if k ∈ l then none else s.grpPart d k) :
    (t.groupsOf d p).length + l.length = (s.groupsOf d p).length ∧ ∀ q ≠ p, t.groupsOf d q = s.groupsOf d q := by
  refine ⟨?_, fun q hq => State.groupsOf_congr fun k _ => ?_⟩
  · have apart : (t.groupsOf d p ++ l).Nodup := by
      refine List.Nodup.append (t.groupsOf_nodup d p) nd fun k left gone => ?_
      have := (State.mem_groupsOf.mp left).2
      rw [at_, if_pos gone] at this
      exact absurd this nofun
    rw [← List.length_append]
    refine ((List.perm_ext_iff_of_nodup apart (s.groupsOf_nodup d p)).mpr fun k => ?_).length_eq
    rw [List.mem_append, State.mem_groupsOf, State.mem_groupsOf, at_]
    by_cases hk : k ∈ l
    · simp [hk, State.mem_groupsOf.mp (own k hk)]
    · simp [hk]
  · rw [at_]
    split
    next hk => simp [(State.mem_groupsOf.mp (own k hk)).2, hq.symm]
    next => rfl

end

/-! ## The quota of one die -/

/-- The groups of a die brought to `n` for a partition, before the USED flags of its tiles follow. -/
def State.quotaSet (s : State) (p n d : Nat) : State :=
  if (s.groupsOf d p).length < n then s.each ((s.freeGroups d).take (n - (s.groupsOf d p).length)) (State.grpGive p d)
  else s.each ((((s.groupsOf d p).filter (s.unowned d)).reverse).take ((s.groupsOf d p).length - n)) (State.grpTake d)

/-- What SYNC_QUOTA does at one die. -/
def State.quotaTurn (p n : Nat) (s : State) (d : Nat) : State := (s.quotaSet p n d).markUsed d

/-- The die has the groups that a quota of `n` needs. -/
structure State.QuotaOk (s : State) (p n d : Nat) : Prop where
  enough : n ≤ (s.groupsOf d p).length + (s.freeGroups d).length
  loose : (s.groupsOf d p).length ≤ ((s.groupsOf d p).filter (s.unowned d)).length + n

theorem State.keepsRegs_quotaSet (s : State) (p n d : Nat) : s.KeepsRegs (s.quotaSet p n d) fun r => ∃ k < 64, r = R.SYN_GRP d k := by
  unfold State.quotaSet
  split
  · refine State.keepsRegs_each _ (fun t k hk => ((t.onlyRegs_grpGive p d k).mono fun _ h => ⟨k, ?_, h⟩).2) s
    exact (State.mem_freeGroups.mp (List.mem_of_mem_take hk)).1
  · refine State.keepsRegs_each _ (fun t k hk => ((t.onlyRegs_grpTake d k).mono fun _ h => ⟨k, ?_, h⟩).2) s
    exact (State.mem_groupsOf.mp (List.mem_filter.mp (List.mem_reverse.mp (List.mem_of_mem_take hk))).1).1

theorem State.groupsOf_quotaSet {s : State} {p n d : Nat} (hp : p < 16) (ok : s.QuotaOk p n d) :
    ((s.quotaSet p n d).groupsOf d p).length = n ∧ ∀ q ≠ p, (s.quotaSet p n d).groupsOf d q = s.groupsOf d q := by
  obtain ⟨enough, loose⟩ := ok
  unfold State.quotaSet
  split
  next short =>
    have nd : ((s.freeGroups d).take (n - (s.groupsOf d p).length)).Nodup := (s.freeGroups_nodup d).sublist (List.take_sublist _ _)
    obtain ⟨len, others⟩ := State.groupsOf_given nd (fun k hk => List.mem_of_mem_take hk)
      (State.grpPart_each (fun t k => t.onlyRegs_grpGive p d k) (fun t k => t.grpPart_grpGive hp d k) nd s)
    rw [List.length_take] at len
    exact ⟨by omega, others⟩
  next long =>
    have nd : ((((s.groupsOf d p).filter (s.unowned d)).reverse).take ((s.groupsOf d p).length - n)).Nodup :=
      (List.nodup_reverse.mpr ((s.groupsOf_nodup d p).filter _)).sublist (List.take_sublist _ _)
    obtain ⟨len, others⟩ := State.groupsOf_taken nd (fun k hk => (List.mem_filter.mp (List.mem_reverse.mp (List.mem_of_mem_take hk))).1)
      (State.grpPart_each (fun t k => t.onlyRegs_grpTake d k) (fun t k => t.grpPart_grpTake d k) nd s)
    rw [List.length_take, List.length_reverse] at len
    exact ⟨by omega, others⟩

/-! ## The registers that decide a die's quota -/

/-- The semaphores and groups of a die. -/
def SemRegs (d a : Nat) : Prop := (∃ k < 64, a = R.SYN_GRP d k) ∨ ∃ i < 2048, a = R.SYN_SEM d i

theorem synRegs_hidden {d a : Nat} (hd : d < 24) (h : SemRegs d a) : ¬ ShowRegs a := by
  have base := dieBase_mod d
  rcases h with ⟨k, hk, rfl⟩ | ⟨i, hi, rfl⟩
  · simp only [ShowRegs, R.SYN_GRP, Blk.syn, dieBase, if_pos hd]
    omega
  · simp only [ShowRegs, R.SYN_SEM, Blk.syn, dieBase, if_pos hd]
    omega

theorem semRegs_apart {d e a : Nat} (hd : d < 24) (he : e < 24) (ne : e ≠ d) (h : SemRegs d a) : ¬ ∃ k < 64, a = R.SYN_GRP e k := by
  rintro ⟨j, hj, at_⟩
  rcases h with ⟨k, hk, rfl⟩ | ⟨i, hi, rfl⟩
  · simp only [R.SYN_GRP, Blk.syn, dieBase, if_pos hd, if_pos he] at at_
    omega
  · simp only [R.SYN_GRP, R.SYN_SEM, Blk.syn, dieBase, if_pos hd, if_pos he] at at_
    omega

section
variable {s t : State} {d : Nat}

theorem State.groupsOf_same (same : ∀ a, SemRegs d a → t.rd a = s.rd a) (p : Nat) : t.groupsOf d p = s.groupsOf d p :=
  State.groupsOf_congr fun k hk => by rw [State.grpPart_congr (same _ (.inl ⟨k, hk, rfl⟩))]

theorem State.freeGroups_same (same : ∀ a, SemRegs d a → t.rd a = s.rd a) : t.freeGroups d = s.freeGroups d :=
  List.filter_congr fun k hk => by rw [State.grpPart_congr (same _ (.inl ⟨k, List.mem_range.mp hk, rfl⟩))]

theorem State.unowned_same (same : ∀ a, SemRegs d a → t.rd a = s.rd a) {k : Nat} (hk : k < 64) : t.unowned d k = s.unowned d k := by
  unfold State.unowned State.owned
  refine congrArg not (Bool.eq_iff_iff.mpr ?_)
  rw [List.any_eq_true, List.any_eq_true]
  refine exists_congr fun j => and_congr_right fun hj => ?_
  have := List.mem_range.mp hj
  rw [State.flag_congr (State.fget_of_rd rfl (same _ (.inr ⟨32 * k + j, by omega, rfl⟩)))]

theorem State.QuotaOk.same {p n : Nat} (same : ∀ a, SemRegs d a → t.rd a = s.rd a) (ok : s.QuotaOk p n d) : t.QuotaOk p n d := by
  obtain ⟨enough, loose⟩ := ok
  have free : (s.groupsOf d p).filter (t.unowned d) = (s.groupsOf d p).filter (s.unowned d) :=
    List.filter_congr fun k hk => State.unowned_same same (State.mem_groupsOf.mp hk).1
  exact ⟨by rw [State.groupsOf_same same, State.freeGroups_same same]; exact enough, by rw [State.groupsOf_same same, free]; exact loose⟩

end

theorem State.quotaTurn_away (s : State) (p n : Nat) {d e : Nat} (hd : d < 24) (he : e < 24) (ne : e ≠ d) :
    ∀ a, SemRegs d a → (s.quotaTurn p n e).rd a = s.rd a := fun a ha =>
  ((s.quotaSet p n e).keepsRegs_markUsed e a (synRegs_hidden hd ha)).trans (s.keepsRegs_quotaSet p n e a (semRegs_apart hd he ne ha))

theorem State.groupsOf_quotaTurn {s : State} {p n d : Nat} (hp : p < 16) (hd : d < 24) (ok : s.QuotaOk p n d) :
    ((s.quotaTurn p n d).groupsOf d p).length = n ∧ ∀ q ≠ p, (s.quotaTurn p n d).groupsOf d q = s.groupsOf d q := by
  have marked (q : Nat) := State.groupsOf_same (fun a ha => (s.quotaSet p n d).keepsRegs_markUsed d a (synRegs_hidden hd ha)) q
  obtain ⟨len, others⟩ := State.groupsOf_quotaSet hp ok
  unfold State.quotaTurn
  exact ⟨(congrArg List.length (marked p)).trans len, fun q hq => (marked q).trans (others q hq)⟩

/-! ## The quotas of several dies -/

section
variable {s : State} {p n : Nat} {ds : List Nat} (inside : ∀ d ∈ ds, d < 24)
include inside

theorem State.quotas_away {d : Nat} (hd : d < 24) (h : d ∉ ds) (q : Nat) : (s.each ds (State.quotaTurn p n)).groupsOf d q = s.groupsOf d q :=
  State.each_keeps_mem (fun t => t.groupsOf d q = s.groupsOf d q)
    (fun t e he same => (State.groupsOf_same (t.quotaTurn_away p n hd (inside e he) fun eq => h (eq ▸ he)) q).trans same) rfl

theorem State.quotas_at (hp : p < 16) (nd : ds.Nodup) {d : Nat} (h : d ∈ ds) (ok : s.QuotaOk p n d) :
    ((s.each ds (State.quotaTurn p n)).groupsOf d p).length = n ∧ ∀ q ≠ p, (s.each ds (State.quotaTurn p n)).groupsOf d q = s.groupsOf d q := by
  have hd := inside d h
  refine State.each_visit (P := fun t => ∀ a, SemRegs d a → t.rd a = s.rd a)
    (Q := fun t => (t.groupsOf d p).length = n ∧ ∀ q ≠ p, t.groupsOf d q = s.groupsOf d q) nd h (fun t e he ne same a ha => ?_) (fun t same => ?_)
    (fun t e he ne ⟨len, others⟩ => ?_) fun _ _ => rfl
  · exact (t.quotaTurn_away p n hd (inside e he) ne a ha).trans (same a ha)
  · obtain ⟨len, others⟩ := State.groupsOf_quotaTurn hp hd (ok.same same)
    exact ⟨len, fun q hq => (others q hq).trans (State.groupsOf_same same q)⟩
  · have kept (q : Nat) := State.groupsOf_same (t.quotaTurn_away p n hd (inside e he) ne) q
    exact ⟨(congrArg List.length (kept p)).trans len, fun q hq => (kept q).trans (others q hq)⟩

end

/-- The dies that a mask names. -/
def maskDies (m : Nat) : List Nat := (List.range 24).filter fun d => m.testBit d

theorem mem_maskDies {m d : Nat} : d ∈ maskDies m ↔ d < 24 ∧ m.testBit d = true := by rw [maskDies, List.mem_filter, List.mem_range]

theorem cmdSyncQuota_ok {s : State} {fn : Fun} {p : Part} {m n : Nat} (pf : fn.val = 0) (hn : n ≤ 64) (ok : ∀ d ∈ maskDies m, s.QuotaOk p n d) :
    cmdSyncQuota fn p m n s = (s.each (maskDies m) (State.quotaTurn p n),
      .ok (lay (layList ((List.range 24).map fun d =>
        (8, (((s.each (maskDies m) (State.quotaTurn p n)).groupsOf d p).map fun k => 2 ^ k).foldl (· + ·) 0))))) := by
  unfold cmdSyncQuota
  refine State.cmd_ok ((firstBad_none_iff _).mpr ?_)
  simp only [List.forall_mem_cons, List.not_mem_nil, false_imp_iff, implies_true, and_true]
  refine ⟨badAt_false (decide_eq_false hn.not_gt), pfOnly_false pf, refuse_false ?_, refuse_false ?_⟩
  · exact List.any_eq_false.mpr fun d hd => by simpa using (ok d hd).enough
  · exact List.any_eq_false.mpr fun d hd => by simpa using (ok d hd).loose

end Sys2Proof.Machine
end

section
/-! PROOF. SYNC_CHANNEL (R195, R205): what a node's channel expects, and the nodes set one after the other. -/

namespace Sys2Proof.Machine

/-! ## Sums of different powers of two -/

theorem testBit_add_two_pow {a x : Nat} (new : a.testBit x = false) (i : Nat) : (a + 2 ^ x).testBit i = (a.testBit i || decide (i = x)) := by
  induction x generalizing a i with
  | zero =>
    rw [Nat.testBit_zero, decide_eq_false_iff_not] at new
    cases i with
    | zero =>
      rw [Nat.testBit_zero, Nat.testBit_zero, pow_zero]
      simp only [decide_true, Bool.or_true, decide_eq_true_eq]
      omega
    | succ i =>
      have half : (a + 2 ^ 0) / 2 = a / 2 := by omega
      rw [Nat.testBit_add_one, Nat.testBit_add_one, half]
      simp
  | succ x ih =>
    rw [Nat.testBit_add_one] at new
    have half : (a + 2 ^ (x + 1)) / 2 = a / 2 + 2 ^ x := by omega
    cases i with
    | zero =>
      rw [Nat.testBit_zero, Nat.testBit_zero, pow_succ]
      simp
    | succ i =>
      rw [Nat.testBit_add_one, half, ih new, ← Nat.testBit_add_one]
      simp

/-- The bits that a list names, as a node's EXPECT holds them. -/
def maskSum (xs : List Nat) : Nat := (xs.eraseDups.map fun x => 2 ^ x).foldl (· + ·) 0

theorem testBit_sum_two_pow {xs : List Nat} (nd : xs.Nodup) {a : Nat} (new : ∀ x ∈ xs, a.testBit x = false) (i : Nat) :
    ((xs.map fun x => 2 ^ x).foldl (· + ·) a).testBit i = (a.testBit i || decide (i ∈ xs)) := by
  induction xs generalizing a with
  | nil => simp
  | cons x xs ih =>
    obtain ⟨out, nd⟩ := List.nodup_cons.mp nd
    have first := testBit_add_two_pow (new x List.mem_cons_self)
    rw [List.map_cons, List.foldl_cons, ih nd fun y hy => ?_, first, Bool.or_assoc]
    · simp [List.mem_cons]
    · rw [first, new y (List.mem_cons_of_mem _ hy), Bool.false_or]
      exact decide_eq_false fun e => out (e ▸ hy)

theorem nodup_eraseDups (xs : List Nat) : xs.eraseDups.Nodup := by
  match xs with
  | [] => exact List.nodup_nil
  | x :: xs =>
    rw [List.eraseDups_cons, List.nodup_cons, List.mem_eraseDups, List.mem_filter]
    exact ⟨by simp, nodup_eraseDups _⟩
termination_by xs.length
decreasing_by exact Nat.lt_succ_of_le (List.length_filter_le _ _)

theorem testBit_maskSum (xs : List Nat) (i : Nat) : (maskSum xs).testBit i = decide (i ∈ xs) := by
  rw [maskSum, testBit_sum_two_pow (nodup_eraseDups xs) fun x _ => Nat.zero_testBit x, Nat.zero_testBit, Bool.false_or]
  exact decide_eq_decide.mpr List.mem_eraseDups

theorem maskSum_lt {xs : List Nat} {n : Nat} (h : ∀ x ∈ xs, x < n) : maskSum xs < 2 ^ n :=
  Nat.lt_pow_two_of_testBit _ fun i hi => by
    rw [testBit_maskSum]
    exact decide_eq_false fun hx => (h i hx).not_ge hi

theorem maskSum_ne_zero {xs : List Nat} : maskSum xs ≠ 0 ↔ ∃ x, x ∈ xs := by
  constructor
  · intro h
    obtain ⟨i, hi⟩ := Nat.exists_testBit_of_ne_zero h
    exact ⟨i, of_decide_eq_true ((testBit_maskSum xs i).symm.trans hi)⟩
  · rintro ⟨x, hx⟩
    exact ne_zero_of_testBit (i := x) ((testBit_maskSum xs x).trans (decide_eq_true hx))

/-! ## The nodes' registers -/

theorem mem_allNodes (n : BNode) : n ∈ allNodes := by
  unfold allNodes
  cases n with
  | cluster d c =>
    refine List.mem_append_left _ (List.mem_flatMap.mpr ⟨d, List.mem_finRange d, List.mem_cons_of_mem _ ?_⟩)
    exact List.mem_map.mpr ⟨c, List.mem_finRange c, rfl⟩
  | die d => exact List.mem_append_left _ (List.mem_flatMap.mpr ⟨d, List.mem_finRange d, List.mem_cons_self⟩)
  | pkg => exact List.mem_append_right _ List.mem_cons_self
  | fab => exact List.mem_append_right _ (List.mem_cons_of_mem _ List.mem_cons_self)

/-- The first address of a node's channels, and the bytes from one channel to the next. -/
def nodeSpan (n : BNode) : Nat × Nat :=
  match n with
  | .cluster d c => (0x10034000 + d.val * 0x1000000 + c.val * 0x200, 0x8)
  | .die d => (0x10035000 + d.val * 0x1000000, 0x8)
  | .pkg => (0x680000, 0x10)
  | .fab => (0x38080000, 0x20)

theorem nodeRegs_span {n : BNode} {ch a : Nat} (hc : ch < 64) (h : a ∈ nodeRegs n ch) :
    (nodeSpan n).1 ≤ a ∧ a < (nodeSpan n).1 + 64 * (nodeSpan n).2 := by
  cases n with
  | cluster d c =>
    rw [List.mem_singleton.mp h]
    simp only [nodeSpan, R.SYN_CLN, Blk.syn, dieBase, if_pos d.isLt]
    omega
  | die d =>
    rw [List.mem_singleton.mp h]
    simp only [nodeSpan, R.SYN_DIE, Blk.syn, dieBase, if_pos d.isLt]
    omega
  | pkg =>
    rw [List.mem_singleton.mp h]
    simp only [nodeSpan, R.PKN_CFG, Blk.step]
    omega
  | fab =>
    have base : Blk.fab 0 = 0x38000000 := rfl
    rcases List.mem_cons.mp h with rfl | h
    · simp only [nodeSpan, R.FBN_CFG, base]
      omega
    · rw [List.mem_singleton.mp h]
      simp only [nodeSpan, R.FBN_KIDS, base]
      omega

/-- The spans of two nodes lie apart: a die's node channels follow those of its clusters, and the others stand in blocks of their own. -/
theorem nodeSpan_apart {m n : BNode} {a : Nat} (hm : (nodeSpan m).1 ≤ a ∧ a < (nodeSpan m).1 + 64 * (nodeSpan m).2)
    (hn : (nodeSpan n).1 ≤ a ∧ a < (nodeSpan n).1 + 64 * (nodeSpan n).2) : m = n := by
  cases m with
  | cluster d c =>
    cases n with
    | cluster e b =>
      simp only [nodeSpan] at hm hn
      obtain rfl : d = e := Fin.ext (by omega)
      obtain rfl : c = b := Fin.ext (by omega)
      rfl
    | _ => simp only [nodeSpan] at hm hn; omega
  | die d =>
    cases n with
    | die e =>
      simp only [nodeSpan] at hm hn
      obtain rfl : d = e := Fin.ext (by omega)
      rfl
    | _ => simp only [nodeSpan] at hm hn; omega
  | pkg =>
    cases n with
    | pkg => rfl
    | _ => simp only [nodeSpan] at hm hn; omega
  | fab =>
    cases n with
    | fab => rfl
    | _ => simp only [nodeSpan] at hm hn; omega

theorem nodeRegs_apart {m n : BNode} {ch a : Nat} (hc : ch < 64) (ne : m ≠ n) (h : a ∈ nodeRegs n ch) : a ∉ nodeRegs m ch :=
  fun k => ne (nodeSpan_apart (nodeRegs_span hc k) (nodeRegs_span hc h))

theorem State.onlyRegs_fabTree (s : State) (ch p : Nat) : s.OnlyRegs (s.fabTree ch p) (· ∈ nodeRegs .fab ch) := by
  have cfg {t : State} {f : Fld} (h : s.OnlyRegs t (· ∈ nodeRegs .fab ch)) (hf : f.half = 0) (n : Nat) :
      s.OnlyRegs (t.fset (R.FBN_CFG 0 ch) f n) (· ∈ nodeRegs .fab ch) := h.fset hf List.mem_cons_self n
  have kids {t : State} {f : Fld} (h : s.OnlyRegs t (· ∈ nodeRegs .fab ch)) (hf : f.half = 0) (n : Nat) :
      s.OnlyRegs (t.fset (R.FBN_KIDS 0 ch) f n) (· ∈ nodeRegs .fab ch) := h.fset hf (List.mem_cons_of_mem _ List.mem_cons_self) n
  unfold State.fabTree
  dsimp only
  split
  · exact cfg (cfg (cfg (cfg (cfg (kids (kids (.refl s _) rfl _) rfl _) rfl _) rfl _) rfl _) rfl _) rfl _
  · exact cfg (cfg (cfg (cfg (cfg (kids (kids (.refl s _) rfl _) rfl _) rfl _) rfl _) rfl _) rfl _) rfl _

theorem State.onlyRegs_nodeSet (s : State) (n : BNode) (ch p scope : Nat) (schild : Bool) (l : List Nat) :
    s.OnlyRegs (s.nodeSet n ch p scope schild l) (· ∈ nodeRegs n ch) := by
  unfold State.nodeSet
  dsimp only
  cases n with
  | cluster d c => exact (((State.OnlyRegs.refl s _).fset rfl List.mem_cons_self _).fset rfl List.mem_cons_self _).fset rfl List.mem_cons_self _
  | die d => exact (((State.OnlyRegs.refl s _).fset rfl List.mem_cons_self _).fset rfl List.mem_cons_self _).fset rfl List.mem_cons_self _
  | pkg =>
    have base := (((State.OnlyRegs.refl s (· ∈ nodeRegs .pkg ch)).fset (a := R.PKN_CFG ch) (f := F.PKN_CFG_EXPECT) rfl List.mem_cons_self
      (if scope < 2 then 0 else maskSum (l.map fun g => g / 64))).fset (f := F.PKN_CFG_TOP) rfl List.mem_cons_self (bit (decide (scope = 2)))).fset
        (f := F.PKN_CFG_EN) rfl List.mem_cons_self (bit (decide (2 ≤ scope)))
    dsimp only
    split
    · exact base.fset rfl List.mem_cons_self _
    · exact base
  | fab =>
    dsimp only
    split
    · exact s.onlyRegs_fabTree ch p
    · have kids := ((State.OnlyRegs.refl s (· ∈ nodeRegs .fab ch)).fset (a := R.FBN_KIDS 0 ch) (f := F.FBN_KIDS_LINKS) rfl
        (List.mem_cons_of_mem _ List.mem_cons_self) 0).fset (a := R.FBN_KIDS 0 ch) (f := F.FBN_KIDS_SELF) rfl (List.mem_cons_of_mem _ List.mem_cons_self) 0
      exact (kids.fset rfl List.mem_cons_self 0).fset rfl List.mem_cons_self 0

/-! ## What each node holds afterwards -/

/-- A fold that brings about `Q` at one of its elements, whatever the state, and keeps it at the others. -/
theorem State.each_reaches {α : Type} {Q : State → Prop} {f : State → α → State} {l : List α} {x : α} (hx : x ∈ l) (turn : ∀ s, Q (f s x))
    (keep : ∀ s, ∀ y ∈ l, y ≠ x → Q s → Q (f s y)) (s : State) : Q (s.each l f) := by
  obtain ⟨pre, post, rfl⟩ := List.append_of_mem hx
  rw [State.each_append, State.each_cons]
  refine State.each_keeps_mem Q (fun t y hy h => ?_) (turn _)
  by_cases e : y = x
  · exact e ▸ turn t
  · exact keep t y (List.mem_append_right _ (List.mem_cons_of_mem _ hy)) e h

/-- Every node set for a tile list. -/
def State.channelSet (s : State) (ch p scope : Nat) (schild : Bool) (l : List Nat) : State := s.each allNodes fun s n => s.nodeSet n ch p scope schild l

/-- What the set of one node brings about in its registers still stands when every node is set. -/
theorem State.channelSet_node {ch p scope : Nat} {schild : Bool} {l : List Nat} (hc : ch < 64) (n : BNode) {Q : State → Prop}
    (own : ∀ s t : State, (∀ a ∈ nodeRegs n ch, t.rd a = s.rd a) → Q s → Q t)
    (turn : ∀ s : State, Q (s.nodeSet n ch p scope schild l)) (s : State) :
    Q (s.channelSet ch p scope schild l) :=
  State.each_reaches (mem_allNodes n) turn
    (fun t m _ ne h => own t _ (fun a ha => (t.onlyRegs_nodeSet m ch p scope schild l).2 a (nodeRegs_apart hc ne ha)) h) s

section
variable (s : State) {ch : Nat} (p scope : Nat) (schild : Bool) (l : List Nat)

/-- The tiles of `l` in a cluster, by their numbers in it. -/
def clusterMask (d c : Nat) (l : List Nat) : Nat := maskSum ((l.filter fun g => decide (g / 64 = d ∧ g % 64 / 8 = c)).map fun g => g % 8)

theorem testBit_clusterMask {d c k : Nat} (hc : c < 8) (hk : k < 8) : (clusterMask d c l).testBit k = decide (d * 64 + c * 8 + k ∈ l) := by
  rw [clusterMask, testBit_maskSum]
  refine decide_eq_decide.mpr ?_
  simp only [List.mem_map, List.mem_filter, decide_eq_true_eq]
  constructor
  · rintro ⟨g, ⟨hg, hd, hc⟩, rfl⟩
    rwa [show d * 64 + c * 8 + g % 8 = g by omega]
  · exact fun h => ⟨_, ⟨h, by omega, by omega⟩, by omega⟩

theorem clusterMask_ne_zero {d c : Nat} (hc : c < 8) : clusterMask d c l ≠ 0 ↔ ∃ g ∈ l, g / 8 = d * 8 + c := by
  rw [clusterMask, maskSum_ne_zero]
  simp only [List.mem_map, List.mem_filter, decide_eq_true_eq]
  constructor
  · rintro ⟨-, g, ⟨hg, hd, hc⟩, rfl⟩
    exact ⟨g, hg, by omega⟩
  · rintro ⟨g, hg, e⟩
    exact ⟨_, g, ⟨hg, by omega, by omega⟩, rfl⟩

theorem clusterMask_lt (d c : Nat) : clusterMask d c l < 2 ^ 8 := by
  refine maskSum_lt fun x hx => ?_
  obtain ⟨g, -, rfl⟩ := List.mem_map.mp hx
  exact Nat.mod_lt _ (by decide)

/-- The cluster node expects the tiles of `l` in it; it is enabled where there are any, and the top of a channel of scope 0. -/
def State.ClusterFor (t : State) (d c ch scope : Nat) (l : List Nat) : Prop :=
  t.fget (R.SYN_CLN d c ch) F.SYN_CLN_EXPECT = clusterMask d c l ∧
    t.flag (R.SYN_CLN d c ch) F.SYN_CLN_EN = decide (∃ g ∈ l, g / 8 = d * 8 + c) ∧
    t.flag (R.SYN_CLN d c ch) F.SYN_CLN_TOP = decide (scope = 0 ∧ ∃ g ∈ l, g / 8 = d * 8 + c)

/-- The die node is enabled above scope 0 where `l` has tiles on the die, and the top of a channel of scope 1. -/
def State.DieFor (t : State) (d ch scope : Nat) (l : List Nat) : Prop :=
  t.flag (R.SYN_DIE d ch) F.SYN_DIE_EN = decide (scope ≠ 0 ∧ ∃ g ∈ l, g / 64 = d) ∧
    t.flag (R.SYN_DIE d ch) F.SYN_DIE_TOP = decide (scope = 1 ∧ ∃ g ∈ l, g / 64 = d)

/-- The package node is enabled from scope 2, the top of a channel of scope 2, and waits for the step controller as asked. -/
def State.PkgFor (t : State) (ch scope : Nat) (schild : Bool) : Prop :=
  t.flag (R.PKN_CFG ch) F.PKN_CFG_EN = decide (2 ≤ scope) ∧ t.flag (R.PKN_CFG ch) F.PKN_CFG_TOP = decide (scope = 2) ∧
    (2 ≤ scope → t.flag (R.PKN_CFG ch) F.PKN_CFG_SCHILD = schild)

theorem State.nodeSet_cluster (d : CDie) (c : Fin 8) :
    s.nodeSet (.cluster d c) ch p scope schild l =
      ((s.fset (R.SYN_CLN d c ch) F.SYN_CLN_EXPECT (clusterMask d c l)).fset (R.SYN_CLN d c ch) F.SYN_CLN_TOP
        (bit (decide (clusterMask d c l ≠ 0 ∧ scope = 0)))).fset (R.SYN_CLN d c ch) F.SYN_CLN_EN (bit (decide (clusterMask d c l ≠ 0))) := rfl

theorem State.nodeSet_cluster_get (d : CDie) (c : Fin 8) : (s.nodeSet (.cluster d c) ch p scope schild l).ClusterFor d c ch scope l := by
  unfold State.ClusterFor
  have used := clusterMask_ne_zero l (d := d.val) c.isLt
  have fits := clusterMask_lt l d c
  rw [State.nodeSet_cluster]
  generalize clusterMask d c l = mask at *
  simp (disch := decide) only [State.flag_fset_bit, State.flag_fset_field, State.fget_fset, State.fget_fset_field]
  exact ⟨Nat.mod_eq_of_lt fits, decide_eq_decide.mpr used, decide_eq_decide.mpr (and_comm.trans (and_congr_right' used))⟩

/-- The clusters of a die with a tile of `l`. -/
def dieMask (d : Nat) (l : List Nat) : Nat := maskSum ((l.filter fun g => decide (g / 64 = d)).map fun g => g % 64 / 8)

theorem dieMask_ne_zero {d : Nat} : dieMask d l ≠ 0 ↔ ∃ g ∈ l, g / 64 = d := by
  rw [dieMask, maskSum_ne_zero]
  simp only [List.mem_map, List.mem_filter, decide_eq_true_eq]
  constructor
  · rintro ⟨-, g, ⟨hg, hd⟩, rfl⟩
    exact ⟨g, hg, hd⟩
  · rintro ⟨g, hg, hd⟩
    exact ⟨_, g, ⟨hg, hd⟩, rfl⟩

theorem State.nodeSet_die (d : CDie) :
    s.nodeSet (.die d) ch p scope schild l =
      ((s.fset (R.SYN_DIE d ch) F.SYN_DIE_EXPECT (if scope = 0 then 0 else dieMask d l)).fset (R.SYN_DIE d ch) F.SYN_DIE_TOP
        (bit (decide ((if scope = 0 then 0 else dieMask d l) ≠ 0 ∧ scope = 1)))).fset (R.SYN_DIE d ch) F.SYN_DIE_EN
          (bit (decide ((if scope = 0 then 0 else dieMask d l) ≠ 0))) := rfl

theorem State.nodeSet_die_get (d : CDie) : (s.nodeSet (.die d) ch p scope schild l).DieFor d ch scope l := by
  unfold State.DieFor
  have used := dieMask_ne_zero l (d := d.val)
  have narrow : (if scope = 0 then 0 else dieMask d l) ≠ 0 ↔ scope ≠ 0 ∧ ∃ g ∈ l, g / 64 = d.val := by
    split
    next h => simp [h]
    next h => simp [h, used]
  rw [State.nodeSet_die]
  generalize (if scope = 0 then 0 else dieMask d l) = mask at *
  simp (disch := decide) only [State.flag_fset_bit, State.flag_fset_field]
  refine ⟨decide_eq_decide.mpr narrow, decide_eq_decide.mpr ?_⟩
  rw [narrow]
  constructor
  · exact fun ⟨⟨_, h⟩, one⟩ => ⟨one, h⟩
  · exact fun ⟨one, h⟩ => ⟨⟨by omega, h⟩, one⟩

theorem State.nodeSet_pkg_get : (s.nodeSet .pkg ch p scope schild l).PkgFor ch scope schild := by
  unfold State.PkgFor State.nodeSet
  dsimp only
  split
  next wide =>
    simp (disch := decide) only [State.flag_fset_bit, State.flag_fset_field]
    exact ⟨trivial, trivial, fun _ => trivial⟩
  next narrow =>
    simp (disch := decide) only [State.flag_fset_bit, State.flag_fset_field]
    exact ⟨trivial, trivial, fun wide => absurd wide narrow⟩

theorem State.fabTree_en (s : State) (ch p : Nat) : (s.fabTree ch p).flag (R.FBN_CFG 0 ch) F.FBN_CFG_EN = true := by
  unfold State.fabTree
  dsimp only
  split
  · simp (disch := decide) only [State.flag_fset_one, State.flag_fset_field]
  · simp (disch := decide) only [State.flag_fset_one, State.flag_fset_field]

theorem State.nodeSet_fab_en : (s.nodeSet .fab ch p scope schild l).flag (R.FBN_CFG 0 ch) F.FBN_CFG_EN = decide (scope = 3) := by
  unfold State.nodeSet
  dsimp only
  split
  next h => rw [State.fabTree_en, decide_eq_true h]
  next h => rw [State.flag_fset_zero _ _ _ (by decide), decide_eq_false h]

end

/-! ## SYNC_CHANNEL -/

theorem cmdSyncChannel_ok {s : State} {fn : Fun} {p : Part} {ts : TileSet} (ok : s.TilesOk fn p ts) (ch : Fin 64) (scope : Fin 4) {schild : Bool}
    (nodes : ∀ n ∈ allNodes, s.nodePart n ch = p ∧ s.nodeBusy n ch = false) (wide : schild = true → 2 ≤ scope.val) :
    cmdSyncChannel fn p ch ts scope schild s =
      (s.channelSet ch p scope schild (s.tilesIn p ts)).told (allNodes.flatMap fun n => nodeRegs n ch) := by
  unfold cmdSyncChannel
  refine State.cmd_ok ((firstBad_none_iff _).mpr ?_)
  simp only [List.forall_mem_append, List.forall_mem_cons, List.not_mem_nil, false_imp_iff, implies_true, and_true]
  refine ⟨⟨⟨badAt_false (decide_eq_false (by omega)), badAt_false (decide_eq_false (by omega))⟩, tileChecks_none 2 ok⟩,
    refuse_false ?_, refuse_false ?_, refuse_false ?_⟩
  · exact List.any_eq_false.mpr fun n hn => by simp [(nodes n hn).1]
  · exact List.any_eq_false.mpr fun n hn => by simp [(nodes n hn).2]
  · cases schild with
    | false => rfl
    | true => exact (Bool.true_and _).trans (decide_eq_false (wide rfl).not_gt)

end Sys2Proof.Machine
end

section
/-! PROOF. Writes and commands of the synchronisation chapter (R177 to R180, R205 to R208): O30. -/

namespace Sys2Proof.Machine

/-! ## The nodes of a channel -/

section
variable (s : State) (ch : Fin 64) (p scope : Nat) (schild : Bool) (l : List Nat)

theorem State.channelSet_cluster (d : CDie) (c : Fin 8) : (s.channelSet ch p scope schild l).ClusterFor d c ch scope l := by
  refine State.channelSet_node ch.isLt (.cluster d c) (Q := fun t => t.ClusterFor d c ch scope l) (fun u t same ⟨expect, en, top⟩ => ?_)
    (fun t => t.nodeSet_cluster_get p scope schild l d c) s
  have kept (f : Fld) (hf : f.half = 0) : t.fget (R.SYN_CLN d c ch) f = u.fget (R.SYN_CLN d c ch) f :=
    State.fget_of_rd hf (same _ List.mem_cons_self)
  exact ⟨(kept _ rfl).trans expect, (State.flag_congr (kept _ rfl)).trans en, (State.flag_congr (kept _ rfl)).trans top⟩

theorem State.channelSet_die (d : CDie) : (s.channelSet ch p scope schild l).DieFor d ch scope l := by
  refine State.channelSet_node ch.isLt (.die d) (Q := fun t => t.DieFor d ch scope l) (fun u t same ⟨en, top⟩ => ?_)
    (fun t => t.nodeSet_die_get p scope schild l d) s
  have kept (f : Fld) (hf : f.half = 0) : t.flag (R.SYN_DIE d ch) f = u.flag (R.SYN_DIE d ch) f :=
    State.flag_congr (State.fget_of_rd hf (same _ List.mem_cons_self))
  exact ⟨(kept _ rfl).trans en, (kept _ rfl).trans top⟩

theorem State.channelSet_pkg : (s.channelSet ch p scope schild l).PkgFor ch scope schild := by
  refine State.channelSet_node ch.isLt .pkg (Q := fun t => t.PkgFor ch scope schild) (fun u t same ⟨en, top, child⟩ => ?_)
    (fun t => t.nodeSet_pkg_get p scope schild l) s
  have kept (f : Fld) (hf : f.half = 0) : t.flag (R.PKN_CFG ch) f = u.flag (R.PKN_CFG ch) f :=
    State.flag_congr (State.fget_of_rd hf (same _ List.mem_cons_self))
  exact ⟨(kept _ rfl).trans en, (kept _ rfl).trans top, fun wide => (kept _ rfl).trans (child wide)⟩

theorem State.channelSet_fab : (s.channelSet ch p scope schild l).flag (R.FBN_CFG 0 ch) F.FBN_CFG_EN = decide (scope = 3) :=
  State.channelSet_node ch.isLt .fab (Q := fun t => t.flag (R.FBN_CFG 0 ch) F.FBN_CFG_EN = decide (scope = 3))
    (fun _ _ same en => (State.flag_congr (State.fget_of_rd rfl (same _ List.mem_cons_self))).trans en) (fun t => t.nodeSet_fab_en p scope schild l) s

end

/-! ## O30 -/

theorem syncQuota_answers (s : State) (fn : Fun) (p : Part) (dies : BitVec 24) (n : Nat) (hm : s.Mail) (pf : fn.val = 0) (hn : n ≤ 64)
    (room : ∀ d : CDie, dies.toNat.testBit d = true → n ≤ (s.groupsOf d p).length + (s.freeGroups d).length ∧
      (s.groupsOf d p).length ≤ ((s.groupsOf d p).filter (s.unowned d)).length + n) :
    Answers (.syncQuota fn p dies n) fn 0x0500 s fun t out =>
      (∀ d : CDie, dies.toNat.testBit d = true → (t.groupsOf d p).length = n) ∧
      (∀ d : CDie, dies.toNat.testBit d = false → t.groupsOf d p = s.groupsOf d p) ∧
      (∀ d : CDie, ∀ q : Part, q ≠ p → t.groupsOf d q = s.groupsOf d q) ∧
      out = lay (layList ((List.range 24).map fun d => (8, ((t.groupsOf d p).map fun k => 2 ^ k).foldl (· + ·) 0))) := by
  have ok : ∀ d ∈ maskDies dies.toNat, s.QuotaOk p n d := fun d hd =>
    have ⟨lt, bit⟩ := mem_maskDies.mp hd
    have ⟨enough, loose⟩ := room ⟨d, lt⟩ bit
    ⟨enough, loose⟩
  have inside : ∀ d ∈ maskDies dies.toNat, d < 24 := fun d hd => (mem_maskDies.mp hd).1
  have named {d : CDie} (h : dies.toNat.testBit d = true) := State.quotas_at inside p.isLt (List.nodup_range.filter _) (mem_maskDies.mpr ⟨d.isLt, h⟩)
    (ok d (mem_maskDies.mpr ⟨d.isLt, h⟩))
  have unnamed {d : CDie} (h : dies.toNat.testBit d = false) (q : Nat) := State.quotas_away (s := s) (p := p) (n := n) inside d.isLt
    (fun k => Bool.false_ne_true (h.symm.trans (mem_maskDies.mp k).2)) q
  refine answers_of_row (fun _ => rfl) hm (cmdSyncQuota_ok pf hn ok) ⟨fun d h => (named h).1, fun d h => unnamed h p, fun d q ne => ?_, rfl⟩
  cases h : dies.toNat.testBit d with
  | true => exact (named h).2 q fun e => ne (Fin.ext e)
  | false => exact unnamed h q

theorem syncChannel_answers (s : State) (fn : Fun) (p : Part) (ch : Fin 64) (ts : TileSet) (scope : Fin 4) (schild : Bool) (hm : s.Mail)
    (ok : s.TilesOk fn p ts) (nodes : ∀ n ∈ allNodes, s.nodePart n ch = p ∧ s.nodeBusy n ch = false) (wide : schild = true → 2 ≤ scope.val) :
    Answers (.syncChannel fn p ch ts scope schild) fn 0x0502 s fun t out =>
      out = t.toldBytes (allNodes.flatMap fun n => nodeRegs n ch) ∧
      (∀ (d : CDie) (c : Fin 8), (∀ k : Fin 8, (t.fget (R.SYN_CLN d c ch) F.SYN_CLN_EXPECT).testBit k =
          decide (d.val * 64 + c.val * 8 + k.val ∈ s.tilesIn p ts)) ∧
        t.flag (R.SYN_CLN d c ch) F.SYN_CLN_EN = decide (∃ g ∈ s.tilesIn p ts, g / 8 = d.val * 8 + c.val) ∧
        t.flag (R.SYN_CLN d c ch) F.SYN_CLN_TOP = decide (scope = 0 ∧ ∃ g ∈ s.tilesIn p ts, g / 8 = d.val * 8 + c.val)) ∧
      (∀ d : CDie, t.flag (R.SYN_DIE d ch) F.SYN_DIE_EN = decide (scope ≠ 0 ∧ ∃ g ∈ s.tilesIn p ts, g / 64 = d.val) ∧
        t.flag (R.SYN_DIE d ch) F.SYN_DIE_TOP = decide (scope = 1 ∧ ∃ g ∈ s.tilesIn p ts, g / 64 = d.val)) ∧
      t.flag (R.PKN_CFG ch) F.PKN_CFG_EN = decide (2 ≤ scope.val) ∧ t.flag (R.PKN_CFG ch) F.PKN_CFG_TOP = decide (scope = 2) ∧
      (2 ≤ scope.val → t.flag (R.PKN_CFG ch) F.PKN_CFG_SCHILD = schild) ∧ t.flag (R.FBN_CFG 0 ch) F.FBN_CFG_EN = decide (scope = 3) := by
  have zero : scope = 0 ↔ scope.val = 0 := Fin.ext_iff
  have one : scope = 1 ↔ scope.val = 1 := Fin.ext_iff
  have two : scope = 2 ↔ scope.val = 2 := Fin.ext_iff
  have three : scope = 3 ↔ scope.val = 3 := Fin.ext_iff
  obtain ⟨en, top, child⟩ := s.channelSet_pkg ch p scope schild (s.tilesIn p ts)
  refine answers_of_row (fun _ => rfl) hm (cmdSyncChannel_ok ok ch scope nodes wide) ⟨rfl, fun d c => ?_, fun d => ?_, en, ?_, child, ?_⟩
  · obtain ⟨expect, en, top⟩ := s.channelSet_cluster ch p scope schild (s.tilesIn p ts) d c
    simp only [zero]
    exact ⟨fun k => by rw [expect]; exact testBit_clusterMask _ c.isLt k.isLt, en, top⟩
  · simp only [ne_eq, zero, one]
    exact s.channelSet_die ch p scope schild (s.tilesIn p ts) d
  · simp only [two]
    exact top
  · simp only [three]
    exact s.channelSet_fab ch p scope schild (s.tilesIn p ts)

theorem syncStatus_answers (s : State) (fn : Fun) (p : Part) (clr : Bool) (hm : s.Mail) (own : OwnFn fn p) :
    Answers (.syncStatus fn p clr) fn 0x0505 s fun t out =>
      (clr = false → t = s) ∧
      (clr = true → ∀ g ∈ s.tilesOf p, t.rd (R.TIL_SYNCNT0 g) = 0 ∧ t.rd (R.TIL_SYNCNT1 g) = 0) ∧
      (s.KeepsRegs t fun r => ∃ g ∈ s.tilesOf p, R.TIL_SYNCNT0 g ≤ r ∧ r < R.TIL_SYNCNT0 g + 16) ∧
      ∃ front, out = lay (front ++ s.tileSums (s.tilesOf p) [(R.TIL_SYNCNT0, F.TIL_SYNCNT0_CLOSECALL),
        (R.TIL_SYNCNT0, F.TIL_SYNCNT0_STALE), (R.TIL_SYNCNT1, F.TIL_SYNCNT1_TMOFIRED), (R.TIL_SYNCNT1, F.TIL_SYNCNT1_SPURIOUS)]) := by
  obtain ⟨front, run⟩ := cmdSyncStatus_ok (s := s) own clr
  refine answers_of_row (fun _ => rfl) hm run ?_
  cases clr with
  | false =>
    rw [if_neg Bool.false_ne_true]
    exact ⟨fun _ => rfl, nofun, .refl s, front, rfl⟩
  | true =>
    rw [if_pos rfl]
    exact ⟨nofun, fun _ => s.syncCountsCleared_get (s.tilesOf_nodup p) fun _ => State.tilesOf_lt, s.keepsRegs_syncCountsCleared _, front, rfl⟩

/-- Settles O30: the checks of each command pass under its conditions, a wake finds no test where none is posted, and each write and
command leaves the fields it names in registers that its other writes do not touch. -/
theorem syncWritesAndCommandsComplete : Obligations.SyncWritesAndCommandsComplete := by
  unfold Obligations.SyncWritesAndCommandsComplete
  refine ⟨synSemWrite_sets, tilAliasWrite_sets, fun s g a v live h => ?_, tilArcWrite_sets, syncQuota_answers,
    fun s fn p g a idx count quant mode hm own part stopped hc hq hmode group free unposted idle => ?_,
    fun s fn p g a idx count quant mode hm own part stopped hc hq hmode idle => ?_,
    fun s fn p g a idx count quant mode hm own part stopped hc hq hmode ok => ?_, syncChannel_answers,
    fun s fn p ts j cycles hm ok lo hi => ?_, fun s fn p g n count hm own part hc unposted => ?_, syncStatus_answers⟩
  · exact (onLive_live live fun s => s.aliasWrite g a v.toNat).trans (congrArg _ (State.aliasWrite_refused h))
  · exact answers_of_row (fun _ => rfl) hm (cmdSyncMap_pool ⟨own, part, stopped, hc, hq, hmode⟩ a idx group free)
      ⟨rfl, syncMap_pool a idx stopped hc unposted idle⟩
  · exact answers_of_row (fun _ => rfl) hm (cmdSyncMap_arc ⟨own, part, stopped, hc, hq, hmode⟩ a idx) ⟨rfl, syncMap_arc a idx stopped hc hq hmode idle⟩
  · exact answers_of_row (fun _ => rfl) hm (cmdSyncMap_bar ⟨own, part, stopped, hc, hq, hmode⟩ a idx ok) ⟨rfl, syncMap_bar a idx stopped hc ok⟩
  · exact answers_of_row (fun _ => rfl) hm (cmdSyncTimeout_ok ok lo hi _) ⟨rfl, syncTimeout_get s _ j cycles⟩
  · refine answers_of_row (fun _ => rfl) hm (ok_cmdSyncRearm own part n hc) ⟨rfl, ?_⟩
    rw [State.unposted_rearm g.isLt n.isLt _ unposted]
    obtain ⟨count', seg, expired⟩ := s.arcCleared_get g n hc
    exact ⟨count', seg, expired, s.onlyRegs_arcCleared ..⟩

end Sys2Proof.Machine
end
